-- ==== Sys2Proof/Word.lean ====
section
/-!
DEFINITION. The words of the machine: registers, addresses, instruction words, bytes (R8, R17, R41, R114).
-/
namespace Sys2Proof

/-- A 64-bit register or queue value (R17, R18). -/
abbrev W := BitVec 64

/-- One byte of memory. -/
abbrev Byte := BitVec 8

/-- A 32-bit instruction word (R41). -/
abbrev Word32 := BitVec 32

/-- A 56-bit program or virtual address (R114, R172). -/
abbrev Addr := BitVec 56

/-- An agent-and-slot value without its zero bits: bit 12 is H, bits 11 to 0 the agent number (R16). -/
abbrev HartId := BitVec 13

/-- A 5-bit operand selector (R45). -/
abbrev Sel := BitVec 5

end Sys2Proof
end

