-- ==== Sys2Proof/Config.lean ====
section
/-!
DEFINITION. What an implementation fixes and the free values: constants without a body, so that nothing can be proved
of their values. State what each stands for and the log entry that names it.
-/
namespace Sys2Proof.Config

/-- SHA-384, a standard the spec names and does not define (R440, R442, R456, R459; log entry 6). -/
opaque sha384 : List Byte → List Byte
/-- Whether an Ed25519 signature over some bytes verifies under the public key in the boot ROM (R456; log entry 6). -/
opaque ed25519Verifies : List Byte → List Byte → Bool
/-- Whether an ML-DSA-65 signature over some bytes verifies under the public key in the boot ROM (R456; log entry 6). -/
opaque mldsa65Verifies : List Byte → List Byte → Bool
/-- The Ed25519 and ML-DSA-65 signatures of a report (R459; log entry 6). -/
opaque reportSignatures : List Byte → List Byte
/-- The address of the header of the free-record queue that the resident kernel supplies for a context (R236; log entry 5). -/
opaque kernelFreeq : BitVec 16 → Addr
/-- The address of the header of the ready queue that the resident kernel supplies for a context (R236; log entry 5). -/
opaque kernelReadyq : BitVec 16 → Addr
/-- The entry PC of the resident kernel's handler of channel 4 or 5 (R435; log entry 5). -/
opaque kernelHandler : Nat → Addr
/-- The physical address of the n-th raw record of a die's fault-report pool (R347; log entry 7). -/
opaque faultRecord : Nat → Nat → Nat
/-- The byte that the partner of a carter port answers for an address in the remote window, at a cycle (R453; log entry 8). -/
opaque remoteByte : Nat → Nat → Byte
/-- Whether the value of an NREAD arrives within its time-out, by the cycle of issue (R255; log entry 10). -/
opaque nreadInTime : Nat → Bool
/-- Whether a 32-byte unit that an OLD or ALD meeting uncorrectable data loads is written before the failure, by the
cycle and the unit (R293, R299; log entry 11). -/
opaque unitWritten : Nat → Nat → Bool
/-- What PHYS holds in a report about a pool word, which no physical address names, by the core and the pool offset (R346;
log entry 13). -/
opaque poolPhys : Nat → Nat → Nat
/-- What PHYS holds in a report about operand memory, which no physical address names, by the cluster and the offset (R346;
log entry 13). -/
opaque operandPhys : Nat → Nat → Nat
/-- A byte of an operand slot that holds uncorrectable data, as a matrix command reads it, by the cluster, the offset and the
cycle (R343, R344; log entry 68). -/
opaque poisonedOperand : Nat → Nat → Nat → Byte
/-- DETAIL of a report about a memory error: the failing layer or device, or the syndrome, by a cycle count (R346; log
entry 13). -/
opaque errorDetail : Nat → BitVec 64
/-- The resident kernel image within a firmware body (R441, R456; log entry 6). -/
opaque kernelImage : List Byte → List Byte
/-- The agent numbers of the units that fail the array and lane tests of a cold start, by a cycle count (R457, R460; log entry
15). -/
opaque failingUnits : Nat → List Nat
/-- How long a write of the flash takes, by a cycle count (R456; log entry 58). -/
opaque flashCycles : Nat → Nat
/-- RESULT of the mailbox's report that the resident kernel image fails its hash at a warm restart (R442; log entry 82). -/
opaque mismatchResult : BitVec 8
/-- How long the warm restart of a crash takes to begin, by a cycle count (R442; log entry 14). -/
opaque restartDelay : Nat → Nat
/-- How much a counter of PERF whose growth the spec leaves open has grown since it was last read: 9, cycles waited for room
in a network interface, or 10, register bytes not driven, by the hart or core and the cycle (R434; log entry 16). -/
opaque openCount : Nat → Nat → Nat → BitVec 64
/-- The code of the mode in which an instruction rounds while STATUS.RMODE holds a reserved code, which SDEF and a save area
can leave there (R27, R144; log entry 72). -/
opaque reservedRounding : BitVec 3 → Fin 5
/-- How many messages the inbound queue of a core's network interface holds; it holds one at least (R405; log entry 109). -/
opaque inboundRoom : Nat
/-- The COUNT that a write of a completion word, or the COMPLETED that the end of a job, at a physical address leaves in a
cycle, where the word holds uncorrectable data (R344; log entry 91). -/
opaque lostCount : Nat → Nat → BitVec 32
/-- The module serial (R449, R459; log entry 6). -/
opaque moduleSerial : List Byte

end Sys2Proof.Config
end

