-- ==== Sys2Proof/Machine/Carried.lean ====
section
/-!
DEFINITION. What the steps of the machine that no word names carry, and those steps themselves as they wait in the
state: `Event` has one constructor for each of them, with the fields of the constructor of `Instr` of the same name.
-/
namespace Sys2Proof

/-! ### What the steps of the machine carry -/

/-- The trap causes of R423, with their codes. -/
inductive Cause where
  | illegal | slot | align | stallShort | page | protect | memerr | accBusy | accFirstUse | lease | slotClaim
  | weightFine | weightOverflow | quiesce | phaseOverrun | gangScope | subLost | shapeMismatch | vclaim
  | preempt | fp | xcell | queue | brk | syscall
  deriving DecidableEq, Repr

/-- A place that holds bytes: a canonical physical address of device or host memory (R327), a byte of a core's SRAM
pool (R325), an address in the remote window (R453), or an offset in the configuration window (R449). -/
inductive Loc where
  | mem (pa : Nat)
  | pool (core off : Nat)
  | remote (pa : Nat)
  | config (off : Nat)
  deriving DecidableEq, Repr

/-- Where a result goes besides the result queue (R45): nowhere, a named register, or an element already taken at
an append port, whose place and size are fixed. -/
inductive Dest where
  | none
  | reg (i : BitVec 3)
  | stream (port : BitVec 2) (loc : Loc) (size : Nat) (shared : Bool)
  deriving DecidableEq, Repr

/-- A result on its way to a slot: the reserved queue position (by its tag), the destination, the value, and the cycle
before which it does not arrive (R53). -/
structure Delivery where
  h : HartId
  tag : Nat
  dest : Dest
  val : W
  due : Nat
  deriving DecidableEq, Repr

/-- A store on its way to where it performs (R309): the place of its first byte and its bytes. -/
structure StoreReq where
  h : HartId
  ctx : BitVec 16
  loc : Loc
  bytes : List Byte
  deriving DecidableEq, Repr

/-- Where a committing operation comes from: its group, and its age, which grows in the order of issue (R176, R424). -/
structure IssueMark where
  tpc : Addr
  age : Nat
  deriving DecidableEq, Repr

/-- The operations of R195 and R196. -/
inductive AtomOp where
  | add | and | or | xor | min | max | minu | maxu | swap | cas
  deriving DecidableEq, Repr

/-- An atomic shipped to the home or pool of its word (R195 to R197). -/
structure AtomicReq where
  h : HartId
  tag : Nat
  dest : Dest
  tpc : Addr
  va : Addr
  loc : Loc
  size : Nat
  op : AtomOp
  b : W
  c : W
  sup : Bool
  deriving DecidableEq, Repr

/-- The two kinds of exact cell (R155). -/
inductive CellKind where
  | xa32 | xa64
  deriving DecidableEq, Repr

/-- An XADD whose contribution a combining entry holds: its hart, its group, whether it was issued in supervisor mode, and
the address it named (R399, R424, R435). -/
structure Contributor where
  h : HartId
  op : IssueMark
  sup : Bool
  va : Addr
  deriving DecidableEq, Repr

/-- The operations on exact cells (R199 to R202). -/
inductive CellOp where
  | init (k : CellKind)
  | partial_ (k : CellKind) (acc : Int) (flags : BitVec 4) (from_ : List Contributor)
  | read (fmt mode : BitVec 3)
  | clear
  deriving DecidableEq, Repr

/-- A cell operation shipped to the cell's home (R156). -/
structure CellReq where
  h : HartId
  tag : Nat
  dest : Dest
  tpc : Addr
  va : Addr
  pa : Nat
  word : Word32
  op : CellOp
  deriving DecidableEq, Repr

/-- The accumulator and flag byte of a cell, as engines exchange them (R401). -/
structure CellValue where
  acc : Int
  flags : BitVec 4
  deriving DecidableEq, Repr

/-- The operations on queues (R205, R206). -/
inductive QueueOp where
  | enq | deq | seqenq | seqdeq
  deriving DecidableEq, Repr

/-- A queue operation shipped to the header's home (R204). The ring is reached through the issuer's root. -/
structure QueueReq where
  h : HartId
  tag : Nat
  dest : Dest
  tpc : Addr
  va : Addr
  pa : Nat
  root : Nat
  sup : Bool
  op : QueueOp
  b : W
  c : W
  deriving DecidableEq, Repr

/-- LAUNCH at the home of the launch queue (R244). -/
structure LaunchReq where
  h : HartId
  tag : Nat
  dest : Dest
  tpc : Addr
  va : Addr
  pa : Nat
  root : Nat
  sup : Bool
  record : Addr
  given : BitVec 48
  ctx : BitVec 16
  deriving DecidableEq, Repr

/-- A WAITV watch at a home slice (R208, R421). -/
structure Watch where
  ctx : BitVec 16
  pa : Nat
  size : Nat
  val : W
  crec : W
  clerk : Option HartId
  deriving DecidableEq, Repr

/-- The weight operations that a home slice performs on a home record (R39, R241). -/
inductive WeightUpd where
  | ret (ctx : BitVec 16) (w : Nat)
  | writeOff (ctx : BitVec 16) (w : Nat)
  | arm (ctx : BitVec 16) (core : BitVec 12)
  | mintEvent (ctx : BitVec 16) (core : Nat) (channel : BitVec 6) (sender : HartId) (payload : W)
  deriving DecidableEq, Repr

/-- What a message starts when it is delivered (R224, R234, R364). -/
inductive MsgKind where
  | plain
  | push (pc : Addr) (target : W)
  | root (entry : Addr) (member group : Nat) (classH : Bool) (phase : Option Nat)
  deriving DecidableEq, Repr

/-- A message in the fabric or held by a network interface (R227, R436), with the scope at which its handler's start
acquires (R230, R308). -/
structure Msg where
  ctx : BitVec 16
  channel : BitVec 6
  sender : HartId
  weight : BitVec 48
  payload : List W
  kind : MsgKind
  scope : Nat
  deriving DecidableEq, Repr

/-- SUBSCRIBE on its way to the publisher (R257, R419). -/
structure SubReq where
  h : HartId
  tag : Nat
  dest : Dest
  ctx : BitVec 16
  pubCore : Nat
  pubMember : Nat
  base : Nat
  len : Nat
  subCore : Nat
  subOff : Nat
  deriving DecidableEq, Repr

/-- One subscription update (R414): the masked bytes of a line with the line as it stood when its batch closed, or the
first update with the whole region. -/
structure Update where
  ctx : BitVec 16
  pubCore : Nat
  slot : Nat
  core : Nat
  off : Nat
  seq : BitVec 16
  bytes : List (Nat × Byte)
  data : List Byte
  deriving DecidableEq, Repr

/-- A store packet to another module (R395). -/
structure RemotePacket where
  h : HartId
  ctx : BitVec 16
  pa : Nat
  bytes : List Byte
  deriving DecidableEq, Repr

/-- A codeword that a scrubber or an access has read: of a vault, the second tier, a home slice, a pool, an operand memory,
an L1, an instruction cache or a constant cache, by its canonical physical address or its place (R343, R345). -/
inductive Codeword where
  | mem (pa : Nat)
  | l2 (pa : Nat)
  | pool (core off : Nat)
  | operand (cluster off : Nat)
  | l1 (core pa : Nat)
  | code (core pa : Nat)
  | constant (cluster pa : Nat)
  deriving DecidableEq, Repr

/-- What a patrol scrub found in a codeword (R343, R345). -/
inductive ScrubFinding where
  | clean | corrected | uncorrectable
  deriving DecidableEq, Repr

/-- The writes of one vector instruction: register lanes, mask bits, flags, and a scalar result (R270). -/
structure LaneWrite where
  h : HartId
  lanes : List (Nat × BitVec 32)
  masks : List (Nat × Bool)
  flags : BitVec 5
  scalar : Option Delivery
  deriving DecidableEq, Repr

/-- A step of the machine that no word names, waiting to happen (R53, R176, R309 and the chapters named at each). -/
inductive Event where
  /-- DIVIDE_COMPLETE (R101) -/
  | divideComplete (r : Delivery)
  /-- FP_DIVIDE_COMPLETE (R160) -/
  | fpDivideComplete (r : Delivery) (flags : BitVec 5)
  /-- FP_LATE_TRAP (R161) -/
  | fpLateTrap (h : HartId) (tpc : Addr) (info : W)
  /-- LOAD_RESPONSE (R53) -/
  | loadResponse (r : Delivery)
  /-- LATE_FAULT (R176) -/
  | lateFault (h : HartId) (cause : Cause) (info : W) (op : IssueMark)
  /-- STORE_PERFORM (R309) -/
  | storePerform (r : StoreReq)
  /-- HOME_ATOMIC (R197) -/
  | homeAtomic (r : AtomicReq)
  /-- HOME_CELL_OPERATION (R156) -/
  | homeCellOperation (r : CellReq)
  /-- HOME_QUEUE_OPERATION (R205) -/
  | homeQueueOperation (r : QueueReq)
  /-- LAUNCH_AT_HOME (R244) -/
  | launchAtHome (r : LaunchReq)
  /-- LAUNCH_STATUS (R244) -/
  | launchStatus (r : Delivery) (given : BitVec 48)
  /-- WATCH_REGISTER (R421) -/
  | watchRegister (w : Watch)
  /-- WATCH_FIRE (R421) -/
  | watchFire (w : Watch)
  /-- FENCE_COMPLETE (R209) -/
  | fenceComplete (r : Delivery) (storeKinds : Bool)
  /-- CPUB_COMPLETE (R212) -/
  | cpubComplete (core : Nat) (scope : BitVec 3) (lines : List Nat)
  /-- NREAD_TIMEOUT (R255) -/
  | nreadTimeout (r : Delivery)
  /-- HOME_WEIGHT_UPDATE (R39) -/
  | homeWeightUpdate (u : WeightUpd)
  /-- WEIGHT_GRANT (R239) -/
  | weightGrant (h : HartId) (ctx : BitVec 16) (k : W) (op : IssueMark)
  /-- RETURN_COMBINE_FLUSH (R237) -/
  | returnCombineFlush (core : Nat)
  /-- MESSAGE_ARRIVAL (R223) -/
  | messageArrival (core : Nat) (m : Msg)
  /-- SLOT_SELECT (R376) -/
  | slotSelect (h : HartId)
  /-- PREEMPT_REQUEST (R433) -/
  | preemptRequest (core : Nat) (payload : W)
  /-- TIME_SLICE_EXPIRY (R379) -/
  | timeSliceExpiry (h : HartId)
  /-- PREEMPT_HOLD_EXPIRY (R134) -/
  | preemptHoldExpiry (h : HartId)
  /-- PREEMPT_RESUME (R33) -/
  | preemptResume (h : HartId)
  /-- PHASE_OVERRUN (R377) -/
  | phaseOverrun (h : HartId)
  /-- PHASE_OVERRUN_MESSAGE (R32) -/
  | phaseOverrunMessage (h : HartId)
  /-- L_SLOT_ROTATION (R378) -/
  | lSlotRotation (h : HartId)
  /-- WFI_WAKE (R434) -/
  | wfiWake (h : HartId)
  /-- VCLAIM_GRANT (R264) -/
  | vclaimGrant (cluster : Nat)
  /-- LEASE_GRANT (R287) -/
  | leaseGrant (cluster : Nat)
  /-- LEASE_EXPIRY (R286) -/
  | leaseExpiry (h : HartId)
  /-- MMA_COMMAND_START (R284) -/
  | mmaCommandStart (cluster : Nat)
  /-- MMA_COMMAND_COMPLETE (R294) -/
  | mmaCommandComplete (cluster : Nat)
  /-- SUBSCRIPTION_ESTABLISH (R419) -/
  | subscriptionEstablish (r : SubReq)
  /-- BATCH_WINDOW_EXPIRY (R414) -/
  | batchWindowExpiry (core : Nat) (entry : Nat)
  /-- UPDATE_APPLY (R414) -/
  | updateApply (u : Update)
  /-- UPDATE_LOG_WRITE (R416) -/
  | updateLogWrite (u : Update)
  /-- GBAR_EPISODE_COMPLETE (R256) -/
  | gbarEpisodeComplete (ctx : BitVec 16)
  /-- PACKET_DISPATCH (R357) -/
  | packetDispatch (queue : Nat)
  /-- PLACEMENT_ACTION (R360) -/
  | placementAction (die : Nat)
  /-- GANG_DRAIN (R366) -/
  | gangDrain (die : Nat)
  /-- CONTEXT_COMPACT (R369) -/
  | contextCompact (ctx : BitVec 16) (fromCore toCore : Nat)
  /-- CONTEXT_COMPLETE (R359) -/
  | contextComplete (ctx : BitVec 16)
  /-- FRAME_ADVANCE (R406) -/
  | frameAdvance
  /-- MISS_MERGE_WINDOW (R330) -/
  | missMergeWindow (cluster : Nat)
  /-- COMBINE_FORWARD (R399): of the entry whose first contribution has this age -/
  | combineForward (router : Nat) (cell : Nat)
  /-- KICK (R390) -/
  | kick (engine : BitVec 12) (port : Nat)
  /-- JOB_START (R385) -/
  | jobStart (engine : BitVec 12)
  /-- JOB_END (R386) -/
  | jobEnd (engine : BitVec 12) (status : BitVec 8) (tcause : BitVec 8) (detail : W)
  /-- COLLECTIVE (R401) -/
  | collective (engine : BitVec 12) (peers : List CellValue)
  /-- REMOTE_STORE (R395) -/
  | remoteStore (port : Nat) (r : RemotePacket)
  /-- REMOTE_STORE_ACK (R395) -/
  | remoteStoreAck (port : Nat) (accepted : Bool)
  /-- LINK_DEATH (R397) -/
  | linkDeath (port : Nat)
  /-- PORT_RESTORE (R453) -/
  | portRestore (port : Nat)
  /-- PAGE_WALK (R338) -/
  | pageWalk (core : Nat) (ctx : BitVec 16) (root : Nat) (va : Addr)
  /-- TLB_INVALIDATION (R342) -/
  | tlbInvalidation (die : Nat)
  /-- PATROL_SCRUB (R345) -/
  | patrolScrub (word : Codeword) (found : ScrubFinding)
  /-- HEART_WRITE (R425) -/
  | heartWrite (clerk : Nat) (v : BitVec 32)
  /-- HEART_TIMEOUT (R439) -/
  | heartTimeout (clerk : Nat)
  /-- WARM_RESTART (R442) -/
  | warmRestart
  /-- COLD_START (R457) -/
  | coldStart
  /-- POWER_LOSS (R458) -/
  | powerLoss
  /-- THERMAL_SHUTDOWN (R461) -/
  | thermalShutdown
  /-- POWERCAP_WRITE (R461) -/
  | powercapWrite (v : W)
  /-- MB_COLD_START (R454) -/
  | mbColdStart (tag : BitVec 8)
  /-- MB_WARM_RESTART (R454) -/
  | mbWarmRestart (tag : BitVec 8)
  /-- MB_WRITE_FIRMWARE (R456) -/
  | mbWriteFirmware (tag : BitVec 8)
  /-- MB_ATTESTATION (R459) -/
  | mbAttestation (tag : BitVec 8)
  /-- MB_REGISTER_LOG (R455) -/
  | mbRegisterLog (tag : BitVec 8)
  /-- MB_COMMIT_VERSION (R454) -/
  | mbCommitVersion (tag : BitVec 8)
  /-- MB_STOP (R454) -/
  | mbStop (tag : BitVec 8)
  /-- MB_UNKNOWN_OP (R454) -/
  | mbUnknownOp (tag : BitVec 8) (op : BitVec 8)
  /-- HOST_ENQUEUE (R451) -/
  | hostEnqueue (queue : Nat) (v : W)
  /-- HOST_MEMORY_ACCESS (R452) -/
  | hostMemoryAccess (offset : Nat) (write : Option (List Byte)) (size : Nat)
  /-- CONFIG_REGISTER_WRITE (R450) -/
  | configRegisterWrite (offset : Nat) (v : W) (fromHost : Bool)
  /-- ILLEGAL (R69) -/
  | illegal (word : Word32) (before : Word32)
  /-- FETCH_FAULT (R443) -/
  | fetchFault (cause : Cause) (info : W)
  /-- LANE_RESULT (R270) -/
  | laneResult (r : LaneWrite)
  /-- POWER_THROTTLE (R461) -/
  | powerThrottle (throttled : Bool) (watts : BitVec 16)
  /-- SHUTDOWN_PENDING (R461) -/
  | shutdownPending (temp : BitVec 16)
  /-- LINK_TRAINING (R453) -/
  | linkTraining (port : Nat) (partner : BitVec 16)
  /-- LINK_LEVEL_RETRY (R453) -/
  | linkLevelRetry (port : Nat)
  deriving DecidableEq, Repr

end Sys2Proof
end

