-- ==== Sys2Proof/Syntax.lean ====
section
/-!
DEFINITION. The instructions and steps of the F8: the fields of each word form, what each step of the machine
carries, and the one inductive `Instr` with a constructor for every row of spec/opcode_table.json.
-/
namespace Sys2Proof

/-! ### Word forms (R42): raw fields, legality is checked in WellFormed -/

/-- T form with destination D and sources A and B (R42). -/
structure RRR where
  st : BitVec 3
  d : BitVec 5
  a : BitVec 5
  b : BitVec 5
  deriving DecidableEq, Repr

/-- T form with D and A; B is unused and zero (R47). -/
structure RR where
  st : BitVec 3
  d : BitVec 5
  a : BitVec 5
  deriving DecidableEq, Repr

/-- T form with sources A and B; D is unused and zero. -/
structure AB where
  st : BitVec 3
  a : BitVec 5
  b : BitVec 5
  deriving DecidableEq, Repr

/-- T form with source A only. -/
structure A1 where
  st : BitVec 3
  a : BitVec 5
  deriving DecidableEq, Repr

/-- T form with source B only. -/
structure B1 where
  st : BitVec 3
  b : BitVec 5
  deriving DecidableEq, Repr

/-- T form with destination D only. -/
structure D1 where
  st : BitVec 3
  d : BitVec 5
  deriving DecidableEq, Repr

/-- A word whose only field is STALL. -/
structure N0 where
  st : BitVec 3
  deriving DecidableEq, Repr

/-- I form (R42). -/
structure RI where
  st : BitVec 3
  d : BitVec 5
  a : BitVec 5
  imm : BitVec 13
  deriving DecidableEq, Repr

/-- I form whose A field is unused and zero. -/
structure DI where
  st : BitVec 3
  d : BitVec 5
  imm : BitVec 13
  deriving DecidableEq, Repr

/-- M form with SC = 00 (R42, R43); D is the destination or the data, A the base. -/
structure Mem where
  st : BitVec 3
  d : BitVec 5
  a : BitVec 5
  sz : BitVec 2
  off : BitVec 9
  deriving DecidableEq, Repr

/-- M form that names a scope (R43). -/
structure MemS where
  st : BitVec 3
  d : BitVec 5
  a : BitVec 5
  sz : BitVec 2
  sc : BitVec 2
  off : BitVec 9
  deriving DecidableEq, Repr

/-- X form with all four operand fields (R42). -/
structure RRRR where
  st : BitVec 3
  d : BitVec 5
  a : BitVec 5
  b : BitVec 5
  c : BitVec 5
  deriving DecidableEq, Repr

/-- X form whose D field is unused and zero. -/
structure ABC where
  st : BitVec 3
  a : BitVec 5
  b : BitVec 5
  c : BitVec 5
  deriving DecidableEq, Repr

/-- X form whose B field is unused and zero. -/
structure RAC where
  st : BitVec 3
  d : BitVec 5
  a : BitVec 5
  c : BitVec 5
  deriving DecidableEq, Repr

/-- BEXTI: IMM13 holds a length and a position (R75). -/
structure BitF where
  st : BitVec 3
  d : BitVec 5
  a : BitVec 5
  len : BitVec 7
  pos : BitVec 6
  deriving DecidableEq, Repr

/-- B form, short layout (R42, R44). -/
structure Br where
  st : BitVec 3
  nul : BitVec 1
  a : BitVec 5
  b : BitVec 5
  disp : BitVec 9
  deriving DecidableEq, Repr

/-- B form, long layout (R42, R44). -/
structure BrL where
  st : BitVec 3
  disp : BitVec 20
  deriving DecidableEq, Repr

/-- REP: F = 0x3F + len, so the low six bits hold len - 1 (R76). -/
structure Rep where
  st : BitVec 3
  a : BitVec 5
  len1 : BitVec 6
  deriving DecidableEq, Repr

/-- T form with a format code in F[7:6] (R77). -/
structure FRRR where
  st : BitVec 3
  d : BitVec 5
  a : BitVec 5
  b : BitVec 5
  fmt : BitVec 2
  deriving DecidableEq, Repr

/-- T form with a format or type code in F[7:6] and B zero (R77, R83). -/
structure FRR where
  st : BitVec 3
  d : BitVec 5
  a : BitVec 5
  fmt : BitVec 2
  deriving DecidableEq, Repr

/-- X form of the fused instructions: FN[0] = 1 selects FP32 (R77). -/
structure FX where
  st : BitVec 3
  d : BitVec 5
  a : BitVec 5
  b : BitVec 5
  c : BitVec 5
  single : BitVec 1
  deriving DecidableEq, Repr

/-- Conversions: source kind F[5:3], destination kind F[2:0] (R77, R83). -/
structure Cvt where
  st : BitVec 3
  d : BitVec 5
  a : BitVec 5
  src : BitVec 3
  dst : BitVec 3
  deriving DecidableEq, Repr

/-- T form with a size code in F[1:0] (R78). -/
structure RRRz where
  st : BitVec 3
  d : BitVec 5
  a : BitVec 5
  b : BitVec 5
  sz : BitVec 2
  deriving DecidableEq, Repr

/-- SBIND: port in F[1:0], A the descriptor address (R78). -/
structure Sb where
  st : BitVec 3
  a : BitVec 5
  port : BitVec 2
  deriving DecidableEq, Repr

/-- SCLOSE: port in F[1:0] (R78). -/
structure Sc where
  st : BitVec 3
  port : BitVec 2
  deriving DecidableEq, Repr

/-- SPOS: port in F[1:0] (R78). -/
structure Sp where
  st : BitVec 3
  d : BitVec 5
  port : BitVec 2
  deriving DecidableEq, Repr

/-- AMO: F[4] = 1 selects 8 bytes (R79). -/
structure Amo where
  st : BitVec 3
  d : BitVec 5
  a : BitVec 5
  b : BitVec 5
  wide : BitVec 1
  deriving DecidableEq, Repr

/-- XADD: format in F[2:0] (R79). -/
structure Xadd where
  st : BitVec 3
  a : BitVec 5
  b : BitVec 5
  fmt : BitVec 3
  deriving DecidableEq, Repr

/-- WAITV: F[0] = 1 selects 8 bytes (R79). -/
structure ABw where
  st : BitVec 3
  a : BitVec 5
  b : BitVec 5
  wide : BitVec 1
  deriving DecidableEq, Repr

/-- XREAD: output format F[6:4], rounding mode F[3:1] (R79). -/
structure Xread where
  st : BitVec 3
  d : BitVec 5
  a : BitVec 5
  fmt : BitVec 3
  mode : BitVec 3
  deriving DecidableEq, Repr

/-- CAS: FN[0] = 1 selects 8 bytes (R79). -/
structure Cas where
  st : BitVec 3
  d : BitVec 5
  a : BitVec 5
  b : BitVec 5
  c : BitVec 5
  wide : BitVec 1
  deriving DecidableEq, Repr

/-- RETIRE: scope in F[1:0] (R80). -/
structure ABe where
  st : BitVec 3
  a : BitVec 5
  b : BitVec 5
  scope : BitVec 2
  deriving DecidableEq, Repr

/-- CSRRD: the CSR number in IMM13[10:0], A zero (R81). -/
structure CsrR where
  st : BitVec 3
  d : BitVec 5
  csr : BitVec 11
  deriving DecidableEq, Repr

/-- CSRWR, CSRSET and CSRCLR (R81). -/
structure CsrW where
  st : BitVec 3
  d : BitVec 5
  a : BitVec 5
  csr : BitVec 11
  deriving DecidableEq, Repr

/-- CPUB: scope in F[2:0] (R81). -/
structure ABs where
  st : BitVec 3
  a : BitVec 5
  b : BitVec 5
  scope : BitVec 3
  deriving DecidableEq, Repr

/-- FENCE: scope F[6:4], kinds F[3:0] (R81). -/
structure Fence where
  st : BitVec 3
  d : BitVec 5
  scope : BitVec 3
  kinds : BitVec 4
  deriving DecidableEq, Repr

/-- VCMP: type F[5:4], condition F[2:0] (R83). -/
structure Vcmp where
  st : BitVec 3
  d : BitVec 5
  a : BitVec 5
  b : BitVec 5
  ty : BitVec 2
  cond : BitVec 3
  deriving DecidableEq, Repr

/-- MMA with a nested-integer operand: C the scale register, FN = p - 2 (R84). -/
structure MmaN where
  st : BitVec 3
  d : BitVec 5
  a : BitVec 5
  b : BitVec 5
  c : BitVec 5
  pm2 : BitVec 3
  deriving DecidableEq, Repr

/-- AST: D[4:3] the format, D[2:0] the tile (R85). -/
structure Ast where
  st : BitVec 3
  fmt : BitVec 2
  tile : BitVec 3
  a : BitVec 5
  b : BitVec 5
  deriving DecidableEq, Repr

/-- Hint word payload (R48). -/
structure Hint where
  kimm : BitVec 26
  deriving DecidableEq, Repr

/-- Modifier word fields (R49). -/
structure Modw where
  minv : BitVec 1
  msel : BitVec 3
  rm : BitVec 3
  zm : BitVec 1
  op4 : BitVec 5
  cnt : BitVec 3
  deriving DecidableEq, Repr

/-- One constructor per row of the opcode table: the instruction words (R72 to R85), the two prefix words
(R48, R49) and the steps of the machine that no word names. -/
inductive Instr where
  /-- ADD (R97) -/
  | add (x : RRR)
  /-- SUB (R97) -/
  | sub (x : RRR)
  /-- MUL (R99) -/
  | mul (x : RRR)
  /-- MULH (R99) -/
  | mulh (x : RRR)
  /-- MULHU (R99) -/
  | mulhu (x : RRR)
  /-- DIV (R100) -/
  | div (x : RRR)
  /-- DIVU (R100) -/
  | divu (x : RRR)
  /-- REM (R100) -/
  | rem (x : RRR)
  /-- REMU (R100) -/
  | remu (x : RRR)
  /-- AND (R97) -/
  | and (x : RRR)
  /-- OR (R97) -/
  | or (x : RRR)
  /-- XOR (R97) -/
  | xor (x : RRR)
  /-- ANDN (R97) -/
  | andn (x : RRR)
  /-- ORN (R97) -/
  | orn (x : RRR)
  /-- SHL (R102) -/
  | shl (x : RRR)
  /-- SHR (R102) -/
  | shr (x : RRR)
  /-- SAR (R102) -/
  | sar (x : RRR)
  /-- ROT (R102) -/
  | rot (x : RRR)
  /-- MIN (R97) -/
  | min (x : RRR)
  /-- MAX (R97) -/
  | max (x : RRR)
  /-- MINU (R97) -/
  | minu (x : RRR)
  /-- MAXU (R97) -/
  | maxu (x : RRR)
  /-- ABS (R97) -/
  | abs (x : RR)
  /-- CLZ (R104) -/
  | clz (x : RR)
  /-- CTZ (R104) -/
  | ctz (x : RR)
  /-- POP (R104) -/
  | pop (x : RR)
  /-- BREV (R104) -/
  | brev (x : RR)
  /-- ADDI (R98) -/
  | addi (x : RI)
  /-- ANDI (R98) -/
  | andi (x : RI)
  /-- ORI (R98) -/
  | ori (x : RI)
  /-- XORI (R98) -/
  | xori (x : RI)
  /-- SHLI (R103) -/
  | shli (x : RI)
  /-- SHRI (R103) -/
  | shri (x : RI)
  /-- SARI (R103) -/
  | sari (x : RI)
  /-- ROTI (R103) -/
  | roti (x : RI)
  /-- LEA (R112) -/
  | lea (x : Mem)
  /-- LIM (R111) -/
  | lim (x : DI)
  /-- SEL (R107) -/
  | sel (x : RRRR)
  /-- BEXT (R108) -/
  | bext (x : RRRR)
  /-- BINS (R110) -/
  | bins (x : RRRR)
  /-- CMPEQ (R105) -/
  | cmpeq (x : RRR)
  /-- CMPNE (R105) -/
  | cmpne (x : RRR)
  /-- CMPLT (R105) -/
  | cmplt (x : RRR)
  /-- CMPLTU (R105) -/
  | cmpltu (x : RRR)
  /-- CMPLE (R105) -/
  | cmple (x : RRR)
  /-- CMPLEU (R105) -/
  | cmpleu (x : RRR)
  /-- BEXTI (R109) -/
  | bexti (x : BitF)
  /-- CMPLTI (R106) -/
  | cmplti (x : RI)
  /-- BEQ (R119) -/
  | beq (x : Br)
  /-- BNE (R119) -/
  | bne (x : Br)
  /-- BLT (R119) -/
  | blt (x : Br)
  /-- BGE (R119) -/
  | bge (x : Br)
  /-- BLTU (R119) -/
  | bltu (x : Br)
  /-- BGEU (R119) -/
  | bgeu (x : Br)
  /-- B (R120) -/
  | b (x : BrL)
  /-- CALL (R120) -/
  | call (x : BrL)
  /-- JR (R121) -/
  | jr (x : A1)
  /-- NOP (R122) -/
  | nop (x : N0)
  /-- BRK (R122) -/
  | brk (x : N0)
  /-- REP (R135) -/
  | rep (x : Rep)
  /-- RGN (R126) -/
  | rgn (x : N0)
  /-- RGN.INC (R127) -/
  | rgnInc (x : DI)
  /-- FADD (R159) -/
  | fadd (x : FRRR)
  /-- FSUB (R159) -/
  | fsub (x : FRRR)
  /-- FMUL (R159) -/
  | fmul (x : FRRR)
  /-- FDIV (R160) -/
  | fdiv (x : FRRR)
  /-- FSQRT (R160) -/
  | fsqrt (x : FRR)
  /-- FMIN (R163) -/
  | fmin (x : FRRR)
  /-- FMAX (R163) -/
  | fmax (x : FRRR)
  /-- FMINN (R163) -/
  | fminn (x : FRRR)
  /-- FMAXN (R163) -/
  | fmaxn (x : FRRR)
  /-- FABS (R164) -/
  | fabs (x : FRR)
  /-- FNEG (R164) -/
  | fneg (x : FRR)
  /-- FSGN (R164) -/
  | fsgn (x : FRRR)
  /-- FRND (R165) -/
  | frnd (x : FRR)
  /-- FMA (R162) -/
  | fma (x : FX)
  /-- FMS (R162) -/
  | fms (x : FX)
  /-- FNMA (R162) -/
  | fnma (x : FX)
  /-- FCVT (R168) -/
  | fcvt (x : Cvt)
  /-- FCVTI (R169) -/
  | fcvti (x : Cvt)
  /-- ICVTF (R170) -/
  | icvtf (x : Cvt)
  /-- FCMPEQ (R166) -/
  | fcmpeq (x : FRRR)
  /-- FCMPLT (R166) -/
  | fcmplt (x : FRRR)
  /-- FCMPLE (R166) -/
  | fcmple (x : FRRR)
  /-- FCMPUN (R166) -/
  | fcmpun (x : FRRR)
  /-- FCLASS (R167) -/
  | fclass (x : FRR)
  /-- LD (R178) -/
  | ld (x : Mem)
  /-- ST (R178) -/
  | st (x : Mem)
  /-- LD.ACQ (R179) -/
  | ldAcq (x : MemS)
  /-- ST.REL (R179) -/
  | stRel (x : MemS)
  /-- LDS (R180) -/
  | lds (x : RRRz)
  /-- STS (R180) -/
  | sts (x : RRRz)
  /-- LDK (R183) -/
  | ldk (x : RRRz)
  /-- PREF (R191) -/
  | pref (x : A1)
  /-- WB (R192) -/
  | wb (x : AB)
  /-- INV (R192) -/
  | inv (x : AB)
  /-- BMOVE (R193) -/
  | bmove (x : RRR)
  /-- BFILL (R194) -/
  | bfill (x : RRR)
  /-- SBIND (R186) -/
  | sbind (x : Sb)
  /-- SCLOSE (R189) -/
  | sclose (x : Sc)
  /-- SPOS (R189) -/
  | spos (x : Sp)
  /-- AMO.ADD (R195) -/
  | amoAdd (x : Amo)
  /-- AMO.AND (R195) -/
  | amoAnd (x : Amo)
  /-- AMO.OR (R195) -/
  | amoOr (x : Amo)
  /-- AMO.XOR (R195) -/
  | amoXor (x : Amo)
  /-- AMO.MIN (R195) -/
  | amoMin (x : Amo)
  /-- AMO.MAX (R195) -/
  | amoMax (x : Amo)
  /-- AMO.MINU (R195) -/
  | amoMinu (x : Amo)
  /-- AMO.MAXU (R195) -/
  | amoMaxu (x : Amo)
  /-- AMO.SWAP (R195) -/
  | amoSwap (x : Amo)
  /-- XINIT.32 (R199) -/
  | xinit32 (x : A1)
  /-- XINIT.64 (R199) -/
  | xinit64 (x : A1)
  /-- XADD (R200) -/
  | xadd (x : Xadd)
  /-- XCLR (R202) -/
  | xclr (x : A1)
  /-- ENQ (R205) -/
  | enq (x : RRR)
  /-- DEQ (R205) -/
  | deq (x : RR)
  /-- SEQDEQ (R206) -/
  | seqdeq (x : RR)
  /-- WAITV (R208) -/
  | waitv (x : ABw)
  /-- XREAD (R201) -/
  | xread (x : Xread)
  /-- CAS (R196) -/
  | cas (x : Cas)
  /-- SEQENQ (R206) -/
  | seqenq (x : RRRR)
  /-- SEND (R231) -/
  | send (x : AB)
  /-- SENDM (R233) -/
  | sendm (x : AB)
  /-- PUSH (R234) -/
  | push (x : AB)
  /-- HTSET (R220) -/
  | htset (x : AB)
  /-- HTGET (R221) -/
  | htget (x : RR)
  /-- CHMASK (R222) -/
  | chmask (x : A1)
  /-- CHUNMASK (R222) -/
  | chunmask (x : A1)
  /-- SENDW (R232) -/
  | sendw (x : ABC)
  /-- LAUNCH (R244) -/
  | launch (x : RRRR)
  /-- NREAD (R255) -/
  | nread (x : RAC)
  /-- SUBSCRIBE (R257) -/
  | subscribe (x : RRRR)
  /-- SUSPEND (R237) -/
  | suspend (x : N0)
  /-- YIELD (R237) -/
  | yield (x : N0)
  /-- DONE (R237) -/
  | done (x : N0)
  /-- WBORROW (R239) -/
  | wborrow (x : A1)
  /-- WQUERY (R240) -/
  | wquery (x : RR)
  /-- QARM (R241) -/
  | qarm (x : A1)
  /-- GROW (R245) -/
  | grow (x : RR)
  /-- RETIRE (R248) -/
  | retire (x : ABe)
  /-- COORD (R251) -/
  | coord (x : RR)
  /-- SLICE (R252) -/
  | slice (x : RR)
  /-- GEOM (R253) -/
  | geom (x : RR)
  /-- TQINIT (R254) -/
  | tqinit (x : AB)
  /-- FETCHT (R254) -/
  | fetcht (x : RR)
  /-- GBAR (R256) -/
  | gbar (x : N0)
  /-- GBAR.PUB (R256) -/
  | gbarPub (x : N0)
  /-- UNSUB (R258) -/
  | unsub (x : A1)
  /-- PUBFENCE (R259) -/
  | pubfence (x : N0)
  /-- PHASE (R260) -/
  | phase (x : B1)
  /-- PHEND (R260) -/
  | phend (x : N0)
  /-- SPINW (R261) -/
  | spinw (x : AB)
  /-- CSRRD (R81) -/
  | csrrd (x : CsrR)
  /-- CSRWR (R81) -/
  | csrwr (x : CsrW)
  /-- CSRSET (R81) -/
  | csrset (x : CsrW)
  /-- CSRCLR (R81) -/
  | csrclr (x : CsrW)
  /-- TRAP (R431) -/
  | trap (x : A1)
  /-- TRET (R433) -/
  | tret (x : N0)
  /-- WFI (R434) -/
  | wfi (x : N0)
  /-- PERF (R434) -/
  | perf (x : RR)
  /-- ISYNC (R213) -/
  | isync (x : N0)
  /-- CPUB (R212) -/
  | cpub (x : ABs)
  /-- FENCE (R209) -/
  | fence (x : Fence)
  /-- VCLAIM (R264) -/
  | vclaim (x : RR)
  /-- VREL (R265) -/
  | vrel (x : N0)
  /-- VADD.I32 (R273) -/
  | vaddI32 (x : RRR)
  /-- VSUB.I32 (R273) -/
  | vsubI32 (x : RRR)
  /-- VMUL.I32 (R273) -/
  | vmulI32 (x : RRR)
  /-- VMIN.I32 (R273) -/
  | vminI32 (x : RRR)
  /-- VMAX.I32 (R273) -/
  | vmaxI32 (x : RRR)
  /-- VMIN.UI32 (R273) -/
  | vminUi32 (x : RRR)
  /-- VMAX.UI32 (R273) -/
  | vmaxUi32 (x : RRR)
  /-- VAND (R273) -/
  | vand (x : RRR)
  /-- VOR (R273) -/
  | vor (x : RRR)
  /-- VXOR (R273) -/
  | vxor (x : RRR)
  /-- VSHL (R273) -/
  | vshl (x : RRR)
  /-- VSHR (R273) -/
  | vshr (x : RRR)
  /-- VSEL (R273) -/
  | vsel (x : RRR)
  /-- VADD.F (R274) -/
  | vaddF (x : FRRR)
  /-- VSUB.F (R274) -/
  | vsubF (x : FRRR)
  /-- VMUL.F (R274) -/
  | vmulF (x : FRRR)
  /-- VFMA (R274) -/
  | vfma (x : FRRR)
  /-- VFMIN (R274) -/
  | vfmin (x : FRRR)
  /-- VFMAX (R274) -/
  | vfmax (x : FRRR)
  /-- VRCP (R275) -/
  | vrcp (x : RR)
  /-- VRSQRT (R275) -/
  | vrsqrt (x : RR)
  /-- VEXP2 (R275) -/
  | vexp2 (x : RR)
  /-- VLOG2 (R275) -/
  | vlog2 (x : RR)
  /-- VCMP (R276) -/
  | vcmp (x : Vcmp)
  /-- VCVT (R277) -/
  | vcvt (x : Cvt)
  /-- VLD (R279) -/
  | vld (x : RRR)
  /-- VST (R279) -/
  | vst (x : RRR)
  /-- VLDS (R279) -/
  | vlds (x : RRR)
  /-- VSTS (R279) -/
  | vsts (x : RRR)
  /-- VGATH (R279) -/
  | vgath (x : RRR)
  /-- VSCAT (R279) -/
  | vscat (x : RRR)
  /-- VBCAST (R280) -/
  | vbcast (x : RR)
  /-- VPERM (R281) -/
  | vperm (x : RRR)
  /-- VLSH (R281) -/
  | vlsh (x : RRR)
  /-- VRED.ADD (R282) -/
  | vredAdd (x : FRR)
  /-- VRED.MIN (R282) -/
  | vredMin (x : FRR)
  /-- VRED.MAX (R282) -/
  | vredMax (x : FRR)
  /-- MAND (R278) -/
  | mand (x : RRR)
  /-- MOR (R278) -/
  | mor (x : RRR)
  /-- MNOT (R278) -/
  | mnot (x : RR)
  /-- MPOP (R278) -/
  | mpop (x : RR)
  /-- MFIRST (R278) -/
  | mfirst (x : RR)
  /-- MMA.DD (R294) -/
  | mmaDD (x : RRR)
  /-- MMA.SS (R294) -/
  | mmaSS (x : RRR)
  /-- MMA.BB (R294) -/
  | mmaBB (x : RRR)
  /-- MMA.HH (R294) -/
  | mmaHH (x : RRR)
  /-- MMA.BH (R294) -/
  | mmaBH (x : RRR)
  /-- MMA.HB (R294) -/
  | mmaHB (x : RRR)
  /-- MMA.NN (R294) -/
  | mmaNN (x : MmaN)
  /-- MMA.NB (R294) -/
  | mmaNB (x : MmaN)
  /-- MMA.BN (R294) -/
  | mmaBN (x : MmaN)
  /-- MLEASE (R288) -/
  | mlease (x : N0)
  /-- MREL (R288) -/
  | mrel (x : N0)
  /-- OCLAIM (R291) -/
  | oclaim (x : D1)
  /-- OREL (R291) -/
  | orel (x : A1)
  /-- OLD (R293) -/
  | old (x : AB)
  /-- AZERO (R297) -/
  | azero (x : D1)
  /-- AREAD (R297) -/
  | aread (x : RRR)
  /-- AWRITE (R297) -/
  | awrite (x : RRR)
  /-- AST (R298) -/
  | ast (x : Ast)
  /-- ALD (R299) -/
  | ald (x : RRR)
  /-- MWAIT (R301) -/
  | mwait (x : N0)
  /-- MEDGE (R300) -/
  | medge (x : A1)
  /-- ACCOWN (R303) -/
  | accown (x : RR)
  /-- HINT (R48) -/
  | hint (x : Hint)
  /-- MODIFIER (R49) -/
  | modifier (x : Modw)
  /-- DIVIDE_COMPLETE (R101) -/
  | divideComplete (r : Delivery)
  /-- FP_DIVIDE_COMPLETE (R160) -/
  | fpDivideComplete (r : Delivery) (flags : BitVec 5)
  /-- FP_LATE_TRAP (R161) -/
  | fpLateTrap (h : HartId) (tpc : Addr) (info : W)
  /-- LOAD_RESPONSE (R53) -/
  | loadResponse (r : Delivery)
  /-- LATE_FAULT (R176) -/
  | lateFault (h : HartId) (cause : Cause) (info : W) (op : IssueMark)
  /-- STORE_PERFORM (R309) -/
  | storePerform (r : StoreReq)
  /-- HOME_ATOMIC (R197) -/
  | homeAtomic (r : AtomicReq)
  /-- HOME_CELL_OPERATION (R156) -/
  | homeCellOperation (r : CellReq)
  /-- HOME_QUEUE_OPERATION (R205) -/
  | homeQueueOperation (r : QueueReq)
  /-- LAUNCH_AT_HOME (R244) -/
  | launchAtHome (r : LaunchReq)
  /-- LAUNCH_STATUS (R244) -/
  | launchStatus (r : Delivery) (given : BitVec 48)
  /-- WATCH_REGISTER (R421) -/
  | watchRegister (w : Watch)
  /-- WATCH_FIRE (R421) -/
  | watchFire (w : Watch)
  /-- FENCE_COMPLETE (R209) -/
  | fenceComplete (r : Delivery) (storeKinds : Bool)
  /-- CPUB_COMPLETE (R212) -/
  | cpubComplete (core : Nat) (scope : BitVec 3) (lines : List Nat)
  /-- NREAD_TIMEOUT (R255) -/
  | nreadTimeout (r : Delivery)
  /-- HOME_WEIGHT_UPDATE (R39) -/
  | homeWeightUpdate (u : WeightUpd)
  /-- WEIGHT_GRANT (R239) -/
  | weightGrant (h : HartId) (ctx : BitVec 16) (k : W) (op : IssueMark)
  /-- RETURN_COMBINE_FLUSH (R237) -/
  | returnCombineFlush (core : Nat)
  /-- MESSAGE_ARRIVAL (R223) -/
  | messageArrival (core : Nat) (m : Msg)
  /-- SLOT_SELECT (R376) -/
  | slotSelect (h : HartId)
  /-- PREEMPT_REQUEST (R433) -/
  | preemptRequest (core : Nat) (payload : W)
  /-- TIME_SLICE_EXPIRY (R379) -/
  | timeSliceExpiry (h : HartId)
  /-- PREEMPT_HOLD_EXPIRY (R134) -/
  | preemptHoldExpiry (h : HartId)
  /-- PREEMPT_RESUME (R33) -/
  | preemptResume (h : HartId)
  /-- PHASE_OVERRUN (R377) -/
  | phaseOverrun (h : HartId)
  /-- PHASE_OVERRUN_MESSAGE (R32) -/
  | phaseOverrunMessage (h : HartId)
  /-- L_SLOT_ROTATION (R378) -/
  | lSlotRotation (h : HartId)
  /-- WFI_WAKE (R434) -/
  | wfiWake (h : HartId)
  /-- VCLAIM_GRANT (R264) -/
  | vclaimGrant (cluster : Nat)
  /-- LEASE_GRANT (R287) -/
  | leaseGrant (cluster : Nat)
  /-- LEASE_EXPIRY (R286) -/
  | leaseExpiry (h : HartId)
  /-- MMA_COMMAND_START (R284) -/
  | mmaCommandStart (cluster : Nat)
  /-- MMA_COMMAND_COMPLETE (R294) -/
  | mmaCommandComplete (cluster : Nat)
  /-- SUBSCRIPTION_ESTABLISH (R419) -/
  | subscriptionEstablish (r : SubReq)
  /-- BATCH_WINDOW_EXPIRY (R414) -/
  | batchWindowExpiry (core : Nat) (entry : Nat)
  /-- UPDATE_APPLY (R414) -/
  | updateApply (u : Update)
  /-- UPDATE_LOG_WRITE (R416) -/
  | updateLogWrite (u : Update)
  /-- GBAR_EPISODE_COMPLETE (R256) -/
  | gbarEpisodeComplete (ctx : BitVec 16)
  /-- PACKET_DISPATCH (R357) -/
  | packetDispatch (queue : Nat)
  /-- PLACEMENT_ACTION (R360) -/
  | placementAction (die : Nat)
  /-- GANG_DRAIN (R366) -/
  | gangDrain (die : Nat)
  /-- CONTEXT_COMPACT (R369) -/
  | contextCompact (ctx : BitVec 16) (fromCore toCore : Nat)
  /-- CONTEXT_COMPLETE (R359) -/
  | contextComplete (ctx : BitVec 16)
  /-- FRAME_ADVANCE (R406) -/
  | frameAdvance
  /-- MISS_MERGE_WINDOW (R330) -/
  | missMergeWindow (cluster : Nat)
  /-- COMBINE_FORWARD (R399) -/
  | combineForward (router : Nat) (cell : Nat)
  /-- KICK (R390) -/
  | kick (engine : BitVec 12) (port : Nat)
  /-- JOB_START (R385) -/
  | jobStart (engine : BitVec 12)
  /-- JOB_END (R386) -/
  | jobEnd (engine : BitVec 12) (status : BitVec 8) (tcause : BitVec 8) (detail : W)
  /-- COLLECTIVE (R401) -/
  | collective (engine : BitVec 12) (peers : List CellValue)
  /-- REMOTE_STORE (R395) -/
  | remoteStore (port : Nat) (r : RemotePacket)
  /-- REMOTE_STORE_ACK (R395) -/
  | remoteStoreAck (port : Nat) (accepted : Bool)
  /-- LINK_DEATH (R397) -/
  | linkDeath (port : Nat)
  /-- PORT_RESTORE (R453) -/
  | portRestore (port : Nat)
  /-- PAGE_WALK (R338) -/
  | pageWalk (core : Nat) (ctx : BitVec 16) (root : Nat) (va : Addr)
  /-- TLB_INVALIDATION (R342) -/
  | tlbInvalidation (die : Nat)
  /-- PATROL_SCRUB (R345) -/
  | patrolScrub (word : Codeword) (found : ScrubFinding)
  /-- HEART_WRITE (R425) -/
  | heartWrite (clerk : Nat) (v : BitVec 32)
  /-- HEART_TIMEOUT (R439) -/
  | heartTimeout (clerk : Nat)
  /-- WARM_RESTART (R442) -/
  | warmRestart
  /-- COLD_START (R457) -/
  | coldStart
  /-- POWER_LOSS (R458) -/
  | powerLoss
  /-- THERMAL_SHUTDOWN (R461) -/
  | thermalShutdown
  /-- POWERCAP_WRITE (R461) -/
  | powercapWrite (v : W)
  /-- MB_COLD_START (R454) -/
  | mbColdStart (tag : BitVec 8)
  /-- MB_WARM_RESTART (R454) -/
  | mbWarmRestart (tag : BitVec 8)
  /-- MB_WRITE_FIRMWARE (R456) -/
  | mbWriteFirmware (tag : BitVec 8)
  /-- MB_ATTESTATION (R459) -/
  | mbAttestation (tag : BitVec 8)
  /-- MB_REGISTER_LOG (R455) -/
  | mbRegisterLog (tag : BitVec 8)
  /-- MB_COMMIT_VERSION (R454) -/
  | mbCommitVersion (tag : BitVec 8)
  /-- MB_STOP (R454) -/
  | mbStop (tag : BitVec 8)
  /-- MB_UNKNOWN_OP (R454) -/
  | mbUnknownOp (tag : BitVec 8) (op : BitVec 8)
  /-- HOST_ENQUEUE (R451) -/
  | hostEnqueue (queue : Nat) (v : W)
  /-- HOST_MEMORY_ACCESS (R452) -/
  | hostMemoryAccess (offset : Nat) (write : Option (List Byte)) (size : Nat)
  /-- CONFIG_REGISTER_WRITE (R450) -/
  | configRegisterWrite (offset : Nat) (v : W) (fromHost : Bool)
  /-- ILLEGAL (R69) -/
  | illegal (word : Word32) (before : Word32)
  /-- FETCH_FAULT (R443) -/
  | fetchFault (cause : Cause) (info : W)
  /-- LANE_RESULT (R270) -/
  | laneResult (r : LaneWrite)
  /-- POWER_THROTTLE (R461) -/
  | powerThrottle (throttled : Bool) (watts : BitVec 16)
  /-- SHUTDOWN_PENDING (R461) -/
  | shutdownPending (temp : BitVec 16)
  /-- LINK_TRAINING (R453) -/
  | linkTraining (port : Nat) (partner : BitVec 16)
  /-- LINK_LEVEL_RETRY (R453) -/
  | linkLevelRetry (port : Nat)
  deriving DecidableEq, Repr

end Sys2Proof
end

