-- ==== Sys2Proof/Machine/State.lean ====
section
/-!
DEFINITION. The state of the module as plain data (R14 to R40 and the chapters named at each field), and the state
right after reset.
-/
namespace Sys2Proof.Machine

/-! ### Outcomes -/

/-- Why the machine stops. -/
inductive Fault where
  /-- A unit that works with physical addresses reaches an address that R326 says does not exist. Raised by the physical
  accesses of Machine/Phys.lean. Safe: the spec gives no effect, the model stops. -/
  | physicalHole (pa : Nat)
  deriving DecidableEq, Repr

/-- Why the model gives no meaning. -/
inductive Refusal where
  /-- Raised by an arm of exec whose instruction has no meaning yet. Safe: the model stops. -/
  | notModelled (mnemonic : String)
  deriving DecidableEq, Repr

/-! ### Data held by key -/

/-- Data held by number, in increasing order of the number. -/
abbrev AMap (α : Type) := List (Nat × α)

/-- Bytes held by address, in increasing order, with no zero byte listed: an unlisted address reads as zero
(R457, stage 0x05; for host memory log entry 3). -/
abbrev Memory := List Host.Cell

/-! ### A slot (R14) -/

/-- One position of the result queue or one named register: its value, the tag of the result it still waits for
(0 when filled), and the cycle from which a fixed-latency value may be read (R17, R53). -/
structure Entry where
  val : W
  tag : Nat
  ready : Nat
  deriving DecidableEq, Repr

/-- A stream generator (R19, R36, R185). -/
structure Stream where
  bound : Bool
  base : W
  stride : W
  count : BitVec 32
  pos : BitVec 32
  write : Bool
  signed : Bool
  size : BitVec 2
  deriving DecidableEq, Repr

/-- What the word before was, for the delay-slot rules (R116). -/
inductive BrKind where
  | none | notTaken | taken
  deriving DecidableEq, Repr

/-- A running REP (R135, R136): the address of its group and of its first body word, the body's length in words, the
count register, and the iteration buffer. -/
structure Repeat where
  group : Addr
  body : Addr
  len : Nat
  reg : BitVec 3
  buf : Vector (Option Entry) 8
  deriving DecidableEq, Repr

/-- LEASE (R31): CYC as it stood at the clock value `since`. -/
structure Lease where
  held : Bool
  cmds : BitVec 7
  cyc : BitVec 11
  since : Nat
  deriving DecidableEq, Repr

/-- Failed stores not yet reported by a fence (R210). -/
structure Failed where
  count : Nat
  woff : Bool
  refused : Bool
  deadlink : Bool
  deriving DecidableEq, Repr

/-- The flags of a fixed-latency result, the cycle in which they reach FPFLAGS with it, and whether its instruction belongs
to the open region (R131, R149, R158). -/
structure DueFlags where
  cycle : Nat
  flags : BitVec 5
  uncommitted : Bool
  deriving DecidableEq, Repr

/-- An FP trap of a variable-latency instruction, kept until the cycle in which its result would be ready (R161): the
instruction's group, TINFO, and whether the slot's FP divide unit runs it (R160). -/
structure FpTrap where
  cycle : Nat
  tpc : Addr
  info : W
  divides : Bool
  deriving DecidableEq, Repr

/-- A late failure that waits until its slot can take it (R176, R424). -/
structure LateFault where
  cause : Cause
  info : W
  op : IssueMark
  deriving DecidableEq, Repr

/-- A named register whose newest value is still on its way: the cycle at which it is written, and what the register held
before (R53, R131). -/
structure LateWrite where
  reg : BitVec 3
  cycle : Nat
  old : Entry
  deriving DecidableEq, Repr

/-- What a byte of memory held before a store of the open region, or of the switch handler's, wrote it: instruction fetch
does not see such a store (R322). -/
structure Overwritten where
  ca : Nat
  old : Byte
  inTrap : Bool
  deriving DecidableEq, Repr

/-- What a trap entry started the switch handler with, and what the report of an abort says of it: TCAUSE, TINFO and TPC, and
RSTART and n1 as they stood then (R426, R435, R439). -/
structure TrapEntry where
  cause : BitVec 8
  info : W
  tpc : Addr
  rstart : Addr
  arg : W
  deriving DecidableEq, Repr

/-- A slot of a compute core, or the hart of an engine or clerk (R14, R383, R428). `wfi` is the cycle at which a WFI
ends of itself; `earliest` the first cycle at which the next word may issue (R52); `gpc`, `gnpc`, `gnnpc` and `gprev`
are the counters and the words before, as the group under way found them; `phAt` and `runAt` are the clock values from
which PHCNT and the current run are counted; `vgrant` the lane units that a resume waits for or that a waiting VCLAIM
has been granted, `lreq` the lease that a resume waits for; `quiesce` marks the handler of a QUIESCE message (R242);
`rotate` an L strand whose rotation waits (R378); `paid` the group whose prefix words have had their cycles while its
instruction waits at issue (R51); `late` the open region's writes of named registers still on their way (R131); `iters`
counts the iterations of BMOVE and BFILL that the slot has issued, the model's own (R375; log entry 4); `openTag` is the first
tag of the open region's results; `stopped` a slot that a freeze has stopped, and `entryN0` and `entryTrap` the n0 and the
rest with which its last trap entry started the switch handler (R439). -/
structure Slot where
  live : Bool
  wfi : Option Nat
  earliest : Nat
  pc : Addr
  npc : Addr
  nnpc : Addr
  nullify : BitVec 2
  prev1 : BrKind
  prev2 : BrKind
  hint : Option (BitVec 26)
  modw : Option Modw
  gpc : Addr
  gnpc : Addr
  gnnpc : Addr
  gprev : BrKind × BrKind
  paid : Option Addr
  rep : Option Repeat
  q : Vector Entry 16
  n : Vector Entry 8
  late : List LateWrite
  iters : Nat
  str : Vector Stream 4
  ckpt : Vector Stream 4
  sup : Bool
  checkstall : Bool
  fpte : BitVec 5
  rmode : BitVec 3
  fpflags : BitVec 5
  flagsDue : List DueFlags
  fpTraps : List FpTrap
  lateFaults : List LateFault
  openTag : Nat
  overwritten : List Overwritten
  wcur : BitVec 48
  ctx : BitVec 16
  seed : W
  partw : BitVec 32
  pbase : BitVec 18
  geom : W
  tcause : BitVec 8
  tinfo : W
  tpc : Addr
  rstart : Addr
  phcnt : BitVec 32
  phAt : Nat
  phexp : BitVec 32
  phmargin : BitVec 8
  phslack : BitVec 32
  phopen : Bool
  phsent : Bool
  lease : Lease
  vlanes : BitVec 9
  v : AMap (BitVec 32)
  m : Vector (BitVec 256) 4
  vgrant : Nat
  lreq : Option (BitVec 7 × BitVec 11)
  retired : W
  stallcnt : BitVec 32
  traps : W
  rollbacks : W
  preempts : W
  niWaits : W
  crec : W
  landing : Option (BitVec 6)
  quiesce : Bool
  rotate : Bool
  failed : Failed
  launches : Nat
  runAt : Nat
  hltaken : Bool
  hold : Option Nat
  request : Option W
  resumed : Bool
  byPreempt : Bool
  entryCtx : BitVec 16
  inTrap : Bool
  stopped : Bool
  entryN0 : W
  entryTrap : TrapEntry
  save : Memory
  deriving DecidableEq, Repr

/-! ### A core -/

/-- A handler-table entry (R219). -/
structure HEntry where
  pc : Addr
  valid : Bool
  mask : Bool
  cls : Bool
  level : BitVec 3
  sup : Bool
  landing : BitVec 18
  deriving DecidableEq, Repr

/-- What a core keeps of a saved strand beside its save area: the record address (R235), the landing region it holds
(R225), whether it handles a QUIESCE message, whether its phase has sent its overrun message (R32), its failed
stores (R210), and what its open region has overwritten (R322). -/
structure Saved where
  crec : W
  landing : Option (BitVec 6)
  quiesce : Bool
  phsent : Bool
  failed : Failed
  overwritten : List Overwritten
  deriving DecidableEq, Repr

/-- What a network interface keeps of a message in the context buffer (R436): the entry's index, and of its message what
the entry does not hold, the start of a root strand (R364, R371) and the scope of its acquire (R230). -/
structure Spill where
  index : Nat
  kind : MsgKind
  scope : Nat
  deriving DecidableEq, Repr

/-- What the network interface knows of an entry of its update log (R416, R417): of a subscription that lives, by its
publisher core and slot; of one that has ended; or of one that broke, whose entries are skipped. -/
inductive LogNote where
  | live (pubCore slot : Nat) | ended | skipped
  deriving DecidableEq, Repr

/-- A context's placement on a core (R362, R251), with what the network interface keeps of it (R225, R416, R436). `stage` says
whether the core is a stage core of a pipeline of the context (R373). -/
structure Placement where
  ctx : BitVec 16
  partw : BitVec 32
  pbase : BitVec 18
  htab : List HEntry
  ptab : Addr
  nphase : BitVec 16
  sdef : BitVec 9
  seed : W
  root : Nat
  coords : List Nat
  exts : List Nat
  mcount : Nat
  member : Nat
  group : Nat
  gidx : Nat
  gcores : Nat
  savedH : Option Saved
  savedL : Option Saved
  absent : Bool
  spilled : List Spill
  logged : List LogNote
  heldCh : List (BitVec 6)
  stage : Bool
  deriving DecidableEq, Repr

/-- A publisher entry and its open batch (R412, R414): the line's offset, the bytes collected, and the cycle of its
first write. `writers` are the harts of other cores whose stores it holds (R415). -/
structure Publisher where
  ctx : BitVec 16
  base : Nat
  len : Nat
  slots : List Nat
  batch : Option (Nat × List (Nat × Byte) × Nat)
  writers : List HartId
  deriving DecidableEq, Repr

/-- A subscriber slot (R412). `member` is the publisher member that its handle names (R257); `skip` are the bytes of the open
batch that its snapshot already holds (R419). -/
structure SubSlot where
  ctx : BitVec 16
  member : Nat
  entry : Nat
  broken : Bool
  subCore : Nat
  subOff : Nat
  seq : BitVec 16
  skip : List Nat
  deriving DecidableEq, Repr

/-- The order of updates kept at the subscriber (R414): the next SEQ of one subscription and the updates held back. -/
structure Expect where
  pubCore : Nat
  slot : Nat
  next : BitVec 16
  held : List Update
  deriving DecidableEq, Repr

/-- An L1 line (R329): its canonical line number, its page's policy, whether it is dirty, its 32 bytes, and the hart whose
store made it dirty. -/
structure L1Line where
  line : Nat
  shared : Bool
  dirty : Bool
  bytes : List Byte
  writer : HartId
  deriving DecidableEq, Repr

/-- A line of an instruction cache, of 64 bytes, or of a constant cache, of 32 (R332): its canonical line number, its
bytes, and the sectors that held no readable data when it was filled (R344). -/
structure CodeLine where
  line : Nat
  bytes : List Byte
  bad : List Nat
  deriving DecidableEq, Repr

/-- A line of a home slice (R331): its number in units of 256 bytes, the sectors it holds, those that its vault or
controller has not yet been given, and whether queue operations use it as a header. -/
structure L2Line where
  line : Nat
  valid : BitVec 8
  dirty : BitVec 8
  header : Bool
  deriving DecidableEq, Repr

/-- A translation held by a core or a cluster, tagged with the context number (R340): the first virtual page, the size and the
entry. -/
structure TlbEntry where
  ctx : BitVec 16
  base : Nat
  size : Nat
  pa : Nat
  attrs : BitVec 6
  deriving DecidableEq, Repr

/-- A core's shared state (R14). `exchange` holds the harts whose switch handlers exchange the tiles (R438), `noted` the contexts
and addresses whose malformed entries its looks for work have reported (R337; log entry 95). -/
structure Core where
  hlimit : BitVec 32
  accown : W
  acc64 : Bool
  accu : BitVec 8
  tiles : AMap W
  edges : AMap (BitVec 16)
  seq : BitVec 16
  exchange : List HartId
  placements : List Placement
  ni : List Msg
  returns : List (BitVec 16 × Nat)
  lastH : Option (BitVec 16)
  lastL : Option (BitVec 16)
  noted : List (BitVec 16 × Nat)
  chanPtr : AMap Nat
  pubs : AMap Publisher
  subs : AMap SubSlot
  expect : List Expect
  l1 : List L1Line
  icache : List CodeLine
  tlb : List TlbEntry
  spilledTiles : W
  accepted : W
  l1miss : W
  undriven : W
  deriving DecidableEq, Repr

/-! ### A cluster -/

/-- A slot waiting for lanes (R264): how many units it asks for, and whether it is a resume. -/
structure LaneWaiter where
  h : HartId
  units : Nat
  resume : Bool
  deriving DecidableEq, Repr

/-- A matrix command (R284, R294). `opA` and `opB` hold the operand slots as read at its start (R304); `time` is the
cycle at which it was accepted, and once it runs the one at which it completes (R290). -/
structure MmaCmd where
  h : HartId
  core : Nat
  pair : BitVec 6
  tile : Nat
  slotA : Nat
  slotB : Nat
  scale : W
  planes : Nat
  edge : BitVec 16
  seq : BitVec 16
  opA : List Byte
  opB : List Byte
  time : Nat
  deriving DecidableEq, Repr

/-- An entry of the operand-slot table (R22). -/
structure OSlot where
  owner : HartId
  ctx : BitVec 16
  deriving DecidableEq, Repr

/-- A tile queue (R254). -/
structure TileQueue where
  ctx : BitVec 16
  next : W
  fin : W
  deriving DecidableEq, Repr

/-- A cluster's shared units (R4, R22, R254, R264, R284, R287) and its shared TLB (R340). `grantAt` is the first cycle in
which the array may grant its lease again (R287). -/
structure Cluster where
  freeUnits : Nat
  vwait : List LaneWaiter
  holder : Option HartId
  leaseWait : List HartId
  grantAt : Nat
  lastH : Option Nat
  lastL : Option Nat
  cmdQ : List MmaCmd
  running : Option MmaCmd
  oslots : AMap OSlot
  omem : Memory
  opoison : AMap (BitVec 8)
  ccache : List CodeLine
  tileQ : List TileQueue
  tlb : List TlbEntry
  deriving DecidableEq, Repr

/-! ### Launches and contexts -/

/-- A level of the launch hierarchy (R353). -/
structure Level where
  extent : Nat
  domain : BitVec 3
  scope : BitVec 3
  deriving DecidableEq, Repr

/-- A pipeline stage (R371). -/
structure Stage where
  entry : Addr
  cores : Nat
  phase : BitVec 32
  inq : W
  outq : W
  deriving DecidableEq, Repr

/-- A launch record as read once per packet, with the images it names (R352, R357, R362). -/
structure Launch where
  entry : Addr
  total : Nat
  partw : BitVec 32
  hold : Bool
  rooth : Bool
  gang : Bool
  pipe : Bool
  child : BitVec 2
  succ : Bool
  sdef : BitVec 9
  htab : W
  ptab : Addr
  shape : W
  freeq : Addr
  readyq : Addr
  levels : List Level
  stages : List Stage
  seed : W
  nphase : BitVec 16
  image : List HEntry
  shapeImage : List Byte
  deriving DecidableEq, Repr

/-- What the dispatcher keeps of a context (R358), with the members' cores (R355), and the harts whose arrival at the barrier is
counted, those whose arrival is a second one of their core, and those whose episode has completed (R256). `quiescer` is the record of the strand
that handles its QUIESCE message (R242). -/
structure Ctx where
  queue : Nat
  record : Addr
  root : Nat
  compl : Nat
  rec_ : Launch
  groupCores : Nat
  groups : Nat
  share : Nat
  grown : Nat
  members : AMap Nat
  arrivals : List Nat
  later : List Nat
  passed : List Nat
  complete : Bool
  quiescer : Option W
  deriving DecidableEq, Repr

/-- Groups of a launch not yet issued (R360): the context, the record, the index and weight of the next ones, the
index and cluster of those of a nested child already issued, and the clock value from which it has waited. -/
structure Pending where
  ctx : BitVec 16
  rec_ : Launch
  nested : Bool
  groups : List (Nat × Nat)
  placed : List (Nat × Nat)
  since : Nat
  deriving DecidableEq, Repr

/-- A dispatcher's view of one launch queue (R348, R360, R361): the cluster it used last, its actions in the round,
the launches with groups to issue, a packet that waits for a context number and since which cycle, and the counts of R451. -/
structure LQueue where
  lastCluster : Option Nat
  used : Nat
  pending : List Pending
  packet : Option (W × Nat)
  accepted : BitVec 32
  refused : BitVec 32
  deriving DecidableEq, Repr

/-- A die's registers (R349, R425, R449) and units: the drain under way, a queue and its target cores (R366), and where
the dispatcher's pass stands (R360); `pointers` is the walkers' cache, of entries by their address (R341), and
`invalidating` the records whose DONE waits for accesses under way (R342). -/
structure Die where
  qtbase : BitVec 52
  hrbase : BitVec 52
  gangwait : BitVec 32
  tslice : BitVec 32
  tentry : Addr
  centry : Addr
  regbase : BitVec 52
  hblimit : BitVec 32
  heart : Vector (BitVec 32) 2
  heartAge : Vector Nat 2
  crashreg : W
  kroot : BitVec 52
  frlost : W
  reportSeq : BitVec 32
  drain : Option (Nat × List Nat)
  passAt : Nat
  pointers : List (Nat × Nat)
  invalidating : List Nat
  deriving DecidableEq, Repr

/-! ### Engines and links -/

/-- A port-table entry (R387). -/
structure Port where
  pblock : Nat
  vblock : Addr
  program : Addr
  valid : Bool
  mscope : BitVec 3
  ctx : BitVec 16
  accepted : BitVec 32
  deriving DecidableEq, Repr

/-- A job accepted on a port (R390). A job that ends at its start carries the status and detail it ends with. -/
structure Job where
  port : Nat
  idx : BitVec 32
  weight : Nat
  refused : Option (BitVec 8 × W)
  deriving DecidableEq, Repr

/-- A porter or carter (R387, R390). `ending` is the status, trap cause and detail of a job that waits for its responses
(R386), `root` the root table that the dispatcher gave the running job (R339). -/
structure Engine where
  ports : AMap Port
  jobs : List Job
  lastPort : Option Nat
  running : Option Job
  ending : Option (BitVec 8 × BitVec 8 × W)
  root : Nat
  deriving DecidableEq, Repr

/-- A carter port (R453) with the packets it holds or has forwarded (R395, R397); `restoring` from a RESTORE until the
link has trained. -/
structure Link where
  partner : BitVec 16
  retries : BitVec 16
  dead : Bool
  up : Bool
  restoring : Bool
  outstanding : List RemotePacket
  deriving DecidableEq, Repr

/-- A combining entry (R399): opened at the cycle `since`, `from_` the XADD of each contribution. -/
structure Combine where
  router : Nat
  ctx : BitVec 16
  frame : BitVec 8
  since : Nat
  pa : Nat
  kind : CellKind
  acc : Int
  flags : BitVec 4
  from_ : List Contributor
  deriving DecidableEq, Repr

/-- The module's own registers (R406, R439, R454 to R461). `kernelLen` is the length of the kernel image whose hash the boot
SRAM holds, `frozenAt` the cycle of the last crash, `locked` a freeze that only a cold start ends (R442), `corrected` the
last report and the unreported corrected errors of each unit (R347), `reply` what the last host access returned, `flashUntil` the
cycle up to which a firmware write is under way (R456), `hotSince` that from which TEMPMAX has stood at 105 °C (R461), both
counted from the first cold start. -/
structure Module where
  frame : BitVec 8
  cfg : Memory
  mbTag : BitVec 8
  mbOp : BitVec 8
  mbResult : BitVec 8
  mbBusy : Bool
  mbDropped : BitVec 32
  stage : BitVec 8
  log : Option (Nat × Nat)
  flash : List Byte
  minVersion : BitVec 32
  version : BitVec 32
  imageHash : List Byte
  kernelHash : List Byte
  powercap : BitVec 16
  powernow : BitVec 16
  tempmax : BitVec 16
  thermal : BitVec 2
  frozen : Option (BitVec 8)
  frozenAt : Nat
  locked : Bool
  crashes : List Nat
  kernelLen : Nat
  corrected : AMap (Nat × Nat)
  reply : List Byte
  flashUntil : Nat
  hotSince : Option Nat
  deriving DecidableEq, Repr

/-- The whole module. `cur` is the slot of the hart `turn`; the other harts are in `harts`. `events` are the operations
in flight, oldest first; `inputs` the outside world's, with the step at which each lands; `arbiter` the harts that get
the next turns (log entry 4). `cells` are keyed by the physical address that declared them (R155, R199). `tick` counts
core cycles since the cold start: it is CYCLE of every core (R26) and STAMP (R346). `clock` is `tick` without the cycles
of freezes: PHCNT, HLIMIT, time slices and lease CYC count it (R439). `epoch` counts the cycles before the cold start,
so that a free value is never used twice (log entry 4). `l2` holds the lines of each home slice, most recently used first. -/
structure State where
  cur : Slot
  turn : HartId
  harts : AMap Slot
  cores : AMap Core
  clusters : AMap Cluster
  dies : AMap Die
  ctxs : AMap Ctx
  queues : AMap LQueue
  engines : AMap Engine
  links : AMap Link
  mem : Memory
  pools : Memory
  l2 : AMap (List L2Line)
  poison : AMap (BitVec 32)
  poolPoison : AMap (BitVec 8)
  cells : AMap CellKind
  watches : List Watch
  combine : List Combine
  module : Module
  events : List Event
  inputs : List (Nat × Event)
  arbiter : List HartId
  tick : Nat
  clock : Nat
  tags : Nat
  epoch : Nat
  deriving DecidableEq, Repr

/-! ### Reset -/

/-- A closed stream port (R33). -/
def Stream.closed : Stream := ⟨false, 0, 0, 0, 0, false, false, 0⟩

/-- An empty slot: the values of R33 where it gives them, zero elsewhere (log entry 1). -/
def Slot.reset : Slot where
  live := false
  wfi := none
  earliest := 0
  pc := 0
  npc := 4
  nnpc := 8
  nullify := 0
  prev1 := .none
  prev2 := .none
  hint := none
  modw := none
  gpc := 0
  gnpc := 0
  gnnpc := 0
  gprev := (.none, .none)
  paid := none
  rep := none
  q := Vector.replicate 16 ⟨0, 0, 0⟩
  n := Vector.replicate 8 ⟨0, 0, 0⟩
  late := []
  iters := 0
  str := Vector.replicate 4 Stream.closed
  ckpt := Vector.replicate 4 Stream.closed
  sup := false
  checkstall := false
  fpte := 0
  rmode := 0
  fpflags := 0
  flagsDue := []
  fpTraps := []
  lateFaults := []
  openTag := 0
  overwritten := []
  wcur := 0
  ctx := 0
  seed := 0
  partw := 0
  pbase := 0
  geom := 0
  tcause := 0
  tinfo := 0
  tpc := 0
  rstart := 0
  phcnt := 0
  phAt := 0
  phexp := 0
  phmargin := 0
  phslack := 0
  phopen := false
  phsent := false
  lease := ⟨false, 0, 0, 0⟩
  vlanes := 0
  v := []
  m := Vector.replicate 4 0
  vgrant := 0
  lreq := none
  retired := 0
  stallcnt := 0
  traps := 0
  rollbacks := 0
  preempts := 0
  niWaits := 0
  crec := 0
  landing := none
  quiesce := false
  rotate := false
  failed := ⟨0, false, false, false⟩
  launches := 0
  runAt := 0
  hltaken := false
  hold := none
  request := none
  resumed := false
  byPreempt := false
  entryCtx := 0
  inTrap := false
  stopped := false
  entryN0 := 0
  entryTrap := ⟨0, 0, 0, 0, 0⟩
  save := []

/-- A core right after reset: no placement, nothing held (R30, R412; log entry 1). -/
def Core.reset : Core where
  hlimit := 0
  accown := 0
  acc64 := false
  accu := 0
  tiles := []
  edges := []
  seq := 0
  exchange := []
  placements := []
  ni := []
  returns := []
  lastH := none
  lastL := none
  noted := []
  chanPtr := []
  pubs := []
  subs := []
  expect := []
  l1 := []
  icache := []
  tlb := []
  spilledTiles := 0
  accepted := 0
  l1miss := 0
  undriven := 0

/-- A cluster right after reset: all eight lane units free, the array unleased and idle (R264, R287). -/
def Cluster.reset : Cluster where
  freeUnits := 8
  vwait := []
  holder := none
  leaseWait := []
  grantAt := 0
  lastH := none
  lastL := none
  cmdQ := []
  running := none
  oslots := []
  omem := []
  opoison := []
  ccache := []
  tileQ := []
  tlb := []

/-- A die's registers at reset (R349, R425). -/
def Die.reset : Die where
  qtbase := 0
  hrbase := 0
  gangwait := 1048576
  tslice := 65536
  tentry := 0
  centry := 0
  regbase := 0
  hblimit := 110000000
  heart := Vector.replicate 2 0
  heartAge := Vector.replicate 2 0
  crashreg := 0
  kroot := 0
  frlost := 0
  reportSeq := 0
  drain := none
  passAt := 0
  pointers := []
  invalidating := []

/-- A launch queue as a dispatcher first finds it. -/
def LQueue.reset : LQueue := ⟨none, 0, [], none, 0, 0⟩

/-- An engine with no port in use (R387). -/
def Engine.reset : Engine := ⟨[], [], none, none, none, 0⟩

/-- A carter port at reset (R453). -/
def Link.reset : Link := ⟨0, 0, false, false, false, []⟩

/-- The nonzero bytes of doublewords at rising addresses. -/
def bytesOfWords (ws : List (Nat × Nat)) : Memory :=
  ws.flatMap fun w =>
    (List.range 8).filterMap fun i =>
      let b : Byte := BitVec.ofNat 8 (w.2 / 2 ^ (8 * i))
      if b = 0 then none else some (w.1 + i, b)

/-- The payloads of the capabilities 0x0001 to 0x0007 (R460): 16 publisher entries and 64 slots, the cell bytes of a home
slice (R199), the second tier (R334), twelve ports (R453), 16 stages (R371). -/
def capabilities : List Nat := [16 + 64 * 256, 0, 1048576, 2 ^ 41, 0xFFF, 16, 0]

/-- The capability list with some units fenced (R457, R460): HEAD, then each entry, of 16 bytes, behind the one before, and
last the fenced units, as many as LENGTH can count (log entry 15). -/
def capabilityList (fenced : List Nat) : Memory :=
  let units := fenced.take 29
  let one (c : Nat × Nat) : List (Nat × Nat) :=
    let at_ := 0x3010 + 16 * c.2
    [(at_, (at_ + 16) * 2 ^ 32 + 16 * 2 ^ 24 + (c.2 + 1)), (at_ + 8, c.1)]
  bytesOfWords ((0x3000, 0x3010) :: capabilities.zipIdx.flatMap one ++
    (0x3080, (16 + 8 * units.length) * 2 ^ 24 + 8) :: (0x3088, units.length) ::
    units.zipIdx.map fun u => (0x3090 + 8 * u.2, u.1))

/-- The module's registers on entry to stage 0x10 (R454, R457, R461). -/
def Module.reset : Module where
  frame := 0
  cfg := capabilityList []
  mbTag := 0
  mbOp := 0
  mbResult := 0
  mbBusy := false
  mbDropped := 0
  stage := 0x10
  log := none
  flash := []
  minVersion := 0
  version := 0
  imageHash := []
  kernelHash := Config.sha384 []
  powercap := 3200
  powernow := 0
  tempmax := 0
  thermal := 0
  frozen := none
  frozenAt := 0
  locked := false
  crashes := []
  kernelLen := 0
  corrected := []
  reply := []
  flashUntil := 0
  hotSince := none

/-- A clerk as it starts on entry into stage 0x10 of a cold start (R430): at the base of the preserved region, in
supervisor mode, with n0 its agent number and every other register zero. -/
def Slot.clerkStart (agent : Nat) (warm : Bool) : Slot :=
  let base : Addr := 0x11FFC0000000
  { Slot.reset with
    live := true
    sup := true
    pc := base
    npc := base + 4
    nnpc := base + 8
    rstart := base
    n := ((Vector.replicate 8 ⟨0, 0, 0⟩).set 0 ⟨BitVec.ofNat 64 agent, 0, 0⟩).set 1 ⟨if warm then 1 else 0, 0, 0⟩ }

/-- The module right after reset: a cold start has just entered stage 0x10 (R457), the eight clerks have started
(R430), memory holds zeros, and no context exists. -/
def State.reset : State where
  cur := Slot.clerkStart 2316 false
  turn := 2316
  harts := (List.range 7).map fun i => (2317 + i, Slot.clerkStart (2317 + i) false)
  cores := []
  clusters := []
  dies := []
  ctxs := []
  queues := []
  engines := []
  links := []
  mem := []
  pools := []
  l2 := []
  poison := []
  poolPoison := []
  cells := []
  watches := []
  combine := []
  module := Module.reset
  events := []
  inputs := []
  arbiter := []
  tick := 0
  clock := 0
  tags := 1
  epoch := 0

end Sys2Proof.Machine
end

