-- ==== Sys2Proof/Machine/Store.lean ====
section
/-!
DEFINITION. Data held by key: sorted maps, byte memory in its canonical form, bytes and words.
-/
namespace Sys2Proof.Machine

/-! ### Maps -/

/-- The value at a key, if one is held. -/
def mapFind {α : Type} : AMap α → Nat → Option α
  | [], _ => none
  | (k, v) :: m, a => if k = a then some v else mapFind m a

/-- The value at a key, or `d`. -/
def mapGet {α : Type} (d : α) (m : AMap α) (a : Nat) : α := (mapFind m a).getD d

/-- The map with `v` at a key, still in increasing order. -/
def mapPut {α : Type} : AMap α → Nat → α → AMap α
  | [], a, v => [(a, v)]
  | (k, w) :: m, a, v =>
    if a < k then (a, v) :: (k, w) :: m
    else if a = k then (a, v) :: m
    else (k, w) :: mapPut m a v

/-- The map without a key. -/
def mapDel {α : Type} (m : AMap α) (a : Nat) : AMap α := m.filter fun p => p.1 != a

/-! ### Byte memory -/

/-- The canonical form: addresses strictly rising, no zero byte listed. -/
def Memory.wf : Memory → Bool
  | [] => true
  | [(_, b)] => b != 0
  | (a, b) :: (c, d) :: m => b != 0 && decide (a < c) && Memory.wf ((c, d) :: m)

/-- The byte at an address; an unlisted address reads as zero. -/
def memGet : Memory → Nat → Byte
  | [], _ => 0
  | (k, b) :: m, a => if k = a then b else memGet m a

/-- The memory with one byte written. -/
def memSet : Memory → Nat → Byte → Memory
  | [], a, b => if b = 0 then [] else [(a, b)]
  | (k, c) :: m, a, b =>
    if a < k then (if b = 0 then (k, c) :: m else (a, b) :: (k, c) :: m)
    else if a = k then (if b = 0 then m else (a, b) :: m)
    else (k, c) :: memSet m a b

/-- The memory with bytes written from an address upwards. -/
def memWrite : Memory → Nat → List Byte → Memory
  | m, _, [] => m
  | m, a, b :: bs => memWrite (memSet m a b) (a + 1) bs

/-- `n` bytes from an address upwards. -/
def memRead (m : Memory) (a n : Nat) : List Byte := (List.range n).map fun i => memGet m (a + i)

/-- The memory with `n` bytes from `a` set to zero. -/
def memClear (m : Memory) (a n : Nat) : Memory := m.filter fun c => c.1 < a || a + n ≤ c.1

/-! ### Bytes and words, least significant byte first (R8, R41) -/

/-- The value of bytes. -/
def leNat : List Byte → Nat
  | [] => 0
  | b :: bs => b.toNat + 256 * leNat bs

/-- The `n` low bytes of a number. -/
def natBytes : Nat → Nat → List Byte
  | 0, _ => []
  | n + 1, v => BitVec.ofNat 8 v :: natBytes n (v / 256)

/-- The doubleword that bytes spell, zero-extended. -/
def leWord (bs : List Byte) : W := BitVec.ofNat 64 (leNat bs)

/-- The low bytes of a word. -/
def wordBytes (n : Nat) (v : W) : List Byte := natBytes n v.toNat

/-- Byte `i` to `i + n - 1` of a block. -/
def slice (bs : List Byte) (i n : Nat) : List Byte := (bs.drop i).take n

/-- Doubleword at byte `i` of a block. -/
def dword (bs : List Byte) (i : Nat) : Nat := leNat (slice bs i 8)

/-- Bits `[hi:lo]` of a number. -/
def field (v hi lo : Nat) : Nat := (v / 2 ^ lo) % 2 ^ (hi - lo + 1)

/-- Bit `i` of a number. -/
def bitOf (v i : Nat) : Bool := v / 2 ^ i % 2 == 1

/-- One when true. -/
def b1 (b : Bool) : Nat := if b then 1 else 0

/-- The two's complement reading of the low `n` bits of a number. -/
def sextNat (n v : Nat) : Int :=
  let u := v % 2 ^ n
  if n = 0 then 0 else if u < 2 ^ (n - 1) then (u : Int) else (u : Int) - 2 ^ n

/-- A number as a doubleword, modulo 2^64. -/
def w64 (v : Nat) : W := BitVec.ofNat 64 v

/-- All ones. -/
def allOnes : W := 0xFFFFFFFFFFFFFFFF

/-- The first `n` bytes of a block, zeros where it is shorter. -/
def padded (n : Nat) (bs : List Byte) : List Byte := bs.take n ++ natBytes (n - bs.length) 0

/-- A list without its `i`-th element. -/
def dropAt {α : Type} : List α → Nat → List α
  | [], _ => []
  | _ :: l, 0 => l
  | x :: l, i + 1 => x :: dropAt l i

end Sys2Proof.Machine
end

