-- ==== Sys2Proof/Machine/Phys.lean ====
section
/-!
DEFINITION. Agents, physical addresses and canonical locations, homes, poison, page tables (R3, R15, R16, R326 to R328,
R335 to R344).
-/
namespace Sys2Proof.Machine

/-! ### Agents (R3, R15, R16) -/

/-- What runs as a hart. -/
inductive HartKind where
  | core | porter | carter | clerk | none
  deriving DecidableEq, Repr

/-- The agent number of an agent-and-slot value (R16). -/
def agentOf (h : HartId) : Nat := h.toNat % 4096

/-- Whether an agent-and-slot value names the H slot (R16). -/
def isH (h : HartId) : Bool := h.toNat / 4096 == 1

/-- The kind of an agent that runs instructions (R15). -/
def kindOfAgent (a : Nat) : HartKind :=
  if a < 2048 then .core else if a < 2304 then .porter else if a < 2316 then .carter
  else if a < 2324 then .clerk else .none

/-- The kind of a hart. -/
def kindOf (h : HartId) : HartKind := kindOfAgent (agentOf h)

/-- The die of an agent (R3, R15). -/
def dieOfAgent (a : Nat) : Nat :=
  if a < 2048 then a / 512 else if a < 2304 then (a - 2048) / 64 else if a < 2316 then (a - 2304) / 3
  else if a < 2324 then (a - 2316) / 2 else if a < 2580 then (a - 2324) / 64 else (a - 2580) % 4

/-- The global cluster of a core (R3). -/
def clusterOf (core : Nat) : Nat := core / 8

/-- The hart of a core's slot. -/
def hartOf (core : Nat) (h : Bool) : HartId := BitVec.ofNat 13 (core + if h then 4096 else 0)

/-! ### Physical addresses (R326, R327) -/

/-- Where a physical address lies. -/
inductive Region where
  | bonded (vault off : Nat)
  | second (off : Nat)
  | config (off : Nat)
  | host (off : Nat)
  | remote (port off : Nat)
  | hole
  deriving DecidableEq, Repr

/-- The map of physical addresses (R326), with bonded DRAM reduced to its vault and offset (R327). -/
def regionOf (pa : Nat) : Region :=
  if pa < 0x8000000000 then
    if pa % 2 ^ 31 < 0x60000000 then .bonded (pa / 2 ^ 31) (pa % 2 ^ 31) else .hole
  else if pa < 0x10000000000 then
    if pa % 2 ^ 37 < 0x1800000000 then
      let d := pa / 2 ^ 37 % 4
      let u := pa % 2 ^ 37 / 256
      let w := (u % 64) ^^^ (u / 64 % 64)
      .bonded (64 * d + w) (u / 64 * 256 + pa % 256)
    else .hole
  else if 0x100000000000 ≤ pa ∧ pa < 0x120000000000 then .second (pa - 0x100000000000)
  else if 0x200000000000 ≤ pa ∧ pa < 0x200100000000 then .config (pa - 0x200000000000)
  else if 0x8000000000000 ≤ pa ∧ pa < 0xF000000000000 then .host (pa - 0x8000000000000)
  else if 0xF000000000000 ≤ pa ∧ pa < 0xFC00000000000 then .remote (pa / 2 ^ 44 % 16) (pa % 2 ^ 44)
  else .hole

/-- The key of a byte in `State.mem`: for bonded DRAM the vault-direct name of its canonical location (R327), for other
memory the physical address. -/
def canonPa (pa : Nat) : Nat :=
  match regionOf pa with
  | .bonded v o => v * 2 ^ 31 + o
  | _ => pa

/-- The place a physical address names; none in a hole. -/
def locOf (pa : Nat) : Option Loc :=
  match regionOf pa with
  | .bonded v o => some (.mem (v * 2 ^ 31 + o))
  | .second _ => some (.mem pa)
  | .host _ => some (.mem pa)
  | .config o => some (.config o)
  | .remote _ _ => some (.remote pa)
  | .hole => none

/-- The home slice of a canonical address (R328). -/
def homeOf (pa : Nat) : Nat :=
  match regionOf pa with
  | .bonded v _ => v
  | .second o => ((o / 256) % 256) ^^^ ((o / 65536) % 256)
  | .host o => ((o / 256) % 256) ^^^ ((o / 65536) % 256)
  | _ => 0

/-- Whether a physical address lies in bonded DRAM or the second tier. -/
def isDevice (pa : Nat) : Bool :=
  match regionOf pa with
  | .bonded _ _ => true
  | .second _ => true
  | _ => false

/-- Whether a physical address lies in the remote window. -/
def isRemote (pa : Nat) : Bool :=
  match regionOf pa with
  | .remote _ _ => true
  | _ => false

/-- Whether `n` bytes from `pa` all exist and lie in memory, device or host. -/
def inMemory (pa n : Nat) : Bool :=
  let ok (p : Nat) : Bool :=
    match regionOf p with
    | .bonded _ _ => true
    | .second _ => true
    | .host _ => true
    | _ => false
  ok pa && ok (pa + n - 1)

/-! ### The die's, core's and slot's own parts of the state -/

/-- The slot of a hart. -/
def slotOf (s : State) (h : HartId) : Slot :=
  if h = s.turn then s.cur else mapGet Slot.reset s.harts h.toNat

/-- The state with a hart's slot replaced. -/
def setSlot (s : State) (h : HartId) (x : Slot) : State :=
  if h = s.turn then { s with cur := x } else { s with harts := mapPut s.harts h.toNat x }

/-- A core. -/
def coreOf (s : State) (c : Nat) : Core := mapGet Core.reset s.cores c

/-- The state with a core replaced. -/
def setCore (s : State) (c : Nat) (x : Core) : State := { s with cores := mapPut s.cores c x }

/-- A cluster. -/
def clusterAt (s : State) (c : Nat) : Cluster := mapGet Cluster.reset s.clusters c

/-- The state with a cluster replaced. -/
def setCluster (s : State) (c : Nat) (x : Cluster) : State := { s with clusters := mapPut s.clusters c x }

/-- A die. -/
def dieOf (s : State) (d : Nat) : Die := mapGet Die.reset s.dies d

/-- The state with a die replaced. -/
def setDie (s : State) (d : Nat) (x : Die) : State := { s with dies := mapPut s.dies d x }

/-- A launch queue. -/
def queueAt (s : State) (q : Nat) : LQueue := mapGet LQueue.reset s.queues q

/-- The state with a launch queue replaced. -/
def setQueue (s : State) (q : Nat) (x : LQueue) : State := { s with queues := mapPut s.queues q x }

/-- An engine, by its agent number. -/
def engineAt (s : State) (a : Nat) : Engine := mapGet Engine.reset s.engines a

/-- The state with an engine replaced. -/
def setEngine (s : State) (a : Nat) (x : Engine) : State := { s with engines := mapPut s.engines a x }

/-- A carter port. -/
def linkAt (s : State) (p : Nat) : Link := mapGet Link.reset s.links p

/-- The state with a carter port replaced. -/
def setLink (s : State) (p : Nat) (x : Link) : State := { s with links := mapPut s.links p x }

/-- A context's placement on a core, if it holds one. -/
def placementOf (s : State) (c : Nat) (ctx : BitVec 16) : Option Placement :=
  (coreOf s c).placements.find? fun p => p.ctx == ctx

/-- The state with a context's placement on a core replaced. -/
def setPlacement (s : State) (c : Nat) (p : Placement) : State :=
  let k := coreOf s c
  setCore s c { k with placements := k.placements.map fun q => if q.ctx = p.ctx then p else q }

/-- The state with an operation in flight added behind the others. -/
def emit (s : State) (i : Event) : State := { s with events := s.events ++ [i] }

/-- The state with a step that must follow at once. -/
def emitFirst (s : State) (i : Event) : State := { s with events := i :: s.events }

/-! ### Memory by canonical address -/

/-- `n` bytes from a physical address, as pieces that lie in one unit of 256 bytes each (R327): the canonical address
of each and its length. -/
def unitPieces : Nat → Nat → Nat → List (Nat × Nat)
  | 0, _, _ => []
  | fuel + 1, pa, n =>
    if n = 0 then []
    else
      let m := Nat.min n (256 - pa % 256)
      (canonPa pa, m) :: unitPieces fuel (pa + m) (n - m)

/-- `n` bytes of device or host memory from a physical address. -/
def physRead (s : State) (pa n : Nat) : List Byte :=
  ((unitPieces n pa n).map fun q => memRead s.mem q.1 q.2).flatten

/-- The doubleword at a physical address. -/
def physDword (s : State) (pa : Nat) : Nat := leNat (physRead s pa 8)

/-- Whether a sector that `n` bytes at a canonical address touch is poisoned (R344). -/
def poisonedMem (s : State) (ca n : Nat) : Bool :=
  n != 0 && s.poison.any fun p => decide (ca / 32 ≤ p.1) && decide (p.1 ≤ (ca + n - 1) / 32)

/-- Whether a byte of `n` from a physical address holds uncorrectable data (R344). -/
def poisonedPhys (s : State) (pa n : Nat) : Bool := (unitPieces n pa n).any fun q => poisonedMem s q.1 q.2

/-- The key of a pool byte. -/
def poolKey (core off : Nat) : Nat := core * 2 ^ 18 + off % 2 ^ 18

/-- `n` pool bytes. -/
def poolRead (s : State) (core off n : Nat) : List Byte := memRead s.pools (poolKey core off) n

/-- Whether a doubleword of a pool that `n` bytes touch is poisoned (R344). -/
def poisonedPool (s : State) (core off n : Nat) : Bool :=
  n != 0 && s.poolPoison.any fun p =>
    decide (poolKey core off / 8 ≤ p.1) && decide (p.1 ≤ (poolKey core off + n - 1) / 8)

/-- The bits set for bytes `lo` to `lo + n - 1` that lie in block `k` of `size` bytes. -/
def coverMask (k size lo n : Nat) : Nat :=
  ((List.range size).map fun i => if lo ≤ k * size + i ∧ k * size + i < lo + n then 2 ^ i else 0).foldl (· + ·) 0

/-- The poison left after `n` bytes at a canonical address are written: a sector clears once all its bytes have been
written (R344). -/
def clearPoison (s : State) (ca n : Nat) : State :=
  let step (p : Nat × BitVec 32) : Option (Nat × BitVec 32) :=
    let m := p.2 ||| BitVec.ofNat 32 (coverMask p.1 32 ca n)
    if m = BitVec.allOnes 32 then none else some (p.1, m)
  { s with poison := s.poison.filterMap step }

/-- The same for poisoned doublewords, by their number. -/
def clearWords (m : AMap (BitVec 8)) (off n : Nat) : AMap (BitVec 8) :=
  m.filterMap fun p =>
    let w := p.2 ||| BitVec.ofNat 8 (coverMask p.1 8 off n)
    if w = BitVec.allOnes 8 then none else some (p.1, w)

/-- The same for pool doublewords. -/
def clearPoolPoison (s : State) (core off n : Nat) : State :=
  { s with poolPoison := clearWords s.poolPoison (poolKey core off) n }

/-- Whether two ranges of bytes meet. -/
def rangesMeet (p q : Nat × Nat) : Bool := decide (p.1 < q.1 + q.2) && decide (q.1 < p.1 + p.2)

/-- The lines of every constant cache that `n` bytes at a canonical address touch dropped: LDK never differs from LD
(R184, R332). -/
def dropConstant (s : State) (ca n : Nat) : State :=
  let far (l : CodeLine) : Bool := !rangesMeet (l.line * 32, 32) (ca, n)
  if s.clusters.all fun k => k.2.ccache.all far then s
  else { s with clusters := s.clusters.map fun k => (k.1, { k.2 with ccache := k.2.ccache.filter far }) }

/-- Bytes written to device or host memory: nothing watches them. -/
def physWrite (s : State) (pa : Nat) (bs : List Byte) : State :=
  let pieces := unitPieces bs.length pa bs.length
  let put (acc : Memory × List Byte) (q : Nat × Nat) : Memory × List Byte :=
    (memWrite acc.1 q.1 (acc.2.take q.2), acc.2.drop q.2)
  pieces.foldl (fun s q => dropConstant (clearPoison s q.1 q.2) q.1 q.2) { s with mem := (pieces.foldl put (s.mem, bs)).1 }

/-- Pool bytes written: nothing watches them. -/
def poolWrite (s : State) (core off : Nat) (bs : List Byte) : State :=
  clearPoolPoison { s with pools := memWrite s.pools (poolKey core off) bs } core off bs.length

/-! ### Operand memory (R22, R343, R344) -/

/-- Bytes of a cluster's operand memory written. -/
def operandWrite (k : Cluster) (off : Nat) (bs : List Byte) : Cluster :=
  { k with omem := memWrite k.omem off bs, opoison := clearWords k.opoison off bs.length }

/-- An operand slot with all its bytes zero. -/
def operandClear (k : Cluster) (slot : Nat) : Cluster :=
  { k with omem := memClear k.omem (slot * 2048) 2048, opoison := k.opoison.filter fun p => p.1 / 256 != slot }

/-- The bytes of an operand slot as a matrix command of a cluster reads them: where uncorrectable data stands, free ones. -/
def slotBytes (k : Cluster) (cluster stamp n : Nat) : List Byte :=
  (List.range 2048).map fun i =>
    let at_ := n * 2048 + i
    if (mapFind k.opoison (at_ / 8)).isSome then Config.poisonedOperand cluster at_ stamp else memGet k.omem at_

/-! ### Exact cells in memory (R155, R199, R203) -/

/-- The bytes of a cell. -/
def cellBytes : CellKind → Nat
  | .xa32 => 64
  | .xa64 => 320

/-- What a cell counts for in its home slice's capacity (R199). -/
def cellCharge : CellKind → Nat
  | .xa32 => 64
  | .xa64 => 512

/-- The canonical pieces of the cell declared at a physical address (R155). -/
def cellPieces (pa : Nat) (k : CellKind) : List (Nat × Nat) := unitPieces 3 pa (cellBytes k)

/-- Whether `n` bytes at a canonical address touch a declared cell. -/
def touchesCell (s : State) (ca n : Nat) : Bool :=
  s.cells.any fun c => (cellPieces c.1 c.2).any fun q => rangesMeet q (ca, n)

/-! ### Translation (R335 to R341) -/

/-- The attributes of a leaf, bits [5:0] of its entry (R336). -/
structure Attrs where
  s : Bool
  k : Bool
  u : Bool
  x : Bool
  w : Bool
  r : Bool
  deriving DecidableEq, Repr

/-- The attributes in bits [5:0]. -/
def attrsOf (b : Nat) : Attrs := ⟨bitOf b 5, bitOf b 4, bitOf b 3, bitOf b 2, bitOf b 1, bitOf b 0⟩

/-- The outcome of a walk (R338): not mapped, with the malformed entry met if any; uncorrectable data; or mapped. -/
inductive WalkResult where
  | unmapped (malformed : Option (Nat × Nat))
  | poisoned
  | mapped (pa size attrs : Nat)
  deriving DecidableEq, Repr

/-- Whether a page of `size` bytes lies wholly within populated addresses of one region, the one PLACE names. -/
def leafPlaceOk (place pa size : Nat) : Bool :=
  match regionOf pa, regionOf (pa + size - 1) with
  | .bonded v _, .bonded v' _ =>
    if pa < 0x8000000000 then place == 1 && v == v' && decide (pa + size ≤ 0x8000000000)
    else place == 0 && pa / 2 ^ 37 == (pa + size - 1) / 2 ^ 37
  | .second _, .second _ => place == 2
  | .host _, .host _ => place == 3
  | .remote p _, .remote p' _ => place == 3 && p == p'
  | .config _, .config _ => place == 3
  | _, _ => false

/-- Whether a valid entry is malformed at a level (R337). -/
def malformedEntry (e lvl : Nat) : Bool :=
  let leaf := bitOf e 62
  let place := field e 61 60
  let a := attrsOf e
  let size := 2 ^ (16 + 10 * lvl)
  let pa := field e 51 16 * 65536
  if field e 59 52 != 0 then true
  else if leaf then
    field e 15 6 != 0 || lvl == 3 || pa % size != 0 || !leafPlaceOk place pa size ||
      (match regionOf pa with
       | .remote _ _ => !a.s
       | .config _ => a.u || !a.s
       | _ => false)
  else field e 12 0 != 0 || lvl == 0 || place != 0 || !isDevice (field e 51 13 * 8192)

/-- The walk from the table at `t`, `fuel` levels down, with the pointers a die's walkers hold (R338, R341). -/
def walkFrom (held : List (Nat × Nat)) (s : State) (va : Nat) : Nat → Nat → WalkResult
  | 0, _ => .unmapped none
  | lvl + 1, t =>
    let at_ := t + 8 * (va / 2 ^ (16 + 10 * lvl) % 1024)
    let cached := mapFind held (canonPa at_)
    if cached.isNone && poisonedMem s (canonPa at_) 8 then .poisoned
    else
      let e := cached.getD (physDword s at_)
      if !bitOf e 63 then .unmapped none
      else if malformedEntry e lvl then .unmapped (some (canonPa at_, lvl))
      else if bitOf e 62 then
        .mapped (field e 51 16 * 65536 + va % 2 ^ (16 + 10 * lvl)) (2 ^ (16 + 10 * lvl)) (e % 64)
      else walkFrom held s va lvl (field e 51 13 * 8192)

/-- The identity map of a clerk while KROOT is 0 (R428). -/
def identityMap (va : Nat) : WalkResult :=
  if va < 2 ^ 52 then .mapped va 65536 0b101111 else .unmapped none

/-- What stands for the resident kernel's root table while KROOT is 0: no physical address. -/
def identityRoot : Nat := 2 ^ 52

/-- The walk of a virtual address from a root table (R338). -/
def walk (s : State) (root va : Nat) : WalkResult :=
  if root = identityRoot then identityMap va else walkFrom [] s va 4 root

/-- The pointer entries that a walk reads, for the walkers' cache (R341). -/
def walkPointers (s : State) (va : Nat) : Nat → Nat → List (Nat × Nat)
  | 0, _ => []
  | lvl + 1, t =>
    let at_ := t + 8 * (va / 2 ^ (16 + 10 * lvl) % 1024)
    let e := physDword s at_
    if bitOf e 63 && !bitOf e 62 && !malformedEntry e lvl && !poisonedMem s (canonPa at_) 8 then
      (canonPa at_, e) :: walkPointers s va lvl (field e 51 13 * 8192)
    else []

/-- The resident kernel's root table on a die (R339, R428). -/
def kernelRoot (s : State) (die : Nat) : Nat :=
  let r := (dieOf s die).kroot
  if r = 0 then identityRoot else r.toNat

/-- The resident kernel's map of a die (R339, R428). -/
def kernelWalk (s : State) (die va : Nat) : WalkResult := walk s (kernelRoot s die) va

/-- The root table a hart translates with: the resident kernel's in supervisor mode, otherwise its context's, as its core or
its engine's job was given it (R339). -/
def rootOf (s : State) (h : HartId) : Nat :=
  let x := slotOf s h
  let a := agentOf h
  match kindOf h with
  | .core =>
    if x.sup then kernelRoot s (dieOfAgent a)
    else match placementOf s a x.ctx with
      | some p => p.root
      | none => 0
  | .clerk => kernelRoot s (dieOfAgent a)
  | _ => (engineAt s a).root

/-- The tag of a hart's translations: its context, or in supervisor mode 0, which numbers no context, for the resident
kernel's root. DESIGN CHOICE (log entry 123): R340 gives the kernel's translations no tag. -/
def asidOf (s : State) (h : HartId) : BitVec 16 :=
  let x := slotOf s h
  if x.sup then 0 else x.ctx

/-- Whether an entry translates an address for a tag: the context number alone, so an entry that a change of ROOT or a new
context of the number has made stale translates until an invalidation removes it (R340, R342). -/
def TlbEntry.covers (e : TlbEntry) (ctx : BitVec 16) (va : Nat) : Bool :=
  e.ctx == ctx && decide (e.base ≤ va) && decide (va < e.base + e.size)

/-- A walk by a compute die's walkers, which use the pointers they hold (R341). -/
def dieWalk (s : State) (die root va : Nat) : WalkResult :=
  if root = identityRoot then identityMap va else walkFrom (dieOf s die).pointers s va 4 root

/-- The translation of a virtual address for a hart: an entry that its core or its cluster holds, or else a walk
(R340, R341). -/
def translate (s : State) (h : HartId) (va : Nat) : WalkResult :=
  let root := rootOf s h
  let a := agentOf h
  match kindOf h with
  | .core =>
    let fits (e : TlbEntry) : Bool := e.covers (asidOf s h) va
    match (coreOf s a).tlb.find? fits <|> (clusterAt s (clusterOf a)).tlb.find? fits with
    | some e => .mapped (e.pa + (va - e.base)) e.size e.attrs.toNat
    | none => dieWalk s (dieOfAgent a) root va
  | _ => walk s root va

/-- Whether the core already holds a translation of the address. -/
def tlbHit (s : State) (h : HartId) (va : Nat) : Bool :=
  (coreOf s (agentOf h)).tlb.any fun e => e.covers (asidOf s h) va

/-- A translation by a hart made known: a page that its core does not hold yet enters its TLB, a malformed entry is reported
(R337, R338). -/
def noteTranslation (s : State) (h : HartId) (va : Nat) (r : WalkResult) : State :=
  let found : Event := .pageWalk (agentOf h) (asidOf s h) (rootOf s h) (BitVec.ofNat 56 va)
  match r with
  | .mapped _ _ _ => if kindOf h == .core && !tlbHit s h va then emit s found else s
  | .unmapped (some _) => emit s found
  | _ => s

/-- The state with another hart as the executing one. -/
def switchTo (s : State) (h : HartId) : State :=
  if h = s.turn then s
  else { s with
    harts := mapDel (mapPut s.harts s.turn.toNat s.cur) h.toNat
    cur := mapGet Slot.reset s.harts h.toNat
    turn := h }

end Sys2Proof.Machine
end

