-- ==== Sys2Proof/Machine/Home.lean ====
section
/-!
DEFINITION. What performs at a home slice, a pool or a network interface: stores with what watches them, published
regions, queues, weight, reports (R38, R39, R204 to R210, R309, R344, R346, R347, R390, R412 to R414, R421).
-/
namespace Sys2Proof.Machine

/-! ### The partition word (R23 to R25) -/

/-- REGU, in units of 4 KiB. -/
def regu (p : BitVec 32) : Nat := field p.toNat 7 0
/-- SPADU. -/
def spadu (p : BitVec 32) : Nat := field p.toNat 15 8
/-- ACCU. -/
def accuOf (p : BitVec 32) : Nat := field p.toNat 23 16
/-- VMAX. -/
def vmaxOf (p : BitVec 32) : Nat := field p.toNat 27 24
/-- ACC64. -/
def acc64Of (p : BitVec 32) : Bool := bitOf p.toNat 28

/-- The bytes of a tile (R21). -/
def tileSize (acc64 : Bool) : Nat := if acc64 then 8192 else 4096

/-- Whether tile `i` exists (R21). -/
def tileExists (acc64 : Bool) (accu i : Nat) : Bool := decide ((i + 1) * tileSize acc64 ≤ accu * 4096)

/-- When a partition word is valid (R24). -/
def partwOk (p : BitVec 32) : Bool :=
  decide (2 + 4 * vmaxOf p ≤ regu p * 4) && decide (1 ≤ spadu p) && decide (vmaxOf p ≤ 8) &&
    decide (regu p + spadu p + accuOf p ≤ 64) && field p.toNat 31 29 == 0

/-- The pool offset of local offset 0 (R25). -/
def padBase (partw : BitVec 32) (pbase : BitVec 18) : Nat := pbase.toNat + regu partw * 4096

/-- The scratchpad's size in bytes. -/
def padSize (partw : BitVec 32) : Nat := spadu partw * 4096

/-! ### Published regions (R412 to R414) -/

/-- The closing of one publisher entry's batch: an update for each of its slots, each with that slot's SEQ, with what
the slot's snapshot does not already hold (R414, R419). -/
def closeBatch (s : State) (core i : Nat) : State :=
  let k := coreOf s core
  match mapFind k.pubs i with
  | none => s
  | some e =>
    match e.batch with
    | none => s
    | some (line, bytes, _) =>
      let data := match placementOf s core e.ctx with
        | some p => poolRead s core (padBase p.partw p.pbase + e.base + line) 32
        | none => []
      let one (acc : AMap SubSlot × List Event) (j : Nat) : AMap SubSlot × List Event :=
        match mapFind acc.1 j with
        | none => acc
        | some t =>
          let new := bytes.filter fun b => !t.skip.contains b.1
          let t := { t with skip := [] }
          if new.isEmpty then (mapPut acc.1 j t, acc.2)
          else
            let u : Update := ⟨e.ctx, core, j, t.subCore, t.subOff + line, t.seq, new, data⟩
            (mapPut acc.1 j { t with seq := t.seq + 1 }, acc.2 ++ [.updateApply u])
      let (subs, evs) := e.slots.foldl one (k.subs, [])
      let s := setCore s core { k with pubs := mapPut k.pubs i { e with batch := none, writers := [] }, subs := subs }
      { s with events := s.events ++ evs }

/-- The closing of every open batch of a core (R211, R259). -/
def closeBatches (s : State) (core : Nat) : State :=
  ((coreOf s core).pubs.map (·.1)).foldl (fun s i => closeBatch s core i) s

/-- One byte written at a pool offset, as it enters the batch of publisher entry `i` when it lies in its region. -/
def batchByte (core off : Nat) (b : Byte) (s : State) (i : Nat) : State :=
  match mapFind (coreOf s core).pubs i with
  | none => s
  | some e =>
    match placementOf s core e.ctx with
    | none => s
    | some p =>
      let start := padBase p.partw p.pbase + e.base
      if start ≤ off ∧ off < start + e.len then
        let line := (off - start) / 32 * 32
        let s := match e.batch with
          | some (l, _, _) => if l = line then s else closeBatch s core i
          | none => s
        let k := coreOf s core
        match mapFind k.pubs i with
        | none => s
        | some e =>
          let (bytes, since) := match e.batch with
            | some (_, bs, t) => (bs, t)
            | none => ([], s.tick)
          let at_ := (off - start) % 32
          let fresh (q : Nat × SubSlot) : Nat × SubSlot :=
            if q.2.entry = i then (q.1, { q.2 with skip := q.2.skip.filter fun j => j != at_ }) else q
          setCore s core { k with
            pubs := mapPut k.pubs i { e with batch := some (line, mapPut bytes at_ b, since) }
            subs := k.subs.map fresh }
      else s

/-- Bytes written at a pool offset, as the core's publisher entries see them. -/
def publish : State → Nat → Nat → List Byte → State
  | s, _, _, [] => s
  | s, core, off, b :: bs =>
    publish (((coreOf s core).pubs.map (·.1)).foldl (batchByte core off b) s) core (off + 1) bs

/-- A write performed at a core's pool (R309, R344, R413). -/
def poolPerform (s : State) (core off : Nat) (bs : List Byte) : State :=
  publish (poolWrite s core off bs) core off bs

/-! ### Memory at its home -/

/-- The engine port whose KICK word a store of `n` bytes touches: any port that the kernel has written and not zeroed
(R390). -/
def kickedPort (s : State) (ca n : Nat) : Option (Nat × Nat) :=
  s.engines.findSome? fun e =>
    e.2.ports.findSome? fun p =>
      if ca < canonPa p.2.pblock + 4 ∧ canonPa p.2.pblock < ca + n then some (e.1, p.1) else none

/-- What follows a write at a home: the watches whose word now differs fire (R208), and a kick is taken in the same
step (R390). -/
def afterWrite (s : State) (ca n : Nat) : State :=
  let hit := s.watches.filter fun w =>
    decide (ca < w.pa + w.size) && decide (w.pa < ca + n) &&
      leNat (memRead s.mem w.pa w.size) != w.val.toNat % 2 ^ (8 * w.size)
  let s := { s with events := s.events ++ hit.map Event.watchFire }
  match kickedPort s ca n with
  | some (e, p) => emitFirst s (.kick (BitVec.ofNat 12 e) p)
  | none => s

/-! ### Home slices (R331, R332; log entry 75) -/

/-- The set of a slice's line. -/
def l2Set (line : Nat) : Nat := line % 2048

/-- Whether a slice's line is pinned (R331): a cell, a home record of a context, a watch, or a queue header in use. -/
def pinned (s : State) (l : L2Line) : Bool :=
  let here : Nat × Nat := (l.line * 256, 256)
  l.header || (s.cells.any fun c => (cellPieces c.1 c.2).any (rangesMeet here)) ||
    (s.watches.any fun w => rangesMeet here (w.pa, w.size)) ||
    s.ctxs.any fun c => rangesMeet here (canonPa ((dieOf s (c.2.queue / 64)).hrbase.toNat + 32 * c.1), 32)

/-- The lines that stay of a slice when a set holds `n` lines more besides its pinned ones, the most recently used. -/
def keepWays (s : State) (set : Nat) : Nat → List L2Line → List L2Line
  | _, [] => []
  | n, l :: ls =>
    if l2Set l.line ≠ set ∨ pinned s l then l :: keepWays s set n ls
    else match n with
      | 0 => keepWays s set 0 ls
      | n + 1 => l :: keepWays s set n ls

/-- The lines of a slice with a set cut to sixteen, the pinned ones among them (R331). -/
def cutSet (s : State) (set : Nat) (ls : List L2Line) : List L2Line :=
  keepWays s set (16 - (ls.filter fun l => l2Set l.line == set && pinned s l).length) ls

/-- One line of a slice made its most recently used, with the sectors that `n` bytes at a canonical address touch filled,
and dirty after a write. Lines beyond the sixteenth of the set leave; what memory holds stays what their home gave it. -/
def touchLine (s : State) (write header : Bool) (ca n : Nat) : State :=
  let home := homeOf ca
  let line := ca / 256
  let ls := mapGet [] s.l2 home
  let old := (ls.find? fun l => l.line == line).getD ⟨line, 0, 0, false⟩
  let m : BitVec 8 := BitVec.ofNat 8 (coverMask 0 8 (ca % 256 / 32) ((ca % 256 + n - 1) / 32 + 1 - ca % 256 / 32))
  let new : L2Line := ⟨line, old.valid ||| m, if write then old.dirty ||| m else old.dirty, old.header || header⟩
  { s with l2 := mapPut s.l2 home (cutSet s (l2Set line) (new :: ls.filter fun l => l.line != line)) }

/-- The lines of its home slices that an access of `n` bytes at a canonical address touches. -/
def touchHome (s : State) (ca n : Nat) (write header : Bool) : State :=
  if n = 0 then s
  else
    (List.range ((ca + n - 1) / 256 + 1 - ca / 256)).foldl (fun s i =>
      let lo := Nat.max ca ((ca / 256 + i) * 256)
      touchLine s write header lo (Nat.min (ca + n) ((ca / 256 + i + 1) * 256) - lo)) s

/-- A write performed at the home of a canonical address (R309, R344). -/
def homeWrite (s : State) (ca : Nat) (bs : List Byte) : State :=
  let s := { s with mem := memWrite s.mem ca bs }
  let s := dropConstant (touchHome s ca bs.length true false) ca bs.length
  afterWrite (clearPoison s ca bs.length) ca bs.length

/-- A failed store, counted in its slot until a fence reports it (R177, R210). -/
def failStore (s : State) (h : HartId) (woff refused dead : Bool) : State :=
  let x := slotOf s h
  let f := x.failed
  setSlot s h { x with failed := ⟨f.count + 1, f.woff || woff, f.refused || refused, f.deadlink || dead⟩ }

/-- Which of the free values is next: the cycles since the module first ran (log entry 4). -/
def freeStamp (s : State) : Nat := s.epoch + s.tick

/-! ### Reports (R346, R347, R435) -/

/-- The offset in the configuration window of a die's block (R449). -/
def dieBlock (d : Nat) : Nat := 0x1000000 * (d + 1)

/-- The 64 bytes of a raw fault-report record (R346). -/
def rawRecord (s : State) (die kind unit phys span detail : Nat) (corrected : Bool) : List Byte :=
  natBytes 8 s.tick ++
    natBytes 8 ((dieOf s die).reportSeq.toNat + unit * 2 ^ 32 + b1 corrected * 2 ^ 55 + kind * 2 ^ 56) ++
    natBytes 8 (phys % 2 ^ 52) ++ natBytes 8 (span % 2 ^ 32) ++ natBytes 16 0 ++ natBytes 8 detail ++ natBytes 8 0

/-! ### Queues (R204 to R207) -/

/-- A queue header (R204). -/
structure QHeader where
  base : Nat
  kind : Nat
  logcap : Nat
  head : Nat
  tail : Nat
  empty : Nat
  ok : Bool
  deriving DecidableEq, Repr

/-- The header in 64 bytes; `ok` is false when R207 calls it malformed. -/
def qheaderOf (bs : List Byte) : QHeader :=
  let d (i : Nat) := dword bs i
  let base := d 0
  let k := field (d 8) 7 4
  let l := field (d 8) 3 0
  { base := base, kind := k, logcap := l, head := d 16, tail := d 24, empty := d 32
    ok := decide (base < 2 ^ 56) && base % 64 == 0 && decide (base < 0xFFFFFF00000000) &&
      decide (d 8 < 256) && decide (k ≤ 1) && decide (1 ≤ l) && d 40 == 0 && d 48 == 0 && d 56 == 0 }

/-- The bytes at a place: of memory, or of a queue header in the configuration window. -/
def headerBytes (s : State) : Loc → List Byte
  | .mem ca => memRead s.mem ca 64
  | .config off => memRead s.module.cfg off 64
  | _ => []

/-- Whether a header is poisoned at its home (R344). -/
def headerPoisoned (s : State) : Loc → Bool
  | .mem ca => poisonedMem s ca 64
  | _ => false

/-- HEAD and TAIL written back. -/
def setHeadTail (s : State) (l : Loc) (head tail : Nat) : State :=
  let bs := natBytes 8 head ++ natBytes 8 tail
  match l with
  | .mem ca => homeWrite s (ca + 16) bs
  | .config off => { s with module := { s.module with cfg := memWrite s.module.cfg (off + 16) bs } }
  | _ => s

/-- What a queue operation at its home answers: a value, or a refusal with a cause and a reason, and the ring address where
the ring is at fault. -/
inductive QAnswer where
  | value (v : Nat) (s : State)
  | refuse (c : Cause) (reason : Nat) (ring : Option Nat)

/-- The PROTECT reason of a queue operation on a ring page, in the order of R174 and R338 (log entry 27). -/
def queueRefusal (sup : Bool) (a : Attrs) : Option Nat :=
  if !sup && !a.u then some 0 else if a.k then some 1 else if !a.r || !a.w then some 0 else none

/-- The canonical address of `n` ring bytes at a virtual address, under the issuer's root and mode, or why the operation is
refused: the ring page is not mapped, does not allow a queue operation, or its walk or the bytes hold uncorrectable data
(R204, R338, R344). DESIGN CHOICE (log entry 27): a ring that starts below the scratchpad window and whose entry runs into it
is walked there as any other address is; no rule checks an entry against the window. -/
def ringAt (s : State) (root : Nat) (sup : Bool) (va n : Nat) : Except (Cause × Nat) Nat :=
  match walk s root va with
  | .mapped pa _ attrs =>
    match queueRefusal sup (attrsOf attrs) with
    | some r => .error (.protect, r)
    | none =>
      if !inMemory pa n then .error (.page, 0)
      else if poisonedMem s (canonPa pa) n then .error (.memerr, 0)
      else .ok (canonPa pa)
  | .poisoned => .error (.memerr, 0)
  | .unmapped _ => .error (.page, 0)

/-- The virtual address of the ring entry that a queue operation reaches, and its length: ENQ and SEQENQ by TAIL and the
sequence number, DEQ and SEQDEQ by HEAD (R205, R206). -/
def ringEntry (q : QHeader) (op : QueueOp) (c : Nat) : Nat × Nat :=
  match op with
  | .enq => (q.base + 8 * (q.tail % 2 ^ q.logcap), 8)
  | .deq => (q.base + 8 * (q.head % 2 ^ q.logcap), 8)
  | .seqenq => (q.base + 16 * (c % 2 ^ q.logcap), 16)
  | .seqdeq => (q.base + 16 * (q.head % 2 ^ q.logcap), 16)

/-- The canonical address of the ring entry of a queue operation, or the refusal. -/
def entryOf (s : State) (root : Nat) (sup : Bool) (q : QHeader) (op : QueueOp) (c : Nat) : Except QAnswer Nat :=
  let e := ringEntry q op c
  match ringAt s root sup e.1 e.2 with
  | .ok ca => .ok ca
  | .error (x, r) => .error (.refuse x r (some e.1))

/-- ENQ at the header's home (R205). -/
def enqHome (s : State) (l : Loc) (root : Nat) (sup : Bool) (b : Nat) : QAnswer :=
  let q := qheaderOf (headerBytes s l)
  if !q.ok then .refuse .queue 1 none
  else if q.kind ≠ 0 then .refuse .queue 2 none
  else if b = q.empty then .value 2 s
  else if (q.tail + 2 ^ 64 - q.head) % 2 ^ 64 = 2 ^ q.logcap then .value 1 s
  else match entryOf s root sup q .enq 0 with
    | .error a => a
    | .ok ca => .value 0 (setHeadTail (homeWrite s ca (natBytes 8 b)) l q.head ((q.tail + 1) % 2 ^ 64))

/-- DEQ at the header's home (R205). -/
def deqHome (s : State) (l : Loc) (root : Nat) (sup : Bool) : QAnswer :=
  let q := qheaderOf (headerBytes s l)
  if !q.ok then .refuse .queue 1 none
  else if q.kind ≠ 0 then .refuse .queue 2 none
  else if q.head = q.tail then .value q.empty s
  else match entryOf s root sup q .deq 0 with
    | .error a => a
    | .ok ca => .value (leNat (memRead s.mem ca 8)) (setHeadTail s l ((q.head + 1) % 2 ^ 64) q.tail)

/-- SEQENQ at the header's home (R206). -/
def seqenqHome (s : State) (l : Loc) (root : Nat) (sup : Bool) (b c : Nat) : QAnswer :=
  let q := qheaderOf (headerBytes s l)
  if !q.ok then .refuse .queue 1 none
  else if q.kind ≠ 1 then .refuse .queue 2 none
  else if b = q.empty then .value 2 s
  else if c = 2 ^ 64 - 1 ∨ c < q.head ∨ q.head + 2 ^ q.logcap ≤ c then .value 1 s
  else match entryOf s root sup q .seqenq c with
    | .error a => a
    | .ok ca =>
      if leNat (memRead s.mem (ca + 8) 8) ≠ 0 then .value 3 s
      else .value 0
        (setHeadTail (homeWrite s ca (natBytes 8 b ++ natBytes 8 (c + 1))) l q.head ((q.tail + 1) % 2 ^ 64))

/-- SEQDEQ at the header's home (R206). -/
def seqdeqHome (s : State) (l : Loc) (root : Nat) (sup : Bool) : QAnswer :=
  let q := qheaderOf (headerBytes s l)
  if !q.ok then .refuse .queue 1 none
  else if q.kind ≠ 1 then .refuse .queue 2 none
  else match entryOf s root sup q .seqdeq 0 with
    | .error a => a
    | .ok ca =>
      if leNat (memRead s.mem (ca + 8) 8) ≠ q.head + 1 then .value q.empty s
      else .value (leNat (memRead s.mem ca 8))
        (setHeadTail (homeWrite s (ca + 8) (natBytes 8 0)) l ((q.head + 1) % 2 ^ 64) ((q.tail + 2 ^ 64 - 1) % 2 ^ 64))

/-- A raw record of a die's unit: written in the pool and enqueued, or counted as lost when the queue takes no item
(R347; log entry 7). -/
def fileReport (s : State) (die : Nat) (record : List Byte) : State :=
  let d := dieOf s die
  let pa := Config.faultRecord die d.reportSeq.toNat
  let s := setDie s die { d with reportSeq := d.reportSeq + 1 }
  match enqHome s (.config (dieBlock die + 0x1040)) (kernelRoot s die) true pa with
  | .value 0 s' => physWrite s' pa record
  | _ =>
    let d := dieOf s die
    setDie s die { d with frlost := if d.frlost = allOnes then d.frlost else d.frlost + 1 }

/-- A raw report of a kind from a unit (R346). -/
def report (s : State) (die kind unit phys span detail : Nat) (corrected : Bool) : State :=
  fileReport s die (rawRecord s die kind unit phys span detail corrected)

/-! ### Walks of slices, dispatchers and cores (R337) -/

/-- Whether a walk meets a malformed entry (R337). -/
def walkMalformed (s : State) (root va : Nat) : Bool :=
  match walk s root va with
  | .unmapped (some _) => true
  | _ => false

/-- The agent number of a home slice (R15). -/
def sliceAgent (home : Nat) : Nat := 2324 + home

/-- The agent number of a die's dispatcher (R15). -/
def dispatcherAgent (die : Nat) : Nat := 2580 + die

/-- A malformed entry that an agent's walk meets is made known, for its report (R337, R346). -/
def noteWalkAt (s : State) (agent root va : Nat) : State :=
  if walkMalformed s root va then emit s (.pageWalk agent 0 root (BitVec.ofNat 56 va)) else s

/-- The same for the ring address of a refused queue operation, walked by the home slice of its header. -/
def noteRing (s : State) (l : Loc) (root : Nat) (ring : Option Nat) : State :=
  let home := match l with
    | .mem ca => homeOf ca
    | _ => 0
  match ring with
  | some va => noteWalkAt s (sliceAgent home) root va
  | none => s

/-! ### Context queues (R235, R236) -/

/-- The launch record in force for a context, if the dispatcher knows the context (R358). -/
def ctxOf (s : State) (c : BitVec 16) : Option Ctx := mapFind s.ctxs c.toNat

/-- The physical address of a context's home record: HRBASE of the die that serves its queue (R349). -/
def homeRecord (s : State) (c : BitVec 16) : Nat :=
  let die := match ctxOf s c with
    | some x => x.queue / 64
    | none => 0
  (dieOf s die).hrbase.toNat + 32 * c.toNat

/-- The header of a context's free-record queue (R235, R236). -/
def freeQueue (s : State) (c : BitVec 16) : Addr :=
  match ctxOf s c with
  | some x => if x.rec_.freeq = 0 then Config.kernelFreeq c else x.rec_.freeq
  | none => Config.kernelFreeq c

/-- The header of a context's ready queue. -/
def readyQueue (s : State) (c : BitVec 16) : Addr :=
  match ctxOf s c with
  | some x => if x.rec_.readyq = 0 then Config.kernelReadyq c else x.rec_.readyq
  | none => Config.kernelReadyq c

/-- The root table of a context, as the dispatcher holds it (R339). -/
def ctxRoot (s : State) (c : BitVec 16) : Nat :=
  match ctxOf s c with
  | some x => x.root
  | none => 0

/-- The place of a readable queue header at a virtual address of a context (R344). -/
def headerLoc (s : State) (root : Nat) (va : Addr) : Option Loc :=
  match walk s root va.toNat with
  | .mapped pa _ _ => if inMemory pa 64 && !poisonedMem s (canonPa pa) 64 then some (.mem (canonPa pa)) else none
  | _ => none

/-- The root with which an agent reaches a context's records and queues: a core's, as the dispatcher loaded it into the core
with the placement (R339). DESIGN CHOICE (log entry 122): a home slice, into which R339 has no root loaded, takes that of the
dispatcher. -/
def agentRoot (s : State) (agent : Nat) (c : BitVec 16) : Nat :=
  match (if kindOfAgent agent = .core then placementOf s agent c else none) with
  | some p => p.root
  | none => ctxRoot s c

/-- The virtual addresses that a take from one of the context's queues walks: the header, and the ring entry at its head when
it holds an item. -/
def deqWalks (s : State) (agent : Nat) (c : BitVec 16) (header : Addr) : List Nat :=
  match headerLoc s (agentRoot s agent c) header with
  | none => [header.toNat]
  | some l =>
    let q := qheaderOf (headerBytes s l)
    if q.ok ∧ q.kind = 0 ∧ q.head ≠ q.tail then [header.toNat, (ringEntry q .deq 0).1] else [header.toNat]

/-- The address of a record put on one of the context's queues by an agent. -/
def enqFor (s : State) (agent : Nat) (c : BitVec 16) (header : Addr) (v : W) : State :=
  match headerLoc s (agentRoot s agent c) header with
  | none => noteWalkAt s agent (agentRoot s agent c) header.toNat
  | some l =>
    match enqHome s l (agentRoot s agent c) true v.toNat with
    | .value _ s' => s'
    | .refuse _ _ ring => noteRing s l (agentRoot s agent c) ring

/-- The record address at the head of one of the context's queues, taken or only looked at; none when empty. -/
def deqFor (s : State) (agent : Nat) (c : BitVec 16) (header : Addr) : Option (W × State) :=
  match headerLoc s (agentRoot s agent c) header with
  | none => none
  | some l =>
    let q := qheaderOf (headerBytes s l)
    if q.ok ∧ q.kind = 0 ∧ q.head ≠ q.tail then
      match deqHome s l (agentRoot s agent c) true with
      | .value v s' => some (w64 v, s')
      | .refuse _ _ _ => none
    else none

/-- The 64 bytes at a record address of a context, and their place. -/
def recordLoc (s : State) (agent : Nat) (c : BitVec 16) (va : W) : Option Nat :=
  match walk s (agentRoot s agent c) va.toNat with
  | .mapped pa _ _ => if inMemory pa 64 then some (canonPa pa) else none
  | _ => none

/-- A continuation record that an agent writes whole at its home (R35). DESIGN CHOICE (log entry 124): where the record's page
is no longer mapped nothing is written, and the weight in the record is not written off; R236 only has software map it. -/
def writeRecord (s : State) (agent : Nat) (c : BitVec 16) (va : W) (bs : List Byte) : State :=
  match recordLoc s agent c va with
  | some ca => homeWrite s ca bs
  | none => noteWalkAt s agent (agentRoot s agent c) va.toNat

/-! ### Weight (R38, R39) -/

/-- TOTAL, AT_HOME and LOST, 48 bits each (R38). -/
def totalOf (s : State) (c : BitVec 16) : Nat := physDword s (homeRecord s c) % 2 ^ 48
/-- AT_HOME. -/
def atHomeOf (s : State) (c : BitVec 16) : Nat := physDword s (homeRecord s c + 8) % 2 ^ 48
/-- LOST. -/
def lostOf (s : State) (c : BitVec 16) : Nat := physDword s (homeRecord s c + 16) % 2 ^ 48
/-- Bytes 24 to 31 of the home record. -/
def homeFlags (s : State) (c : BitVec 16) : Nat := physDword s (homeRecord s c + 24)
/-- QDONE. -/
def qdone (s : State) (c : BitVec 16) : Bool := bitOf (homeFlags s c) 17

/-- Whether a context's home record holds uncorrectable data: no unit's update performs on it then (R344; log entry 91). -/
def homePoisoned (s : State) (c : BitVec 16) : Bool := poisonedMem s (canonPa (homeRecord s c)) 32

/-- A field of the home record written, with what watches it. -/
def setHome (s : State) (c : BitVec 16) (off v : Nat) : State :=
  if homePoisoned s c then s else homeWrite s (canonPa (homeRecord s c) + off) (natBytes 8 v)

/-- The low half of a word at a physical address grown by one; where uncorrectable data stands there, a free value (R344; log
entry 91). -/
def countUp (s : State) (pa : Nat) : Nat :=
  if poisonedPhys s pa 8 then (Config.lostCount pa (freeStamp s)).toNat else (physDword s pa + 1) % 2 ^ 32

/-- A write of a queue's completion word, whose COUNT grows by one (R351). -/
def writeCompletion (s : State) (compl : Nat) (ctx : Nat) (status reason : Nat) : State :=
  let n := countUp s compl
  homeWrite s (canonPa compl) (natBytes 8 (ctx * 2 ^ 48 + status * 2 ^ 40 + reason * 2 ^ 32 + n))

/-- The agent number of the home slice of a context's record. -/
def homeAgent (s : State) (c : BitVec 16) : HartId := BitVec.ofNat 13 (2324 + homeOf (homeRecord s c))

/-- The QUIESCE message (R242). -/
def quiesceMsg (s : State) (c : BitVec 16) : Msg :=
  { ctx := c, channel := 0, sender := homeAgent s c, weight := 0
    payload := [w64 (totalOf s c), w64 (atHomeOf s c), w64 (lostOf s c)], kind := .plain, scope := 3 }

/-- The test after each change of a home record: quiescence is raised once (R39, R359). -/
def quiesceTest (s : State) (c : BitVec 16) : State :=
  if atHomeOf s c + lostOf s c = totalOf s c ∧ !qdone s c ∧ !homePoisoned s c then
    let f := homeFlags s c
    let s := setHome s c 24 (f + 2 ^ 17)
    let s := match ctxOf s c with
      | some x => writeCompletion s x.compl c.toNat (if lostOf s c = 0 then 0 else 1) 0
      | none => s
    if bitOf f 16 then emit s (.messageArrival (f % 2 ^ 12) (quiesceMsg s c))
    else emit s (.contextComplete c)
  else s

/-- Units returned to AT_HOME. -/
def returnWeight (s : State) (c : BitVec 16) (w : Nat) : State :=
  quiesceTest (setHome s c 8 ((atHomeOf s c + w) % 2 ^ 48)) c

/-- Units written off to LOST. -/
def writeOffWeight (s : State) (c : BitVec 16) (w : Nat) : State :=
  quiesceTest (setHome s c 16 ((lostOf s c + w) % 2 ^ 48)) c

/-- Units added to TOTAL; none when TOTAL would pass 2^48 - 1. -/
def mintWeight (s : State) (c : BitVec 16) (w : Nat) : Option State :=
  if totalOf s c + w < 2 ^ 48 ∧ !homePoisoned s c then some (quiesceTest (setHome s c 0 (totalOf s c + w)) c) else none

end Sys2Proof.Machine
end

