-- ==== Sys2Proof/Machine/Descriptor.lean ====
section
/-!
DEFINITION. Launch-queue descriptors (R348) and what an accepted packet starts (R357).
-/
namespace Sys2Proof.Machine

/-- A queue descriptor (R348). -/
structure QDesc where
  header : Nat
  mask : Nat
  compl : Nat
  root : Nat
  quota : Nat
  share : Nat
  enable : Bool
  deriving DecidableEq, Repr

/-- The physical address of queue `q`'s descriptor. -/
def descAddr (s : State) (q : Nat) : Nat := (dieOf s (q / 64)).qtbase.toNat + 64 * q

/-- Queue `q`'s descriptor; one with nonzero reserved bits counts as disabled, and so does one that holds uncorrectable data
(R344; log entry 91). -/
def queueDesc (s : State) (q : Nat) : QDesc :=
  let a := descAddr s q
  let d (i : Nat) := physDword s (a + i)
  let ctl := d 32
  let ok := field (d 0) 63 52 == 0 && field (d 8) 63 52 == 0 && field (d 16) 63 52 == 0 && field (d 24) 63 52 == 0 &&
    field ctl 39 1 == 0 && (physRead s (a + 40) 24).all (· == 0)
  { header := field (d 0) 51 0, mask := field (d 8) 51 0, compl := field (d 16) 51 0, root := field (d 24) 51 0
    quota := field ctl 63 48, share := field ctl 47 40, enable := bitOf ctl 0 && ok && !poisonedPhys s a 64 }

/-- Whether the descriptor of a queue is enabled. -/
def queueEnabled (s : State) (q : Nat) : Bool := bitOf (physDword s (descAddr s q + 32)) 0 && (queueDesc s q).enable

/-- The place of a physical address that a unit of the device uses. -/
def unitLoc (pa : Nat) : Loc :=
  match regionOf pa with
  | .config off => .config off
  | _ => .mem (canonPa pa)

/-- The enabled launch queue whose header lies at a place, if any. -/
def queueAtHeader (s : State) (l : Loc) : Option Nat :=
  (List.range 256).find? fun q => queueEnabled s q && unitLoc (queueDesc s q).header == l

/-- What an accepted item starts: a dispatch on a launch queue, an invalidation on a die's queue (R342, R357). -/
def afterEnq (s : State) (l : Loc) : State :=
  match l with
  | .config off =>
    if 0x1000000 ≤ off ∧ off < 0x5000000 ∧ off % 0x1000000 = 0x1000 then
      emit s (.tlbInvalidation (off / 0x1000000 - 1))
    else s
  | _ => match queueAtHeader s l with
    | some q => emit s (.packetDispatch q)
    | none => s

/-- The mask bit of a core in a 256-byte core mask at a physical address; a bit that cannot be read counts as 0 (R344; log
entry 91). -/
def maskedCore (s : State) (mask core : Nat) : Bool :=
  let ca := canonPa (mask + core / 8)
  bitOf (memGet s.mem ca).toNat (core % 8) && !poisonedMem s ca 1

end Sys2Proof.Machine
end

