-- ==== Sys2Proof/Machine/Flags.lean ====
section
/-!
DEFINITION. Floating-point formats, the one rounding, and the flags it and the operations raise (R140 to R149).
-/
namespace Sys2Proof.Machine

/-! ### Formats (R140) -/

/-- A floating-point format: its precision and the width of its exponent field. -/
structure FpFmt where
  prec : Nat
  ebits : Nat
  deriving DecidableEq, Repr

/-- FP64. -/
def fp64 : FpFmt := ⟨53, 11⟩
/-- FP32. -/
def fp32 : FpFmt := ⟨24, 8⟩
/-- FP16. -/
def fp16 : FpFmt := ⟨11, 5⟩
/-- BF16. -/
def bf16 : FpFmt := ⟨8, 8⟩

/-- The format of a 2-bit code FMT (R77). -/
def fmtOf (c : BitVec 2) : FpFmt :=
  match c.toNat with
  | 0 => fp64
  | 1 => fp32
  | 2 => fp16
  | _ => bf16

/-- The width of a format in bits. -/
def FpFmt.width (f : FpFmt) : Nat := f.prec + f.ebits
/-- Its bias, which is emax. -/
def FpFmt.bias (f : FpFmt) : Nat := 2 ^ (f.ebits - 1) - 1
/-- emin. -/
def FpFmt.emin (f : FpFmt) : Int := 1 - (f.bias : Int)
/-- The bits of +infinity. -/
def FpFmt.infBits (f : FpFmt) : Nat := (2 ^ f.ebits - 1) * 2 ^ (f.prec - 1)
/-- The default NaN (R143). -/
def FpFmt.nanBits (f : FpFmt) : Nat := f.infBits + 2 ^ (f.prec - 2)
/-- The sign bit's weight. -/
def FpFmt.signBit (f : FpFmt) : Nat := 2 ^ (f.width - 1)
/-- The bits of the largest finite value. -/
def FpFmt.maxBits (f : FpFmt) : Nat := f.infBits - 1

/-- A value: a NaN, signalling or quiet; an infinity or a zero with its sign; or ± mant × 2^exp with mant > 0. -/
inductive FpVal where
  | nan (signalling : Bool)
  | inf (neg : Bool)
  | zero (neg : Bool)
  | fin (neg : Bool) (mant : Nat) (exp : Int)
  deriving DecidableEq, Repr

/-- The value that the low bits of a number encode (R140, R142). -/
def unpack (f : FpFmt) (v : Nat) : FpVal :=
  let u := v % 2 ^ f.width
  let neg := bitOf u (f.width - 1)
  let e := u / 2 ^ (f.prec - 1) % 2 ^ f.ebits
  let m := u % 2 ^ (f.prec - 1)
  if e = 2 ^ f.ebits - 1 then (if m = 0 then .inf neg else .nan (!bitOf m (f.prec - 2)))
  else if e = 0 then
    if m = 0 then .zero neg else .fin neg m (f.emin - (f.prec - 1 : Nat))
  else .fin neg (m + 2 ^ (f.prec - 1)) (f.emin + (e - 1 : Nat) - (f.prec - 1 : Nat))

/-- Whether a value is a signalling NaN. -/
def FpVal.isSnan : FpVal → Bool
  | .nan s => s
  | _ => false

/-- Whether a value is a NaN. -/
def FpVal.isNan : FpVal → Bool
  | .nan _ => true
  | _ => false

/-- The sign of a value; of a NaN none. -/
def FpVal.neg : FpVal → Bool
  | .nan _ => false
  | .inf n => n
  | .zero n => n
  | .fin n _ _ => n

/-- A value with its sign inverted; a NaN stays. -/
def FpVal.negate : FpVal → FpVal
  | .nan s => .nan s
  | .inf n => .inf !n
  | .zero n => .zero !n
  | .fin n m e => .fin (!n) m e

/-! ### Flags (R28, R149) -/

/-- NX. -/
def flagNX : BitVec 5 := 1
/-- UF. -/
def flagUF : BitVec 5 := 2
/-- OF. -/
def flagOF : BitVec 5 := 4
/-- DZ. -/
def flagDZ : BitVec 5 := 8
/-- NV. -/
def flagNV : BitVec 5 := 16

/-- A result's bits and the flags its operation raises. -/
structure FpResult where
  bits : Nat
  flags : BitVec 5
  deriving DecidableEq, Repr

/-- A result that raises nothing. -/
def FpResult.clean (b : Nat) : FpResult := ⟨b, 0⟩

/-- The default NaN, with NV when `inv`. -/
def nanResult (f : FpFmt) (inv : Bool) : FpResult := ⟨f.nanBits, if inv then flagNV else 0⟩

/-- The bits of an infinity. -/
def infResult (f : FpFmt) (neg : Bool) : FpResult := .clean (f.infBits + b1 neg * f.signBit)

/-- The bits of a zero. -/
def zeroResult (f : FpFmt) (neg : Bool) : FpResult := .clean (b1 neg * f.signBit)

/-! ### Rounding (R144 to R146) -/

/-- The rounding modes. -/
inductive RMode where
  | rne | rtz | rup | rdn | rna | sto
  deriving DecidableEq, Repr

/-- The mode of a code (R27, R49); 101 is the modifier word's stochastic mode. -/
def modeOfCode (c : Nat) : RMode :=
  match c with
  | 0 => .rne
  | 1 => .rtz
  | 2 => .rup
  | 3 => .rdn
  | 4 => .rna
  | _ => .sto

/-- A mode with the 32 bits that a stochastic rounding draws (R148). -/
structure Rounding where
  mode : RMode
  draw : Nat
  deriving DecidableEq, Repr

/-- Mix (R148). -/
def mix (seed counter lane : W) : W :=
  let x := seed ^^^ (counter * 0x9E3779B97F4A7C15) ^^^ (lane * 0xC2B2AE3D27D4EB4F)
  let x := (x ^^^ (x >>> 30)) * 0xBF58476D1CE4E5B9
  let x := (x ^^^ (x >>> 27)) * 0x94D049BB133111EB
  x ^^^ (x >>> 31)

/-- StoDraw (R148). -/
def stoDraw (seed counter : W) (lane : Nat) : Nat := (mix seed counter (w64 lane)).toNat / 2 ^ 32

/-- A positive real mant × 2^exp, with a little more when `sticky`, in units of 2^q: the number of units after rounding,
and whether that is inexact. A sticky value comes with at least 32 bits below the unit. -/
def roundUnits (r : Rounding) (neg : Bool) (mant : Nat) (exp : Int) (sticky : Bool) (q : Int) : Nat × Bool :=
  if q ≤ exp then (mant * 2 ^ (exp - q).toNat, sticky)
  else
    let sh := (q - exp).toNat
    let lo := mant / 2 ^ sh
    let rest := mant % 2 ^ sh
    if rest = 0 ∧ !sticky then (lo, false)
    else
      let half := 2 ^ (sh - 1)
      let up := match r.mode with
        | .rne => decide (half < rest) || (rest == half && (sticky || lo % 2 == 1))
        | .rna => decide (half ≤ rest)
        | .rtz => false
        | .rup => !neg
        | .rdn => neg
        | .sto => decide (r.draw < rest * 2 ^ 32 / 2 ^ sh)
      (if up then lo + 1 else lo, true)

/-- The result of an overflow (R146). -/
def overflowBits (f : FpFmt) (r : Rounding) (neg : Bool) : Nat :=
  let toMax := match r.mode with
    | .rne => false
    | .rna => false
    | .sto => false
    | .rtz => true
    | .rup => neg
    | .rdn => !neg
  (if toMax then f.maxBits else f.infBits) + b1 neg * f.signBit

/-- Round of ± mant × 2^exp, with a little more when `sticky`, for mant > 0 (R145). -/
def roundFp (f : FpFmt) (r : Rounding) (neg : Bool) (mant : Nat) (exp : Int) (sticky : Bool) : FpResult :=
  let top := exp + (Nat.log2 mant : Nat)
  let e := max top f.emin
  let q := e - (f.prec - 1 : Nat)
  let (m, inexact) := roundUnits r neg mant exp sticky q
  let bits := (e - f.emin).toNat * 2 ^ (f.prec - 1) + m
  if f.infBits ≤ bits then ⟨overflowBits f r neg, flagOF ||| flagNX⟩
  else
    let tiny := decide (top < f.emin)
    ⟨bits + b1 neg * f.signBit, (if inexact then flagNX else 0) ||| (if inexact && tiny then flagUF else 0)⟩

/-- A value rounded into a format; a NaN gives the default NaN, with NV when it is signalling. -/
def roundVal (f : FpFmt) (r : Rounding) : FpVal → FpResult
  | .nan s => nanResult f s
  | .inf n => infResult f n
  | .zero n => zeroResult f n
  | .fin n m e => roundFp f r n m e false

/-! ### Exact operations (R147, R149) -/

/-- The exact product; 0 × ∞ is a signalling NaN here, since it raises NV. -/
def mulVal : FpVal → FpVal → FpVal
  | .nan s, b => .nan (s || b.isSnan)
  | a, .nan s => .nan (s || a.isSnan)
  | .inf _, .zero _ => .nan true
  | .zero _, .inf _ => .nan true
  | .fin n m e, .fin n' m' e' => .fin (n ^^ n') (m * m') (e + e')
  | .zero n, b => .zero (n ^^ b.neg)
  | a, .zero n => .zero (n ^^ a.neg)
  | a, b => .inf (a.neg ^^ b.neg)

/-- The least exponent among the finite terms. -/
def minExp : List FpVal → Option Int
  | [] => none
  | .fin _ _ e :: ts => match minExp ts with
    | none => some e
    | some x => some (min e x)
  | _ :: ts => minExp ts

/-- A finite term in units of 2^q. -/
def inUnits (q : Int) : FpVal → Int
  | .fin n m e => (if n then -1 else 1) * ((m * 2 ^ (e - q).toNat : Nat) : Int)
  | _ => 0

/-- The exact sum of finite terms, in units of 2^q. -/
def sumUnits (q : Int) (ts : List FpVal) : Int := (ts.map (inUnits q)).foldl (· + ·) 0

/-- The zero that terms give whose exact sum is zero (R147). -/
def zeroSign (r : Rounding) (ts : List FpVal) : Bool :=
  if ts.all fun t => t == .zero true then true
  else if ts.all fun t => t == .zero false then false
  else r.mode == .rdn

/-- A sum of any number of terms, rounded once (R147, R149): infinities of both signs raise NV (R282, R295). -/
def sumFp (f : FpFmt) (r : Rounding) (ts : List FpVal) : FpResult :=
  let pinf := ts.any fun t => t == .inf false
  let ninf := ts.any fun t => t == .inf true
  if ts.any FpVal.isNan then nanResult f (ts.any FpVal.isSnan || (pinf && ninf))
  else
    if pinf && ninf then nanResult f true
    else if pinf then infResult f false
    else if ninf then infResult f true
    else match minExp ts with
      | none => zeroResult f (zeroSign r ts)
      | some q =>
        let t := sumUnits q ts
        if t = 0 then zeroResult f (zeroSign r ts) else roundFp f r (decide (t < 0)) t.natAbs q false

/-- The order of two values that are no NaN: -1, 0 or 1; both zeros are equal. -/
def cmpVal (a b : FpVal) : Int :=
  let rank : FpVal → Int
    | .inf true => -1
    | .inf false => 1
    | _ => 0
  if rank a ≠ rank b then (rank a - rank b).sign
  else match minExp [a, b] with
    | none => 0
    | some q => (inUnits q a - inUnits q b).sign

/-! ### Quotients and roots (R159) -/

/-- The integer square root, from the bit of weight 2^n down. -/
def isqrtFrom (x : Nat) : Nat → Nat → Nat
  | 0, r => if (r + 1) * (r + 1) ≤ x then r + 1 else r
  | n + 1, r => isqrtFrom x n (if (r + 2 ^ (n + 1)) * (r + 2 ^ (n + 1)) ≤ x then r + 2 ^ (n + 1) else r)

/-- The integer square root. -/
def isqrt (x : Nat) : Nat := isqrtFrom x (Nat.log2 x / 2 + 1) 0

/-- a / b (R149, R159). -/
def divFp (f : FpFmt) (r : Rounding) (a b : FpVal) : FpResult :=
  let n := a.neg ^^ b.neg
  match a, b with
  | .nan s, b => nanResult f (s || b.isSnan)
  | a, .nan s => nanResult f (s || a.isSnan)
  | .inf _, .inf _ => nanResult f true
  | .zero _, .zero _ => nanResult f true
  | .inf _, _ => infResult f n
  | _, .inf _ => zeroResult f n
  | .zero _, _ => zeroResult f n
  | .fin _ _ _, .zero _ => ⟨(infResult f n).bits, flagDZ⟩
  | .fin _ m e, .fin _ m' e' =>
    let k := f.prec + 40 + Nat.log2 m'
    let q := m * 2 ^ k / m'
    roundFp f r n q (e - e' - (k : Int)) (m * 2 ^ k % m' != 0)

/-- The square root (R147, R149, R159). -/
def sqrtFp (f : FpFmt) (r : Rounding) : FpVal → FpResult
  | .nan s => nanResult f s
  | .zero n => zeroResult f n
  | .inf false => infResult f false
  | .inf true => nanResult f true
  | .fin true _ _ => nanResult f true
  | .fin false m e =>
    let k := f.prec + 40
    let odd := e % 2 != 0
    let x := m * 2 ^ (2 * k + b1 odd)
    let s := isqrt x
    roundFp f r false s ((e - b1 odd) / 2 - (k : Int)) (s * s != x)

/-- One over the square root (R275): exact when the root is. -/
def rsqrtFp (f : FpFmt) (r : Rounding) : FpVal → FpResult
  | .nan s => nanResult f s
  | .zero n => ⟨(infResult f n).bits, flagDZ⟩
  | .inf false => zeroResult f false
  | .inf true => nanResult f true
  | .fin true _ _ => nanResult f true
  | .fin false m e =>
    -- 1 / sqrt(m 2^e) = sqrt(2^(2k) / m') 2^(-k - e'/2), with m' 2^e' the same value and e' even
    let odd := e % 2 != 0
    let m' := m * 2 ^ b1 odd
    let k := 2 * f.prec + 60
    let x := 2 ^ (2 * k) / m'
    let s := isqrt x
    roundFp f r false s (-((e - b1 odd) / 2) - (k : Int)) (s * s * m' != 2 ^ (2 * k))

/-! ### Minimum, maximum, comparison, class (R163, R166, R167) -/

/-- FMIN or FMAX (R163). `num` gives the other operand when one is a NaN. -/
def minMaxFp (f : FpFmt) (isMax num : Bool) (ab bb : Nat) : FpResult :=
  let a := unpack f ab
  let b := unpack f bb
  let fl := if a.isSnan || b.isSnan then flagNV else 0
  let ka := ab % 2 ^ f.width
  let kb := bb % 2 ^ f.width
  if a.isNan || b.isNan then
    if num && !b.isNan then ⟨kb, fl⟩
    else if num && !a.isNan then ⟨ka, fl⟩
    else ⟨f.nanBits, fl⟩
  else
    let c := cmpVal a b
    let aLess := if c = 0 then a.neg && !b.neg else decide (c < 0)
    ⟨if aLess != isMax then ka else kb, fl⟩

/-- The comparisons of R166. -/
inductive FpCmp where
  | eq | lt | le | un
  deriving DecidableEq, Repr

/-- A comparison's answer and flags (R166). -/
def compareFp (f : FpFmt) (c : FpCmp) (ab bb : Nat) : FpResult :=
  let a := unpack f ab
  let b := unpack f bb
  let anyNan := a.isNan || b.isNan
  let snan := a.isSnan || b.isSnan
  match c with
  | .eq => ⟨b1 (!anyNan && cmpVal a b == 0), if snan then flagNV else 0⟩
  | .lt => ⟨b1 (!anyNan && decide (cmpVal a b < 0)), if anyNan then flagNV else 0⟩
  | .le => ⟨b1 (!anyNan && decide (cmpVal a b ≤ 0)), if anyNan then flagNV else 0⟩
  | .un => ⟨b1 anyNan, if snan then flagNV else 0⟩

/-- The class bit (R167). -/
def classFp (f : FpFmt) (v : Nat) : Nat :=
  match unpack f v with
  | .inf true => 1
  | .fin true m _ => if m < 2 ^ (f.prec - 1) then 4 else 2
  | .zero true => 8
  | .zero false => 16
  | .fin false m _ => if m < 2 ^ (f.prec - 1) then 32 else 64
  | .inf false => 128
  | .nan true => 256
  | .nan false => 512

/-! ### Integers (R165, R168 to R170) -/

/-- FRND: rounded to an integral value in the same format (R165). -/
def integralFp (f : FpFmt) (r : Rounding) (v : Nat) : FpResult :=
  match unpack f v with
  | .nan s => nanResult f s
  | .inf n => infResult f n
  | .zero n => zeroResult f n
  | .fin n m e =>
    let (u, inexact) := roundUnits r n m e false 0
    let fl := if inexact then flagNX else 0
    if u = 0 then ⟨(zeroResult f n).bits, fl⟩ else ⟨(roundFp f r n u 0 false).bits, fl⟩

/-- An integer kind: its width and whether it is signed. -/
structure IntKind where
  width : Nat
  signed : Bool
  deriving DecidableEq, Repr

/-- The least value of a kind. -/
def IntKind.lo (k : IntKind) : Int := if k.signed then -(2 ^ (k.width - 1)) else 0
/-- The greatest. -/
def IntKind.hi (k : IntKind) : Int := if k.signed then 2 ^ (k.width - 1) - 1 else 2 ^ k.width - 1

/-- An integer result and the flags raised. -/
structure IntResult where
  val : Int
  flags : BitVec 5
  deriving DecidableEq, Repr

/-- A real ± mant × 2^exp as an integer of a kind, saturated with NV when it rounds outside (R169). -/
def saturate (k : IntKind) (r : Rounding) (neg : Bool) (mant : Nat) (exp : Int) : IntResult :=
  let (u, inexact) := roundUnits r neg mant exp false 0
  let v : Int := if neg then -(u : Int) else u
  if v < k.lo then ⟨k.lo, flagNV⟩
  else if k.hi < v then ⟨k.hi, flagNV⟩
  else ⟨v, if inexact then flagNX else 0⟩

/-- FCVTI (R169). -/
def toIntFp (k : IntKind) (r : Rounding) : FpVal → IntResult
  | .nan _ => ⟨0, flagNV⟩
  | .inf n => ⟨if n then k.lo else k.hi, flagNV⟩
  | .zero _ => ⟨0, 0⟩
  | .fin n m e => saturate k r n m e

/-- An integer as a value; zero gives +0 (R170). -/
def intVal (v : Int) : FpVal := if v = 0 then .zero false else .fin (decide (v < 0)) v.natAbs 0

/-- The value of an integer kind in the low bits of a number. -/
def intOfBits (k : IntKind) (v : Nat) : Int := if k.signed then sextNat k.width v else ((v % 2 ^ k.width : Nat) : Int)

end Sys2Proof.Machine
end

