-- ==== Sys2Proof/WellFormed.lean ====
section
/-!
DEFINITION. Which instruction words are legal on their own (R45, R69, R74 to R85). What a prefix word adds is checked with
the group (R50, R269), what the agent adds with the agent (R384, R428).
-/
namespace Sys2Proof

/-- A source selector: every value but 31 (R45). -/
def srcOk (s : Sel) : Bool := s != 31
/-- A destination selector: the queue only, a named register, or a stream port (R45). -/
def dstOk (s : Sel) : Bool := s == 0 || (16 ≤ s.toNat && s.toNat ≤ 27)
/-- A selector that names n0 to n7 (R45). -/
def nOk (s : Sel) : Bool := 16 ≤ s.toNat && s.toNat ≤ 23
/-- BFILL's pattern: n0 to n7, z, k or id (R194). -/
def bfillSrcOk (s : Sel) : Bool := nOk s || (28 ≤ s.toNat && s.toNat ≤ 30)
/-- A field that names v0 to v15 (R82). -/
def vOk (s : Sel) : Bool := s.toNat < 16
/-- A field that names m0 to m3 (R82). -/
def mOk (s : Sel) : Bool := s.toNat < 4
/-- A field that names a0 to a7 (R84, R85). -/
def tileOk (s : Sel) : Bool := s.toNat < 8
/-- BEXTI's limits (R75). -/
def bitFieldOk (len : BitVec 7) (pos : BitVec 6) : Bool := 1 ≤ len.toNat && pos.toNat + len.toNat ≤ 64
/-- A floating-point kind of major 0x16 (R77). -/
def fpKind (k : BitVec 3) : Bool := k.toNat < 4
/-- VCMP: a condition of 101 to 111 is reserved, and UN needs an FP type (R83). -/
def vcmpOk (ty : BitVec 2) (cond : BitVec 3) : Bool := cond.toNat < 4 || (cond == 4 && 2 ≤ ty.toNat)
/-- VCVT: two assigned kinds that differ, at least one of them FP (R83, R277). -/
def vcvtOk (src dst : BitVec 3) : Bool := src.toNat < 6 && dst.toNat < 6 && src != dst && (fpKind src || fpKind dst)
/-- The modifier word's own limits (R49, R69). -/
def modOk (x : Modw) : Bool :=
  x.rm != 7 && x.msel.toNat < 5 && (x.minv == 0 || x.msel != 0) && (x.cnt == 0 || x.rm == 5)

/-- The word is legal on its own. Steps that no word names are not words and have nothing to check. -/
def Instr.wf : Instr → Bool
  | .add x => dstOk x.d && srcOk x.a && srcOk x.b
  | .sub x => dstOk x.d && srcOk x.a && srcOk x.b
  | .mul x => dstOk x.d && srcOk x.a && srcOk x.b
  | .mulh x => dstOk x.d && srcOk x.a && srcOk x.b
  | .mulhu x => dstOk x.d && srcOk x.a && srcOk x.b
  | .div x => dstOk x.d && srcOk x.a && srcOk x.b
  | .divu x => dstOk x.d && srcOk x.a && srcOk x.b
  | .rem x => dstOk x.d && srcOk x.a && srcOk x.b
  | .remu x => dstOk x.d && srcOk x.a && srcOk x.b
  | .and x => dstOk x.d && srcOk x.a && srcOk x.b
  | .or x => dstOk x.d && srcOk x.a && srcOk x.b
  | .xor x => dstOk x.d && srcOk x.a && srcOk x.b
  | .andn x => dstOk x.d && srcOk x.a && srcOk x.b
  | .orn x => dstOk x.d && srcOk x.a && srcOk x.b
  | .shl x => dstOk x.d && srcOk x.a && srcOk x.b
  | .shr x => dstOk x.d && srcOk x.a && srcOk x.b
  | .sar x => dstOk x.d && srcOk x.a && srcOk x.b
  | .rot x => dstOk x.d && srcOk x.a && srcOk x.b
  | .min x => dstOk x.d && srcOk x.a && srcOk x.b
  | .max x => dstOk x.d && srcOk x.a && srcOk x.b
  | .minu x => dstOk x.d && srcOk x.a && srcOk x.b
  | .maxu x => dstOk x.d && srcOk x.a && srcOk x.b
  | .abs x => dstOk x.d && srcOk x.a
  | .clz x => dstOk x.d && srcOk x.a
  | .ctz x => dstOk x.d && srcOk x.a
  | .pop x => dstOk x.d && srcOk x.a
  | .brev x => dstOk x.d && srcOk x.a
  | .addi x => dstOk x.d && srcOk x.a
  | .andi x => dstOk x.d && srcOk x.a
  | .ori x => dstOk x.d && srcOk x.a
  | .xori x => dstOk x.d && srcOk x.a
  | .shli x => dstOk x.d && srcOk x.a && x.imm.toNat < 64
  | .shri x => dstOk x.d && srcOk x.a && x.imm.toNat < 64
  | .sari x => dstOk x.d && srcOk x.a && x.imm.toNat < 64
  | .roti x => dstOk x.d && srcOk x.a && x.imm.toNat < 64
  | .lea x => dstOk x.d && srcOk x.a
  | .lim x => dstOk x.d
  | .sel x => dstOk x.d && srcOk x.a && srcOk x.b && srcOk x.c
  | .bext x => dstOk x.d && srcOk x.a && srcOk x.b && srcOk x.c
  | .bins x => dstOk x.d && srcOk x.a && srcOk x.b && srcOk x.c
  | .cmpeq x => dstOk x.d && srcOk x.a && srcOk x.b
  | .cmpne x => dstOk x.d && srcOk x.a && srcOk x.b
  | .cmplt x => dstOk x.d && srcOk x.a && srcOk x.b
  | .cmpltu x => dstOk x.d && srcOk x.a && srcOk x.b
  | .cmple x => dstOk x.d && srcOk x.a && srcOk x.b
  | .cmpleu x => dstOk x.d && srcOk x.a && srcOk x.b
  | .bexti x => dstOk x.d && srcOk x.a && bitFieldOk x.len x.pos
  | .cmplti x => dstOk x.d && srcOk x.a
  | .beq x => srcOk x.a && srcOk x.b
  | .bne x => srcOk x.a && srcOk x.b
  | .blt x => srcOk x.a && srcOk x.b
  | .bge x => srcOk x.a && srcOk x.b
  | .bltu x => srcOk x.a && srcOk x.b
  | .bgeu x => srcOk x.a && srcOk x.b
  | .b _ => true
  | .call _ => true
  | .jr x => srcOk x.a
  | .nop _ => true
  | .brk _ => true
  | .rep x => nOk x.a
  | .rgn _ => true
  | .rgnInc x => nOk x.d
  | .fadd x => dstOk x.d && srcOk x.a && srcOk x.b
  | .fsub x => dstOk x.d && srcOk x.a && srcOk x.b
  | .fmul x => dstOk x.d && srcOk x.a && srcOk x.b
  | .fdiv x => dstOk x.d && srcOk x.a && srcOk x.b
  | .fsqrt x => dstOk x.d && srcOk x.a
  | .fmin x => dstOk x.d && srcOk x.a && srcOk x.b
  | .fmax x => dstOk x.d && srcOk x.a && srcOk x.b
  | .fminn x => dstOk x.d && srcOk x.a && srcOk x.b
  | .fmaxn x => dstOk x.d && srcOk x.a && srcOk x.b
  | .fabs x => dstOk x.d && srcOk x.a
  | .fneg x => dstOk x.d && srcOk x.a
  | .fsgn x => dstOk x.d && srcOk x.a && srcOk x.b
  | .frnd x => dstOk x.d && srcOk x.a
  | .fma x => dstOk x.d && srcOk x.a && srcOk x.b && srcOk x.c
  | .fms x => dstOk x.d && srcOk x.a && srcOk x.b && srcOk x.c
  | .fnma x => dstOk x.d && srcOk x.a && srcOk x.b && srcOk x.c
  | .fcvt x => dstOk x.d && srcOk x.a && fpKind x.src && fpKind x.dst && x.src != x.dst
  | .fcvti x => dstOk x.d && srcOk x.a && fpKind x.src && !fpKind x.dst
  | .icvtf x => dstOk x.d && srcOk x.a && !fpKind x.src && fpKind x.dst
  | .fcmpeq x => dstOk x.d && srcOk x.a && srcOk x.b
  | .fcmplt x => dstOk x.d && srcOk x.a && srcOk x.b
  | .fcmple x => dstOk x.d && srcOk x.a && srcOk x.b
  | .fcmpun x => dstOk x.d && srcOk x.a && srcOk x.b
  | .fclass x => dstOk x.d && srcOk x.a
  | .ld x => dstOk x.d && srcOk x.a
  | .st x => srcOk x.d && srcOk x.a
  | .ldAcq x => dstOk x.d && srcOk x.a
  | .stRel x => srcOk x.d && srcOk x.a
  | .lds x => dstOk x.d && srcOk x.a && srcOk x.b
  | .sts x => srcOk x.d && srcOk x.a && srcOk x.b
  | .ldk x => dstOk x.d && srcOk x.a && srcOk x.b
  | .pref x => srcOk x.a
  | .wb x => srcOk x.a && srcOk x.b
  | .inv x => srcOk x.a && srcOk x.b
  | .bmove x => nOk x.d && nOk x.a && nOk x.b
  | .bfill x => nOk x.d && nOk x.a && bfillSrcOk x.b
  | .sbind x => srcOk x.a
  | .sclose _ => true
  | .spos x => dstOk x.d
  | .amoAdd x => dstOk x.d && srcOk x.a && srcOk x.b
  | .amoAnd x => dstOk x.d && srcOk x.a && srcOk x.b
  | .amoOr x => dstOk x.d && srcOk x.a && srcOk x.b
  | .amoXor x => dstOk x.d && srcOk x.a && srcOk x.b
  | .amoMin x => dstOk x.d && srcOk x.a && srcOk x.b
  | .amoMax x => dstOk x.d && srcOk x.a && srcOk x.b
  | .amoMinu x => dstOk x.d && srcOk x.a && srcOk x.b
  | .amoMaxu x => dstOk x.d && srcOk x.a && srcOk x.b
  | .amoSwap x => dstOk x.d && srcOk x.a && srcOk x.b
  | .xinit32 x => srcOk x.a
  | .xinit64 x => srcOk x.a
  | .xadd x => srcOk x.a && srcOk x.b && x.fmt.toNat < 6
  | .xclr x => srcOk x.a
  | .enq x => dstOk x.d && srcOk x.a && srcOk x.b
  | .deq x => dstOk x.d && srcOk x.a
  | .seqdeq x => dstOk x.d && srcOk x.a
  | .waitv x => srcOk x.a && srcOk x.b
  | .xread x => dstOk x.d && srcOk x.a && x.fmt.toNat < 6 && x.mode.toNat < 5
  | .cas x => dstOk x.d && srcOk x.a && srcOk x.b && srcOk x.c
  | .seqenq x => dstOk x.d && srcOk x.a && srcOk x.b && srcOk x.c
  | .send x => srcOk x.a && srcOk x.b
  | .sendm x => srcOk x.a && srcOk x.b
  | .push x => srcOk x.a && srcOk x.b
  | .htset x => srcOk x.a && srcOk x.b
  | .htget x => dstOk x.d && srcOk x.a
  | .chmask x => srcOk x.a
  | .chunmask x => srcOk x.a
  | .sendw x => srcOk x.a && srcOk x.b && srcOk x.c
  | .launch x => dstOk x.d && srcOk x.a && srcOk x.b && srcOk x.c
  | .nread x => dstOk x.d && srcOk x.a && srcOk x.c
  | .subscribe x => dstOk x.d && srcOk x.a && srcOk x.b && srcOk x.c
  | .suspend _ => true
  | .yield _ => true
  | .done _ => true
  | .wborrow x => srcOk x.a
  | .wquery x => dstOk x.d && srcOk x.a
  | .qarm x => srcOk x.a
  | .grow x => dstOk x.d && srcOk x.a
  | .retire x => srcOk x.a && srcOk x.b
  | .coord x => dstOk x.d && srcOk x.a
  | .slice x => dstOk x.d && srcOk x.a
  | .geom x => dstOk x.d && srcOk x.a
  | .tqinit x => srcOk x.a && srcOk x.b
  | .fetcht x => dstOk x.d && srcOk x.a
  | .gbar _ => true
  | .gbarPub _ => true
  | .unsub x => srcOk x.a
  | .pubfence _ => true
  | .phase x => srcOk x.b
  | .phend _ => true
  | .spinw x => srcOk x.a && srcOk x.b
  | .csrrd x => dstOk x.d
  | .csrwr x => dstOk x.d && srcOk x.a
  | .csrset x => dstOk x.d && srcOk x.a
  | .csrclr x => dstOk x.d && srcOk x.a
  | .trap x => srcOk x.a
  | .tret _ => true
  | .wfi _ => true
  | .perf x => dstOk x.d && srcOk x.a
  | .isync _ => true
  | .cpub x => srcOk x.a && srcOk x.b && x.scope.toNat < 5
  | .fence x => dstOk x.d && x.scope.toNat < 5 && x.kinds != 0
  | .vclaim x => dstOk x.d && srcOk x.a
  | .vrel _ => true
  | .vaddI32 x => vOk x.d && vOk x.a && vOk x.b
  | .vsubI32 x => vOk x.d && vOk x.a && vOk x.b
  | .vmulI32 x => vOk x.d && vOk x.a && vOk x.b
  | .vminI32 x => vOk x.d && vOk x.a && vOk x.b
  | .vmaxI32 x => vOk x.d && vOk x.a && vOk x.b
  | .vminUi32 x => vOk x.d && vOk x.a && vOk x.b
  | .vmaxUi32 x => vOk x.d && vOk x.a && vOk x.b
  | .vand x => vOk x.d && vOk x.a && vOk x.b
  | .vor x => vOk x.d && vOk x.a && vOk x.b
  | .vxor x => vOk x.d && vOk x.a && vOk x.b
  | .vshl x => vOk x.d && vOk x.a && vOk x.b
  | .vshr x => vOk x.d && vOk x.a && vOk x.b
  | .vsel x => vOk x.d && vOk x.a && vOk x.b
  | .vaddF x => vOk x.d && vOk x.a && vOk x.b
  | .vsubF x => vOk x.d && vOk x.a && vOk x.b
  | .vmulF x => vOk x.d && vOk x.a && vOk x.b
  | .vfma x => vOk x.d && vOk x.a && vOk x.b
  | .vfmin x => vOk x.d && vOk x.a && vOk x.b
  | .vfmax x => vOk x.d && vOk x.a && vOk x.b
  | .vrcp x => vOk x.d && vOk x.a
  | .vrsqrt x => vOk x.d && vOk x.a
  | .vexp2 x => vOk x.d && vOk x.a
  | .vlog2 x => vOk x.d && vOk x.a
  | .vcmp x => mOk x.d && vOk x.a && vOk x.b && vcmpOk x.ty x.cond
  | .vcvt x => vOk x.d && vOk x.a && vcvtOk x.src x.dst
  | .vld x => vOk x.d && srcOk x.a && srcOk x.b
  | .vst x => vOk x.d && srcOk x.a && srcOk x.b
  | .vlds x => vOk x.d && srcOk x.a && srcOk x.b
  | .vsts x => vOk x.d && srcOk x.a && srcOk x.b
  | .vgath x => vOk x.d && srcOk x.a && vOk x.b
  | .vscat x => vOk x.d && srcOk x.a && vOk x.b
  | .vbcast x => vOk x.d && srcOk x.a
  | .vperm x => vOk x.d && vOk x.a && vOk x.b
  | .vlsh x => vOk x.d && vOk x.a && srcOk x.b
  | .vredAdd x => dstOk x.d && vOk x.a && x.fmt != 3
  | .vredMin x => dstOk x.d && vOk x.a && x.fmt != 3
  | .vredMax x => dstOk x.d && vOk x.a && x.fmt != 3
  | .mand x => mOk x.d && mOk x.a && mOk x.b
  | .mor x => mOk x.d && mOk x.a && mOk x.b
  | .mnot x => mOk x.d && mOk x.a
  | .mpop x => dstOk x.d && mOk x.a
  | .mfirst x => dstOk x.d && mOk x.a
  | .mmaDD x => tileOk x.d && srcOk x.a && srcOk x.b
  | .mmaSS x => tileOk x.d && srcOk x.a && srcOk x.b
  | .mmaBB x => tileOk x.d && srcOk x.a && srcOk x.b
  | .mmaHH x => tileOk x.d && srcOk x.a && srcOk x.b
  | .mmaBH x => tileOk x.d && srcOk x.a && srcOk x.b
  | .mmaHB x => tileOk x.d && srcOk x.a && srcOk x.b
  | .mmaNN x => tileOk x.d && srcOk x.a && srcOk x.b && srcOk x.c && x.pm2 != 7
  | .mmaNB x => tileOk x.d && srcOk x.a && srcOk x.b && srcOk x.c && x.pm2 != 7
  | .mmaBN x => tileOk x.d && srcOk x.a && srcOk x.b && srcOk x.c && x.pm2 != 7
  | .mlease _ => true
  | .mrel _ => true
  | .oclaim x => dstOk x.d
  | .orel x => srcOk x.a
  | .old x => srcOk x.a && srcOk x.b
  | .azero x => tileOk x.d
  | .aread x => dstOk x.d && tileOk x.a && srcOk x.b
  | .awrite x => tileOk x.d && srcOk x.a && srcOk x.b
  | .ast x => srcOk x.a && srcOk x.b
  | .ald x => tileOk x.d && srcOk x.a && srcOk x.b
  | .mwait _ => true
  | .medge x => srcOk x.a
  | .accown x => dstOk x.d && srcOk x.a
  | .hint _ => true
  | .modifier x => modOk x
  | .divideComplete _ => true
  | .fpDivideComplete _ _ => true
  | .fpLateTrap _ _ _ => true
  | .loadResponse _ => true
  | .lateFault _ _ _ _ => true
  | .storePerform _ => true
  | .homeAtomic _ => true
  | .homeCellOperation _ => true
  | .homeQueueOperation _ => true
  | .launchAtHome _ => true
  | .launchStatus _ _ => true
  | .watchRegister _ => true
  | .watchFire _ => true
  | .fenceComplete _ _ => true
  | .cpubComplete _ _ _ => true
  | .nreadTimeout _ => true
  | .homeWeightUpdate _ => true
  | .weightGrant _ _ _ _ => true
  | .returnCombineFlush _ => true
  | .messageArrival _ _ => true
  | .slotSelect _ => true
  | .preemptRequest _ _ => true
  | .timeSliceExpiry _ => true
  | .preemptHoldExpiry _ => true
  | .preemptResume _ => true
  | .phaseOverrun _ => true
  | .phaseOverrunMessage _ => true
  | .lSlotRotation _ => true
  | .wfiWake _ => true
  | .vclaimGrant _ => true
  | .leaseGrant _ => true
  | .leaseExpiry _ => true
  | .mmaCommandStart _ => true
  | .mmaCommandComplete _ => true
  | .subscriptionEstablish _ => true
  | .batchWindowExpiry _ _ => true
  | .updateApply _ => true
  | .updateLogWrite _ => true
  | .gbarEpisodeComplete _ => true
  | .packetDispatch _ => true
  | .placementAction _ => true
  | .gangDrain _ => true
  | .contextCompact _ _ _ => true
  | .contextComplete _ => true
  | .frameAdvance => true
  | .missMergeWindow _ => true
  | .combineForward _ _ => true
  | .kick _ _ => true
  | .jobStart _ => true
  | .jobEnd _ _ _ _ => true
  | .collective _ _ => true
  | .remoteStore _ _ => true
  | .remoteStoreAck _ _ => true
  | .linkDeath _ => true
  | .portRestore _ => true
  | .pageWalk _ _ _ _ => true
  | .tlbInvalidation _ => true
  | .patrolScrub _ _ => true
  | .heartWrite _ _ => true
  | .heartTimeout _ => true
  | .warmRestart => true
  | .coldStart => true
  | .powerLoss => true
  | .thermalShutdown => true
  | .powercapWrite _ => true
  | .mbColdStart _ => true
  | .mbWarmRestart _ => true
  | .mbWriteFirmware _ => true
  | .mbAttestation _ => true
  | .mbRegisterLog _ => true
  | .mbCommitVersion _ => true
  | .mbStop _ => true
  | .mbUnknownOp _ _ => true
  | .hostEnqueue _ _ => true
  | .hostMemoryAccess _ _ _ => true
  | .configRegisterWrite _ _ _ => true
  | .illegal _ _ => true
  | .fetchFault _ _ => true
  | .laneResult _ => true
  | .powerThrottle _ _ => true
  | .shutdownPending _ => true
  | .linkTraining _ _ => true
  | .linkLevelRetry _ => true

end Sys2Proof
end

