-- ==== Sys2Proof/Decode.lean ====
section
/-!
DEFINITION. Decoding and encoding (R41 to R50, R72 to R85). `decode` is total: a word that is not an instruction of the
opcode map is rejected by name. `encode` is written from the same tables.
-/
namespace Sys2Proof

/-- Why a word is not an instruction (R69). -/
inductive DecodeError where
  | illegalMajor
  | reservedFunction
  | unusedFieldNonzero
  | illegalField
  deriving DecidableEq, Repr

/-- The bits `[lo + n - 1 : lo]` of an instruction word. -/
def bits (w : Word32) (lo n : Nat) : BitVec n := w.extractLsb' lo n

/-- The major opcode, bits [31:26] (R41). -/
def major (w : Word32) : BitVec 6 := bits w 26 6

/-! ### Reading and writing the word forms -/

/-- The fields of a RRR word; an unused field must be zero (R47). -/
def RRR.ofWord (w : Word32) : Except DecodeError RRR := .ok ⟨bits w 23 3, bits w 18 5, bits w 13 5, bits w 8 5⟩

/-- A RRR word under major `maj` with function code `fn`. -/
def RRR.toWord (x : RRR) (maj : BitVec 6) (fn : BitVec 8) : Word32 :=
  maj ++ x.st ++ x.d ++ x.a ++ x.b ++ fn

/-- The fields of a RR word; an unused field must be zero (R47). -/
def RR.ofWord (w : Word32) : Except DecodeError RR :=
  if bits w 8 5 = 0 then .ok ⟨bits w 23 3, bits w 18 5, bits w 13 5⟩
  else .error .unusedFieldNonzero

/-- A RR word under major `maj` with function code `fn`. -/
def RR.toWord (x : RR) (maj : BitVec 6) (fn : BitVec 8) : Word32 :=
  maj ++ x.st ++ x.d ++ x.a ++ 0#5 ++ fn

/-- The fields of a AB word; an unused field must be zero (R47). -/
def AB.ofWord (w : Word32) : Except DecodeError AB :=
  if bits w 18 5 = 0 then .ok ⟨bits w 23 3, bits w 13 5, bits w 8 5⟩
  else .error .unusedFieldNonzero

/-- A AB word under major `maj` with function code `fn`. -/
def AB.toWord (x : AB) (maj : BitVec 6) (fn : BitVec 8) : Word32 :=
  maj ++ x.st ++ 0#5 ++ x.a ++ x.b ++ fn

/-- The fields of a A1 word; an unused field must be zero (R47). -/
def A1.ofWord (w : Word32) : Except DecodeError A1 :=
  if bits w 18 5 = 0 ∧ bits w 8 5 = 0 then .ok ⟨bits w 23 3, bits w 13 5⟩
  else .error .unusedFieldNonzero

/-- A A1 word under major `maj` with function code `fn`. -/
def A1.toWord (x : A1) (maj : BitVec 6) (fn : BitVec 8) : Word32 :=
  maj ++ x.st ++ 0#5 ++ x.a ++ 0#5 ++ fn

/-- The fields of a B1 word; an unused field must be zero (R47). -/
def B1.ofWord (w : Word32) : Except DecodeError B1 :=
  if bits w 18 5 = 0 ∧ bits w 13 5 = 0 then .ok ⟨bits w 23 3, bits w 8 5⟩
  else .error .unusedFieldNonzero

/-- A B1 word under major `maj` with function code `fn`. -/
def B1.toWord (x : B1) (maj : BitVec 6) (fn : BitVec 8) : Word32 :=
  maj ++ x.st ++ 0#5 ++ 0#5 ++ x.b ++ fn

/-- The fields of a D1 word; an unused field must be zero (R47). -/
def D1.ofWord (w : Word32) : Except DecodeError D1 :=
  if bits w 13 5 = 0 ∧ bits w 8 5 = 0 then .ok ⟨bits w 23 3, bits w 18 5⟩
  else .error .unusedFieldNonzero

/-- A D1 word under major `maj` with function code `fn`. -/
def D1.toWord (x : D1) (maj : BitVec 6) (fn : BitVec 8) : Word32 :=
  maj ++ x.st ++ x.d ++ 0#5 ++ 0#5 ++ fn

/-- The fields of a N0 word; an unused field must be zero (R47). -/
def N0.ofWord (w : Word32) : Except DecodeError N0 :=
  if bits w 18 5 = 0 ∧ bits w 13 5 = 0 ∧ bits w 8 5 = 0 then .ok ⟨bits w 23 3⟩
  else .error .unusedFieldNonzero

/-- A N0 word under major `maj` with function code `fn`. -/
def N0.toWord (x : N0) (maj : BitVec 6) (fn : BitVec 8) : Word32 :=
  maj ++ x.st ++ 0#5 ++ 0#5 ++ 0#5 ++ fn

/-- The fields of a RI word; an unused field must be zero (R47). -/
def RI.ofWord (w : Word32) : Except DecodeError RI := .ok ⟨bits w 23 3, bits w 18 5, bits w 13 5, bits w 0 13⟩

/-- A RI word under major `maj`. -/
def RI.toWord (x : RI) (maj : BitVec 6) : Word32 :=
  maj ++ x.st ++ x.d ++ x.a ++ x.imm

/-- The fields of a DI word; an unused field must be zero (R47). -/
def DI.ofWord (w : Word32) : Except DecodeError DI :=
  if bits w 13 5 = 0 then .ok ⟨bits w 23 3, bits w 18 5, bits w 0 13⟩
  else .error .unusedFieldNonzero

/-- A DI word under major `maj`. -/
def DI.toWord (x : DI) (maj : BitVec 6) : Word32 :=
  maj ++ x.st ++ x.d ++ 0#5 ++ x.imm

/-- The fields of a Mem word; an unused field must be zero (R47). -/
def Mem.ofWord (w : Word32) : Except DecodeError Mem :=
  if bits w 9 2 = 0 then .ok ⟨bits w 23 3, bits w 18 5, bits w 13 5, bits w 11 2, bits w 0 9⟩
  else .error .unusedFieldNonzero

/-- A Mem word under major `maj`. -/
def Mem.toWord (x : Mem) (maj : BitVec 6) : Word32 :=
  maj ++ x.st ++ x.d ++ x.a ++ x.sz ++ 0#2 ++ x.off

/-- The fields of a MemS word; an unused field must be zero (R47). -/
def MemS.ofWord (w : Word32) : Except DecodeError MemS := .ok ⟨bits w 23 3, bits w 18 5, bits w 13 5, bits w 11 2, bits w 9 2, bits w 0 9⟩

/-- A MemS word under major `maj`. -/
def MemS.toWord (x : MemS) (maj : BitVec 6) : Word32 :=
  maj ++ x.st ++ x.d ++ x.a ++ x.sz ++ x.sc ++ x.off

/-- The fields of a RRRR word; an unused field must be zero (R47). -/
def RRRR.ofWord (w : Word32) : Except DecodeError RRRR := .ok ⟨bits w 23 3, bits w 18 5, bits w 13 5, bits w 8 5, bits w 3 5⟩

/-- A RRRR word under major `maj` with function code `fn`. -/
def RRRR.toWord (x : RRRR) (maj : BitVec 6) (fn : BitVec 3) : Word32 :=
  maj ++ x.st ++ x.d ++ x.a ++ x.b ++ x.c ++ fn

/-- The fields of a ABC word; an unused field must be zero (R47). -/
def ABC.ofWord (w : Word32) : Except DecodeError ABC :=
  if bits w 18 5 = 0 then .ok ⟨bits w 23 3, bits w 13 5, bits w 8 5, bits w 3 5⟩
  else .error .unusedFieldNonzero

/-- A ABC word under major `maj` with function code `fn`. -/
def ABC.toWord (x : ABC) (maj : BitVec 6) (fn : BitVec 3) : Word32 :=
  maj ++ x.st ++ 0#5 ++ x.a ++ x.b ++ x.c ++ fn

/-- The fields of a RAC word; an unused field must be zero (R47). -/
def RAC.ofWord (w : Word32) : Except DecodeError RAC :=
  if bits w 8 5 = 0 then .ok ⟨bits w 23 3, bits w 18 5, bits w 13 5, bits w 3 5⟩
  else .error .unusedFieldNonzero

/-- A RAC word under major `maj` with function code `fn`. -/
def RAC.toWord (x : RAC) (maj : BitVec 6) (fn : BitVec 3) : Word32 :=
  maj ++ x.st ++ x.d ++ x.a ++ 0#5 ++ x.c ++ fn

/-- The fields of a BitF word; an unused field must be zero (R47). -/
def BitF.ofWord (w : Word32) : Except DecodeError BitF := .ok ⟨bits w 23 3, bits w 18 5, bits w 13 5, bits w 6 7, bits w 0 6⟩

/-- A BitF word under major `maj`. -/
def BitF.toWord (x : BitF) (maj : BitVec 6) : Word32 :=
  maj ++ x.st ++ x.d ++ x.a ++ x.len ++ x.pos

/-- The fields of a Br word; an unused field must be zero (R47). -/
def Br.ofWord (w : Word32) : Except DecodeError Br := .ok ⟨bits w 23 3, bits w 19 1, bits w 14 5, bits w 9 5, bits w 0 9⟩

/-- A Br word under major `maj` with function code `fn`. -/
def Br.toWord (x : Br) (maj : BitVec 6) (fn : BitVec 3) : Word32 :=
  maj ++ x.st ++ fn ++ x.nul ++ x.a ++ x.b ++ x.disp

/-- The fields of a BrL word; an unused field must be zero (R47). -/
def BrL.ofWord (w : Word32) : Except DecodeError BrL := .ok ⟨bits w 23 3, bits w 0 20⟩

/-- A BrL word under major `maj` with function code `fn`. -/
def BrL.toWord (x : BrL) (maj : BitVec 6) (fn : BitVec 3) : Word32 :=
  maj ++ x.st ++ fn ++ x.disp

/-- The fields of a Rep word; an unused field must be zero (R47). -/
def Rep.ofWord (w : Word32) : Except DecodeError Rep :=
  if bits w 18 5 = 0 ∧ bits w 8 5 = 0 then .ok ⟨bits w 23 3, bits w 13 5, bits w 0 6⟩
  else .error .unusedFieldNonzero

/-- A Rep word under major `maj`. -/
def Rep.toWord (x : Rep) (maj : BitVec 6) : Word32 :=
  maj ++ x.st ++ 0#5 ++ x.a ++ 0#5 ++ 1#2 ++ x.len1

/-- The fields of a FRRR word; an unused field must be zero (R47). -/
def FRRR.ofWord (w : Word32) : Except DecodeError FRRR := .ok ⟨bits w 23 3, bits w 18 5, bits w 13 5, bits w 8 5, bits w 6 2⟩

/-- A FRRR word under major `maj` with function code `fn`. -/
def FRRR.toWord (x : FRRR) (maj : BitVec 6) (fn : BitVec 6) : Word32 :=
  maj ++ x.st ++ x.d ++ x.a ++ x.b ++ x.fmt ++ fn

/-- The fields of a FRR word; an unused field must be zero (R47). -/
def FRR.ofWord (w : Word32) : Except DecodeError FRR :=
  if bits w 8 5 = 0 then .ok ⟨bits w 23 3, bits w 18 5, bits w 13 5, bits w 6 2⟩
  else .error .unusedFieldNonzero

/-- A FRR word under major `maj` with function code `fn`. -/
def FRR.toWord (x : FRR) (maj : BitVec 6) (fn : BitVec 6) : Word32 :=
  maj ++ x.st ++ x.d ++ x.a ++ 0#5 ++ x.fmt ++ fn

/-- The fields of a FX word; an unused field must be zero (R47). -/
def FX.ofWord (w : Word32) : Except DecodeError FX := .ok ⟨bits w 23 3, bits w 18 5, bits w 13 5, bits w 8 5, bits w 3 5, bits w 0 1⟩

/-- A FX word under major `maj` with function code `fn`. -/
def FX.toWord (x : FX) (maj : BitVec 6) (fn : BitVec 2) : Word32 :=
  maj ++ x.st ++ x.d ++ x.a ++ x.b ++ x.c ++ fn ++ x.single

/-- The fields of a Cvt word; an unused field must be zero (R47). -/
def Cvt.ofWord (w : Word32) : Except DecodeError Cvt :=
  if bits w 8 5 = 0 then .ok ⟨bits w 23 3, bits w 18 5, bits w 13 5, bits w 3 3, bits w 0 3⟩
  else .error .unusedFieldNonzero

/-- A Cvt word under major `maj` with function code `fn`. -/
def Cvt.toWord (x : Cvt) (maj : BitVec 6) (fn : BitVec 2) : Word32 :=
  maj ++ x.st ++ x.d ++ x.a ++ 0#5 ++ fn ++ x.src ++ x.dst

/-- The fields of a RRRz word; an unused field must be zero (R47). -/
def RRRz.ofWord (w : Word32) : Except DecodeError RRRz := .ok ⟨bits w 23 3, bits w 18 5, bits w 13 5, bits w 8 5, bits w 0 2⟩

/-- A RRRz word under major `maj` with function code `fn`. -/
def RRRz.toWord (x : RRRz) (maj : BitVec 6) (fn : BitVec 6) : Word32 :=
  maj ++ x.st ++ x.d ++ x.a ++ x.b ++ fn ++ x.sz

/-- The fields of a Sb word; an unused field must be zero (R47). -/
def Sb.ofWord (w : Word32) : Except DecodeError Sb :=
  if bits w 18 5 = 0 ∧ bits w 8 5 = 0 then .ok ⟨bits w 23 3, bits w 13 5, bits w 0 2⟩
  else .error .unusedFieldNonzero

/-- A Sb word under major `maj` with function code `fn`. -/
def Sb.toWord (x : Sb) (maj : BitVec 6) (fn : BitVec 6) : Word32 :=
  maj ++ x.st ++ 0#5 ++ x.a ++ 0#5 ++ fn ++ x.port

/-- The fields of a Sc word; an unused field must be zero (R47). -/
def Sc.ofWord (w : Word32) : Except DecodeError Sc :=
  if bits w 18 5 = 0 ∧ bits w 13 5 = 0 ∧ bits w 8 5 = 0 then .ok ⟨bits w 23 3, bits w 0 2⟩
  else .error .unusedFieldNonzero

/-- A Sc word under major `maj` with function code `fn`. -/
def Sc.toWord (x : Sc) (maj : BitVec 6) (fn : BitVec 6) : Word32 :=
  maj ++ x.st ++ 0#5 ++ 0#5 ++ 0#5 ++ fn ++ x.port

/-- The fields of a Sp word; an unused field must be zero (R47). -/
def Sp.ofWord (w : Word32) : Except DecodeError Sp :=
  if bits w 13 5 = 0 ∧ bits w 8 5 = 0 then .ok ⟨bits w 23 3, bits w 18 5, bits w 0 2⟩
  else .error .unusedFieldNonzero

/-- A Sp word under major `maj` with function code `fn`. -/
def Sp.toWord (x : Sp) (maj : BitVec 6) (fn : BitVec 6) : Word32 :=
  maj ++ x.st ++ x.d ++ 0#5 ++ 0#5 ++ fn ++ x.port

/-- The fields of a Amo word; an unused field must be zero (R47). -/
def Amo.ofWord (w : Word32) : Except DecodeError Amo :=
  if bits w 5 3 = 0 then .ok ⟨bits w 23 3, bits w 18 5, bits w 13 5, bits w 8 5, bits w 4 1⟩
  else .error .unusedFieldNonzero

/-- A Amo word under major `maj` with function code `fn`. -/
def Amo.toWord (x : Amo) (maj : BitVec 6) (fn : BitVec 4) : Word32 :=
  maj ++ x.st ++ x.d ++ x.a ++ x.b ++ 0#3 ++ x.wide ++ fn

/-- The fields of a Xadd word; an unused field must be zero (R47). -/
def Xadd.ofWord (w : Word32) : Except DecodeError Xadd :=
  if bits w 18 5 = 0 then .ok ⟨bits w 23 3, bits w 13 5, bits w 8 5, bits w 0 3⟩
  else .error .unusedFieldNonzero

/-- A Xadd word under major `maj` with function code `fn`. -/
def Xadd.toWord (x : Xadd) (maj : BitVec 6) (fn : BitVec 5) : Word32 :=
  maj ++ x.st ++ 0#5 ++ x.a ++ x.b ++ fn ++ x.fmt

/-- The fields of a ABw word; an unused field must be zero (R47). -/
def ABw.ofWord (w : Word32) : Except DecodeError ABw :=
  if bits w 18 5 = 0 then .ok ⟨bits w 23 3, bits w 13 5, bits w 8 5, bits w 0 1⟩
  else .error .unusedFieldNonzero

/-- A ABw word under major `maj` with function code `fn`. -/
def ABw.toWord (x : ABw) (maj : BitVec 6) (fn : BitVec 7) : Word32 :=
  maj ++ x.st ++ 0#5 ++ x.a ++ x.b ++ fn ++ x.wide

/-- The fields of a Xread word; an unused field must be zero (R47). -/
def Xread.ofWord (w : Word32) : Except DecodeError Xread :=
  if bits w 8 5 = 0 ∧ bits w 0 1 = 0 then .ok ⟨bits w 23 3, bits w 18 5, bits w 13 5, bits w 4 3, bits w 1 3⟩
  else .error .unusedFieldNonzero

/-- A Xread word under major `maj`. -/
def Xread.toWord (x : Xread) (maj : BitVec 6) : Word32 :=
  maj ++ x.st ++ x.d ++ x.a ++ 0#5 ++ 1#1 ++ x.fmt ++ x.mode ++ 0#1

/-- The fields of a Cas word; an unused field must be zero (R47). -/
def Cas.ofWord (w : Word32) : Except DecodeError Cas := .ok ⟨bits w 23 3, bits w 18 5, bits w 13 5, bits w 8 5, bits w 3 5, bits w 0 1⟩

/-- A Cas word under major `maj` with function code `fn`. -/
def Cas.toWord (x : Cas) (maj : BitVec 6) (fn : BitVec 2) : Word32 :=
  maj ++ x.st ++ x.d ++ x.a ++ x.b ++ x.c ++ fn ++ x.wide

/-- The fields of a ABe word; an unused field must be zero (R47). -/
def ABe.ofWord (w : Word32) : Except DecodeError ABe :=
  if bits w 18 5 = 0 then .ok ⟨bits w 23 3, bits w 13 5, bits w 8 5, bits w 0 2⟩
  else .error .unusedFieldNonzero

/-- A ABe word under major `maj` with function code `fn`. -/
def ABe.toWord (x : ABe) (maj : BitVec 6) (fn : BitVec 6) : Word32 :=
  maj ++ x.st ++ 0#5 ++ x.a ++ x.b ++ fn ++ x.scope

/-- The fields of a CsrR word; an unused field must be zero (R47). -/
def CsrR.ofWord (w : Word32) : Except DecodeError CsrR :=
  if bits w 13 5 = 0 then .ok ⟨bits w 23 3, bits w 18 5, bits w 0 11⟩
  else .error .unusedFieldNonzero

/-- A CsrR word under major `maj` with function code `fn`. -/
def CsrR.toWord (x : CsrR) (maj : BitVec 6) (fn : BitVec 2) : Word32 :=
  maj ++ x.st ++ x.d ++ 0#5 ++ fn ++ x.csr

/-- The fields of a CsrW word; an unused field must be zero (R47). -/
def CsrW.ofWord (w : Word32) : Except DecodeError CsrW := .ok ⟨bits w 23 3, bits w 18 5, bits w 13 5, bits w 0 11⟩

/-- A CsrW word under major `maj` with function code `fn`. -/
def CsrW.toWord (x : CsrW) (maj : BitVec 6) (fn : BitVec 2) : Word32 :=
  maj ++ x.st ++ x.d ++ x.a ++ fn ++ x.csr

/-- The fields of a ABs word; an unused field must be zero (R47). -/
def ABs.ofWord (w : Word32) : Except DecodeError ABs :=
  if bits w 18 5 = 0 then .ok ⟨bits w 23 3, bits w 13 5, bits w 8 5, bits w 0 3⟩
  else .error .unusedFieldNonzero

/-- A ABs word under major `maj` with function code `fn`. -/
def ABs.toWord (x : ABs) (maj : BitVec 6) (fn : BitVec 5) : Word32 :=
  maj ++ x.st ++ 0#5 ++ x.a ++ x.b ++ fn ++ x.scope

/-- The fields of a Fence word; an unused field must be zero (R47). -/
def Fence.ofWord (w : Word32) : Except DecodeError Fence :=
  if bits w 13 5 = 0 ∧ bits w 8 5 = 0 then .ok ⟨bits w 23 3, bits w 18 5, bits w 4 3, bits w 0 4⟩
  else .error .unusedFieldNonzero

/-- A Fence word under major `maj` with function code `fn`. -/
def Fence.toWord (x : Fence) (maj : BitVec 6) (fn : BitVec 1) : Word32 :=
  maj ++ x.st ++ x.d ++ 0#5 ++ 0#5 ++ fn ++ x.scope ++ x.kinds

/-- The fields of a Vcmp word; an unused field must be zero (R47). -/
def Vcmp.ofWord (w : Word32) : Except DecodeError Vcmp :=
  if bits w 6 2 = 0 ∧ bits w 3 1 = 0 then .ok ⟨bits w 23 3, bits w 18 5, bits w 13 5, bits w 8 5, bits w 4 2, bits w 0 3⟩
  else .error .unusedFieldNonzero

/-- A Vcmp word under major `maj`. -/
def Vcmp.toWord (x : Vcmp) (maj : BitVec 6) : Word32 :=
  maj ++ x.st ++ x.d ++ x.a ++ x.b ++ 0#2 ++ x.ty ++ 0#1 ++ x.cond

/-- The fields of a MmaN word; an unused field must be zero (R47). -/
def MmaN.ofWord (w : Word32) : Except DecodeError MmaN := .ok ⟨bits w 23 3, bits w 18 5, bits w 13 5, bits w 8 5, bits w 3 5, bits w 0 3⟩

/-- A MmaN word under major `maj`. -/
def MmaN.toWord (x : MmaN) (maj : BitVec 6) : Word32 :=
  maj ++ x.st ++ x.d ++ x.a ++ x.b ++ x.c ++ x.pm2

/-- The fields of a Ast word; an unused field must be zero (R47). -/
def Ast.ofWord (w : Word32) : Except DecodeError Ast := .ok ⟨bits w 23 3, bits w 21 2, bits w 18 3, bits w 13 5, bits w 8 5⟩

/-- A Ast word under major `maj` with function code `fn`. -/
def Ast.toWord (x : Ast) (maj : BitVec 6) (fn : BitVec 8) : Word32 :=
  maj ++ x.st ++ x.fmt ++ x.tile ++ x.a ++ x.b ++ fn

/-- The fields of a Hint word; an unused field must be zero (R47). -/
def Hint.ofWord (w : Word32) : Except DecodeError Hint := .ok ⟨bits w 0 26⟩

/-- A Hint word under major `maj`. -/
def Hint.toWord (x : Hint) (maj : BitVec 6) : Word32 :=
  maj ++ x.kimm

/-- The fields of a Modw word; an unused field must be zero (R47). -/
def Modw.ofWord (w : Word32) : Except DecodeError Modw :=
  if bits w 0 10 = 0 then .ok ⟨bits w 25 1, bits w 22 3, bits w 19 3, bits w 18 1, bits w 13 5, bits w 10 3⟩
  else .error .unusedFieldNonzero

/-- A Modw word under major `maj`. -/
def Modw.toWord (x : Modw) (maj : BitVec 6) : Word32 :=
  maj ++ x.minv ++ x.msel ++ x.rm ++ x.zm ++ x.op4 ++ x.cnt ++ 0#10

/-! ### The opcode map (R73 to R85): one decoder per major -/

/-- Major 0x01. -/
def decode01 (w : Word32) : Except DecodeError Instr :=
  match bits w 0 8 with
  | 0x00#8 => (RRR.ofWord w).map .add
  | 0x01#8 => (RRR.ofWord w).map .sub
  | 0x02#8 => (RRR.ofWord w).map .mul
  | 0x03#8 => (RRR.ofWord w).map .mulh
  | 0x04#8 => (RRR.ofWord w).map .mulhu
  | 0x05#8 => (RRR.ofWord w).map .div
  | 0x06#8 => (RRR.ofWord w).map .divu
  | 0x07#8 => (RRR.ofWord w).map .rem
  | 0x08#8 => (RRR.ofWord w).map .remu
  | 0x10#8 => (RRR.ofWord w).map .and
  | 0x11#8 => (RRR.ofWord w).map .or
  | 0x12#8 => (RRR.ofWord w).map .xor
  | 0x13#8 => (RRR.ofWord w).map .andn
  | 0x14#8 => (RRR.ofWord w).map .orn
  | 0x18#8 => (RRR.ofWord w).map .shl
  | 0x19#8 => (RRR.ofWord w).map .shr
  | 0x1A#8 => (RRR.ofWord w).map .sar
  | 0x1B#8 => (RRR.ofWord w).map .rot
  | 0x20#8 => (RRR.ofWord w).map .min
  | 0x21#8 => (RRR.ofWord w).map .max
  | 0x22#8 => (RRR.ofWord w).map .minu
  | 0x23#8 => (RRR.ofWord w).map .maxu
  | 0x24#8 => (RR.ofWord w).map .abs
  | 0x28#8 => (RR.ofWord w).map .clz
  | 0x29#8 => (RR.ofWord w).map .ctz
  | 0x2A#8 => (RR.ofWord w).map .pop
  | 0x2B#8 => (RR.ofWord w).map .brev
  | _ => .error .reservedFunction

/-- Major 0x02. -/
def decode02 (w : Word32) : Except DecodeError Instr :=
  (RI.ofWord w).map .addi

/-- Major 0x03. -/
def decode03 (w : Word32) : Except DecodeError Instr :=
  (RI.ofWord w).map .andi

/-- Major 0x04. -/
def decode04 (w : Word32) : Except DecodeError Instr :=
  (RI.ofWord w).map .ori

/-- Major 0x05. -/
def decode05 (w : Word32) : Except DecodeError Instr :=
  (RI.ofWord w).map .xori

/-- Major 0x06. -/
def decode06 (w : Word32) : Except DecodeError Instr :=
  (RI.ofWord w).map .shli

/-- Major 0x07. -/
def decode07 (w : Word32) : Except DecodeError Instr :=
  (RI.ofWord w).map .shri

/-- Major 0x08. -/
def decode08 (w : Word32) : Except DecodeError Instr :=
  (RI.ofWord w).map .sari

/-- Major 0x09. -/
def decode09 (w : Word32) : Except DecodeError Instr :=
  (RI.ofWord w).map .roti

/-- Major 0x0A. -/
def decode0A (w : Word32) : Except DecodeError Instr :=
  (Mem.ofWord w).map .lea

/-- Major 0x0B. -/
def decode0B (w : Word32) : Except DecodeError Instr :=
  (DI.ofWord w).map .lim

/-- Major 0x0C. -/
def decode0C (w : Word32) : Except DecodeError Instr :=
  match bits w 0 3 with
  | 0x00#3 => (RRRR.ofWord w).map .sel
  | 0x01#3 => (RRRR.ofWord w).map .bext
  | 0x02#3 => (RRRR.ofWord w).map .bins
  | _ => .error .reservedFunction

/-- Major 0x0D. -/
def decode0D (w : Word32) : Except DecodeError Instr :=
  match bits w 0 8 with
  | 0x00#8 => (RRR.ofWord w).map .cmpeq
  | 0x01#8 => (RRR.ofWord w).map .cmpne
  | 0x02#8 => (RRR.ofWord w).map .cmplt
  | 0x03#8 => (RRR.ofWord w).map .cmpltu
  | 0x04#8 => (RRR.ofWord w).map .cmple
  | 0x05#8 => (RRR.ofWord w).map .cmpleu
  | _ => .error .reservedFunction

/-- Major 0x0E. -/
def decode0E (w : Word32) : Except DecodeError Instr :=
  (BitF.ofWord w).map .bexti

/-- Major 0x0F. -/
def decode0F (w : Word32) : Except DecodeError Instr :=
  (RI.ofWord w).map .cmplti

/-- Major 0x10. -/
def decode10 (w : Word32) : Except DecodeError Instr :=
  match bits w 20 3 with
  | 0b000#3 => (Br.ofWord w).map .beq
  | 0b001#3 => (Br.ofWord w).map .bne
  | 0b010#3 => (Br.ofWord w).map .blt
  | 0b011#3 => (Br.ofWord w).map .bge
  | 0b100#3 => (Br.ofWord w).map .bltu
  | 0b101#3 => (Br.ofWord w).map .bgeu
  | 0b111#3 => (BrL.ofWord w).map .b
  | _ => .error .reservedFunction

/-- Major 0x11. -/
def decode11 (w : Word32) : Except DecodeError Instr :=
  if bits w 20 3 = 0b111#3 then (BrL.ofWord w).map .call else .error .illegalField

/-- Major 0x12. -/
def decode12 (w : Word32) : Except DecodeError Instr :=
  match bits w 6 2 with
  | 0b00#2 =>
    match bits w 0 6 with
    | 0x00#6 => (A1.ofWord w).map .jr
    | 0x01#6 => (N0.ofWord w).map .nop
    | 0x02#6 => (N0.ofWord w).map .brk
    | _ => .error .reservedFunction
  | 0b01#2 => (Rep.ofWord w).map .rep
  | _ => .error .reservedFunction

/-- Major 0x13. -/
def decode13 (w : Word32) : Except DecodeError Instr :=
  if bits w 18 5 = 0#5 then (if bits w 0 13 = 0#13 then (N0.ofWord w).map .rgn else .error .illegalField)
  else (DI.ofWord w).map .rgnInc

/-- Major 0x14. -/
def decode14 (w : Word32) : Except DecodeError Instr :=
  match bits w 0 6 with
  | 0x00#6 => (FRRR.ofWord w).map .fadd
  | 0x01#6 => (FRRR.ofWord w).map .fsub
  | 0x02#6 => (FRRR.ofWord w).map .fmul
  | 0x03#6 => (FRRR.ofWord w).map .fdiv
  | 0x04#6 => (FRR.ofWord w).map .fsqrt
  | 0x05#6 => (FRRR.ofWord w).map .fmin
  | 0x06#6 => (FRRR.ofWord w).map .fmax
  | 0x07#6 => (FRRR.ofWord w).map .fminn
  | 0x08#6 => (FRRR.ofWord w).map .fmaxn
  | 0x09#6 => (FRR.ofWord w).map .fabs
  | 0x0A#6 => (FRR.ofWord w).map .fneg
  | 0x0B#6 => (FRRR.ofWord w).map .fsgn
  | 0x0C#6 => (FRR.ofWord w).map .frnd
  | _ => .error .reservedFunction

/-- Major 0x15. -/
def decode15 (w : Word32) : Except DecodeError Instr :=
  match bits w 1 2 with
  | 0x00#2 => (FX.ofWord w).map .fma
  | 0x01#2 => (FX.ofWord w).map .fms
  | 0x02#2 => (FX.ofWord w).map .fnma
  | _ => .error .reservedFunction

/-- Major 0x16. -/
def decode16 (w : Word32) : Except DecodeError Instr :=
  match bits w 6 2 with
  | 0x00#2 => (Cvt.ofWord w).map .fcvt
  | 0x01#2 => (Cvt.ofWord w).map .fcvti
  | 0x02#2 => (Cvt.ofWord w).map .icvtf
  | _ => .error .reservedFunction

/-- Major 0x17. -/
def decode17 (w : Word32) : Except DecodeError Instr :=
  match bits w 0 6 with
  | 0x00#6 => (FRRR.ofWord w).map .fcmpeq
  | 0x01#6 => (FRRR.ofWord w).map .fcmplt
  | 0x02#6 => (FRRR.ofWord w).map .fcmple
  | 0x03#6 => (FRRR.ofWord w).map .fcmpun
  | 0x04#6 => (FRR.ofWord w).map .fclass
  | _ => .error .reservedFunction

/-- Major 0x18. -/
def decode18 (w : Word32) : Except DecodeError Instr :=
  (Mem.ofWord w).map .ld

/-- Major 0x19. -/
def decode19 (w : Word32) : Except DecodeError Instr :=
  (Mem.ofWord w).map .st

/-- Major 0x1A. -/
def decode1A (w : Word32) : Except DecodeError Instr :=
  (MemS.ofWord w).map .ldAcq

/-- Major 0x1B. -/
def decode1B (w : Word32) : Except DecodeError Instr :=
  (MemS.ofWord w).map .stRel

/-- Major 0x1C. -/
def decode1C (w : Word32) : Except DecodeError Instr :=
  match bits w 2 6 with
  | 0x00#6 => (RRRz.ofWord w).map .lds
  | 0x01#6 => (RRRz.ofWord w).map .sts
  | 0x02#6 => (RRRz.ofWord w).map .ldk
  | _ => .error .reservedFunction

/-- Major 0x1D. -/
def decode1D (w : Word32) : Except DecodeError Instr :=
  match bits w 0 8 with
  | 0x00#8 => (A1.ofWord w).map .pref
  | 0x01#8 => (AB.ofWord w).map .wb
  | 0x02#8 => (AB.ofWord w).map .inv
  | 0x08#8 => (RRR.ofWord w).map .bmove
  | 0x09#8 => (RRR.ofWord w).map .bfill
  | _ =>
    match bits w 2 6 with
    | 0x04#6 => (Sb.ofWord w).map .sbind
    | 0x05#6 => (Sc.ofWord w).map .sclose
    | 0x06#6 => (Sp.ofWord w).map .spos
    | _ => .error .reservedFunction

/-- Major 0x1E. -/
def decode1E (w : Word32) : Except DecodeError Instr :=
  match bits w 0 8 with
  | 0x20#8 => (A1.ofWord w).map .xinit32
  | 0x21#8 => (A1.ofWord w).map .xinit64
  | 0x30#8 => (A1.ofWord w).map .xclr
  | 0x38#8 => (RRR.ofWord w).map .enq
  | 0x39#8 => (RR.ofWord w).map .deq
  | 0x3A#8 => (RR.ofWord w).map .seqdeq
  | _ =>
    if bits w 7 1 = 1#1 then (if bits w 0 1 = 0#1 then (Xread.ofWord w).map .xread else .error .reservedFunction)
    else if bits w 1 7 = 0x1E#7 then (ABw.ofWord w).map .waitv
    else if bits w 3 5 = 0x05#5 then (Xadd.ofWord w).map .xadd
    else if bits w 5 3 = 0#3 then
      match bits w 0 4 with
      | 0x0#4 => (Amo.ofWord w).map .amoAdd
      | 0x1#4 => (Amo.ofWord w).map .amoAnd
      | 0x2#4 => (Amo.ofWord w).map .amoOr
      | 0x3#4 => (Amo.ofWord w).map .amoXor
      | 0x4#4 => (Amo.ofWord w).map .amoMin
      | 0x5#4 => (Amo.ofWord w).map .amoMax
      | 0x6#4 => (Amo.ofWord w).map .amoMinu
      | 0x7#4 => (Amo.ofWord w).map .amoMaxu
      | 0x8#4 => (Amo.ofWord w).map .amoSwap
      | _ => .error .reservedFunction
    else .error .reservedFunction

/-- Major 0x1F. -/
def decode1F (w : Word32) : Except DecodeError Instr :=
  if bits w 1 2 = 0b01#2 then (Cas.ofWord w).map .cas
  else if bits w 0 3 = 0b100#3 then (RRRR.ofWord w).map .seqenq
  else .error .reservedFunction

/-- Major 0x20. -/
def decode20 (w : Word32) : Except DecodeError Instr :=
  match bits w 0 8 with
  | 0x00#8 => (AB.ofWord w).map .send
  | 0x01#8 => (AB.ofWord w).map .sendm
  | 0x02#8 => (AB.ofWord w).map .push
  | 0x08#8 => (AB.ofWord w).map .htset
  | 0x09#8 => (RR.ofWord w).map .htget
  | 0x0A#8 => (A1.ofWord w).map .chmask
  | 0x0B#8 => (A1.ofWord w).map .chunmask
  | _ => .error .reservedFunction

/-- Major 0x21. -/
def decode21 (w : Word32) : Except DecodeError Instr :=
  match bits w 0 3 with
  | 0x00#3 => (ABC.ofWord w).map .sendw
  | 0x01#3 => (RRRR.ofWord w).map .launch
  | 0x02#3 => (RAC.ofWord w).map .nread
  | 0x03#3 => (RRRR.ofWord w).map .subscribe
  | _ => .error .reservedFunction

/-- Major 0x22. -/
def decode22 (w : Word32) : Except DecodeError Instr :=
  match bits w 0 8 with
  | 0x00#8 => (N0.ofWord w).map .suspend
  | 0x01#8 => (N0.ofWord w).map .yield
  | 0x02#8 => (N0.ofWord w).map .done
  | 0x03#8 => (A1.ofWord w).map .wborrow
  | 0x04#8 => (RR.ofWord w).map .wquery
  | 0x05#8 => (A1.ofWord w).map .qarm
  | 0x06#8 => (RR.ofWord w).map .grow
  | _ => if bits w 2 6 = 0x04#6 then (ABe.ofWord w).map .retire else .error .reservedFunction

/-- Major 0x23. -/
def decode23 (w : Word32) : Except DecodeError Instr :=
  match bits w 0 8 with
  | 0x00#8 => (RR.ofWord w).map .coord
  | 0x01#8 => (RR.ofWord w).map .slice
  | 0x02#8 => (RR.ofWord w).map .geom
  | 0x08#8 => (AB.ofWord w).map .tqinit
  | 0x09#8 => (RR.ofWord w).map .fetcht
  | _ => .error .reservedFunction

/-- Major 0x24. -/
def decode24 (w : Word32) : Except DecodeError Instr :=
  match bits w 0 8 with
  | 0x00#8 => (N0.ofWord w).map .gbar
  | 0x01#8 => (N0.ofWord w).map .gbarPub
  | 0x08#8 => (A1.ofWord w).map .unsub
  | 0x09#8 => (N0.ofWord w).map .pubfence
  | _ => .error .reservedFunction

/-- Major 0x25. -/
def decode25 (w : Word32) : Except DecodeError Instr :=
  match bits w 0 8 with
  | 0x00#8 => (B1.ofWord w).map .phase
  | 0x01#8 => (N0.ofWord w).map .phend
  | 0x02#8 => (AB.ofWord w).map .spinw
  | _ => .error .reservedFunction

/-- Major 0x26. -/
def decode26 (w : Word32) : Except DecodeError Instr :=
  match bits w 11 2 with
  | 0x00#2 => (CsrR.ofWord w).map .csrrd
  | 0x01#2 => (CsrW.ofWord w).map .csrwr
  | 0x02#2 => (CsrW.ofWord w).map .csrset
  | 0x03#2 => (CsrW.ofWord w).map .csrclr

/-- Major 0x27. -/
def decode27 (w : Word32) : Except DecodeError Instr :=
  match bits w 0 8 with
  | 0x00#8 => (A1.ofWord w).map .trap
  | 0x01#8 => (N0.ofWord w).map .tret
  | 0x02#8 => (N0.ofWord w).map .wfi
  | 0x03#8 => (RR.ofWord w).map .perf
  | 0x04#8 => (N0.ofWord w).map .isync
  | _ =>
    if bits w 3 5 = 0x04#5 then (ABs.ofWord w).map .cpub
    else if bits w 7 1 = 1#1 then (Fence.ofWord w).map .fence
    else .error .reservedFunction

/-- Major 0x28. -/
def decode28 (w : Word32) : Except DecodeError Instr :=
  match bits w 0 8 with
  | 0x00#8 => (RR.ofWord w).map .vclaim
  | 0x01#8 => (N0.ofWord w).map .vrel
  | _ => .error .reservedFunction

/-- Major 0x29. -/
def decode29 (w : Word32) : Except DecodeError Instr :=
  match bits w 0 8 with
  | 0x00#8 => (RRR.ofWord w).map .vaddI32
  | 0x01#8 => (RRR.ofWord w).map .vsubI32
  | 0x02#8 => (RRR.ofWord w).map .vmulI32
  | 0x03#8 => (RRR.ofWord w).map .vminI32
  | 0x04#8 => (RRR.ofWord w).map .vmaxI32
  | 0x05#8 => (RRR.ofWord w).map .vminUi32
  | 0x06#8 => (RRR.ofWord w).map .vmaxUi32
  | 0x08#8 => (RRR.ofWord w).map .vand
  | 0x09#8 => (RRR.ofWord w).map .vor
  | 0x0A#8 => (RRR.ofWord w).map .vxor
  | 0x0C#8 => (RRR.ofWord w).map .vshl
  | 0x0D#8 => (RRR.ofWord w).map .vshr
  | 0x10#8 => (RRR.ofWord w).map .vsel
  | _ => .error .reservedFunction

/-- Major 0x2A. -/
def decode2A (w : Word32) : Except DecodeError Instr :=
  match bits w 0 6 with
  | 0x00#6 => (FRRR.ofWord w).map .vaddF
  | 0x01#6 => (FRRR.ofWord w).map .vsubF
  | 0x02#6 => (FRRR.ofWord w).map .vmulF
  | 0x03#6 => (FRRR.ofWord w).map .vfma
  | 0x04#6 => (FRRR.ofWord w).map .vfmin
  | 0x05#6 => (FRRR.ofWord w).map .vfmax
  | _ =>
    match bits w 0 8 with
    | 0x48#8 => (RR.ofWord w).map .vrcp
    | 0x49#8 => (RR.ofWord w).map .vrsqrt
    | 0x4A#8 => (RR.ofWord w).map .vexp2
    | 0x4B#8 => (RR.ofWord w).map .vlog2
    | _ => .error .reservedFunction

/-- Major 0x2B. -/
def decode2B (w : Word32) : Except DecodeError Instr :=
  match bits w 6 2 with
  | 0b00#2 => if bits w 3 1 = 0#1 then (Vcmp.ofWord w).map .vcmp else .error .reservedFunction
  | 0b01#2 => (Cvt.ofWord w).map .vcvt
  | _ => .error .reservedFunction

/-- Major 0x2C. -/
def decode2C (w : Word32) : Except DecodeError Instr :=
  match bits w 0 8 with
  | 0x00#8 => (RRR.ofWord w).map .vld
  | 0x01#8 => (RRR.ofWord w).map .vst
  | 0x02#8 => (RRR.ofWord w).map .vlds
  | 0x03#8 => (RRR.ofWord w).map .vsts
  | 0x04#8 => (RRR.ofWord w).map .vgath
  | 0x05#8 => (RRR.ofWord w).map .vscat
  | _ => .error .reservedFunction

/-- Major 0x2D. -/
def decode2D (w : Word32) : Except DecodeError Instr :=
  match bits w 0 8 with
  | 0x00#8 => (RR.ofWord w).map .vbcast
  | 0x01#8 => (RRR.ofWord w).map .vperm
  | 0x02#8 => (RRR.ofWord w).map .vlsh
  | _ => .error .reservedFunction

/-- Major 0x2E. -/
def decode2E (w : Word32) : Except DecodeError Instr :=
  match bits w 0 6 with
  | 0x00#6 => (FRR.ofWord w).map .vredAdd
  | 0x01#6 => (FRR.ofWord w).map .vredMin
  | 0x02#6 => (FRR.ofWord w).map .vredMax
  | _ => .error .reservedFunction

/-- Major 0x2F. -/
def decode2F (w : Word32) : Except DecodeError Instr :=
  match bits w 0 8 with
  | 0x00#8 => (RRR.ofWord w).map .mand
  | 0x01#8 => (RRR.ofWord w).map .mor
  | 0x02#8 => (RR.ofWord w).map .mnot
  | 0x03#8 => (RR.ofWord w).map .mpop
  | 0x04#8 => (RR.ofWord w).map .mfirst
  | _ => .error .reservedFunction

/-- Major 0x30. -/
def decode30 (w : Word32) : Except DecodeError Instr :=
  match bits w 0 8 with
  | 0x00#8 => (RRR.ofWord w).map .mmaDD
  | _ => .error .reservedFunction

/-- Major 0x31. -/
def decode31 (w : Word32) : Except DecodeError Instr :=
  match bits w 0 8 with
  | 0x00#8 => (RRR.ofWord w).map .mmaSS
  | _ => .error .reservedFunction

/-- Major 0x32. -/
def decode32 (w : Word32) : Except DecodeError Instr :=
  match bits w 0 8 with
  | 0x00#8 => (RRR.ofWord w).map .mmaBB
  | _ => .error .reservedFunction

/-- Major 0x33. -/
def decode33 (w : Word32) : Except DecodeError Instr :=
  match bits w 0 8 with
  | 0x00#8 => (RRR.ofWord w).map .mmaHH
  | _ => .error .reservedFunction

/-- Major 0x34. -/
def decode34 (w : Word32) : Except DecodeError Instr :=
  match bits w 0 8 with
  | 0x00#8 => (RRR.ofWord w).map .mmaBH
  | _ => .error .reservedFunction

/-- Major 0x35. -/
def decode35 (w : Word32) : Except DecodeError Instr :=
  match bits w 0 8 with
  | 0x00#8 => (RRR.ofWord w).map .mmaHB
  | _ => .error .reservedFunction

/-- Major 0x36. -/
def decode36 (w : Word32) : Except DecodeError Instr :=
  (MmaN.ofWord w).map .mmaNN

/-- Major 0x37. -/
def decode37 (w : Word32) : Except DecodeError Instr :=
  (MmaN.ofWord w).map .mmaNB

/-- Major 0x38. -/
def decode38 (w : Word32) : Except DecodeError Instr :=
  if bits w 0 3 = 0b111#3 then
    match bits w 3 5 with
    | 0x00#5 => (N0.ofWord w).map .mlease
    | 0x01#5 => (N0.ofWord w).map .mrel
    | 0x02#5 => (D1.ofWord w).map .oclaim
    | 0x03#5 => (A1.ofWord w).map .orel
    | 0x04#5 => (AB.ofWord w).map .old
    | 0x05#5 => (D1.ofWord w).map .azero
    | 0x06#5 => (RRR.ofWord w).map .aread
    | 0x07#5 => (RRR.ofWord w).map .awrite
    | 0x08#5 => (Ast.ofWord w).map .ast
    | 0x09#5 => (RRR.ofWord w).map .ald
    | 0x0A#5 => (N0.ofWord w).map .mwait
    | 0x0B#5 => (A1.ofWord w).map .medge
    | 0x0C#5 => (RR.ofWord w).map .accown
    | _ => .error .reservedFunction
  else (MmaN.ofWord w).map .mmaBN

/-- Major 0x3D. -/
def decode3D (w : Word32) : Except DecodeError Instr :=
  (Hint.ofWord w).map .hint

/-- Major 0x3E. -/
def decode3E (w : Word32) : Except DecodeError Instr :=
  (Modw.ofWord w).map .modifier

/-- The instruction a word names under the opcode map, before the checks on its fields (R72). -/
def decodeRaw (w : Word32) : Except DecodeError Instr :=
  match major w with
  | 0x01#6 => decode01 w
  | 0x02#6 => decode02 w
  | 0x03#6 => decode03 w
  | 0x04#6 => decode04 w
  | 0x05#6 => decode05 w
  | 0x06#6 => decode06 w
  | 0x07#6 => decode07 w
  | 0x08#6 => decode08 w
  | 0x09#6 => decode09 w
  | 0x0A#6 => decode0A w
  | 0x0B#6 => decode0B w
  | 0x0C#6 => decode0C w
  | 0x0D#6 => decode0D w
  | 0x0E#6 => decode0E w
  | 0x0F#6 => decode0F w
  | 0x10#6 => decode10 w
  | 0x11#6 => decode11 w
  | 0x12#6 => decode12 w
  | 0x13#6 => decode13 w
  | 0x14#6 => decode14 w
  | 0x15#6 => decode15 w
  | 0x16#6 => decode16 w
  | 0x17#6 => decode17 w
  | 0x18#6 => decode18 w
  | 0x19#6 => decode19 w
  | 0x1A#6 => decode1A w
  | 0x1B#6 => decode1B w
  | 0x1C#6 => decode1C w
  | 0x1D#6 => decode1D w
  | 0x1E#6 => decode1E w
  | 0x1F#6 => decode1F w
  | 0x20#6 => decode20 w
  | 0x21#6 => decode21 w
  | 0x22#6 => decode22 w
  | 0x23#6 => decode23 w
  | 0x24#6 => decode24 w
  | 0x25#6 => decode25 w
  | 0x26#6 => decode26 w
  | 0x27#6 => decode27 w
  | 0x28#6 => decode28 w
  | 0x29#6 => decode29 w
  | 0x2A#6 => decode2A w
  | 0x2B#6 => decode2B w
  | 0x2C#6 => decode2C w
  | 0x2D#6 => decode2D w
  | 0x2E#6 => decode2E w
  | 0x2F#6 => decode2F w
  | 0x30#6 => decode30 w
  | 0x31#6 => decode31 w
  | 0x32#6 => decode32 w
  | 0x33#6 => decode33 w
  | 0x34#6 => decode34 w
  | 0x35#6 => decode35 w
  | 0x36#6 => decode36 w
  | 0x37#6 => decode37 w
  | 0x38#6 => decode38 w
  | 0x3D#6 => decode3D w
  | 0x3E#6 => decode3E w
  | _ => .error .illegalMajor

/-- Decoding one word: the opcode map, then the legality of every field (R69). -/
def decode (w : Word32) : Except DecodeError Instr :=
  match decodeRaw w with
  | .error e => .error e
  | .ok i => if i.wf then .ok i else .error .illegalField

/-- The word of an instruction (R42, R48, R49, R73 to R85). A step that no word names has none. -/
def encode : Instr → Option Word32
  | .add x => some (x.toWord 0x01#6 0x00#8)
  | .sub x => some (x.toWord 0x01#6 0x01#8)
  | .mul x => some (x.toWord 0x01#6 0x02#8)
  | .mulh x => some (x.toWord 0x01#6 0x03#8)
  | .mulhu x => some (x.toWord 0x01#6 0x04#8)
  | .div x => some (x.toWord 0x01#6 0x05#8)
  | .divu x => some (x.toWord 0x01#6 0x06#8)
  | .rem x => some (x.toWord 0x01#6 0x07#8)
  | .remu x => some (x.toWord 0x01#6 0x08#8)
  | .and x => some (x.toWord 0x01#6 0x10#8)
  | .or x => some (x.toWord 0x01#6 0x11#8)
  | .xor x => some (x.toWord 0x01#6 0x12#8)
  | .andn x => some (x.toWord 0x01#6 0x13#8)
  | .orn x => some (x.toWord 0x01#6 0x14#8)
  | .shl x => some (x.toWord 0x01#6 0x18#8)
  | .shr x => some (x.toWord 0x01#6 0x19#8)
  | .sar x => some (x.toWord 0x01#6 0x1A#8)
  | .rot x => some (x.toWord 0x01#6 0x1B#8)
  | .min x => some (x.toWord 0x01#6 0x20#8)
  | .max x => some (x.toWord 0x01#6 0x21#8)
  | .minu x => some (x.toWord 0x01#6 0x22#8)
  | .maxu x => some (x.toWord 0x01#6 0x23#8)
  | .abs x => some (x.toWord 0x01#6 0x24#8)
  | .clz x => some (x.toWord 0x01#6 0x28#8)
  | .ctz x => some (x.toWord 0x01#6 0x29#8)
  | .pop x => some (x.toWord 0x01#6 0x2A#8)
  | .brev x => some (x.toWord 0x01#6 0x2B#8)
  | .addi x => some (x.toWord 0x02#6)
  | .andi x => some (x.toWord 0x03#6)
  | .ori x => some (x.toWord 0x04#6)
  | .xori x => some (x.toWord 0x05#6)
  | .shli x => some (x.toWord 0x06#6)
  | .shri x => some (x.toWord 0x07#6)
  | .sari x => some (x.toWord 0x08#6)
  | .roti x => some (x.toWord 0x09#6)
  | .lea x => some (x.toWord 0x0A#6)
  | .lim x => some (x.toWord 0x0B#6)
  | .sel x => some (x.toWord 0x0C#6 0x00#3)
  | .bext x => some (x.toWord 0x0C#6 0x01#3)
  | .bins x => some (x.toWord 0x0C#6 0x02#3)
  | .cmpeq x => some (x.toWord 0x0D#6 0x00#8)
  | .cmpne x => some (x.toWord 0x0D#6 0x01#8)
  | .cmplt x => some (x.toWord 0x0D#6 0x02#8)
  | .cmpltu x => some (x.toWord 0x0D#6 0x03#8)
  | .cmple x => some (x.toWord 0x0D#6 0x04#8)
  | .cmpleu x => some (x.toWord 0x0D#6 0x05#8)
  | .bexti x => some (x.toWord 0x0E#6)
  | .cmplti x => some (x.toWord 0x0F#6)
  | .beq x => some (x.toWord 0x10#6 0x00#3)
  | .bne x => some (x.toWord 0x10#6 0x01#3)
  | .blt x => some (x.toWord 0x10#6 0x02#3)
  | .bge x => some (x.toWord 0x10#6 0x03#3)
  | .bltu x => some (x.toWord 0x10#6 0x04#3)
  | .bgeu x => some (x.toWord 0x10#6 0x05#3)
  | .b x => some (x.toWord 0x10#6 0x07#3)
  | .call x => some (x.toWord 0x11#6 0x07#3)
  | .jr x => some (x.toWord 0x12#6 0x00#8)
  | .nop x => some (x.toWord 0x12#6 0x01#8)
  | .brk x => some (x.toWord 0x12#6 0x02#8)
  | .rep x => some (x.toWord 0x12#6)
  | .rgn x => some (x.toWord 0x13#6 0x00#8)
  | .rgnInc x => some (x.toWord 0x13#6)
  | .fadd x => some (x.toWord 0x14#6 0x00#6)
  | .fsub x => some (x.toWord 0x14#6 0x01#6)
  | .fmul x => some (x.toWord 0x14#6 0x02#6)
  | .fdiv x => some (x.toWord 0x14#6 0x03#6)
  | .fsqrt x => some (x.toWord 0x14#6 0x04#6)
  | .fmin x => some (x.toWord 0x14#6 0x05#6)
  | .fmax x => some (x.toWord 0x14#6 0x06#6)
  | .fminn x => some (x.toWord 0x14#6 0x07#6)
  | .fmaxn x => some (x.toWord 0x14#6 0x08#6)
  | .fabs x => some (x.toWord 0x14#6 0x09#6)
  | .fneg x => some (x.toWord 0x14#6 0x0A#6)
  | .fsgn x => some (x.toWord 0x14#6 0x0B#6)
  | .frnd x => some (x.toWord 0x14#6 0x0C#6)
  | .fma x => some (x.toWord 0x15#6 0x00#2)
  | .fms x => some (x.toWord 0x15#6 0x01#2)
  | .fnma x => some (x.toWord 0x15#6 0x02#2)
  | .fcvt x => some (x.toWord 0x16#6 0x00#2)
  | .fcvti x => some (x.toWord 0x16#6 0x01#2)
  | .icvtf x => some (x.toWord 0x16#6 0x02#2)
  | .fcmpeq x => some (x.toWord 0x17#6 0x00#6)
  | .fcmplt x => some (x.toWord 0x17#6 0x01#6)
  | .fcmple x => some (x.toWord 0x17#6 0x02#6)
  | .fcmpun x => some (x.toWord 0x17#6 0x03#6)
  | .fclass x => some (x.toWord 0x17#6 0x04#6)
  | .ld x => some (x.toWord 0x18#6)
  | .st x => some (x.toWord 0x19#6)
  | .ldAcq x => some (x.toWord 0x1A#6)
  | .stRel x => some (x.toWord 0x1B#6)
  | .lds x => some (x.toWord 0x1C#6 0x00#6)
  | .sts x => some (x.toWord 0x1C#6 0x01#6)
  | .ldk x => some (x.toWord 0x1C#6 0x02#6)
  | .pref x => some (x.toWord 0x1D#6 0x00#8)
  | .wb x => some (x.toWord 0x1D#6 0x01#8)
  | .inv x => some (x.toWord 0x1D#6 0x02#8)
  | .bmove x => some (x.toWord 0x1D#6 0x08#8)
  | .bfill x => some (x.toWord 0x1D#6 0x09#8)
  | .sbind x => some (x.toWord 0x1D#6 0x04#6)
  | .sclose x => some (x.toWord 0x1D#6 0x05#6)
  | .spos x => some (x.toWord 0x1D#6 0x06#6)
  | .amoAdd x => some (x.toWord 0x1E#6 0x00#4)
  | .amoAnd x => some (x.toWord 0x1E#6 0x01#4)
  | .amoOr x => some (x.toWord 0x1E#6 0x02#4)
  | .amoXor x => some (x.toWord 0x1E#6 0x03#4)
  | .amoMin x => some (x.toWord 0x1E#6 0x04#4)
  | .amoMax x => some (x.toWord 0x1E#6 0x05#4)
  | .amoMinu x => some (x.toWord 0x1E#6 0x06#4)
  | .amoMaxu x => some (x.toWord 0x1E#6 0x07#4)
  | .amoSwap x => some (x.toWord 0x1E#6 0x08#4)
  | .xinit32 x => some (x.toWord 0x1E#6 0x20#8)
  | .xinit64 x => some (x.toWord 0x1E#6 0x21#8)
  | .xadd x => some (x.toWord 0x1E#6 0x05#5)
  | .xclr x => some (x.toWord 0x1E#6 0x30#8)
  | .enq x => some (x.toWord 0x1E#6 0x38#8)
  | .deq x => some (x.toWord 0x1E#6 0x39#8)
  | .seqdeq x => some (x.toWord 0x1E#6 0x3A#8)
  | .waitv x => some (x.toWord 0x1E#6 0x1E#7)
  | .xread x => some (x.toWord 0x1E#6)
  | .cas x => some (x.toWord 0x1F#6 0x01#2)
  | .seqenq x => some (x.toWord 0x1F#6 0x04#3)
  | .send x => some (x.toWord 0x20#6 0x00#8)
  | .sendm x => some (x.toWord 0x20#6 0x01#8)
  | .push x => some (x.toWord 0x20#6 0x02#8)
  | .htset x => some (x.toWord 0x20#6 0x08#8)
  | .htget x => some (x.toWord 0x20#6 0x09#8)
  | .chmask x => some (x.toWord 0x20#6 0x0A#8)
  | .chunmask x => some (x.toWord 0x20#6 0x0B#8)
  | .sendw x => some (x.toWord 0x21#6 0x00#3)
  | .launch x => some (x.toWord 0x21#6 0x01#3)
  | .nread x => some (x.toWord 0x21#6 0x02#3)
  | .subscribe x => some (x.toWord 0x21#6 0x03#3)
  | .suspend x => some (x.toWord 0x22#6 0x00#8)
  | .yield x => some (x.toWord 0x22#6 0x01#8)
  | .done x => some (x.toWord 0x22#6 0x02#8)
  | .wborrow x => some (x.toWord 0x22#6 0x03#8)
  | .wquery x => some (x.toWord 0x22#6 0x04#8)
  | .qarm x => some (x.toWord 0x22#6 0x05#8)
  | .grow x => some (x.toWord 0x22#6 0x06#8)
  | .retire x => some (x.toWord 0x22#6 0x04#6)
  | .coord x => some (x.toWord 0x23#6 0x00#8)
  | .slice x => some (x.toWord 0x23#6 0x01#8)
  | .geom x => some (x.toWord 0x23#6 0x02#8)
  | .tqinit x => some (x.toWord 0x23#6 0x08#8)
  | .fetcht x => some (x.toWord 0x23#6 0x09#8)
  | .gbar x => some (x.toWord 0x24#6 0x00#8)
  | .gbarPub x => some (x.toWord 0x24#6 0x01#8)
  | .unsub x => some (x.toWord 0x24#6 0x08#8)
  | .pubfence x => some (x.toWord 0x24#6 0x09#8)
  | .phase x => some (x.toWord 0x25#6 0x00#8)
  | .phend x => some (x.toWord 0x25#6 0x01#8)
  | .spinw x => some (x.toWord 0x25#6 0x02#8)
  | .csrrd x => some (x.toWord 0x26#6 0x00#2)
  | .csrwr x => some (x.toWord 0x26#6 0x01#2)
  | .csrset x => some (x.toWord 0x26#6 0x02#2)
  | .csrclr x => some (x.toWord 0x26#6 0x03#2)
  | .trap x => some (x.toWord 0x27#6 0x00#8)
  | .tret x => some (x.toWord 0x27#6 0x01#8)
  | .wfi x => some (x.toWord 0x27#6 0x02#8)
  | .perf x => some (x.toWord 0x27#6 0x03#8)
  | .isync x => some (x.toWord 0x27#6 0x04#8)
  | .cpub x => some (x.toWord 0x27#6 0x04#5)
  | .fence x => some (x.toWord 0x27#6 0x01#1)
  | .vclaim x => some (x.toWord 0x28#6 0x00#8)
  | .vrel x => some (x.toWord 0x28#6 0x01#8)
  | .vaddI32 x => some (x.toWord 0x29#6 0x00#8)
  | .vsubI32 x => some (x.toWord 0x29#6 0x01#8)
  | .vmulI32 x => some (x.toWord 0x29#6 0x02#8)
  | .vminI32 x => some (x.toWord 0x29#6 0x03#8)
  | .vmaxI32 x => some (x.toWord 0x29#6 0x04#8)
  | .vminUi32 x => some (x.toWord 0x29#6 0x05#8)
  | .vmaxUi32 x => some (x.toWord 0x29#6 0x06#8)
  | .vand x => some (x.toWord 0x29#6 0x08#8)
  | .vor x => some (x.toWord 0x29#6 0x09#8)
  | .vxor x => some (x.toWord 0x29#6 0x0A#8)
  | .vshl x => some (x.toWord 0x29#6 0x0C#8)
  | .vshr x => some (x.toWord 0x29#6 0x0D#8)
  | .vsel x => some (x.toWord 0x29#6 0x10#8)
  | .vaddF x => some (x.toWord 0x2A#6 0x00#6)
  | .vsubF x => some (x.toWord 0x2A#6 0x01#6)
  | .vmulF x => some (x.toWord 0x2A#6 0x02#6)
  | .vfma x => some (x.toWord 0x2A#6 0x03#6)
  | .vfmin x => some (x.toWord 0x2A#6 0x04#6)
  | .vfmax x => some (x.toWord 0x2A#6 0x05#6)
  | .vrcp x => some (x.toWord 0x2A#6 0x48#8)
  | .vrsqrt x => some (x.toWord 0x2A#6 0x49#8)
  | .vexp2 x => some (x.toWord 0x2A#6 0x4A#8)
  | .vlog2 x => some (x.toWord 0x2A#6 0x4B#8)
  | .vcmp x => some (x.toWord 0x2B#6)
  | .vcvt x => some (x.toWord 0x2B#6 0x01#2)
  | .vld x => some (x.toWord 0x2C#6 0x00#8)
  | .vst x => some (x.toWord 0x2C#6 0x01#8)
  | .vlds x => some (x.toWord 0x2C#6 0x02#8)
  | .vsts x => some (x.toWord 0x2C#6 0x03#8)
  | .vgath x => some (x.toWord 0x2C#6 0x04#8)
  | .vscat x => some (x.toWord 0x2C#6 0x05#8)
  | .vbcast x => some (x.toWord 0x2D#6 0x00#8)
  | .vperm x => some (x.toWord 0x2D#6 0x01#8)
  | .vlsh x => some (x.toWord 0x2D#6 0x02#8)
  | .vredAdd x => some (x.toWord 0x2E#6 0x00#6)
  | .vredMin x => some (x.toWord 0x2E#6 0x01#6)
  | .vredMax x => some (x.toWord 0x2E#6 0x02#6)
  | .mand x => some (x.toWord 0x2F#6 0x00#8)
  | .mor x => some (x.toWord 0x2F#6 0x01#8)
  | .mnot x => some (x.toWord 0x2F#6 0x02#8)
  | .mpop x => some (x.toWord 0x2F#6 0x03#8)
  | .mfirst x => some (x.toWord 0x2F#6 0x04#8)
  | .mmaDD x => some (x.toWord 0x30#6 0x00#8)
  | .mmaSS x => some (x.toWord 0x31#6 0x00#8)
  | .mmaBB x => some (x.toWord 0x32#6 0x00#8)
  | .mmaHH x => some (x.toWord 0x33#6 0x00#8)
  | .mmaBH x => some (x.toWord 0x34#6 0x00#8)
  | .mmaHB x => some (x.toWord 0x35#6 0x00#8)
  | .mmaNN x => some (x.toWord 0x36#6)
  | .mmaNB x => some (x.toWord 0x37#6)
  | .mmaBN x => some (x.toWord 0x38#6)
  | .mlease x => some (x.toWord 0x38#6 0x07#8)
  | .mrel x => some (x.toWord 0x38#6 0x0F#8)
  | .oclaim x => some (x.toWord 0x38#6 0x17#8)
  | .orel x => some (x.toWord 0x38#6 0x1F#8)
  | .old x => some (x.toWord 0x38#6 0x27#8)
  | .azero x => some (x.toWord 0x38#6 0x2F#8)
  | .aread x => some (x.toWord 0x38#6 0x37#8)
  | .awrite x => some (x.toWord 0x38#6 0x3F#8)
  | .ast x => some (x.toWord 0x38#6 0x47#8)
  | .ald x => some (x.toWord 0x38#6 0x4F#8)
  | .mwait x => some (x.toWord 0x38#6 0x57#8)
  | .medge x => some (x.toWord 0x38#6 0x5F#8)
  | .accown x => some (x.toWord 0x38#6 0x67#8)
  | .hint x => some (x.toWord 0x3D#6)
  | .modifier x => some (x.toWord 0x3E#6)
  | .divideComplete _ => none
  | .fpDivideComplete _ _ => none
  | .fpLateTrap _ _ _ => none
  | .loadResponse _ => none
  | .lateFault _ _ _ _ => none
  | .storePerform _ => none
  | .homeAtomic _ => none
  | .homeCellOperation _ => none
  | .homeQueueOperation _ => none
  | .launchAtHome _ => none
  | .launchStatus _ _ => none
  | .watchRegister _ => none
  | .watchFire _ => none
  | .fenceComplete _ _ => none
  | .cpubComplete _ _ _ => none
  | .nreadTimeout _ => none
  | .homeWeightUpdate _ => none
  | .weightGrant _ _ _ _ => none
  | .returnCombineFlush _ => none
  | .messageArrival _ _ => none
  | .slotSelect _ => none
  | .preemptRequest _ _ => none
  | .timeSliceExpiry _ => none
  | .preemptHoldExpiry _ => none
  | .preemptResume _ => none
  | .phaseOverrun _ => none
  | .phaseOverrunMessage _ => none
  | .lSlotRotation _ => none
  | .wfiWake _ => none
  | .vclaimGrant _ => none
  | .leaseGrant _ => none
  | .leaseExpiry _ => none
  | .mmaCommandStart _ => none
  | .mmaCommandComplete _ => none
  | .subscriptionEstablish _ => none
  | .batchWindowExpiry _ _ => none
  | .updateApply _ => none
  | .updateLogWrite _ => none
  | .gbarEpisodeComplete _ => none
  | .packetDispatch _ => none
  | .placementAction _ => none
  | .gangDrain _ => none
  | .contextCompact _ _ _ => none
  | .contextComplete _ => none
  | .frameAdvance => none
  | .missMergeWindow _ => none
  | .combineForward _ _ => none
  | .kick _ _ => none
  | .jobStart _ => none
  | .jobEnd _ _ _ _ => none
  | .collective _ _ => none
  | .remoteStore _ _ => none
  | .remoteStoreAck _ _ => none
  | .linkDeath _ => none
  | .portRestore _ => none
  | .pageWalk _ _ _ _ => none
  | .tlbInvalidation _ => none
  | .patrolScrub _ _ => none
  | .heartWrite _ _ => none
  | .heartTimeout _ => none
  | .warmRestart => none
  | .coldStart => none
  | .powerLoss => none
  | .thermalShutdown => none
  | .powercapWrite _ => none
  | .mbColdStart _ => none
  | .mbWarmRestart _ => none
  | .mbWriteFirmware _ => none
  | .mbAttestation _ => none
  | .mbRegisterLog _ => none
  | .mbCommitVersion _ => none
  | .mbStop _ => none
  | .mbUnknownOp _ _ => none
  | .hostEnqueue _ _ => none
  | .hostMemoryAccess _ _ _ => none
  | .configRegisterWrite _ _ _ => none
  | .illegal _ _ => none
  | .fetchFault _ _ => none
  | .laneResult _ => none
  | .powerThrottle _ _ => none
  | .shutdownPending _ => none
  | .linkTraining _ _ => none
  | .linkLevelRetry _ => none

/-- The instruction that the decoder reads from a word given with bit 0 its least significant bit. The first word of
an instruction group is 32 bits; the rows of the opcode table give every word 32 bits (R41). -/
def decodeTableWord (nbits w : Nat) : Option Instr :=
  if nbits ≤ 32 then
    match decode (BitVec.ofNat 32 (w % 2 ^ nbits)) with
    | .ok i => some i
    | .error _ => none
  else none

end Sys2Proof
end

