-- ==== Sys2Proof/Machine/Registry.lean ====
section
/-!
DEFINITION. The context registry and the context buffer of messages (R436, R440).
-/
namespace Sys2Proof.Machine

/-- The physical address of a context's registry entry on a die (R440). -/
def regEntry (s : State) (die : Nat) (c : BitVec 16) : Nat := (dieOf s die).regbase.toNat + 128 * c.toNat

/-- The check value of the first 120 bytes of an entry (R440). -/
def regCheck (bs : List Byte) : Nat :=
  let step (c : Nat) (i : Nat) : Nat :=
    let c := c % 2 ^ 64
    let r := (c * 2 ^ 7) % 2 ^ 64 + c / 2 ^ 57
    ((r ^^^ dword bs (8 * i)) * 0xBF58476D1CE4E5B9) % 2 ^ 64
  (List.range 15).foldl step 0x9E3779B97F4A7C15

/-- Whether an entry's reserved bits are zero and its CHECK matches (R440). -/
def regPasses (bs : List Byte) : Bool :=
  field (dword bs 0) 63 40 == 0 && field (dword bs 0) 31 20 == 0 &&
    field (dword bs 8) 63 52 == 0 && field (dword bs 16) 63 52 == 0 && field (dword bs 24) 63 56 == 0 &&
    field (dword bs 32) 63 52 == 0 && field (dword bs 40) 63 52 == 0 &&
    (slice bs 80 40).all (· == 0) && dword bs 120 == regCheck bs

/-- The distance of the shadow of a registry entry (R440). -/
def shadowOff : Nat := 0x800000

/-- A doubleword of a registry entry, or of its shadow where the entry holds uncorrectable data there; none where both do
(R344, R440; log entry 91). -/
def regWord (s : State) (die : Nat) (c : BitVec 16) (off : Nat) : Option Nat :=
  let a := regEntry s die c + off
  if !poisonedPhys s a 8 then some (physDword s a)
  else if !poisonedPhys s (a + shadowOff) 8 then some (physDword s (a + shadowOff))
  else none

/-- STATE of a registry entry that can be read (R440). -/
def regState (s : State) (die : Nat) (c : BitVec 16) : Option Nat := (regWord s die c 0).map fun d => field d 19 18

/-- ROOT of a context's registry entry, as the dispatcher of its queue's die reads it when it places the context or one of its
jobs starts (R339, R440); where neither copy can be read, the root that the dispatcher loaded before (R344; log entry 91). -/
def registryRoot (s : State) (k : Ctx) (c : BitVec 16) : Nat :=
  match regWord s (k.queue / 64) c 8 with
  | some d => field d 51 0
  | none => k.root

/-- One copy of a registry entry with a doubleword replaced, and its CHECK computed again unless the copy holds uncorrectable
data (R344, R440; log entry 91). -/
def setCopyDword (s : State) (a off v : Nat) : State :=
  let s := physWrite s (a + off) (natBytes 8 v)
  if poisonedPhys s a 128 then s else physWrite s (a + 120) (natBytes 8 (regCheck (physRead s a 128)))

/-- The registry entry with a doubleword replaced and its CHECK computed again, and the shadow written after it: the whole of
it, or the doubleword alone where the entry holds uncorrectable data (R344, R440; log entry 91). -/
def setRegDword (s : State) (die : Nat) (c : BitVec 16) (off v : Nat) : State :=
  let a := regEntry s die c
  let s := setCopyDword s a off v
  if poisonedPhys s a 128 then setCopyDword s (a + shadowOff) off v else physWrite s (a + shadowOff) (physRead s a 128)

/-- A message as a 320-byte entry of the context buffer (R436). -/
def msgBytes (m : Msg) : List Byte :=
  let (kind, pc, target) := match m.kind with
    | .plain => (0, 0, 0)
    | .push pc t => (1, pc.toNat, t.toNat)
    | .root _ _ _ _ _ => (2, 0, 0)
  let head := m.sender.toNat + m.channel.toNat * 2 ^ 20 + m.payload.length % 64 * 2 ^ 26 + kind * 2 ^ 32
  let data := (m.payload.map (wordBytes 8)).flatten
  natBytes 8 m.weight.toNat ++ natBytes 8 head ++ natBytes 8 pc ++ natBytes 8 target ++ natBytes 32 0 ++
    data ++ natBytes (256 - data.length) 0

/-- The message that a 320-byte entry holds, with what the network interface keeps of it. -/
def msgOfBytes (c : BitVec 16) (bs : List Byte) (n : Spill) : Msg :=
  let head := dword bs 8
  let payload := (List.range (field head 31 26)).map fun i => w64 (dword bs (64 + 8 * i))
  let kind : MsgKind := match field head 33 32, n.kind with
    | 1, _ => .push (BitVec.ofNat 56 (dword bs 16)) (w64 (dword bs 24))
    | 2, .root e m g c p => .root e m g c p
    | _, _ => .plain
  { ctx := c, channel := BitVec.ofNat 6 (field head 25 20), sender := BitVec.ofNat 13 (field head 12 0)
    weight := BitVec.ofNat 48 (dword bs 0), payload := payload, kind := kind, scope := n.scope }

/-- The base of a context's buffer, if it can be read (R344, R436, R440). -/
def bufferBase (s : State) (die : Nat) (c : BitVec 16) : Option Nat := (regWord s die c 32).map fun d => field d 51 0

/-- The number of entries of a context's buffer (R436; log entry 71); none where its base or its size cannot be read (R344; log
entry 91). -/
def bufferSize (s : State) (die : Nat) (c : BitVec 16) : Nat :=
  match bufferBase s die c, regWord s die c 48 with
  | some _, some d => field d 31 0
  | _, _ => 0

/-- The bytes of a spilled message; none where they, or the base of the buffer, cannot be read (R344, R436; log entry 91). -/
def spillBytes (s : State) (die : Nat) (c : BitVec 16) (n : Spill) : Option (List Byte) :=
  match bufferBase s die c with
  | some b => if poisonedPhys s (b + 320 * n.index) 320 then none else some (physRead s (b + 320 * n.index) 320)
  | none => none

/-- The entries of a context's buffer in use, by whichever core wrote them. -/
def usedEntries (s : State) (c : BitVec 16) : List Nat :=
  s.cores.flatMap fun k => (k.2.placements.filter fun p => p.ctx == c).flatMap fun p => p.spilled.map (·.index)

/-- The first free entry of a context's buffer. -/
def freeEntry (s : State) (c : BitVec 16) : Nat :=
  let used := usedEntries s c
  ((List.range (used.length + 1)).find? fun i => !used.contains i).getD used.length

/-- One message that the inbound queue does not take, of an absent context or behind a full queue: written to the context
buffer, or written off when the buffer is full (R405, R436). -/
def spillOne (core : Nat) (s : State) (m : Msg) : State :=
  let die := dieOfAgent core
  match placementOf s core m.ctx with
  | none => s
  | some p =>
    let i := freeEntry s m.ctx
    if i < bufferSize s die m.ctx then
      let s := physWrite s ((bufferBase s die m.ctx).getD 0 + 320 * i) (msgBytes m)
      setPlacement s core { p with spilled := p.spilled ++ [⟨i, m.kind, m.scope⟩] }
    else
      let s := emit s (.homeWeightUpdate (.writeOff m.ctx m.weight.toNat))
      report s die 10 core 0 0 m.channel.toNat false

/-- Every message the network interface holds for a context, written out in arrival order, before the ones spilled already
(R436). -/
def spillMessages (s : State) (core : Nat) (c : BitVec 16) : State :=
  let k := coreOf s core
  let before := match placementOf s core c with
    | some p => p.spilled.length
    | none => 0
  let s := setCore s core { k with ni := k.ni.filter fun m => m.ctx != c }
  let s := (k.ni.filter fun m => m.ctx == c).foldl (spillOne core) s
  match placementOf s core c with
  | some p => setPlacement s core { p with spilled := p.spilled.drop before ++ p.spilled.take before }
  | none => s

/-- Whether a spilled message that can be read waits for its present context (R344, R405). -/
def spilledLeft (s : State) (core : Nat) (p : Placement) : Bool :=
  p.spilled.any fun n => (spillBytes s (dieOfAgent core) p.ctx n).isSome

/-- Whether the inbound queue of a core's network interface is full (R405; log entry 109). -/
def inboundFull (k : Core) : Bool := !k.ni.isEmpty && decide (Config.inboundRoom ≤ k.ni.length)

/-- Whether a message of a present context goes to the context buffer: the inbound queue is full, or earlier ones of the
context wait there (R405; log entry 109). -/
def overflows (s : State) (core : Nat) (p : Placement) : Bool := spilledLeft s core p || inboundFull (coreOf s core)

/-- A present context whose spilled messages the inbound queue has room for. -/
def overflowed (s : State) (core : Nat) : Option Placement :=
  match (coreOf s core).placements.find? fun p => !p.absent && spilledLeft s core p with
  | some p => if inboundFull (coreOf s core) then none else some p
  | none => none

/-- The entries of the context buffer come up for delivery in order, before everything that arrives later (R223, R436); one
that holds uncorrectable data stays (R344; log entry 91). -/
def unspillMessages (s : State) (core : Nat) (c : BitVec 16) : State :=
  match placementOf s core c with
  | none => s
  | some p =>
    let die := dieOfAgent core
    let ms := p.spilled.filterMap fun n => (spillBytes s die c n).map fun bs => msgOfBytes c bs n
    let s := setPlacement s core { p with spilled := p.spilled.filter fun n => (spillBytes s die c n).isNone }
    { s with events := ms.map (fun m => .messageArrival core m) ++ s.events }

/-! ### Update logs (R416, R417) -/

/-- The member number of a core of a context: the one that it was placed with, which the groups of a nested launch leave as it
is (R182, R355, R372). -/
def memberOn (s : State) (core : Nat) (c : BitVec 16) : Nat :=
  let placed := match ctxOf s c with
    | some k => (k.members.find? fun m => m.2 == core).map (·.1)
    | none => none
  match placed, placementOf s core c with
  | some m, _ => m
  | none, some p => p.member
  | none, none => 0

/-- The bytes of an update written at the subscriber, each as a write to its pool (R413, R414). -/
def writeUpdate (s : State) (core start : Nat) (bytes : List (Nat × Byte)) : State :=
  bytes.foldl (fun s q => poolPerform s core (start + q.1) [q.2]) s

/-- The base and size of a member's update log (R416); no bytes where they cannot be read (R344; log entry 91). -/
def updateLog (s : State) (core : Nat) (p : Placement) : Nat × Nat :=
  let die := dieOfAgent core
  match regWord s die p.ctx 40, regWord s die p.ctx 48 with
  | some b, some d => (field b 51 0 + memberOn s core p.ctx * field d 63 32, field d 63 32)
  | _, _ => (0, 0)

/-- One entry of the update log applied; the entries of a broken subscription are skipped. -/
def replayEntry (s : State) (core : Nat) (p : Placement) (note : LogNote) (bs : List Byte) : State :=
  let off := dword bs 0 % 2 ^ 18
  let mask := dword bs 0 / 2 ^ 32
  if note = .skipped ∨ padSize p.partw < off + 32 then s
  else
    let bytes := ((List.range 32).zip (slice bs 16 32)).filter fun q => bitOf mask q.1
    writeUpdate s core (padBase p.partw p.pbase + off) bytes

/-- The log of a context on a core replayed in order and emptied; an entry that cannot be read is not applied (R344; log entry
91). -/
def replayLog (s : State) (core : Nat) (c : BitVec 16) : State :=
  match placementOf s core c with
  | none => s
  | some p =>
    let (base, size) := updateLog s core p
    let apply_ (s : State) (q : LogNote × Nat) : State :=
      let a := base + 64 * q.2
      if size = 0 ∨ poisonedPhys s a 64 then s else replayEntry s core p q.1 (physRead s a 64)
    let s := p.logged.zipIdx.foldl apply_ s
    match placementOf s core c with
    | none => s
    | some p => setPlacement s core { p with logged := [] }

/-- A strand of the context runs on the core again, so the context is absent no more: its spilled messages come up for
delivery and its update log is replayed (R417, R436; log entry 90). -/
def endAbsence (s : State) (core : Nat) (c : BitVec 16) : State :=
  match placementOf s core c with
  | none => s
  | some p =>
    if p.absent then replayLog (unspillMessages (setPlacement s core { p with absent := false }) core c) core c else s

/-- The log entries of a live subscription noted otherwise, when it ends or breaks. -/
def noteLog (s : State) (core : Nat) (c : BitVec 16) (pubCore slot : Nat) (note : LogNote) : State :=
  match placementOf s core c with
  | none => s
  | some p =>
    if p.logged.contains (.live pubCore slot) then
      setPlacement s core { p with logged := p.logged.map fun n => if n = .live pubCore slot then note else n }
    else s

end Sys2Proof.Machine
end

