-- ==== Sys2Proof/Machine/ConfigWin.lean ====
section
/-!
DEFINITION. The configuration window as it reads (R349, R387, R412, R425, R449 to R461).
-/
namespace Sys2Proof.Machine

/-- Whether a mailbox command runs: one not yet performed, or a write of the flash under way (R454, R456). -/
def mbBusyNow (s : State) : Bool := s.module.mbBusy || decide (freeStamp s < s.module.flashUntil)

/-- MBSTAT (R454). -/
def mbStat (s : State) : Nat :=
  let m := s.module
  b1 (mbBusyNow s) + m.mbResult.toNat * 2 ^ 8 + m.mbTag.toNat * 2 ^ 16 + m.stage.toNat * 2 ^ 24 + m.mbDropped.toNat * 2 ^ 32

/-- STATE of a carter port (R453). -/
def linkState (l : Link) : Nat :=
  b1 l.up + b1 l.dead * 2 + l.retries.toNat * 2 ^ 32 + l.partner.toNat * 2 ^ 48

/-- The doubleword of a die's register, by its offset in the die's block (R349, R425, R449). -/
def dieRegister (s : State) (d off : Nat) : Option Nat :=
  let x := dieOf s d
  match off with
  | 0x000 => some x.qtbase.toNat
  | 0x008 => some x.hrbase.toNat
  | 0x010 => some x.gangwait.toNat
  | 0x018 => some x.tslice.toNat
  | 0x100 => some x.tentry.toNat
  | 0x108 => some x.centry.toNat
  | 0x110 => some x.regbase.toNat
  | 0x118 => some x.hblimit.toNat
  | 0x120 => some x.heart[0].toNat
  | 0x128 => some x.heart[1].toNat
  | 0x130 => some x.crashreg.toNat
  | 0x138 => some x.kroot.toNat
  | 0x1080 => some x.frlost.toNat
  | _ => none

/-- The doubleword `i` of a core's subscription tables: five for each publisher entry, then five for each slot (R412,
R449). -/
def subsTable (k : Core) (i : Nat) : Nat :=
  if i < 80 then
    match mapFind k.pubs (i / 5) with
    | none => 0
    | some e =>
      match i % 5 with
      | 0 => 1
      | 1 => e.ctx.toNat
      | 2 => e.base
      | 3 => e.len
      | _ => (e.slots.map fun j => 2 ^ j).foldl (· + ·) 0
  else if i < 400 then
    match mapFind k.subs ((i - 80) / 5) with
    | none => 0
    | some t =>
      match (i - 80) % 5 with
      | 0 => 1
      | 1 => b1 t.broken
      | 2 => t.subCore
      | 3 => t.subOff
      | _ => t.seq.toNat
  else 0

/-- An 8-byte aligned read in a die's block; queue headers and port tables are kept as bytes (R449). -/
def dieRead (s : State) (d off : Nat) : Nat :=
  match dieRegister s d off with
  | some v => v
  | none =>
    if (0x1000 ≤ off ∧ off < 0x1080) ∨ (0x100000 ≤ off ∧ off < 0x108000) ∨ (0x110000 ≤ off ∧ off < 0x110600) then
      leNat (memRead s.module.cfg (dieBlock d + off) 8)
    else if 0x200000 ≤ off ∧ off < 0x400000 then
      subsTable (coreOf s (512 * d + (off - 0x200000) / 4096)) ((off - 0x200000) % 4096 / 8)
    else 0

/-- A read in the module's blocks (R449). -/
def moduleRead (s : State) (off : Nat) : Nat :=
  let m := s.module
  if off = 0 then m.mbOp.toNat + m.mbTag.toNat * 256
  else if off = 8 then mbStat s
  else if off < 0x1000 then leNat (memRead m.cfg off 8)
  else if off < 0x2000 then
    leNat (slice (slice Config.moduleSerial 0 16 ++ natBytes (16 - Config.moduleSerial.length) 0 ++
      natBytes 4 m.version.toNat ++ m.imageHash) (off - 0x1000) 8)
  else if off = 0x2000 then m.powercap.toNat
  else if off = 0x2008 then m.powernow.toNat
  else if off = 0x2010 then m.tempmax.toNat
  else if off = 0x2018 then m.thermal.toNat
  else if 0x3000 ≤ off ∧ off < 0x4000 then leNat (memRead m.cfg off 8)
  else if 0x4000 ≤ off ∧ off < 0x8000 then
    let q := queueAt s ((off - 0x4000) / 64)
    match off % 64 with
    | 0x08 => q.accepted.toNat
    | 0x10 => q.refused.toNat
    | _ => 0
  else if 0x8000 ≤ off ∧ off < 0x8300 then
    if off % 64 = 0 then linkState (linkAt s ((off - 0x8000) / 64)) else 0
  else 0

/-- A read of the configuration window: 8 bytes aligned on 8, anything else zero (R450). -/
def configRead (s : State) (off size : Nat) : Nat :=
  if size ≠ 8 ∨ off % 8 ≠ 0 then 0
  else if off < 0x1000000 then moduleRead s off
  else if off < 0x5000000 then dieRead s (off / 0x1000000 - 1) (off % 0x1000000)
  else 0

end Sys2Proof.Machine
end

