-- ==== Sys2Proof/Machine/Cache.lean ====
section
/-!
DEFINITION. What the caches of a cluster hold, and a store on its way to where it performs (R309 to R311, R322, R329,
R332, R344, R395).
-/
namespace Sys2Proof.Machine

/-! ### The L1 (R329) -/

/-- The set of a line: which it is, the spec leaves open (R329; log entry 102). -/
def l1Set (line : Nat) : Nat := line % 2048

/-- The first `n` elements that pass, with the rest of the list. -/
def overWays (n : Nat) (p : L1Line → Bool) : List L1Line → List L1Line × List L1Line
  | [] => ([], [])
  | x :: xs =>
    if p x then
      match n with
      | 0 => let (k, e) := overWays 0 p xs; (k, x :: e)
      | n + 1 => let (k, e) := overWays n p xs; (x :: k, e)
    else let (k, e) := overWays n p xs; (x :: k, e)

/-- What instruction fetch of the other harts sees of bytes that a hart has written at their home: the new ones, where an
open region of theirs had written before (R322). -/
def performedBy (s : State) (h : HartId) (ca : Nat) (bs : List Byte) : State :=
  let fresh (o : Overwritten) : Overwritten :=
    if ca ≤ o.ca ∧ o.ca < ca + bs.length then { o with old := (bs[o.ca - ca]?).getD o.old } else o
  let see (k : HartId) (x : Slot) : Slot :=
    if k = h ∨ x.overwritten.isEmpty then x else { x with overwritten := x.overwritten.map fresh }
  { s with cur := see s.turn s.cur, harts := s.harts.map fun p => (p.1, see (BitVec.ofNat 13 p.1) p.2) }

/-- The 32 bytes of a line (R329). -/
def lineBytes (l : L1Line) : List Byte := (List.range 32).map fun i => (l.bytes[i]?).getD 0

/-- A line written back to its home when dirty (R309); onto cell bytes it is a failed store (R177). -/
def writeBack (s : State) (l : L1Line) : State :=
  if !l.dirty then s
  else if touchesCell s (l.line * 32) 32 then failStore s l.writer false true false
  else homeWrite (performedBy s l.writer (l.line * 32) (lineBytes l)) (l.line * 32) (lineBytes l)

/-- A line made the most recently used of its set; lines beyond the eighth of the set leave, dirty ones written back. -/
def installLine (s : State) (core : Nat) (l : L1Line) : State :=
  let k := coreOf s core
  let rest := k.l1.filter fun x => x.line != l.line
  let (keep, out) := overWays 8 (fun x => l1Set x.line == l1Set l.line) (l :: rest)
  out.foldl writeBack (setCore s core { k with l1 := keep })

/-- The line that holds a canonical address, if the core's L1 holds it. -/
def l1Line (s : State) (core ca : Nat) : Option L1Line := (coreOf s core).l1.find? fun l => l.line == ca / 32

/-- The line of a canonical address as a hart fetches it from its home. -/
def fetchedLine (s : State) (h : HartId) (ca : Nat) (shared : Bool) : L1Line :=
  ⟨ca / 32, shared, false, memRead s.mem (ca / 32 * 32) 32, h⟩

/-- The home slice of a line read, for a fill of a cache (R331). -/
def readHome (s : State) (ca n : Nat) : State := touchHome s (ca / n * n) n false false

/-- A load miss counted in its core (R434). -/
def countMiss (s : State) (core : Nat) : State :=
  let k := coreOf s core
  setCore s core { k with l1miss := k.l1miss + 1 }

/-- What memory of another module holds: free bytes (R453; log entry 8). -/
def remoteBytes (s : State) (pa n : Nat) : List Byte := (List.range n).map fun i => Config.remoteByte (pa + i) (freeStamp s)

/-- The lines of `n` bytes from an address, as pieces: each address and its length. -/
def linePieces : Nat → Nat → Nat → List (Nat × Nat)
  | 0, _, _ => []
  | fuel + 1, a, n =>
    if n = 0 then []
    else
      let m := Nat.min n (32 - a % 32)
      (a, m) :: linePieces fuel (a + m) (n - m)

/-- The shared lines of a core's L1 discarded: what an acquire at cluster scope or wider does (R179, R310). -/
def dropShared (s : State) (core : Nat) : State :=
  let k := coreOf s core
  setCore s core { k with l1 := k.l1.filter fun l => !l.shared }

/-- The dirty private lines of a core's L1 written back: what a release at cluster scope or wider does first (R309). -/
def flushDirty (s : State) (core : Nat) : State :=
  let k := coreOf s core
  let s := setCore s core { k with l1 := k.l1.map fun l => { l with dirty := false } }
  k.l1.foldl writeBack s

/-- The lines of a core's L1 among `lines` written back, and kept clean or dropped. -/
def cleanLines (s : State) (core : Nat) (lines : List Nat) (drop : Bool) : State :=
  let k := coreOf s core
  let hit := k.l1.filter fun l => lines.contains l.line
  let l1 := if drop then k.l1.filter fun l => !lines.contains l.line
    else k.l1.map fun l => if lines.contains l.line then { l with dirty := false } else l
  hit.foldl writeBack (setCore s core { k with l1 := l1 })

/-- The lines that `n` bytes touch leave a hart's L1, the dirty ones written back: accesses of one slot to the same bytes
stay in program order (R311). -/
def evictOf (s : State) (h : HartId) (ca n : Nat) : State :=
  if kindOf h = .core then
    cleanLines s (agentOf h) ((List.range ((ca + n - 1) / 32 + 1 - ca / 32)).map fun i => ca / 32 + i) true
  else s

/-- The resident copies of a core's L1 updated by a store that its home has acknowledged (R329). -/
def updateResident (s : State) (core ca : Nat) (bs : List Byte) : State :=
  let k := coreOf s core
  let patch (l : L1Line) : L1Line :=
    if ca < l.line * 32 + 32 ∧ l.line * 32 < ca + bs.length then
      { l with bytes := (l.bytes.zipIdx).map fun q =>
          if ca ≤ l.line * 32 + q.2 then (bs[l.line * 32 + q.2 - ca]?).getD q.1 else q.1 }
    else l
  setCore s core { k with l1 := k.l1.map patch }

/-! ### What instruction fetch sees of a store (R322) -/

/-- The bytes of memory that a store of a hart is about to change, as they stand, kept until the hart's region commits. -/
def noteStore (s : State) (h : HartId) (ca n : Nat) : State :=
  let x := slotOf s h
  let mine (i : Nat) : Bool := x.overwritten.any fun o => o.ca == ca + i && o.inTrap == x.inTrap
  let old := ((List.range n).filter fun i => !mine i).map fun i => Overwritten.mk (ca + i) (memGet s.mem (ca + i)) x.inTrap
  setSlot s h { x with overwritten := x.overwritten ++ old }

/-- The byte that the executing hart's open region has overwritten. -/
def ownOld (x : Slot) (ca : Nat) : Option Byte :=
  (x.overwritten.find? fun o => o.ca == ca && o.inTrap == x.inTrap).map (·.old)

/-! ### Stores (R309) -/

/-- A store of a hart for a context: a private line takes it in the L1, the hart's own pool at once, any other place when it
performs; on a dead port it fails (R397). -/
def storeOf (s : State) (h : HartId) (ctx : BitVec 16) (loc : Loc) (shared : Bool) (bs : List Byte) : State :=
  let core := agentOf h
  match loc with
  | .mem ca =>
    let s := noteStore s h ca bs.length
    let held := l1Line s core ca
    if kindOf h == .core && !shared && (held.isSome || !poisonedMem s ca bs.length) && !touchesCell s ca bs.length then
      let l := held.getD (fetchedLine s h ca false)
      let new := l.bytes.take (ca % 32) ++ bs ++ l.bytes.drop (ca % 32 + bs.length)
      installLine (if held.isSome then s else readHome s ca 32) core ⟨ca / 32, false, true, new, h⟩
    else emit s (.storePerform ⟨h, ctx, loc, bs⟩)
  | .pool c off => if c = core then poolPerform s core off bs else emit s (.storePerform ⟨h, ctx, loc, bs⟩)
  | .config off => if bs.length = 8 then emit s (.configRegisterWrite off (leWord bs) false) else s
  | .remote pa =>
    let port := pa / 2 ^ 44 % 16
    if (linkAt s port).dead then failStore s h false false true else emit s (.remoteStore port ⟨h, ctx, pa, bs⟩)

end Sys2Proof.Machine
end

