-- ==== Sys2Proof/Machine/Ops.lean ====
section
/-!
DEFINITION. The shared operations: how a meaning is written, the result queue, the advance and the commit, rollback,
taking an exception and returning from one (R13, R17, R36, R37, R53, R115, R124, R131, R426 to R433, R439).
-/
namespace Sys2Proof.Machine

/-! ### Meanings -/

/-- How a meaning ends early: a precise trap, which discards what the meaning did (R94, R174); the same for an access refused
for a constant page, which gives an engine's job a status of its own (R184, R386); a wait at issue, which
keeps only `f` (R217); a stop. -/
inductive Stop where
  | trap (c : Cause) (info : W)
  | constantPage (info : W)
  | wait (f : State → State)
  | fault (f : Fault)

/-- A meaning in the making: it reads and writes the state and may end early. -/
abbrev Op (α : Type) := StateT State (Except Stop) α

/-- Ends in a trap. -/
def trapWith {α : Type} (c : Cause) (info : W) : Op α := fun _ => .error (.trap c info)

/-- Waits at issue. -/
def waitWith {α : Type} (f : State → State) : Op α := fun _ => .error (.wait f)

/-- Waits at issue with nothing registered. -/
def waitHere {α : Type} : Op α := waitWith id

/-- Stops the machine. -/
def stopWith {α : Type} (f : Fault) : Op α := fun _ => .error (.fault f)

/-- Traps unless a condition holds. -/
def require (b : Bool) (c : Cause) (info : W) : Op Unit := if b then pure () else trapWith c info

/-- The executing slot. -/
def curSlot : Op Slot := do return (← get).cur

/-- A change of the executing slot. -/
def modCur (f : Slot → Slot) : Op Unit := modify fun s => { s with cur := f s.cur }

/-- An operation in flight added behind the others. -/
def emitOp (e : Event) : Op Unit := modify fun s => emit s e

/-- The agent number of the executing hart. -/
def curAgent : Op Nat := do return agentOf (← get).turn

/-- The code of a cause (R423). -/
def causeCode : Cause → Nat
  | .illegal => 0x01 | .slot => 0x02 | .align => 0x03 | .stallShort => 0x04 | .page => 0x05 | .protect => 0x06
  | .memerr => 0x07 | .accBusy => 0x08 | .accFirstUse => 0x09 | .lease => 0x0A | .slotClaim => 0x0B
  | .weightFine => 0x0C | .weightOverflow => 0x0D | .quiesce => 0x0E | .phaseOverrun => 0x0F | .gangScope => 0x10
  | .subLost => 0x11 | .shapeMismatch => 0x12 | .vclaim => 0x13 | .preempt => 0x14 | .fp => 0x15 | .xcell => 0x16
  | .queue => 0x17 | .brk => 0x18 | .syscall => 0x19

/-- TINFO in the layout of R175. -/
def memInfo (reason kind va : Nat) (late : Bool) : W :=
  w64 (va % 2 ^ 56 + kind * 2 ^ 56 + b1 late * 2 ^ 59 + reason * 2 ^ 60)

/-- TINFO in the layout of R218. -/
def opInfo (reason value : Nat) (late : Bool) : W :=
  w64 (value % 2 ^ 55 + b1 late * 2 ^ 55 + reason * 2 ^ 56)

/-! ### The clock (R32, R377, R439; log entry 4) -/

/-- PHCNT now. -/
def phNow (x : Slot) (clock : Nat) : BitVec 32 :=
  if x.phopen then BitVec.ofNat 32 (Nat.min (x.phcnt.toNat + (clock - x.phAt)) 0xFFFFFFFF) else x.phcnt

/-- LEASE now (R31): CYC has fallen since it was last written; HELD reads 0 from the cycle in which it reaches 0. -/
def leaseNow (x : Slot) (clock : Nat) : Lease :=
  if x.lease.held then
    let left := x.lease.cyc.toNat - (clock - x.lease.since)
    { x.lease with held := left != 0, cyc := BitVec.ofNat 11 left, since := clock }
  else x.lease

/-! ### Flags of results still to be written (R149) -/

/-- FPFLAGS at a cycle: the flags of every result written by then. -/
def fpflagsNow (x : Slot) (tick : Nat) : BitVec 5 :=
  x.flagsDue.foldl (fun f q => if q.cycle ≤ tick then f ||| q.flags else f) x.fpflags

/-- FPFLAGS once every result of the slot is written. -/
def fpflagsFinal (x : Slot) : BitVec 5 := x.flagsDue.foldl (fun f q => f ||| q.flags) x.fpflags

/-- FPFLAGS as a rollback leaves it: a result that it abandons never writes its flags (R131, R158). -/
def fpflagsKept (x : Slot) (tick : Nat) : BitVec 5 :=
  x.flagsDue.foldl (fun f q => if q.cycle ≤ tick ∨ !q.uncommitted then f ||| q.flags else f) x.fpflags

/-- The flags of a result that is written at a cycle, added to those on their way. -/
def addFlags (x : Slot) (tick cycle : Nat) (flags : BitVec 5) : Slot :=
  { x with
    fpflags := fpflagsNow x tick
    flagsDue := x.flagsDue.filter (fun q => decide (tick < q.cycle)) ++ if flags = 0 then [] else [⟨cycle, flags, true⟩] }

/-- LEASE as a word (R31). -/
def leaseWord (l : Lease) : Nat := l.cyc.toNat + l.cmds.toNat * 2 ^ 16 + b1 l.held * 2 ^ 28

/-! ### The result queue and the named registers (R17, R18, R45, R53, R55) -/

/-- The queue with a new newest entry. -/
def pushQueue (q : Vector Entry 16) (e : Entry) : Vector Entry 16 :=
  #v[e, q[0], q[1], q[2], q[3], q[4], q[5], q[6], q[7], q[8], q[9], q[10], q[11], q[12], q[13], q[14]]

/-- A value that may be read from any cycle on. -/
def ready (v : W) : Entry := ⟨v, 0, 0⟩

/-- A named register written: into the iteration buffer inside a REP body, with the cycle from which it may be read
(R53, R136). -/
def writeNamed (x : Slot) (i : BitVec 3) (e : Entry) : Slot :=
  match x.rep with
  | some r => { x with rep := some { r with buf := r.buf.set i.toNat (some e) } }
  | none => { x with n := x.n.set i.toNat e }

/-- The cycle at which a write of a named register takes effect: in issue order, behind the writes of it still on their way
(R55). -/
def effectCycle (x : Slot) (tick : Nat) (i : BitVec 3) (cycle : Nat) : Nat :=
  (x.late.filter fun l => l.reg == i && decide (tick < l.cycle)).foldl (fun n l => Nat.max n l.cycle) cycle

/-- What a named register holds kept until a write of it takes effect: a rollback before then abandons the write (R131). A
value that the next word may read has been written by any rollback. -/
def keepOld (x : Slot) (tick : Nat) (i : BitVec 3) (cycle : Nat) : Slot :=
  let c := effectCycle x tick i cycle
  if x.rep.isSome ∨ c ≤ tick + 1 then x
  else { x with late := x.late.filter (fun l => decide (tick < l.cycle)) ++ [⟨i, c, x.n[i.toNat]⟩] }

/-- The named registers with the writes still on their way at a cycle taken back, the newest first (R131). -/
def withoutLate (late : List LateWrite) (tick : Nat) (n : Vector Entry 8) : Vector Entry 8 :=
  late.foldr (fun l n => if tick < l.cycle then n.set l.reg.toNat l.old else n) n

/-- A result that has arrived: it fills its queue position and is written where its instruction named, in the register
or in the iteration buffer that still waits for it, or appended to its port (R53, R136). Instruction fetch sees the append of
a committed instruction (R322). -/
def deliver (s : State) (r : Delivery) : State :=
  let x := slotOf s r.h
  let fill (e : Entry) : Entry := if e.tag = r.tag then ready r.val else e
  let x := { x with
    q := x.q.map fill
    n := x.n.map fill
    rep := x.rep.map fun p => { p with buf := p.buf.map (Option.map fill) } }
  let s := setSlot s r.h x
  match r.dest with
  | .stream _ loc size shared =>
    let t := storeOf s r.h x.ctx loc shared (wordBytes size r.val)
    if r.tag < x.openTag then setSlot t r.h { slotOf t r.h with overwritten := x.overwritten } else t
  | _ => s

/-! ### The advance (R115, R116) and the commit (R124) -/

/-- The three program counters after a word, with the target of a taken branch. -/
def advance (x : Slot) (t : Option Addr) : Slot :=
  { x with
    pc := x.npc
    npc := x.nnpc
    nnpc := match t with
      | none => x.nnpc + 4
      | some t => t }

/-- The slot after a word that is not a prefix word has issued: the counters advanced, the words before it remembered
for R116, the group closed, RETIRED grown (R26), the next word held back by STALL (R52). -/
def afterWord (st : BitVec 3) (k : BrKind) (t : Option Addr) (tick : Nat) (x : Slot) : Slot :=
  { advance x t with
    prev2 := x.prev1
    prev1 := k
    hint := none
    modw := none
    paid := none
    retired := x.retired + 1
    earliest := tick + 1 + st.toNat }

/-- The end of a word that is no branch and does not commit. -/
def finish (st : BitVec 3) : Op Unit := modify fun s => { s with cur := afterWord st .none none s.tick s.cur }

/-- A commit of a slot: RSTART is the next word, the streams are checkpointed, the results issued so far belong to
committed instructions, its stores to another region than the next, the hold of R134 ends, and a frozen slot stops (R124,
R131, R134, R322, R439). `tags` is the tag of the next result. DESIGN CHOICE (log entry 114): any commit in the slot ends
the hold, also one that the switch handler makes after a trap of the resumed strand. -/
def commitSlot (frozen : Bool) (tags : Nat) (x : Slot) : Slot :=
  { x with
    rstart := x.pc
    ckpt := x.str
    openTag := tags
    late := []
    flagsDue := x.flagsDue.map fun q => { q with uncommitted := false }
    overwritten := x.overwritten.filter fun o => o.inTrap != x.inTrap
    hold := none
    stopped := x.stopped || frozen }

/-- The end of a committing word. -/
def finishCommit (st : BitVec 3) : Op Unit := modify fun s =>
  { s with cur := commitSlot s.module.frozen.isSome s.tags (afterWord st .none none s.tick s.cur) }

/-- The end of a branch-class word (R115). -/
def finishBranch (st : BitVec 3) (taken nul : Bool) (target : Addr) : Op Unit := modify fun s =>
  let x := afterWord st (if taken then .taken else .notTaken) (if taken then some target else none) s.tick s.cur
  { s with cur := if nul && !taken then { x with nullify := 2 } else x }

/-- Whether the next word stands in a delay slot (R116). -/
def inDelaySlot (x : Slot) : Bool := x.prev1 != .none || x.prev2 != .none

/-! ### Rollback (R131) -/

/-- The result that an operation in flight delivers at its cycle: of a load or divide, or one that a port takes late. -/
def resultOf : Event → Option Delivery
  | .divideComplete r => some r
  | .fpDivideComplete r _ => some r
  | .loadResponse r => some r
  | _ => none

/-- The cycle before which an operation in flight does not happen. -/
def eventDue (e : Event) : Nat :=
  match resultOf e with
  | some r => r.due
  | none => 0

/-- Whether a result of the hart is still in flight. -/
def resultPending (s : State) (h : HartId) : Bool :=
  s.events.any fun e => match resultOf e with
    | some r => r.h == h
    | none => false

/-- The destination that an operation in flight will write, with the hart. -/
def destOf : Event → Option (HartId × Dest)
  | .divideComplete r => some (r.h, r.dest)
  | .fpDivideComplete r _ => some (r.h, r.dest)
  | .loadResponse r => some (r.h, r.dest)
  | .nreadTimeout r => some (r.h, r.dest)
  | .laneResult r => r.scalar.map fun d => (d.h, d.dest)
  | .homeAtomic r => some (r.h, r.dest)
  | .homeCellOperation r => some (r.h, r.dest)
  | .homeQueueOperation r => some (r.h, r.dest)
  | .launchAtHome r => some (r.h, r.dest)
  | .launchStatus r _ => some (r.h, r.dest)
  | .fenceComplete r _ => some (r.h, r.dest)
  | .subscriptionEstablish r => some (r.h, r.dest)
  | _ => none

/-- The append that an operation in flight has still to make: the hart, the port, the place and the bytes (R55, R187). -/
def appendOf (e : Event) : Option (HartId × BitVec 2 × Loc × Nat) :=
  match destOf e with
  | some (h, .stream p l n _) => some (h, p, l, n)
  | _ => none

/-- Whether an append of a hart is still to come. -/
def appendsPending (s : State) (h : HartId) : Bool :=
  s.events.any fun e => match appendOf e with
    | some (k, _) => k == h
    | none => false

/-- Whether an operation in flight delivers the result of a committed load or divide of the hart, whose open region's
results have tags from `t` on. -/
def committedResult (h : HartId) (t : Nat) (e : Event) : Bool :=
  match resultOf e with
  | some r => r.h == h && decide (r.tag < t)
  | none => false

/-- Whether an operation in flight belongs to an instruction of the hart that has not committed. -/
def uncommitted (h : HartId) : Event → Bool
  | .divideComplete r => r.h == h
  | .fpDivideComplete r _ => r.h == h
  | .fpLateTrap h' _ _ => h' == h
  | .loadResponse r => r.h == h
  | .nreadTimeout r => r.h == h
  | .laneResult r => r.h == h
  | .homeCellOperation r => r.h == h && (match r.op with
    | .read _ _ => true
    | _ => false)
  | _ => false

/-- The tag of the result that an operation in flight will deliver to a hart. -/
def pendingTag (h : HartId) : Event → Option Nat
  | .homeAtomic r => if r.h = h then some r.tag else none
  | .homeCellOperation r => if r.h = h then some r.tag else none
  | .homeQueueOperation r => if r.h = h then some r.tag else none
  | .launchAtHome r => if r.h = h then some r.tag else none
  | .launchStatus r _ => if r.h = h then some r.tag else none
  | .fenceComplete r _ => if r.h = h then some r.tag else none
  | .subscriptionEstablish r => if r.h = h then some r.tag else none
  | _ => none

/-- Whether a store of the hart awaits its acknowledgement: one to another module (R395), or one into another core's
published region whose update is still to come (R415). -/
def unacknowledged (s : State) (h : HartId) : Bool :=
  (s.links.any fun l => l.2.outstanding.any fun r => r.h == h) ||
    s.cores.any fun k => k.2.pubs.any fun e => e.2.writers.contains h

/-- What tells a combining entry from every other: the age of its first contribution (R399). -/
def Combine.id (e : Combine) : Nat :=
  match e.from_ with
  | f :: _ => f.op.age
  | [] => 0

/-- Whether a contribution of the hart to a cell still waits in the combining tree (R399). -/
def combining (s : State) (h : HartId) : Bool := s.combine.any fun e => e.from_.any fun f => f.h == h

/-- Whether a committing operation of the hart still awaits its response (R176), or a store has still to perform. -/
def awaitsResponse (s : State) (h : HartId) : Bool :=
  (slotOf s h).launches != 0 || unacknowledged s h || combining s h || s.events.any fun e => (pendingTag h e).isSome || (match e with
    | .lateFault h' _ _ _ => h' == h
    | .storePerform r => r.h == h
    | .remoteStore _ r => r.h == h
    | .weightGrant h' _ _ _ => h' == h
    | _ => false)

/-- The slot as a rollback leaves it: the queue cleared, the iteration buffer gone, the streams at their checkpoint, the
counters at RSTART, the results in flight and their flags and FP traps abandoned. Registers still awaited from committed operations
stay awaited. -/
def rolledBack (keep : List Nat) (tick : Nat) (x : Slot) : Slot :=
  let settle (e : Entry) : Entry := if keep.contains e.tag then e else { e with tag := 0 }
  { x with
    q := Vector.replicate 16 (ready 0)
    n := withoutLate x.late tick (x.n.map settle)
    late := []
    str := x.ckpt
    rep := none
    pc := x.rstart
    npc := x.rstart + 4
    nnpc := x.rstart + 8
    nullify := 0
    prev1 := .none
    prev2 := .none
    hint := none
    modw := none
    paid := none
    earliest := 0
    fpflags := fpflagsKept x tick
    flagsDue := []
    fpTraps := []
    rotate := false
    vgrant := if x.resumed then x.vgrant else 0
    rollbacks := x.rollbacks + 1 }

/-- A hart's requests for lanes and for the lease withdrawn: a word that waits at issue has not issued (R217, R264). The
request for the lease of a strand that resumes stays (R33). -/
def withdraw (s : State) (h : HartId) : State :=
  let c := clusterOf (agentOf h)
  let k := clusterAt s c
  if kindOf h = .core ∧ !(slotOf s h).resumed ∧ (k.vwait.any (fun w => w.h == h) ∨ k.leaseWait.contains h) then
    setCluster s c { k with
      vwait := k.vwait.filter fun w => w.h != h
      leaseWait := if (slotOf s h).lreq.isSome then k.leaseWait else k.leaseWait.filter fun w => w != h }
  else s

/-- The results of committed loads and divides of a hart written: a rollback waits for them (R131). -/
def deliverCommitted (s : State) (h : HartId) : State :=
  let t := (slotOf s h).openTag
  let late := (s.events.filter (committedResult h t)).filterMap resultOf
  late.foldl deliver { s with events := s.events.filter fun e => !committedResult h t e }

/-- The rollback of a hart (R131). -/
def rollback (s : State) (h : HartId) : State :=
  let s := deliverCommitted s h
  let s := { s with events := s.events.filter fun e => !uncommitted h e }
  let keep := s.events.filterMap (pendingTag h)
  withdraw (setSlot s h (rolledBack keep s.tick (slotOf s h))) h

/-! ### The save area (R36) -/

/-- The pool offset of a slot's save area. -/
def saveOffset (h : Bool) (partw : BitVec 32) (pbase : BitVec 18) : Nat :=
  pbase.toNat + if h then 0 else 1024 + vmaxOf partw * 2048

/-- A stream generator as it is saved. -/
def streamBytes (g : Stream) : List Byte :=
  if g.bound then
    natBytes 8 g.base.toNat ++ natBytes 8 g.stride.toNat ++ natBytes 4 g.count.toNat ++ natBytes 4 g.pos.toNat ++
      natBytes 8 (g.size.toNat + b1 g.signed * 4 + b1 g.write * 8 + 16)
  else natBytes 32 0

/-- A stream generator as it is restored. -/
def streamOfBytes (bs : List Byte) : Stream :=
  let m := dword bs 24
  if bitOf m 4 then
    { bound := true, base := w64 (dword bs 0), stride := w64 (dword bs 8)
      count := BitVec.ofNat 32 (leNat (slice bs 16 4)), pos := BitVec.ofNat 32 (leNat (slice bs 20 4))
      write := bitOf m 3, signed := bitOf m 2, size := BitVec.ofNat 2 (m % 4) }
  else Stream.closed

/-- LEASE as it is saved: the one that a resumed strand still waits for, where it has not been granted yet (R33, R36). -/
def leaseSaved (x : Slot) (clock : Nat) : Lease :=
  match x.lreq with
  | some (cmds, cyc) => ⟨true, cmds, cyc, clock⟩
  | none => leaseNow x clock

/-- Bytes 0x000 to 0x0FF of a slot save area. -/
def saveBytes (x : Slot) (clock : Nat) : List Byte :=
  (x.n.toList.map fun e => wordBytes 8 e.val).flatten ++
    natBytes 8 x.rstart.toNat ++
    natBytes 8 (x.rmode.toNat * 2 ^ 47 + x.fpte.toNat * 2 ^ 42 + b1 x.checkstall * 2 ^ 41 + x.fpflags.toNat * 2 ^ 31) ++
    natBytes 8 x.wcur.toNat ++
    natBytes 8 (leaseWord (leaseSaved x clock)) ++
    natBytes 8 (x.phexp.toNat * 2 ^ 32 + (phNow x clock).toNat) ++
    natBytes 8 (x.phmargin.toNat * 2 ^ 42 + x.vlanes.toNat * 2 ^ 33 + b1 x.phopen * 2 ^ 32 + x.phslack.toNat) ++
    natBytes 16 0 ++
    (x.str.toList.map streamBytes).flatten

/-- The slot with the scalars, status, weight, phase and streams of a save area. The lease, PHCNT, PHOPEN and VLANES
keep their live values (R433). RMODE, FPTE and CHECKSTALL come back as saved (log entry 84). -/
def restoreScalars (bs : List Byte) (x : Slot) : Slot :=
  let st := dword bs 0x48
  let ph := dword bs 0x68
  let pc : Addr := BitVec.ofNat 56 (dword bs 0x40)
  let n (i : Nat) : Entry := ready (w64 (dword bs (8 * i)))
  let g (i : Nat) : Stream := streamOfBytes (slice bs (0x80 + 32 * i) 32)
  let str : Vector Stream 4 := #v[g 0, g 1, g 2, g 3]
  { x with
    n := #v[n 0, n 1, n 2, n 3, n 4, n 5, n 6, n 7]
    q := Vector.replicate 16 (ready 0)
    rstart := pc
    pc := pc
    npc := pc + 4
    nnpc := pc + 8
    nullify := 0
    prev1 := .none
    prev2 := .none
    hint := none
    modw := none
    paid := none
    late := []
    rep := none
    rmode := BitVec.ofNat 3 (field st 49 47)
    fpte := BitVec.ofNat 5 (field st 46 42)
    checkstall := bitOf st 41
    fpflags := BitVec.ofNat 5 (field st 35 31)
    wcur := BitVec.ofNat 48 (dword bs 0x50)
    phexp := BitVec.ofNat 32 (field (dword bs 0x60) 63 32)
    phmargin := BitVec.ofNat 8 (field ph 49 42)
    phslack := BitVec.ofNat 32 (field ph 31 0)
    str := str
    ckpt := str
    flagsDue := []
    fpTraps := [] }

/-- The slot with the phase count of a save area as well (R33, R433). -/
def restorePhase (bs : List Byte) (clock : Nat) (x : Slot) : Slot :=
  { x with
    phcnt := BitVec.ofNat 32 (field (dword bs 0x60) 31 0)
    phAt := clock
    phopen := bitOf (dword bs 0x68) 32 }

/-- The key of lane `j` of vector register `i`, and of bit `j` of mask `i`. -/
def laneKey (i j : Nat) : Nat := i * 256 + j

/-- Whether bit `j` of a mask register is set. -/
def maskBit (m : BitVec 256) (j : Nat) : Bool := m.getLsbD j

/-- The masks and lanes below VLANES written to the slot's save area, and its reserved bytes behind the masks as zero
(R36). -/
def saveVectors (s : State) (core base : Nat) (x : Slot) : State :=
  let l := x.vlanes.toNat
  let keepMask (i : Nat) (s : State) : State :=
    let old := leNat (poolRead s core (base + 0x100 + 32 * i) 32)
    let new := x.m[i]!.toNat
    poolWrite s core (base + 0x100 + 32 * i) (natBytes 32 (new % 2 ^ l + old / 2 ^ l * 2 ^ l))
  let s := (List.range 4).foldl (fun s i => keepMask i s) s
  let s := poolWrite s core (base + 0x180) (natBytes 640 0)
  let lane (i : Nat) (s : State) (j : Nat) : State :=
    poolWrite s core (base + 0x400 + i * vmaxOf x.partw * 128 + 4 * j)
      (natBytes 4 (mapGet 0 x.v (laneKey i j)).toNat)
  (List.range 16).foldl (fun s i => (List.range l).foldl (lane i) s) s

/-- The slot with the masks and lanes below `l` taken from its save area. -/
def restoreVectors (s : State) (core base l : Nat) (x : Slot) : Slot :=
  let mask (i : Nat) : BitVec 256 := BitVec.ofNat 256 (leNat (poolRead s core (base + 0x100 + 32 * i) 32) % 2 ^ l)
  let lane (i : Nat) (v : AMap (BitVec 32)) (j : Nat) : AMap (BitVec 32) :=
    let w : BitVec 32 := BitVec.ofNat 32 (leNat (poolRead s core (base + 0x400 + i * vmaxOf x.partw * 128 + 4 * j) 4))
    if w = 0 then v else mapPut v (laneKey i j) w
  { x with
    vlanes := BitVec.ofNat 9 l
    m := #v[mask 0, mask 1, mask 2, mask 3]
    v := (List.range 16).foldl (fun v i => (List.range l).foldl (lane i) v) [] }

/-! ### Claims of a slot (R22, R264, R286) -/

/-- The lanes of a hart given back to its cluster's pool, and its place in the waiting list given up (R265). -/
def releaseLanes (s : State) (h : HartId) : State :=
  let x := slotOf s h
  let c := clusterOf (agentOf h)
  let k := clusterAt s c
  let s := setSlot s h { x with vlanes := 0, v := [], m := Vector.replicate 4 0, vgrant := 0 }
  if kindOf h = .core ∧ (x.vlanes ≠ 0 ∨ k.vwait.any (fun w => w.h == h)) then
    let k := { k with
      freeUnits := k.freeUnits + x.vlanes.toNat / 32
      vwait := k.vwait.filter fun w => w.h != h }
    let s := setCluster s c k
    if k.vwait.isEmpty then s else emit s (.vclaimGrant c)
  else s

/-- The lease of a hart ended, and its request given up (R286). The spec says only that HELD then reads 0; that CMDS and CYC do
too is the model's choice (R31; log entry 89). -/
def releaseLease (s : State) (h : HartId) : State :=
  let x := slotOf s h
  let c := clusterOf (agentOf h)
  let k := clusterAt s c
  let s := setSlot s h { x with lease := ⟨false, 0, 0, 0⟩, lreq := none }
  if kindOf h = .core ∧ (k.holder = some h ∨ k.leaseWait.contains h) then
    let k := { k with
      holder := if k.holder = some h then none else k.holder
      leaseWait := k.leaseWait.filter fun w => w != h
      grantAt := if k.holder = some h then s.tick + 1 else k.grantAt }
    setCluster s c k
  else s

/-- The operand slots that a hart has claimed for a context released, but for those that `keep` names; what they held is gone
(R22, R250, R292). -/
def releaseOslots (s : State) (h : HartId) (ctx : BitVec 16) (keep : Nat → Bool) : State :=
  let c := clusterOf (agentOf h)
  let k := clusterAt s c
  let goes (e : Nat × OSlot) : Bool := e.2.owner == h && e.2.ctx == ctx && !keep e.1
  let gone := k.oslots.filter goes
  if gone.isEmpty then s
  else setCluster s c (gone.foldl (fun k e => operandClear k e.1) { k with oslots := k.oslots.filter fun e => !goes e })

/-- The landing region of a channel no longer held (R225). -/
def endLanding (s : State) (h : HartId) : State :=
  let x := slotOf s h
  match x.landing with
  | none => s
  | some ch =>
    let s := setSlot s h { x with landing := none }
    match placementOf s (agentOf h) x.ctx with
    | none => s
    | some p => setPlacement s (agentOf h) { p with heldCh := p.heldCh.filter fun c => c != ch }

/-- Whether a slot runs a strand of a context: a strand stopped in the switch handler counts, one saved by a PREEMPT
does not (R436). -/
def runsStrand (x : Slot) (c : BitVec 16) : Bool :=
  x.live && (if x.inTrap then !x.byPreempt && x.entryCtx == c else x.ctx == c)

/-- A slot with its strand gone; the counters, the phase and the status of the slot stay (R32, R237). -/
def emptied (x : Slot) : Slot :=
  { x with
    live := false
    wfi := none
    sup := false
    q := Vector.replicate 16 (ready 0)
    n := Vector.replicate 8 (ready 0)
    str := Vector.replicate 4 Stream.closed
    ckpt := Vector.replicate 4 Stream.closed
    nullify := 0
    prev1 := .none
    prev2 := .none
    hint := none
    modw := none
    paid := none
    late := []
    rep := none
    wcur := 0
    crec := 0
    landing := none
    quiesce := false
    rotate := false
    flagsDue := []
    fpTraps := []
    lateFaults := []
    overwritten := []
    failed := ⟨0, false, false, false⟩
    hold := none
    request := none
    resumed := false
    byPreempt := false
    inTrap := false
    hltaken := false
    stopped := false
    earliest := 0 }

/-! ### A crash of the resident kernel (R439) -/

/-- Whether a third crash has come within 1.1 × 10^9 cycles of the first (R442). -/
def thirdCrash : List Nat → Bool
  | t :: _ :: f :: _ => decide (t - f ≤ 1100000000)
  | _ => false

/-- The module frozen, with the code in CRASHREG of every die. A compute slot in supervisor mode stops at once. -/
def kernelCrash (s : State) (code : BitVec 8) : State :=
  if s.module.frozen.isSome then s
  else
    let crashes := (s.tick :: s.module.crashes).take 3
    let mark (s : State) (d : Nat) : State :=
      let x := dieOf s d
      setDie s d { x with crashreg := w64 (field x.crashreg.toNat 31 0 + code.toNat * 2 ^ 32) }
    let s := (List.range 4).foldl mark s
    let stop (h : HartId) (x : Slot) : Slot := if x.sup && kindOf h == .core then { x with stopped := true } else x
    { s with
      cur := stop s.turn s.cur
      harts := s.harts.map fun p => (p.1, stop (BitVec.ofNat 13 p.1) p.2)
      module := { s.module with
        frozen := some code
        frozenAt := s.tick
        crashes := crashes
        locked := s.module.locked || thirdCrash crashes } }

/-! ### Taking an exception (R426, R430, R386) -/

/-- The slot in the switch handler's first word (R426, R430), with no group, delay slot or REP body under way. What the entry
found is kept; a handler that a restart starts again keeps that of its own entry (R439). -/
def enterHandler (entry : Addr) (n0 : W) (x : Slot) : Slot :=
  { x with
    sup := true
    inTrap := true
    entryCtx := if x.inTrap then x.entryCtx else x.ctx
    q := Vector.replicate 16 (ready 0)
    n := (Vector.replicate 8 (ready 0)).set 0 (ready n0)
    entryN0 := n0
    entryTrap := if x.inTrap then x.entryTrap else ⟨x.tcause, x.tinfo, x.tpc, x.rstart, x.n[1].val⟩
    pc := entry
    npc := entry + 4
    nnpc := entry + 8
    nullify := 0
    prev1 := .none
    prev2 := .none
    hint := none
    modw := none
    paid := none
    rep := none
    late := []
    flagsDue := []
    fpTraps := []
    wfi := none
    earliest := 0 }

/-- The trap registers (R426, R427). -/
def setTrapRegs (c : Cause) (info : W) (tpc : Addr) (x : Slot) : Slot :=
  { x with tcause := BitVec.ofNat 8 (causeCode c), tinfo := info, tpc := tpc, traps := x.traps + 1 }

/-- Whether an address of a hart lies behind a DEAD carter port (R453). -/
def behindDead (s : State) (h : HartId) (va : Nat) : Bool :=
  match translate s h va with
  | .mapped pa _ _ => (match regionOf pa with
    | .remote p _ => (linkAt s p).dead
    | _ => false)
  | _ => false

/-- The status that a trap gives an engine's job, with its TCAUSE and DETAIL (R386): MEMERR behind a DEAD port meets no
poisoned data; a queue operation refused late for a constant ring page has met a constant page. -/
def jobStatus (s : State) (h : HartId) (c : Cause) (info : W) : BitVec 8 × BitVec 8 × W :=
  let va := field info.toNat 55 0
  if c = .memerr ∧ !behindDead s h va then (2, 0, w64 va)
  else if c = .protect ∧ info = memInfo 1 2 va true then (3, 0, w64 va)
  else (1, BitVec.ofNat 8 (causeCode c), info)

/-- The exchange of a core's tiles begun by a hart's trap, or ended (R438). -/
def setExchange (s : State) (h : HartId) (on : Bool) : State :=
  let k := coreOf s (agentOf h)
  let others := k.exchange.filter fun i => i != h
  if on then setCore s (agentOf h) { k with exchange := others ++ [h] }
  else if k.exchange.contains h then setCore s (agentOf h) { k with exchange := others } else s

/-- The job of an engine ends once its responses are in: no more of its words issue (R386). The first end stands. -/
def endJob (s : State) (a : Nat) (status tcause : BitVec 8) (detail : W) : State :=
  let e := engineAt s a
  let h : HartId := BitVec.ofNat 13 a
  let s := setSlot s h { slotOf s h with wfi := some 0 }
  if e.running.isSome ∧ e.ending.isNone then setEngine s a { e with ending := some (status, tcause, detail) } else s

/-- A walk that found no page is made known to the die's walkers, which report a malformed entry (R337). A late failure's walk
has been made known where it was made. -/
def noteWalk (s : State) (h : HartId) (c : Cause) (info : W) : State :=
  if c = .page ∧ field info.toNat 63 60 = 0 ∧ !bitOf info.toNat 59 then
    emit s (.pageWalk (agentOf h) (asidOf s h) (rootOf s h) (info.setWidth 56))
  else s

/-- The slot of a hart that enters the switch handler, with what the entry writes beside the handler's registers: the trap
registers and counts, and at a PREEMPT the live phase closed (R37, R426, R439; log entry 76). -/
def enteringSlot (pre frozen : Bool) (clock : Nat) (x : Slot) : Slot :=
  let x := { x with
    byPreempt := pre
    preempts := x.preempts + if pre then 1 else 0
    stopped := x.stopped || frozen }
  if pre then { x with overwritten := [], phcnt := phNow x clock, phAt := clock, phopen := false } else x

/-- The save area written at an entry: the scalars, and at a PREEMPT the masks and lanes too (R36, R37). -/
def writeSaveArea (s : State) (h : HartId) (pre : Bool) (x : Slot) : State :=
  let a := agentOf h
  let off := saveOffset (isH h) x.partw x.pbase
  let s := poolWrite s a off (saveBytes x s.clock)
  if pre then saveVectors s a off x else s

/-- What a PREEMPT does behind the save: the lease and the lanes released, the strand kept with its context, and with no
strand of the context left on the core its messages spilled (R37, R436). -/
def leavePreempted (s : State) (h : HartId) (x : Slot) : State :=
  let a := agentOf h
  let saved : Saved := ⟨x.crec, x.landing, x.quiesce, x.phsent, x.failed, x.overwritten⟩
  let s := releaseLease (releaseLanes s h) h
  match placementOf s a x.ctx with
  | none => s
  | some p =>
    let p := if isH h then { p with savedH := some saved } else { p with savedL := some saved }
    let others := runsStrand (slotOf s (h ^^^ 4096)) x.ctx
    let s := setPlacement s a { p with absent := !others }
    if others then s else spillMessages s a x.ctx

/-- The entry of a compute slot that has been rolled back. -/
def enterCore (s : State) (h : HartId) (c : Cause) (info : W) (tpc : Option Addr) : State :=
  let pre := c == .preempt
  let x := setTrapRegs c info (tpc.getD (slotOf s h).rstart) (slotOf s h)
  let s := writeSaveArea s h pre x
  let s := setSlot s h (enterHandler (dieOf s (dieOfAgent (agentOf h))).tentry (w64 (saveOffset (isH h) x.partw x.pbase))
    (enteringSlot pre s.module.frozen.isSome s.clock x))
  let s := if c == .accFirstUse then setExchange s h true else s
  if pre then leavePreempted s h x else s

/-- The slot back at the start of its group, when prefix words of the group have been executed: a group that waits has
not issued, and is never split (R51, R217). Its prefix words have had their cycles. -/
def unissued (x : Slot) : Slot :=
  if x.hint.isSome || x.modw.isSome then
    { x with
      pc := x.gpc
      npc := x.gnpc
      nnpc := x.gnnpc
      prev1 := x.gprev.1
      prev2 := x.gprev.2
      hint := none
      modw := none
      paid := some x.gpc }
  else x

/-- A hart whose trap is a crash of the resident kernel: it stops at the first word of its group (R439). -/
def crashAt (s : State) (h : HartId) (code : BitVec 8) : State :=
  kernelCrash (setSlot s h { unissued (slotOf s h) with stopped := true }) code

/-- Taking an exception, the one way a trap or a PREEMPT is entered. On a compute slot in user mode it rolls the slot
back, writes the save area and starts the switch handler (R426); a PREEMPT writes the whole area, releases the lease and
the claim and spills the context's messages (R37). In supervisor mode it is a crash of the resident kernel (R439). A
clerk saves in its own SRAM and starts at CENTRY (R430). On an engine it ends the job (R386). `tpc` is none where TPC
is RSTART. -/
def takeTrap (s : State) (h : HartId) (c : Cause) (info : W) (tpc : Option Addr) : State :=
  let s := noteWalk s h c info
  match kindOf h with
  | .core => if (slotOf s h).sup then crashAt s h 1 else enterCore (rollback s h) h c info tpc
  | .clerk =>
    if (slotOf s h).inTrap then crashAt s h 2
    else
      let s := rollback s h
      let x := setTrapRegs c info (tpc.getD (slotOf s h).rstart) (slotOf s h)
      let x := { x with save := memWrite [] 0 (saveBytes x s.clock) }
      setSlot s h (enterHandler (dieOf s (dieOfAgent (agentOf h))).centry 0 x)
  | _ =>
    let (st, tc, d) := jobStatus s h c info
    let s := rollback s h
    let x := setTrapRegs c info (tpc.getD (slotOf s h).rstart) (slotOf s h)
    endJob (setSlot s h x) (agentOf h) st tc d

/-- An access refused for a constant page: PROTECT, reason 1, and status 3 of an engine's job (R184, R386). -/
def takeRefusal (s : State) (h : HartId) (info : W) (tpc : Addr) : State :=
  let engine := kindOf h == .porter || kindOf h == .carter
  if engine then
    let s := rollback s h
    let s := setSlot s h (setTrapRegs .protect info tpc (slotOf s h))
    endJob s (agentOf h) 3 0 (w64 (field info.toNat 55 0))
  else takeTrap s h .protect info (some tpc)

/-! ### Ending a strand (R237, R433) -/

/-- CREC written as 64 zero bytes and put on the free-record queue by an agent (R236, R237). -/
def freeRecord (s : State) (agent : Nat) (c : BitVec 16) (crec : W) : State :=
  let s := writeRecord s agent c crec (natBytes 64 0)
  enqFor s agent c (freeQueue s c) crec

/-- A trap report (R435), of the entry to the slot's switch handler as it was, whatever the handler has written since. DETAIL is
n1 of a service that gives one (R431). -/
def trapReport (s : State) (h : HartId) (aborted : Bool) (woff : Nat) : State :=
  let x := slotOf s h
  let e := x.entryTrap
  let die := dieOfAgent (agentOf h)
  let service := field e.cause.toNat 6 0 == causeCode .syscall && (e.info == 1 || e.info == 2)
  fileReport s die
    (natBytes 8 s.tick ++
      natBytes 8 ((dieOf s die).reportSeq.toNat + agentOf h * 2 ^ 32 + 9 * 2 ^ 56) ++
      natBytes 8 e.tpc.toNat ++ natBytes 8 e.rstart.toNat ++ natBytes 8 e.info.toNat ++
      natBytes 8 (x.entryCtx.toNat + field e.cause.toNat 6 0 * 2 ^ 16 + b1 (isH h) * 2 ^ 24 + b1 aborted * 2 ^ 25) ++
      natBytes 8 woff ++ natBytes 8 (if service then e.arg.toNat else 0))

/-- A barrier episode that a hart's strand has passed without issuing its GBAR, forgotten with the strand (R256). -/
def forgetBarrier (s : State) (c : BitVec 16) (h : HartId) : State :=
  match mapFind s.ctxs c.toNat with
  | some x => { s with ctxs := mapPut s.ctxs c.toNat { x with passed := x.passed.filter fun i => i != h.toNat } }
  | none => s

/-- A pre-empted strand that its handler aborts is not saved any more. With no strand of the context saved or running on
the core, what came for it meanwhile is taken again (log entry 80). -/
def forgetSaved (s : State) (core : Nat) (c : BitVec 16) (cls : Bool) : State :=
  match placementOf s core c with
  | none => s
  | some p =>
    let p := if cls then { p with savedH := none } else { p with savedL := none }
    let s := setPlacement s core p
    if p.savedH.isNone ∧ p.savedL.isNone then endAbsence s core c else s

/-- The end of an aborted strand (R433): its stores go to module scope (R321), its weight is written off, what it held is
released, its record freed, the abort reported (R435), and the slot holds no strand. -/
def abortStrand (s : State) (h : HartId) : State :=
  let a := agentOf h
  let x := slotOf s h
  let w := x.wcur.toNat
  let s := flushDirty s a
  let s := if w = 0 then s else emit s (.homeWeightUpdate (.writeOff x.entryCtx w))
  let s := if x.byPreempt then forgetSaved s a x.entryCtx (isH h) else s
  let s := releaseLease (releaseLanes (releaseOslots s h x.entryCtx (fun _ => false)) h) h
  let s := forgetBarrier (endLanding s h) x.entryCtx h
  let s := freeRecord s a x.entryCtx x.crec
  let s := trapReport s h true w
  setSlot s h (emptied (slotOf s h))

/-! ### Returning from an exception (R433) -/

/-- The late failures that a slot has kept, taken up again oldest first: the slot is in user mode again, or its last
LAUNCH status has come (R244, R424). -/
def retryFaults (s : State) (h : HartId) : State :=
  let x := slotOf s h
  { setSlot s h { x with lateFaults := [] } with
    events := (x.lateFaults.map fun f => .lateFault h f.cause f.info f.op) ++ s.events }

/-- The slot back from its switch handler, in user mode. -/
def leftHandler (x : Slot) : Slot :=
  { x with
    sup := false
    inTrap := false
    byPreempt := false
    overwritten := x.overwritten.filter fun o => !o.inTrap }

/-- The request for what a saved strand needs before it resumes: its lanes, which it waits for in the pool's list; with
none it resumes at the next step (R33, R264). A lease and a claim that a handler hands over with the slot are released
first, as all of the area is restored (R433; log entry 108). -/
def requestResume (s : State) (h : HartId) : State :=
  let s := releaseLease (releaseLanes s h) h
  let a := agentOf h
  let x := slotOf s h
  let area := poolRead s a (saveOffset (isH h) x.partw x.pbase) 256
  let l := field (dword area 0x68) 41 33
  let c := clusterOf a
  let s := setSlot s h { leftHandler x with resumed := true, vgrant := Nat.max 1 (l / 32) }
  if l = 0 then emit s (.preemptResume h)
  else
    let k := clusterAt s c
    emit (setCluster s c { k with vwait := k.vwait ++ [⟨h, l / 32, true⟩] }) (.vclaimGrant c)

/-- TRET (R433): an abort when TCAUSE.ABORT is set; on a clerk a return from the save SRAM; on a compute slot a return
from the save area, whole when the entry was a PREEMPT or the handler has handed the slot to another context. -/
def trapReturn (s : State) (h : HartId) : State :=
  let a := agentOf h
  let x := slotOf s h
  match kindOf h with
  | .clerk =>
    let x := restoreScalars (memRead x.save 0 256) x
    setSlot s h { leftHandler x with sup := true }
  | _ =>
    let s := setExchange s h false
    if bitOf x.tcause.toNat 7 then abortStrand s h
    else if x.byPreempt || x.ctx != x.entryCtx then requestResume s h
    else
      let area := poolRead s a (saveOffset (isH h) x.partw x.pbase) 256
      retryFaults (setSlot s h (leftHandler (restoreScalars area x))) h

/-! ### Running a meaning -/

/-- The outcome of a meaning on the executing hart: a trap is taken at the group (R51), once the LAUNCH statuses the
slot awaits have returned (R244); a wait leaves the word unissued and lets a cycle pass. -/
def runOp (op : Op Unit) (s : State) : Host.Outcome State Fault Refusal :=
  match op s with
  | .ok (_, s') => .next s'
  | .error (.trap c info) =>
    if s.cur.launches ≠ 0 then .next { s with cur := unissued s.cur } else .next (takeTrap s s.turn c info (some s.cur.gpc))
  | .error (.constantPage info) =>
    if s.cur.launches ≠ 0 then .next { s with cur := unissued s.cur } else .next (takeRefusal s s.turn info s.cur.gpc)
  | .error (.wait f) => .next (f { s with cur := unissued s.cur })
  | .error (.fault f) => .fault f

/-- The outcome of a step of the machine that no word names: it changes the state and takes no trap of its own. -/
def stepTo (s : State) : Host.Outcome State Fault Refusal := .next s

end Sys2Proof.Machine
end

