-- ==== Sys2Proof/Machine/Access.lean ====
section
/-!
DEFINITION. Data accesses of a hart: the checks in their order, the scratchpad and its window, the L1, loads and stores,
acquires and releases (R172 to R184, R309 to R312, R329).
-/
namespace Sys2Proof.Machine

/-! ### Kinds of access -/

/-- What an access wants of its page. -/
inductive Want where
  | read | write | both | constant
  deriving DecidableEq, Repr

/-- The start of the scratchpad window (R173). -/
def windowBase : Nat := 0xFFFFFF00000000

/-- Where a checked access goes: its place, and whether its line is shared. -/
structure Place where
  loc : Loc
  shared : Bool
  deriving DecidableEq, Repr

/-! ### The scratchpad (R180 to R182) -/

/-- The launch of a hart's context, if known. -/
def launchOf (s : State) (c : BitVec 16) : Option Launch := (ctxOf s c).map (·.rec_)

/-- Whether the context is a gang (R182). -/
def isGang (s : State) (c : BitVec 16) : Bool :=
  match launchOf s c with
  | some r => r.gang
  | none => false

/-- The member count of a context fixed at launch (R252): n × G0, or for a pipeline the cores of its stages; the
groups that GROW adds are not in it (log entry 87). -/
def memberCount (s : State) (c : BitVec 16) : Nat :=
  match ctxOf s c with
  | some x =>
    if x.rec_.pipe then (x.rec_.stages.map (·.cores)).foldl (· + ·) 0 else x.groupCores * x.groups
  | none => 0

/-- The core of a member (R182). -/
def memberCore (s : State) (c : BitVec 16) (m : Nat) : Option Nat :=
  match ctxOf s c with
  | some x => mapFind x.members m
  | none => none

/-- The pool byte that a local address, or the low half of a window address, names, with the checks of R181 and R182 for
`n` bytes. In supervisor mode an address with REMOTE = 0 names the pool byte itself (R426). DESIGN CHOICE (log entry 116):
a member below the member count whose core does not hold the context traps GANG_SCOPE 2, as one that does not exist. -/
def localPlace (va n : Nat) (write : Bool) (kind : Nat) : Op Place := do
  let s ← get
  let x := s.cur
  let la := va % 2 ^ 32
  let core := agentOf s.turn
  let off := la % 2 ^ 18
  let member := field la 30 18
  let fail (r : Nat) : Op Unit := trapWith .protect (memInfo r kind va false)
  if bitOf la 31 then
    require (isGang s x.ctx) .gangScope (memInfo 1 kind va false)
    require (decide (member < memberCount s x.ctx)) .gangScope (memInfo 2 kind va false)
    match memberCore s x.ctx member with
    | none => trapWith .gangScope (memInfo 2 kind va false)
    | some c =>
      match placementOf s c x.ctx with
      | none => trapWith .gangScope (memInfo 2 kind va false)
      | some p =>
        if padSize p.partw < off + n then fail 2
        if write && decide (off < 0x100) then fail 3
        return ⟨.pool c (padBase p.partw p.pbase + off), false⟩
  else
    if member ≠ 0 then fail 4
    if x.sup then return ⟨.pool core off, false⟩
    else
      if padSize x.partw < off + n then fail 2
      if write && decide (off < 0x100) then fail 3
      return ⟨.pool core (padBase x.partw x.pbase + off), false⟩

/-- The place of an LDS or STS access at a + b (R180, R181), and of a lane of VLDS or VSTS, for which bits [63:32] give what
they give LDS by the model's choice (R279; log entry 100). -/
def scratchPlace (ea : W) (n : Nat) (write : Bool) : Op Place := do
  let kind := if write then 1 else 0
  require (ea.toNat % n == 0) .align (memInfo 0 kind ea.toNat false)
  require (decide (ea.toNat < 2 ^ 32)) .protect (memInfo 4 kind ea.toNat false)
  localPlace ea.toNat n write kind

/-! ### The checks of R174 -/

/-- Translation of an address outside the window: its physical address and attributes, or a PAGE or MEMERR trap. -/
def translateOp (kind va : Nat) : Op (Nat × Attrs) := do
  let s ← get
  match translate s s.turn va with
  | .unmapped _ => trapWith .page (memInfo 0 kind va false)
  | .poisoned => trapWith .memerr (memInfo 0 kind va false)
  | .mapped pa _ attrs =>
    set (noteTranslation s s.turn va (.mapped pa 0 attrs))
    return (pa, attrsOf attrs)

/-- The permissions, in the order of R174 and R338. -/
def permitted (kind va : Nat) (want : Want) (sup : Bool) (a : Attrs) : Op Unit := do
  let fail (r : Nat) : Op Unit := trapWith .protect (memInfo r kind va false)
  if !sup && !a.u then fail 0
  if a.k && (want == .write || want == .both) then throw (.constantPage (memInfo 1 kind va false))
  if want == .constant && !a.k then fail 6
  match want with
  | .read => if !a.r then fail 0
  | .constant => if !a.r then fail 0
  | .write => if !a.w then fail 0
  | .both => if !a.r || !a.w then fail 0

/-- The checks of R174 for an access of `n` bytes at an effective address, in their order, and the place it reaches.
`window` says whether the instruction may use the scratchpad window (R173). An atomic, a cell, queue or constant access and a
WAITV are refused in the remote window whatever its page permits (R453). -/
def checkAccess (kind n align : Nat) (want : Want) (window : Bool) (ea : W) : Op Place := do
  let va := ea.toNat % 2 ^ 56
  require (decide (ea.toNat < 2 ^ 56)) .page (memInfo 1 kind va false)
  require (va % align == 0) .align (memInfo 0 kind va false)
  let s ← get
  if windowBase ≤ va then
    require (window && kindOf s.turn == .core) .protect (memInfo 5 kind va false)
    localPlace va n (want == .write || want == .both) kind
  else
    let (pa, a) ← translateOp kind va
    require (!isRemote pa || (window && want != .both)) .protect (memInfo 0 kind va false)
    permitted kind va want s.cur.sup a
    match locOf pa with
    | none => stopWith (.physicalHole pa)
    | some (.remote p) => return ⟨.remote p, true⟩
    | some (.mem ca) => return ⟨.mem ca, a.s || !isDevice pa⟩
    | some l => return ⟨l, true⟩

/-! ### The L1 (R310, R329) -/

/-- Up to the end of its line, bytes of device or host memory as a core's load sees them (R310, R329). Poison ends in
MEMERR (R177, R344). -/
def loadLine (core ca n : Nat) (shared : Bool) (kind va : Nat) : Op (List Byte) := do
  let s ← get
  match l1Line s core ca with
  | some l =>
    set (installLine s core l)
    return slice l.bytes (ca % 32) n
  | none =>
    require (!poisonedMem s ca n) .memerr (memInfo 0 kind va false)
    set (installLine (readHome (countMiss s core) ca 32) core (fetchedLine s s.turn ca shared))
    return slice (memRead s.mem (ca / 32 * 32) 32) (ca % 32) n

/-- Up to the end of its line, bytes of another module's memory. What it holds is free (R453; log entry 8). -/
def remoteLine (core pa n : Nat) : Op (List Byte) := do
  let s ← get
  match l1Line s core pa with
  | some l =>
    set (installLine s core l)
    return slice l.bytes (pa % 32) n
  | none =>
    let bs := remoteBytes s (pa / 32 * 32) 32
    set (installLine (countMiss s core) core ⟨pa / 32, true, false, bs, s.turn⟩)
    return slice bs (pa % 32) n

/-- An acquire of the executing slot at a scope; at core scope nothing is invalidated (R310). -/
def acquire (scope : Nat) : Op Unit := modify fun s =>
  if scope = 0 ∨ kindOf s.turn ≠ .core then s else dropShared s (agentOf s.turn)

/-- A release of the executing slot at a scope. -/
def release (scope : Nat) : Op Unit := modify fun s =>
  if scope = 0 ∨ kindOf s.turn ≠ .core then s else flushDirty s (agentOf s.turn)

/-! ### Loads and stores -/

/-- Whether bytes of two places meet. -/
def placesMeet (p q : Loc × Nat) : Bool :=
  match p, q with
  | (.mem a, n), (.mem b, m) => rangesMeet (a, n) (b, m)
  | (.pool c a, n), (.pool d b, m) => c == d && rangesMeet (a, n) (b, m)
  | (.remote a, n), (.remote b, m) => rangesMeet (a, n) (b, m)
  | (.config a, n), (.config b, m) => rangesMeet (a, n) (b, m)
  | _, _ => false

/-- Whether an append of a hart to some bytes is still to come. -/
def appendMeets (s : State) (h : HartId) (l : Loc) (n : Nat) : Bool :=
  s.events.any fun e => match appendOf e with
    | some (k, _, m, w) => k == h && placesMeet (m, w) (l, n)
    | none => false

/-- Whether a store of the executing hart has still to perform. -/
def storesPending (s : State) : Bool := unacknowledged s s.turn || s.events.any fun e =>
  match e with
  | .storePerform r => r.h == s.turn
  | .remoteStore _ r => r.h == s.turn
  | _ => false

/-- Whether an access of the executing hart, a store, an append or a contribution to a cell, has still to perform. -/
def accessesPending (s : State) : Bool := storesPending s || combining s s.turn || appendsPending s s.turn

/-- A release at any scope performs after every earlier access of the slot (R179, R312). -/
def settleStores : Op Unit := do
  if accessesPending (← get) then waitHere

/-- An access to bytes of a cell waits for the slot's own contributions to it, which leave the combining tree at once
(R311, R399). -/
def settleCells (ca n : Nat) : Op Unit := do
  let s ← get
  let mine := s.combine.filter fun e => (e.from_.any fun f => f.h == s.turn) && (cellPieces e.pa e.kind).any fun q => rangesMeet q (ca, n)
  match mine with
  | [] => pure ()
  | e :: _ => waitWith fun s => emit s (.combineForward e.router e.id)

/-- An access to bytes waits for the slot's own earlier appends and contributions to them (R55, R214, R311). -/
def settleBytes (l : Loc) (n : Nat) : Op Unit := do
  let s ← get
  if appendMeets s s.turn l n then waitHere
  match l with
  | .mem ca => settleCells ca n
  | _ => pure ()

/-- The bytes that a load of `n` bytes reads. Its own earlier stores come first (R311). -/
def loadAt (p : Place) (n kind va : Nat) : Op (List Byte) := do
  let s ← get
  if storesPending s then waitHere
  settleBytes p.loc n
  match p.loc with
  | .mem ca =>
    if kindOf s.turn == .core then
      let parts ← (linePieces n ca n).mapM fun (a, m) => loadLine (agentOf s.turn) a m p.shared kind va
      return parts.flatten
    else
      require (!poisonedMem s ca n) .memerr (memInfo 0 kind va false)
      return memRead s.mem ca n
  | .pool c off =>
    require (!poisonedPool s c off n) .memerr (memInfo 0 kind va false)
    return poolRead s c off n
  | .config off => return natBytes n (configRead s off n)
  | .remote pa =>
    require (!(linkAt s (pa / 2 ^ 44 % 16)).dead) .memerr (memInfo 0 kind va false)
    if kindOf s.turn == .core then
      let parts ← (linePieces n pa n).mapM fun (a, m) => remoteLine (agentOf s.turn) a m
      return parts.flatten
    else return remoteBytes s pa n

/-- A store of bytes by the executing hart to a checked place, behind its own earlier accesses to them (R309, R311). -/
def storeAt (p : Place) (bs : List Byte) : Op Unit := do
  settleBytes p.loc bs.length
  modify fun s => storeOf s s.turn s.cur.ctx p.loc p.shared bs

/-- A plain load of `n` bytes at a virtual address, checked (R174). -/
def loadVa (kind n align : Nat) (ea : W) : Op (List Byte) := do
  let p ← checkAccess kind n align .read true ea
  loadAt p n kind (ea.toNat % 2 ^ 56)

/-- A plain store at a virtual address, checked (R174). -/
def storeVa (kind align : Nat) (ea : W) (bs : List Byte) : Op Unit := do
  let p ← checkAccess kind bs.length align .write true ea
  storeAt p bs

end Sys2Proof.Machine
end

