-- ==== Sys2Proof/Machine/Operands.lean ====
section
/-!
DEFINITION. The operand forms: sources in the order A, B, C, D, stream pops and appends, destinations, results with a
fixed latency and results still to come (R19, R45, R46, R48, R53, R91, R187).
-/
namespace Sys2Proof.Machine

/-! ### Entries by number -/

/-- The queue entry q(i + 1). -/
def qEntry (x : Slot) (i : Nat) : Entry := if h : i < 16 then x.q[i] else ready 0

/-- The named register n(i). -/
def nEntry (x : Slot) (i : Nat) : Entry := if h : i < 8 then x.n[i] else ready 0

/-- The generator of a port. -/
def portOf (x : Slot) (p : BitVec 2) : Stream := x.str[p.toNat]'p.isLt

/-! ### Prefix words -/

/-- The value of k (R19). -/
def kValue (x : Slot) : W :=
  match x.hint with
  | none => 0
  | some k => k.signExtend 64

/-- The value of id (R16). -/
def idValue (h : HartId) : W := h.zeroExtend 64

/-- The word of a prefix directly before the executing word, or zero (R69). -/
def prefixWord (x : Slot) : Nat :=
  match x.modw, x.hint with
  | some m, _ => (Modw.toWord m 0x3E).toNat
  | none, some k => (Hint.toWord ⟨k⟩ 0x3D).toNat
  | none, none => 0

/-- TINFO of ILLEGAL for a word (R69). -/
def illegalInfo (w : Option Word32) (x : Slot) : W :=
  match w with
  | some w => w64 (w.toNat + prefixWord x * 2 ^ 32)
  | none => w64 (prefixWord x * 2 ^ 32)

/-- Traps ILLEGAL for an instruction. -/
def illegalOp {α : Type} (i : Instr) : Op α := do
  trapWith .illegal (illegalInfo (encode i) (← curSlot))

/-- Traps SLOT for an instruction: TINFO[31:0] holds the word (R125, R137). -/
def slotOp {α : Type} (i : Instr) : Op α :=
  trapWith .slot (match encode i with
    | some w => w64 w.toNat
    | none => 0)

/-- An immediate field of `n` bits, extended by a hint word when the group holds one (R48). -/
def immValue {n : Nat} (x : Slot) (f : BitVec n) : W :=
  match x.hint with
  | none => f.signExtend 64
  | some k => (k ++ f).signExtend 64

/-- A branch displacement as a byte distance (R44, R48). -/
def dispBytes {n : Nat} (x : Slot) (f : BitVec n) : Addr :=
  match x.hint with
  | none => f.signExtend 56 * 4
  | some k => (k ++ f).signExtend 56 * 4

/-! ### Streams (R187) -/

/-- TINFO of a trap of a port's state (R175). -/
def portInfo (reason : Nat) (p : BitVec 2) : W := memInfo reason 7 p.toNat false

/-- The address of a generator's next element, once the port may be used (R187): TINFO names the port otherwise. -/
def portAddress (p : BitVec 2) (write : Bool) : Op (Stream × W) := do
  let g := portOf (← curSlot) p
  require g.bound .protect (portInfo 7 p)
  require (g.write == write) .protect (portInfo 9 p)
  require (decide (g.pos < g.count)) .protect (portInfo 8 p)
  return (g, g.base + g.pos.zeroExtend 64 * g.stride)

/-- A generator moved to its next element. -/
def stepPort (p : BitVec 2) (g : Stream) : Op Unit :=
  modCur fun x => { x with str := x.str.set p.toNat { g with pos := g.pos + 1 } p.isLt }

/-- A pop. -/
def popPort (p : BitVec 2) : Op W := do
  let (g, a) ← portAddress p false
  let n := 2 ^ g.size.toNat
  let v := leNat (← loadVa 0 n n a)
  stepPort p g
  return if g.signed then BitVec.ofInt 64 (sextNat (8 * n) v) else w64 v

/-- An append. -/
def appendPort (p : BitVec 2) (v : W) : Op Unit := do
  let (g, a) ← portAddress p true
  let n := 2 ^ g.size.toNat
  storeVa 1 n a (wordBytes n v)
  stepPort p g

/-- Whether an earlier append of a hart to a port is still to come at a cycle. -/
def appendAfter (s : State) (h : HartId) (p : BitVec 2) (cycle : Nat) : Bool :=
  s.events.any fun e => match appendOf e with
    | some (k, q, _) => k == h && q == p && (match resultOf e with
      | some r => decide (cycle < r.due)
      | none => true)
    | none => false

/-- An append whose value comes at a cycle, or later where that is past: the element is taken and checked at issue. One that
would overtake an earlier append of its port is held back (R55). DESIGN CHOICE (log entry 126): the advanced POSITION stays,
and the checkpoint holds it, where the operation later fails and writes no destination (R176). -/
def reserveElement (p : BitVec 2) (cycle : Nat) : Op Dest := do
  let s ← get
  if appendAfter s s.turn p cycle then waitHere
  let (g, a) ← portAddress p true
  let n := 2 ^ g.size.toNat
  let q ← checkAccess 1 n n .write true a
  settleBytes q.loc n
  stepPort p g
  return .stream p q.loc n q.shared

/-! ### Sources (R45, R46) -/

/-- An entry that has been filled; a reader of one still awaited waits (R53). -/
def readEntry (e : Entry) : Op W := if e.tag = 0 then pure e.val else waitHere

/-- The value of a source field; selector 31 is illegal. -/
def readSel (f : Sel) : Op W := do
  let s ← get
  let i := f.toNat
  if i < 16 then readEntry (qEntry s.cur i)
  else if i < 24 then readEntry (nEntry s.cur (i - 16))
  else if i < 28 then popPort (BitVec.ofNat 2 (i - 24))
  else if i = 28 then pure 0
  else if i = 29 then pure (kValue s.cur)
  else if i = 30 then pure (idValue s.turn)
  else trapWith .illegal 0

/-! ### Destinations (R45, R91) -/

/-- Whether a named register, or the iteration buffer's value for it, is still awaited (R55). -/
def awaited (x : Slot) (i : Nat) : Bool :=
  match x.rep with
  | some r => match (r.buf[i]?).join with
    | some e => e.tag != 0
    | none => false
  | none => (nEntry x i).tag != 0

/-- A tag that no result has. -/
def freshTag : Op Nat := do
  let s ← get
  set { s with tags := s.tags + 1 }
  return s.tags

/-- The append of a result that is ready from a cycle on: one that the next word may read is made at once, another at its
cycle, until when a rollback abandons it (R55, R131). -/
def appendResult (p : BitVec 2) (v : W) (cycle : Nat) : Op Unit := do
  let s ← get
  if cycle ≤ s.tick + 1 && !appendAfter s s.turn p 0 then appendPort p v
  else
    let t ← freshTag
    let dst ← reserveElement p cycle
    emitOp (.loadResponse ⟨s.turn, t, dst, v, cycle⟩)

/-- A result ready from a cycle on: pushed, and written or appended as D selects. A write to a register still awaited
waits for it (R55). -/
def produceAt (d : Sel) (v : W) (cycle : Nat) : Op Unit := do
  let i := d.toNat
  let e : Entry := ⟨v, 0, cycle⟩
  let x ← curSlot
  if i = 0 then modCur fun x => { x with q := pushQueue x.q e }
  else if 16 ≤ i ∧ i < 24 then
    if awaited x (i - 16) then waitHere
    let r := BitVec.ofNat 3 (i - 16)
    modify fun s => { s with cur := writeNamed (keepOld { s.cur with q := pushQueue s.cur.q e } s.tick r cycle) r e }
  else if 24 ≤ i ∧ i < 28 then
    modCur fun x => { x with q := pushQueue x.q e }
    appendResult (BitVec.ofNat 2 (i - 24)) v cycle
  else trapWith .illegal 0

/-- A fixed-latency result (R53, R86). -/
def produce (d : Sel) (v : W) (latency : Nat) : Op Unit := do produceAt d v ((← get).tick + latency)

/-- A variable-latency result that is there at once. -/
def produceNow (d : Sel) (v : W) : Op Unit := produceAt d v 0

/-- The queue position of a result still to come, at a cycle or later, and its destination: the tag stands in both until the
value arrives (R53). -/
def reserveBy (cycle : Nat) (d : Sel) : Op (Nat × Dest) := do
  let s ← get
  let t ← freshTag
  let i := d.toNat
  let e : Entry := ⟨0, t, 0⟩
  if i = 0 then
    modCur fun x => { x with q := pushQueue x.q e }
    return (t, .none)
  else if 16 ≤ i ∧ i < 24 then
    let old := nEntry s.cur (i - 16)
    if awaited s.cur (i - 16) then waitHere
    modCur fun x => writeNamed { x with q := pushQueue x.q e } (BitVec.ofNat 3 (i - 16)) ⟨old.val, t, 0⟩
    return (t, .reg (BitVec.ofNat 3 (i - 16)))
  else if 24 ≤ i ∧ i < 28 then
    modCur fun x => { x with q := pushQueue x.q e }
    let dst ← reserveElement (BitVec.ofNat 2 (i - 24)) cycle
    return (t, dst)
  else trapWith .illegal 0

/-- The same for a result whose cycle is not known at issue. -/
def reserve (d : Sel) : Op (Nat × Dest) := reserveBy 0 d

/-- The place a committing word may stand in a delay slot: its advance must leave nPC = PC + 4 (R125). -/
def commitAllowed (x : Slot) : Bool := !inDelaySlot x || x.nnpc == x.npc + 4

/-- The checks on where a committing word stands (R125, R137). -/
def commitPlace (i : Instr) : Op Unit := do
  let x ← curSlot
  if x.rep.isSome || !commitAllowed x then slotOp i

/-- The checks on where a word stands that R88 forbids in a delay slot (R88, R137). -/
def noDelaySlot (i : Instr) : Op Unit := do
  let x ← curSlot
  if x.rep.isSome || inDelaySlot x then slotOp i

end Sys2Proof.Machine
end

