-- ==== Sys2Proof/Machine/Fp.lean ====
section
/-!
DEFINITION. Scalar floating point and conversions (R158 to R171), and the steps that end a division or square root.
-/
namespace Sys2Proof.Machine

/-! ### Mode, result, trap -/

/-- The code of the mode that STATUS.RMODE gives; a reserved code is never the stochastic one (R144; log entry 72). -/
def dynamicMode (x : Slot) : Nat := if x.rmode.toNat < 5 then x.rmode.toNat else (Config.reservedRounding x.rmode).val

/-- The code of the rounding mode of the executing instruction (R144). -/
def modeCode (x : Slot) : Nat :=
  match x.modw with
  | none => dynamicMode x
  | some m => if m.rm = 6 then dynamicMode x else m.rm.toNat

/-- The mode with its draw for a lane; only a stochastic one reads its counter register (R148). -/
def roundingFor (lane : Nat) : Op Rounding := do
  let x ← curSlot
  match modeOfCode (modeCode x) with
  | .sto =>
    let cnt := match x.modw with
      | none => 0
      | some m => m.cnt.toNat
    let c ← readEntry (nEntry x cnt)
    return ⟨.sto, stoDraw x.seed c lane⟩
  | m => return ⟨m, 0⟩

/-- TINFO of an FP trap (R150). -/
def fpInfo (word : Nat) (tripped raised : BitVec 5) : W :=
  w64 (word * 2 ^ 32 + tripped.toNat * 2 ^ 8 + raised.toNat)

/-- The word of an instruction. -/
def wordOf (i : Instr) : Nat := match encode i with
  | some w => w.toNat
  | none => 0

/-- The flags of an operation of a fixed latency: they trap when one is enabled, and otherwise reach FPFLAGS when the
result is written (R149, R150). -/
def raiseFlags (word : Nat) (latency : Nat) (flags : BitVec 5) : Op Unit := do
  let s ← get
  require (flags &&& s.cur.fpte == 0) .fp (fpInfo word (flags &&& s.cur.fpte) flags)
  modCur fun x => addFlags x s.tick (s.tick + latency) flags

/-- The end of an instruction with a fixed latency. The traps of an append come before an FP trap (R158, R424). -/
def fpResult (i : Instr) (st : BitVec 3) (d : Sel) (latency : Nat) (v : W) (flags : BitVec 5) : Op Unit := do
  produce d v latency
  raiseFlags (wordOf i) latency flags
  finish st

/-! ### Shapes -/

/-- A two-source instruction of a format. -/
def fpBinary (i : Instr) (x : FRRR) (latency : Nat) (f : FpFmt → Nat → Nat → FpResult) : Op Unit := do
  let a ← readSel x.a
  let b ← readSel x.b
  let r := f (fmtOf x.fmt) a.toNat b.toNat
  fpResult i x.st x.d latency (w64 r.bits) r.flags

/-- A two-source instruction that rounds. -/
def fpRounded (i : Instr) (x : FRRR) (latency : Nat) (f : FpFmt → Rounding → FpVal → FpVal → FpResult) : Op Unit := do
  let a ← readSel x.a
  let b ← readSel x.b
  let m ← roundingFor 0
  let r := f (fmtOf x.fmt) m (unpack (fmtOf x.fmt) a.toNat) (unpack (fmtOf x.fmt) b.toNat)
  fpResult i x.st x.d latency (w64 r.bits) r.flags

/-- FADD (R159). -/
def execFadd (x : FRRR) : State → Host.Outcome State Fault Refusal := runOp do
  fpRounded (.fadd x) x 4 fun f m a b => sumFp f m [a, b]

/-- FSUB (R159). -/
def execFsub (x : FRRR) : State → Host.Outcome State Fault Refusal := runOp do
  fpRounded (.fsub x) x 4 fun f m a b => sumFp f m [a, b.negate]

/-- FMUL (R159). -/
def execFmul (x : FRRR) : State → Host.Outcome State Fault Refusal := runOp do
  fpRounded (.fmul x) x 4 fun f m a b => roundVal f m (mulVal a b)

/-! ### Division and square root (R160, R161) -/

/-- Whether a value is finite and not zero. -/
def FpVal.ordinary : FpVal → Bool
  | .fin _ _ _ => true
  | _ => false

/-- The cycles of a division, or of a square root, in a format (R160); a special result takes 4. -/
def fpCycles (fmt : BitVec 2) (root special : Bool) : Nat :=
  if special then 4
  else match fmt.toNat with
    | 0 => if root then 26 else 22
    | 1 => if root then 14 else 12
    | _ => 8

/-- An FP trap of a variable-latency instruction of the executing slot, kept until its cycle (R161). -/
def keepTrap (i : Instr) (cycles : Nat) (divides : Bool) (flags : BitVec 5) : Op Unit := do
  let s ← get
  modCur fun x => { x with fpTraps := x.fpTraps ++
    [⟨s.tick + cycles, x.gpc, fpInfo (wordOf i) (flags &&& x.fpte) flags, divides⟩] }

/-- Whether the FP divide unit of a hart's slot is at work (R160). -/
def fpDividing (s : State) (h : HartId) : Bool :=
  (slotOf s h).fpTraps.any (·.divides) || s.events.any fun e => match e with
    | .fpDivideComplete q _ => q.h == h
    | _ => false

/-- Whether a variable-latency FP instruction of a hart has neither written its result nor trapped: a commit waits for it
(R161). -/
def fpPending (s : State) (h : HartId) : Bool := fpDividing s h || !(slotOf s h).fpTraps.isEmpty

/-- The end of an instruction of the FP divide unit: the result or the trap follows after its cycles, and a second one
waits until the unit is free. -/
def fpVariable (i : Instr) (st : BitVec 3) (d : Sel) (cycles : Nat) (r : FpResult) : Op Unit := do
  let s ← get
  if fpDividing s s.turn then waitHere
  let (tag, dest) ← reserveBy (s.tick + cycles) d
  if r.flags &&& s.cur.fpte = 0 then
    emitOp (.fpDivideComplete ⟨s.turn, tag, dest, w64 r.bits, s.tick + cycles⟩ r.flags)
  else keepTrap i cycles true r.flags
  finish st

/-- FDIV (R159, R160). -/
def execFdiv (x : FRRR) : State → Host.Outcome State Fault Refusal := runOp do
  let a ← readSel x.a
  let b ← readSel x.b
  let m ← roundingFor 0
  let f := fmtOf x.fmt
  let u := unpack f a.toNat
  let v := unpack f b.toNat
  fpVariable (.fdiv x) x.st x.d (fpCycles x.fmt false !(u.ordinary && v.ordinary)) (divFp f m u v)

/-- FSQRT (R159, R160). -/
def execFsqrt (x : FRR) : State → Host.Outcome State Fault Refusal := runOp do
  let a ← readSel x.a
  let m ← roundingFor 0
  let f := fmtOf x.fmt
  let u := unpack f a.toNat
  fpVariable (.fsqrt x) x.st x.d (fpCycles x.fmt true (!u.ordinary || u.neg)) (sqrtFp f m u)

/-- FP_DIVIDE_COMPLETE (R160): the result and its flags are written. -/
def execFpDivideComplete (r : Delivery) (flags : BitVec 5) (s : State) : Host.Outcome State Fault Refusal :=
  let s := deliver s r
  let x := slotOf s r.h
  stepTo (setSlot s r.h { x with fpflags := x.fpflags ||| flags })

/-- FP_LATE_TRAP (R161): the trap is taken when the result would be ready, with the instruction's group in TPC. -/
def execFpLateTrap (h : HartId) (tpc : Addr) (info : W) (s : State) : Host.Outcome State Fault Refusal :=
  stepTo (takeTrap s h .fp info (some tpc))

/-! ### Minimum, maximum, sign (R163, R164) -/

/-- FMIN (R163). -/
def execFmin (x : FRRR) : State → Host.Outcome State Fault Refusal := runOp do
  fpBinary (.fmin x) x 2 fun f a b => minMaxFp f false false a b
/-- FMAX (R163). -/
def execFmax (x : FRRR) : State → Host.Outcome State Fault Refusal := runOp do
  fpBinary (.fmax x) x 2 fun f a b => minMaxFp f true false a b
/-- FMINN (R163). -/
def execFminn (x : FRRR) : State → Host.Outcome State Fault Refusal := runOp do
  fpBinary (.fminn x) x 2 fun f a b => minMaxFp f false true a b
/-- FMAXN (R163). -/
def execFmaxn (x : FRRR) : State → Host.Outcome State Fault Refusal := runOp do
  fpBinary (.fmaxn x) x 2 fun f a b => minMaxFp f true true a b

/-- A value's bits in its format with another sign bit. -/
def withSign (f : FpFmt) (v : Nat) (neg : Bool) : Nat := v % f.signBit + b1 neg * f.signBit

/-- FABS (R164). -/
def execFabs (x : FRR) : State → Host.Outcome State Fault Refusal := runOp do
  let a ← readSel x.a
  produce x.d (w64 (withSign (fmtOf x.fmt) a.toNat false)) 1
  finish x.st

/-- FNEG (R164). -/
def execFneg (x : FRR) : State → Host.Outcome State Fault Refusal := runOp do
  let a ← readSel x.a
  let f := fmtOf x.fmt
  produce x.d (w64 (withSign f a.toNat (!bitOf a.toNat (f.width - 1)))) 1
  finish x.st

/-- FSGN (R164). -/
def execFsgn (x : FRRR) : State → Host.Outcome State Fault Refusal := runOp do
  let a ← readSel x.a
  let b ← readSel x.b
  let f := fmtOf x.fmt
  produce x.d (w64 (withSign f a.toNat (bitOf b.toNat (f.width - 1)))) 1
  finish x.st

/-- FRND (R165). -/
def execFrnd (x : FRR) : State → Host.Outcome State Fault Refusal := runOp do
  let a ← readSel x.a
  let m ← roundingFor 0
  let r := integralFp (fmtOf x.fmt) m a.toNat
  fpResult (.frnd x) x.st x.d 3 (w64 r.bits) r.flags

/-! ### Fused instructions (R162) -/

/-- a × b + c with the product or the addend negated, rounded once. -/
def fused (i : Instr) (x : FX) (negProduct negAddend : Bool) : Op Unit := do
  let a ← readSel x.a
  let b ← readSel x.b
  let c ← readSel x.c
  let m ← roundingFor 0
  let f := if x.single = 1 then fp32 else fp64
  let p := mulVal (unpack f a.toNat) (unpack f b.toNat)
  let d := unpack f c.toNat
  let r := sumFp f m [if negProduct then p.negate else p, if negAddend then d.negate else d]
  fpResult i x.st x.d 5 (w64 r.bits) r.flags

/-- FMA (R162). -/
def execFma (x : FX) : State → Host.Outcome State Fault Refusal := runOp do fused (.fma x) x false false
/-- FMS (R162). -/
def execFms (x : FX) : State → Host.Outcome State Fault Refusal := runOp do fused (.fms x) x false true
/-- FNMA (R162). -/
def execFnma (x : FX) : State → Host.Outcome State Fault Refusal := runOp do fused (.fnma x) x true false

/-! ### Conversions (R168 to R170) -/

/-- The FP format of a kind code 000 to 011 (R77). -/
def fpKind (c : BitVec 3) : FpFmt := fmtOf (c.setWidth 2)

/-- The integer kind of a kind code 100 to 111 (R77). -/
def intKind (c : BitVec 3) : IntKind := ⟨if 6 ≤ c.toNat then 64 else 32, c.toNat % 2 == 0⟩

/-- FCVT (R168). -/
def execFcvt (x : Cvt) : State → Host.Outcome State Fault Refusal := runOp do
  let a ← readSel x.a
  let m ← roundingFor 0
  let r := roundVal (fpKind x.dst) m (unpack (fpKind x.src) a.toNat)
  fpResult (.fcvt x) x.st x.d 3 (w64 r.bits) r.flags

/-- FCVTI (R169): a 32-bit signed result is sign-extended, an unsigned one zero-extended. -/
def execFcvti (x : Cvt) : State → Host.Outcome State Fault Refusal := runOp do
  let a ← readSel x.a
  let m ← roundingFor 0
  let r := toIntFp (intKind x.dst) m (unpack (fpKind x.src) a.toNat)
  fpResult (.fcvti x) x.st x.d 3 (BitVec.ofInt 64 r.val) r.flags

/-- ICVTF (R170). -/
def execIcvtf (x : Cvt) : State → Host.Outcome State Fault Refusal := runOp do
  let a ← readSel x.a
  let m ← roundingFor 0
  let r := roundVal (fpKind x.dst) m (intVal (intOfBits (intKind x.src) a.toNat))
  fpResult (.icvtf x) x.st x.d 3 (w64 r.bits) r.flags

/-! ### Comparisons and class (R166, R167) -/

/-- FCMPEQ (R166). -/
def execFcmpeq (x : FRRR) : State → Host.Outcome State Fault Refusal := runOp do
  fpBinary (.fcmpeq x) x 2 fun f a b => compareFp f .eq a b
/-- FCMPLT (R166). -/
def execFcmplt (x : FRRR) : State → Host.Outcome State Fault Refusal := runOp do
  fpBinary (.fcmplt x) x 2 fun f a b => compareFp f .lt a b
/-- FCMPLE (R166). -/
def execFcmple (x : FRRR) : State → Host.Outcome State Fault Refusal := runOp do
  fpBinary (.fcmple x) x 2 fun f a b => compareFp f .le a b
/-- FCMPUN (R166). -/
def execFcmpun (x : FRRR) : State → Host.Outcome State Fault Refusal := runOp do
  fpBinary (.fcmpun x) x 2 fun f a b => compareFp f .un a b

/-- FCLASS (R167). -/
def execFclass (x : FRR) : State → Host.Outcome State Fault Refusal := runOp do
  let a ← readSel x.a
  produce x.d (w64 (classFp (fmtOf x.fmt) a.toNat)) 2
  finish x.st

end Sys2Proof.Machine
end

