-- ==== Sys2Proof/Machine/Work.lean ====
section
/-!
DEFINITION. Which work a core has for a slot of a class (R219, R223 to R226, R235, R376).
-/
namespace Sys2Proof.Machine

/-! ### Handler entries (R219) -/

/-- The invalid entry. -/
def HEntry.zero : HEntry := ⟨0, false, false, false, 0, false, 0⟩

/-- The entry in a 16-byte image. -/
def entryOfBytes (bs : List Byte) : HEntry :=
  let hi := dword bs 8
  { pc := BitVec.ofNat 56 (dword bs 0), valid := bitOf hi 31, mask := bitOf hi 30, cls := bitOf hi 29
    level := BitVec.ofNat 3 (field hi 28 26), sup := bitOf hi 25, landing := BitVec.ofNat 18 (field hi 17 0) }

/-- Bytes 8 to 15 of an entry's image. -/
def entryHigh (e : HEntry) : Nat :=
  e.landing.toNat + b1 e.sup * 2 ^ 25 + e.level.toNat * 2 ^ 26 + b1 e.cls * 2 ^ 29 + b1 e.mask * 2 ^ 30 +
    b1 e.valid * 2 ^ 31

/-- Whether an image's reserved bits are zero (R219). DESIGN CHOICE (log entry 117): bits [1:0] of PC, which R219 says are
zero, count as reserved bits, also in an image with VALID = 0. -/
def entryReservedOk (bs : List Byte) : Bool :=
  field (dword bs 0) 63 56 == 0 && field (dword bs 0) 1 0 == 0 && field (dword bs 8) 63 32 == 0 &&
    field (dword bs 8) 24 18 == 0

/-- Whether the LANDING of a valid entry meets R219 and lies within a scratchpad of `size` bytes (R220). -/
def landingOk (e : HEntry) (size : Nat) : Bool :=
  !e.valid || (e.sup && e.landing == 0) ||
    (e.landing.toNat % 256 == 0 && decide (0x100 ≤ e.landing.toNat) && decide (e.landing.toNat < size))

/-- The entry of a channel on a placement. -/
def entryAt (p : Placement) (ch : Nat) : HEntry := (p.htab[ch]?).getD HEntry.zero

/-! ### What a slot may start -/

/-- The work a slot can take (R376). -/
inductive Work where
  | saved
  | message (i : Nat)
  | record
  deriving DecidableEq, Repr

/-- Whether a push names an operand slot that a command waiting for the array has still to read: its data order as OLD data
do (R304, R393). -/
def slotStillRead (k : Cluster) (target : W) : Bool :=
  bitOf target.toNat 63 && k.cmdQ.any fun m => m.slotA == field target.toNat 26 19 || m.slotB == field target.toNat 26 19

/-- Whether a message of a placed context may start a handler now: its channel's entry valid and unmasked, its landing
region free (R223, R225), the operand slot of a push free to write (R393); a root start waits for none of them (R364). -/
def deliverable (c : Cluster) (p : Placement) (m : Msg) : Bool :=
  let e := entryAt p m.channel.toNat
  match m.kind with
  | .root _ _ _ _ _ => true
  | .push _ t => e.valid && !e.mask && !slotStillRead c t
  | .plain => e.valid && !e.mask && (!p.heldCh.contains m.channel || (e.sup && e.landing == 0))

/-- The class of the strand a message starts: true for H. -/
def classOf (p : Placement) (m : Msg) : Bool :=
  match m.kind with
  | .root _ _ _ c _ => c
  | _ => (entryAt p m.channel.toNat).cls

/-- The level at which it starts. -/
def levelOf (p : Placement) (m : Msg) : Nat :=
  match m.kind with
  | .root _ _ _ _ _ => 0
  | _ => (entryAt p m.channel.toNat).level.toNat

/-- Whether a message is a root start. -/
def isRoot (m : Msg) : Bool :=
  match m.kind with
  | .root _ _ _ _ _ => true
  | _ => false

/-- The messages of a context that may start a strand of a class, with their places in the interface: of each channel
only the first to have arrived (R226). -/
def candidates (c : Cluster) (p : Placement) (cls : Bool) : List (Nat × Msg) → List (BitVec 6) → List (Nat × Msg)
  | [], _ => []
  | (i, m) :: ms, seen =>
    if m.ctx ≠ p.ctx then candidates c p cls ms seen
    else if isRoot m then
      if classOf p m == cls then (i, m) :: candidates c p cls ms seen else candidates c p cls ms seen
    else if seen.contains m.channel then candidates c p cls ms seen
    else if deliverable c p m && classOf p m == cls then (i, m) :: candidates c p cls ms (m.channel :: seen)
    else candidates c p cls ms (m.channel :: seen)

/-- How far a channel stands after the pointer, going round. -/
def afterPtr (ptr : Option Nat) (ch : Nat) : Nat :=
  match ptr with
  | none => ch
  | some q => (ch + 63 - q) % 64

/-- The key of the round-robin pointer of a class and level (R376). -/
def ptrKey (cls : Bool) (level : Nat) : Nat := b1 cls * 8 + level

/-- The message to start: the highest level first, then round-robin by channel (R376). -/
def bestMessage (c : Cluster) (k : Core) (p : Placement) (cls : Bool) : Option Nat :=
  let ms := candidates c p cls (k.ni.zipIdx.map fun q => (q.2, q.1)) []
  let rank (q : Nat × Msg) : Nat :=
    (7 - levelOf p q.2) * 64 + afterPtr (mapFind k.chanPtr (ptrKey cls (levelOf p q.2))) q.2.channel.toNat
  let best := ms.foldl (fun acc q =>
    match acc with
    | none => some q
    | some b => if rank q < rank b then some q else some b) none
  best.map (·.1)

/-- Whether the context's free-record queue holds a record, as a core finds it (R235). -/
def freeRecordReady (s : State) (core : Nat) (c : BitVec 16) : Bool := (deqFor s core c (freeQueue s c)).isSome

/-- The record address at the head of the ready queue whose PRIO matches a class (R376). A poisoned record is not read
(R344; log entry 91). -/
def headRecord (s : State) (core : Nat) (c : BitVec 16) (cls : Bool) : Option (W × Nat × State) :=
  match deqFor s core c (readyQueue s c) with
  | none => none
  | some (v, s') =>
    match recordLoc s core c v with
    | none => none
    | some ca =>
      if bitOf (leNat (memRead s.mem ca 8)) 61 == cls && !poisonedMem s ca 64 then some (v, ca, s') else none

/-- The work of a context on a core for a slot of a class, in the order of R376. -/
def workOf (s : State) (core : Nat) (p : Placement) (cls : Bool) : Option Work :=
  let saved := if cls then p.savedH else p.savedL
  if saved.isSome then some .saved
  else
    match bestMessage (clusterAt s (clusterOf core)) (coreOf s core) p cls with
    | some i => if freeRecordReady s core p.ctx then some (.message i)
        else if (headRecord s core p.ctx cls).isSome then some .record else none
    | none => if (headRecord s core p.ctx cls).isSome then some .record else none

/-- The placements of a core in increasing context number, those after the last context run first (R376). -/
def visitOrder (k : Core) (cls : Bool) : List Placement :=
  let insert (p : Placement) (l : List Placement) : List Placement :=
    l.filter (fun q => q.ctx < p.ctx) ++ p :: l.filter (fun q => p.ctx < q.ctx)
  let sorted := k.placements.foldl (fun l p => insert p l) []
  match if cls then k.lastH else k.lastL with
  | none => sorted
  | some c => sorted.filter (fun p => c < p.ctx) ++ sorted.filter (fun p => p.ctx ≤ c)

/-- The virtual addresses that a look for work of a class in a context walks: the free-record queue when a message waits, and
the ready queue with the record at its head. -/
def lookWalks (s : State) (core : Nat) (p : Placement) (cls : Bool) : List Nat :=
  let ready := deqWalks s core p.ctx (readyQueue s p.ctx) ++ (match deqFor s core p.ctx (readyQueue s p.ctx) with
    | some (v, _) => [v.toNat]
    | none => [])
  if (if cls then p.savedH else p.savedL).isSome then []
  else if (bestMessage (clusterAt s (clusterOf core)) (coreOf s core) p cls).isSome then
    deqWalks s core p.ctx (freeQueue s p.ctx) ++ (if freeRecordReady s core p.ctx then [] else ready)
  else ready

/-- The contexts and addresses of the looks of a core's empty slots that meet a malformed entry and have not been reported
since the core last found work (R337; log entry 95). -/
def badLooks (s : State) (core : Nat) : List (BitVec 16 × Nat) :=
  let k := coreOf s core
  let classes := [true, false].filter fun cls => !(slotOf s (hartOf core cls)).live
  let looks := classes.flatMap fun cls => k.placements.flatMap fun p => (lookWalks s core p cls).map fun va => (p.ctx, va)
  looks.dedup.filter fun l => !k.noted.contains l && walkMalformed s (agentRoot s core l.1) l.2

/-- The context that a slot of a class now runs noted as the one it ran last (R376). -/
def noteRun (s : State) (core : Nat) (cls : Bool) (c : BitVec 16) : State :=
  let k := coreOf s core
  setCore s core (if cls then { k with lastH := some c, noted := [] } else { k with lastL := some c, noted := [] })

/-- The context and work a slot of a class takes when it holds no strand (R376). -/
def chooseWork (s : State) (core : Nat) (cls : Bool) : Option (Placement × Work) :=
  (visitOrder (coreOf s core) cls).findSome? fun p => (workOf s core p cls).map fun w => (p, w)

/-- Whether a context other than `c` has work of a class on the core (R379). -/
def otherContextWork (s : State) (core : Nat) (c : BitVec 16) (cls : Bool) : Bool :=
  (coreOf s core).placements.any fun p => p.ctx != c && (workOf s core p cls).isSome

/-- The L strand is due for rotation: it has held the slot for 4,096 cycles and other L work is there (R378). A switch
handler is no strand's code, and is not rotated (log entry 73). -/
def rotationDue (s : State) (h : HartId) : Bool :=
  let x := slotOf s h
  kindOf h == .core && !isH h && x.live && !(x.sup && x.inTrap) && decide (4096 ≤ s.clock - x.runAt) &&
    (chooseWork s (agentOf h) false).isSome

/-- At an RGN commit or a waiting SPINW: a rotation that is due follows, and the slot issues nothing before it (R378). -/
def rotateIfDue (s : State) : State := if rotationDue s s.turn then { s with cur := { s.cur with rotate := true } } else s

end Sys2Proof.Machine
end

