-- ==== Sys2Proof/Machine/Control.lean ====
section
/-!
DEFINITION. Branches, calls, regions, repeats and prefix words (R48 to R51, R114 to R139).
-/
namespace Sys2Proof.Machine

/-! ### Branches (R119 to R121) -/

/-- A word that R137 forbids in a REP body. -/
def notInBody (i : Instr) : Op Unit := do
  if (← curSlot).rep.isSome then slotOp i

/-- A conditional branch: both sources are read whether it is taken or not (R119). -/
def branch (i : Instr) (x : Br) (cond : W → W → Bool) : Op Unit := do
  notInBody i
  let y ← curSlot
  let a ← readSel x.a
  let b ← readSel x.b
  finishBranch x.st (cond a b) (x.nul == 1) (y.pc + dispBytes y x.disp)

/-- BEQ (R44, R119). -/
def execBeq (x : Br) : State → Host.Outcome State Fault Refusal := runOp (branch (.beq x) x fun a b => a == b)
/-- BNE (R44, R119). -/
def execBne (x : Br) : State → Host.Outcome State Fault Refusal := runOp (branch (.bne x) x fun a b => a != b)
/-- BLT (R44, R119). -/
def execBlt (x : Br) : State → Host.Outcome State Fault Refusal := runOp (branch (.blt x) x fun a b => a.slt b)
/-- BGE (R44, R119). -/
def execBge (x : Br) : State → Host.Outcome State Fault Refusal := runOp (branch (.bge x) x fun a b => b.sle a)
/-- BLTU (R44, R119). -/
def execBltu (x : Br) : State → Host.Outcome State Fault Refusal := runOp (branch (.bltu x) x fun a b => a.ult b)
/-- BGEU (R44, R119). -/
def execBgeu (x : Br) : State → Host.Outcome State Fault Refusal := runOp (branch (.bgeu x) x fun a b => b.ule a)

/-- B (R120). -/
def execB (x : BrL) : State → Host.Outcome State Fault Refusal := runOp do
  notInBody (.b x)
  let y ← curSlot
  finishBranch x.st true false (y.pc + dispBytes y x.disp)

/-- CALL (R120): the link, past both delay slots, is pushed and written to n7. -/
def execCall (x : BrL) : State → Host.Outcome State Fault Refusal := runOp do
  notInBody (.call x)
  let y ← curSlot
  produce 23 ((y.pc + 12).zeroExtend 64) 1
  finishBranch x.st true false (y.pc + dispBytes y x.disp)

/-- JR (R121): an address that is no word address traps ALIGN. -/
def execJr (x : A1) : State → Host.Outcome State Fault Refusal := runOp do
  notInBody (.jr x)
  let a ← readSel x.a
  require (a.toNat % 4 == 0 && decide (a.toNat < 2 ^ 56)) .align a
  finishBranch x.st true false (a.setWidth 56)

/-- NOP (R122). -/
def execNop (x : N0) : State → Host.Outcome State Fault Refusal := runOp (finish x.st)

/-- BRK (R122): traps BREAK as it issues, with the word in TINFO. -/
def execBrk (x : N0) : State → Host.Outcome State Fault Refusal := runOp do
  trapWith .brk (match encode (.brk x) with
    | some w => w64 w.toNat
    | none => 0)

/-! ### Regions (R123 to R127) -/

/-- RGN (R126). -/
def execRgn (x : N0) : State → Host.Outcome State Fault Refusal := runOp do
  noDelaySlot (.rgn x)
  finishCommit x.st
  modify rotateIfDue

/-- RGN.INC (R127): the addition and the commit are one step; nothing is pushed. -/
def execRgnInc (x : DI) : State → Host.Outcome State Fault Refusal := runOp do
  noDelaySlot (.rgnInc x)
  let y ← curSlot
  let i := x.d.toNat - 16
  let v ← readEntry (nEntry y i)
  modCur fun z => { z with n := z.n.setIfInBounds i (ready (v + immValue y x.imm)) }
  finishCommit x.st
  modify rotateIfDue

/-! ### Repeats (R135, R136) -/

/-- The slot at an address, with words following in sequence. -/
def seqFrom (pc : Addr) (x : Slot) : Slot := { x with pc := pc, npc := pc + 4, nnpc := pc + 8 }

/-- REP (R135): with a count of zero it commits past its body; otherwise it commits with RSTART at its own group and the
body's first iteration begins. -/
def execRep (x : Rep) : State → Host.Outcome State Fault Refusal := runOp do
  noDelaySlot (.rep x)
  let y ← curSlot
  let i := x.a.toNat - 16
  let count ← readEntry (nEntry y i)
  let len := x.len1.toNat + 1
  let body := y.pc + 4
  finish x.st
  modify fun s =>
    let commit := commitSlot s.module.frozen.isSome s.tags
    if count = 0 then
      { s with cur := commit (seqFrom (body + BitVec.ofNat 56 (4 * len)) s.cur) }
    else
      let r : Repeat := ⟨y.gpc, body, len, BitVec.ofNat 3 i, Vector.replicate 8 none⟩
      { s with cur := { commit s.cur with rstart := y.gpc, rep := some r } }

/-- The named registers with an iteration buffer applied: each value keeps the cycle from which it may be read (R53). -/
def applyBuffer (buf : Vector (Option Entry) 8) (n : Vector Entry 8) : Vector Entry 8 :=
  Vector.zipWith (fun b e => b.getD e) buf n

/-- The count register of a REP at the end of an iteration: the buffered value, if the body wrote it (R135). -/
def countEntry (r : Repeat) (x : Slot) : Entry := (r.buf[r.reg.toNat]'r.reg.isLt).getD (nEntry x r.reg.toNat)

/-- REP_ITERATION (R135): the end of an iteration of the executing slot. The count falls by one, the buffer is applied,
the region commits; the body runs again, or the slot goes on past it. -/
def repIteration (s : State) : State :=
  let x := s.cur
  match x.rep with
  | none => s
  | some r =>
    let e := countEntry r x
    let count := e.val - 1
    let x := { x with n := (applyBuffer r.buf x.n).set r.reg.toNat { e with val := count } r.reg.isLt }
    let commit := commitSlot s.module.frozen.isSome s.tags
    if count = 0 then { s with cur := commit (seqFrom x.pc { x with rep := none }) }
    else
      let x := commit (seqFrom r.body { x with rep := some { r with buf := Vector.replicate 8 none } })
      { s with cur := { x with rstart := r.group } }

/-- Whether the commit of an iteration waits: for its count, or for an FP result or trap of the region (R53, R161). -/
def iterationWaits (s : State) : Bool :=
  fpPending s s.turn || (match s.cur.rep with
    | some r => (countEntry r s.cur).tag != 0
    | none => false)

/-- Whether the executing slot has come to the end of its REP body. -/
def atBodyEnd (x : Slot) : Bool :=
  match x.rep with
  | some r => x.pc == r.body + BitVec.ofNat 56 (4 * r.len)
  | none => false

/-! ### Prefix words (R48 to R51) -/

/-- The slot after a prefix word: it takes an issue cycle and a delay slot of its own, and pushes nothing. -/
def afterPrefix (tick : Nat) (x : Slot) : Slot :=
  { advance x none with prev2 := x.prev1, prev1 := .none, earliest := tick + 1 }

/-- HINT (R48): the payload waits for the instruction of the group. -/
def execHint (x : Hint) : State → Host.Outcome State Fault Refusal := runOp do
  modify fun s => { s with cur := { afterPrefix s.tick s.cur with hint := some x.kimm } }

/-- MODIFIER (R49). -/
def execModifier (x : Modw) : State → Host.Outcome State Fault Refusal := runOp do
  modify fun s => { s with cur := { afterPrefix s.tick s.cur with modw := some x } }

/-! ### Groups that do not execute (R69, R71, R443) -/

/-- ILLEGAL (R69): the word and the prefix word directly before it. -/
def execIllegal (word before : Word32) : State → Host.Outcome State Fault Refusal :=
  runOp (trapWith .illegal (w64 (word.toNat + before.toNat * 2 ^ 32)))

/-- FETCH_FAULT (R340, R443): taken at the boundary at which the group would issue. -/
def execFetchFault (cause : Cause) (info : W) : State → Host.Outcome State Fault Refusal :=
  runOp (trapWith cause info)

end Sys2Proof.Machine
end

