-- ==== Sys2Proof/Machine/Memory.lean ====
section
/-!
DEFINITION. Loads, stores, the constant path, streams, cache maintenance, block move and fill (R172 to R194), and the
steps in which loads answer, stores perform and late faults are taken.
-/
namespace Sys2Proof.Machine

/-! ### Loads and stores (R178, R179) -/

/-- The effective address of an M-form word (R43, R48, R172). -/
def formAddress {n : Nat} (a : W) (x : Slot) (off : BitVec n) (sz : BitVec 2) : W :=
  a + immValue x off * w64 (2 ^ sz.toNat)

/-- A load's end: the value is fixed, its position taken, and the response follows (R53, R178). -/
def answerLoad (st : BitVec 3) (d : Sel) (bs : List Byte) (due : Nat) : Op Unit := do
  let (tag, dest) ← reserveBy due d
  emitOp (.loadResponse ⟨(← get).turn, tag, dest, leWord bs, due⟩)
  finish st

/-- LD (R178). -/
def execLd (x : Mem) : State → Host.Outcome State Fault Refusal := runOp do
  let y ← curSlot
  let a ← readSel x.a
  let n := 2 ^ x.sz.toNat
  let bs ← loadVa 0 n n (formAddress a y x.off x.sz)
  answerLoad x.st x.d bs 0

/-- ST (R178): the data is read after the base. -/
def execSt (x : Mem) : State → Host.Outcome State Fault Refusal := runOp do
  let y ← curSlot
  let a ← readSel x.a
  let v ← readSel x.d
  let n := 2 ^ x.sz.toNat
  storeVa 1 n (formAddress a y x.off x.sz) (wordBytes n v)
  finish x.st

/-- LD.ACQ (R179): the shared lines are discarded in one step as it performs. -/
def execLdAcq (x : MemS) : State → Host.Outcome State Fault Refusal := runOp do
  let y ← curSlot
  let a ← readSel x.a
  let n := 2 ^ x.sz.toNat
  let ea := formAddress a y x.off x.sz
  let p ← checkAccess 0 n n .read true ea
  acquire (x.sc.toNat + 1)
  let bs ← loadAt p n 0 (ea.toNat % 2 ^ 56)
  answerLoad x.st x.d bs 0

/-- ST.REL (R179): it performs after every earlier access of the slot. -/
def execStRel (x : MemS) : State → Host.Outcome State Fault Refusal := runOp do
  let y ← curSlot
  let a ← readSel x.a
  let v ← readSel x.d
  let n := 2 ^ x.sz.toNat
  let p ← checkAccess 1 n n .write true (formAddress a y x.off x.sz)
  settleStores
  release (x.sc.toNat + 1)
  storeAt p (wordBytes n v)
  finish x.st

/-! ### Scratchpad and constant path (R180 to R184) -/

/-- The cycle before which an LDS has no value: its own core's pool answers after three cycles (R444). -/
def scratchDue (s : State) (p : Place) : Nat :=
  match p.loc with
  | .pool c _ => if c = agentOf s.turn then s.tick + 3 else 0
  | _ => 0

/-- LDS (R180, R444). -/
def execLds (x : RRRz) : State → Host.Outcome State Fault Refusal := runOp do
  let a ← readSel x.a
  let b ← readSel x.b
  let n := 2 ^ x.sz.toNat
  let p ← scratchPlace (a + b) n false
  let bs ← loadAt p n 0 (a + b).toNat
  answerLoad x.st x.d bs (scratchDue (← get) p)

/-- STS (R180). -/
def execSts (x : RRRz) : State → Host.Outcome State Fault Refusal := runOp do
  let a ← readSel x.a
  let b ← readSel x.b
  let v ← readSel x.d
  let n := 2 ^ x.sz.toNat
  let p ← scratchPlace (a + b) n true
  storeAt p (wordBytes n v)
  finish x.st

/-- The line of a constant cache that holds a canonical address. -/
def constantLine (s : State) (c ca : Nat) : Option CodeLine := (clusterAt s c).ccache.find? fun l => l.line == ca / 32

/-- A cluster's constant cache with the line of an address filled from its home, of 2,048 lines (R332). -/
def fillConstant (s : State) (c ca : Nat) : State :=
  let s := readHome s ca 32
  let k := clusterAt s c
  let l : CodeLine := ⟨ca / 32, memRead s.mem (ca / 32 * 32) 32, []⟩
  setCluster s c { k with ccache := (l :: k.ccache).take 2048 }

/-- Bytes of a constant page: a core reads them through its cluster's constant cache, an engine at their home (R183,
R332). Poison ends in MEMERR (R344). -/
def loadConstant (ca n va : Nat) : Op (List Byte) := do
  let s ← get
  let c := clusterOf (agentOf s.turn)
  let held := if kindOf s.turn == .core then constantLine s c ca else none
  match held with
  | some l => return slice l.bytes (ca % 32) n
  | none =>
    require (!poisonedMem s ca n) .memerr (memInfo 0 3 va false)
    if kindOf s.turn == .core && !poisonedMem s (ca / 32 * 32) 32 then set (fillConstant s c ca)
    return memRead s.mem ca n

/-- LDK (R183). No store can make what it reads differ from memory (R184). -/
def execLdk (x : RRRz) : State → Host.Outcome State Fault Refusal := runOp do
  let a ← readSel x.a
  let b ← readSel x.b
  let n := 2 ^ x.sz.toNat
  let va := (a + b).toNat % 2 ^ 56
  let p ← checkAccess 3 n n .constant false (a + b)
  match p.loc with
  | .mem ca =>
    let bs ← loadConstant ca n va
    answerLoad x.st x.d bs 0
  | _ =>
    let bs ← loadAt p n 3 va
    answerLoad x.st x.d bs 0

/-! ### Streams (R185 to R190) -/

/-- SBIND (R186). -/
def execSbind (x : Sb) : State → Host.Outcome State Fault Refusal := runOp do
  let a ← readSel x.a
  let bs ← loadVa 6 32 32 a
  let m := dword bs 24
  let base := dword bs 0
  let n := 2 ^ (m % 4)
  require (decide (m < 16) && base % n == 0 && dword bs 8 % n == 0 && decide (base < 2 ^ 56)) .protect
    (memInfo 10 6 a.toNat false)
  let g := { streamOfBytes (slice bs 0 24 ++ natBytes 8 (m + 16)) with bound := true }
  modCur fun y => { y with str := y.str.set x.port.toNat g x.port.isLt }
  finish x.st

/-- SCLOSE (R189). -/
def execSclose (x : Sc) : State → Host.Outcome State Fault Refusal := runOp do
  modCur fun y => { y with str := y.str.set x.port.toNat Stream.closed x.port.isLt }
  finish x.st

/-- SPOS (R189): 0 for a closed port. -/
def execSpos (x : Sp) : State → Host.Outcome State Fault Refusal := runOp do
  let g := portOf (← curSlot) x.port
  produce x.d (if g.bound then g.pos.zeroExtend 64 else 0) 1
  finish x.st

/-! ### Prefetch and cache maintenance (R191, R192) -/

/-- The line of a mapped page requested into a core's L1 (R191): one that is readable memory enters it. -/
def prefetchLine (s : State) (pa attrs : Nat) : State :=
  let core := agentOf s.turn
  match locOf pa with
  | some (.mem ca) =>
    match l1Line s core ca with
    | some l => installLine s core l
    | none =>
      if poisonedMem s (ca / 32 * 32) 32 then s
      else installLine (readHome s ca 32) core (fetchedLine s s.turn ca ((attrsOf attrs).s || !isDevice pa))
  | _ => s

/-- PREF (R191): the window alone traps (R173; log entries 17 and 77). -/
def execPref (x : A1) : State → Host.Outcome State Fault Refusal := runOp do
  let a ← readSel x.a
  let va := a.toNat
  require (!(decide (windowBase ≤ va) && decide (va < 2 ^ 56))) .protect (memInfo 5 0 va false)
  modify fun s =>
    if va < 2 ^ 56 ∧ kindOf s.turn = .core then
      let r := translate s s.turn va
      let s := noteTranslation s s.turn va r
      match r with
      | .mapped pa _ attrs => prefetchLine s pa attrs
      | _ => s
    else s
  finish x.st

/-- The parts of a range of bytes below the scratchpad window, one in each page of 64 KiB (log entry 23). -/
def pageParts (va len : Nat) : List (Nat × Nat) :=
  let last := Nat.min (va + len) windowBase
  if last ≤ va then []
  else (List.range ((last - 1) / 65536 + 1 - va / 65536)).map fun i =>
    let lo := Nat.max va ((va / 65536 + i) * 65536)
    (lo, Nat.min last ((va / 65536 + i + 1) * 65536) - lo)

/-- The numbers of the L1 lines that `n` bytes of one page overlap, by the physical address of the first. -/
def pageLines (pa n : Nat) : List Nat :=
  (List.range ((pa + n - 1) / 32 + 1 - pa / 32)).filterMap fun i =>
    match locOf ((pa / 32 + i) * 32) with
    | some (.mem ca) => some (ca / 32)
    | some (.remote p) => some (p / 32)
    | _ => none

/-- The lines of one part of a range (R192, R212, R338): a page that is not mapped has none, uncorrectable data met by its
walk ends in MEMERR, and where `remote` is false a page of another module is refused (R453). No permission is checked, which
is the model's choice (R174; log entry 96). -/
def partLines (remote : Bool) (q : Nat × Nat) : Op (List Nat) := do
  let s ← get
  let r := translate s s.turn q.1
  set (noteTranslation s s.turn q.1 r)
  match r with
  | .mapped pa _ _ =>
    match regionOf pa with
    | .remote _ _ => require remote .protect (memInfo 0 1 q.1 false)
    | _ => pure ()
    return pageLines pa q.2
  | .poisoned => trapWith .memerr (memInfo 0 1 q.1 false)
  | .unmapped _ => return []

/-- The checks on a range, and its mapped lines (R173, R174, R192; log entry 77). -/
def rangeLines (remote : Bool) (a len : W) : Op (List Nat) := do
  if len = 0 then return []
  else
    let va := a.toNat % 2 ^ 56
    require (decide (a.toNat < 2 ^ 56)) .page (memInfo 1 1 va false)
    require (decide (va < windowBase)) .protect (memInfo 5 1 va false)
    let ls ← (pageParts va len.toNat).mapM (partLines remote)
    return ls.flatten

/-- The word waits for the slot's own appends to some lines (R212, R214). -/
def settleLines (lines : List Nat) : Op Unit := do
  let s ← get
  let meets (l : Loc) (n : Nat) : Bool :=
    lines.any fun i => placesMeet (.mem (i * 32), 32) (l, n) || placesMeet (.remote (i * 32), 32) (l, n)
  if s.events.any fun e => match appendOf e with
    | some (h, _, l, n) => h == s.turn && meets l n
    | none => false then waitHere

/-- WB (R192). -/
def execWb (x : AB) : State → Host.Outcome State Fault Refusal := runOp do
  let a ← readSel x.a
  let b ← readSel x.b
  let ls ← rangeLines true a b
  settleLines ls
  modify fun s => cleanLines s (agentOf s.turn) ls false
  finish x.st

/-- INV (R192). -/
def execInv (x : AB) : State → Host.Outcome State Fault Refusal := runOp do
  let a ← readSel x.a
  let b ← readSel x.b
  let ls ← rangeLines true a b
  settleLines ls
  modify fun s => cleanLines s (agentOf s.turn) ls true
  finish x.st

/-! ### Block move and fill (R193, R194) -/

/-- The chunk of an iteration. -/
def chunkSize (d : Nat) (a : Option Nat) (left : Nat) : Nat :=
  let al (n : Nat) : Bool := d % n == 0 && (match a with
    | some a => a % n == 0
    | none => true)
  if al 32 ∧ 32 ≤ left then 32 else if al 8 ∧ 8 ≤ left then 8 else 1

/-- An iteration committed with RSTART at its own group, which executes again (R138). -/
def againAtGroup : Op Unit := modify fun s =>
  let y := seqFrom s.cur.gpc s.cur
  let x := { y with hint := none, modw := none, prev1 := .none, prev2 := .none, earliest := s.tick + 1 }
  { s with cur := { commitSlot s.module.frozen.isSome s.tags x with iters := s.cur.iters + 1 } }

/-- A named register given a value at once. -/
def setNamed (f : Sel) (v : W) : Op Unit :=
  modCur fun x => { x with n := x.n.setIfInBounds (f.toNat - 16) (ready v) }

/-- The value of a named register. -/
def named (f : Sel) : Op W := do readEntry (nEntry (← curSlot) (f.toNat - 16))

/-- BMOVE (R193): one iteration. -/
def execBmove (x : RRR) : State → Host.Outcome State Fault Refusal := runOp do
  noDelaySlot (.bmove x)
  let a ← named x.a
  let b ← named x.b
  let d ← named x.d
  if b = 0 then finishCommit x.st
  else
    let c := chunkSize d.toNat (some a.toNat) b.toNat
    let t ← loadVa 4 c c a
    storeVa 4 c d t
    let n := w64 c
    setNamed x.d (d + n)
    setNamed x.a ((← named x.a) + n)
    setNamed x.b ((← named x.b) - n)
    againAtGroup

/-- The bytes of a fill chunk: byte x takes byte x mod 8 of the pattern. -/
def fillBytes (d : Nat) (b : W) (c : Nat) : List Byte :=
  (List.range c).map fun i => BitVec.ofNat 8 (b.toNat / 2 ^ (8 * ((d + i) % 8)))

/-- BFILL (R194): one iteration. -/
def execBfill (x : RRR) : State → Host.Outcome State Fault Refusal := runOp do
  noDelaySlot (.bfill x)
  let a ← named x.a
  let b ← readSel x.b
  let d ← named x.d
  if a = 0 then finishCommit x.st
  else
    let c := chunkSize d.toNat none a.toNat
    storeVa 4 c d (fillBytes d.toNat b c)
    setNamed x.d (d + w64 c)
    setNamed x.a ((← named x.a) - w64 c)
    againAtGroup

/-! ### Steps -/

/-- LOAD_RESPONSE (R53): the value fills its queue position and its destination. The append of a fixed-latency result comes
the same way, at its cycle (R131). -/
def execLoadResponse (r : Delivery) (s : State) : Host.Outcome State Fault Refusal := stepTo (deliver s r)

/-- The open batches of a core that took bytes of a store, with the hart that waits for their updates (R415). -/
def markWriter (s : State) (core off n : Nat) (h : HartId) : State :=
  let k := coreOf s core
  let mark (q : Nat × Publisher) : Nat × Publisher :=
    match q.2.batch, placementOf s core q.2.ctx with
    | some (line, _, _), some p =>
      if rangesMeet (padBase p.partw p.pbase + q.2.base + line, 32) (off, n) then
        (q.1, { q.2 with writers := h :: q.2.writers })
      else q
    | _, _ => q
  if k.pubs.isEmpty ∨ agentOf h = core then s else setCore s core { k with pubs := k.pubs.map mark }

/-- STORE_PERFORM (R309): the store performs at its home or pool; onto cell bytes it is a failed store (R203). -/
def execStorePerform (r : StoreReq) (s : State) : Host.Outcome State Fault Refusal :=
  match r.loc with
  | .mem ca =>
    if touchesCell s ca r.bytes.length then stepTo (failStore s r.h false true false)
    else
      let s := homeWrite (performedBy s r.h ca r.bytes) ca r.bytes
      stepTo (if kindOf r.h = .core then updateResident s (agentOf r.h) ca r.bytes else s)
  | .pool c off => stepTo (markWriter (poolPerform s c off r.bytes) c off r.bytes.length r.h)
  | .config _ => stepTo s
  | .remote _ => stepTo s

/-- The late failure of a hart that an operation in flight brings. -/
def faultOf (h : HartId) : Event → Option LateFault
  | .lateFault h' c i o => if h' = h then some ⟨c, i, o⟩ else none
  | _ => none

/-- A late failure among others, the failures of older operations before it (R424). -/
def insertFault (f : LateFault) (l : List LateFault) : List LateFault :=
  l.takeWhile (fun g => decide (g.op.age ≤ f.op.age)) ++ f :: l.dropWhile fun g => decide (g.op.age ≤ f.op.age)

/-- A late failure kept until the slot can take it. -/
def holdFault (s : State) (h : HartId) (f : LateFault) : State :=
  let x := slotOf s h
  setSlot s h { x with lateFaults := insertFault f x.lateFaults }

/-- The trap of the oldest late failure that a slot keeps, with the failing group in TPC. -/
def takeOldest (s : State) (h : HartId) : State :=
  let x := slotOf s h
  match x.lateFaults with
  | [] => s
  | f :: fs => takeTrap (setSlot s h { x with lateFaults := fs }) h f.cause f.info (some f.op.tpc)

/-- LATE_FAULT (R176, R424): taken at the boundary after the response, that of the oldest operation first. Trap entry waits
for the LAUNCH statuses still on their way (R244), and the failures that come with this one wait until the slot is in user
mode again. One of supervisor code is a crash (R439). -/
def execLateFault (h : HartId) (cause : Cause) (info : W) (op : IssueMark) (s : State) : Host.Outcome State Fault Refusal :=
  if kindOf h = .core ∧ (slotOf s h).sup then stepTo (takeTrap s h cause info (some op.tpc))
  else
    let s := holdFault s h ⟨cause, info, op⟩
    if (slotOf s h).launches ≠ 0 then stepTo s
    else
      let others := s.events.filterMap (faultOf h)
      let s := { s with events := s.events.filter fun e => (faultOf h e).isNone }
      stepTo (takeOldest (others.foldl (fun s f => holdFault s h f) s) h)

/-- MISS_MERGE_WINDOW (R330): merging read misses changes neither values nor order. -/
def execMissMergeWindow (_cluster : Nat) (s : State) : Host.Outcome State Fault Refusal := stepTo s

end Sys2Proof.Machine
end

