-- ==== Sys2Proof/Machine/Atomics.lean ====
section
/-!
DEFINITION. Atomics, queues, fences and code publication (R195 to R198, R204 to R213), and the steps in which they
perform at their homes.
-/
namespace Sys2Proof.Machine

/-! ### Issue -/

/-- The lines of a place, in memory or in the remote window, leave the issuing core's L1 (R311). -/
def evictPlace (l : Loc) (n : Nat) : Op Unit := modify fun s =>
  match l with
  | .mem ca => evictOf s s.turn ca n
  | .remote pa => evictOf s s.turn pa n
  | _ => s

/-- The trap of a committing word at its home, taken when its response returns (R176), which is before a later word of the slot
issues. -/
def lateTrap (s : State) (h : HartId) (c : Cause) (reason kind : Nat) (va : Addr) (op : IssueMark) : State :=
  emit s (.lateFault h c (memInfo reason kind va.toNat true) op)

/-- An atomic's issue (R195 to R197): the checks pass, the operation is shipped to its home, the word commits. -/
def shipAtomic (st : BitVec 3) (d : Sel) (a b c : W) (size : Nat) (op : AtomOp) : Op Unit := do
  let p ← checkAccess 2 size size .both true a
  settleBytes p.loc size
  evictPlace p.loc size
  let (tag, dest) ← reserve d
  let s ← get
  emitOp (.homeAtomic ⟨s.turn, tag, dest, s.cur.gpc, a.setWidth 56, p.loc, size, op, b, c, s.cur.sup⟩)
  finishCommit st

/-- An AMO (R195). -/
def amo (i : Instr) (x : Amo) (op : AtomOp) : Op Unit := do
  commitPlace i
  let a ← readSel x.a
  let b ← readSel x.b
  shipAtomic x.st x.d a b 0 (if x.wide = 1 then 8 else 4) op

/-- AMO.ADD (R195). -/
def execAmoAdd (x : Amo) : State → Host.Outcome State Fault Refusal := runOp do amo (.amoAdd x) x .add
/-- AMO.AND (R195). -/
def execAmoAnd (x : Amo) : State → Host.Outcome State Fault Refusal := runOp do amo (.amoAnd x) x .and
/-- AMO.OR (R195). -/
def execAmoOr (x : Amo) : State → Host.Outcome State Fault Refusal := runOp do amo (.amoOr x) x .or
/-- AMO.XOR (R195). -/
def execAmoXor (x : Amo) : State → Host.Outcome State Fault Refusal := runOp do amo (.amoXor x) x .xor
/-- AMO.MIN (R195). -/
def execAmoMin (x : Amo) : State → Host.Outcome State Fault Refusal := runOp do amo (.amoMin x) x .min
/-- AMO.MAX (R195). -/
def execAmoMax (x : Amo) : State → Host.Outcome State Fault Refusal := runOp do amo (.amoMax x) x .max
/-- AMO.MINU (R195). -/
def execAmoMinu (x : Amo) : State → Host.Outcome State Fault Refusal := runOp do amo (.amoMinu x) x .minu
/-- AMO.MAXU (R195). -/
def execAmoMaxu (x : Amo) : State → Host.Outcome State Fault Refusal := runOp do amo (.amoMaxu x) x .maxu
/-- AMO.SWAP (R195). -/
def execAmoSwap (x : Amo) : State → Host.Outcome State Fault Refusal := runOp do amo (.amoSwap x) x .swap

/-- CAS (R196). -/
def execCas (x : Cas) : State → Host.Outcome State Fault Refusal := runOp do
  commitPlace (.cas x)
  let a ← readSel x.a
  let b ← readSel x.b
  let c ← readSel x.c
  shipAtomic x.st x.d a b c (if x.wide = 1 then 8 else 4) .cas

/-! ### At the home (R195 to R197, R432) -/

/-- The new value of a word of `bits` bits. -/
def atomNew (op : AtomOp) (bits old b c : Nat) : Nat :=
  let y := b % 2 ^ bits
  let less := decide (sextNat bits old < sextNat bits y)
  match op with
  | .add => (old + y) % 2 ^ bits
  | .and => old &&& y
  | .or => old ||| y
  | .xor => old ^^^ y
  | .min => if less then old else y
  | .max => if less then y else old
  | .minu => Nat.min old y
  | .maxu => Nat.max old y
  | .swap => y
  | .cas => if old = c % 2 ^ bits then y else old

/-- The physical addresses of a canonical address: of bonded DRAM the vault-direct and the interleaved one (R327). -/
def physNames (ca : Nat) : List Nat :=
  match regionOf ca with
  | .bonded v o =>
    let w := v % 64 ^^^ (o / 256 % 64)
    [ca, 0x8000000000 + v / 64 * 2 ^ 37 + (o / 256 * 64 + w) * 256 + o % 256]
  | _ => [ca]

/-- The context and the field, 0 TOTAL, 1 AT_HOME or 2 LOST, whose doubleword in a home record lies at a canonical
address, by the home-record base of some die (R38, R349). -/
def homeField (s : State) (ca : Nat) : Option (BitVec 16 × Nat) :=
  (List.range 4).findSome? fun d =>
    let base := (dieOf s d).hrbase.toNat
    (physNames ca).findSome? fun pa =>
      let c : BitVec 16 := BitVec.ofNat 16 ((pa - base) / 32)
      if base ≤ pa then
        (List.range 3).findSome? fun f => if canonPa (homeRecord s c + 8 * f) = ca then some (c, f) else none
      else none

/-- A borrow, a return or a write-off by an AMO.ADD.64 in supervisor mode (R432): the old value, or all ones for a mint
that would take TOTAL above 2^48 - 1. -/
def homeFieldAdd (s : State) (c : BitVec 16) (f b : Nat) : W × State :=
  match f with
  | 0 => match mintWeight s c b with
    | some s' => (w64 (totalOf s c), s')
    | none => (allOnes, s)
  | 1 => (w64 (atHomeOf s c), returnWeight s c b)
  | _ => (w64 (lostOf s c), writeOffWeight s c b)

/-- HOME_ATOMIC (R197): the whole read, change and write as one step, and the response. The issuer's L1 gives up the bytes'
lines before it (R311). -/
def execHomeAtomic (r : AtomicReq) (s : State) : Host.Outcome State Fault Refusal :=
  let answer (s : State) (v : W) : State := deliver s ⟨r.h, r.tag, r.dest, v, 0⟩
  let new (old : Nat) : List Byte := natBytes r.size (atomNew r.op (8 * r.size) old r.b.toNat r.c.toNat)
  let write (old : Nat) : Bool := r.op != .cas || old == r.c.toNat % 2 ^ (8 * r.size)
  match r.loc with
  | .mem ca =>
    let s := evictOf s r.h ca r.size
    if touchesCell s ca r.size then stepTo (lateTrap s r.h .xcell 3 2 r.va ⟨r.tpc, r.tag⟩)
    else if poisonedMem s ca r.size then stepTo (lateTrap s r.h .memerr 0 2 r.va ⟨r.tpc, r.tag⟩)
    else
      let home := if r.sup && r.op == .add && r.size == 8 then homeField s ca else none
      match home with
      | some (c, f) =>
        let (v, s) := homeFieldAdd s c f r.b.toNat
        stepTo (answer s v)
      | none =>
        let old := leNat (memRead s.mem ca r.size)
        let s := touchHome s ca r.size false false
        stepTo (answer (if write old then homeWrite (performedBy s r.h ca (new old)) ca (new old) else s) (w64 old))
  | .pool c off =>
    if poisonedPool s c off r.size then stepTo (lateTrap s r.h .memerr 0 2 r.va ⟨r.tpc, r.tag⟩)
    else
      let old := leNat (poolRead s c off r.size)
      let s := if write old then markWriter (poolPerform s c off (new old)) c off r.size r.h else s
      stepTo (answer s (w64 old))
  | .config off =>
    let old := configRead s off r.size
    let s := if write old && r.size == 8 then emit s (.configRegisterWrite off (leWord (new old)) false) else s
    stepTo (answer s (w64 old))
  | .remote _ => stepTo s

/-! ### Queues (R204 to R207) -/

/-- A queue instruction's issue: the header's checks pass, the operation is shipped to the header's home (R204). It waits for
the slot's appends and its contributions to cells, which may be to the ring (R311; log entry 104). -/
def shipQueue (st : BitVec 3) (d : Sel) (a b c : W) (op : QueueOp) : Op Unit := do
  let p ← checkAccess 2 64 64 .both false a
  let pa ← match p.loc with
    | .mem ca => pure ca
    | .config off => pure (0x200000000000 + off)
    | _ => trapWith .protect (memInfo 0 2 (a.toNat % 2 ^ 56) false)
  settleBytes p.loc 64
  if appendsPending (← get) (← get).turn || combining (← get) (← get).turn then waitHere
  evictPlace p.loc 64
  let (tag, dest) ← reserve d
  let s ← get
  emitOp (.homeQueueOperation ⟨s.turn, tag, dest, s.cur.gpc, a.setWidth 56, pa, rootOf s s.turn, s.cur.sup, op, b, c⟩)
  finishCommit st

/-- ENQ (R205). -/
def execEnq (x : RRR) : State → Host.Outcome State Fault Refusal := runOp do
  commitPlace (.enq x)
  let a ← readSel x.a
  let b ← readSel x.b
  shipQueue x.st x.d a b 0 .enq

/-- DEQ (R205). -/
def execDeq (x : RR) : State → Host.Outcome State Fault Refusal := runOp do
  commitPlace (.deq x)
  let a ← readSel x.a
  shipQueue x.st x.d a 0 0 .deq

/-- SEQENQ (R206). -/
def execSeqenq (x : RRRR) : State → Host.Outcome State Fault Refusal := runOp do
  commitPlace (.seqenq x)
  let a ← readSel x.a
  let b ← readSel x.b
  let c ← readSel x.c
  shipQueue x.st x.d a b c .seqenq

/-- SEQDEQ (R206). -/
def execSeqdeq (x : RR) : State → Host.Outcome State Fault Refusal := runOp do
  commitPlace (.seqdeq x)
  let a ← readSel x.a
  shipQueue x.st x.d a 0 0 .seqdeq

/-- What a queue operation answers at its home (R205, R206). -/
def queueAnswer (s : State) (l : Loc) (root : Nat) (sup : Bool) (op : QueueOp) (b c : Nat) : QAnswer :=
  match op with
  | .enq => enqHome s l root sup b
  | .deq => deqHome s l root sup
  | .seqenq => seqenqHome s l root sup b c
  | .seqdeq => seqdeqHome s l root sup

/-- The header in use at its home slice (R331). -/
def touchHeader (s : State) (l : Loc) : State :=
  match l with
  | .mem ca => touchHome s ca 64 false true
  | _ => s

/-- The lines of a queue header leave the issuer's L1 before the operation at its home: what the core has stored there since
the issue goes first (R311). -/
def evictHeader (s : State) (h : HartId) : Loc → State
  | .mem ca => evictOf s h ca 64
  | _ => s

/-- The ring entry of a queue operation leaves the issuer's L1 before the operation reaches it (R311). -/
def evictEntry (s : State) (h : HartId) (l : Loc) (root : Nat) (sup : Bool) (op : QueueOp) (c : Nat) : State :=
  let q := qheaderOf (headerBytes s l)
  match entryOf s root sup q op c with
  | .ok ca => evictOf s h ca (ringEntry q op c).2
  | .error _ => s

/-- HOME_QUEUE_OPERATION (R205, R206): the whole operation with its ring access as one step, and the response. A refusal
names the ring address where the ring is at fault, and the header otherwise. DESIGN CHOICE (log entry 115): a header or a
ring slot that lies in the bytes of a cell is read and written like any other; R203 names no queue operation. -/
def execHomeQueueOperation (r : QueueReq) (s : State) : Host.Outcome State Fault Refusal :=
  let l := unitLoc r.pa
  let s := evictHeader s r.h l
  if headerPoisoned s l then stepTo (lateTrap s r.h .memerr 0 2 r.va ⟨r.tpc, r.tag⟩)
  else
    let s := touchHeader (evictEntry s r.h l r.root r.sup r.op r.c.toNat) l
    match queueAnswer s l r.root r.sup r.op r.b.toNat r.c.toNat with
    | .refuse c reason ring =>
      stepTo (lateTrap (noteRing s l r.root ring) r.h c reason 2 (BitVec.ofNat 56 (ring.getD r.va.toNat)) ⟨r.tpc, r.tag⟩)
    | .value v s' =>
      let s' := deliver s' ⟨r.h, r.tag, r.dest, w64 v, 0⟩
      stepTo (if r.op = .enq ∧ v = 0 then afterEnq s' l else s')

/-! ### Fences and code publication (R209 to R213) -/

/-- FENCE (R209, R211): at cluster scope or wider, store kinds write back the dirty private lines, load kinds discard
the shared ones, and the core's batches close. The status follows. -/
def execFence (x : Fence) : State → Host.Outcome State Fault Refusal := runOp do
  commitPlace (.fence x)
  let loads := bitOf x.kinds.toNat 3 || bitOf x.kinds.toNat 2
  let stores := bitOf x.kinds.toNat 1 || bitOf x.kinds.toNat 0
  if stores && (storesPending (← get) || appendsPending (← get) (← get).turn) then waitHere
  if combining (← get) (← get).turn then waitHere
  if stores then release x.scope.toNat
  if loads then acquire x.scope.toNat
  if x.scope ≠ 0 then modify fun s => if kindOf s.turn = .core then closeBatches s (agentOf s.turn) else s
  let (tag, dest) ← reserve x.d
  emitOp (.fenceComplete ⟨(← get).turn, tag, dest, 0, 0⟩ stores)
  finishCommit x.st

/-- The status word (R210). -/
def fenceStatus (f : Failed) : Nat :=
  Nat.min f.count 255 * 256 + b1 f.woff * 4 + b1 f.refused * 2 + b1 f.deadlink

/-- Whether a store of a hart has still to perform. -/
def storesOf (s : State) (h : HartId) : Bool := s.events.any fun e => match e with
  | .storePerform r => r.h == h
  | .remoteStore _ r => r.h == h
  | _ => false

/-- FENCE_COMPLETE (R209, R210): the status is pushed once every earlier access has performed or failed, and the failures
it reports are cleared. -/
def execFenceComplete (r : Delivery) (storeKinds : Bool) (s : State) : Host.Outcome State Fault Refusal :=
  if storeKinds ∧ storesOf s r.h then stepTo (emit s (.fenceComplete r storeKinds))
  else
    let x := slotOf s r.h
    let v := w64 (fenceStatus x.failed)
    stepTo (deliver (setSlot s r.h { x with failed := ⟨0, false, false, false⟩ }) { r with val := v })

/-- Whether a core lies in a scope around an agent (R308). DESIGN CHOICE (log entry 132): a clerk or a carter lies in no cluster
and reaches no core at core or cluster scope. -/
def inScope (a : Nat) (scope : Nat) (core : Nat) : Bool :=
  match scope with
  | 0 => a == core
  | 1 => (match kindOfAgent a with
    | .core => clusterOf a == clusterOf core
    | .porter => a - 2048 == clusterOf core
    | _ => false)
  | 2 => dieOfAgent a == dieOfAgent core
  | _ => true

/-- CPUB (R212; log entry 77). -/
def execCpub (x : ABs) : State → Host.Outcome State Fault Refusal := runOp do
  let a ← readSel x.a
  let b ← readSel x.b
  let ls ← rangeLines false a b
  settleLines ls
  emitOp (.cpubComplete (← curAgent) x.scope ls)
  finish x.st

/-- CPUB_COMPLETE (R212): dirty copies within the scope are written back, and the range leaves every instruction cache
within it. -/
def execCpubComplete (core : Nat) (scope : BitVec 3) (lines : List Nat) (s : State) : Host.Outcome State Fault Refusal :=
  let cores := (s.cores.map (·.1)).filter (inScope core scope.toNat)
  let s := cores.foldl (fun s c => cleanLines s c lines false) s
  let drop (s : State) (c : Nat) : State :=
    let k := coreOf s c
    setCore s c { k with icache := k.icache.filter fun l => !lines.contains (2 * l.line) && !lines.contains (2 * l.line + 1) }
  stepTo (cores.foldl drop s)

/-- ISYNC (R213): every later word is fetched after it. The model fetches a word when its group issues, so no word
fetched before is left to discard. -/
def execIsync (x : N0) : State → Host.Outcome State Fault Refusal := runOp (finish x.st)

end Sys2Proof.Machine
end

