-- ==== Sys2Proof/Machine/Cells.lean ====
section
/-!
DEFINITION. Exact cells (R153, R155 to R157, R199 to R203, R462) and the combining tree (R399).
-/
namespace Sys2Proof.Machine

/-! ### Values and cells (R153, R155, R156) -/

/-- The width of a cell's accumulator in bits. -/
def accBits : CellKind → Nat
  | .xa32 => 504
  | .xa64 => 2552

/-- The exponent of the weight of its bit 0. -/
def cellExp : CellKind → Int
  | .xa32 => -149
  | .xa64 => -1074

/-- The value of an element word (R152, R153). -/
def elementVal (b : Nat) : FpVal :=
  let p := Nat.min (field b 18 16 + 2) 8
  let x := sextNat 8 b / 2 ^ (8 - p)
  if x = 0 then .zero false else .fin (decide (x < 0)) x.natAbs ((field b 15 8 : Nat) - 127 + (8 - p : Nat))

/-- The value that XADD adds, by the format of its F field, and the kind of cell it accepts (R200). -/
def addend (fmt : BitVec 3) (b : W) : CellKind × FpVal :=
  match fmt.toNat with
  | 0 => (.xa64, unpack fp64 b.toNat)
  | 1 => (.xa32, unpack fp32 b.toNat)
  | 2 => (.xa32, unpack fp16 b.toNat)
  | 3 => (.xa32, unpack bf16 b.toNat)
  | 4 => (.xa32, intVal (sextNat 32 b.toNat))
  | _ => (.xa32, elementVal b.toNat)

/-- A value as a cell of its own: the accumulator in units of bit 0, and the flags PINF, NINF, NAN, OVF. -/
def contribution (k : CellKind) : FpVal → CellValue
  | .nan _ => ⟨0, 4⟩
  | .inf false => ⟨0, 1⟩
  | .inf true => ⟨0, 2⟩
  | .zero _ => ⟨0, 0⟩
  | .fin n m e => ⟨inUnits (cellExp k) (.fin n m e), 0⟩

/-- CellAdd (R156), of a partial sum with its flags. -/
def cellAdd (k : CellKind) (c v : CellValue) : CellValue :=
  let t := c.acc + v.acc
  let w := accBits k
  let out := decide (t < -(2 ^ (w - 1))) || decide (2 ^ (w - 1) ≤ t)
  ⟨sextNat w (t % 2 ^ w).toNat, c.flags ||| v.flags ||| (if out then 8 else 0)⟩

/-- The bytes of a cell. -/
def cellImage (k : CellKind) (v : CellValue) : List Byte :=
  natBytes (accBits k / 8) (v.acc % 2 ^ accBits k).toNat ++ [v.flags.zeroExtend 8]

/-- The cell that bytes hold. -/
def cellOfBytes (k : CellKind) (bs : List Byte) : CellValue :=
  ⟨sextNat (accBits k) (leNat (bs.take (accBits k / 8))), BitVec.ofNat 4 (leNat (slice bs (accBits k / 8) 1))⟩

/-- The cell declared at a physical address, if any, with the address that declared it. -/
def cellAt (s : State) (pa : Nat) : Option (Nat × CellKind) := s.cells.find? fun c => canonPa c.1 == canonPa pa

/-- A cell's bytes written at its home (R309). -/
def writeCell (s : State) (pa : Nat) (bs : List Byte) : State :=
  let put (acc : State × List Byte) (q : Nat × Nat) : State × List Byte :=
    (homeWrite acc.1 q.1 (acc.2.take q.2), acc.2.drop q.2)
  ((unitPieces 3 pa bs.length).foldl put (s, bs)).1

/-- Whether a cell's bytes are poisoned. -/
def cellPoisoned (s : State) (pa : Nat) (k : CellKind) : Bool := (cellPieces pa k).any fun q => poisonedMem s q.1 q.2

/-! ### Read-out (R157) -/

/-- A cell read out into the format of an F field: the value pushed and the flags (R157, R201). -/
def readOut (k : CellKind) (c : CellValue) (fmt : BitVec 3) (mode : RMode) : W × BitVec 5 :=
  let bad := bitOf c.flags.toNat 2 || bitOf c.flags.toNat 3 || (bitOf c.flags.toNat 0 && bitOf c.flags.toNat 1)
  let pinf := bitOf c.flags.toNat 0
  let ninf := bitOf c.flags.toNat 1
  let v : FpVal :=
    if bad then .nan true else if pinf then .inf false else if ninf then .inf true
    else if c.acc = 0 then .zero false else .fin (decide (c.acc < 0)) c.acc.natAbs (cellExp k)
  match fmt.toNat with
  | 4 =>
    let r := toIntFp ⟨32, true⟩ ⟨mode, 0⟩ v
    (BitVec.ofInt 64 r.val, r.flags)
  | 5 =>
    let r := toIntFp ⟨64, true⟩ ⟨mode, 0⟩ v
    (BitVec.ofInt 64 r.val, r.flags)
  | n =>
    let r := roundVal (fmtOf (BitVec.ofNat 2 n)) ⟨mode, 0⟩ v
    (w64 r.bits, r.flags)

/-! ### Instructions (R199 to R202, R462) -/

/-- The checks of a cell instruction, and the physical address of its cell. -/
def cellAddress (align : Nat) (a : W) : Op Nat := do
  let _ ← checkAccess 2 align align .both false a
  let s ← get
  match translate s s.turn (a.toNat % 2 ^ 56) with
  | .mapped pa _ _ => return pa
  | _ => trapWith .page (memInfo 0 2 (a.toNat % 2 ^ 56) false)

/-- The kind of the cell at a physical address; where none is declared, the smaller. -/
def kindAt (s : State) (pa : Nat) : CellKind :=
  match cellAt s pa with
  | some (_, k) => k
  | none => .xa32

/-- A cell operation waits for the slot's own appends to the cell's bytes (R214, R311). -/
def settleAppends (pa : Nat) (k : CellKind) : Op Unit := do
  let s ← get
  if (cellPieces pa k).any fun q => appendMeets s s.turn (.mem q.1) q.2 then waitHere

/-- The same for an operation on a cell of a kind, or on the cell that stands there, that is not an addition: it follows the
slot's own additions too (R311). -/
def cellPlace (align : Nat) (a : W) (kind : Option CellKind) : Op (Nat × CellKind) := do
  let pa ← cellAddress align a
  let k := kind.getD (kindAt (← get) pa)
  settleAppends pa k
  settleCells (canonPa pa) 64
  return (pa, k)

/-- The lines of a cell leave a hart's L1 (R311). -/
def evictCellOf (s : State) (h : HartId) (pa : Nat) (k : CellKind) : State :=
  (cellPieces pa k).foldl (fun s q => evictOf s h q.1 q.2) s

/-- The lines of a cell leave the issuing core's L1 before the operation performs. -/
def evictCell (pa : Nat) (k : CellKind) : Op Unit := modify fun s =>
  evictCellOf s s.turn pa k

/-- An operation on a cell of a kind shipped to its home. -/
def shipCell (tag : Nat) (dest : Dest) (a : W) (pa : Nat) (k : CellKind) (word : Nat) (op : CellOp) : Op Unit := do
  evictCell pa k
  let s ← get
  emitOp (.homeCellOperation ⟨s.turn, tag, dest, s.cur.gpc, a.setWidth 56, pa, BitVec.ofNat 32 word, op⟩)

/-- XINIT.32 (R199). -/
def execXinit32 (x : A1) : State → Host.Outcome State Fault Refusal := runOp do
  commitPlace (.xinit32 x)
  let a ← readSel x.a
  let (pa, k) ← cellPlace 64 a (some .xa32)
  shipCell (← freshTag) .none a pa k 0 (.init .xa32)
  finishCommit x.st

/-- XINIT.64 (R199). -/
def execXinit64 (x : A1) : State → Host.Outcome State Fault Refusal := runOp do
  commitPlace (.xinit64 x)
  let a ← readSel x.a
  let (pa, k) ← cellPlace 512 a (some .xa64)
  shipCell (← freshTag) .none a pa k 0 (.init .xa64)
  finishCommit x.st

/-- XCLR (R202). -/
def execXclr (x : A1) : State → Host.Outcome State Fault Refusal := runOp do
  commitPlace (.xclr x)
  let a ← readSel x.a
  let (pa, k) ← cellPlace 64 a none
  shipCell (← freshTag) .none a pa k 0 .clear
  finishCommit x.st

/-- XREAD (R201): it does not commit. -/
def execXread (x : Xread) : State → Host.Outcome State Fault Refusal := runOp do
  let a ← readSel x.a
  let (pa, k) ← cellPlace 64 a none
  let (tag, dest) ← reserve x.d
  shipCell tag dest a pa k (wordOf (.xread x)) (.read x.fmt x.mode)
  finish x.st

/-! ### The combining tree (R399) -/

/-- The cache-die router that an agent's packets enter: the one beneath its cluster, or its die's first. -/
def routerOf (a : Nat) : Nat :=
  match kindOfAgent a with
  | .core => clusterOf a
  | .porter => a - 2048
  | _ => 64 * dieOfAgent a

/-- A contribution, which takes a tag as its age, merged into an open entry of the same cell, by whichever physical address
(R327), context and frame, or into a new one; a router with 32 entries forwards its oldest first (R399). -/
def mergeContribution (s : State) (router : Nat) (ctx : BitVec 16) (pa : Nat) (va tpc : Addr) (k : CellKind)
    (v : CellValue) : State :=
  let same (e : Combine) : Bool :=
    e.router == router && e.ctx == ctx && e.frame == s.module.frame && canonPa e.pa == canonPa pa && e.kind == k
  let one : List Contributor := [⟨s.turn, ⟨tpc, s.tags⟩, s.cur.sup, va⟩]
  let s := { s with tags := s.tags + 1 }
  if s.combine.any same then
    let merge (e : Combine) : Combine :=
      if same e then
        let c := cellAdd k ⟨e.acc, e.flags⟩ v
        { e with acc := c.acc, flags := c.flags, from_ := e.from_ ++ one }
      else e
    { s with combine := s.combine.map merge }
  else
    let here := s.combine.filter fun e => e.router == router
    let s := if here.length < 32 then s else match here with
      | e :: _ => emit s (.combineForward router e.id)
      | [] => s
    { s with combine := s.combine ++ [⟨router, ctx, s.module.frame, s.tick, pa, k, v.acc, v.flags, one⟩] }

/-- XADD (R200): the contribution enters the combining tree on its way to the cell's home. -/
def execXadd (x : Xadd) : State → Host.Outcome State Fault Refusal := runOp do
  commitPlace (.xadd x)
  let a ← readSel x.a
  let b ← readSel x.b
  let (k, v) := addend x.fmt b
  let pa ← cellAddress (if k = .xa64 then 512 else 64) a
  settleAppends pa k
  evictCell pa k
  modify fun s => mergeContribution s (routerOf (agentOf s.turn)) s.cur.ctx pa (a.setWidth 56) s.cur.gpc k (contribution k v)
  finishCommit x.st

/-- The entries of the combining tree that forward now: 16 network cycles old, or with 64 contributions. -/
def combineDue (s : State) : Option Event :=
  (s.combine.find? fun e => decide (e.since + 8 ≤ s.tick) || decide (64 ≤ e.from_.length)).map fun e =>
    .combineForward e.router e.id

/-- COMBINE_FORWARD (R399): an entry leaves its router as one packet to the cell's home. -/
def execCombineForward (router cell : Nat) (s : State) : Host.Outcome State Fault Refusal :=
  match s.combine.find? fun e => e.router == router && e.id == cell with
  | none => stepTo s
  | some e =>
    let s := { s with combine := s.combine.erase e }
    match e.from_ with
    | [] => stepTo s
    | f :: _ =>
      stepTo (emit s (.homeCellOperation
        ⟨f.h, 0, .none, f.op.tpc, f.va, e.pa, 0, .partial_ e.kind e.acc e.flags e.from_⟩))

/-! ### At the home (R156, R199 to R202) -/

/-- The trap that a refused cell operation gives its issuer. -/
def refuseCell (s : State) (r : CellReq) (c : Cause) (reason : Nat) : State :=
  lateTrap s r.h c reason 2 r.va ⟨r.tpc, r.tag⟩

/-- The trap that a refused contribution gives its issuer: one issued in user mode whose slot is in its switch handler by
now waits there (R176, R424). -/
def refusePartial (s : State) (c : Cause) (reason : Nat) (f : Contributor) : State :=
  if kindOf f.h = .core ∧ !f.sup ∧ (slotOf s f.h).sup then
    holdFault s f.h ⟨c, memInfo reason 2 f.va.toNat true, f.op⟩
  else emit s (.lateFault f.h c (memInfo reason 2 f.va.toNat true) f.op)

/-- The cell bytes that a home slice holds (R199). -/
def cellLoad (s : State) (home : Nat) : Nat :=
  ((s.cells.filter fun c => homeOf c.1 == home).map fun c => cellCharge c.2).foldl (· + ·) 0

/-- HOME_CELL_OPERATION (R156, R199 to R202): the operation as one step at the cell's home. The lines of the cell's bytes
leave the L1 of the issuer's core before it (R311). An XINIT outside memory is refused (log entry 88). DESIGN CHOICE (log
entry 88): an XINIT that both overlaps another cell and passes the slice's 1 MiB has REASON 5, the overlap; R199 gives its
reasons no order. -/
def execHomeCellOperation (r : CellReq) (s : State) : Host.Outcome State Fault Refusal :=
  match r.op with
  | .init k =>
    let others := s.cells.filter fun c => canonPa c.1 != canonPa r.pa
    let s := evictCellOf s r.h r.pa k
    let here : State := { s with cells := others }
    if !inMemory r.pa (cellBytes k) then stepTo (refuseCell s r .xcell 1)
    else if (cellPieces r.pa k).any fun q => touchesCell here q.1 q.2 then stepTo (refuseCell s r .xcell 5)
    else if 1048576 < cellLoad here (homeOf r.pa) + cellCharge k then stepTo (refuseCell s r .xcell 4)
    else if cellPoisoned s r.pa k then stepTo (refuseCell s r .memerr 0)
    else stepTo { writeCell s r.pa (natBytes (cellBytes k) 0) with cells := mapPut others r.pa k }
  | .partial_ k acc flags from_ =>
    let s := from_.foldl (fun s f => evictCellOf s f.h r.pa k) s
    match cellAt s r.pa with
    | none => stepTo (from_.foldl (fun s f => refusePartial s .xcell 1 f) s)
    | some (pa, k') =>
      if k ≠ k' then stepTo (from_.foldl (fun s f => refusePartial s .xcell 2 f) s)
      else if cellPoisoned s pa k then stepTo (from_.foldl (fun s f => refusePartial s .memerr 0 f) s)
      else
        let old := cellOfBytes k (physRead s pa (cellBytes k))
        stepTo (writeCell s pa (cellImage k (cellAdd k old ⟨acc, flags⟩)))
  | .read fmt mode =>
    match cellAt s r.pa with
    | none => stepTo (refuseCell s r .xcell 1)
    | some (pa, k) =>
      let s := evictCellOf s r.h pa k
      if cellPoisoned s pa k then stepTo (refuseCell s r .memerr 0)
      else
        let (v, fl) := readOut k (cellOfBytes k (physRead s pa (cellBytes k))) fmt (modeOfCode mode.toNat)
        let x := slotOf s r.h
        if fl &&& x.fpte = 0 then
          stepTo (deliver (setSlot s r.h { x with fpflags := x.fpflags ||| fl }) ⟨r.h, r.tag, r.dest, v, 0⟩)
        else stepTo (setSlot s r.h { x with
          fpTraps := x.fpTraps ++ [⟨s.tick, r.tpc, fpInfo r.word.toNat (fl &&& x.fpte) fl, false⟩] })
  | .clear =>
    match cellAt s r.pa with
    | none => stepTo (refuseCell s r .xcell 1)
    | some (pa, k) =>
      let s := evictCellOf s r.h pa k
      if cellPoisoned s pa k then stepTo (refuseCell s r .memerr 0)
      else stepTo { writeCell s pa (natBytes (cellBytes k) 0) with cells := mapDel s.cells pa }

end Sys2Proof.Machine
end

