-- ==== Sys2Proof/Machine/LaunchRecord.lean ====
section
/-!
DEFINITION. Launch records, stage tables and the images they name: layout and validity (R352 to R356, R371, R372).
-/
namespace Sys2Proof.Machine

/-! ### Layout (R352, R353, R371) -/

/-- A level entry (R353). -/
def levelOfWord (w : Nat) : Level :=
  { extent := field w 31 16, domain := BitVec.ofNat 3 (field w 10 8), scope := BitVec.ofNat 3 (field w 2 0) }

/-- The word at byte `i` of a block. -/
def word32 (bs : List Byte) (i : Nat) : Nat := leNat (slice bs i 4)

/-- The launch record in 128 bytes, with no images yet (R352). -/
def recordOfBytes (bs : List Byte) : Launch :=
  let c := word32 bs 20
  { entry := BitVec.ofNat 56 (dword bs 0)
    total := field (dword bs 8) 47 0
    partw := BitVec.ofNat 32 (word32 bs 16)
    hold := bitOf c 21
    rooth := bitOf c 20
    gang := bitOf c 15
    pipe := bitOf c 14
    child := BitVec.ofNat 2 (field c 13 12)
    succ := bitOf c 11
    sdef := BitVec.ofNat 9 (field c 8 0)
    htab := w64 (dword bs 24)
    ptab := BitVec.ofNat 56 (dword bs 32)
    shape := w64 (dword bs 40)
    freeq := BitVec.ofNat 56 (dword bs 48)
    readyq := BitVec.ofNat 56 (dword bs 56)
    levels := (List.range (field c 19 16)).map fun i => levelOfWord (word32 bs (64 + 4 * i))
    stages := []
    seed := w64 (dword bs 104)
    nphase := BitVec.ofNat 16 (leNat (slice bs 112 2))
    image := []
    shapeImage := [] }

/-- The stage table's address and length (R352). -/
def stageTable (bs : List Byte) : Nat × Nat := (field (dword bs 96) 55 0, field (dword bs 96) 63 56)

/-- A stage-table entry (R371). -/
def stageOfBytes (bs : List Byte) : Stage :=
  { entry := BitVec.ofNat 56 (dword bs 0), cores := word32 bs 8, phase := BitVec.ofNat 32 (word32 bs 12)
    inq := w64 (dword bs 16), outq := w64 (dword bs 24) }

/-! ### Validity (R356) -/

/-- The reserved bits of a record are zero (R352, R353), and so are the level entries at and above LEVELS and, without PIPE,
bytes 96 to 103. That RETIRE refuses those for their bits too, though it takes none of these fields, is the model's choice
(R247; log entry 94). -/
def recordReservedOk (bs : List Byte) : Bool :=
  let c := word32 bs 20
  let lv (i : Nat) : Nat := word32 bs (64 + 4 * i)
  let levelOk (i : Nat) : Bool :=
    if i < field c 19 16 then field (lv i) 15 11 == 0 && field (lv i) 7 3 == 0 else lv i == 0
  field (dword bs 0) 63 56 == 0 && field (dword bs 8) 63 48 == 0 && field c 31 22 == 0 && field c 10 9 == 0 &&
    field (dword bs 24) 63 56 == 0 && field (dword bs 32) 63 56 == 0 && field (dword bs 40) 63 56 == 0 &&
    field (dword bs 48) 63 56 == 0 && field (dword bs 56) 63 56 == 0 && (List.range 8).all levelOk &&
    (bitOf c 14 || dword bs 96 == 0) && (slice bs 114 14).all (· == 0)

/-- The alignment of the fields that a successor takes too (R247, R352). -/
def recordAligned (r : Launch) : Bool :=
  r.entry.toNat % 4 == 0 && r.htab.toNat % 1024 == 0 && r.ptab.toNat % 4 == 0 && r.shape.toNat % 256 == 0

/-- NPHASE is 0 exactly when PTAB is 0, and at most 4,096 (R352). -/
def phasesOk (r : Launch) : Bool := (r.nphase == 0) == (r.ptab == 0) && decide (r.nphase.toNat ≤ 4096)

/-- The number of levels whose SCOPE is core or cluster, from level 0 up: g + 1 (R355). -/
def groupLevels (ls : List Level) : Nat :=
  (List.range ls.length).foldl (fun g k => if ((ls[k]?).map (·.scope.toNat)).getD 9 ≤ 1 then k + 1 else g) 0

/-- The product of some levels' extents. -/
def extents (ls : List Level) : Nat := (ls.map (·.extent)).foldl (· * ·) 1

/-- n, the cores of a group (R355). -/
def groupSize (r : Launch) : Nat := extents (r.levels.take (groupLevels r.levels))

/-- G0, the groups at launch (R355). -/
def groupCount (r : Launch) : Nat := extents (r.levels.drop (groupLevels r.levels))

/-- The rank of a DOMAIN code among core, cluster, block, region, die, module. -/
def domainRank (d : BitVec 3) : Nat := d.toNat

/-- The rank of the hardware domain of a SCOPE code; system counts as module (R354). -/
def scopeRank (sc : BitVec 3) : Nat :=
  match sc.toNat with
  | 0 => 0
  | 1 => 1
  | 2 => 4
  | _ => 5

/-- The conditions of R356 on the levels of a launch that is no pipeline. -/
def levelsOk (r : Launch) : Bool :=
  let ls := r.levels
  let g := groupLevels ls
  let sc (k : Nat) : Nat := ((ls[k]?).map (·.scope.toNat)).getD 0
  decide (1 ≤ ls.length) && decide (ls.length ≤ 8) &&
    (ls.all fun l => decide (1 ≤ l.extent) && decide (l.domain.toNat ≤ 5) && decide (l.scope.toNat ≤ 4)) &&
    (match ls with
     | l :: _ => l.domain == 0 && decide (l.scope.toNat ≤ 1)
     | [] => false) &&
    ((List.range (ls.length - 1)).all fun k => decide (sc k ≤ sc (k + 1))) &&
    decide (groupSize r ≤ 8) &&
    ((ls.drop g).all fun l => decide (1 ≤ domainRank l.domain) && decide (domainRank l.domain ≤ scopeRank l.scope))

/-- The image entries of a handler table in 1,024 bytes. -/
def tableOfBytes (bs : List Byte) : List HEntry := (List.range 64).map fun i => entryOfBytes (slice bs (16 * i) 16)

/-- Every entry image meets the limits that HTSET checks (R220): reserved bits, LANDING, and SUP, which only
supervisor code writes (`sup`). -/
def tableOk (sup : Bool) (bs : List Byte) (size : Nat) : Bool :=
  (List.range 64).all fun i =>
    let b := slice bs (16 * i) 16
    entryReservedOk b && landingOk (entryOfBytes b) size && (sup || !(entryOfBytes b).sup)

/-- Whether a record is valid, all but its stage table and handler table (R356). -/
def recordValid (bs : List Byte) : Bool :=
  let r := recordOfBytes bs
  let (st, n) := stageTable bs
  recordReservedOk bs && recordAligned r && r.freeq.toNat % 64 == 0 && r.readyq.toNat % 64 == 0 &&
    decide (1 ≤ r.total) && phasesOk r && r.child != 3 &&
    (if r.pipe then r.levels.isEmpty && st % 32 == 0 && decide (1 ≤ n) && decide (n ≤ 16) else levelsOk r) &&
    (!r.gang || decide (groupSize r * groupCount r ≤ 2048))

/-! ### What a dispatcher reads by virtual address (R350, R357) -/

/-- The physical address of a readable virtual address under a root: none in the scratchpad window, which no page holds, and
none above the address space (R173, R174). -/
def readableAt (s : State) (root va : Nat) : Option Nat :=
  match walk s root va with
  | .mapped pa _ attrs => if bitOf attrs 0 && inMemory pa 1 && decide (va < windowBase) then some pa else none
  | _ => none

/-- `n` bytes, which lie in one page, at a virtual address under a root: mapped, readable, not poisoned. -/
def readVirtual (s : State) (root va n : Nat) : Option (List Byte) :=
  match readableAt s root va with
  | none => none
  | some pa => if poisonedPhys s pa n then none else some (physRead s pa n)

/-- The entries of a pipeline's stage table, each read by itself (R371). -/
def readStages (s : State) (root : Nat) (bs : List Byte) : Option (List (List Byte)) :=
  let (st, n) := stageTable bs
  (List.range n).mapM fun i => readVirtual s root (st + 32 * i) 32

/-- Whether a stage's queue header is one a pipeline may name (R372). -/
def stageQueueOk (s : State) (root : Nat) (q : W) : Bool :=
  q == 0 || (match readVirtual s root q.toNat 64 with
    | some bs => q.toNat % 64 == 0 && (qheaderOf bs).kind == 1 && decide (1 ≤ (qheaderOf bs).logcap)
    | none => false)

/-- Whether a stage table is valid: the bits of ENTRY that are zero, the cores, the queues and the phases (R371, R372). -/
def stagesOk (s : State) (root : Nat) (r : Launch) (table : List (List Byte)) : Bool :=
  let ss := table.map stageOfBytes
  decide ((ss.map (·.cores)).foldl (· + ·) 0 ≤ 2048) &&
    (table.all fun bs => field (dword bs 0) 63 56 == 0) &&
    ss.all fun g =>
      g.entry.toNat % 4 == 0 && decide (1 ≤ g.cores) && stageQueueOk s root g.inq && stageQueueOk s root g.outq &&
        (g.phase == 0xFFFFFFFF || decide (g.phase.toNat < r.nphase.toNat))

/-- The number of cores of a launch's root strands. -/
def launchCores (r : Launch) : Nat :=
  if r.pipe then (r.stages.map (·.cores)).foldl (· + ·) 0 else groupSize r * groupCount r

/-! ### The kernel's own handler entries (R435) -/

/-- The handler table of a placement: entries 4 and 5 are the resident kernel's. -/
def placedTable (t : List HEntry) : List HEntry :=
  (List.range 64).map fun i =>
    if i = 4 ∨ i = 5 then ⟨Config.kernelHandler i, true, false, true, 7, true, 0⟩ else (t[i]?).getD HEntry.zero

end Sys2Proof.Machine
end

