-- ==== Sys2Proof/Machine/System.lean ====
section
/-!
DEFINITION. The special registers (R26 to R32, R81), TRAP, TRET, WFI and PERF (R431 to R434), and the exceptions that no
word raises (R134, R377, R379, R433, R434).
-/
namespace Sys2Proof.Machine

/-! ### Phases (R32, R260) -/

/-- The phase limit (R32). -/
def phLimit (x : Slot) : Nat := x.phexp.toNat + x.phexp.toNat * x.phmargin.toNat / 64 + x.phslack.toNat

/-- Whether an open phase has overrun without its message sent (R32). -/
def phaseOver (s : State) (x : Slot) : Bool := x.phopen && !x.phsent && decide (phLimit x < (phNow x s.clock).toNat)

/-- The overrun message: the core has the home mint a unit for a message on channel 3 (R32, R243). -/
def sendOverrun (s : State) (h : HartId) : State :=
  let x := slotOf s h
  let s := setSlot s h { x with phsent := true }
  emit s (.homeWeightUpdate (.mintEvent x.ctx (agentOf h) 3 h (w64 (3 * 2 ^ 56 + (phNow x s.clock).toNat))))

/-- An overrun of the phase that stands is told before its registers change: once per phase, however late it is met. -/
def settlePhase : Op Unit := modify fun s => if phaseOver s s.cur then sendOverrun s s.turn else s

/-- A phase of a placement opened in the executing slot, with its entry of the phase table read by a plain load (R260). -/
def openPhase (p : Placement) (b : W) : Op Unit := do
  require (decide (b.toNat < p.nphase.toNat)) .protect (opInfo 23 b.toNat false)
  let bs ← loadVa 0 4 4 (p.ptab.zeroExtend 64 + b * 4)
  settlePhase
  modify fun s =>
    { s with cur := { s.cur with
        phexp := BitVec.ofNat 32 (leNat bs), phcnt := 0, phAt := s.clock, phopen := true, phsent := false } }

/-! ### Special registers (R26) -/

/-- STATUS (R27). -/
def statusWord (x : Slot) (prio : Bool) : Nat :=
  b1 x.sup * 2 ^ 15 + b1 x.checkstall * 2 ^ 14 + x.fpte.toNat * 2 ^ 9 + x.rmode.toNat * 2 ^ 6 + b1 prio * 2 ^ 5

/-- A special register of the executing hart as it reads; none for an unassigned number. Registers of a core that a hart
has not read zero. -/
def csrRead (s : State) (n : BitVec 11) : Option W :=
  let x := s.cur
  let a := agentOf s.turn
  let k := coreOf s a
  match n.toNat with
  | 0x000 => some (w64 (statusWord x (isH s.turn)))
  | 0x001 => some ((fpflagsNow x s.tick).zeroExtend 64)
  | 0x002 => some (x.wcur.zeroExtend 64)
  | 0x003 => some (x.ctx.zeroExtend 64)
  | 0x004 => some x.seed
  | 0x005 => some (x.partw.zeroExtend 64)
  | 0x006 => some (x.pbase.zeroExtend 64)
  | 0x008 => some x.geom
  | 0x010 => some (x.tcause.zeroExtend 64)
  | 0x011 => some x.tinfo
  | 0x012 => some (x.tpc.zeroExtend 64)
  | 0x013 => some (x.rstart.zeroExtend 64)
  | 0x018 => some (k.hlimit.zeroExtend 64)
  | 0x020 => some ((phNow x s.clock).zeroExtend 64)
  | 0x021 => some (x.phexp.zeroExtend 64)
  | 0x022 => some (x.phmargin.zeroExtend 64)
  | 0x023 => some (x.phslack.zeroExtend 64)
  | 0x024 => some (w64 (b1 x.phopen))
  | 0x028 => some k.accown
  | 0x029 => some (w64 (leaseWord (leaseNow x s.clock)))
  | 0x02A => some (x.vlanes.zeroExtend 64)
  | 0x030 => some (w64 s.tick)
  | 0x031 => some x.retired
  | 0x032 => some (x.stallcnt.zeroExtend 64)
  | _ => none

/-- The registers a user may write. -/
def userWritable (n : BitVec 11) : Bool := n == 0x000 || n == 0x001 || n == 0x008

/-- STATUS with its writable fields taken from a word; a reserved RMODE is discarded (R27). -/
def writeStatus (v : Nat) (x : Slot) : Slot :=
  { x with
    checkstall := bitOf v 14
    fpte := BitVec.ofNat 5 (field v 13 9)
    rmode := if field v 8 6 < 5 then BitVec.ofNat 3 (field v 8 6) else x.rmode }

/-- GEOM written; a width of 0 or above 8 leaves it unchanged (R29). -/
def writeGeom (v : Nat) (x : Slot) : Slot :=
  if field v 51 48 = 0 ∨ 8 < field v 51 48 then x else { x with geom := w64 (field v 51 0) }

/-- PHOPEN written, with the count as it stands. -/
def writePhopen (v : Nat) (clock : Nat) (x : Slot) : Slot :=
  { x with phcnt := phNow x clock, phAt := clock, phopen := bitOf v 0 }

/-- ACCOWN written: the partition word's ACC64 and ACCU are latched, and an exchange of tiles ends (R30, R437, R438). -/
def writeAccown (s : State) (v : Nat) : State :=
  let a := agentOf s.turn
  if kindOf s.turn = .core then
    let k := coreOf s a
    setCore s a { k with
      accown := w64 (field v 16 0)
      acc64 := acc64Of s.cur.partw
      accu := BitVec.ofNat 8 (accuOf s.cur.partw)
      exchange := k.exchange.filter fun h => h != s.turn }
  else s

/-- A special register written (R26). Registers read-only in both modes discard the write; PBASE keeps all its 18 bits (log
entry 85). -/
def csrWrite (s : State) (n : BitVec 11) (w : W) : State :=
  let v := w.toNat
  let x := s.cur
  let put (x : Slot) : State := { s with cur := x }
  match n.toNat with
  | 0x000 => put (writeStatus v x)
  | 0x001 => put { addFlags x s.tick s.tick 0 with fpflags := BitVec.ofNat 5 v }
  | 0x003 => put { x with ctx := BitVec.ofNat 16 v }
  | 0x004 => put { x with seed := w }
  | 0x005 => put { x with partw := BitVec.ofNat 32 (v % 2 ^ 29) }
  | 0x006 => put { x with pbase := BitVec.ofNat 18 v }
  | 0x008 => put (writeGeom v x)
  | 0x010 => put { x with tcause := BitVec.ofNat 8 v }
  | 0x011 => put { x with tinfo := w }
  | 0x012 => put { x with tpc := BitVec.ofNat 56 v }
  | 0x013 => put { x with rstart := BitVec.ofNat 56 v }
  | 0x018 =>
    if kindOf s.turn = .core then
      setCore s (agentOf s.turn) { coreOf s (agentOf s.turn) with hlimit := BitVec.ofNat 32 v }
    else s
  | 0x020 => put { x with phcnt := BitVec.ofNat 32 v, phAt := s.clock }
  | 0x021 => put { x with phexp := BitVec.ofNat 32 v }
  | 0x022 => put { x with phmargin := BitVec.ofNat 8 v }
  | 0x023 => put { x with phslack := BitVec.ofNat 32 v }
  | 0x024 => put (writePhopen v s.clock x)
  | 0x028 => writeAccown s v
  | 0x032 => put { x with stallcnt := BitVec.ofNat 32 v }
  | _ => s

/-- The value of a special register, or ILLEGAL for an unassigned number. -/
def readCsr (i : Instr) (n : BitVec 11) : Op W := do
  match csrRead (← get) n with
  | some v => return v
  | none => illegalOp i

/-- CSRRD (R26, R81). -/
def execCsrrd (x : CsrR) : State → Host.Outcome State Fault Refusal := runOp do
  let v ← readCsr (.csrrd x) x.csr
  produce x.d v 2
  finish x.st

/-- The commands in flight in a cluster, oldest first. -/
def inFlight (k : Cluster) : List MmaCmd :=
  (match k.running with
   | some c => [c]
   | none => []) ++ k.cmdQ

/-- Whether a matrix command of a core is in flight (R303). -/
def coreBusy (s : State) (core : Nat) : Bool := (inFlight (clusterAt s (clusterOf core))).any fun c => c.core == core

/-- What a write of a register does first: a phase register tells an overrun (R32); ACCOWN waits, as the ACCOWN
instruction does, until no command of the core is in flight (R303, R446; log entry 79). -/
def beforeCsrWrite (n : BitVec 11) : Op Unit := do
  let s ← get
  if n = 0x028 ∧ kindOf s.turn = .core ∧ coreBusy s (agentOf s.turn) then waitHere
  if 0x020 ≤ n.toNat ∧ n.toNat ≤ 0x024 then settlePhase

/-- A write form: the old value is pushed, the new one takes effect before the next instruction, the word commits. DESIGN
CHOICE (log entry 113): the ILLEGAL of an unassigned CSR number (R26) is a trap of the execution, after the decode-time
checks of R71; the spec does not say which of the two it is. -/
def csrUpdate (i : Instr) (x : CsrW) (f : W → W → W) : Op Unit := do
  commitPlace i
  let old ← readCsr i x.csr
  require ((← curSlot).sup || userWritable x.csr) .protect (x.csr.zeroExtend 64)
  let a ← readSel x.a
  beforeCsrWrite x.csr
  modify fun s => csrWrite s x.csr (f old a)
  produce x.d old 2
  finishCommit x.st

/-- CSRWR (R81). -/
def execCsrwr (x : CsrW) : State → Host.Outcome State Fault Refusal := runOp do csrUpdate (.csrwr x) x fun _ a => a
/-- CSRSET (R81). -/
def execCsrset (x : CsrW) : State → Host.Outcome State Fault Refusal := runOp do csrUpdate (.csrset x) x fun v a => v ||| a
/-- CSRCLR (R81). -/
def execCsrclr (x : CsrW) : State → Host.Outcome State Fault Refusal := runOp do csrUpdate (.csrclr x) x fun v a => v &&& ~~~a

/-! ### TRAP, TRET, WFI, PERF -/

/-- Traps PROTECT in user mode (R70, R89): TINFO holds the word. -/
def supervisorWord (i : Instr) : Op Unit := do require (← curSlot).sup .protect (w64 (wordOf i))

/-- TRAP (R431): it commits, and then takes SYSCALL with TINFO = a. -/
def execTrap (x : A1) : State → Host.Outcome State Fault Refusal := runOp do
  commitPlace (.trap x)
  let a ← readSel x.a
  if (← curSlot).launches ≠ 0 then waitHere
  finishCommit x.st
  modify fun s => takeTrap s s.turn .syscall a (some s.cur.gpc)

/-- Whether a command of a hart is queued or running (R301). -/
def matrixBusy (s : State) (h : HartId) : Bool :=
  (inFlight (clusterAt s (clusterOf (agentOf h)))).any fun c => c.h == h

/-- Whether a hart still awaits responses, results or the array (R101, R176, R301). -/
def unsettled (s : State) (h : HartId) : Bool := awaitsResponse s h || resultPending s h || matrixBusy s h

/-- TRET (R433). An abort waits first as MWAIT does and for the responses of R176. A poisoned save area is never read: a
return from it traps MEMERR, which in the resident kernel is a crash (R344, R439; log entry 80). -/
def execTret (x : N0) : State → Host.Outcome State Fault Refusal := runOp do
  supervisorWord (.tret x)
  noDelaySlot (.tret x)
  let s ← get
  if kindOf s.turn == .core then
    let abort := bitOf s.cur.tcause.toNat 7
    if abort && unsettled s s.turn then waitHere
    let off := saveOffset (isH s.turn) s.cur.partw s.cur.pbase
    require (abort || !poisonedPool s (agentOf s.turn) off 256) .memerr (w64 off)
  finish x.st
  modify fun s => trapReturn s s.turn
  if s.cur.quiesce && bitOf s.cur.tcause.toNat 7 then emitOp (.contextComplete s.cur.entryCtx)

/-- WFI (R434): the slot stops issuing; it wakes of itself after 65,536 cycles. -/
def execWfi (x : N0) : State → Host.Outcome State Fault Refusal := runOp do
  supervisorWord (.wfi x)
  noDelaySlot (.wfi x)
  finish x.st
  modify fun s => { s with cur := { s.cur with wfi := some (s.tick + 65536) } }

/-- The counter of an index (R434). -/
def counter (s : State) (i : W) : W :=
  let x := s.cur
  let k := coreOf s (agentOf s.turn)
  match i.toNat with
  | 0 => w64 s.tick
  | 1 => x.retired
  | 2 => x.stallcnt.zeroExtend 64
  | 3 => x.traps
  | 4 => x.rollbacks
  | 5 => x.preempts
  | 6 => k.spilledTiles
  | 7 => k.accepted
  | 8 => k.l1miss
  | 9 => x.niWaits
  | 10 => k.undriven
  | _ => 0

/-- The counters whose growth the spec leaves open, waits for interface room and bytes not driven, brought up to date before
they are read (log entry 16). -/
def openCounts (a : W) (s : State) : State :=
  match a.toNat with
  | 9 => { s with cur := { s.cur with niWaits := s.cur.niWaits + Config.openCount 9 s.turn.toNat (freeStamp s) } }
  | 10 =>
    if kindOf s.turn = .core then
      let core := agentOf s.turn
      let k := coreOf s core
      setCore s core { k with undriven := k.undriven + Config.openCount 10 core (freeStamp s) }
    else s
  | _ => s

/-- PERF (R434). -/
def execPerf (x : RR) : State → Host.Outcome State Fault Refusal := runOp do
  let a ← readSel x.a
  modify (openCounts a)
  produce x.d (counter (← get) a) 2
  finish x.st

/-! ### Exceptions that no word raises -/

/-- What the save of R37 waits for: the slot's matrix commands (R301), its contributions to cells and its stores not yet
acknowledged, whose failures are the strand's own (R210, R424; log entry 74). -/
def leavingWaits (s : State) (h : HartId) : Bool := matrixBusy s h || combining s h || unacknowledged s h

/-- Whether a PREEMPT may be taken in a slot now: it runs a user strand, nothing holds it, and it waits for nothing (R134,
R301, R424; log entry 74). -/
def preemptible (s : State) (h : HartId) : Bool :=
  let x := slotOf s h
  x.live && !x.sup && x.vgrant == 0 && x.hold.isNone && x.launches == 0 && !leavingWaits s h

/-- PREEMPT_REQUEST (R433): each named slot that runs the context takes PREEMPT with TINFO = 0. A slot in supervisor mode
or held keeps the request. -/
def execPreemptRequest (core : Nat) (payload : W) (s : State) : Host.Outcome State Fault Refusal :=
  let one (s : State) (h : HartId) : State :=
    let x := slotOf s h
    if x.request ≠ some payload then s
    else if runsStrand x (payload.setWidth 16) then
      if preemptible s h then takeTrap (setSlot s h { x with request := none }) h .preempt 0 none else s
    else setSlot s h { x with request := none }
  stepTo ([hartOf core true, hartOf core false].foldl one s)

/-- TIME_SLICE_EXPIRY (R379): PREEMPT with TINFO = 1. -/
def execTimeSliceExpiry (h : HartId) (s : State) : Host.Outcome State Fault Refusal :=
  if preemptible s h then stepTo (takeTrap s h .preempt 1 none) else stepTo s

/-- PREEMPT_HOLD_EXPIRY (R134): the hold ends. -/
def execPreemptHoldExpiry (h : HartId) (s : State) : Host.Outcome State Fault Refusal :=
  stepTo (setSlot s h { slotOf s h with hold := none })

/-- PHASE_OVERRUN (R377): the trap, once per run, with the run's cycles in TINFO. -/
def execPhaseOverrun (h : HartId) (s : State) : Host.Outcome State Fault Refusal :=
  let x := slotOf s h
  stepTo (takeTrap (setSlot s h { x with hltaken := true }) h .phaseOverrun (w64 (s.clock - x.runAt)) none)

/-- PHASE_OVERRUN_MESSAGE (R32, R243). -/
def execPhaseOverrunMessage (h : HartId) (s : State) : Host.Outcome State Fault Refusal := stepTo (sendOverrun s h)

/-- WFI_WAKE (R434): the slot issues again. -/
def execWfiWake (h : HartId) (s : State) : Host.Outcome State Fault Refusal :=
  stepTo (setSlot s h { slotOf s h with wfi := none })

end Sys2Proof.Machine
end

