-- ==== Sys2Proof/Machine/Messages.lean ====
section
/-!
DEFINITION. Messages: handler entries, sending, arrival (R219 to R234, R242, R243, R393, R429, R433, R435).
-/
namespace Sys2Proof.Machine

/-! ### Handler entries (R220 to R222) -/

/-- A change of the issuing context's placement on the executing core. -/
def modPlacement (f : Placement → Placement) : Op Unit := modify fun s =>
  match placementOf s (agentOf s.turn) s.cur.ctx with
  | some p => setPlacement s (agentOf s.turn) (f p)
  | none => s

/-- The issuing context's entry of a channel. -/
def channelEntry (ch : Nat) : Op HEntry := do
  let s ← get
  match placementOf s (agentOf s.turn) s.cur.ctx with
  | some p => return entryAt p ch
  | none => return HEntry.zero

/-- A handler table with one entry replaced. -/
def setEntry (t : List HEntry) (ch : Nat) (e : HEntry) : List HEntry :=
  (List.range 64).map fun i => if i = ch then e else (t[i]?).getD HEntry.zero

/-- The messages of a context that wait on a core for a channel whose entry is not valid any more come up to be refused, in
arrival order (R223); every other one keeps its place (R226). -/
def refuseWaiting (s : State) (core : Nat) (c : BitVec 16) : State :=
  let stale (m : Msg) : Bool := m.ctx == c && !isRoot m && (match placementOf s core c with
    | some p => !(entryAt p m.channel.toNat).valid
    | none => false)
  let k := coreOf s core
  let s := setCore s core { k with ni := k.ni.filter fun m => !stale m }
  { s with events := s.events ++ (k.ni.filter stale).map fun m => .messageArrival core m }

/-- HTSET (R220). Channels 4 and 5 can never be masked: MASK of their entries stays 0 (R222). -/
def execHtset (x : AB) : State → Host.Outcome State Fault Refusal := runOp do
  let a ← readSel x.a
  let b ← readSel x.b
  let s ← get
  let ch := a.toNat
  require (decide (ch < 64)) .protect (opInfo 16 ch false)
  require (s.cur.sup || !(decide (4 ≤ ch) && decide (ch ≤ 7))) .protect (opInfo 18 ch false)
  let bs ← loadVa 0 16 16 b
  let e := entryOfBytes bs
  require (entryReservedOk bs && landingOk e (padSize s.cur.partw)) .protect (opInfo 19 b.toNat false)
  require (s.cur.sup || !e.sup) .protect (opInfo 18 ch false)
  let e := { e with mask := e.mask && !(ch == 4 || ch == 5) }
  modPlacement fun p => { p with htab := setEntry p.htab ch e }
  if !e.valid then modify fun s => refuseWaiting s (agentOf s.turn) s.cur.ctx
  finish x.st

/-- HTGET (R221). -/
def execHtget (x : RR) : State → Host.Outcome State Fault Refusal := runOp do
  let a ← readSel x.a
  let e ← channelEntry (a.toNat % 64)
  produce x.d (if bitOf a.toNat 6 then e.pc.zeroExtend 64 else w64 (entryHigh e)) 2
  finish x.st

/-- MASK of a channel's entry set or cleared (R222). -/
def setMask (st : BitVec 3) (sel : Sel) (v : Bool) : Op Unit := do
  let a ← readSel sel
  let ch := a.toNat
  require (decide (ch < 64)) .protect (opInfo 16 ch false)
  require (!(v && (ch == 4 || ch == 5))) .protect (opInfo 18 ch false)
  require ((← curSlot).sup || !(ch == 6 || ch == 7)) .protect (opInfo 18 ch false)
  let e ← channelEntry ch
  modPlacement fun p => { p with htab := setEntry p.htab ch { e with mask := v } }
  finish st

/-- CHMASK (R222). -/
def execChmask (x : A1) : State → Host.Outcome State Fault Refusal := runOp do setMask x.st x.a true
/-- CHUNMASK (R222). -/
def execChunmask (x : A1) : State → Host.Outcome State Fault Refusal := runOp do setMask x.st x.a false

/-! ### Destinations and weight (R227 to R230) -/

/-- The destination cores of a word. -/
def destCores (w : Nat) (multi : Bool) : List Nat :=
  if multi then
    (List.range (field w 44 42 + 1 - field w 47 45)).flatMap fun y =>
      (List.range (field w 50 48 + 1 - field w 53 51)).flatMap fun x =>
        ((List.range 8).filter fun c => bitOf (field w 63 56) c).map fun c =>
          (64 * field w 55 54 + 8 * (field w 47 45 + y) + (field w 53 51 + x)) * 8 + c
  else [field w 11 0]

/-- Check 1 of R228. -/
def destOk (w : Nat) (multi push : Bool) : Bool :=
  field w 41 26 == 0 && !bitOf w 19 && !bitOf w 12 && decide (field w 25 20 ≤ 32) && (!push || field w 25 20 == 0) &&
    if multi then
      field w 63 56 != 0 && decide (field w 53 51 ≤ field w 50 48) && decide (field w 47 45 ≤ field w 44 42) &&
        field w 11 0 == 0
    else field w 63 42 == 0

/-- Checks 1 to 3 of R228: the destination cores and the channel. -/
def checkDest (w : W) (multi push : Bool) : Op (List Nat × Nat) := do
  let s ← get
  let v := w.toNat
  require (destOk v multi push) .protect (opInfo 16 v false)
  let ch := field v 18 13
  let cores := destCores v multi
  let placed := cores.all fun c => (placementOf s c s.cur.ctx).isSome
  require placed .protect (opInfo 17 v false)
  require (!(decide (ch ≤ 1)) && (s.cur.sup || !(decide (4 ≤ ch) && decide (ch ≤ 7)))) .protect (opInfo 18 ch false)
  return (cores, ch)

/-- The smallest scope that holds two agents (R230): 0 core, 1 cluster, 2 die, 3 module. -/
def scopeBetween (a b : Nat) : Nat :=
  if a = b then 0
  else if inScope a 1 b then 1
  else if dieOfAgent a = dieOfAgent b then 2 else 3

/-- The widest of some scopes. -/
def widest (l : List Nat) : Nat := l.foldl Nat.max 0

/-- The share of each message under check 4 of R228, and what the sender keeps (R229). `exact` is SENDW's amount. DESIGN CHOICE
(log entry 127): VALUE is 0 for reasons 1 and 3, where no operand offends; R218 gives none. -/
def splitWeight (n : Nat) (exact_ : Option W) : Op (Nat × Nat) := do
  let w := (← curSlot).wcur.toNat
  require (w != 0) .weightFine (opInfo 3 0 false)
  match exact_ with
  | some c =>
    require (c != 0 && decide (c.toNat < w)) .weightFine (opInfo 2 c.toNat false)
    return (c.toNat, w - c.toNat)
  | none =>
    let s := w / (n + 1)
    require (s != 0) .weightFine (opInfo 1 0 false)
    return (s, w - n * s)

/-- A local address that names the issuing core's scratchpad, aligned on 8 (R227). -/
def localAddress (b : W) : Op Unit := do
  require (b.toNat % 8 == 0) .align (memInfo 0 0 b.toNat false)
  require (decide (b.toNat < 2 ^ 31)) .protect (memInfo 4 0 b.toNat false)

/-- `n` doublewords from a local address, as plain loads. An engine has no scratchpad (R384). -/
def localWords (b : W) (n : Nat) : Op (List W) := do
  localAddress b
  require (kindOf (← get).turn == .core) .protect (memInfo 5 0 b.toNat false)
  (List.range n).mapM fun i => do
    let p ← localPlace (b.toNat + 8 * i) 8 false 0
    return leWord (← loadAt p 8 0 (b.toNat + 8 * i))

/-- `n` doublewords from a virtual address, as plain loads. -/
def virtualWords (b : W) (n : Nat) : Op (List W) :=
  (List.range n).mapM fun i => do return leWord (← loadVa 0 8 8 (b + w64 (8 * i)))

/-- The payload (R227). -/
def payloadOf (w b : W) : Op (List W) := do
  let n := field w.toNat 25 20
  if n = 0 then return [b] else localWords b n

/-- The end of a send: a release at the scope of its destinations, the weight split, the messages on their way (R230). -/
def sendAll (cores : List Nat) (ch : Nat) (weight : Nat) (keep : BitVec 48) (payload : List W) (kind : MsgKind) :
    Op Unit := do
  settleStores
  let s ← get
  let scope := widest (cores.map (scopeBetween (agentOf s.turn)))
  release scope
  modCur fun x => { x with wcur := keep }
  let m : Msg := ⟨s.cur.ctx, BitVec.ofNat 6 ch, s.turn, BitVec.ofNat 48 weight, payload, kind, scope⟩
  modify fun s => { s with events := s.events ++ cores.map fun c => .messageArrival c m }

/-- SEND and SENDM (R231, R233). -/
def sendShares (a b : W) (multi : Bool) : Op Unit := do
  let (cores, ch) ← checkDest a multi false
  let (w, keep) ← splitWeight cores.length none
  let payload ← payloadOf a b
  sendAll cores ch w (BitVec.ofNat 48 keep) payload .plain

/-- The checks of a clerk's SEND (R429): step 1 of R228, channel 4 or 5, and step 2 for channel 5. -/
def clerkDest (w : W) : Op (List Nat × Nat) := do
  let s ← get
  let v := w.toNat
  require (destOk v false false) .protect (opInfo 16 v false)
  let ch := field v 18 13
  let cores := destCores v false
  require (ch == 4 || ch == 5) .protect (opInfo 18 ch false)
  require (ch == 4 || cores.all fun c => (placementOf s c s.cur.ctx).isSome) .protect (opInfo 17 v false)
  return (cores, ch)

/-- SEND (R231); on a clerk only channels 4 and 5, with weight 0 (R429). -/
def execSend (x : AB) : State → Host.Outcome State Fault Refusal := runOp do
  commitPlace (.send x)
  let a ← readSel x.a
  let b ← readSel x.b
  if kindOf (← get).turn == .clerk then
    let (cores, ch) ← clerkDest a
    let payload ← payloadOf a b
    sendAll cores ch 0 (← curSlot).wcur payload .plain
  else sendShares a b false
  finishCommit x.st

/-- SENDM (R233). -/
def execSendm (x : AB) : State → Host.Outcome State Fault Refusal := runOp do
  commitPlace (.sendm x)
  if kindOf (← get).turn == .clerk then illegalOp (.sendm x)
  let a ← readSel x.a
  let b ← readSel x.b
  sendShares a b true
  finishCommit x.st

/-- SENDW (R232); a clerk gives exactly its operand (R429). -/
def execSendw (x : ABC) : State → Host.Outcome State Fault Refusal := runOp do
  commitPlace (.sendw x)
  let a ← readSel x.a
  let b ← readSel x.b
  let c ← readSel x.c
  let (cores, ch) ← checkDest a false false
  if kindOf (← get).turn == .clerk then
    require (decide (5 ≤ ch)) .protect (opInfo 18 ch false)
    require (c != 0 && decide (c.toNat < 2 ^ 48)) .weightFine (opInfo 2 c.toNat false)
    let payload ← payloadOf a b
    sendAll cores ch c.toNat (← curSlot).wcur payload .plain
  else
    let (w, keep) ← splitWeight 1 (some c)
    let payload ← payloadOf a b
    sendAll cores ch w (BitVec.ofNat 48 keep) payload .plain
  finishCommit x.st

/-! ### Pushes (R234, R393) -/

/-- Whether a push descriptor meets its limits; on an engine its source is a virtual address and its target may name
operand memory. That MEMBER bits beside REMOTE = 0 break them is the model's choice (R234; log entry 97). -/
def pushOk (core : Bool) (pc target source length : Nat) : Bool :=
  pc % 4 == 0 && decide (pc < 2 ^ 56) && target % 8 == 0 && source % 8 == 0 && length % 8 == 0 &&
    decide (8 ≤ length) && decide (length ≤ 256) &&
    (if core then decide (target < 2 ^ 31) && field target 30 18 == 0 && decide (source < 2 ^ 31) && field source 30 18 == 0
     else bitOf target 63 || (decide (target < 2 ^ 31) && field target 30 18 == 0))

/-- PUSH (R234). -/
def execPush (x : AB) : State → Host.Outcome State Fault Refusal := runOp do
  commitPlace (.push x)
  if kindOf (← get).turn == .clerk then illegalOp (.push x)
  let a ← readSel x.a
  let b ← readSel x.b
  let core := kindOf (← get).turn == .core
  let (cores, ch) ← checkDest a false true
  let (w, keep) ← splitWeight 1 none
  if !core then require (b.toNat % 8 == 0) .align (memInfo 0 0 b.toNat false)
  let d ← if core then localWords b 4 else virtualWords b 4
  let at_ (i : Nat) : W := (d[i]?).getD 0
  require (pushOk core (at_ 0).toNat (at_ 1).toNat (at_ 2).toNat (at_ 3).toNat) .protect (opInfo 19 b.toNat false)
  let n := (at_ 3).toNat / 8
  let data ← if core then localWords (at_ 2) n else virtualWords (at_ 2) n
  sendAll cores ch w (BitVec.ofNat 48 keep) data (.push ((at_ 0).setWidth 56) (at_ 1))
  finishCommit x.st

/-! ### Arrival (R223, R433, R436) -/

/-- A message that a core refuses: its weight is written off and a report names the channel; one of weight 0 is
dropped, and a dropped QUIESCE completes its context (R223, R242, R359). -/
def refuseMessage (s : State) (core : Nat) (m : Msg) : State :=
  if m.weight = 0 then
    if m.channel = 0 then emit s (.contextComplete m.ctx) else s
  else
    let s := emit s (.homeWeightUpdate (.writeOff m.ctx m.weight.toNat))
    report s (dieOfAgent core) 7 core 0 0 m.channel.toNat false

/-- A channel 4 request: PREEMPT is raised in each named slot that runs the context, and a slot that waits in WFI
wakes (R433, R434). -/
def requestPreempt (s : State) (core : Nat) (v : W) : State :=
  let one (s : State) (h : HartId) : State :=
    let x := { slotOf s h with wfi := none }
    let named := bitOf v.toNat (if isH h then 16 else 17)
    setSlot s h (if named && runsStrand x (v.setWidth 16) then { x with request := some v } else x)
  [hartOf core true, hartOf core false].foldl one s

/-- MESSAGE_ARRIVAL (R223): a frozen module holds what comes (R439). A channel 4 request is raised, a message without
placement or valid entry is refused, one of an absent context is spilled, any other waits for a slot in the network
interface, or behind a full one in the context buffer (R405). -/
def execMessageArrival (core : Nat) (m : Msg) (s : State) : Host.Outcome State Fault Refusal :=
  let k := coreOf s core
  let hold : State := setCore s core { k with ni := k.ni ++ [m] }
  let keep (p : Placement) : State := if overflows s core p then spillOne core s m else hold
  if s.module.frozen.isSome then
    match placementOf s core m.ctx with
    | some p => stepTo (if p.absent then hold else keep p)
    | none => stepTo hold
  else if m.channel = 4 ∧ m.kind = .plain then stepTo (requestPreempt s core ((m.payload[0]?).getD 0))
  else match placementOf s core m.ctx with
    | none => stepTo (refuseMessage s core m)
    | some p =>
      if !isRoot m && !(entryAt p m.channel.toNat).valid then stepTo (refuseMessage s core m)
      else if p.absent then stepTo (spillOne core s m)
      else stepTo (keep p)

end Sys2Proof.Machine
end

