-- ==== Sys2Proof/Machine/Strands.lean ====
section
/-!
DEFINITION. How a strand starts, waits, leaves its slot and comes back; weight at its home (R33 to R39, R208, R224,
R225, R235 to R243, R364, R376 to R379, R421, R433, R436).
-/
namespace Sys2Proof.Machine

/-! ### Leaving the slot (R35, R237) -/

/-- The continuation record of a strand (R34). -/
def recordBytes (state : Nat) (prio : Bool) (pc : Addr) (x : Slot) : List Byte :=
  natBytes 8 (state * 2 ^ 62 + b1 prio * 2 ^ 61 + (fpflagsFinal x).toNat * 2 ^ 56 + pc.toNat) ++
    natBytes 8 (x.wcur.toNat * 2 ^ 16 + x.ctx.toNat) ++
    ((x.n.toList.take 6).map fun e => wordBytes 8 e.val).flatten

/-- What a strand held in its slot is released as it leaves: operand slots, lease, lanes, landing region; the slot holds
no strand (R225, R237, R250, R265, R292). DESIGN CHOICE (log entry 130): SUSPEND, YIELD, WAITV and the rotation end the lease
too; R286 says "any event of R294", and R294 lists none. -/
def leaveSlot (s : State) (h : HartId) : State :=
  let s := endLanding (releaseLease (releaseLanes (releaseOslots s h (slotOf s h).ctx (fun _ => false)) h) h) h
  setSlot s h (emptied (slotOf s h))

/-- The record of a strand written whole, as a release at module scope, and the slot left (R35, R321). -/
def suspendAs (s : State) (h : HartId) (state : Nat) (pc : Addr) : State :=
  let x := slotOf s h
  let s := flushDirty s (agentOf h)
  let s := writeRecord s (agentOf h) x.ctx x.crec (recordBytes state (isH h) pc x)
  leaveSlot s h

/-- The same with the record's address put on the ready queue: YIELD, and a rotation (R237, R378). -/
def yieldAs (s : State) (h : HartId) (pc : Addr) : State :=
  let x := slotOf s h
  enqFor (suspendAs s h 1 pc) (agentOf h) x.ctx (readyQueue s x.ctx) x.crec

/-- The wait of a word that ends a strand's run: the responses of earlier committing operations, the slot's matrix
commands, and the registers that its record carries (R176, R237, R301). -/
def settleStrand : Op Unit := do
  let s ← get
  if unsettled s s.turn then waitHere
  if (s.cur.n.toList.take 6).any fun e => e.tag != 0 then waitHere

/-- SUSPEND, YIELD, WAITV, GBAR and RETIRE trap in the handler of a QUIESCE message (R242). -/
def notQuiesce : Op Unit := do require (!(← curSlot).quiesce) .weightFine (opInfo 3 0 false)

/-- SUSPEND (R237). -/
def execSuspend (x : N0) : State → Host.Outcome State Fault Refusal := runOp do
  noDelaySlot (.suspend x)
  notQuiesce
  settleStrand
  finishCommit x.st
  modify fun s => suspendAs s s.turn 2 s.cur.pc

/-- YIELD (R237). -/
def execYield (x : N0) : State → Host.Outcome State Fault Refusal := runOp do
  noDelaySlot (.yield x)
  notQuiesce
  settleStrand
  finishCommit x.st
  modify fun s => yieldAs s s.turn s.cur.pc

/-- The end of a strand as DONE ends it (R237): the return enters the network interface, the record goes back free. A
strand that handled a QUIESCE message completes its context (R359). -/
def endStrand (s : State) (h : HartId) : State :=
  let x := slotOf s h
  let a := agentOf h
  let s := flushDirty s a
  let k := coreOf s a
  let s := if x.wcur = 0 then s else setCore s a { k with returns := k.returns ++ [(x.ctx, x.wcur.toNat)] }
  let s := freeRecord s a x.ctx x.crec
  let s := leaveSlot s h
  if x.quiesce then emit s (.contextComplete x.ctx) else s

/-- DONE (R237); on an engine it ends the job (R386). -/
def execDone (x : N0) : State → Host.Outcome State Fault Refusal := runOp do
  noDelaySlot (.done x)
  match kindOf (← get).turn with
  | .clerk => illegalOp (.done x)
  | .core =>
    let s ← get
    if unsettled s s.turn then waitHere
    finishCommit x.st
    modify fun s => endStrand s s.turn
  | _ =>
    let s ← get
    if unsettled s s.turn then waitHere
    finishCommit x.st
    modify fun s => endJob s (agentOf s.turn) 0 0 0

/-- L_SLOT_ROTATION (R378): once nothing of the strand is in flight, its record is written as YIELD writes it; it
resumes at its next word, which is the SPINW of a strand that waits in one. -/
def execLSlotRotation (h : HartId) (s : State) : Host.Outcome State Fault Refusal :=
  if (slotOf s h).rotate ∧ !unsettled s h then stepTo (yieldAs s h (slotOf s h).pc) else stepTo s

/-! ### WAITV (R208, R421, R429) -/

/-- Whether the word of a watch differs from its value, or is poisoned (R344). A watch on the configuration
window, where no home slice stands, is woken early (R208). -/
def watchDiffers (s : State) (w : Watch) : Bool :=
  (match regionOf w.pa with
   | .config _ => true
   | _ => false) || poisonedMem s w.pa w.size || leNat (memRead s.mem w.pa w.size) != w.val.toNat % 2 ^ (8 * w.size)

/-- The watch a WAITV registers. -/
def watchOf (s : State) (ca size : Nat) (b : W) (clerk : Bool) : Watch :=
  ⟨s.cur.ctx, ca, size, b, if clerk then 0 else s.cur.crec, if clerk then some s.turn else none⟩

/-- WAITV on a clerk (R429): it waits at issue until its watch has fired. A fired watch stands with `crec` 1. -/
def clerkWait (w : Watch) : Op Unit := do
  let s ← get
  let mine := s.watches.filter fun v => v.clerk == some s.turn
  if mine.any fun v => v.pa == w.pa && v.size == w.size && v.val == w.val && v.crec == 1 then
    modify fun s => { s with watches := s.watches.filter fun v => v.clerk != some s.turn }
  else if mine.any fun v => v.pa == w.pa && v.size == w.size && v.val == w.val then waitHere
  else
    waitWith fun s =>
      emit { s with watches := s.watches.filter fun v => v.clerk != some s.turn } (.watchRegister w)

/-- WAITV (R208): the strand's record is written, the watch follows. -/
def execWaitv (x : ABw) : State → Host.Outcome State Fault Refusal := runOp do
  noDelaySlot (.waitv x)
  let a ← readSel x.a
  let b ← readSel x.b
  let n := if x.wide = 1 then 8 else 4
  let p ← checkAccess 5 n n .read false a
  let s ← get
  let ca := match p.loc with
    | .mem ca => ca
    | .config off => 0x200000000000 + off
    | _ => 0
  match kindOf s.turn with
  | .clerk =>
    clerkWait (watchOf s ca n b true)
    finishCommit x.st
  | _ =>
    notQuiesce
    settleStrand
    finishCommit x.st
    modify fun s =>
      let w := watchOf s ca n b false
      emit (suspendAs s s.turn 2 s.cur.pc) (.watchRegister w)

/-- WATCH_REGISTER (R208, R421): the home compares at once; a slice with 1,024 watches wakes its oldest. -/
def execWatchRegister (w : Watch) (s : State) : Host.Outcome State Fault Refusal :=
  let here := s.watches.filter fun v => homeOf v.pa == homeOf w.pa
  let s := match decide (1024 ≤ here.length), here with
    | true, v :: _ => emit s (.watchFire v)
    | _, _ => s
  let s := { s with watches := s.watches ++ [w] }
  stepTo (if watchDiffers s w then emit s (.watchFire w) else s)

/-- WATCH_FIRE (R421): the record goes from STATE 10 to 01 by one compare-and-swap, and only then on the ready queue. A
watch fires at most once. A poisoned record stays as it is (R344; log entry 91). -/
def execWatchFire (w : Watch) (s : State) : Host.Outcome State Fault Refusal :=
  if !s.watches.contains w then stepTo s
  else
    let s := { s with watches := s.watches.erase w }
    match w.clerk with
    | some _ => stepTo { s with watches := s.watches ++ [{ w with crec := 1 }] }
    | none =>
      let home := sliceAgent (homeOf w.pa)
      match recordLoc s home w.ctx w.crec with
      | none => stepTo (noteWalkAt s home (agentRoot s home w.ctx) w.crec.toNat)
      | some ca =>
        let d := leNat (memRead s.mem ca 8)
        if field d 63 62 = 2 ∧ !poisonedMem s ca 8 then
          stepTo (enqFor (homeWrite s ca (natBytes 8 (d - 2 ^ 62))) home w.ctx (readyQueue s w.ctx) w.crec)
        else stepTo s

/-! ### Weight (R239 to R243) -/

/-- WBORROW (R239). -/
def execWborrow (x : A1) : State → Host.Outcome State Fault Refusal := runOp do
  commitPlace (.wborrow x)
  let k ← readSel x.a
  require (k != 0) .weightFine (opInfo 4 0 false)
  require (decide (k.toNat < 2 ^ 48)) .weightOverflow (opInfo 1 k.toNat false)
  require ((← curSlot).wcur != 0) .weightFine (opInfo 3 0 false)
  let t ← freshTag
  let s ← get
  emitOp (.weightGrant s.turn s.cur.ctx k ⟨s.cur.gpc, t⟩)
  finishCommit x.st

/-- WEIGHT_GRANT (R239): the home mints the units and sends them on channel 1, or the borrower takes a late trap: MEMERR
where the record holds uncorrectable data (R344; log entry 91). -/
def execWeightGrant (h : HartId) (ctx : BitVec 16) (k : W) (op : IssueMark) (s : State) :
    Host.Outcome State Fault Refusal :=
  match mintWeight s ctx k.toNat with
  | some s' =>
    stepTo (emit s' (.messageArrival (agentOf h) ⟨ctx, 1, homeAgent s ctx, BitVec.ofNat 48 k.toNat, [k], .plain, 3⟩))
  | none =>
    if homePoisoned s ctx then stepTo (emit s (.lateFault h .memerr (memInfo 0 2 (homeRecord s ctx) true) op))
    else stepTo (emit s (.lateFault h .weightOverflow (opInfo 2 k.toNat true) op))

/-- WQUERY (R240): the home answers between its updates; a record that holds uncorrectable data is MEMERR with its physical
address (R344; log entry 91). -/
def execWquery (x : RR) : State → Host.Outcome State Fault Refusal := runOp do
  let a ← readSel x.a
  let s ← get
  let c := s.cur.ctx
  require (!homePoisoned s c) .memerr (memInfo 0 0 (homeRecord s c) false)
  produceNow x.d (w64 (match a.toNat % 4 with
    | 0 => totalOf s c
    | 1 => atHomeOf s c
    | 2 => lostOf s c
    | _ => homeFlags s c))
  finish x.st

/-- QARM (R241). -/
def execQarm (x : A1) : State → Host.Outcome State Fault Refusal := runOp do
  commitPlace (.qarm x)
  let a ← readSel x.a
  let s ← get
  let core := a.toNat % 4096
  require (placementOf s core s.cur.ctx).isSome .protect (opInfo 17 a.toNat false)
  emitOp (.homeWeightUpdate (.arm s.cur.ctx (BitVec.ofNat 12 core)))
  finishCommit x.st

/-- HOME_WEIGHT_UPDATE (R39): one operation on a home record. An event is minted its unit, or dropped and reported when
quiescence has been raised (R243). -/
def execHomeWeightUpdate (u : WeightUpd) (s : State) : Host.Outcome State Fault Refusal :=
  match u with
  | .ret c w => stepTo (returnWeight s c w)
  | .writeOff c w => stepTo (writeOffWeight s c w)
  | .arm c core =>
    let done := qdone s c
    if homePoisoned s c then stepTo s
    else
    let s := setHome s c 24 (b1 done * 2 ^ 17 + 2 ^ 16 + core.toNat)
    stepTo (if done then emit s (.messageArrival core.toNat (quiesceMsg s c)) else quiesceTest s c)
  | .mintEvent c core ch sender payload =>
    let drop : State := report s (dieOfAgent core) 8 core 0 0 ch.toNat false
    if qdone s c then stepTo drop
    else match mintWeight s c 1 with
      | some s' => stepTo (emit s' (.messageArrival core ⟨c, ch, sender, 1, [payload], .plain, 3⟩))
      | none => stepTo drop

/-- RETURN_COMBINE_FLUSH (R237, R415): the returns a network interface holds go to their homes, those of one context as
one sum; a return waits for the updates of its context's published regions. -/
def execReturnCombineFlush (core : Nat) (s : State) : Host.Outcome State Fault Refusal :=
  let k := coreOf s core
  let go := k.returns.filter fun r => !blocked s r.1
  let ctxs := (go.map (·.1)).dedup
  let sum (c : BitVec 16) : Nat := ((go.filter fun r => r.1 == c).map (·.2)).foldl (· + ·) 0
  let s := setCore s core { k with returns := k.returns.filter fun r => blocked s r.1 }
  stepTo { s with events := s.events ++ ctxs.map fun c => .homeWeightUpdate (.ret c (sum c)) }
where
  /-- Whether updates of a context's regions on the core are still on their way. -/
  blocked (s : State) (c : BitVec 16) : Bool :=
    (coreOf s core).pubs.any (fun e => e.2.ctx == c && e.2.batch.isSome) ||
      s.events.any fun e => match e with
        | .updateApply u => u.pubCore == core && u.ctx == c
        | .updateLogWrite u => u.pubCore == core && u.ctx == c
        | _ => false

/-! ### Starting a strand (R33, R224, R235, R364) -/

/-- The slot at the first instruction of a strand of a placement: the defaults of SDEF, everything else zero; the
registers of the slot itself stay (R27, R33). -/
def freshSlot (p : Placement) (clock : Nat) (x : Slot) : Slot :=
  { emptied x with
    live := true
    ctx := p.ctx
    seed := p.seed
    partw := p.partw
    pbase := p.pbase
    checkstall := bitOf p.sdef.toNat 8
    fpte := BitVec.ofNat 5 (field p.sdef.toNat 7 3)
    rmode := BitVec.ofNat 3 (field p.sdef.toNat 2 0)
    fpflags := 0
    vlanes := 0
    v := []
    m := Vector.replicate 4 0
    runAt := clock
    entryCtx := p.ctx }

/-- The slot at an address, with words following in sequence and a region that starts there. -/
def atEntry (pc : Addr) (x : Slot) : Slot := { x with pc := pc, npc := pc + 4, nnpc := pc + 8, rstart := pc, gpc := pc }

/-- The slot with its first queue entries set. -/
def withQueue (a b c : W) (x : Slot) : Slot :=
  { x with q := ((x.q.set 0 (ready a)).set 1 (ready b)).set 2 (ready c) }

/-- The acquire of a start: shared lines are discarded at cluster scope or wider (R230, R310). -/
def startAcquire (s : State) (core : Nat) (scope : Nat) : State := if scope = 0 then s else dropShared s core

/-- Whether a push's target range lies in the destination's scratchpad, or in an operand slot of its context
(R234, R393). -/
def pushTargetOk (s : State) (core : Nat) (p : Placement) (target len : Nat) : Bool :=
  if bitOf target 63 then
    field target 62 27 == 0 && field target 18 11 == 0 && decide (target % 2048 + len ≤ 2048) &&
      (match mapFind (clusterAt s (clusterOf core)).oslots (field target 26 19) with
       | some o => o.ctx == p.ctx
       | none => false)
  else decide (target % 2 ^ 18 + len ≤ padSize p.partw) && decide (0x100 ≤ target % 2 ^ 18)

/-- The data of a push written at its target. -/
def writePush (s : State) (core : Nat) (p : Placement) (target : Nat) (bs : List Byte) : State :=
  if bitOf target 63 then
    let c := clusterOf core
    setCluster s c (operandWrite (clusterAt s c) (field target 26 19 * 2048 + target % 2048) bs)
  else poolPerform s core (padBase p.partw p.pbase + target % 2 ^ 18) bs

/-- A message taken from a network interface. -/
def takeMessage (s : State) (core i : Nat) : State :=
  let k := coreOf s core
  setCore s core { k with ni := dropAt k.ni i }

/-- The phase of a stage opened in a root strand's slot before its first instruction, as PHASE would; where PHASE would trap,
the strand traps at its entry (R260, R373; log entry 81). -/
def openStage (s : State) (h : HartId) (p : Placement) (i : Nat) : State :=
  let t := switchTo s h
  let t := match (openPhase p (w64 i)) t with
    | .ok (_, t') => t'
    | .error (.trap c info) => takeTrap t h c info (some t.cur.pc)
    | .error (.constantPage info) => takeRefusal t h info t.cur.pc
    | .error _ => t
  switchTo t s.turn

/-- The record of the strand that handles a context's QUIESCE message noted, so that it stays that handler wherever it
resumes (R242). -/
def noteQuiescer (s : State) (c : BitVec 16) (crec : W) : State :=
  match ctxOf s c with
  | some k => { s with ctxs := mapPut s.ctxs c.toNat { k with quiescer := some crec } }
  | none => s

/-- The handler of a message started in a slot (R224, R234, R364), its record taken from the free-record queue. DESIGN
CHOICE (log entry 118): a pushed handler starts in user mode, whatever SUP the channel's entry holds; R234 takes CLASS,
LEVEL and MASK from the entry and names no SUP. -/
def startMessage (s : State) (h : HartId) (p : Placement) (i : Nat) (m : Msg) (crec : W) : State :=
  let core := agentOf h
  let e := entryAt p m.channel.toNat
  let s := takeMessage s core i
  let data := (m.payload.map (wordBytes 8)).flatten
  let first := (m.payload[0]?).getD 0
  let base := { freshSlot p s.clock (slotOf s h) with wcur := m.weight, crec := crec }
  let s := startAcquire s core m.scope
  let k := coreOf s core
  let mark (s : State) : State :=
    setCore s core { k with chanPtr := mapPut k.chanPtr (ptrKey e.cls e.level.toNat) m.channel.toNat }
  match m.kind with
  | .root entry member group _ phase =>
    let s := setSlot s h (withQueue (w64 member) (w64 group) 0xFFF (atEntry entry base))
    match phase with
    | none => s
    | some i => openStage s h p i
  | .push pc target =>
    let s := writePush (mark s) core p target.toNat data
    setSlot s h (withQueue first target (m.sender.zeroExtend 64) (atEntry pc base))
  | .plain =>
    let s := mark s
    let bare := e.sup && e.landing == 0
    let s := if bare then s else poolPerform s core (padBase p.partw p.pbase + e.landing.toNat) data
    let x := withQueue first (if bare then 0 else e.landing.zeroExtend 64) (m.sender.zeroExtend 64) (atEntry e.pc base)
    let x := { x with
      sup := e.sup
      quiesce := m.channel == 0
      landing := if bare then none else some m.channel }
    let s := setSlot s h x
    let s := if m.channel = 0 then noteQuiescer s m.ctx crec else s
    if bare then s else setPlacement s core { p with heldCh := p.heldCh ++ [m.channel] }

/-- A message whose push target is refused at the destination (R223, R234). -/
def refusedPush (s : State) (core : Nat) (p : Placement) (m : Msg) : Bool :=
  match m.kind with
  | .push _ t => !pushTargetOk s core p t.toNat (8 * m.payload.length)
  | _ => false

/-- The record at the head of the ready queue picked up (R35): from STATE 01 to 11, and run, or written off when it is
malformed. The queue item is gone in `s`. -/
def startRecord (s : State) (h : HartId) (p : Placement) (crec : W) (ca : Nat) : State :=
  let core := agentOf h
  let bs := memRead s.mem ca 64
  let d := dword bs 0
  if field d 63 62 ≠ 1 then s
  else
    let s := homeWrite s ca (natBytes 8 (d + 2 ^ 63))
    let weight := dword bs 8 / 2 ^ 16
    if d % 4 ≠ 0 ∨ dword bs 8 % 2 ^ 16 ≠ p.ctx.toNat then
      let s := if weight = 0 then s else emit s (.homeWeightUpdate (.writeOff p.ctx weight))
      report (freeRecord s core p.ctx crec) (dieOfAgent core) 6 core ca 64 0 false
    else
      let s := startAcquire (noteRun s core (isH h) p.ctx) core 3
      let n (i : Nat) : Entry := ready (w64 (dword bs (16 + 8 * i)))
      let x := atEntry (BitVec.ofNat 56 d) (freshSlot p s.clock (slotOf s h))
      let s := setSlot s h { x with
        wcur := BitVec.ofNat 48 weight
        fpflags := BitVec.ofNat 5 (field d 60 56)
        crec := crec
        quiesce := (match ctxOf s p.ctx with
          | some k => k.quiescer == some crec
          | none => false)
        n := #v[n 0, n 1, n 2, n 3, n 4, n 5, ready 0, ready 0] }
      endAbsence s core p.ctx

/-- The malformed entries that the looks of a core's empty slots have met made known (R337). -/
def noteLooks (s : State) (core : Nat) : State :=
  match badLooks s core with
  | [] => s
  | looks =>
    let k := coreOf s core
    let s := setCore s core { k with noted := k.noted ++ looks }
    { s with events := s.events ++ looks.map fun l => .pageWalk core l.1 (agentRoot s core l.1) (BitVec.ofNat 56 l.2) }

/-- SLOT_SELECT (R376): a slot without a strand takes the work of the first context visited that has any, once the messages
that a full inbound queue has spilled are back (R405). -/
def execSlotSelect (h : HartId) (s : State) : Host.Outcome State Fault Refusal :=
  let core := agentOf h
  let cls := isH h
  if (slotOf s h).live then stepTo s
  else match overflowed s core, chooseWork s core cls with
    | some p, _ => stepTo (unspillMessages s core p.ctx)
    | none, none => stepTo (noteLooks s core)
    | none, some (p, w) =>
      let k := coreOf s core
      match w with
      | .saved => stepTo (requestResume (setSlot (noteRun s core cls p.ctx) h (freshSlot p s.clock (slotOf s h))) h)
      | .message i =>
        match k.ni[i]? with
        | none => stepTo s
        | some m =>
          if refusedPush s core p m then stepTo (refuseMessage (takeMessage s core i) core m)
          else match deqFor s core p.ctx (freeQueue s p.ctx) with
            | none => stepTo s
            | some (crec, s') => stepTo (endAbsence (startMessage (noteRun s' core cls p.ctx) h p i m crec) core p.ctx)
      | .record =>
        match headRecord s core p.ctx cls with
        | none => stepTo s
        | some (crec, ca, s') => stepTo (startRecord s' h p crec ca)

end Sys2Proof.Machine
end

