-- ==== Sys2Proof/Machine/Subs.lean ====
section
/-!
DEFINITION. Gangs and subscriptions: the barrier, publishing and subscribing, updates and their logs (R256 to R259,
R317, R412 to R417, R419).
-/
namespace Sys2Proof.Machine

/-! ### The barrier (R256) -/

/-- Whether every member core of a gang has arrived. -/
def allArrived (x : Ctx) : Bool := x.members.all fun m => x.arrivals.any fun h => h % 4096 == m.2

/-- The smallest scope that contains the gang. -/
def gangScope (x : Ctx) : Nat :=
  let cores := x.members.map (·.2)
  widest (cores.map (scopeBetween (cores.headD 0)))

/-- A context's record replaced. -/
def setCtx (s : State) (c : BitVec 16) (x : Ctx) : State := { s with ctxs := mapPut s.ctxs c.toNat x }

/-- The arrival of a hart's core registered; the last one completes the episode. A second arrival of a core is kept for the
next episode. -/
def registerArrival (s : State) : State :=
  let c := s.cur.ctx
  match ctxOf s c with
  | none => s
  | some x =>
    if x.arrivals.any fun h => h % 4096 == agentOf s.turn then setCtx s c { x with later := x.later ++ [s.turn.toNat] }
    else
      let x := { x with arrivals := x.arrivals ++ [s.turn.toNat] }
      let s := setCtx s c x
      if allArrived x then emit s (.gbarEpisodeComplete c) else s

/-- GBAR once what GBAR.PUB also waits for holds. A hart whose episode has completed issues; one that has arrived waits. -/
def barrier (st : BitVec 3) (before : Op Unit) : Op Unit := do
  notQuiesce
  let s ← get
  require (isGang s s.cur.ctx) .gangScope (opInfo 1 0 false)
  match ctxOf s s.cur.ctx with
  | none => trapWith .gangScope (opInfo 1 0 false)
  | some x =>
    if x.passed.contains s.turn.toNat then
      settleStores
      let scope := gangScope x
      release scope
      acquire scope
      modify fun s => setCtx s s.cur.ctx { x with passed := x.passed.filter fun h => h != s.turn.toNat }
      finishCommit st
    else if (x.arrivals ++ x.later).contains s.turn.toNat then waitHere
    else
      settleStores
      before
      waitWith fun s => registerArrival (if gangScope x = 0 then s else flushDirty s (agentOf s.turn))

/-- Whether updates of a core's regions are on their way, or held back at a subscriber (R259, R415). -/
def updatesInFlight (s : State) (core : Nat) (sel : Nat → Bool) : Bool :=
  (s.events.any fun e => match e with
    | .updateApply u => u.pubCore == core && sel u.slot
    | .updateLogWrite u => u.pubCore == core && sel u.slot
    | _ => false) ||
    s.cores.any fun k => k.2.expect.any fun e => e.pubCore == core && sel e.slot && !e.held.isEmpty

/-- The wait of PUBFENCE (R259): the earlier stores have performed, the window closes, and every update has been applied. -/
def pubSettle : Op Unit := do
  let s ← get
  if appendsPending s s.turn then waitHere
  let core := agentOf s.turn
  if (coreOf s core).pubs.any fun e => e.2.batch.isSome then waitWith fun s => closeBatches s core
  if updatesInFlight s core fun _ => true then waitHere

/-- GBAR (R256). -/
def execGbar (x : N0) : State → Host.Outcome State Fault Refusal := runOp do
  noDelaySlot (.gbar x)
  barrier x.st (pure ())

/-- GBAR.PUB (R256). -/
def execGbarPub (x : N0) : State → Host.Outcome State Fault Refusal := runOp do
  noDelaySlot (.gbarPub x)
  barrier x.st pubSettle

/-- GBAR_EPISODE_COMPLETE (R256): every waiting GBAR of the episode issues, and the second arrivals of its cores count toward
the next one. -/
def execGbarEpisodeComplete (ctx : BitVec 16) (s : State) : Host.Outcome State Fault Refusal :=
  match ctxOf s ctx with
  | none => stepTo s
  | some x =>
    if allArrived x then
      let y := { x with passed := x.passed ++ x.arrivals, arrivals := x.later, later := [] }
      let s := setCtx s ctx y
      stepTo (if allArrived y then emit s (.gbarEpisodeComplete ctx) else s)
    else stepTo s

/-- PUBFENCE (R259). -/
def execPubfence (x : N0) : State → Host.Outcome State Fault Refusal := runOp do
  commitPlace (.pubfence x)
  pubSettle
  finishCommit x.st

/-! ### Handles (R257) -/

/-- The handle of a subscriber slot: publisher member, entry and slot. -/
def handleOf (member entry slot : Nat) : Nat := member * 2 ^ 8 + entry * 2 ^ 4 + slot % 16 + slot * 2 ^ 24

/-- The publisher's core, the member and the slot that a live handle of a context names (R258). -/
def liveHandle (s : State) (c : BitVec 16) (v : Nat) : Option (Nat × Nat) :=
  match memberCore s c (field v 21 8) with
  | none => none
  | some core =>
    let slot := field v 29 24
    match mapFind (coreOf s core).subs slot with
    | none => none
    | some t =>
      if t.ctx = c ∧ handleOf t.member t.entry slot = v then some (core, slot) else none

/-- The subscriber's half of a subscription gone. -/
def dropExpect (s : State) (subCore pubCore slot : Nat) : State :=
  let k := coreOf s subCore
  setCore s subCore { k with expect := k.expect.filter fun e => !(e.pubCore == pubCore && e.slot == slot) }

/-- The end of a subscription (R258, R412): its slot is freed, and an entry whose last slot has ended. -/
def endSubscription (s : State) (core slot : Nat) : State :=
  let k := coreOf s core
  match mapFind k.subs slot with
  | none => s
  | some t =>
    let pubs := match mapFind k.pubs t.entry with
      | none => k.pubs
      | some e =>
        let e := { e with slots := e.slots.filter fun j => j != slot }
        if e.slots.isEmpty then mapDel k.pubs t.entry else mapPut k.pubs t.entry e
    let s := dropExpect (setCore s core { k with pubs := pubs, subs := mapDel k.subs slot }) t.subCore core slot
    noteLog s t.subCore t.ctx core slot .ended

/-- An event of a subscription sent to its subscriber by the home (R243). -/
def subscriptionEvent (s : State) (event slot : Nat) (t : SubSlot) : State :=
  emit s (.homeWeightUpdate (.mintEvent t.ctx t.subCore 2 (homeAgent s t.ctx)
    (w64 (event * 2 ^ 56 + handleOf t.member t.entry slot))))

/-- A publisher entry ended by RETIRE (R413): each subscriber receives event 2. -/
def endEntry (s : State) (core i : Nat) : State :=
  match mapFind (coreOf s core).pubs i with
  | none => s
  | some e =>
    let one (s : State) (j : Nat) : State :=
      match mapFind (coreOf s core).subs j with
      | none => s
      | some t => endSubscription (subscriptionEvent s 2 j t) core j
    e.slots.foldl one s

/-- The subscriptions that a core holds as subscriber: publisher core and slot of each. -/
def subscribed (s : State) (core : Nat) (c : BitVec 16) : List (Nat × Nat) :=
  (coreOf s core).expect.filterMap fun e =>
    match mapFind (coreOf s e.pubCore).subs e.slot with
    | some t => if t.ctx = c then some (e.pubCore, e.slot) else none
    | none => none

/-- Every subscription of a core as subscriber ended. -/
def endSubscribed (s : State) (core : Nat) (c : BitVec 16) : State :=
  (subscribed s core c).foldl (fun s q => endSubscription s q.1 q.2) s

/-! ### SUBSCRIBE and UNSUB (R257, R258, R419) -/

/-- Whether a length is one of a region that may be published or subscribed. -/
def lengthOk (len : Nat) : Bool := len % 32 == 0 && decide (32 ≤ len) && decide (len ≤ 65536)

/-- Whether a region of such a length lies where it may within a scratchpad. -/
def regionOk (off len size : Nat) : Bool := off % 32 == 0 && decide (0x100 ≤ off) && decide (off + len ≤ size)

/-- SUBSCRIBE (R257). PROTECT 19 names the operand that is at fault: the address, the length, then the regions (R218; log
entry 33). -/
def execSubscribe (x : RRRR) : State → Host.Outcome State Fault Refusal := runOp do
  commitPlace (.subscribe x)
  let a ← readSel x.a
  let b ← readSel x.b
  let c ← readSel x.c
  let s ← get
  let core := agentOf s.turn
  let bad (w : W) : W := opInfo 19 w.toNat false
  require (isGang s s.cur.ctx) .gangScope (opInfo 1 a.toNat false)
  require (bitOf a.toNat 31 && decide (a.toNat < 2 ^ 32)) .protect (bad a)
  let member := field a.toNat 30 18
  let base := a.toNat % 2 ^ 18
  require (decide (member < memberCount s s.cur.ctx)) .gangScope (opInfo 2 a.toNat false)
  match memberCore s s.cur.ctx member with
  | none => trapWith .gangScope (opInfo 2 a.toNat false)
  | some pub =>
    match placementOf s pub s.cur.ctx with
    | none => trapWith .gangScope (opInfo 2 a.toNat false)
    | some p =>
      require (lengthOk c.toNat) .protect (bad c)
      require (regionOk base c.toNat (padSize p.partw)) .protect (bad a)
      require (regionOk b.toNat c.toNat (padSize s.cur.partw)) .protect (bad b)
      require (pub != core) .protect (bad a)
      let (tag, dest) ← reserve x.d
      emitOp (.subscriptionEstablish
        ⟨s.turn, tag, dest, s.cur.ctx, pub, member, base, c.toNat, core, b.toNat⟩)
      finishCommit x.st

/-- The lowest number below `n` that a table does not hold: which free publisher entry or subscriber slot is taken is the
model's choice (R257; log entry 92). -/
def lowestFree {α : Type} (m : AMap α) (n : Nat) : Option Nat := (List.range n).find? fun i => (mapFind m i).isNone

/-- UNSUB (R258). -/
def execUnsub (x : A1) : State → Host.Outcome State Fault Refusal := runOp do
  commitPlace (.unsub x)
  let a ← readSel x.a
  let s ← get
  match liveHandle s s.cur.ctx a.toNat with
  | none => trapWith .protect (opInfo 22 a.toNat false)
  | some (core, slot) =>
    if updatesInFlight s core fun j => j == slot then waitHere
    modify fun s => endSubscription s core slot
    finishCommit x.st

/-! ### Updates (R413 to R417) -/

/-- BATCH_WINDOW_EXPIRY (R414). -/
def execBatchWindowExpiry (core entry : Nat) (s : State) : Host.Outcome State Fault Refusal :=
  stepTo (closeBatch s core entry)

/-- The order of one subscription at its subscriber moved on; updates held back come up again (R414). -/
def nextUpdate (s : State) (u : Update) : State :=
  let k := coreOf s u.core
  let mine (e : Expect) : Bool := e.pubCore == u.pubCore && e.slot == u.slot
  let held := (k.expect.filter mine).flatMap (·.held)
  let step (e : Expect) : Expect := if mine e then { e with next := u.seq + 1, held := [] } else e
  let s := setCore s u.core { k with expect := k.expect.map step }
  { s with events := held.map Event.updateApply ++ s.events }

/-- An update that arrived ahead of a missing one, held back. -/
def holdUpdate (s : State) (u : Update) : State :=
  let k := coreOf s u.core
  let step (e : Expect) : Expect :=
    if e.pubCore == u.pubCore && e.slot == u.slot then { e with held := e.held ++ [u] } else e
  setCore s u.core { k with expect := k.expect.map step }

/-- UPDATE_APPLY (R414): in SEQ order; one of an ended or broken subscription is discarded, one for an absent subscriber
is logged. -/
def execUpdateApply (u : Update) (s : State) : Host.Outcome State Fault Refusal :=
  match mapFind (coreOf s u.pubCore).subs u.slot with
  | none => stepTo s
  | some t =>
    if t.broken || t.ctx != u.ctx || t.subCore != u.core then stepTo s
    else match placementOf s u.core u.ctx with
      | none => stepTo s
      | some p =>
        if p.absent then stepTo (emitFirst s (.updateLogWrite u))
        else match (coreOf s u.core).expect.find? fun e => e.pubCore == u.pubCore && e.slot == u.slot with
          | none => stepTo s
          | some e =>
            if e.next = u.seq then
              stepTo (nextUpdate (writeUpdate s u.core (padBase p.partw p.pbase + u.off) u.bytes) u)
            else stepTo (holdUpdate s u)

/-- The 64-byte log entry of the bytes of an update that lie in its line `i`, with the line's other bytes as they stood when
its batch closed (R416). -/
def logEntry (u : Update) (i : Nat) : List Byte :=
  let mine := u.bytes.filter fun q => q.1 / 32 == i
  let mask := (mine.map fun q => 2 ^ (q.1 % 32)).foldl (· + ·) 0
  natBytes 8 (mask * 2 ^ 32 + u.slot * 2 ^ 24 + (u.off + 32 * i) % 2 ^ 18) ++ natBytes 8 u.seq.toNat ++
    ((List.range 32).map fun j => mapGet (u.data.getD j 0) mine (32 * i + j)) ++ natBytes 16 0

/-- The entries of one update in the log of an absent subscriber, or, when they do not fit, the subscription broken, its
entries skipped, and event 1 sent by the home (R416). -/
def logUpdate (s : State) (u : Update) : State :=
  match mapFind (coreOf s u.pubCore).subs u.slot, placementOf s u.core u.ctx with
  | some t, some p =>
    if t.broken then s
    else
      let (base, size) := updateLog s u.core p
      let lines := ((u.bytes.map fun q => q.1 / 32).dedup)
      let n := p.logged.length
      if (n + lines.length) * 64 ≤ size then
        let put (s : State) (q : Nat × Nat) : State := physWrite s (base + 64 * (n + q.2)) (logEntry u q.1)
        let p := { p with logged := p.logged ++ lines.map fun _ => .live u.pubCore u.slot }
        nextUpdate (setPlacement (lines.zipIdx.foldl put s) u.core p) u
      else
        let k := coreOf s u.pubCore
        let s := setCore s u.pubCore { k with subs := mapPut k.subs u.slot { t with broken := true } }
        let s := noteLog s u.core u.ctx u.pubCore u.slot .skipped
        subscriptionEvent s 1 u.slot t
  | _, _ => s

/-- UPDATE_LOG_WRITE (R416). -/
def execUpdateLogWrite (u : Update) (s : State) : Host.Outcome State Fault Refusal := stepTo (logUpdate s u)

/-- The bytes of a publisher's snapshot with their offsets; those of a poisoned word are not delivered (R344, R419; log
entry 91). -/
def snapshotOf (s : State) (core start len : Nat) : List (Nat × Byte) :=
  ((List.range len).zip (poolRead s core start len)).filter fun q => !poisonedPool s core (start + q.1) 1

/-- SUBSCRIPTION_ESTABLISH (R257, R419): at the publisher a region with the same base and length shares an entry; the
snapshot is applied at the subscriber, where the subscribing strand runs, and the handle written after it. Which entry and
slot are taken, and what is answered when neither is free, are the model's choice (log entry 92). -/
def execSubscriptionEstablish (r : SubReq) (s : State) : Host.Outcome State Fault Refusal :=
  let k := coreOf s r.pubCore
  let answer (s : State) (v : Nat) : State := deliver s ⟨r.h, r.tag, r.dest, w64 v, 0⟩
  let same := k.pubs.find? fun e => e.2.ctx == r.ctx && e.2.base == r.base && e.2.len == r.len
  let entry := match same with
    | some e => some e.1
    | none => lowestFree k.pubs 16
  match entry, lowestFree k.subs 64, placementOf s r.pubCore r.ctx with
  | some i, some j, some p =>
    let e : Publisher := match same with
      | some e => e.2
      | none => ⟨r.ctx, r.base, r.len, [], none, []⟩
    let skip := match e.batch with
      | some (_, bytes, _) => bytes.map (·.1)
      | none => []
    let t : SubSlot := ⟨r.ctx, r.pubMember, i, false, r.subCore, r.subOff, 1, skip⟩
    let s := setCore s r.pubCore { k with
      pubs := mapPut k.pubs i { e with slots := e.slots ++ [j] }
      subs := mapPut k.subs j t }
    let bytes := snapshotOf s r.pubCore (padBase p.partw p.pbase + r.base) r.len
    let s := endAbsence s r.subCore r.ctx
    let sub := coreOf s r.subCore
    let s := setCore s r.subCore { sub with expect := sub.expect ++ [⟨r.pubCore, j, 1, []⟩] }
    let s := match placementOf s r.subCore r.ctx with
      | none => s
      | some q => writeUpdate s r.subCore (padBase q.partw q.pbase + r.subOff) bytes
    stepTo (answer s (handleOf r.pubMember i j))
  | some _, none, _ => stepTo (answer s 0x8000000000000002)
  | _, _, _ => stepTo (answer s 0x8000000000000001)

/-- The broken subscriptions of a context on a core, as subscriber: the handle of each, in order of its slot. -/
def brokenHandles (s : State) (core : Nat) (c : BitVec 16) : List (Nat × Nat) :=
  let hs := (subscribed s core c).filterMap fun q =>
    match mapFind (coreOf s q.1).subs q.2 with
    | some t => if t.broken then some (q.2, handleOf t.member t.entry q.2) else none
    | none => none
  (List.range 64).flatMap fun i => hs.filter fun h => h.1 == i

end Sys2Proof.Machine
end

