-- ==== Sys2Proof/Machine/Launch.lean ====
section
/-!
DEFINITION. Launching and growing, where a strand stands, tile queues, timed reads, phases, spinning (R244, R245, R251 to
R255, R260, R261), and the resume after pre-emption (R33, R37, R417).
-/
namespace Sys2Proof.Machine

/-! ### Launching and growing (R244, R245) -/

/-- The child mode of a context's launch. -/
def childMode (s : State) (c : BitVec 16) : Nat :=
  match launchOf s c with
  | some r => r.child.toNat
  | none => 0

/-- LAUNCH (R244): it commits, a release at module scope, and gives up its weight; the home answers. The
record's address is checked at issue (log entry 86). -/
def execLaunch (x : RRRR) : State → Host.Outcome State Fault Refusal := runOp do
  commitPlace (.launch x)
  let a ← readSel x.a
  let b ← readSel x.b
  let c ← readSel x.c
  let s ← get
  let w := s.cur.wcur.toNat
  require (childMode s s.cur.ctx == 1) .protect (opInfo 21 a.toNat false)
  require (c != 0 && decide (c.toNat < w)) .weightFine (opInfo 2 c.toNat false)
  let p ← checkAccess 2 64 64 .both false a
  let r ← checkAccess 1 8 8 .write false (b + 8)
  settleStores
  release 3
  evictPlace p.loc 64
  evictPlace r.loc 8
  let pa ← match p.loc with
    | .mem ca => pure ca
    | .config off => pure (0x200000000000 + off)
    | _ => trapWith .protect (memInfo 0 2 (a.toNat % 2 ^ 56) false)
  let (tag, dest) ← reserve x.d
  modCur fun y => { y with wcur := BitVec.ofNat 48 (w - c.toNat), launches := y.launches + 1 }
  let s ← get
  emitOp (.launchAtHome
    ⟨s.turn, tag, dest, s.cur.gpc, a.setWidth 56, pa, rootOf s s.turn, s.cur.sup, b.setWidth 56, c.setWidth 48, s.cur.ctx⟩)
  finishCommit x.st

/-- What a LAUNCH that launches nothing gives back to its strand. -/
def giveBack (s : State) (h : HartId) (given : BitVec 48) : State :=
  let x := slotOf s h
  setSlot s h { x with wcur := x.wcur + given, launches := x.launches - 1 }

/-- The packet of a launch record and context (R350). DESIGN CHOICE (log entry 128): an address that is not a multiple of 128
goes into the packet as it is, and the dispatcher refuses it (REASON 6); R244 names no check of it. -/
def launchPacket (ctx : BitVec 16) (record : Addr) : Nat := ctx.toNat * 2 ^ 48 + record.toNat % 2 ^ 48

/-- LAUNCH_AT_HOME (R244): with room in the ring, the record's weight field is written and the packet enqueued, as one
step. After a refusal with no LAUNCH left on its way, the failures kept for the slot come up again, the older ones first
(R424). -/
def execLaunchAtHome (r : LaunchReq) (s : State) : Host.Outcome State Fault Refusal :=
  let l := unitLoc r.pa
  let refuse (s : State) (c : Cause) (reason : Nat) (at_ : Option Nat) : State :=
    let s := giveBack (lateTrap s r.h c reason 2 (BitVec.ofNat 56 (at_.getD r.va.toNat)) ⟨r.tpc, r.tag⟩) r.h r.given
    if (slotOf s r.h).launches = 0 then retryFaults s r.h else s
  let status (s : State) (v : Nat) : State := emit s (.launchStatus ⟨r.h, r.tag, r.dest, w64 v, 0⟩ r.given)
  let s := evictHeader s r.h l
  if headerPoisoned s l then stepTo (refuse s .memerr 0 none)
  else
    let s := touchHeader (evictEntry s r.h l r.root r.sup .enq 0) l
    match enqHome s l r.root r.sup (launchPacket r.ctx r.record) with
    | .refuse c reason ring => stepTo (refuse (noteRing s l r.root ring) c reason ring)
    | .value 0 s' =>
      let total := r.record.toNat + 8
      match walk s r.root total with
      | .mapped pa _ _ =>
        let s' := evictOf s' r.h (canonPa pa) 8
        stepTo (status (afterEnq (homeWrite s' (canonPa pa) (natBytes 8 r.given.toNat)) l) 0)
      | _ => stepTo (refuse (noteRing s l r.root (some total)) .page 0 (some total))
    | .value v s' => stepTo (status s' v)

/-- LAUNCH_STATUS (R244): a status other than 0 gives the weight back. -/
def execLaunchStatus (r : Delivery) (given : BitVec 48) (s : State) : Host.Outcome State Fault Refusal :=
  let x := slotOf s r.h
  let s := if r.val = 0 then setSlot s r.h { x with launches := x.launches - 1 } else giveBack s r.h given
  stepTo (deliver (if (slotOf s r.h).launches = 0 then retryFaults s r.h else s) r)

/-- GROW (R245): the home mints the new groups' weight, and their indices join the pending ones. -/
def execGrow (x : RR) : State → Host.Outcome State Fault Refusal := runOp do
  commitPlace (.grow x)
  let a ← readSel x.a
  let s ← get
  let c := s.cur.ctx
  let n := a.toNat
  require (childMode s c == 2) .protect (opInfo 21 n false)
  match ctxOf s c with
  | none => trapWith .protect (opInfo 21 n false)
  | some k =>
    let first := k.groups + k.grown
    let fits := n ≠ 0 ∧ n ≤ 65535 ∧ first + n < 2 ^ 32
    require (!(decide fits && homePoisoned s c)) .memerr (memInfo 0 2 (homeRecord s c) false)
    let minted := if fits then mintWeight s c (n * k.share) else none
    match minted with
    | none => produceNow x.d allOnes
    | some s' =>
      let q := queueAt s' k.queue
      let new : Pending := ⟨c, k.rec_, false, (List.range n).map fun i => (first + i, k.share), [], s.clock⟩
      set (setQueue (setCtx s' c { k with grown := k.grown + n }) k.queue { q with pending := q.pending ++ [new] })
      produceNow x.d (w64 first)
    finishCommit x.st

/-! ### Where a strand stands (R251 to R253) -/

/-- The placement of the executing strand. -/
def curPlacement : Op (Option Placement) := do
  let s ← get
  return placementOf s (agentOf s.turn) s.cur.ctx

/-- The value of a COORD selector (R251). -/
def coordOf (p : Placement) (crec : W) (u : Nat) : W :=
  if u ≤ 7 then w64 (p.coords.getD u 0)
  else match u with
    | 8 => w64 p.member
    | 9 => w64 p.gidx
    | 10 => w64 p.group
    | 11 => w64 p.gcores
    | 12 => crec
    | _ => 0

/-- COORD (R251). -/
def execCoord (x : RR) : State → Host.Outcome State Fault Refusal := runOp do
  let a ← readSel x.a
  let y ← curSlot
  let v := match ← curPlacement with
    | some p => coordOf p y.crec a.toNat
    | none => 0
  produce x.d v 2
  finish x.st

/-- The start and count of part `x` of `parts` of a length, in whole grains (R252). -/
def sliceOf (grain length parts x : Nat) : Nat × Nat :=
  let g := Nat.max grain 1
  let units := (length + g - 1) / g
  let base := units / parts
  let extra := units % parts
  let first := x * base + Nat.min x extra
  let n := base + if x < extra then 1 else 0
  (first * g, Nat.min (n * g) (length - first * g))

/-- SLICE (R252). -/
def execSlice (x : RR) : State → Host.Outcome State Fault Refusal := runOp do
  let a ← readSel x.a
  let j := field a.toNat 3 0
  let sel := field a.toNat 7 4
  let p ← curPlacement
  let (at_, parts) := match p with
    | none => (0, 0)
    | some p => if sel < 8 then (p.coords.getD sel 0, p.exts.getD sel 0) else (p.member, p.mcount)
  if 8 < sel ∨ parts = 0 then produce x.d 0 2
  else
    let q ← localPlace (16 * j) 16 false 0
    let bs ← loadAt q 16 0 (16 * j)
    let (start, count) := sliceOf (dword bs 0) (dword bs 8) parts at_
    produce x.d (w64 (if bitOf a.toNat 8 then count else start)) 2
  finish x.st

/-- The value of a GEOM selector for core `g` of a group (R29, R253). -/
def geomOf (geom : W) (g u : Nat) : Nat :=
  let v := geom.toNat
  let cw := field v 51 48
  if cw = 0 then 0
  else
    let row0 := g / cw * field v 39 32 * 32
    let col0 := g % cw * field v 47 40 * 32
    match u with
    | 0 => row0
    | 1 => Nat.min (field v 39 32 * 32) (field v 15 0 - row0)
    | 2 => col0
    | 3 => Nat.min (field v 47 40 * 32) (field v 31 16 - col0)
    | _ => 0

/-- GEOM (R253). -/
def execGeom (x : RR) : State → Host.Outcome State Fault Refusal := runOp do
  let a ← readSel x.a
  let y ← curSlot
  let g := match ← curPlacement with
    | some p => p.group
    | none => 0
  produce x.d (w64 (geomOf y.geom g a.toNat)) 2
  finish x.st

/-! ### Tile queues (R254) -/

/-- TQINIT (R254). -/
def execTqinit (x : AB) : State → Host.Outcome State Fault Refusal := runOp do
  commitPlace (.tqinit x)
  let a ← readSel x.a
  let b ← readSel x.b
  let s ← get
  let c := clusterOf (agentOf s.turn)
  let k := clusterAt s c
  let t : TileQueue := ⟨s.cur.ctx, a, b⟩
  if k.tileQ.any fun q => q.ctx == s.cur.ctx then
    set (setCluster s c { k with tileQ := k.tileQ.map fun q => if q.ctx = s.cur.ctx then t else q })
  else
    require (decide (k.tileQ.length < 8)) .queue (opInfo 3 a.toNat false)
    set (setCluster s c { k with tileQ := k.tileQ ++ [t] })
  finishCommit x.st

/-- FETCHT (R254). -/
def execFetcht (x : RR) : State → Host.Outcome State Fault Refusal := runOp do
  commitPlace (.fetcht x)
  let a ← readSel x.a
  let s ← get
  let c := clusterOf (agentOf s.turn)
  let k := clusterAt s c
  match k.tileQ.find? fun q => q.ctx == s.cur.ctx with
  | none => produceNow x.d allOnes
  | some q =>
    if q.next < q.fin then
      let next := w64 (Nat.min (q.next.toNat + Nat.max a.toNat 1) q.fin.toNat)
      let step (t : TileQueue) : TileQueue := if t.ctx = q.ctx then { t with next := next } else t
      set (setCluster s c { k with tileQ := k.tileQ.map step })
      produceNow x.d q.next
    else produceNow x.d allOnes
  finishCommit x.st

/-! ### Timed reads, phases, spinning (R255, R260, R261) -/

/-- NREAD (R255); whether the value arrives in time is open (log entry 10). -/
def execNread (x : RAC) : State → Host.Outcome State Fault Refusal := runOp do
  let a ← readSel x.a
  let c ← readSel x.c
  let bs ← loadVa 0 4 4 a
  let (tag, dest) ← reserve x.d
  let s ← get
  if c = 0 ∨ Config.nreadInTime (freeStamp s) then emitOp (.loadResponse ⟨s.turn, tag, dest, leWord bs, 0⟩)
  else emitOp (.nreadTimeout ⟨s.turn, tag, dest, leWord bs, 0⟩)
  finish x.st

/-- NREAD_TIMEOUT (R255): all ones is pushed and the late value discarded. -/
def execNreadTimeout (r : Delivery) (s : State) : Host.Outcome State Fault Refusal :=
  stepTo (deliver s { r with val := allOnes })

/-- PHASE (R260). -/
def execPhase (x : B1) : State → Host.Outcome State Fault Refusal := runOp do
  commitPlace (.phase x)
  let b ← readSel x.b
  match ← curPlacement with
  | none => trapWith .protect (opInfo 23 b.toNat false)
  | some p =>
    openPhase p b
    finishCommit x.st

/-- PHEND (R260). -/
def execPhend (x : N0) : State → Host.Outcome State Fault Refusal := runOp do
  commitPlace (.phend x)
  settlePhase
  modify fun s => { s with cur := { s.cur with phcnt := phNow s.cur s.clock, phAt := s.clock, phopen := false } }
  finishCommit x.st

/-- SPINW (R261): it waits at issue, rereading the word, until the word differs. -/
def execSpinw (x : AB) : State → Host.Outcome State Fault Refusal := runOp do
  noDelaySlot (.spinw x)
  let a ← readSel x.a
  let b ← readSel x.b
  let p ← checkAccess 0 8 8 .read true a
  evictPlace p.loc 8
  let bs ← loadAt p 8 0 (a.toNat % 2 ^ 56)
  if leWord bs = b then waitWith rotateIfDue
  else
    acquire 4
    finishCommit x.st

/-! ### The resume after pre-emption (R33, R37, R417) -/

/-- The slot with what its save area and its core kept of the strand. -/
def resumedSlot (s : State) (core off : Nat) (saved : Option Saved) (x : Slot) : Slot :=
  let area := poolRead s core off 256
  let x := restorePhase area s.clock (restoreScalars area x)
  let x := restoreVectors s core off (field (dword area 0x68) 41 33) x
  let x := { x with
    vgrant := 0, resumed := false, runAt := s.clock, hltaken := false, hold := some (s.clock + 65536), entryCtx := x.ctx,
    overwritten := [] }
  match saved with
  | some v =>
    { x with
      crec := v.crec
      landing := v.landing
      quiesce := v.quiesce
      phsent := v.phsent
      failed := v.failed
      overwritten := v.overwritten }
  | none => x

/-- The lease that the save area says was held, asked for again. -/
def requestLease (s : State) (h : HartId) (word : Nat) : State :=
  if bitOf word 28 then
    let c := clusterOf (agentOf h)
    let k := clusterAt s c
    let x := slotOf s h
    let s := setSlot s h { x with lreq := some (BitVec.ofNat 7 (field word 22 16), BitVec.ofNat 11 (field word 10 0)) }
    setCluster s c { k with leaseWait := k.leaseWait ++ [h], grantAt := Nat.max k.grantAt (s.tick + 1) }
  else s

/-- PREEMPT_RESUME (R33, R37, R417): the strand's state comes back from its save area, the messages and updates of its
context are taken again, its lease is requested; a broken subscription traps before the first instruction. A poisoned
save area is a crash of the resident kernel, which saved there (R344, R439; log entry 80). -/
def execPreemptResume (h : HartId) (s : State) : Host.Outcome State Fault Refusal :=
  let a := agentOf h
  let x := slotOf s h
  match (if x.resumed then placementOf s a x.ctx else none) with
  | none => stepTo s
  | some p =>
    let off := saveOffset (isH h) x.partw x.pbase
    let area := poolRead s a off 256
    let word := dword area 0x58
    if poisonedPool s a off (if field (dword area 0x68) 41 33 = 0 then 1024 else 1024 + 2048 * vmaxOf x.partw) then
      stepTo (kernelCrash s 1)
    else
    let s := setSlot s h (resumedSlot s a off (if isH h then p.savedH else p.savedL) x)
    let p := if isH h then { p with savedH := none } else { p with savedL := none }
    let s := endAbsence (setPlacement s a p) a x.ctx
    let s := requestLease (noteRun s a (isH h) x.ctx) h word
    match brokenHandles s a x.ctx with
    | [] => stepTo (retryFaults s h)
    | b :: bs => stepTo (takeTrap s h .subLost (w64 ((bs.length + 1) * 2 ^ 32 + b.2 % 2 ^ 30)) none)

end Sys2Proof.Machine
end

