-- ==== Sys2Proof/Machine/Retire.lean ====
section
/-!
DEFINITION. RETIRE: the inheritance block, the successor's record, the shape rule, the scrub and the successor's start
(R246 to R250).
-/
namespace Sys2Proof.Machine

/-! ### The inheritance block (R247) -/

/-- What a successor inherits. -/
structure Inherit where
  subs : Bool
  oslots : Bool
  tiles : BitVec 8
  nregs : BitVec 6
  ranges : List (Nat × Nat)
  deriving DecidableEq, Repr

/-- The offset and length of a range. -/
def rangeOf (w : Nat) : Nat × Nat := (field w 17 0, field w 49 32)

/-- The enabled ranges of a block's five doublewords. -/
def enabledRanges (d : List Nat) : List (Nat × Nat) :=
  ((List.range 4).filter fun i => bitOf (d.getD 0 0) (16 + i)).map fun i => rangeOf (d.getD (i + 1) 0)

/-- Whether a block meets R247. -/
def inheritOk (d : List Nat) : Bool :=
  field (d.getD 0 0) 63 20 == 0 && ((d.drop 1).all fun w => field w 63 50 == 0 && field w 31 18 == 0) &&
    (enabledRanges d).all fun r =>
      r.1 % 256 == 0 && decide (0x100 ≤ r.1) && r.2 % 256 == 0 && decide (256 ≤ r.2)

/-- The block read. -/
def inheritOf (d : List Nat) : Inherit :=
  let m := d.getD 0 0
  ⟨bitOf m 15, bitOf m 14, BitVec.ofNat 8 (field m 13 6), BitVec.ofNat 6 (field m 5 0), enabledRanges d⟩

/-! ### The shape rule (R249) -/

/-- The shape rule of a predecessor's and a successor's partition words. -/
def shapeRule (p s : BitVec 32) (inh : Inherit) : Bool :=
  partwOk s && decide (regu s + spadu s + accuOf s ≤ regu p + spadu p + accuOf p) &&
    (inh.ranges.isEmpty || (regu s == regu p && inh.ranges.all fun r => decide (r.1 + r.2 ≤ padSize s))) &&
    (inh.tiles == 0 || (regu s == regu p && spadu s == spadu p && acc64Of s == acc64Of p &&
      (List.range 8).all fun i => !bitOf inh.tiles.toNat i || tileExists (acc64Of s) (accuOf s) i))

/-! ### The scrub (R250) -/

/-- Pool bytes set to zero, and no longer poisoned. -/
def zeroPool (s : State) (core off n : Nat) : State :=
  clearPoolPoison { s with pools := memClear s.pools (poolKey core off) n } core off n

/-- Whether a block of 256 bytes of the scratchpad lies in an inherited range. -/
def keepsBlock (inh : Inherit) (off : Nat) : Bool := inh.ranges.any fun r => decide (r.1 ≤ off) && decide (off < r.1 + r.2)

/-- The scratchpad of a successor from 0x100 on, but for the inherited ranges. -/
def scrubPad (s : State) (core base size : Nat) (inh : Inherit) : State :=
  (List.range (size / 256 - 1)).foldl
    (fun s i => if keepsBlock inh (256 * (i + 1)) then s else zeroPool s core (base + 256 * (i + 1)) 256) s

/-- The tiles that are not inherited, and their edge words, where the core's buffer or the context's own partition and
registry entry hold them (R300, R437). Edge words that the entry cannot give back stay as they are (R344; log entry 91). -/
def scrubTiles (s : State) (core : Nat) (p : Placement) (partw : BitVec 32) (inh : Inherit) : State :=
  let k := coreOf s core
  let kept (i : Nat) : Bool := bitOf inh.tiles.toNat i
  let s :=
    if bitOf k.accown.toNat 16 ∧ k.accown.toNat % 2 ^ 16 = p.ctx.toNat then
      setCore s core { k with
        tiles := k.tiles.filter fun q => kept (q.1 / 1024)
        edges := k.edges.filter fun q => kept q.1 }
    else s
  let size := tileSize (acc64Of partw)
  let start := padBase partw p.pbase + padSize partw
  let zero (s : State) (i : Nat) : State := if kept i then s else zeroPool s core (start + i * size) size
  let s := (List.range (accuOf partw * 4096 / size)).foldl zero s
  let die := dieOfAgent core
  if inh.tiles = 0xFF then s
  else
    let four (s : State) (k : Nat) : State :=
      let some_ := (List.range 4).any fun i => kept (4 * k + i)
      match if some_ then regWord s die p.ctx (64 + 8 * k) else some 0 with
      | none => s
      | some d => setRegDword s die p.ctx (64 + 8 * k)
          (((List.range 4).map fun i => if kept (4 * k + i) then field d (16 * i + 15) (16 * i) * 2 ^ (16 * i) else 0).foldl (· + ·) 0)
    four (four s 0) 1

/-- The published regions that no inherited range holds, ended (R413). -/
def endRegions (s : State) (core : Nat) (c : BitVec 16) (inh : Inherit) : State :=
  let held (e : Publisher) : Bool := inh.ranges.any fun r => decide (r.1 ≤ e.base) && decide (e.base + e.len ≤ r.1 + r.2)
  ((coreOf s core).pubs.filter fun q => q.2.ctx == c && !held q.2).foldl (fun s q => endEntry s core q.1) s

/-! ### The successor (R248) -/

/-- The named registers of a successor. -/
def inheritedRegs (inh : Inherit) (x : Slot) : Vector Entry 8 :=
  let r (i : Nat) : Entry := if bitOf inh.nregs.toNat i then ready (nEntry x i).val else ready 0
  #v[r 0, r 1, r 2, r 3, r 4, r 5, ready 0, ready 0]

/-- The scrub and the start of a successor in a strand's slot, its first instruction an acquire at the scope. DESIGN CHOICE
(log entry 119): the successor's table holds the kernel's entries for channels 4 and 5, as at a placement (R435). -/
def startSuccessor (s : State) (h : HartId) (p : Placement) (r : Launch) (inh : Inherit) (scope : Nat) : State :=
  let core := agentOf h
  let x := slotOf s h
  let base := padBase r.partw p.pbase
  let s := endRegions s core p.ctx inh
  let s := if inh.subs then s else endSubscribed s core p.ctx
  let s := scrubPad s core base (padSize r.partw) inh
  let s := scrubTiles s core p r.partw inh
  let s := poolWrite (zeroPool s core base 256) core base r.shapeImage
  let s := releaseLease (releaseLanes (releaseOslots s h x.ctx fun _ => inh.oslots) h) h
  let s := endLanding s h
  match placementOf s core p.ctx with
  | none => s
  | some p =>
    let p := { p with
      partw := r.partw, htab := placedTable r.image, ptab := r.ptab, nphase := r.nphase, sdef := r.sdef }
    let s := setPlacement s core p
    let y := atEntry r.entry (freshSlot p s.clock (slotOf s h))
    let s := setSlot s h { y with wcur := x.wcur, crec := x.crec, n := inheritedRegs inh x }
    refuseWaiting (startAcquire s core scope) core p.ctx

/-- The end of a strand whose successor fails the shape rule (R249). -/
def refuseSuccessor (s : State) (h : HartId) : State :=
  let c := (slotOf s h).ctx
  let s := match ctxOf s c with
    | some k => writeCompletion s k.compl c.toNat 0x12 0
    | none => s
  endStrand (endSubscribed s (agentOf h) c) h

/-- The successor's record and the images it names, read and checked at issue (R247). The handler table is read in units of
256 bytes, each of which one vault holds (R327). DESIGN CHOICE (log entry 129): LANDING of an entry is bounded by the scratchpad
of the successor's own PARTW; R220 says only the scratchpad's size. -/
def successorRecord (a : W) : Op Launch := do
  require (a.toNat % 128 == 0) .align (memInfo 0 0 a.toNat false)
  let bs ← loadVa 0 128 128 a
  let r := recordOfBytes bs
  let bad : W := opInfo 19 a.toNat false
  require (recordReservedOk bs && recordAligned r && phasesOk r) .protect bad
  let image := (← (List.range 4).mapM fun i => loadVa 0 256 256 (r.htab + w64 (256 * i))).flatten
  let shape ← if r.shape = 0 then pure [] else loadVa 0 256 256 r.shape
  require (tableOk (← curSlot).sup image (padSize r.partw)) .protect bad
  return { r with image := tableOfBytes image, shapeImage := shape }

/-- RETIRE (R246 to R250). -/
def execRetire (x : ABe) : State → Host.Outcome State Fault Refusal := runOp do
  noDelaySlot (.retire x)
  notQuiesce
  let a ← readSel x.a
  let b ← readSel x.b
  let d := (← localWords b 5).map (·.toNat)
  require (inheritOk d) .protect (opInfo 19 b.toNat false)
  let s ← get
  let allowed := match launchOf s s.cur.ctx with
    | some r => r.succ
    | none => false
  require allowed .protect (opInfo 20 a.toNat false)
  let r ← successorRecord a
  settleStrand
  if runsStrand (slotOf s (s.turn ^^^ 4096)) s.cur.ctx then waitHere
  let scope := x.scope.toNat + 1
  release scope
  finishCommit x.st
  modify fun s =>
    match placementOf s (agentOf s.turn) s.cur.ctx with
    | none => refuseSuccessor s s.turn
    | some p =>
      if shapeRule s.cur.partw r.partw (inheritOf d) then startSuccessor s s.turn p r (inheritOf d) scope
      else refuseSuccessor s s.turn

end Sys2Proof.Machine
end

