-- ==== Sys2Proof/Machine/Placement.lean ====
section
/-!
DEFINITION. Where groups, gangs and pipelines go: domains, idle and qualifying cores, the searches of R365 and R373, and
the placing and issuing of a group (R354, R355, R361 to R365, R371 to R373).
-/
namespace Sys2Proof.Machine

/-! ### Domains (R353, R354) -/

/-- Whether two clusters lie in one instance of a hardware domain, by its DOMAIN code. -/
def sameDomain (dom a b : Nat) : Bool :=
  let die := a / 64 == b / 64
  let near (n : Nat) : Bool := die && a % 8 / n == b % 8 / n && a / 8 % 8 / n == b / 8 % 8 / n
  match dom with
  | 0 => a == b
  | 1 => a == b
  | 2 => near 2
  | 3 => near 4
  | 4 => die
  | _ => true

/-- Whether group `j` on a cluster meets the domains and scopes of the levels above the group, with the groups placed so
far. `under` is how many groups a unit of the next level holds; all groups are in the one outermost instance. -/
def fitsAbove (placed : List (Nat × Nat)) (j c : Nat) : List Level → Nat → Bool
  | [], _ => true
  | l :: ls, under =>
    let up := under * l.extent
    (placed.all fun q =>
      (q.1 / under != j / under || sameDomain l.domain.toNat q.2 c) &&
        ((!ls.isEmpty && q.1 / up != j / up) || sameDomain (scopeRank l.scope) q.2 c)) &&
      fitsAbove placed j c ls up

/-- The same for a launch. -/
def groupFits (r : Launch) (placed : List (Nat × Nat)) (j c : Nat) : Bool :=
  fitsAbove placed j c (r.levels.drop (groupLevels r.levels)) 1

/-- Whether the levels within a group can lie where their DOMAIN and SCOPE say on one cluster. -/
def groupShapeOk (r : Launch) : Bool :=
  let ls := r.levels.take (groupLevels r.levels)
  (List.range ls.length).all fun k =>
    match ls[k]? with
    | none => true
    | some l =>
      (l.scope != 0 || decide (extents (ls.take (k + 1)) ≤ 1)) &&
        (k == 0 || l.domain != 0 || decide (extents (ls.take k) ≤ 1))

/-! ### Cores (R361) -/

/-- The 4 KiB units of a partition word. -/
def partUnits (w : BitVec 32) : Nat := regu w + spadu w + accuOf w

/-- The units that a placement holds: those of its context's launch. -/
def heldUnits (s : State) (p : Placement) : Nat :=
  match launchOf s p.ctx with
  | some r => partUnits r.partw
  | none => partUnits p.partw

/-- The lowest start, in units, of so many free contiguous units of a core's pool. -/
def poolStart (s : State) (core units : Nat) : Option Nat :=
  let used := (coreOf s core).placements.map fun p => (p.pbase.toNat / 4096, heldUnits s p)
  (List.range (65 - units)).find? fun i => used.all fun u => decide (i + units ≤ u.1) || decide (u.1 + u.2 ≤ i)

/-- Whether a core is in the target of another queue's drain (R366). -/
def drained (s : State) (q core : Nat) : Bool :=
  (List.range 4).any fun d => match (dieOf s d).drain with
    | some (q', cores) => q' != q && cores.contains core
    | none => false

/-- Whether a core qualifies for a new placement of a context (R361). -/
def qualifies (s : State) (q : Nat) (ctx : BitVec 16) (units core : Nat) : Bool :=
  maskedCore s (queueDesc s q).mask core && decide ((coreOf s core).placements.length < 4) &&
    (placementOf s core ctx).isNone && (poolStart s core units).isSome && !drained s q core

/-- Whether a core is an idle placed core of a context (R361). -/
def idlePlaced (s : State) (q : Nat) (ctx : BitVec 16) (core : Nat) : Bool :=
  match placementOf s core ctx with
  | none => false
  | some p =>
    !runsStrand (slotOf s (hartOf core true)) ctx && !runsStrand (slotOf s (hartOf core false)) ctx &&
      p.savedH.isNone && p.savedL.isNone && p.spilled.isEmpty && !((coreOf s core).ni.any fun m => m.ctx == ctx) &&
      !drained s q core

/-- The clusters in the order of R361 for a queue. -/
def clusterOrder (last : Option Nat) : List Nat :=
  match last with
  | none => List.range 256
  | some c => (List.range 256).filter (fun x => c < x) ++ (List.range 256).filter (fun x => x ≤ c)

/-- The cores of a cluster that pass, in increasing order. -/
def clusterCores (ok : Nat → Bool) (c : Nat) : List Nat := ((List.range 8).map fun i => 8 * c + i).filter ok

/-! ### Choices -/

/-- A group's cores: its index, its weight, its cluster and its cores in order, and whether they are new. -/
structure GroupPlan where
  idx : Nat
  weight : Nat
  cluster : Nat
  cores : List Nat
  isNew : Bool
  deriving DecidableEq, Repr

/-- The clusters of the groups of a launch already issued. -/
def placedGroups (k : Ctx) (p : Pending) : List (Nat × Nat) :=
  if p.nested then p.placed
  else
    let n := Nat.max 1 k.groupCores
    (k.members.filter fun m => m.1 % n == 0).map fun m => (m.1 / n, clusterOf m.2)

/-- Whether a core is a stage core of a context: of its launch, or of a nested one (R370, R373). -/
def stageCore (s : State) (c : BitVec 16) (core : Nat) : Bool :=
  match placementOf s core c with
  | some p => p.stage
  | none => false

/-- The cores of the next group of a launch that is placed group by group (R361); no group is issued onto stage cores
(R373). -/
def chooseGroup (s : State) (q : Nat) (k : Ctx) (p : Pending) (j v : Nat) : Option GroupPlan :=
  let n := groupSize p.rec_
  let idle (core : Nat) : Bool := idlePlaced s q p.ctx core && !stageCore s p.ctx core
  let placed := placedGroups k p
  let order := (clusterOrder (queueAt s q).lastCluster).filter fun c => groupFits p.rec_ placed j c
  let pick (ok : Nat → Bool) (isNew : Bool) (c : Nat) : Option GroupPlan :=
    let cs := clusterCores ok c
    if cs.length < n then none else some ⟨j, v, c, cs.take n, isNew⟩
  match order.findSome? (pick idle false) with
  | some g => some g
  | none => order.findSome? (pick (qualifies s q p.ctx (partUnits p.rec_.partw)) true)

/-- The least whole placement of a gang's groups on the cores each cluster has left (R365). -/
def gangSearch (r : Launch) (isNew : Bool) (avail : List (Nat × List Nat)) :
    List (Nat × Nat) → List (Nat × Nat) → List Nat → Option (List GroupPlan)
  | [], _, _ => some []
  | (j, v) :: js, placed, taken =>
    avail.findSome? fun q =>
      let cs := q.2.filter fun x => !taken.contains x
      if cs.length < groupSize r ∨ !groupFits r placed j q.1 then none
      else
        let mine := cs.take (groupSize r)
        (gangSearch r isNew avail js ((j, q.1) :: placed) (mine ++ taken)).map fun rest =>
          ⟨j, v, q.1, mine, isNew⟩ :: rest

/-- The dies of some cores, in the order in which they first occur. -/
def diesOf (cores : List Nat) : List Nat :=
  cores.foldl (fun ds c => if ds.contains (dieOfAgent c) then ds else ds ++ [dieOfAgent c]) []

/-- The least whole placement of a pipeline's stages on the free cores, which stand in their order: each stage in one die
(R373). -/
def stageSearch : List Nat → List Nat → Option (List (List Nat))
  | [], _ => some []
  | n :: ns, free =>
    (diesOf free).findSome? fun d =>
      let mine := (free.filter fun c => dieOfAgent c == d).take n
      if mine.length < n then none
      else (stageSearch ns (free.filter fun c => !mine.contains c)).map fun rest => mine :: rest

/-- The cores of a whole launch in member order, one plan for each group; a pipeline is one group (R365, R373). -/
def searchWhole (r : Launch) (order : List Nat) (ok : Nat → Bool) (isNew : Bool) (groups : List (Nat × Nat)) :
    Option (List GroupPlan) :=
  if r.pipe then
    match stageSearch (r.stages.map (·.cores)) (order.flatMap (clusterCores ok)) with
    | none => none
    | some cs =>
      let cores := cs.flatten
      some (groups.map fun g => ⟨g.1, g.2, clusterOf (cores.getLastD 0), cores, isNew⟩)
  else if groupShapeOk r then gangSearch r isNew (order.map fun c => (c, clusterCores ok c)) groups [] []
  else none

/-- Whether a queue's mask can ever hold a launch (R357, reason 3). -/
def maskHolds (s : State) (q : Nat) (r : Launch) : Bool :=
  let ok := maskedCore s (queueDesc s q).mask
  let order := clusterOrder (queueAt s q).lastCluster
  if r.gang || r.pipe then
    (searchWhole r order ok true (if r.pipe then [(0, 0)] else (List.range (groupCount r)).map fun j => (j, 0))).isSome
  else groupShapeOk r && order.any fun c => decide (groupSize r ≤ (clusterCores ok c).length)

/-- Whether a context is placed anywhere. -/
def placedAnywhere (s : State) (c : BitVec 16) : Bool := s.cores.any fun k => k.2.placements.any fun p => p.ctx == c

/-- Whether the next groups of a launch are a gang or pipeline placed whole, and not groups that GROW added (R365, R367). -/
def goesWhole (p : Pending) : Bool :=
  (p.rec_.gang || p.rec_.pipe) &&
    (match p.groups with
     | [] => false
     | (j, _) :: _ => decide (j < if p.rec_.pipe then 1 else groupCount p.rec_))

/-- What a queue's next placement action does: the groups it places or issues; none when it cannot act (R360). -/
def choosePlans (s : State) (q : Nat) : Option (Pending × List GroupPlan) :=
  match (queueAt s q).pending with
  | [] => none
  | p :: _ =>
    match ctxOf s p.ctx with
    | none => none
    | some k =>
      if goesWhole p then
        let kept := !p.nested && placedAnywhere s p.ctx
        let ok := if kept then idlePlaced s q p.ctx else qualifies s q p.ctx (partUnits p.rec_.partw)
        (searchWhole p.rec_ (clusterOrder (queueAt s q).lastCluster) ok (!kept) p.groups).map fun g => (p, g)
      else match p.groups with
        | [] => some (p, [])
        | (j, v) :: _ => (chooseGroup s q k p j v).map fun g => (p, [g])

/-! ### Placing and issuing (R355, R362 to R364, R371, R373) -/

/-- The shape record of a launch, or zeros. -/
def shapeBytes (r : Launch) : List Byte := if r.shapeImage.isEmpty then natBytes 256 0 else r.shapeImage

/-- The edge words of a context's registry entry set to zero (R300). -/
def clearEdges (s : State) (die : Nat) (c : BitVec 16) : State := setRegDword (setRegDword s die c 64 0) die c 72 0

/-- A context placed on a core, its partition and edge words zero (R300, R362). -/
def placeOn (s : State) (ctx : BitVec 16) (k : Ctx) (r : Launch) (core : Nat) : State :=
  match poolStart s core (partUnits r.partw) with
  | none => s
  | some u =>
    let base := 4096 * u
    let s := zeroPool s core base (4096 * partUnits r.partw)
    let s := poolWrite s core (base + 4096 * regu r.partw) (shapeBytes r)
    let p : Placement :=
      { ctx := ctx, partw := r.partw, pbase := BitVec.ofNat 18 base, htab := placedTable r.image, ptab := r.ptab
        nphase := r.nphase, sdef := k.rec_.sdef, seed := k.rec_.seed, root := registryRoot s k ctx, coords := [], exts := []
        mcount := 0, member := 0, group := 0, gidx := 0, gcores := 0, savedH := none, savedL := none, absent := false
        spilled := [], logged := [], heldCh := [], stage := false }
    let s := clearEdges s (dieOfAgent core) ctx
    let c := coreOf s core
    setCore s core { c with placements := c.placements ++ [p] }

/-- The mixed-radix digits of a number by some extents; the last digit takes all that is left. -/
def digits : List Nat → Nat → List Nat
  | [], _ => []
  | [_], x => [x]
  | e :: es, x => x % e :: digits es (x / e)

/-- The coordinates of core `i` of group `j` (R355). -/
def groupCoords (r : Launch) (i j : Nat) : List Nat :=
  let g := groupLevels r.levels
  let ext := r.levels.map (·.extent)
  digits (ext.take g) i ++ digits (ext.drop g) j

/-- The stage of a pipeline's member. -/
def stageOf : List Stage → Nat → Nat
  | [], _ => 0
  | g :: gs, m => if m < g.cores then 0 else 1 + stageOf gs (m - g.cores)

/-- The share of core `i` of a group of `n` cores and weight `v` (R363). -/
def coreShare (v n i : Nat) : Nat := v / n + if i < v % n then 1 else 0

/-- The member number of core `i` of group `j` of `n` cores (R355); a group added to a pipeline is a core after the
stages' cores. -/
def memberOf (r : Launch) (n i j : Nat) : Nat := if r.pipe ∧ j ≠ 0 then launchCores r + j - 1 else i + n * j

/-- The root start of core `i` of a group (R364, R373). -/
def rootStart (ctx : BitVec 16) (r : Launch) (g : GroupPlan) (i : Nat) : Msg :=
  let n := g.cores.length
  let member := memberOf r n i g.idx
  let w := BitVec.ofNat 48 (coreShare g.weight n i)
  let st := stageOf r.stages i
  let (entry, second, phase) :=
    if r.pipe ∧ g.idx = 0 then
      match r.stages[st]? with
      | some x => (x.entry, st, if x.phase = 0xFFFFFFFF then none else some x.phase.toNat)
      | none => (r.entry, st, none)
    else (r.entry, g.idx, none)
  ⟨ctx, 0, 0xFFF, w, [w64 member, w64 second], .root entry member second r.rooth phase, 3⟩

/-- The coordinates of a group written into its cores, and its members noted (R251, R362); the cores of a pipeline's stages are
its stage cores from here on (R373). -/
def enterGroup (ctx : BitVec 16) (r : Launch) (nested : Bool) (s : State) (g : GroupPlan) : State :=
  let n := g.cores.length
  let exts := if r.pipe then [] else r.levels.map (·.extent)
  let one (s : State) (q : Nat × Nat) : State :=
    let (core, i) := q
    let s := match placementOf s core ctx with
      | none => s
      | some p => setPlacement s core { p with
          coords := if r.pipe then [] else groupCoords r i g.idx
          exts := exts, mcount := launchCores r, member := memberOf r n i g.idx, group := i, gidx := g.idx, gcores := n
          stage := p.stage || (r.pipe && g.idx == 0) }
    if nested then s
    else match ctxOf s ctx with
      | none => s
      | some k => setCtx s ctx { k with members := mapPut k.members (memberOf r n i g.idx) core }
  g.cores.zipIdx.foldl one s

/-- A placement action carried out: every new core placed, the coordinates written, then the root starts on their way
(R360, R362, R364). -/
def carryOut (s : State) (q : Nat) (p : Pending) (k : Ctx) (gs : List GroupPlan) : State :=
  let new := (gs.filter (·.isNew)).flatMap (·.cores)
  let s := new.foldl (fun s c => placeOn s p.ctx k p.rec_ c) s
  let s := gs.foldl (enterGroup p.ctx p.rec_ p.nested) s
  let starts := gs.flatMap fun g => g.cores.zipIdx.map fun x => Event.messageArrival x.1 (rootStart p.ctx p.rec_ g x.2)
  let left := p.groups.drop gs.length
  let x := queueAt s q
  let p' := { p with groups := left, placed := p.placed ++ gs.map fun g => (g.idx, g.cluster) }
  let pending := if left.isEmpty then x.pending.drop 1 else p' :: x.pending.drop 1
  let s := setQueue s q { x with
    pending := pending
    lastCluster := match gs.getLast? with
      | some g => some g.cluster
      | none => x.lastCluster }
  let d := dieOf s (q / 64)
  let s := match d.drain with
    | some (q', _) => if q' = q ∧ (p.rec_.gang : Bool) then setDie s (q / 64) { d with drain := none } else s
    | none => s
  let s := { s with events := s.events ++ starts }
  if pending.isEmpty then emit s (.packetDispatch q) else s

end Sys2Proof.Machine
end

