-- ==== Sys2Proof/Machine/Dispatcher.lean ====
section
/-!
DEFINITION. The dispatchers: packets and their checks, rounds, drains, held contexts, completion (R350, R351, R356 to
R361, R366 to R370, R440).
-/
namespace Sys2Proof.Machine

/-! ### Packets (R350, R357, R358) -/

/-- `n` bytes at a virtual address under a root, from at most two pages. -/
def readSpan (s : State) (root va n : Nat) : Option (List Byte) :=
  let m := Nat.min n (65536 - va % 65536)
  match readVirtual s root va m with
  | none => none
  | some bs => if m = n then some bs else (readVirtual s root (va + m) (n - m)).map fun cs => bs ++ cs

/-- The root that translates a packet's addresses (R350). -/
def packetRoot (s : State) (q : Nat) (ctx : BitVec 16) : Option Nat :=
  if ctx = 0 then some (queueDesc s q).root else (ctxOf s ctx).map (·.root)

/-- The record that a packet names, in bytes, with what the dispatcher reads at check 7 of R357. -/
structure PacketRead where
  bytes : List Byte
  table : List Byte
  shape : List Byte
  deriving DecidableEq, Repr

/-- The record's bytes. -/
def readRecord (s : State) (q : Nat) (v : W) : Option (List Byte) :=
  match packetRoot s q (BitVec.ofNat 16 (field v.toNat 63 48)) with
  | none => none
  | some root => readVirtual s root (field v.toNat 47 7 * 128) 128

/-- The record and its images. -/
def readPacket (s : State) (q : Nat) (v : W) : Option PacketRead :=
  match packetRoot s q (BitVec.ofNat 16 (field v.toNat 63 48)), readRecord s q v with
  | some root, some bs =>
    let shape := dword bs 40 % 2 ^ 56
    match readSpan s root (dword bs 24 % 2 ^ 56) 1024, (if shape = 0 then some [] else readSpan s root shape 256) with
    | some t, some sh => some ⟨bs, t, sh⟩
    | _, _ => none
  | _, _ => none

/-- What an accepted packet is (R358, R369, R370). -/
inductive PacketKind where
  | fresh | reopen | child
  deriving DecidableEq, Repr

/-- The kind of a packet that names a context, if R369 or R370 accepts it. -/
def namedKind (s : State) (q : Nat) (ctx : BitVec 16) (r : Launch) : Option PacketKind :=
  match ctxOf s ctx with
  | none => none
  | some k =>
    if k.queue ≠ q ∨ k.rec_.partw ≠ r.partw then none
    else if k.complete then (if k.rec_.hold then some .reopen else none)
    else if !qdone s ctx && k.rec_.child == 1 && r.htab == k.rec_.htab && (r.shape == 0 || r.shape == k.rec_.shape) then
      some .child
    else none

/-- The checks of R357 in their order: the reason of the first that fails, or the launch and what it is. A stage table that
cannot be read is not valid, REASON 1, which is the model's choice (log entry 103). -/
def checkPacket (s : State) (q : Nat) (v : W) : Except Nat (Launch × PacketKind) :=
  let ctx : BitVec 16 := BitVec.ofNat 16 (field v.toNat 63 48)
  if v.toNat % 128 ≠ 0 then .error 6
  else match readPacket s q v, packetRoot s q ctx with
    | some rd, some root =>
      let r0 := recordOfBytes rd.bytes
      match (if r0.pipe then readStages s root rd.bytes else some []) with
      | none => .error 1
      | some stages =>
        let r := { r0 with stages := stages.map stageOfBytes, image := tableOfBytes rd.table, shapeImage := rd.shape }
        if !recordValid rd.bytes || !tableOk false rd.table (padSize r.partw) || (r.pipe && !stagesOk s root r stages) then
          .error 1
        else if !partwOk r.partw then .error 2
        else if !maskHolds s q r then .error 3
        else if r.pipe && decide (r.total < launchCores r) then .error 4
        else if !r.pipe && decide (r.total / groupCount r < groupSize r) then .error 4
        else if ctx = 0 then .ok (r, .fresh)
        else match namedKind s q ctx r with
          | some k => .ok (r, k)
          | none => .error 5
    | _, _ => .error 7

/-- The address of a stage-table entry or stage queue that the dispatcher could not read: the first, where its check ends. -/
def stageWalks (s : State) (root : Nat) (bs : List Byte) : List Nat :=
  let (st, n) := stageTable bs
  let unread (n va : Nat) : Bool := (readVirtual s root va n).isNone
  let walks := match readStages s root bs with
    | none => ((List.range n).map fun i => st + 32 * i).filter (unread 32)
    | some ts =>
      ((ts.map stageOfBytes).flatMap fun (g : Stage) => [g.inq.toNat, g.outq.toNat]).filter fun va => va != 0 && decide (va < windowBase) && unread 64 va
  walks.take 1

/-- The virtual addresses that a read of `n` bytes from at most two pages walks: the second page only behind a first that could
be read. -/
def spanWalks (s : State) (root va n : Nat) : List Nat :=
  let m := Nat.min n (65536 - va % 65536)
  if m < n ∧ (readVirtual s root va m).isSome then [va, va + m] else [va]

/-- The virtual addresses that the dispatcher has walked for a packet that it refuses with a REASON: its record; at REASON 7 and
1, the handler table and the shape record that it names; at REASON 1 the stages of a pipeline (R357). At REASON 6 the record
alone is read, for the weight that goes back to a live context. -/
def packetWalks (s : State) (q : Nat) (v : W) (root reason : Nat) : List Nat :=
  let record := field v.toNat 47 7 * 128
  if reason = 6 then [record]
  else match readRecord s q v with
    | none => [record]
    | some bs =>
      let shape := dword bs 40 % 2 ^ 56
      [record] ++ spanWalks s root (dword bs 24 % 2 ^ 56) 1024 ++ (if shape = 0 then [] else spanWalks s root shape 256) ++
        if reason = 1 ∧ (recordOfBytes bs).pipe then stageWalks s root bs else []

/-- Whether a refused packet's weight goes back to the context that it names (R357). -/
def packetLive (s : State) (v : W) : Bool :=
  let ctx : BitVec 16 := BitVec.ofNat 16 (field v.toNat 63 48)
  (ctxOf s ctx).isSome && !qdone s ctx

/-- The malformed entries that the walks for a refused packet meet made known (R337). -/
def notePacket (s : State) (q : Nat) (v : W) (reason : Nat) : State :=
  match packetRoot s q (BitVec.ofNat 16 (field v.toNat 63 48)) with
  | none => s
  | some root =>
    if reason = 7 ∨ reason = 1 ∨ (reason = 6 ∧ packetLive s v) then
      (packetWalks s q v root reason).foldl (fun s va => noteWalkAt s (dispatcherAgent (q / 64)) root va) s
    else s

/-- A packet refused: weight returned where R357 says so, then the completion word. -/
def refusePacket (s : State) (q : Nat) (v : W) (reason : Nat) : State :=
  let ctx : BitVec 16 := BitVec.ofNat 16 (field v.toNat 63 48)
  let s := match readRecord s q v with
    | some bs => if packetLive s v ∧ reason ≠ 7 then returnWeight s ctx (field (dword bs 8) 47 0) else s
    | none => s
  writeCompletion s (queueDesc s q).compl ctx.toNat 0x17 reason

/-- The groups of a launch with their weights (R363); a pipeline is one group. -/
def groupWeights (r : Launch) : List (Nat × Nat) :=
  if r.pipe then [(0, r.total)]
  else
    let g := groupCount r
    let share := r.total / g
    (List.range g).map fun j => (j, if j = 0 then r.total - (g - 1) * share else share)

/-- The lowest free context number of a die's registry (R358). -/
def freeNumber (s : State) (die : Nat) : Option (BitVec 16) :=
  ((List.range 65535).find? fun i =>
    let c : BitVec 16 := BitVec.ofNat 16 (i + 1)
    (ctxOf s c).isNone && regState s die c == some 0).map fun i => BitVec.ofNat 16 (i + 1)

/-- What the dispatcher keeps of a new launch. -/
def newCtx (q root compl : Nat) (record : Nat) (r : Launch) : Ctx :=
  { queue := q, record := BitVec.ofNat 56 record, root := root, compl := compl, rec_ := r
    groupCores := if r.pipe then launchCores r else groupSize r
    groups := if r.pipe then 1 else groupCount r
    share := if r.pipe then r.total else r.total / groupCount r
    grown := 0, members := [], arrivals := [], later := [], passed := [], complete := false, quiescer := none }

/-- The home record initialised (R358). -/
def initHome (s : State) (c : BitVec 16) (total : Nat) : State :=
  homeWrite s (canonPa (homeRecord s c)) (natBytes 8 total ++ natBytes 24 0)

/-- Doubleword 0 of a registry entry with its tiles marked saved or not (R440). -/
def regHead (q state : Nat) (hold saved : Bool) (c : BitVec 16) : Nat :=
  c.toNat + b1 hold * 2 ^ 16 + b1 saved * 2 ^ 17 + state * 2 ^ 18 + q * 2 ^ 32

/-- TILESAVED of a context's registry entry; of one that cannot be read, 0 (R344; log entry 91). -/
def tileSaved (s : State) (die : Nat) (c : BitVec 16) : Bool := bitOf ((regWord s die c 0).getD 0) 17

/-- The fields of a registry entry that a packet gives. -/
def enterRegistry (s : State) (c : BitVec 16) (k : Ctx) (saved : Bool) : State :=
  let die := k.queue / 64
  let put (s : State) (p : Nat × Nat) : State := setRegDword s die c p.1 p.2
  [(0, regHead k.queue 1 k.rec_.hold saved c), (8, k.root), (16, k.compl), (24, k.record.toNat)].foldl put s

/-- The registry entry of a new context, CBUFN and ULOGSZ at their defaults (R358, R440). -/
def initRegistry (s : State) (c : BitVec 16) (k : Ctx) : State :=
  setRegDword (enterRegistry s c k false) (k.queue / 64) c 48 (256 + 65536 * 2 ^ 32)

/-- A launch joins its queue's pending ones, with the cycle from which it has waited at the head of the queue (R366). -/
def pend (s : State) (q : Nat) (ctx : BitVec 16) (r : Launch) (nested : Bool) (since : Nat) : State :=
  let x := queueAt s q
  setQueue s q { x with pending := x.pending ++ [⟨ctx, r, nested, groupWeights r, [], since⟩] }

/-- A held context opened again: its kept placements take the new launch's images and defaults, their scratchpads keep all
but the shape record, and the tiles stay as they are (R369). The cores are no stage cores of the launch that ended. -/
def reopenCtx (s : State) (q : Nat) (ctx : BitVec 16) (record : Nat) (r : Launch) (k : Ctx) : State :=
  let k := newCtx q k.root k.compl record r
  let one (s : State) (core : Nat) : State :=
    match placementOf s core ctx with
    | none => s
    | some p =>
      let s := poolWrite s core (padBase p.partw p.pbase) (shapeBytes r)
      setPlacement s core { p with
        htab := placedTable r.image, ptab := r.ptab, nphase := r.nphase, sdef := r.sdef, seed := r.seed, stage := false }
  let s := (s.cores.map (·.1)).foldl one s
  pend (initHome (enterRegistry (setCtx s ctx k) ctx k (tileSaved s (k.queue / 64) ctx)) ctx r.total) q ctx r false s.clock

/-- What the head of a launch queue gives: an item with the state in which it is taken, or the ring address at fault. A
poisoned header gives neither (R344). -/
def headItem (s : State) (q : Nat) : Except (Option Nat) (W × State) :=
  let d := queueDesc s q
  let l := unitLoc d.header
  let h := qheaderOf (headerBytes s l)
  if h.ok ∧ h.kind = 0 ∧ h.head ≠ h.tail ∧ !headerPoisoned s l then
    match deqHome s l d.root true with
    | .value v s' => .ok (w64 v, s')
    | .refuse _ _ ring => .error ring
  else .error none

/-- The item at the head of a launch queue, with the state in which it is taken. -/
def headPacket (s : State) (q : Nat) : Option (W × State) := (headItem s q).toOption

/-- PACKET_DISPATCH (R357, R358): the dispatcher takes the packet at the head of a queue with no group of an earlier
launch pending, and checks it; with no context number free the packet waits at the head. A frozen module takes none (R439). -/
def execPacketDispatch (q : Nat) (s : State) : Host.Outcome State Fault Refusal :=
  if s.module.frozen.isSome || !queueEnabled s q || !(queueAt s q).pending.isEmpty then stepTo s
  else match headItem s q with
    | .error ring => stepTo (noteRing s (unitLoc (queueDesc s q).header) (queueDesc s q).root ring)
    | .ok (v, s') =>
      let x := queueAt s' q
      let took := setQueue s' q { x with packet := none }
      let since := (x.packet.map (·.2)).getD s.clock
      let record := field v.toNat 47 7 * 128
      let ctx : BitVec 16 := BitVec.ofNat 16 (field v.toNat 63 48)
      match checkPacket s q v with
      | .error reason =>
        stepTo (emit (refusePacket (notePacket took q v reason) q v reason) (.packetDispatch q))
      | .ok (r, .fresh) =>
        match freeNumber s (q / 64) with
        | none => stepTo (setQueue s q { queueAt s q with packet := some (v, since) })
        | some c =>
          let d := queueDesc s q
          let k := newCtx q d.root d.compl record r
          stepTo (pend (initHome (initRegistry (setCtx took c k) c k) c r.total) q c r false since)
      | .ok (r, .reopen) =>
        match ctxOf s ctx with
        | some k => stepTo (reopenCtx took q ctx record r k)
        | none => stepTo took
      | .ok (r, .child) => stepTo (pend took q ctx r true s.clock)

/-! ### Rounds (R360) -/

/-- Whether a queue has share left in the round. -/
def shareLeft (s : State) (q : Nat) : Bool := decide ((queueAt s q).used < (queueDesc s q).share)

/-- The queues of a die that can act, in increasing number. -/
def actors (s : State) (die : Nat) : List Nat :=
  let qs := (s.queues.map (·.1)).filter fun q => q / 64 == die && queueEnabled s q
  qs.filter fun q => (choosePlans s q).isSome

/-- The queue that acts next, and whether a new round begins with it. -/
def nextActor (s : State) (die : Nat) : Option (Nat × Bool) :=
  let qs := actors s die
  let at_ := (dieOf s die).passAt
  let left := shareLeft s
  let share (q : Nat) : Bool := (queueDesc s q).share != 0
  match qs.find? fun q => decide (at_ ≤ q % 64) && left q with
  | some q => some (q, false)
  | none =>
    match qs.find? left with
    | some q => some (q, false)
    | none =>
      match qs.find? share with
      | some q => some (q, true)
      | none =>
        match qs.find? fun q => decide (at_ ≤ q % 64) with
        | some q => some (q, true)
        | none => qs.head?.map fun q => (q, true)

/-- Every queue of a die with its share restored. -/
def restoreShares (s : State) (die : Nat) : State :=
  { s with queues := s.queues.map fun p => if p.1 / 64 = die then (p.1, { p.2 with used := 0 }) else p }

/-- Whether a queue of a die has acted in its round. -/
def midRound (s : State) (die : Nat) : Bool := s.queues.any fun p => p.1 / 64 == die && p.2.used != 0

/-- PLACEMENT_ACTION (R360): the queue whose turn it is places or issues one group, or a whole gang or pipeline. A pass in
which no queue can act ends the round. -/
def execPlacementAction (die : Nat) (s : State) : Host.Outcome State Fault Refusal :=
  match nextActor s die with
  | none => stepTo (restoreShares s die)
  | some (q, fresh) =>
    match choosePlans s q with
    | none => stepTo s
    | some (p, gs) =>
      match ctxOf s p.ctx with
      | none => stepTo s
      | some k =>
        let s := if fresh then restoreShares s die else s
        let x := queueAt s q
        let s := setQueue s q { x with used := x.used + 1 }
        let s := setDie s die { dieOf s die with passAt := (q + 1) % 64 }
        stepTo (carryOut s q p k gs)

/-! ### Held contexts and drains (R366, R369) -/

/-- Whether a held context's placement may move to a core (R369); that of a stage core may not (R373). -/
def mayMove (s : State) (ctx : BitVec 16) (fromCore toCore : Nat) : Bool :=
  match ctxOf s ctx, placementOf s fromCore ctx with
  | some k, some p =>
    k.complete && k.rec_.hold && !p.stage && qualifies s k.queue ctx (heldUnits s p) toCore
  | _, _ => false

/-- A context's tile queue freed on a cluster where it holds no placement any more (R254). -/
def dropTileQ (s : State) (ctx : BitVec 16) (c : Nat) : State :=
  if (List.range 8).any fun i => (placementOf s (8 * c + i) ctx).isSome then s
  else
    let k := clusterAt s c
    setCluster s c { k with tileQ := k.tileQ.filter fun t => t.ctx != ctx }

/-- A held context's partition copied to another core, and the old space freed; its subscriptions end. -/
def moveHeld (s : State) (ctx : BitVec 16) (fromCore toCore : Nat) : State :=
  match ctxOf s ctx, placementOf s fromCore ctx with
  | some k, some p =>
    match poolStart s toCore (heldUnits s p) with
    | none => s
    | some u =>
      let n := 4096 * heldUnits s p
      let mine := (coreOf s fromCore).subs.filter fun t => t.2.ctx == ctx
      let s := mine.foldl (fun s t => endSubscription s fromCore t.1) s
      let s := endSubscribed s fromCore ctx
      let bytes := poolRead s fromCore p.pbase.toNat n
      let moved := s.poolPoison.filterMap fun q =>
        if poolKey fromCore p.pbase.toNat / 8 ≤ q.1 ∧ q.1 < (poolKey fromCore p.pbase.toNat + n) / 8 then
          some (q.1 - poolKey fromCore p.pbase.toNat / 8 + poolKey toCore (4096 * u) / 8, q.2)
        else none
      let s := poolWrite (zeroPool s toCore (4096 * u) n) toCore (4096 * u) bytes
      let s := { s with poolPoison := moved.foldl (fun m q => mapPut m q.1 q.2) s.poolPoison }
      let a := coreOf s fromCore
      let s := setCore s fromCore { a with placements := a.placements.filter fun x => x.ctx != ctx }
      let b := coreOf s toCore
      let s := setCore s toCore { b with placements := b.placements ++ [{ p with pbase := BitVec.ofNat 18 (4096 * u) }] }
      let s := dropTileQ s ctx (clusterOf fromCore)
      setCtx s ctx { k with members := k.members.map fun m => if m.2 = fromCore then (m.1, toCore) else m }
  | _, _ => s

/-- CONTEXT_COMPACT (R369). -/
def execContextCompact (ctx : BitVec 16) (fromCore toCore : Nat) (s : State) : Host.Outcome State Fault Refusal :=
  if mayMove s ctx fromCore toCore then stepTo (moveHeld s ctx fromCore toCore) else stepTo s

/-- The instances of a hardware domain, each as its cores. -/
def instances (rank : Nat) : List (List Nat) :=
  let cut (n : Nat) : List (List Nat) := (List.range (2048 / n)).map fun i => (List.range n).map fun j => n * i + j
  match rank with
  | 0 => cut 1
  | 1 => cut 8
  | 4 => cut 512
  | _ => cut 2048

/-- The target of a gang's drain (R366). -/
def drainTarget (s : State) (q : Nat) (p : Pending) : Option (List Nat) :=
  let mask := (queueDesc s q).mask
  let free (cores : List Nat) : Nat :=
    (cores.filter (qualifies s q p.ctx (partUnits p.rec_.partw))).length
  let rank := match p.rec_.levels.getLast? with
    | some l => scopeRank l.scope
    | none => 5
  let within := (instances rank).filter fun cores => cores.all (maskedCore s mask)
  within.foldl (fun best cores =>
    match best with
    | none => some cores
    | some b => if free b < free cores then some cores else best) none

/-- The gang whole at the head of a queue that has waited GANGWAIT cycles, since when, and a target to drain for it; groups
that GROW adds are no gang's (R366). -/
def overdueGang (s : State) (gangwait q : Nat) : Option (Nat × List Nat) :=
  match (queueAt s q).pending with
  | p :: _ =>
    if goesWhole p && !p.rec_.pipe && queueEnabled s q && decide (p.since + gangwait ≤ s.clock) then
      (drainTarget s q p).map fun cores => (p.since, cores)
    else none
  | [] => none

/-- The queue whose gang a die drains for next, with the target: of the gangs that have one, that which has waited
longest (R366). -/
def waitingGang (s : State) (die : Nat) : Option (Nat × List Nat) :=
  let late (q : Nat) : Option (Nat × Nat × List Nat) :=
    (overdueGang s (dieOf s die).gangwait.toNat q).map fun g => (q, g)
  let best := ((s.queues.map (·.1)).filter fun q => q / 64 == die).foldl (fun best q =>
    match best, late q with
    | some b, some g => if g.2.1 < b.2.1 then some g else some b
    | none, g => g
    | b, none => b) none
  best.map fun b => (b.1, b.2.2)

/-- A held placement in the target of a die's drain that can move out of it, and where to. -/
def movable (s : State) (die : Nat) : Option (BitVec 16 × Nat × Nat) :=
  match (dieOf s die).drain with
  | none => none
  | some (_, cores) =>
    cores.findSome? fun c =>
      (coreOf s c).placements.findSome? fun p =>
        match ctxOf s p.ctx with
        | none => none
        | some k =>
          if k.complete && k.rec_.hold then
            ((List.range 2048).find? fun t => !cores.contains t && mayMove s p.ctx c t).map fun t => (p.ctx, c, t)
          else none

/-- GANG_DRAIN (R366): the die's dispatcher begins to drain a target for the gang that has waited longest, or moves a
held context out of the target. -/
def execGangDrain (die : Nat) (s : State) : Host.Outcome State Fault Refusal :=
  let d := dieOf s die
  match d.drain with
  | some _ =>
    match movable s die with
    | some (ctx, a, b) => stepTo (moveHeld s ctx a b)
    | none => stepTo s
  | none =>
    match waitingGang s die with
    | none => stepTo s
    | some t => stepTo (setDie s die { d with drain := some t })

/-- A held, complete context whose registry entry the resident kernel has set free (R369, R440). -/
def freedContext (s : State) : Option (BitVec 16) :=
  (s.ctxs.find? fun p => p.2.complete && regState s (p.2.queue / 64) (BitVec.ofNat 16 p.1) == some 0).map
    fun p => BitVec.ofNat 16 p.1

/-- What the dispatchers have due. -/
def dispatchDue (s : State) : Option Event :=
  match freedContext s with
  | some c => some (.contextComplete c)
  | none =>
    if s.queues.all fun p => p.2.pending.isEmpty && p.2.used == 0 then none
    else (List.range 4).findSome? fun die =>
      if (nextActor s die).isSome || midRound s die then some (.placementAction die)
      else if (dieOf s die).drain.isNone then (waitingGang s die).map fun _ => .gangDrain die
      else if (movable s die).isSome then some (.gangDrain die)
      else none

/-! ### Completion (R359) -/

/-- What a context holds on a core given up: its partition and table, its subscriptions, what waits for it. -/
def dropPlacement (ctx : BitVec 16) (s : State) (core : Nat) : State :=
  if (placementOf s core ctx).isNone then s
  else
    let mine := (coreOf s core).subs.filter fun t => t.2.ctx == ctx
    let s := mine.foldl (fun s t => endSubscription s core t.1) s
    let k := coreOf s core
    setCore s core { k with
      placements := k.placements.filter fun p => p.ctx != ctx
      ni := k.ni.filter fun m => m.ctx != ctx }

/-- The same at completion, which also clears ACCOWN.VALID where ACCOWN names the context (R359, R446). -/
def freeCore (ctx : BitVec 16) (s : State) (core : Nat) : State :=
  if (placementOf s core ctx).isNone then s
  else
    let s := dropPlacement ctx s core
    let k := coreOf s core
    if bitOf k.accown.toNat 16 ∧ k.accown.toNat % 2 ^ 16 = ctx.toNat then
      setCore s core { k with accown := w64 (k.accown.toNat - 2 ^ 16) }
    else s

/-- A context's operand slots and tile queue on a cluster released. -/
def freeCluster (ctx : BitVec 16) (s : State) (c : Nat) : State :=
  let k := clusterAt s c
  let gone := k.oslots.filter fun e => e.2.ctx == ctx
  if gone.isEmpty && !(k.tileQ.any fun t => t.ctx == ctx) then s
  else setCluster s c (gone.foldl (fun k e => operandClear k e.1) { k with
    oslots := k.oslots.filter fun e => e.2.ctx != ctx
    tileQ := k.tileQ.filter fun t => t.ctx != ctx })

/-- A die's drain ended when the gang it drains for is of a context that ends (R366). -/
def dropDrain (s : State) (c : BitVec 16) (d : Die) : Die :=
  match d.drain with
  | some (q, _) => if ((queueAt s q).pending.head?.map (·.ctx)) = some c then { d with drain := none } else d
  | none => d

/-- The groups that a context which completes has not placed yet taken out of the launch queues, whose next packets come up:
neither the queue nor a later context of the number meets them (R359, R370, R380). -/
def dropPending (s : State) (c : BitVec 16) : State :=
  let mine (g : Pending) : Bool := g.ctx == c
  { s with
    queues := s.queues.map fun p => (p.1, { p.2 with pending := p.2.pending.filter fun g => !mine g })
    dies := s.dies.map fun p => (p.1, dropDrain s c p.2)
    events := s.events ++ (s.queues.filter fun q => q.2.pending.any mine).map fun q => .packetDispatch q.1 }

/-- A context off its cores and clusters, its number free again and its queue rid of its groups, for which packets may wait. -/
def dropContext (s : State) (ctx : BitVec 16) (queue : Nat) : State :=
  let s := (s.cores.map (·.1)).foldl (freeCore ctx) s
  let s := (s.clusters.map (·.1)).foldl (freeCluster ctx) s
  let s := setRegDword s (queue / 64) ctx 0 0
  let s := dropPending { s with ctxs := mapDel s.ctxs ctx.toNat } ctx
  let waiting := s.queues.filter fun q => q.2.packet.isSome
  { s with events := s.events ++ waiting.map fun q => .packetDispatch q.1 }

/-- CONTEXT_COMPLETE (R359, R369): a held context is kept until the resident kernel sets its registry entry free; any other
is dropped. One that completes early leaves no group in its queue (R370). -/
def execContextComplete (ctx : BitVec 16) (s : State) : Host.Outcome State Fault Refusal :=
  match ctxOf s ctx with
  | none => stepTo s
  | some k =>
    if k.complete then
      if freedContext s = some ctx then stepTo (dropContext s ctx k.queue) else stepTo s
    else if !qdone s ctx then stepTo s
    else if k.rec_.hold then
      let die := k.queue / 64
      stepTo (dropPending (setRegDword (setCtx s ctx { k with complete := true }) die ctx 0
        (regHead k.queue 2 true (tileSaved s die ctx) ctx)) ctx)
    else stepTo (dropContext s ctx k.queue)

/-! ### Frames (R406) -/

/-- The enabled launch queues that hold a packet. -/
def queuesWithPackets (s : State) : List Nat :=
  (List.range 256).filter fun q =>
    queueEnabled s q && (queueAt s q).pending.isEmpty && (headPacket s q).isSome

/-- FRAME_ADVANCE (R406): the frame counter follows the core cycles, 2,048 a frame. With each frame the dispatchers look
again at the queues they serve. -/
def execFrameAdvance (s : State) : Host.Outcome State Fault Refusal :=
  let look := if s.module.frozen.isSome then [] else (queuesWithPackets s).map Event.packetDispatch
  stepTo { s with
    module := { s.module with frame := BitVec.ofNat 8 (s.tick / 2048) }
    events := s.events ++ look }

end Sys2Proof.Machine
end

