-- ==== Sys2Proof/Machine/Issue.lean ====
section
/-!
DEFINITION. What the issue of a word asks of each instruction: its source fields (R46, R54), where it may stand (R87,
R88, R137), which modifier fields it honours (R50, R269), and which harts execute it (R89, R384, R428).
-/
namespace Sys2Proof.Machine

/-- The scalar source fields in the order of R46, each with its number in TINFO of STALL_SHORT (R54). -/
def sourceFields : Instr → List (Nat × Sel)
  | .add x => [(0, x.a), (1, x.b)]
  | .sub x => [(0, x.a), (1, x.b)]
  | .mul x => [(0, x.a), (1, x.b)]
  | .mulh x => [(0, x.a), (1, x.b)]
  | .mulhu x => [(0, x.a), (1, x.b)]
  | .div x => [(0, x.a), (1, x.b)]
  | .divu x => [(0, x.a), (1, x.b)]
  | .rem x => [(0, x.a), (1, x.b)]
  | .remu x => [(0, x.a), (1, x.b)]
  | .and x => [(0, x.a), (1, x.b)]
  | .or x => [(0, x.a), (1, x.b)]
  | .xor x => [(0, x.a), (1, x.b)]
  | .andn x => [(0, x.a), (1, x.b)]
  | .orn x => [(0, x.a), (1, x.b)]
  | .shl x => [(0, x.a), (1, x.b)]
  | .shr x => [(0, x.a), (1, x.b)]
  | .sar x => [(0, x.a), (1, x.b)]
  | .rot x => [(0, x.a), (1, x.b)]
  | .min x => [(0, x.a), (1, x.b)]
  | .max x => [(0, x.a), (1, x.b)]
  | .minu x => [(0, x.a), (1, x.b)]
  | .maxu x => [(0, x.a), (1, x.b)]
  | .abs x => [(0, x.a)]
  | .clz x => [(0, x.a)]
  | .ctz x => [(0, x.a)]
  | .pop x => [(0, x.a)]
  | .brev x => [(0, x.a)]
  | .addi x => [(0, x.a)]
  | .andi x => [(0, x.a)]
  | .ori x => [(0, x.a)]
  | .xori x => [(0, x.a)]
  | .shli x => [(0, x.a)]
  | .shri x => [(0, x.a)]
  | .sari x => [(0, x.a)]
  | .roti x => [(0, x.a)]
  | .lea x => [(4, x.a)]
  | .sel x => [(0, x.a), (1, x.b), (2, x.c)]
  | .bext x => [(0, x.a), (1, x.b), (2, x.c)]
  | .bins x => [(0, x.a), (1, x.b), (2, x.c)]
  | .cmpeq x => [(0, x.a), (1, x.b)]
  | .cmpne x => [(0, x.a), (1, x.b)]
  | .cmplt x => [(0, x.a), (1, x.b)]
  | .cmpltu x => [(0, x.a), (1, x.b)]
  | .cmple x => [(0, x.a), (1, x.b)]
  | .cmpleu x => [(0, x.a), (1, x.b)]
  | .bexti x => [(0, x.a)]
  | .cmplti x => [(0, x.a)]
  | .beq x => [(0, x.a), (1, x.b)]
  | .bne x => [(0, x.a), (1, x.b)]
  | .blt x => [(0, x.a), (1, x.b)]
  | .bge x => [(0, x.a), (1, x.b)]
  | .bltu x => [(0, x.a), (1, x.b)]
  | .bgeu x => [(0, x.a), (1, x.b)]
  | .jr x => [(0, x.a)]
  | .rep x => [(0, x.a)]
  | .rgnInc x => [(3, x.d)]
  | .fadd x => [(0, x.a), (1, x.b)]
  | .fsub x => [(0, x.a), (1, x.b)]
  | .fmul x => [(0, x.a), (1, x.b)]
  | .fdiv x => [(0, x.a), (1, x.b)]
  | .fsqrt x => [(0, x.a)]
  | .fmin x => [(0, x.a), (1, x.b)]
  | .fmax x => [(0, x.a), (1, x.b)]
  | .fminn x => [(0, x.a), (1, x.b)]
  | .fmaxn x => [(0, x.a), (1, x.b)]
  | .fabs x => [(0, x.a)]
  | .fneg x => [(0, x.a)]
  | .fsgn x => [(0, x.a), (1, x.b)]
  | .frnd x => [(0, x.a)]
  | .fma x => [(0, x.a), (1, x.b), (2, x.c)]
  | .fms x => [(0, x.a), (1, x.b), (2, x.c)]
  | .fnma x => [(0, x.a), (1, x.b), (2, x.c)]
  | .fcvt x => [(0, x.a)]
  | .fcvti x => [(0, x.a)]
  | .icvtf x => [(0, x.a)]
  | .fcmpeq x => [(0, x.a), (1, x.b)]
  | .fcmplt x => [(0, x.a), (1, x.b)]
  | .fcmple x => [(0, x.a), (1, x.b)]
  | .fcmpun x => [(0, x.a), (1, x.b)]
  | .fclass x => [(0, x.a)]
  | .ld x => [(4, x.a)]
  | .st x => [(4, x.a), (3, x.d)]
  | .ldAcq x => [(4, x.a)]
  | .stRel x => [(4, x.a), (3, x.d)]
  | .lds x => [(0, x.a), (1, x.b)]
  | .sts x => [(0, x.a), (1, x.b), (3, x.d)]
  | .ldk x => [(0, x.a), (1, x.b)]
  | .pref x => [(0, x.a)]
  | .wb x => [(0, x.a), (1, x.b)]
  | .inv x => [(0, x.a), (1, x.b)]
  | .bmove x => [(0, x.a), (1, x.b), (3, x.d)]
  | .bfill x => [(0, x.a), (1, x.b), (3, x.d)]
  | .sbind x => [(0, x.a)]
  | .amoAdd x => [(0, x.a), (1, x.b)]
  | .amoAnd x => [(0, x.a), (1, x.b)]
  | .amoOr x => [(0, x.a), (1, x.b)]
  | .amoXor x => [(0, x.a), (1, x.b)]
  | .amoMin x => [(0, x.a), (1, x.b)]
  | .amoMax x => [(0, x.a), (1, x.b)]
  | .amoMinu x => [(0, x.a), (1, x.b)]
  | .amoMaxu x => [(0, x.a), (1, x.b)]
  | .amoSwap x => [(0, x.a), (1, x.b)]
  | .xinit32 x => [(0, x.a)]
  | .xinit64 x => [(0, x.a)]
  | .xadd x => [(0, x.a), (1, x.b)]
  | .xclr x => [(0, x.a)]
  | .enq x => [(0, x.a), (1, x.b)]
  | .deq x => [(0, x.a)]
  | .seqdeq x => [(0, x.a)]
  | .waitv x => [(0, x.a), (1, x.b)]
  | .xread x => [(0, x.a)]
  | .cas x => [(0, x.a), (1, x.b), (2, x.c)]
  | .seqenq x => [(0, x.a), (1, x.b), (2, x.c)]
  | .send x => [(0, x.a), (1, x.b)]
  | .sendm x => [(0, x.a), (1, x.b)]
  | .push x => [(0, x.a), (1, x.b)]
  | .htset x => [(0, x.a), (1, x.b)]
  | .htget x => [(0, x.a)]
  | .chmask x => [(0, x.a)]
  | .chunmask x => [(0, x.a)]
  | .sendw x => [(0, x.a), (1, x.b), (2, x.c)]
  | .launch x => [(0, x.a), (1, x.b), (2, x.c)]
  | .nread x => [(0, x.a), (2, x.c)]
  | .subscribe x => [(0, x.a), (1, x.b), (2, x.c)]
  | .wborrow x => [(0, x.a)]
  | .wquery x => [(0, x.a)]
  | .qarm x => [(0, x.a)]
  | .grow x => [(0, x.a)]
  | .retire x => [(0, x.a), (1, x.b)]
  | .coord x => [(0, x.a)]
  | .slice x => [(0, x.a)]
  | .geom x => [(0, x.a)]
  | .tqinit x => [(0, x.a), (1, x.b)]
  | .fetcht x => [(0, x.a)]
  | .unsub x => [(0, x.a)]
  | .phase x => [(1, x.b)]
  | .spinw x => [(0, x.a), (1, x.b)]
  | .csrwr x => [(0, x.a)]
  | .csrset x => [(0, x.a)]
  | .csrclr x => [(0, x.a)]
  | .trap x => [(0, x.a)]
  | .perf x => [(0, x.a)]
  | .cpub x => [(0, x.a), (1, x.b)]
  | .vclaim x => [(0, x.a)]
  | .vld x => [(0, x.a), (1, x.b)]
  | .vst x => [(0, x.a), (1, x.b)]
  | .vlds x => [(0, x.a), (1, x.b)]
  | .vsts x => [(0, x.a), (1, x.b)]
  | .vgath x => [(0, x.a)]
  | .vscat x => [(0, x.a)]
  | .vbcast x => [(0, x.a)]
  | .vlsh x => [(1, x.b)]
  | .mmaDD x => [(0, x.a), (1, x.b)]
  | .mmaSS x => [(0, x.a), (1, x.b)]
  | .mmaBB x => [(0, x.a), (1, x.b)]
  | .mmaHH x => [(0, x.a), (1, x.b)]
  | .mmaBH x => [(0, x.a), (1, x.b)]
  | .mmaHB x => [(0, x.a), (1, x.b)]
  | .mmaNN x => [(0, x.a), (1, x.b), (2, x.c)]
  | .mmaNB x => [(0, x.a), (1, x.b), (2, x.c)]
  | .mmaBN x => [(0, x.a), (1, x.b), (2, x.c)]
  | .orel x => [(0, x.a)]
  | .old x => [(0, x.a), (1, x.b)]
  | .aread x => [(1, x.b)]
  | .awrite x => [(0, x.a), (1, x.b)]
  | .ast x => [(0, x.a), (1, x.b)]
  | .ald x => [(0, x.a), (1, x.b)]
  | .medge x => [(0, x.a)]
  | .accown x => [(0, x.a)]
  | _ => []

/-- Where a word may stand (R87, R88, R137). -/
inductive SlotRule where
  /-- R88 forbids it in a delay slot. -/
  | never
  /-- It commits, and R125 says where. -/
  | commits
  /-- A branch, CALL or JR. -/
  | branches
  | anywhere
  deriving DecidableEq, Repr

/-- The rule of each instruction (R87, R88). -/
def slotRule : Instr → SlotRule
  | .rgn _ => .never
  | .rgnInc _ => .never
  | .rep _ => .never
  | .bmove _ => .never
  | .bfill _ => .never
  | .suspend _ => .never
  | .yield _ => .never
  | .done _ => .never
  | .waitv _ => .never
  | .gbar _ => .never
  | .gbarPub _ => .never
  | .retire _ => .never
  | .spinw _ => .never
  | .tret _ => .never
  | .wfi _ => .never
  | .cas _ => .commits
  | .xinit32 _ => .commits
  | .xinit64 _ => .commits
  | .xadd _ => .commits
  | .xclr _ => .commits
  | .enq _ => .commits
  | .deq _ => .commits
  | .seqenq _ => .commits
  | .seqdeq _ => .commits
  | .send _ => .commits
  | .sendw _ => .commits
  | .sendm _ => .commits
  | .push _ => .commits
  | .wborrow _ => .commits
  | .qarm _ => .commits
  | .launch _ => .commits
  | .grow _ => .commits
  | .tqinit _ => .commits
  | .fetcht _ => .commits
  | .subscribe _ => .commits
  | .unsub _ => .commits
  | .pubfence _ => .commits
  | .phase _ => .commits
  | .phend _ => .commits
  | .csrwr _ => .commits
  | .csrset _ => .commits
  | .csrclr _ => .commits
  | .fence _ => .commits
  | .trap _ => .commits
  | .vclaim _ => .commits
  | .vrel _ => .commits
  | .mlease _ => .commits
  | .mrel _ => .commits
  | .oclaim _ => .commits
  | .orel _ => .commits
  | .accown _ => .commits
  | .amoAdd _ => .commits
  | .amoAnd _ => .commits
  | .amoOr _ => .commits
  | .amoXor _ => .commits
  | .amoMin _ => .commits
  | .amoMax _ => .commits
  | .amoMinu _ => .commits
  | .amoMaxu _ => .commits
  | .amoSwap _ => .commits
  | .mmaDD _ => .commits
  | .mmaSS _ => .commits
  | .mmaBB _ => .commits
  | .mmaHH _ => .commits
  | .mmaBH _ => .commits
  | .mmaHB _ => .commits
  | .mmaNN _ => .commits
  | .mmaNB _ => .commits
  | .mmaBN _ => .commits
  | .beq _ => .branches
  | .bne _ => .branches
  | .blt _ => .branches
  | .bge _ => .branches
  | .bltu _ => .branches
  | .bgeu _ => .branches
  | .b _ => .branches
  | .call _ => .branches
  | .jr _ => .branches
  | _ => .anywhere

/-- Whether a word traps SLOT where it stands (R88, R125, R137). -/
def slotTraps (i : Instr) (x : Slot) : Bool :=
  match slotRule i with
  | .never => x.rep.isSome || inDelaySlot x
  | .commits => x.rep.isSome || !commitAllowed x
  | .branches => x.rep.isSome
  | .anywhere => false

/-- The fields of a modifier word that an instruction honours (R50, R269): MSEL with MINV, ZM, RM with CNT, and the
number of legal OP4 values. -/
structure Honours where
  mask : Bool
  zero : Bool
  round : Bool
  op4 : Nat
  deriving DecidableEq, Repr

/-- The instructions a modifier word may prefix, with the fields each honours; none for the others (R50, R269). -/
def honours : Instr → Option Honours
  | .fadd _ => some ⟨false, false, true, 1⟩
  | .fsub _ => some ⟨false, false, true, 1⟩
  | .fmul _ => some ⟨false, false, true, 1⟩
  | .fdiv _ => some ⟨false, false, true, 1⟩
  | .fsqrt _ => some ⟨false, false, true, 1⟩
  | .fmin _ => some ⟨false, false, true, 1⟩
  | .fmax _ => some ⟨false, false, true, 1⟩
  | .fminn _ => some ⟨false, false, true, 1⟩
  | .fmaxn _ => some ⟨false, false, true, 1⟩
  | .fabs _ => some ⟨false, false, true, 1⟩
  | .fneg _ => some ⟨false, false, true, 1⟩
  | .fsgn _ => some ⟨false, false, true, 1⟩
  | .frnd _ => some ⟨false, false, true, 1⟩
  | .fma _ => some ⟨false, false, true, 1⟩
  | .fms _ => some ⟨false, false, true, 1⟩
  | .fnma _ => some ⟨false, false, true, 1⟩
  | .fcvt _ => some ⟨false, false, true, 1⟩
  | .fcvti _ => some ⟨false, false, true, 1⟩
  | .icvtf _ => some ⟨false, false, true, 1⟩
  | .fcmpeq _ => some ⟨false, false, true, 1⟩
  | .fcmplt _ => some ⟨false, false, true, 1⟩
  | .fcmple _ => some ⟨false, false, true, 1⟩
  | .fcmpun _ => some ⟨false, false, true, 1⟩
  | .fclass _ => some ⟨false, false, true, 1⟩
  | .vclaim _ => some ⟨false, false, false, 1⟩
  | .vrel _ => some ⟨false, false, false, 1⟩
  | .vaddI32 _ => some ⟨true, true, false, 1⟩
  | .vsubI32 _ => some ⟨true, true, false, 1⟩
  | .vmulI32 _ => some ⟨true, true, false, 1⟩
  | .vminI32 _ => some ⟨true, true, false, 1⟩
  | .vmaxI32 _ => some ⟨true, true, false, 1⟩
  | .vminUi32 _ => some ⟨true, true, false, 1⟩
  | .vmaxUi32 _ => some ⟨true, true, false, 1⟩
  | .vand _ => some ⟨true, true, false, 1⟩
  | .vor _ => some ⟨true, true, false, 1⟩
  | .vxor _ => some ⟨true, true, false, 1⟩
  | .vshl _ => some ⟨true, true, false, 1⟩
  | .vshr _ => some ⟨true, true, false, 1⟩
  | .vsel _ => some ⟨true, false, false, 1⟩
  | .vaddF _ => some ⟨true, true, true, 1⟩
  | .vsubF _ => some ⟨true, true, true, 1⟩
  | .vmulF _ => some ⟨true, true, true, 1⟩
  | .vfma _ => some ⟨true, true, true, 16⟩
  | .vfmin _ => some ⟨true, true, true, 1⟩
  | .vfmax _ => some ⟨true, true, true, 1⟩
  | .vrcp _ => some ⟨true, true, true, 1⟩
  | .vrsqrt _ => some ⟨true, true, true, 1⟩
  | .vexp2 _ => some ⟨true, true, true, 1⟩
  | .vlog2 _ => some ⟨true, true, true, 1⟩
  | .vcmp _ => some ⟨true, true, false, 1⟩
  | .vcvt _ => some ⟨true, true, true, 1⟩
  | .vld _ => some ⟨true, true, false, 1⟩
  | .vst _ => some ⟨true, false, false, 1⟩
  | .vlds _ => some ⟨true, true, false, 1⟩
  | .vsts _ => some ⟨true, false, false, 1⟩
  | .vgath _ => some ⟨true, true, false, 1⟩
  | .vscat _ => some ⟨true, false, false, 1⟩
  | .vbcast _ => some ⟨true, true, false, 2⟩
  | .vperm _ => some ⟨true, true, false, 1⟩
  | .vlsh _ => some ⟨true, true, false, 1⟩
  | .vredAdd x => if x.fmt = 2 then some ⟨true, false, false, 1⟩ else some ⟨true, false, true, 1⟩
  | .vredMin _ => some ⟨true, false, false, 1⟩
  | .vredMax _ => some ⟨true, false, false, 1⟩
  | .mand _ => some ⟨false, false, false, 1⟩
  | .mor _ => some ⟨false, false, false, 1⟩
  | .mnot _ => some ⟨false, false, false, 1⟩
  | .mpop _ => some ⟨false, false, false, 1⟩
  | .mfirst _ => some ⟨false, false, false, 1⟩
  | .ast _ => some ⟨false, false, true, 1⟩
  | _ => none

/-- Whether a modifier word may stand before an instruction (R49, R50, R69, R269). -/
def modifierOk (m : Modw) (i : Instr) : Bool :=
  match honours i with
  | none => false
  | some h =>
    (h.mask || (m.msel == 0 && m.minv == 0)) && (h.zero || m.zm == 0) &&
      (h.round || (m.rm == 6 && m.cnt == 0)) && decide (m.op4.toNat < h.op4)

/-- Whether an instruction needs a mask (R269): VSEL. -/
def needsMask : Instr → Bool
  | .vsel _ => true
  | _ => false

/-- The supervisor-only encodings (R89). -/
def supervisorOnly : Instr → Bool
  | .tret _ => true
  | .wfi _ => true
  | .accown _ => true
  | _ => false

/-- Whether an engine hart executes an instruction (R384). -/
def engineRuns (i : Instr) : Bool :=
  match i with
  | .waitv _ => false
  | .lds _ => false
  | .sts _ => false
  | .ldk _ => false
  | .tret _ => false
  | .wfi _ => false
  | .send _ => true
  | .sendw _ => true
  | .sendm _ => true
  | .push _ => true
  | .done _ => true
  | .wquery _ => true
  | .spinw _ => true
  | _ =>
    match encode i with
    | none => false
    | some w =>
      let m := (major w).toNat
      decide (m < 0x20) || m == 0x26 || m == 0x27 || m == 0x3D || m == 0x3E

/-- Whether a clerk executes an instruction (R428, R429). -/
def clerkRuns (i : Instr) : Bool :=
  match i with
  | .tret _ => true
  | .wfi _ => true
  | .waitv _ => true
  | .sendm _ => false
  | .push _ => false
  | .done _ => false
  | _ => engineRuns i

/-- Whether a hart of a kind executes an instruction. -/
def hartRuns (k : HartKind) (i : Instr) : Bool :=
  match k with
  | .core => true
  | .clerk => clerkRuns i
  | _ => engineRuns i

/-- Whether a word commits the open region as it issues (R87). -/
def commits (i : Instr) : Bool :=
  match i with
  | .tret _ => false
  | .wfi _ => false
  | _ => slotRule i == .never || slotRule i == .commits

/-- The tile format and size in force: the partition word's, or in supervisor mode those latched with ACCOWN (R21, R437). -/
def tileFormat (s : State) : Bool × Nat :=
  if s.cur.sup then
    let k := coreOf s (agentOf s.turn)
    (k.acc64, k.accu.toNat)
  else (acc64Of s.cur.partw, accuOf s.cur.partw)

/-- The tile that an instruction's word names, and for an MMA whether its pair needs FP64 tiles (R84, R85). -/
def namedTileOf : Instr → Option (Nat × Option Bool)
  | .azero x => some (x.d.toNat, none)
  | .aread x => some (x.a.toNat, none)
  | .awrite x => some (x.d.toNat, none)
  | .ast x => some (x.tile.toNat, none)
  | .ald x => some (x.d.toNat, none)
  | .mmaDD x => some (x.d.toNat, some true)
  | .mmaSS x => some (x.d.toNat, some false)
  | .mmaBB x => some (x.d.toNat, some false)
  | .mmaHH x => some (x.d.toNat, some false)
  | .mmaBH x => some (x.d.toNat, some false)
  | .mmaHB x => some (x.d.toNat, some false)
  | .mmaNN x => some (x.d.toNat, some false)
  | .mmaNB x => some (x.d.toNat, some false)
  | .mmaBN x => some (x.d.toNat, some false)
  | _ => none

/-- Whether a word names a tile that does not exist, or an MMA whose pair does not fit the tile format (R21, R69, R294). -/
def tileIllegal (s : State) (i : Instr) : Bool :=
  let (acc64, accu) := tileFormat s
  match namedTileOf i with
  | none => false
  | some (t, pair) => !tileExists acc64 accu t || (match pair with
    | some d => acc64 != d
    | none => false)

/-- The field of an instruction that reads a fixed-latency result before it is ready at a cycle, with its selector and the
cycles missing (R54). The counter of a stochastic rounding is no such field (R148). -/
def earlyRead (x : Slot) (i : Instr) (cycle : Nat) : Option (Nat × Sel × Nat) :=
  let at_ (f : Nat × Sel) : Option (Nat × Sel × Nat) :=
    let e := if f.2.toNat < 16 then some (qEntry x f.2.toNat)
      else if f.2.toNat < 24 then some (nEntry x (f.2.toNat - 16)) else none
    match e with
    | some e => if e.tag = 0 ∧ cycle < e.ready then some (f.1, f.2, e.ready - cycle) else none
    | none => none
  (sourceFields i).findSome? at_

/-- The cycle from which every fixed-latency source of an instruction is ready. -/
def sourcesReady (x : Slot) (i : Instr) : Nat :=
  let at_ (f : Nat × Sel) : Nat :=
    if f.2.toNat < 16 then (qEntry x f.2.toNat).ready
    else if f.2.toNat < 24 then (nEntry x (f.2.toNat - 16)).ready else 0
  (sourceFields i).foldl (fun n f => Nat.max n (at_ f)) 0

/-- The scalar instructions that never round: they ignore RM and CNT (R158, R163, R164, R166, R167). DESIGN CHOICE (log entry
125): an FCVT pair that is always exact (R168) is not one of them, so that under RM = 101 it waits for n(CNT). -/
def neverRounds : Instr → Bool
  | .fmin _ => true
  | .fmax _ => true
  | .fminn _ => true
  | .fmaxn _ => true
  | .fabs _ => true
  | .fneg _ => true
  | .fsgn _ => true
  | .fcmpeq _ => true
  | .fcmplt _ => true
  | .fcmple _ => true
  | .fcmpun _ => true
  | .fclass _ => true
  | _ => false

/-- The cycle from which the counter of a stochastic rounding is ready, which is waited for and never counted (R148); an
instruction that never rounds does not read it. -/
def counterReady (x : Slot) (m : Option Modw) (i : Instr) : Nat :=
  match m with
  | some m => if m.rm = 5 && !neverRounds i then (nEntry x m.cnt.toNat).ready else 0
  | none => 0

/-- TINFO of STALL_SHORT (R54). -/
def shortInfo (r : Nat × Sel × Nat) : W := w64 (r.2.1.toNat + r.1 * 2 ^ 5 + Nat.min r.2.2 255 * 2 ^ 8)

end Sys2Proof.Machine
end

