-- ==== Sys2Proof/Machine/Fetch.lean ====
section
/-!
DEFINITION. Fetching the words of a group and the checks before it issues (R50, R51, R54, R69 to R71, R332, R340, R443).
-/
namespace Sys2Proof.Machine

/-! ### Fetching (R332, R340) -/

/-- The instruction-cache line at a canonical address, if held with that sector readable. -/
def icLine (s : State) (core ca : Nat) : Option CodeLine :=
  (coreOf s core).icache.find? fun l => l.line == ca / 64 && !l.bad.contains (ca / 32)

/-- The core with the instruction-cache line of an address filled, its unreadable sectors marked; the oldest line beyond
1,024 leaves (R332, R344). -/
def fillIc (s : State) (core ca : Nat) : State :=
  let s := readHome s ca 64
  let k := coreOf s core
  let bad := [ca / 64 * 2, ca / 64 * 2 + 1].filter fun i => poisonedMem s (i * 32) 32
  let l : CodeLine := ⟨ca / 64, memRead s.mem (ca / 64 * 64) 64, bad⟩
  setCore s core { k with icache := (l :: k.icache.filter fun x => x.line != ca / 64).take 1024 }

/-- Four bytes of memory as the executing hart fetches them: what its own open region has stored there is not seen (R322). -/
def codeBytes (s : State) (ca : Nat) : List Byte :=
  (List.range 4).map fun i => (ownOld s.cur (ca + i)).getD (memGet s.mem (ca + i))

/-- Whether the executing hart's open region has stored into one of the four bytes. -/
def ownCode (s : State) (ca : Nat) : Bool := (List.range 4).any fun i => (ownOld s.cur (ca + i)).isSome

/-- The outcome of a fetch: a word, with what the fetch leaves in the caches, or the fault that its group takes. -/
inductive Fetched where
  | word (w : Word32) (s : State)
  | fault (c : Cause) (info : W)
  | hole (pa : Nat)

/-- The word at an address, as the executing hart fetches it (R173, R340). -/
def fetchWord (s : State) (pc : Addr) : Fetched :=
  let va := pc.toNat
  let h := s.turn
  if windowBase ≤ va then .fault .protect (memInfo 5 0 va false)
  else
    match translate s h va with
    | .unmapped _ => .fault .page (memInfo 0 0 va false)
    | .poisoned => .fault .memerr (memInfo 0 0 va false)
    | .mapped pa _ attrs =>
      let a := attrsOf attrs
      if !s.cur.sup && !a.u || !a.x then .fault .protect (memInfo 0 0 va false)
      else
        let core := agentOf h
        let s := noteTranslation s h va (.mapped pa 0 attrs)
        match locOf pa with
        | none => .hole pa
        | some (.mem ca) =>
          match (if kindOf h == .core && !ownCode s ca then icLine s core ca else none) with
          | some l => .word (BitVec.ofNat 32 (leNat (slice l.bytes (ca % 64) 4))) s
          | none =>
            if poisonedMem s ca 4 then .fault .memerr (memInfo 0 0 va false)
            else .word (BitVec.ofNat 32 (leNat (codeBytes s ca)))
              (if kindOf h == .core && !ownCode s ca then fillIc s core ca else s)
        | some (.remote p) =>
          .word (BitVec.ofNat 32 (leNat (remoteBytes s p 4))) s
        | some (.config off) => .word (BitVec.ofNat 32 (configRead s off 4)) s
        | some (.pool c off) => .word (BitVec.ofNat 32 (leNat (poolRead s c off 4))) s

/-! ### The group (R50, R69, R71) -/

/-- Whether a word is a prefix word. -/
def isPrefix (w : Word32) : Bool := major w == 0x3D || major w == 0x3E

/-- A group as it will issue: the first word's instruction, the last one, the number of prefix words, and the word of
each. -/
structure Group where
  words : List Word32
  state : State

/-- The words of the group that starts at PC, in the order they execute (R51). -/
def fetchGroup (s : State) : Sum Group (Option (Cause × W) × Nat) :=
  let x := s.cur
  let bad : Fetched → Option (Cause × W) × Nat
    | .fault c i => (some (c, i), 0)
    | .hole pa => (none, pa)
    | .word _ _ => (none, 0)
  match fetchWord s x.pc with
  | .word w s1 =>
    if !isPrefix w then .inl ⟨[w], s1⟩
    else
      match fetchWord s1 x.npc with
      | .word v s2 =>
        if !(isPrefix v && major w == 0x3D && major v == 0x3E) then .inl ⟨[w, v], s2⟩
        else
          match fetchWord s2 x.nnpc with
          | .word u s3 => .inl ⟨[w, v, u], s3⟩
          | f => .inr (bad f)
      | f => .inr (bad f)
  | f => .inr (bad f)

/-- Why a group does not issue, decided before any of its words (R71). -/
inductive GroupTrap where
  | illegal (word before : Word32)
  | trap (c : Cause) (info : W)
  deriving DecidableEq, Repr

/-- Whether a hint word makes an immediate shift illegal (R74). -/
def shiftIllegal (hint : Option (BitVec 26)) (i : Instr) : Bool :=
  let big (f : BitVec 13) : Bool :=
    let v : W := match hint with
      | none => f.signExtend 64
      | some k => (k ++ f).signExtend 64
    decide (64 ≤ v.toNat)
  match i with
  | .shli x => big x.imm
  | .shri x => big x.imm
  | .sari x => big x.imm
  | .roti x => big x.imm
  | _ => false

/-- Why a modifier word's group is illegal, beside its words' own encodings (R50, R69): a modifier word whose fields the
instruction does not allow offends itself, an instruction that takes none offends, and so does VSEL without a mask. DESIGN
CHOICE (log entry 112): where a word may take no modifier, or needs a mask that the modifier lacks, the offending word is
the word and not the modifier; the spec does not say which. -/
def modifierFault (m : Modw) (i : Instr) (w q p : Word32) : Option (Word32 × Word32) :=
  if (honours i).isNone || (needsMask i && m.msel == 0) then some (w, q)
  else if !modifierOk m i then some (q, p)
  else none

/-- The legality of a group's words (R50, R69): the offending word and the prefix word before it, or the instruction. -/
def groupLegal (k : HartKind) : List Word32 → Except (Word32 × Word32) (Option (BitVec 26) × Option Modw × Instr)
  | [w] =>
    match decode w with
    | .ok i => if hartRuns k i && !needsMask i && !shiftIllegal none i then .ok (none, none, i) else .error (w, 0)
    | .error _ => .error (w, 0)
  | [p, w] =>
    match decode p, decode w with
    | .error _, _ => .error (p, 0)
    | .ok (.hint h), .ok i =>
      if isPrefix w then .error (w, p)
      else if hartRuns k i && !needsMask i && !shiftIllegal (some h.kimm) i then .ok (some h.kimm, none, i)
      else .error (w, p)
    | .ok (.modifier m), .ok i =>
      if isPrefix w then .error (w, p)
      else if !(hartRuns k i && !shiftIllegal none i) then .error (w, p)
      else match modifierFault m i w p 0 with
        | some e => .error e
        | none => .ok (none, some m, i)
    | .ok _, _ => .error (w, p)
  | [p, q, w] =>
    match decode p, decode q, decode w with
    | .ok (.hint h), .ok (.modifier m), .ok i =>
      if isPrefix w then .error (w, q)
      else if !hartRuns k i then .error (w, q)
      else match modifierFault m i w q p with
        | some e => .error e
        | none => .ok (some h.kimm, some m, i)
    | .error _, _, _ => .error (p, 0)
    | _, .error _, _ => .error (q, p)
    | _, _, _ => .error (w, q)
  | _ => .error (0, 0)

/-- A prefix word where it may not stand: the second delay slot of a taken branch (R51, R88), or the last word of a
REP body (R137). `prev` are the two words before it, nearest first. -/
def prefixTraps (x : Slot) (at_ : Addr) (prev2 : BrKind) : Bool :=
  prev2 == .taken || (match x.rep with
    | some r => at_ + 4 == r.body + BitVec.ofNat 56 (4 * r.len)
    | none => false)

/-- The prefix words of the executing slot's group that have still to have their cycles: none once the group has waited at
issue behind them (R51). -/
def prefixCycles (x : Slot) (ws : List Word32) : Nat := if x.paid = some x.pc then 0 else ws.length - 1

/-- The cycle in which the last word of the executing slot's group is judged (R54): the first in which its stall count
lets it issue, or behind `n` prefix words the one after theirs. -/
def judgedAt (s : State) (n : Nat) : Nat := if n = 0 then s.cur.earliest else s.tick + n

/-- The trap a group takes before it issues, in the order of R71 after its fetch. -/
def groupTrap (s : State) (ws : List Word32) : Option GroupTrap :=
  let x := s.cur
  match groupLegal (kindOf s.turn) ws with
  | .error (w, b) => some (.illegal w b)
  | .ok (_, _, i) =>
    let word := ws.getLastD 0
    let info : W := w64 word.toNat
    let n := ws.length - 1
    let pre (j : Nat) : W := w64 (ws.getD j 0).toNat
    let y := match n with
      | 0 => x
      | 1 => afterPrefix 0 x
      | _ => afterPrefix 0 (afterPrefix 0 x)
    if tileIllegal s i then some (.illegal word (if n = 0 then 0 else ws.getD (n - 1) 0))
    else if supervisorOnly i && !x.sup then some (.trap .protect info)
    else if decide (1 ≤ n) && prefixTraps x x.pc x.prev2 then some (.trap .slot (pre 0))
    else if decide (2 ≤ n) && prefixTraps x x.npc x.prev1 then some (.trap .slot (pre 1))
    else if slotTraps i y then some (.trap .slot info)
    else if x.checkstall then
      match earlyRead x i (judgedAt s (prefixCycles x ws)) with
      | some r => some (.trap .stallShort (shortInfo r))
      | none => none
    else none

/-- The slot held back until the sources of its group are ready: an early read is counted once (R54), and the first cycle
in which the group may issue moves on, so that its last word finds them ready. -/
def holdSources (s : State) (ws : List Word32) : State :=
  match groupLegal (kindOf s.turn) ws with
  | .error _ => s
  | .ok (_, m, i) =>
    let x := s.cur
    let n := prefixCycles x ws
    let late := Nat.max x.earliest (Nat.max (sourcesReady x i) (counterReady x m i) - n)
    match earlyRead x i (judgedAt s n) with
    | none => { s with cur := { x with earliest := Nat.max x.earliest (counterReady x m i - n) } }
    | some _ =>
      let c := if x.stallcnt = BitVec.allOnes 32 then x.stallcnt else x.stallcnt + 1
      { s with cur := { x with stallcnt := c, earliest := late } }

/-- A cycle passes. -/
def tickOne (s : State) : State :=
  { s with tick := s.tick + 1, clock := s.clock + if s.module.frozen.isSome then 0 else 1 }

/-- Whether the word that the executing hart of `s` tried has not issued: `t` is the state after it. An iteration of BMOVE or
BFILL has issued, though it stays at its word (R138). -/
def heldBack (s t : State) : Bool :=
  t.turn == s.turn && t.cur.pc == s.cur.gpc && t.cur.retired == s.cur.retired && t.cur.traps == s.cur.traps &&
    t.cur.iters == s.cur.iters && t.cur.live && t.cur.hint.isNone && t.cur.modw.isNone

/-- A word that waits at issue when the module is frozen stays unissued: its hart stops (R439). `s` is the state in which the
word was tried. -/
def holdUnissued (s t : State) : State :=
  if t.module.frozen.isSome && heldBack s t && kindOf s.turn != .clerk then { t with cur := { t.cur with stopped := true } }
  else t

/-- The executing slot with the prefix words of its group behind it, as they have had their cycles (R48, R49, R51). -/
def behindPrefixes (s : State) (ws : List Word32) : State :=
  let x := match ws.length with
    | 2 => afterPrefix s.tick s.cur
    | _ => afterPrefix s.tick (afterPrefix s.tick s.cur)
  match groupLegal (kindOf s.turn) ws with
  | .ok (h, m, _) => { s with cur := { x with hint := h, modw := m } }
  | .error _ => s

/-- A nullified word: one issue cycle and no effect (R115, R116). -/
def nullifiedWord (s : State) : State :=
  { s with cur := { afterPrefix s.tick s.cur with nullify := s.cur.nullify - 1 } }

end Sys2Proof.Machine
end

