-- ==== Sys2Proof/Machine/Engines.lean ====
section
/-!
DEFINITION. Porters and carters: kicks, jobs and their ends, collectives, stores to other modules and the links that carry
them (R383 to R401, R453).
-/
namespace Sys2Proof.Machine

/-! ### The port table (R387) -/

/-- The scope code that an entry's MSCOPE may hold (R387). -/
def mscopeOk (c : Nat) : Bool := decide (1 ≤ c) && decide (c ≤ 4)

/-- The entry in 32 bytes: VALID is off when reserved bits are set or MSCOPE is none. -/
def portOfBytes (bs : List Byte) (accepted : BitVec 32) : Port :=
  let d (i : Nat) := dword bs (8 * i)
  let ok := field (d 0) 63 52 == 0 && field (d 1) 63 56 == 0 && field (d 2) 63 56 == 0 && field (d 3) 63 32 == 0 &&
    field (d 3) 30 19 == 0 && mscopeOk (field (d 3) 18 16)
  { pblock := field (d 0) 51 0, vblock := BitVec.ofNat 56 (d 1), program := BitVec.ofNat 56 (d 2)
    valid := bitOf (d 3) 31 && ok, mscope := BitVec.ofNat 3 (field (d 3) 18 16)
    ctx := BitVec.ofNat 16 (field (d 3) 15 0), accepted := accepted }

/-- The engine and port whose table entry an offset of a die's block lies in (R449). -/
def tablePort (die off : Nat) : Option (Nat × Nat) :=
  if 0x100000 ≤ off ∧ off < 0x108000 then
    some (2048 + 64 * die + (off - 0x100000) / 512, (off - 0x100000) % 512 / 32)
  else if 0x110000 ≤ off ∧ off < 0x110600 then
    some (2304 + 3 * die + (off - 0x110000) / 512, (off - 0x110000) % 512 / 32)
  else none

/-- The engine's view of an entry after a write to the table: an entry all zero is no port, and one that becomes valid has
accepted no job yet, as its block is zeroed (R388). -/
def refreshPort (s : State) (die off : Nat) : State :=
  match tablePort die off with
  | none => s
  | some (a, p) =>
    let bs := memRead s.module.cfg (dieBlock die + off / 32 * 32) 32
    let e := engineAt s a
    if bs.all (· == 0) then setEngine s a { e with ports := mapDel e.ports p }
    else
      let old := mapFind e.ports p
      let kept := match old with
        | some o => if o.valid then o.accepted else 0
        | none => 0
      setEngine s a { e with ports := mapPut e.ports p (portOfBytes bs kept) }

/-! ### Kicks (R390) -/

/-- The virtual address of a job's parameter block (R385). -/
def jobBlock (p : Port) (idx : BitVec 32) : W := p.vblock.zeroExtend 64 + w64 (0x40 + 0x40 * (idx.toNat % 2))

/-- One job accepted: its weight minted and held, or the job marked to end at its start. -/
def acceptJob (a port : Nat) (p : Port) (s : State) (idx : BitVec 32) : State :=
  let block := p.pblock + 0x40 + 0x40 * (idx.toNat % 2)
  let w := field (physDword s block) 31 0
  let add (j : Job) (s : State) : State :=
    let e := engineAt s a
    setEngine s a { e with jobs := e.jobs ++ [j] }
  if poisonedMem s (canonPa block) 8 then
    add ⟨port, idx, 0, some (2, jobBlock p idx)⟩ s
  else if w = 0 then add ⟨port, idx, 0, some (4, w64 w)⟩ s
  else if homePoisoned s p.ctx then add ⟨port, idx, 0, some (2, w64 (homeRecord s p.ctx))⟩ s
  else match mintWeight s p.ctx w with
    | some s' => add ⟨port, idx, w, none⟩ s'
    | none => add ⟨port, idx, 0, some (4, w64 w)⟩ s

/-- KICK (R390): the jobs from the last accepted to the new count are accepted, or KICK is written back; so it is where KICK or
COMPLETED holds uncorrectable data, which is the model's choice (R344; log entry 91). -/
def execKick (engine : BitVec 12) (port : Nat) (s : State) : Host.Outcome State Fault Refusal :=
  let a := engine.toNat
  match mapFind (engineAt s a).ports port with
  | none => stepTo s
  | some p =>
    let k := physDword s p.pblock
    let v : BitVec 32 := BitVec.ofNat 32 k
    let done : BitVec 32 := BitVec.ofNat 32 (physDword s (p.pblock + 8))
    let d := (v - p.accepted).toNat
    if poisonedPhys s p.pblock 16 then stepTo (homeWrite s (canonPa p.pblock) (natBytes 4 p.accepted.toNat))
    else if d = 0 then stepTo s
    else if 2 < d ∨ 2 < (v - done).toNat ∨ field k 63 32 ≠ 0 ∨ !p.valid ∨ qdone s p.ctx then
      stepTo (homeWrite s (canonPa p.pblock) (natBytes 4 p.accepted.toNat))
    else
      let s := (List.range d).foldl (fun s i => acceptJob a port p s (p.accepted + BitVec.ofNat 32 i)) s
      let e := engineAt s a
      stepTo (setEngine s a { e with ports := mapPut e.ports port { p with accepted := v } })

/-! ### Jobs (R385 to R387) -/

/-- The job an engine takes next: round-robin by port after the one it served last, in job order within a port. -/
def nextJob (e : Engine) : Option Job :=
  let rank (j : Job) : Nat := match e.lastPort with
    | none => j.port
    | some l => (j.port + 15 - l) % 16
  e.jobs.foldl (fun acc j =>
    match acc with
    | none => some j
    | some b => if rank j < rank b then some j else some b) none

/-- The hart at the first word of a job (R385). -/
def jobSlot (s : State) (p : Port) (j : Job) (x : Slot) : Slot :=
  let seed := match ctxOf s p.ctx with
    | some k => k.rec_.seed
    | none => 0
  let n : Vector Entry 8 :=
    ((Vector.replicate 8 (ready 0)).set 0 (ready (jobBlock p j.idx))).set 1 (ready (j.idx.zeroExtend 64))
  { emptied x with
    live := true
    n := n
    fpflags := 0
    wcur := BitVec.ofNat 48 j.weight
    ctx := p.ctx
    seed := seed
    rmode := 0
    fpte := 0
    checkstall := false
    pc := p.program
    npc := p.program + 4
    nnpc := p.program + 8
    rstart := p.program
    gpc := p.program
    runAt := s.clock
    entryCtx := p.ctx }

/-- JOB_START (R385), with the root table of the port's context (R339). A job marked at its kick ends at once (R390). -/
def execJobStart (engine : BitVec 12) (s : State) : Host.Outcome State Fault Refusal :=
  let a := engine.toNat
  let e := engineAt s a
  match e.running, nextJob e with
  | none, some j =>
    match mapFind e.ports j.port with
    | none => stepTo (setEngine s a { e with jobs := e.jobs.erase j })
    | some p =>
      let root := match ctxOf s p.ctx with
        | some k => registryRoot s k p.ctx
        | none => 0
      let s := setEngine s a { e with jobs := e.jobs.erase j, lastPort := some j.port, running := some j, root := root }
      let h : HartId := BitVec.ofNat 13 a
      let s := setSlot s h (jobSlot s p j (slotOf s h))
      match j.refused with
      | some (st, d) => stepTo (endJob s a st 0 d)
      | none => stepTo s
  | _, _ => stepTo s

/-- JOB_END (R386, R391): the mailbox is written as one store, COMPLETED grows, and the job's weight returns. -/
def execJobEnd (engine : BitVec 12) (status tcause : BitVec 8) (detail : W) (s : State) :
    Host.Outcome State Fault Refusal :=
  let a := engine.toNat
  let h : HartId := BitVec.ofNat 13 a
  let e := engineAt s a
  match e.running with
  | none => stepTo s
  | some j =>
    let x := slotOf s h
    let s := setEngine s a { e with running := none, ending := none }
    let s := setSlot s h (emptied x)
    let s := match mapFind e.ports j.port with
      | some p =>
        let count := countUp s (p.pblock + 8)
        homeWrite s (canonPa p.pblock + 8)
          (natBytes 8 (count + tcause.toNat * 2 ^ 48 + status.toNat * 2 ^ 56) ++ wordBytes 8 detail)
      | none => s
    stepTo (if x.wcur = 0 then s else emit s (.homeWeightUpdate (.ret x.ctx x.wcur.toNat)))

/-- Whether a job's hart still awaits responses, results or appends (R311, R316). -/
def jobBusy (s : State) (h : HartId) : Bool := awaitsResponse s h || resultPending s h

/-- What an engine has due: the end of a job whose responses and results are in (R316, R386), or the start of the next one. -/
def engineDue (s : State) (a : Nat) (e : Engine) : Option Event :=
  match e.ending with
  | some (st, tc, d) =>
    if jobBusy s (BitVec.ofNat 13 a) then none else some (.jobEnd (BitVec.ofNat 12 a) st tc d)
  | none => if e.running.isNone && !e.jobs.isEmpty then some (.jobStart (BitVec.ofNat 12 a)) else none

/-! ### Collectives (R400, R401) -/

/-- A collective record (R400). -/
structure Collective where
  cells : W
  mode : BitVec 3
  fmt : BitVec 3
  kind : CellKind
  ncell : Nat
  out : W
  ports : Nat
  ok : Bool
  deriving DecidableEq, Repr

/-- The size of an element of a format code of R79. -/
def fmtBytes (f : BitVec 3) : Nat :=
  match f.toNat with
  | 0 => 8
  | 1 => 4
  | 2 => 2
  | 3 => 2
  | 4 => 4
  | _ => 8

/-- The record in 64 bytes; `ok` is false when it breaks R400. -/
def collectiveOf (bs : List Byte) : Collective :=
  let d (i : Nat) := dword bs (8 * i)
  let fmt : BitVec 3 := BitVec.ofNat 3 (field (d 1) 19 17)
  let n := field (d 1) 15 0
  { cells := w64 (d 0), mode := BitVec.ofNat 3 (field (d 1) 22 20), fmt := fmt
    kind := if bitOf (d 1) 16 then .xa64 else .xa32, ncell := n, out := w64 (d 2), ports := field (d 3) 11 0
    ok := field (d 0) 63 56 == 0 && field (d 1) 63 23 == 0 && decide (field (d 1) 22 20 ≤ 4) &&
      decide (field (d 1) 19 17 ≤ 5) && decide (1 ≤ n) && decide (n ≤ 4096) && field (d 2) 63 56 == 0 &&
      d 2 % fmtBytes fmt == 0 && field (d 3) 63 12 == 0 && (slice bs 32 32).all (· == 0) }

/-- The distance of a collective's cells. -/
def cellStride : CellKind → Nat
  | .xa32 => 64
  | .xa64 => 512

/-- The place of a cell of a kind at a virtual address, if one is declared there. -/
def collectiveCell (k : CellKind) (va : W) : Op (Option Nat) := do
  let (pa, a) ← translateOp 0 (va.toNat % 2 ^ 56)
  permitted 0 (va.toNat % 2 ^ 56) .read false a
  match cellAt (← get) pa with
  | some (at_, k') => return if k' = k then some at_ else none
  | none => return none

/-- The job of an engine ended by the operation under way, nothing else changed. -/
def endNow (status : BitVec 8) (detail : W) : Op Unit := modify fun s => endJob s (agentOf s.turn) status 0 detail

/-- The number of ports in a PORTS field. -/
def portCount (ports : Nat) : Nat := ((List.range 12).filter (bitOf ports)).length

/-- The sum of cell `i` and its peers' partials, of which port number j of PORTS gives the j-th run of NCELL. -/
def collectiveSum (r : Collective) (peers : List CellValue) (own : CellValue) (i : Nat) : CellValue :=
  (List.range (portCount r.ports)).foldl
    (fun acc j => cellAdd r.kind acc ((peers[j * r.ncell + i]?).getD ⟨0, 0⟩)) own

/-- The five steps of R401 on the executing carter, for the job whose parameter block is at `block`. -/
def runCollective (block : W) (peers : List CellValue) : Op Unit := do
  let rec_ := leWord (← loadVa 0 8 8 (block + 8))
  if rec_.toNat % 64 ≠ 0 then endNow 6 rec_
  else
  let bs ← loadVa 0 64 64 rec_
  let r := collectiveOf bs
  let cells ← if r.ok then
      (List.range r.ncell).mapM fun i => collectiveCell r.kind (r.cells + w64 (cellStride r.kind * i))
    else pure []
  if !r.ok || cells.any (·.isNone) then endNow 6 rec_
  else
    let s ← get
    let bad := (cells.zipIdx).find? fun c => match c.1 with
      | some pa => cellPoisoned s pa r.kind
      | none => false
    match bad with
    | some (_, i) => endNow 2 (r.cells + w64 (cellStride r.kind * i))
    | none =>
      let one (q : Option Nat × Nat) : W × BitVec 5 :=
        match q.1 with
        | some pa =>
          readOut r.kind (collectiveSum r peers (cellOfBytes r.kind (physRead s pa (cellBytes r.kind))) q.2) r.fmt
            (modeOfCode r.mode.toNat)
        | none => (0, 0)
      let outs := cells.zipIdx.map one
      outs.zipIdx.forM fun o =>
        storeVa 1 (fmtBytes r.fmt) (r.out + w64 (fmtBytes r.fmt * o.2)) (wordBytes (fmtBytes r.fmt) o.1.1)
      let flags : BitVec 5 := outs.foldl (fun f o => f ||| o.2) 0
      endNow 0 (flags.zeroExtend 64)

/-- COLLECTIVE (R401): the partials of the peer modules arrive at a carter whose job runs a collective. The job's earlier
operations come first. -/
def execCollective (engine : BitVec 12) (peers : List CellValue) (s : State) : Host.Outcome State Fault Refusal :=
  let a := engine.toNat
  let h : HartId := BitVec.ofNat 13 a
  let e := engineAt s a
  match e.running, e.ending with
  | some j, none =>
    match mapFind e.ports j.port with
    | none => stepTo s
    | some p =>
      if kindOfAgent a ≠ .carter then stepTo s
      else if jobBusy s h ∨ s.module.frozen.isSome then
        stepTo { s with inputs := s.inputs ++ [(s.tick + 1, .collective engine peers)] }
      else runOp (runCollective (jobBlock p j.idx) peers) (switchTo s h)
  | _, _ => stepTo s

/-! ### Stores to other modules (R395 to R397) -/

/-- REMOTE_STORE (R395): the carter mints a unit that the packet carries, and forwards the packet; on a dead port, or with
TOTAL at its limit, the store fails. -/
def execRemoteStore (port : Nat) (r : RemotePacket) (s : State) : Host.Outcome State Fault Refusal :=
  let l := linkAt s port
  if l.dead then stepTo (failStore s r.h false false true)
  else match mintWeight s r.ctx 1 with
    | none => stepTo (failStore s r.h false true false)
    | some s' => stepTo (setLink s' port { l with outstanding := l.outstanding ++ [r] })

/-- REMOTE_STORE_ACK (R395): the oldest packet is acknowledged or refused, and its unit returns. -/
def execRemoteStoreAck (port : Nat) (accepted : Bool) (s : State) : Host.Outcome State Fault Refusal :=
  let l := linkAt s port
  match l.outstanding with
  | [] => stepTo s
  | r :: rest =>
    let s := returnWeight (setLink s port { l with outstanding := rest }) r.ctx 1
    stepTo (if !accepted then failStore s r.h false true false
      else if kindOf r.h = .core then updateResident s (agentOf r.h) r.pa r.bytes else s)

/-- The agent number of a port's carter. -/
def carterOf (port : Nat) : Nat := 2304 + port

/-- LINK_DEATH (R397): every packet's unit is written off and its store failed, and the carter's job ends. -/
def execLinkDeath (port : Nat) (s : State) : Host.Outcome State Fault Refusal :=
  let l := linkAt s port
  if l.dead then stepTo s
  else
    let s := setLink s port { l with dead := true, up := false, restoring := false, outstanding := [] }
    let fail (s : State) (r : RemotePacket) : State := failStore (writeOffWeight s r.ctx 1) r.h true false true
    let s := l.outstanding.foldl fail s
    let a := carterOf port
    if (engineAt s a).running.isSome then stepTo (endJob (rollback s (BitVec.ofNat 13 a)) a 5 0 (w64 port)) else stepTo s

/-- PORT_RESTORE (R453): RESTORE written to a dead port begins its training. -/
def execPortRestore (port : Nat) (s : State) : Host.Outcome State Fault Refusal :=
  let l := linkAt s port
  stepTo (if l.dead then setLink s port { l with restoring := true } else s)

/-- LINK_TRAINING (R453): the link comes up. A dead port trains only after a RESTORE. -/
def execLinkTraining (port : Nat) (partner : BitVec 16) (s : State) : Host.Outcome State Fault Refusal :=
  let l := linkAt s port
  stepTo (if l.dead && !l.restoring then s
    else setLink s port { l with partner := partner, retries := 0, dead := false, up := true, restoring := false })

/-- LINK_LEVEL_RETRY (R453): RETRIES counts it, saturating. -/
def execLinkLevelRetry (port : Nat) (s : State) : Host.Outcome State Fault Refusal :=
  let l := linkAt s port
  stepTo (setLink s port { l with retries := if l.retries = BitVec.allOnes 16 then l.retries else l.retries + 1 })

end Sys2Proof.Machine
end

