-- ==== Sys2Proof/Machine/Integer.lean ====
section
/-!
DEFINITION. Integer, bit and address instructions (R91 to R113).
-/
namespace Sys2Proof.Machine

/-! ### Shapes -/

/-- A two-source instruction with a fixed latency (R91). -/
def binary (x : RRR) (latency : Nat) (f : W → W → W) : Op Unit := do
  let a ← readSel x.a
  let b ← readSel x.b
  produce x.d (f a b) latency
  finish x.st

/-- A one-source instruction with a fixed latency. -/
def unary (x : RR) (latency : Nat) (f : W → W) : Op Unit := do
  let a ← readSel x.a
  produce x.d (f a) latency
  finish x.st

/-- An instruction with an immediate, extended under R48. -/
def immediate (x : RI) (f : W → W → W) : Op Unit := do
  let imm := immValue (← curSlot) x.imm
  let a ← readSel x.a
  produce x.d (f a imm) 1
  finish x.st

/-- A shift by an immediate from 0 to 63 (R103); any other value is illegal (R74). -/
def shiftImmediate (i : Instr) (x : RI) (f : W → Nat → W) : Op Unit := do
  let imm := immValue (← curSlot) x.imm
  if 64 ≤ imm.toNat then illegalOp i
  let a ← readSel x.a
  produce x.d (f a imm.toNat) 1
  finish x.st

/-- A three-source instruction. -/
def ternary (x : RRRR) (latency : Nat) (f : W → W → W → W) : Op Unit := do
  let a ← readSel x.a
  let b ← readSel x.b
  let c ← readSel x.c
  produce x.d (f a b c) latency
  finish x.st

/-! ### Results -/

/-- SHL (R102). -/
def shlResult (a : W) (n : Nat) : W := if n < 64 then a <<< n else 0
/-- SHR (R102). -/
def shrResult (a : W) (n : Nat) : W := if n < 64 then a >>> n else 0
/-- SAR (R102). -/
def sarResult (a : W) (n : Nat) : W := a.sshiftRight (Nat.min n 63)
/-- ROT (R102). -/
def rotResult (a : W) (n : Nat) : W := a.rotateLeft (n % 64)
/-- MUL (R99). -/
def mulResult (a b : W) : W := a * b
/-- MULH (R99). -/
def mulhResult (a b : W) : W := BitVec.ofInt 64 (a.toInt * b.toInt / 2 ^ 64)
/-- MULHU (R99). -/
def mulhuResult (a b : W) : W := w64 (a.toNat * b.toNat / 2 ^ 64)
/-- The absolute value as an unsigned number. -/
def absNat (a : W) : Nat := a.toInt.natAbs
/-- DIV (R100). -/
def divResult (a b : W) : W := if b = 0 then allOnes else BitVec.ofInt 64 (a.toInt.tdiv b.toInt)
/-- DIVU (R100). -/
def divuResult (a b : W) : W := if b = 0 then allOnes else w64 (a.toNat / b.toNat)
/-- REM (R100). -/
def remResult (a b : W) : W := if b = 0 then a else BitVec.ofInt 64 (a.toInt.tmod b.toInt)
/-- REMU (R100). -/
def remuResult (a b : W) : W := if b = 0 then a else w64 (a.toNat % b.toNat)
/-- MIN (R97). -/
def minResult (a b : W) : W := if a.toInt ≤ b.toInt then a else b
/-- MAX (R97). -/
def maxResult (a b : W) : W := if b.toInt ≤ a.toInt then a else b
/-- MINU (R97). -/
def minuResult (a b : W) : W := if a.toNat ≤ b.toNat then a else b
/-- MAXU (R97). -/
def maxuResult (a b : W) : W := if b.toNat ≤ a.toNat then a else b
/-- ABS (R97). -/
def absResult (a : W) : W := if 0 ≤ a.toInt then a else 0 - a

/-- The number of leading zeros of the low `n` bits of a number. -/
def leadingZeros : Nat → Nat → Nat
  | 0, _ => 0
  | n + 1, v => if v.testBit n then 0 else leadingZeros n v + 1

/-- The number of trailing zeros of the low `n` bits of a number. -/
def trailingZeros : Nat → Nat → Nat
  | 0, _ => 0
  | n + 1, v => if v % 2 = 1 then 0 else trailingZeros n (v / 2) + 1

/-- The number of one bits among the low `n`. -/
def onesCount : Nat → Nat → Nat
  | 0, _ => 0
  | n + 1, v => v % 2 + onesCount n (v / 2)

/-- The low `n` bits in reverse order. -/
def bitReverse : Nat → Nat → Nat
  | 0, _ => 0
  | n + 1, v => v % 2 * 2 ^ n + bitReverse n (v / 2)

/-- One for true (R105). -/
def flagWord (b : Bool) : W := if b then 1 else 0

/-- BEXT (R108). -/
def bextResult (a pos len : W) : W :=
  if len = 0 ∨ 64 ≤ pos.toNat then 0
  else w64 (a.toNat / 2 ^ pos.toNat % 2 ^ Nat.min len.toNat (64 - pos.toNat))

/-- BINS (R110). -/
def binsResult (a b c : W) : W :=
  let pos := c.toNat % 64
  let len := c.toNat / 64 % 128
  if len = 0 then a
  else
    let n := Nat.min len (64 - pos)
    let m := (2 ^ n - 1) * 2 ^ pos
    w64 (a.toNat - (a.toNat &&& m) + b.toNat % 2 ^ n * 2 ^ pos)

/-- SEL (R107). -/
def selResult (a b c : W) : W := if a ≠ 0 then b else c

/-! ### Divides (R100, R101) -/

/-- The significant bits of a number. -/
def bitCount (n : Nat) : Nat := if n = 0 then 0 else Nat.log2 n + 1

/-- The cycles of a divide (R101): 4 for a zero divisor and for the overflow case, else 4 and half the dividend's
significant bits. -/
def divideCycles (signed : Bool) (a b : W) : Nat :=
  if b = 0 ∨ signed ∧ a = 0x8000000000000000 ∧ b = BitVec.allOnes 64 then 4
  else 4 + (bitCount (if signed then a.toInt.natAbs else a.toNat) + 1) / 2

/-- A divide: its position is taken at issue and the result comes later; a second divide waits for the first (R101). -/
def divide (x : RRR) (signed : Bool) (f : W → W → W) : Op Unit := do
  let s ← get
  let running (e : Event) : Bool := match e with
    | .divideComplete r => r.h == s.turn
    | _ => false
  if s.events.any running then waitHere
  let a ← readSel x.a
  let b ← readSel x.b
  let due := s.tick + divideCycles signed a b
  let (tag, dest) ← reserveBy due x.d
  emitOp (.divideComplete ⟨s.turn, tag, dest, f a b, due⟩)
  finish x.st

/-! ### The instructions -/

/-- ADD (R97). -/
def execAdd (x : RRR) : State → Host.Outcome State Fault Refusal := runOp (binary x 1 fun a b => a + b)
/-- SUB (R97). -/
def execSub (x : RRR) : State → Host.Outcome State Fault Refusal := runOp (binary x 1 fun a b => a - b)
/-- MUL (R99). -/
def execMul (x : RRR) : State → Host.Outcome State Fault Refusal := runOp (binary x 3 mulResult)
/-- MULH (R99). -/
def execMulh (x : RRR) : State → Host.Outcome State Fault Refusal := runOp (binary x 3 mulhResult)
/-- MULHU (R99). -/
def execMulhu (x : RRR) : State → Host.Outcome State Fault Refusal := runOp (binary x 3 mulhuResult)
/-- DIV (R100). -/
def execDiv (x : RRR) : State → Host.Outcome State Fault Refusal := runOp (divide x true divResult)
/-- DIVU (R100). -/
def execDivu (x : RRR) : State → Host.Outcome State Fault Refusal := runOp (divide x false divuResult)
/-- REM (R100). -/
def execRem (x : RRR) : State → Host.Outcome State Fault Refusal := runOp (divide x true remResult)
/-- REMU (R100). -/
def execRemu (x : RRR) : State → Host.Outcome State Fault Refusal := runOp (divide x false remuResult)
/-- AND (R97). -/
def execAnd (x : RRR) : State → Host.Outcome State Fault Refusal := runOp (binary x 1 fun a b => a &&& b)
/-- OR (R97). -/
def execOr (x : RRR) : State → Host.Outcome State Fault Refusal := runOp (binary x 1 fun a b => a ||| b)
/-- XOR (R97). -/
def execXor (x : RRR) : State → Host.Outcome State Fault Refusal := runOp (binary x 1 fun a b => a ^^^ b)
/-- ANDN (R97). -/
def execAndn (x : RRR) : State → Host.Outcome State Fault Refusal := runOp (binary x 1 fun a b => a &&& ~~~b)
/-- ORN (R97). -/
def execOrn (x : RRR) : State → Host.Outcome State Fault Refusal := runOp (binary x 1 fun a b => a ||| ~~~b)
/-- SHL (R102). -/
def execShl (x : RRR) : State → Host.Outcome State Fault Refusal := runOp (binary x 1 fun a b => shlResult a b.toNat)
/-- SHR (R102). -/
def execShr (x : RRR) : State → Host.Outcome State Fault Refusal := runOp (binary x 1 fun a b => shrResult a b.toNat)
/-- SAR (R102). -/
def execSar (x : RRR) : State → Host.Outcome State Fault Refusal := runOp (binary x 1 fun a b => sarResult a b.toNat)
/-- ROT (R102). -/
def execRot (x : RRR) : State → Host.Outcome State Fault Refusal := runOp (binary x 1 fun a b => rotResult a b.toNat)
/-- MIN (R97). -/
def execMin (x : RRR) : State → Host.Outcome State Fault Refusal := runOp (binary x 1 minResult)
/-- MAX (R97). -/
def execMax (x : RRR) : State → Host.Outcome State Fault Refusal := runOp (binary x 1 maxResult)
/-- MINU (R97). -/
def execMinu (x : RRR) : State → Host.Outcome State Fault Refusal := runOp (binary x 1 minuResult)
/-- MAXU (R97). -/
def execMaxu (x : RRR) : State → Host.Outcome State Fault Refusal := runOp (binary x 1 maxuResult)
/-- ABS (R97). -/
def execAbs (x : RR) : State → Host.Outcome State Fault Refusal := runOp (unary x 1 absResult)
/-- CLZ (R104). -/
def execClz (x : RR) : State → Host.Outcome State Fault Refusal := runOp (unary x 1 fun a => w64 (leadingZeros 64 a.toNat))
/-- CTZ (R104). -/
def execCtz (x : RR) : State → Host.Outcome State Fault Refusal := runOp (unary x 1 fun a => w64 (trailingZeros 64 a.toNat))
/-- POP (R104). -/
def execPop (x : RR) : State → Host.Outcome State Fault Refusal := runOp (unary x 1 fun a => w64 (onesCount 64 a.toNat))
/-- BREV (R104). -/
def execBrev (x : RR) : State → Host.Outcome State Fault Refusal := runOp (unary x 1 fun a => w64 (bitReverse 64 a.toNat))
/-- ADDI (R98). -/
def execAddi (x : RI) : State → Host.Outcome State Fault Refusal := runOp (immediate x fun a b => a + b)
/-- ANDI (R98). -/
def execAndi (x : RI) : State → Host.Outcome State Fault Refusal := runOp (immediate x fun a b => a &&& b)
/-- ORI (R98). -/
def execOri (x : RI) : State → Host.Outcome State Fault Refusal := runOp (immediate x fun a b => a ||| b)
/-- XORI (R98). -/
def execXori (x : RI) : State → Host.Outcome State Fault Refusal := runOp (immediate x fun a b => a ^^^ b)
/-- SHLI (R103). -/
def execShli (x : RI) : State → Host.Outcome State Fault Refusal := runOp (shiftImmediate (.shli x) x shlResult)
/-- SHRI (R103). -/
def execShri (x : RI) : State → Host.Outcome State Fault Refusal := runOp (shiftImmediate (.shri x) x shrResult)
/-- SARI (R103). -/
def execSari (x : RI) : State → Host.Outcome State Fault Refusal := runOp (shiftImmediate (.sari x) x sarResult)
/-- ROTI (R103). -/
def execRoti (x : RI) : State → Host.Outcome State Fault Refusal := runOp (shiftImmediate (.roti x) x rotResult)

/-- LEA (R112): the base plus the scaled offset; no access. -/
def execLea (x : Mem) : State → Host.Outcome State Fault Refusal := runOp do
  let off := immValue (← curSlot) x.off
  let a ← readSel x.a
  produce x.d (a + off * w64 (2 ^ x.sz.toNat)) 1
  finish x.st

/-- LIM (R111). -/
def execLim (x : DI) : State → Host.Outcome State Fault Refusal := runOp do
  produce x.d (immValue (← curSlot) x.imm) 1
  finish x.st

/-- SEL (R107). -/
def execSel (x : RRRR) : State → Host.Outcome State Fault Refusal := runOp (ternary x 1 selResult)
/-- BEXT (R108). -/
def execBext (x : RRRR) : State → Host.Outcome State Fault Refusal := runOp (ternary x 2 bextResult)
/-- BINS (R110). -/
def execBins (x : RRRR) : State → Host.Outcome State Fault Refusal := runOp (ternary x 2 binsResult)
/-- CMPEQ (R105). -/
def execCmpeq (x : RRR) : State → Host.Outcome State Fault Refusal := runOp (binary x 1 fun a b => flagWord (a == b))
/-- CMPNE (R105). -/
def execCmpne (x : RRR) : State → Host.Outcome State Fault Refusal := runOp (binary x 1 fun a b => flagWord (a != b))
/-- CMPLT (R105). -/
def execCmplt (x : RRR) : State → Host.Outcome State Fault Refusal := runOp (binary x 1 fun a b => flagWord (a.slt b))
/-- CMPLTU (R105). -/
def execCmpltu (x : RRR) : State → Host.Outcome State Fault Refusal := runOp (binary x 1 fun a b => flagWord (a.ult b))
/-- CMPLE (R105). -/
def execCmple (x : RRR) : State → Host.Outcome State Fault Refusal := runOp (binary x 1 fun a b => flagWord (a.sle b))
/-- CMPLEU (R105). -/
def execCmpleu (x : RRR) : State → Host.Outcome State Fault Refusal := runOp (binary x 1 fun a b => flagWord (a.ule b))
/-- CMPLTI (R106). -/
def execCmplti (x : RI) : State → Host.Outcome State Fault Refusal := runOp (immediate x fun a b => flagWord (a.slt b))

/-- BEXTI (R109): a hint word changes nothing. -/
def execBexti (x : BitF) : State → Host.Outcome State Fault Refusal := runOp do
  let a ← readSel x.a
  produce x.d (bextResult a (x.pos.zeroExtend 64) (x.len.zeroExtend 64)) 2
  finish x.st

/-! ### The result of a divide (R101) -/

/-- DIVIDE_COMPLETE (R101): the result fills its queue position. -/
def execDivideComplete (r : Delivery) (s : State) : Host.Outcome State Fault Refusal := stepTo (deliver s r)

end Sys2Proof.Machine
end

