-- ==== Sys2Proof/Machine/Restart.lean ====
section
/-!
DEFINITION. Heartbeats, the warm restart, the cold start, loss of power, the power registers (R425, R439 to R442, R456 to
R458, R461).
-/
namespace Sys2Proof.Machine

/-! ### Heartbeats (R425, R439) -/

/-- The hart of clerk `i` of the module. -/
def clerkHart (i : Nat) : HartId := BitVec.ofNat 13 (2316 + i)

/-- HEART_WRITE (R425): the clerk has shown itself, and a WFI in it ends (R434). -/
def execHeartWrite (clerk : Nat) (v : BitVec 32) (s : State) : Host.Outcome State Fault Refusal :=
  let d := dieOf s (clerk / 2)
  let s := setDie s (clerk / 2) { d with
    heart := d.heart.setIfInBounds (clerk % 2) v
    heartAge := d.heartAge.setIfInBounds (clerk % 2) s.clock }
  stepTo (setSlot s (clerkHart clerk) { slotOf s (clerkHart clerk) with wfi := none })

/-- HEART_TIMEOUT (R439): a crash of the resident kernel with code 3. -/
def execHeartTimeout (_clerk : Nat) (s : State) : Host.Outcome State Fault Refusal := stepTo (kernelCrash s 3)

/-! ### Re-adoption (R442) -/

/-- What the dispatcher keeps of a context that a registry entry names and it does not hold: the launch record read again. -/
def registryCtx (s : State) (bs : List Byte) : Ctx :=
  let root := field (dword bs 8) 51 0
  let record := field (dword bs 24) 55 0
  let r := match readVirtual s root record 128 with
    | some rec_ => recordOfBytes rec_
    | none => recordOfBytes []
  newCtx (field (dword bs 0) 39 32) root (field (dword bs 16) 51 0) record r

/-- A malformed entry that the dispatcher's walk of such a launch record meets made known (R337). -/
def noteAdoption (s : State) (bs : List Byte) : State :=
  noteWalkAt s (dispatcherAgent (field (dword bs 0) 39 32 / 64)) (field (dword bs 8) 51 0) (field (dword bs 24) 55 0)

/-- A context taken over from a copy of its registry entry. -/
def adopt (s : State) (c : BitVec 16) (bs : List Byte) : State :=
  let root := field (dword bs 8) 51 0
  let s := if (ctxOf s c).isSome then s else noteAdoption s bs
  let k := (ctxOf s c).getD (registryCtx s bs)
  let s := setCtx s c { k with
    queue := field (dword bs 0) 39 32
    root := root
    compl := field (dword bs 16) 51 0
    record := BitVec.ofNat 56 (dword bs 24)
    complete := k.complete || field (dword bs 0) 19 18 == 2 }
  (s.cores.map (·.1)).foldl (fun s core =>
    match placementOf s core c with
    | some p => setPlacement s core { p with root := root }
    | none => s) s

/-- Whether a slot holds a strand of a context, stopped in the switch handler or not. -/
def holdsStrand (x : Slot) (c : BitVec 16) : Bool := x.live && (x.ctx == c || (x.inTrap && x.entryCtx == c))

/-- The strand or job of a context dropped from a hart. -/
def dropStrand (c : BitVec 16) (s : State) (h : HartId) : State :=
  if holdsStrand (slotOf s h) c ∧ kindOf h ≠ .clerk then
    let s := releaseLease (releaseLanes (releaseOslots s h c (fun _ => false)) h) h
    setSlot s h (emptied (slotOf s h))
  else s

/-- The jobs of a context dropped from an engine. -/
def dropJobs (c : BitVec 16) (s : State) (a : Nat) : State :=
  let e := engineAt s a
  let mine (j : Job) : Bool := match mapFind e.ports j.port with
    | some p => p.ctx == c
    | none => false
  let gone := match e.running with
    | some j => mine j
    | none => false
  setEngine s a { e with
    jobs := e.jobs.filter fun j => !mine j
    running := if gone then none else e.running
    ending := if gone then none else e.ending }

/-- The KIND 11 record of a context ended at re-adoption (R435, R442). -/
def endedRecord (s : State) (die : Nat) (c : BitVec 16) : List Byte :=
  let bs := rawRecord s die 11 (2316 + 2 * die) 0 0 0 false
  bs.take 40 ++ natBytes 8 c.toNat ++ bs.drop 48

/-- A context whose copies on a die both fail: everything of it is dropped, what is abroad goes to LOST, and no completion
word is written (R442). ACCOWN stays as it is (R446). -/
def endLost (s : State) (c : BitVec 16) (die : Nat) : State :=
  let abroad := totalOf s c - atHomeOf s c - lostOf s c
  let s := setHome s c 16 ((lostOf s c + abroad) % 2 ^ 48)
  let s := if qdone s c then s else setHome s c 24 (homeFlags s c + 2 ^ 17)
  let s := (s.turn :: s.harts.map fun p => BitVec.ofNat 13 p.1).foldl (dropStrand c) s
  let s := (s.engines.map (·.1)).foldl (dropJobs c) s
  let s := (s.cores.map (·.1)).foldl (dropPlacement c) s
  let s := (s.clusters.map (·.1)).foldl (freeCluster c) s
  let s := fileReport s die (endedRecord s die c)
  let s := dropPending (setRegDword s die c 0 0) c
  { s with
    ctxs := mapDel s.ctxs c.toNat
    cores := s.cores.map fun p => (p.1, { p.2 with returns := p.2.returns.filter fun r => r.1 != c })
    links := s.links.map fun p => (p.1, { p.2 with outstanding := p.2.outstanding.filter fun r => r.ctx != c })
    combine := s.combine.filter fun e => e.ctx != c
    watches := s.watches.filter fun w => w.ctx != c }

/-- One entry of a die's registry at the restart: its context adopted from it, or from the shadow, or ended. A copy that holds
uncorrectable data does not pass (R344; log entry 91). -/
def readopt (die : Nat) (s : State) (i : Nat) : State :=
  let c : BitVec 16 := BitVec.ofNat 16 i
  let a := regEntry s die c
  let entry := physRead s a 128
  let shadow := physRead s (a + shadowOff) 128
  if regPasses entry && !poisonedPhys s a 128 then adopt s c entry
  else if regPasses shadow && !poisonedPhys s (a + shadowOff) 128 then adopt (physWrite s a shadow) c shadow
  else endLost s c die

/-- The entries of a die's registry with STATE other than free, or none that can be read (R344; log entry 91), in rising order. -/
def usedContexts (s : State) (die : Nat) : List Nat :=
  (List.range 65536).filter fun i => regState s die (BitVec.ofNat 16 i) != some 0

/-- Every context of a die at the restart (R442). -/
def readoptDie (s : State) (die : Nat) : State := (usedContexts s die).foldl (readopt die) s

/-! ### The warm restart (R439, R442) -/

/-- The physical base of the preserved region (R441). -/
def preservedBase : Nat := 0x11FFC0000000

/-- A hart as the restart leaves it: a clerk starts, a compute slot in supervisor mode enters its handler again with
the trap registers that its entry wrote, any other issues again (R430, R439). -/
def restartSlot (s : State) (h : HartId) (x : Slot) : Slot :=
  match kindOf h with
  | .clerk => Slot.clerkStart (agentOf h) true
  | .core =>
    if x.live && x.sup then
      let x := { x with tcause := x.entryTrap.cause, tinfo := x.entryTrap.info, tpc := x.entryTrap.tpc, stopped := false }
      enterHandler (dieOf s (dieOfAgent (agentOf h))).tentry x.entryN0 x
    else { x with stopped := false }
  | _ => { x with stopped := false }

/-- Every message that the network interfaces have held through the freeze comes up for delivery, then those that a full
inbound queue has spilled. -/
def deliverHeld (s : State) : State :=
  let one (s : State) (core : Nat) : State :=
    let k := coreOf s core
    let behind := (k.placements.filter fun p => !p.absent).map (·.ctx)
    let t := behind.foldl (fun s c => unspillMessages s core c) { s with events := [] }
    let s := setCore { t with events := s.events } core { coreOf t core with ni := k.ni.filter isRoot }
    { s with events := s.events ++ ((k.ni.filter fun m => !isRoot m).map fun m => .messageArrival core m) ++ t.events }
  (s.cores.map (·.1)).foldl one s

/-- A die's registers at the end of the restart: one more in CRASHREG, and each clerk's watch anew. -/
def restartDie (clock : Nat) (d : Die) : Die :=
  { d with
    crashreg := w64 (field d.crashreg.toNat 63 32 * 2 ^ 32 + (field d.crashreg.toNat 31 0 + 1) % 2 ^ 32)
    heartAge := Vector.replicate 2 clock }

/-- The restart after its step 2 has passed. -/
def restarted (s : State) : State :=
  let s := (List.range 4).foldl readoptDie s
  let s := (List.range 4).foldl (fun s d => setDie s d (restartDie s.clock (dieOf s d))) s
  let s := { s with
    cur := restartSlot s s.turn s.cur
    harts := s.harts.map fun p => (p.1, restartSlot s (BitVec.ofNat 13 p.1) p.2)
    watches := s.watches.filter fun w => w.clerk.isNone
    module := { s.module with frozen := none } }
  let s := deliverHeld s
  { s with events := s.events ++ (queuesWithPackets s).map Event.packetDispatch }

/-- WARM_RESTART (R442): the kernel image is compared with its hash; on a mismatch, which uncorrectable data in it is too (R344;
log entry 91), the module stays frozen until a cold start, and RESULT of the mailbox reports it (log entry 82). -/
def execWarmRestart (s : State) : Host.Outcome State Fault Refusal :=
  let m := s.module
  if m.frozen.isNone ∨ m.locked ∨ m.stage ≠ 0x10 then stepTo s
  else if !poisonedMem s preservedBase m.kernelLen && Config.sha384 (memRead s.mem preservedBase m.kernelLen) == m.kernelHash then
    stepTo (restarted s)
  else stepTo { s with module := { m with locked := true, mbResult := Config.mismatchResult } }

/-- The restart that a frozen module comes to, some time after its crash. -/
def restartDue (s : State) : Option Event :=
  let m := s.module
  if m.frozen.isSome && !m.locked && m.stage == 0x10 && decide (m.frozenAt + Config.restartDelay (s.epoch + m.frozenAt) ≤ s.tick)
  then some .warmRestart else none

/-! ### Cold start and loss of power (R456 to R458) -/

/-- BODYLEN of an image. -/
def bodyLen (img : List Byte) : Nat := leNat (slice img 0xC 4)

/-- Whether both signatures of an image verify, each over its bytes 0x000 to 0x03F (R456). -/
def signaturesVerify (img : List Byte) : Bool :=
  Config.ed25519Verifies (slice img 0 0x40) (slice img 0x40 64) && Config.mldsa65Verifies (slice img 0 0x40) (slice img 0x80 3309)

/-- Why an image is not accepted, as RESULT gives it; 0 when it is (R454, R456). -/
def imageResult (img : List Byte) (minimum : Nat) : BitVec 8 :=
  let n := bodyLen img
  if !(decide (4096 ≤ n) && decide (n ≤ 67108864) && n % 4096 == 0 && img.length == 0x1000 + n) then 5
  else if !(dword img 0 == 0x31305746524D4C54 && Config.sha384 (img.drop 0x1000) == slice img 0x10 48 &&
      signaturesVerify img) then 3
  else if leNat (slice img 8 4) < minimum then 4
  else 0

/-- Host memory, which no start of the module touches. -/
def hostMemory (m : Memory) : Memory := m.filter fun c => match regionOf c.1 with
  | .host _ => true
  | _ => false

/-- The module with nothing running, in a stage: its flash and its fuses stay (R456, R458). -/
def blank (s : State) (stage : BitVec 8) : State :=
  { State.reset with
    cur := Slot.reset
    harts := []
    mem := hostMemory s.mem
    module := { Module.reset with
      cfg := [], stage := stage, flash := s.module.flash, minVersion := s.module.minVersion, kernelHash := [] }
    inputs := s.inputs.map fun i => (i.1 - s.tick, i.2)
    epoch := s.epoch + s.tick }

/-- The module as a cold start with a good image enters stage 0x10 (R430, R441, R457). -/
def coldRunning (s : State) : State :=
  let img := s.module.flash
  let kernel := Config.kernelImage (img.drop 0x1000)
  let b := blank s 0x10
  { b with
    cur := Slot.clerkStart 2316 false
    harts := State.reset.harts
    mem := memWrite b.mem preservedBase kernel
    module := { b.module with
      cfg := capabilityList (Config.failingUnits (s.epoch + s.tick))
      version := BitVec.ofNat 32 (leNat (slice img 8 4))
      imageHash := slice img 0x10 48
      kernelHash := Config.sha384 kernel
      kernelLen := kernel.length } }

/-- The module after a cold start: running, or in Recovery when its image fails. -/
def coldStarted (s : State) : State :=
  if imageResult s.module.flash s.module.minVersion.toNat = 0 then coldRunning s else blank s 0xE0

/-- What a loss of power does to the flash: a write under way leaves an image that fails, for which the model keeps none
(R456; log entry 58). -/
def cutFlash (s : State) : State :=
  if freeStamp s < s.module.flashUntil then { s with module := { s.module with flash := [] } } else s

/-- COLD_START (R457), as a power cycle begins it. -/
def execColdStart (s : State) : Host.Outcome State Fault Refusal := stepTo (coldStarted (cutFlash s))

/-- POWER_LOSS (R458): the preserved region is lost with everything else; the module stands in no stage until it starts
cold. -/
def execPowerLoss (s : State) : Host.Outcome State Fault Refusal := stepTo (blank (cutFlash s) 0)

/-- 10 ms, in cycles (R461; log entry 30). -/
def hotCycles : Nat := 11000000

/-- Whether TEMPMAX has stood at 105 °C for 10 ms (R461). -/
def overheated (s : State) : Bool :=
  s.module.thermal == 2 && (match s.module.hotSince with
    | some t => decide (t + hotCycles ≤ freeStamp s)
    | none => false)

/-- THERMAL_SHUTDOWN (R461): after 10 ms at the limit the module powers off. -/
def execThermalShutdown (s : State) : Host.Outcome State Fault Refusal :=
  if overheated s then stepTo (blank (cutFlash s) 0) else stepTo s

/-- The shutdown that 10 ms at the limit bring. -/
def thermalDue (s : State) : Option Event := if overheated s then some .thermalShutdown else none

/-! ### Power (R461) -/

/-- A power no higher than a cap. -/
def capped (watts cap : BitVec 16) : BitVec 16 := if cap < watts then cap else watts

/-- POWERCAP_WRITE (R461): a cap outside 1,200 to 3,200 W is discarded; POWERNOW is held at or below a new one. -/
def execPowercapWrite (v : W) (s : State) : Host.Outcome State Fault Refusal :=
  let w := field v.toNat 15 0
  let m := s.module
  let cap : BitVec 16 := BitVec.ofNat 16 w
  stepTo (if 1200 ≤ w ∧ w ≤ 3200 then
    { s with module := { m with powercap := cap, powernow := capped m.powernow cap } } else s)

/-- POWER_THROTTLE (R461): THERMAL and POWERNOW follow the power manager, which holds POWERNOW at or below POWERCAP. Results
and cycle counts do not change. -/
def execPowerThrottle (throttled : Bool) (watts : BitVec 16) (s : State) : Host.Outcome State Fault Refusal :=
  let m := s.module
  stepTo { s with module := { m with
    powernow := capped watts m.powercap, thermal := if m.thermal = 2 then 2 else if throttled then 1 else 0 } }

/-- SHUTDOWN_PENDING (R461): TEMPMAX is read, and 105 °C sets THERMAL to 2. -/
def execShutdownPending (temp : BitVec 16) (s : State) : Host.Outcome State Fault Refusal :=
  let m := s.module
  let hot : Bool := decide (1050 ≤ temp.toNat)
  stepTo { s with module := { m with
    tempmax := temp
    thermal := if hot then 2 else if m.thermal = 2 then 0 else m.thermal
    hotSince := if hot then some (m.hotSince.getD (freeStamp s)) else none } }

end Sys2Proof.Machine
end

