-- ==== Sys2Proof/Machine/Mailbox.lean ====
section
/-!
DEFINITION. The host's side: the management mailbox, enqueue windows, device memory, and writes to the configuration window
(R425, R441, R449 to R459).
-/
namespace Sys2Proof.Machine

/-! ### Mailbox commands (R454) -/

/-- Whether the module is in a stage. -/
def inStage (s : State) (n : BitVec 8) : Bool := s.module.stage == n

/-- The end of a command: BUSY falls, RESULT and TAG are written. -/
def mbEnd (s : State) (tag result : BitVec 8) : State :=
  { s with module := { s.module with mbBusy := false, mbTag := tag, mbResult := result } }

/-- An argument of a command. -/
def mbArg (s : State) (off : Nat) : Nat := leNat (memRead s.module.cfg off 8)

/-- MB_COLD_START (R454): it begins at once, also during a warm restart. -/
def execMbColdStart (tag : BitVec 8) (s : State) : Host.Outcome State Fault Refusal :=
  stepTo (mbEnd (coldStarted s) tag 0)

/-- MB_WARM_RESTART (R454): a crash with code 4. -/
def execMbWarmRestart (tag : BitVec 8) (s : State) : Host.Outcome State Fault Refusal :=
  if inStage s 0x10 then stepTo (mbEnd (kernelCrash s 4) tag 0) else stepTo (mbEnd s tag 2)

/-- The bytes at a host physical address, if they all lie in host memory and can be read (R344; log entry 91). -/
def hostBytes (s : State) (hpa n : Nat) : Option (List Byte) :=
  let pa := 0x8000000000000 + hpa
  if hpa + n ≤ 0x7000000000000 ∧ !poisonedMem s pa n then some (physRead s pa n) else none

/-- The flash written with an image, which takes a while: until then the mailbox is busy, and a loss of power leaves an image
that fails (R456; log entry 58). -/
def writeFlash (s : State) (img : List Byte) : State :=
  { s with module := { s.module with flash := img, flashUntil := freeStamp s + Config.flashCycles (freeStamp s) } }

/-- MB_WRITE_FIRMWARE (R456): the new image is checked as at a start, and the flash is touched only when it passes. -/
def execMbWriteFirmware (tag : BitVec 8) (s : State) : Host.Outcome State Fault Refusal :=
  if !(inStage s 0xE0 || inStage s 0xF0) then stepTo (mbEnd s tag 2)
  else if mbArg s 0x18 < 0x2000 ∨ 0x1000 + 67108864 < mbArg s 0x18 then stepTo (mbEnd s tag 5)
  else match hostBytes s (mbArg s 0x10) (mbArg s 0x18) with
    | none => stepTo (mbEnd s tag 6)
    | some img =>
      let r := imageResult img s.module.minVersion.toNat
      stepTo (mbEnd (if r = 0 then writeFlash s img else s) tag r)

/-- The bytes of the capability list (R460): HEAD to the end of its last entry. -/
def capabilityBytes (s : State) : List Byte :=
  memRead s.module.cfg 0x3000 (0x90 + 8 * leNat (memRead s.module.cfg 0x3088 4))

/-- The first 0x100 bytes of an attestation report (R459). -/
def attestation (s : State) : List Byte :=
  let m := s.module
  memRead m.cfg 0x10 32 ++ padded 16 Config.moduleSerial ++ natBytes 4 m.version.toNat ++ natBytes 4 m.minVersion.toNat ++
    padded 48 m.imageHash ++ padded 48 m.kernelHash ++ wordBytes 8 (dieOf s 0).crashreg ++
    padded 48 (Config.sha384 (capabilityBytes s)) ++ natBytes 48 0

/-- MB_ATTESTATION (R459): the report over the host's nonce, with its signatures behind it. -/
def execMbAttestation (tag : BitVec 8) (s : State) : Host.Outcome State Fault Refusal :=
  if !inStage s 0x10 then stepTo (mbEnd s tag 2)
  else
    let r := attestation s
    let bs := r ++ padded (64 + 3309) (Config.reportSignatures r)
    stepTo (mbEnd { s with module := { s.module with cfg := memWrite s.module.cfg 0x80 bs } } tag 0)

/-- MB_REGISTER_LOG (R455): the first 64 bytes of the new log are zeroed; a bad argument leaves the earlier log. -/
def execMbRegisterLog (tag : BitVec 8) (s : State) : Host.Outcome State Fault Refusal :=
  let base := mbArg s 0x10
  let n := mbArg s 0x18
  if !inStage s 0x10 then stepTo (mbEnd s tag 2)
  else if base % 4096 ≠ 0 ∨ n < 4 ∨ 20 < n ∨ 0x7000000000000 < base + 64 + 64 * 2 ^ n then stepTo (mbEnd s tag 6)
  else
    let s := homeWrite s (0x8000000000000 + base) (natBytes 64 0)
    stepTo (mbEnd { s with module := { s.module with log := some (base, n) } } tag 0)

/-- MB_COMMIT_VERSION (R454): the fuses take the running VERSION when it is above them. -/
def execMbCommitVersion (tag : BitVec 8) (s : State) : Host.Outcome State Fault Refusal :=
  let m := s.module
  if !inStage s 0x10 then stepTo (mbEnd s tag 2)
  else stepTo (mbEnd { s with module := { m with
    minVersion := if m.minVersion.toNat < m.version.toNat then m.version else m.minVersion } } tag 0)

/-- MB_STOP (R454, R457): the module freezes and its arrays lose their power, and with it all they held. -/
def execMbStop (tag : BitVec 8) (s : State) : Host.Outcome State Fault Refusal :=
  if !inStage s 0x10 then stepTo (mbEnd s tag 2)
  else
    let b := blank s 0xF0
    stepTo (mbEnd { b with
      dies := s.dies
      links := s.links
      module := { s.module with stage := 0xF0, frozen := some 0, locked := true, frame := 0 } } tag 0)

/-- MB_UNKNOWN_OP (R454). -/
def execMbUnknownOp (tag _op : BitVec 8) (s : State) : Host.Outcome State Fault Refusal := stepTo (mbEnd s tag 1)

/-- The step that a command starts. -/
def mbCommand (op tag : BitVec 8) : Event :=
  match op.toNat with
  | 1 => .mbColdStart tag
  | 2 => .mbWarmRestart tag
  | 3 => .mbWriteFirmware tag
  | 4 => .mbAttestation tag
  | 5 => .mbRegisterLog tag
  | 6 => .mbCommitVersion tag
  | 7 => .mbStop tag
  | _ => .mbUnknownOp tag op

/-- A write to MBCMD (R454): it starts a command, or is dropped and counted while one runs. -/
def mbWrite (s : State) (v : W) : State :=
  let m := s.module
  if mbBusyNow s then
    { s with module := { m with
      mbDropped := if m.mbDropped = BitVec.allOnes 32 then m.mbDropped else m.mbDropped + 1 } }
  else
    let op : BitVec 8 := BitVec.ofNat 8 v.toNat
    let tag : BitVec 8 := BitVec.ofNat 8 (field v.toNat 15 8)
    emit { s with module := { m with mbOp := op, mbTag := tag, mbBusy := true } } (mbCommand op tag)

/-! ### Enqueue windows (R451) -/

/-- The header that a queue's descriptor names, if a host may enqueue on it. -/
def hostHeader (s : State) (q : Nat) : Option Loc :=
  let d := queueDesc s q
  let l := unitLoc d.header
  let h := qheaderOf (headerBytes s l)
  if queueEnabled s q && d.header % 64 == 0 && inMemory d.header 64 && !poisonedMem s (canonPa d.header) 64 && h.ok &&
      h.kind == 0 then some l
  else none

/-- ENQ from the host at the header's home: its status, and the state. -/
def hostEnq (s : State) (q : Nat) (v : W) : Nat × State :=
  match hostHeader s q with
  | none => (3, s)
  | some l =>
    match enqHome s l (queueDesc s q).root true v.toNat with
    | .value st s' => (st, if st = 0 then afterEnq s' l else s')
    | .refuse _ _ ring => (3, noteRing s l (queueDesc s q).root ring)

/-- HOST_ENQUEUE (R451): the outcome is counted, and a Swap returns it. Before stage 0x10 the windows are closed. -/
def execHostEnqueue (queue : Nat) (v : W) (s : State) : Host.Outcome State Fault Refusal :=
  if !inStage s 0x10 ∨ 256 ≤ queue then stepTo { s with module := { s.module with reply := natBytes 8 3 } }
  else
    let (st, s) := hostEnq s queue v
    let x := queueAt s queue
    let x := if st = 0 then { x with accepted := x.accepted + 1 } else { x with refused := x.refused + 1 }
    let s := setQueue s queue x
    stepTo { s with module := { s.module with reply := natBytes 8 st } }

/-! ### Device memory (R441, R452) -/

/-- The physical address of an offset of the host's range. -/
def hostOffset (o : Nat) : Option Nat :=
  let g := 2 ^ 30
  if o < 384 * g then some (0x8000000000 + o / (96 * g) * 2 ^ 37 + o % (96 * g))
  else if o < 2432 * g then some (0x100000000000 + (o - 384 * g))
  else none

/-- Whether an address lies in the preserved region. -/
def preserved (pa : Nat) : Bool := decide (preservedBase ≤ pa) && decide (pa < 0x120000000000)

/-- HOST_MEMORY_ACCESS (R452): a load or store at the home of the offset's canonical location. Writes to the preserved
region are discarded (R441), poisoned data is not delivered (R344), and no store reaches the bytes of a cell (R203). Outside
stage 0x10 it does nothing, which is the model's choice (log entry 107). -/
def execHostMemoryAccess (offset : Nat) (write : Option (List Byte)) (size : Nat) (s : State) :
    Host.Outcome State Fault Refusal :=
  let answer (bs : List Byte) (s : State) : State := { s with module := { s.module with reply := bs } }
  if !inStage s 0x10 then stepTo (answer [] s)
  else match hostOffset offset, write with
    | none, _ => stepTo (answer [] s)
    | some pa, none =>
      let ps := unitPieces size pa size
      if inMemory pa size && !(ps.any fun q => poisonedMem s q.1 q.2) then stepTo (answer (physRead s pa size) s)
      else stepTo (answer [] s)
    | some pa, some bs =>
      let ps := unitPieces bs.length pa bs.length
      if !inMemory pa bs.length || ps.any (fun q => touchesCell s q.1 q.2) then stepTo s
      else
        let put (acc : State × List Byte) (q : Nat × Nat) : State × List Byte :=
          (if preserved q.1 then acc.1 else homeWrite acc.1 q.1 (acc.2.take q.2), acc.2.drop q.2)
        stepTo (ps.foldl put (s, bs)).1

/-! ### Writes to the configuration window (R349, R425, R449, R450) -/

/-- A die's register written, by its offset; none where the offset is no register. The low bits that an aligned base and
TENTRY do not have are dropped (log entry 78). -/
def dieWrite (d : Die) (off v : Nat) : Option Die :=
  match off with
  | 0x000 => some { d with qtbase := BitVec.ofNat 52 (v / 2 ^ 14 * 2 ^ 14) }
  | 0x008 => some { d with hrbase := BitVec.ofNat 52 v }
  | 0x010 => some { d with gangwait := BitVec.ofNat 32 v }
  | 0x018 => some { d with tslice := BitVec.ofNat 32 v }
  | 0x100 => some { d with tentry := BitVec.ofNat 56 (v / 4 * 4) }
  | 0x108 => some { d with centry := BitVec.ofNat 56 v }
  | 0x110 => some { d with regbase := BitVec.ofNat 52 (v / 2 ^ 24 * 2 ^ 24) }
  | 0x118 => some { d with hblimit := BitVec.ofNat 32 v }
  | 0x130 => some { d with crashreg := BitVec.ofNat 64 (field v 39 0) }
  | 0x138 => some { d with kroot := BitVec.ofNat 52 v }
  | _ => none

/-- A write of the resident kernel in a die's block. DESIGN CHOICE (log entry 111): the queue headers at 0x1000 and 0x1040
are records of R204, whose reserved bits keep what is written, and no register fields of R11; a write of FRLOST (0x1080) is
discarded (log entry 110). -/
def dieBlockWrite (s : State) (die off : Nat) (v : W) : State :=
  match dieWrite (dieOf s die) off v.toNat with
  | some d => setDie s die d
  | none =>
    let put : State :=
      { s with module := { s.module with cfg := memWrite s.module.cfg (dieBlock die + off) (wordBytes 8 v) } }
    if off = 0x120 then emitFirst s (.heartWrite (2 * die) (BitVec.ofNat 32 v.toNat))
    else if off = 0x128 then emitFirst s (.heartWrite (2 * die + 1) (BitVec.ofNat 32 v.toNat))
    else if 0x1000 ≤ off ∧ off < 0x1080 then put
    else if (tablePort die off).isSome then refreshPort put die off
    else s

/-- CONFIG_REGISTER_WRITE (R450): a write aligned on 8 is performed at the addressed unit. A host's takes effect only in
the mailbox, the enqueue windows and POWERCAP, and what it sets off there is one step with it; a write to a read-only or
unassigned offset is discarded. -/
def execConfigRegisterWrite (offset : Nat) (v : W) (fromHost : Bool) (s : State) : Host.Outcome State Fault Refusal :=
  let q := (offset - 0x4000) / 64
  let p := (offset - 0x8000) / 64
  if offset % 8 ≠ 0 ∨ inStage s 0 then stepTo s
  else if offset = 0 then stepTo (mbWrite s v)
  else if 0x10 ≤ offset ∧ offset < 0x80 then
    stepTo { s with module := { s.module with cfg := memWrite s.module.cfg offset (wordBytes 8 v) } }
  else if offset = 0x2000 then stepTo (emitFirst s (.powercapWrite v))
  else if 0x4000 ≤ offset ∧ offset < 0x8000 then
    if offset % 64 = 0 then stepTo (emitFirst s (.hostEnqueue q v)) else stepTo s
  else if fromHost then stepTo s
  else if 0x8000 ≤ offset ∧ offset < 0x8300 then
    if offset % 64 = 0 ∧ bitOf v.toNat 2 then stepTo (emitFirst s (.portRestore p)) else stepTo s
  else if 0x1000000 ≤ offset ∧ offset < 0x5000000 then
    stepTo (dieBlockWrite s (offset / 0x1000000 - 1) (offset % 0x1000000) v)
  else stepTo s

end Sys2Proof.Machine
end

