-- ==== Sys2Proof/Machine/Matrix.lean ====
section
/-!
DEFINITION. The matrix array: leases, operand slots, commands and their product, accumulator tiles (R284 to R306, R437,
R438).
-/
namespace Sys2Proof.Machine

/-! ### Tiles (R21, R296, R437) -/

/-- A tile that an instruction names must exist (R21); whether its elements are FP64. -/
def namedTile (i : Instr) (t : Nat) : Op Bool := do
  let (acc64, accu) := tileFormat (← get)
  if tileExists acc64 accu t then return acc64 else illegalOp i

/-- The touch of a tile (R30, R296). -/
def touchTile (i : Instr) (t : Nat) : Op Unit := do
  let s ← get
  let own := (coreOf s (agentOf s.turn)).accown.toNat
  require (s.cur.sup || (bitOf own 16 && own % 2 ^ 16 == s.cur.ctx.toNat)) .accFirstUse
    (w64 (wordOf i + t * 2 ^ 32))

/-- MMA, OLD and ALD of the core's other slot wait while a switch handler exchanges the tiles (R438). -/
def exchangeWait : Op Unit := do
  let s ← get
  if (coreOf s (agentOf s.turn)).exchange.any fun h => h != s.turn then waitHere

/-- A tile that a command in flight owns may not be touched by a tile instruction: ACC_BUSY, or in supervisor mode a wait
(R302, R437). -/
def tileFree (t : Nat) : Op Unit := do
  let s ← get
  let core := agentOf s.turn
  match (inFlight (clusterAt s (clusterOf core))).find? fun c => c.core == core && c.tile == t with
  | none => pure ()
  | some c => if s.cur.sup then waitHere else trapWith .accBusy (w64 (t * 2 ^ 16 + c.seq.toNat))

/-- The key of an element of a tile. -/
def tileKey (t x : Nat) : Nat := t * 1024 + x

/-- An element of a tile. -/
def tileElem (s : State) (core t x : Nat) : W := mapGet 0 (coreOf s core).tiles (tileKey t x)

/-- A map entry written; zero is not listed. -/
def putOrDel {n : Nat} (m : AMap (BitVec n)) (key : Nat) (v : BitVec n) : AMap (BitVec n) :=
  if v = 0 then mapDel m key else mapPut m key v

/-- Elements of a tile written. -/
def setElems (s : State) (core t : Nat) (es : List (Nat × W)) : State :=
  let k := coreOf s core
  setCore s core { k with tiles := es.foldl (fun m e => putOrDel m (tileKey t e.1) e.2) k.tiles }

/-- The edge word of a tile. -/
def edgeOf (s : State) (core t : Nat) : BitVec 16 := mapGet 0 (coreOf s core).edges t

/-- The edge word that a word sets (R300). -/
def edgeWord (v : Nat) : BitVec 16 := BitVec.ofNat 16 (field v 12 8 * 2 ^ 8 + field v 4 0)

/-- An edge word set. -/
def setEdge (s : State) (core t : Nat) (e : BitVec 16) : State :=
  let k := coreOf s core
  setCore s core { k with edges := putOrDel k.edges t e }

/-! ### Leases (R286 to R288) -/

/-- Whether a slot holds the lease. -/
def holdsLease (s : State) : Bool :=
  let l := leaseNow s.cur s.clock
  l.held && l.cyc != 0 && l.cmds != 0

/-- A request for the lease, with a wait at issue until it is granted. -/
def requestAndWait : Op Unit := waitWith fun s =>
  let c := clusterOf (agentOf s.turn)
  let k := clusterAt s c
  if k.leaseWait.contains s.turn then s
  else setCluster s c { k with
    leaseWait := k.leaseWait ++ [s.turn]
    grantAt := Nat.max k.grantAt (s.tick + 1) }

/-- MLEASE (R288). -/
def execMlease (x : N0) : State → Host.Outcome State Fault Refusal := runOp do
  commitPlace (.mlease x)
  let s ← get
  if holdsLease s then finishCommit x.st
  else
    require (accuOf s.cur.partw != 0) .lease (opInfo 1 0 false)
    requestAndWait

/-- MREL (R288). -/
def execMrel (x : N0) : State → Host.Outcome State Fault Refusal := runOp do
  commitPlace (.mrel x)
  modify fun s => releaseLease s s.turn
  finishCommit x.st

/-- How far a core of a cluster stands after the one last granted. -/
def afterCore (last : Option Nat) (i : Nat) : Nat :=
  match last with
  | none => i
  | some l => (i + 7 - l) % 8

/-- The requester that an array grants next (R287). -/
def nextLessee (k : Cluster) : Option HartId :=
  let least (last : Option Nat) (hs : List HartId) : Option HartId :=
    hs.foldl (fun best h =>
      match best with
      | none => some h
      | some b => if afterCore last (agentOf h % 8) < afterCore last (agentOf b % 8) then some h else some b) none
  match least k.lastH (k.leaseWait.filter isH) with
  | some h => some h
  | none => least k.lastL (k.leaseWait.filter fun h => !isH h)

/-- LEASE_GRANT (R287): an unleased array grants its lease; a resume takes up its saved CMDS and CYC (R33). -/
def execLeaseGrant (cluster : Nat) (s : State) : Host.Outcome State Fault Refusal :=
  let k := clusterAt s cluster
  match (if k.holder.isNone then nextLessee k else none) with
  | none => stepTo s
  | some h =>
    let x := slotOf s h
    let (cmds, cyc) := x.lreq.getD (64, 1024)
    let i := agentOf h % 8
    let k := { k with holder := some h, leaseWait := k.leaseWait.filter fun w => w != h }
    let k := if isH h then { k with lastH := some i } else { k with lastL := some i }
    stepTo (setCluster (setSlot s h { x with lease := ⟨true, cmds, cyc, s.clock⟩, lreq := none }) cluster k)

/-- LEASE_EXPIRY (R286): CYC has reached zero. -/
def execLeaseExpiry (h : HartId) (s : State) : Host.Outcome State Fault Refusal := stepTo (releaseLease s h)

/-! ### Operand slots (R289, R291 to R293) -/

/-- The checks on a slot number (R302). -/
def claimedSlot (v : W) : Op Nat := do
  let s ← get
  require (decide (v.toNat < 256)) .slotClaim (opInfo 1 v.toNat false)
  let mine := match mapFind (clusterAt s (clusterOf (agentOf s.turn))).oslots v.toNat with
    | some o => o.ctx == s.cur.ctx
    | none => false
  require mine .slotClaim (opInfo 2 v.toNat false)
  return v.toNat

/-- OCLAIM (R291). -/
def execOclaim (x : D1) : State → Host.Outcome State Fault Refusal := runOp do
  commitPlace (.oclaim x)
  let s ← get
  let c := clusterOf (agentOf s.turn)
  let k := clusterAt s c
  match lowestFree k.oslots 256 with
  | none => produceNow x.d allOnes
  | some n =>
    set (setCluster s c { k with oslots := mapPut k.oslots n ⟨s.turn, s.cur.ctx⟩ })
    produceNow x.d (w64 n)
  finishCommit x.st

/-- OREL (R291). -/
def execOrel (x : A1) : State → Host.Outcome State Fault Refusal := runOp do
  commitPlace (.orel x)
  let a ← readSel x.a
  let n ← claimedSlot a
  let s ← get
  let c := clusterOf (agentOf s.turn)
  let k := clusterAt s c
  if (inFlight k).any fun m => m.slotA == n || m.slotB == n then waitHere
  set (setCluster s c (operandClear { k with oslots := mapDel k.oslots n } n))
  finishCommit x.st

/-- A plain load of a line's unit at a virtual address already checked: none when its data is uncorrectable. Behind a DEAD
port it traps as any load (R453). -/
def loadUnit (n : Nat) (va : W) : Op (Option (List Byte)) := do
  let p ← checkAccess 0 n 1 .read true va
  let s ← get
  let bad := match p.loc with
    | .mem ca => poisonedMem s ca n && (l1Line s (agentOf s.turn) ca).isNone
    | .pool c off => poisonedPool s c off n
    | _ => false
  if bad then return none
  else
    let bs ← loadAt p n 0 (va.toNat % 2 ^ 56)
    return some bs

/-- The units of `n` bytes at a virtual address, each with its place in the block and its bytes if they are good. -/
def loadUnits (va : W) (n : Nat) : Op (List (Nat × Nat × Option (List Byte))) :=
  (linePieces n (va.toNat % 2 ^ 56) n).mapM fun q => do
    let bs ← loadUnit q.2 (w64 q.1)
    return (q.1 - va.toNat % 2 ^ 56, q.2, bs)

/-- The units of a load that reach their target: all of them, or with uncorrectable data a mixture (R293, R299; log entry
11). -/
def goodUnits (stamp : Nat) (failed : Bool) (base : Nat) (us : List (Nat × Nat × Option (List Byte))) :
    List (Nat × List Byte) :=
  us.filterMap fun u =>
    match u.2.2 with
    | some bs => if failed && !Config.unitWritten stamp (base + u.1) then none else some (u.1, bs)
    | none => none

/-- The late MEMERR of a load with an uncorrectable unit (R176). -/
def lateUnits (va : W) (us : List (Nat × Nat × Option (List Byte))) : Op Unit := do
  match us.find? fun u => u.2.2.isNone with
  | none => pure ()
  | some u =>
    let t ← freshTag
    let s ← get
    emitOp (.lateFault s.turn .memerr (memInfo 0 0 (va.toNat % 2 ^ 56 + u.1) true) ⟨s.cur.gpc, t⟩)

/-- OLD (R293). DESIGN CHOICE (log entry 120): its loads perform all at once when it issues, where the spec lets them come
later; so no mixture of old and new units is seen but after a late fault. -/
def execOld (x : AB) : State → Host.Outcome State Fault Refusal := runOp do
  exchangeWait
  let a ← readSel x.a
  let b ← readSel x.b
  let n ← claimedSlot a
  let _ ← checkAccess 0 1 64 .read true b
  let _ ← checkAccess 0 1 1 .read true (b + 2047)
  let c := clusterOf (← curAgent)
  if (clusterAt (← get) c).cmdQ.any fun m => m.slotA == n || m.slotB == n then waitHere
  let us ← loadUnits b 2048
  modify fun s =>
    let k := clusterAt s c
    let write (k : Cluster) (u : Nat × List Byte) : Cluster := operandWrite k (n * 2048 + u.1) u.2
    setCluster s c ((goodUnits (freeStamp s) (us.any fun u => u.2.2.isNone) 0 us).foldl write k)
  lateUnits b us
  finish x.st

/-! ### Commands (R284, R285, R294, R304) -/

/-- The cycles of a command (R290). -/
def commandCycles (pair planes : Nat) : Nat := if pair = 0x36 then (if 5 ≤ planes then 4 else 1) else 8

/-- MMA: the checks in the order of R302, the lease, room in the queue, and the acceptance (R294). DESIGN CHOICE (log entry
121): without a lease it requests one without the check of ACCU that MLEASE makes (R288), which matters only in supervisor
mode, where a tile can be named that the context's partition does not have. -/
def issueMma (i : Instr) (st : BitVec 3) (pair : Nat) (d a b : Sel) (c : Option Sel) (planes : Nat) : Op Unit := do
  let t := d.toNat
  let acc64 ← namedTile i t
  if acc64 != (pair == 0x30) then illegalOp i
  commitPlace i
  exchangeWait
  let va ← readSel a
  let vb ← readSel b
  let scale ← match c with
    | some c => readSel c
    | none => pure 0
  touchTile i t
  let sa ← claimedSlot va
  let sb ← claimedSlot vb
  let s ← get
  if !holdsLease s then requestAndWait
  let core := agentOf s.turn
  let cl := clusterOf core
  let k := clusterAt s cl
  if 16 ≤ k.cmdQ.length then waitHere
  let kc := coreOf s core
  let seq := kc.seq + 1
  let cmd : MmaCmd :=
    { h := s.turn, core := core, pair := BitVec.ofNat 6 pair, tile := t, slotA := sa, slotB := sb, scale := scale
      planes := planes, edge := edgeOf s core t, seq := seq, opA := [], opB := [], time := s.tick }
  let l := leaseNow s.cur s.clock
  let s := setCore s core { kc with seq := seq, accepted := kc.accepted + 1 }
  let s := setCluster s cl { k with cmdQ := k.cmdQ ++ [cmd] }
  let s := { s with cur := { s.cur with lease := { l with cmds := l.cmds - 1 } } }
  set (if l.cmds = 1 then releaseLease s s.turn else s)
  finishCommit st

/-- MMA.DD (R290). -/
def execMmaDD (x : RRR) : State → Host.Outcome State Fault Refusal := runOp do issueMma (.mmaDD x) x.st 0x30 x.d x.a x.b none 0
/-- MMA.SS (R290). -/
def execMmaSS (x : RRR) : State → Host.Outcome State Fault Refusal := runOp do issueMma (.mmaSS x) x.st 0x31 x.d x.a x.b none 0
/-- MMA.BB (R290). -/
def execMmaBB (x : RRR) : State → Host.Outcome State Fault Refusal := runOp do issueMma (.mmaBB x) x.st 0x32 x.d x.a x.b none 0
/-- MMA.HH (R290). -/
def execMmaHH (x : RRR) : State → Host.Outcome State Fault Refusal := runOp do issueMma (.mmaHH x) x.st 0x33 x.d x.a x.b none 0
/-- MMA.BH (R290). -/
def execMmaBH (x : RRR) : State → Host.Outcome State Fault Refusal := runOp do issueMma (.mmaBH x) x.st 0x34 x.d x.a x.b none 0
/-- MMA.HB (R290). -/
def execMmaHB (x : RRR) : State → Host.Outcome State Fault Refusal := runOp do issueMma (.mmaHB x) x.st 0x35 x.d x.a x.b none 0
/-- MMA.NN (R290). -/
def execMmaNN (x : MmaN) : State → Host.Outcome State Fault Refusal := runOp do
  issueMma (.mmaNN x) x.st 0x36 x.d x.a x.b (some x.c) (x.pm2.toNat + 2)
/-- MMA.NB (R290). -/
def execMmaNB (x : MmaN) : State → Host.Outcome State Fault Refusal := runOp do
  issueMma (.mmaNB x) x.st 0x37 x.d x.a x.b (some x.c) (x.pm2.toNat + 2)
/-- MMA.BN (R290). -/
def execMmaBN (x : MmaN) : State → Host.Outcome State Fault Refusal := runOp do
  issueMma (.mmaBN x) x.st 0x38 x.d x.a x.b (some x.c) (x.pm2.toNat + 2)

/-- MMA_COMMAND_START (R284, R304): the command at the head of the queue starts on an idle array and reads its operand
slots. -/
def execMmaCommandStart (cluster : Nat) (s : State) : Host.Outcome State Fault Refusal :=
  let k := clusterAt s cluster
  match k.running, k.cmdQ with
  | none, c :: cs =>
    let run := { c with
      opA := slotBytes k cluster (freeStamp s) c.slotA, opB := slotBytes k cluster (freeStamp s) c.slotB, time := s.tick + commandCycles c.pair.toNat c.planes }
    stepTo (setCluster s cluster { k with running := some run, cmdQ := cs })
  | _, _ => stepTo s

/-! ### The product (R151, R152, R154, R289, R294, R295) -/

/-- Element `e` of blocks of nested integers, read at `p` planes (R151, R152). -/
def nestedInt (bs : List Byte) (p e : Nat) : Int :=
  let block := 256 * (e / 256)
  let i := e % 256
  let plane (j : Nat) : Nat := b1 (bitOf (bs.getD (block + 32 * j + i / 8) 0).toNat (i % 8))
  sextNat p (((List.range p).map fun j => plane j * 2 ^ (p - 1 - j)).foldl (· + ·) 0)

/-- A nested integer with its scale exponent as a value (R152). -/
def nestedVal (n : Int) (e p : Nat) : FpVal :=
  if n = 0 then .zero false else .fin (decide (n < 0)) n.natAbs ((e : Int) - 127 + (8 - p : Nat))

/-- A floating element of an operand (R289). -/
def floatElem (f : FpFmt) (bs : List Byte) (e : Nat) : FpVal :=
  let n := f.width / 8
  unpack f (leNat (slice bs (e * n) n))

/-- The inner dimension of a pair (R290). -/
def innerDim (pair : Nat) : Nat :=
  match pair with
  | 0x30 => 8
  | 0x31 => 16
  | 0x36 => 64
  | _ => 32

/-- The A operand's element `e` as a value. -/
def elemA (c : MmaCmd) (e : Nat) : FpVal :=
  match c.pair.toNat with
  | 0x30 => floatElem fp64 c.opA e
  | 0x31 => floatElem fp32 c.opA e
  | 0x33 => floatElem fp16 c.opA e
  | 0x35 => floatElem fp16 c.opA e
  | 0x37 => nestedVal (nestedInt c.opA c.planes e) (field c.scale.toNat 7 0) c.planes
  | _ => floatElem bf16 c.opA e

/-- The B operand's element `e` as a value. -/
def elemB (c : MmaCmd) (e : Nat) : FpVal :=
  match c.pair.toNat with
  | 0x30 => floatElem fp64 c.opB e
  | 0x31 => floatElem fp32 c.opB e
  | 0x33 => floatElem fp16 c.opB e
  | 0x34 => floatElem fp16 c.opB e
  | 0x38 => nestedVal (nestedInt c.opB c.planes e) (field c.scale.toNat 15 8) c.planes
  | _ => floatElem bf16 c.opB e

/-- Product `k` of output element (i, j). -/
def mmaTerm (c : MmaCmd) (i j k : Nat) : FpVal :=
  let n := innerDim c.pair.toNat
  if c.pair = 0x36 then
    let v := nestedInt c.opA c.planes (n * i + k) * nestedInt c.opB c.planes (n * j + k)
    if v = 0 then .zero false
    else .fin (decide (v < 0)) v.natAbs
      (((field c.scale.toNat 7 0 + field c.scale.toNat 15 8 : Nat) : Int) - 254 + (2 * (8 - c.planes) : Nat))
  else mulVal (elemA c (n * i + k)) (elemB c (n * j + k))

/-- The accumulator's format. -/
def accFormat (c : MmaCmd) : FpFmt := if c.pair = 0x30 then fp64 else fp32

/-- An updated element (R294, R295). -/
def mmaElem (c : MmaCmd) (acc : W) (i j : Nat) : FpResult :=
  sumFp (accFormat c) ⟨.rne, 0⟩
    (unpack (accFormat c) acc.toNat :: (List.range (innerDim c.pair.toNat)).map (mmaTerm c i j))

/-- Whether element (i, j) lies within the command's edge (R300). -/
def withinEdge (c : MmaCmd) (i j : Nat) : Bool :=
  decide (i < 32 - field c.edge.toNat 4 0) && decide (j < 32 - field c.edge.toNat 12 8)

/-- The elements a command updates, with their results. -/
def mmaResults (s : State) (c : MmaCmd) : List (Nat × FpResult) :=
  (List.range 1024).filterMap fun x =>
    if withinEdge c (x / 32) (x % 32) then some (x, mmaElem c (tileElem s c.core c.tile x) (x / 32) (x % 32)) else none

/-- Flags ORed into the FPFLAGS of a slot, and into its save area while its strand is in the switch handler (R294, R426,
R433). -/
def orFlags (s : State) (h : HartId) (fl : BitVec 5) : State :=
  let x := slotOf s h
  let s := setSlot s h { x with fpflags := x.fpflags ||| fl }
  if x.sup && x.inTrap && kindOf h == .core then
    let at_ := saveOffset (isH h) x.partw x.pbase + 0x48
    let w := leNat (poolRead s (agentOf h) at_ 8)
    poolWrite s (agentOf h) at_ (natBytes 8 (w ||| fl.toNat * 2 ^ 31))
  else s

/-- MMA_COMMAND_COMPLETE (R294): the tile takes the results, and the slot the flags. -/
def execMmaCommandComplete (cluster : Nat) (s : State) : Host.Outcome State Fault Refusal :=
  let k := clusterAt s cluster
  match k.running with
  | none => stepTo s
  | some c =>
    let rs := mmaResults s c
    let s := setElems s c.core c.tile (rs.map fun r => (r.1, w64 r.2.bits))
    let s := orFlags s c.h ((rs.map fun r => r.2.flags).foldl (· ||| ·) 0)
    stepTo (setCluster s cluster { clusterAt s cluster with running := none })

/-! ### Tile instructions (R297 to R301, R303) -/

/-- The checks of a tile instruction between its decoding and its memory checks: touch, ACC_BUSY. -/
def useTile (i : Instr) (t : Nat) : Op Unit := do
  touchTile i t
  tileFree t

/-- AZERO (R297). -/
def execAzero (x : D1) : State → Host.Outcome State Fault Refusal := runOp do
  let _ ← namedTile (.azero x) x.d.toNat
  useTile (.azero x) x.d.toNat
  let core ← curAgent
  modify fun s =>
    let k := coreOf s core
    setCore s core { k with tiles := k.tiles.filter fun e => e.1 / 1024 != x.d.toNat }
  finish x.st

/-- AREAD (R297). -/
def execAread (x : RRR) : State → Host.Outcome State Fault Refusal := runOp do
  let _ ← namedTile (.aread x) x.a.toNat
  let b ← readSel x.b
  useTile (.aread x) x.a.toNat
  let s ← get
  let core := agentOf s.turn
  let i := b.toNat % 2048
  produceNow x.d
    (if i < 1024 then tileElem s core x.a.toNat i
     else if i = 1024 then (edgeOf s core x.a.toNat).zeroExtend 64 else 0)
  finish x.st

/-- AWRITE (R297). -/
def execAwrite (x : RRR) : State → Host.Outcome State Fault Refusal := runOp do
  let acc64 ← namedTile (.awrite x) x.d.toNat
  let a ← readSel x.a
  let b ← readSel x.b
  useTile (.awrite x) x.d.toNat
  let core ← curAgent
  let i := a.toNat % 2048
  modify fun s =>
    if i < 1024 then setElems s core x.d.toNat [(i, if acc64 then b else w64 (b.toNat % 2 ^ 32))]
    else if i = 1024 then setEdge s core x.d.toNat (edgeWord b.toNat) else s
  finish x.st

/-- The address of a tile's row (R298). -/
def rowAddress (a b : W) (i : Nat) : W := a + w64 i * b

/-- The alignment of a block's address and row distance, then the first and last byte of every row, checked before any
access (R298). -/
def checkRows (kind : Nat) (want : Want) (a b : W) (n align : Nat) : Op Unit := do
  let addr (ea : W) : Nat := ea.toNat % 2 ^ 56
  require (decide (a.toNat < 2 ^ 56)) .page (memInfo 1 kind (addr a) false)
  require (a.toNat % align == 0) .align (memInfo 0 kind (addr a) false)
  require (b.toNat % align == 0) .align (memInfo 0 kind (addr (a + b)) false)
  (List.range 32).forM fun i => do
    let _ ← checkAccess kind 1 align want true (rowAddress a b i)
    let _ ← checkAccess kind 1 1 want true (rowAddress a b i + w64 (n - 1))

/-- A plain store of bytes that may lie in several lines. -/
def storeSpan (va : W) (bs : List Byte) : Op Unit :=
  (linePieces bs.length (va.toNat % 2 ^ 56) bs.length).forM fun q => do
    let p ← checkAccess 1 q.2 1 .write true (w64 q.1)
    storeAt p (slice bs (q.1 - va.toNat % 2 ^ 56) q.2)

/-- The format that AST stores (R85). -/
def astFormat (acc64 : Bool) (f : BitVec 2) : FpFmt :=
  match f.toNat with
  | 0 => if acc64 then fp64 else fp32
  | 1 => fp32
  | 2 => bf16
  | _ => fp16

/-- An element converted for AST: the same format keeps its bits (R298). -/
def astElem (src dst : FpFmt) (r : Rounding) (v : W) : FpResult :=
  if src = dst then .clean v.toNat else roundVal dst r (unpack src v.toNat)

/-- A tile stored by supervisor code, counted as spilled (R447). -/
def countSpill (s : State) : State :=
  if s.cur.sup then
    let core := agentOf s.turn
    setCore s core { coreOf s core with spilledTiles := (coreOf s core).spilledTiles + 1 }
  else s

/-- AST (R298). -/
def execAst (x : Ast) : State → Host.Outcome State Fault Refusal := runOp do
  let t := x.tile.toNat
  let acc64 ← namedTile (.ast x) t
  let a ← readSel x.a
  let b ← readSel x.b
  useTile (.ast x) t
  let src := if acc64 then fp64 else fp32
  let dst := astFormat acc64 x.fmt
  let n := dst.width / 8
  checkRows 1 .write a b (32 * n) n
  let core ← curAgent
  let es ← (List.range 1024).mapM fun i => do
    let r ← roundingFor i
    return astElem src dst r (tileElem (← get) core t i)
  raiseFlags (wordOf (.ast x)) 0 ((es.map (·.flags)).foldl (· ||| ·) 0)
  (List.range 32).forM fun i =>
    storeSpan (rowAddress a b i) ((((es.drop (32 * i)).take 32).map fun e => natBytes n e.bits).flatten)
  modify countSpill
  finish x.st

/-- A row's bytes with the units loaded in their places. -/
def patchRow (old : List Byte) (us : List (Nat × List Byte)) : List Byte :=
  us.foldl (fun bs u => bs.take u.1 ++ u.2 ++ bs.drop (u.1 + u.2.length)) old

/-- ALD (R299). DESIGN CHOICE (log entry 120): its loads perform all at once when it issues, so no later word ever waits for
an ALD in flight. -/
def execAld (x : RRR) : State → Host.Outcome State Fault Refusal := runOp do
  let t := x.d.toNat
  let acc64 ← namedTile (.ald x) t
  exchangeWait
  let a ← readSel x.a
  let b ← readSel x.b
  useTile (.ald x) t
  let n := if acc64 then 8 else 4
  checkRows 0 .read a b (32 * n) n
  let core ← curAgent
  let rows ← (List.range 32).mapM fun i => loadUnits (rowAddress a b i) (32 * n)
  let failed := rows.any fun us => us.any fun u => u.2.2.isNone
  modify fun s =>
    let row (s : State) (q : List (Nat × Nat × Option (List Byte)) × Nat) : State :=
      let us := goodUnits (freeStamp s) failed (32 * n * q.2) q.1
      let old := ((List.range 32).map fun j => wordBytes n (tileElem s core t (32 * q.2 + j))).flatten
      let bs := patchRow old us
      setElems s core t ((List.range 32).map fun j => (32 * q.2 + j, leWord (slice bs (n * j) n)))
    rows.zipIdx.foldl row s
  match rows.zipIdx.find? fun q => q.1.any fun u => u.2.2.isNone with
  | some q => lateUnits (rowAddress a b q.2) q.1
  | none => pure ()
  finish x.st

/-- MWAIT (R301). -/
def execMwait (x : N0) : State → Host.Outcome State Fault Refusal := runOp do
  let s ← get
  if matrixBusy s s.turn then waitHere
  finish x.st

/-- MEDGE (R300). DESIGN CHOICE (log entry 131): a tile that does not exist, which only the register tells, traps ILLEGAL
before the touch can trap ACC_FIRST_USE (R302 orders the causes found at decode). -/
def execMedge (x : A1) : State → Host.Outcome State Fault Refusal := runOp do
  let a ← readSel x.a
  let t := field a.toNat 18 16
  let _ ← namedTile (.medge x) t
  touchTile (.medge x) t
  let core ← curAgent
  modify fun s => setEdge s core t (edgeWord a.toNat)
  finish x.st

/-- ACCOWN (R303). -/
def execAccown (x : RR) : State → Host.Outcome State Fault Refusal := runOp do
  supervisorWord (.accown x)
  commitPlace (.accown x)
  let a ← readSel x.a
  let s ← get
  let core := agentOf s.turn
  if coreBusy s core then waitHere
  produceNow x.d (coreOf s core).accown
  modify fun s => writeAccown s a.toNat
  finishCommit x.st

/-- What a cluster's array has due. -/
def arrayDue (s : State) (c : Nat) (k : Cluster) : Option Event :=
  if k.holder.isNone && !k.leaseWait.isEmpty && decide (k.grantAt ≤ s.tick) then some (.leaseGrant c)
  else match k.running, k.cmdQ with
  | some r, _ => if r.time ≤ s.tick then some (.mmaCommandComplete c) else none
  | none, m :: _ => if m.time < s.tick then some (.mmaCommandStart c) else none
  | none, [] => none

end Sys2Proof.Machine
end

