-- ==== Sys2Proof/Machine/Pages.lean ====
section
/-!
DEFINITION. Walks and invalidations (R337 to R342).
-/
namespace Sys2Proof.Machine

/-! ### Walks (R338 to R341) -/

/-- A translation made the newest of a core's TLB: 128 entries of 64 KiB pages and 16 of large ones (R340). -/
def installCore (s : State) (core : Nat) (e : TlbEntry) : State :=
  let k := coreOf s core
  let rest := k.tlb.filter fun t => !(t.ctx == e.ctx && t.base == e.base && t.size == e.size)
  let l := e :: rest
  setCore s core { k with
    tlb := (l.filter fun t => t.size == 65536).take 128 ++ (l.filter fun t => t.size != 65536).take 16 }

/-- A translation made the newest of a cluster's shared TLB of 4,096 entries. -/
def installCluster (s : State) (c : Nat) (e : TlbEntry) : State :=
  let k := clusterAt s c
  setCluster s c { k with tlb := (e :: k.tlb.filter (· != e)).take 4096 }

/-- The pointers a walk has read kept by a die's walkers, 1,024 of them (R341). DESIGN CHOICE (log entry 28): the pointer that
leaves a full cache is the one kept longest; R341 gives no replacement. -/
def keepPointers (s : State) (die : Nat) (ps : List (Nat × Nat)) : State :=
  let d := dieOf s die
  let old := d.pointers.filter fun p => !(ps.any fun q => q.1 == p.1)
  setDie s die { d with pointers := (ps ++ old).take 1024 }

/-- PAGE_WALK (R338, R341): the result of a walk enters the core's and its cluster's TLB, and the pointers it read the
walkers' cache; a malformed entry is reported (R337). -/
def execPageWalk (core : Nat) (ctx : BitVec 16) (root : Nat) (va : Addr) (s : State) :
    Host.Outcome State Fault Refusal :=
  let die := dieOfAgent core
  let v := va.toNat
  let own := kindOfAgent core == .core
  if root = identityRoot then stepTo s
  else
    let shared := if own then (clusterAt s (clusterOf core)).tlb.find? fun e => e.covers ctx v else none
    match shared with
    | some e => stepTo (installCore s core e)
    | none =>
      match if own then dieWalk s die root v else walk s root v with
      | .mapped pa size attrs =>
        if own then
          let e : TlbEntry := ⟨ctx, v / size * size, size, pa - v % size, BitVec.ofNat 6 attrs⟩
          stepTo (keepPointers (installCluster (installCore s core e) (clusterOf core) e) die (walkPointers s v 4 root))
        else stepTo s
      | .unmapped (some (at_, lvl)) => stepTo (report s die 5 core at_ (2 ^ (16 + 10 * lvl)) lvl false)
      | _ => stepTo s

/-! ### Invalidation (R342) -/

/-- Whether an access by a hart of a die is still under way: a contribution to a cell, a store to another module, or an append
that was checked at issue. -/
def dieAccesses (s : State) (die : Nat) : Bool :=
  (s.events.any fun e => match appendOf e with
    | some (h, _) => dieOfAgent (agentOf h) == die
    | none => false) ||
  (s.combine.any fun e => e.from_.any fun f => dieOfAgent (agentOf f.h) == die) ||
    s.links.any fun l => l.2.outstanding.any fun r => dieOfAgent (agentOf r.h) == die

/-- Whether a translation matches a record: its context, or any, and a page that meets its range, or any. -/
def TlbEntry.matches (e : TlbEntry) (ctx : Nat) (base pages : Nat) : Bool :=
  (ctx == 0 || e.ctx.toNat == ctx) && (pages == 0 || rangesMeet (e.base, e.size) (base, 65536 * pages))

/-- Matching entries removed from a die's cores, clusters and walkers, its pointers and its walks under way dropped. -/
def invalidate (s : State) (die ctx base pages : Nat) : State :=
  let keep (l : List TlbEntry) : List TlbEntry := l.filter fun e => !e.matches ctx base pages
  let onDie (e : Event) : Bool := match e with
    | .pageWalk core _ _ _ => dieOfAgent core == die
    | _ => false
  let s := { s with
    cores := s.cores.map fun p => if p.1 / 512 = die then (p.1, { p.2 with tlb := keep p.2.tlb }) else p
    clusters := s.clusters.map fun p => if p.1 / 64 = die then (p.1, { p.2 with tlb := keep p.2.tlb }) else p
    events := s.events.filter fun e => !onDie e }
  setDie s die { dieOf s die with pointers := [] }

/-- The record at the head of a die's invalidation queue taken: refused with DONE = 2 when reserved bits are set. One that is
not mapped or holds uncorrectable data cannot be read: nothing is removed, and no DONE written (R344; log entry 93). -/
def takeInvalidation (s : State) (die : Nat) : State :=
  let l : Loc := .config (dieBlock die + 0x1000)
  let q := qheaderOf (headerBytes s l)
  if !(q.ok && q.kind == 0 && q.head != q.tail) then s
  else match deqHome s l (kernelRoot s die) true with
    | .refuse _ _ ring => noteRing s l (kernelRoot s die) ring
    | .value v s =>
      match kernelWalk s die v with
      | .mapped pa _ _ =>
        if !inMemory pa 32 || poisonedMem s (canonPa pa) 32 then s
        else
          let d (i : Nat) := physDword s (pa + 8 * i)
          if field (d 0) 63 56 ≠ 0 ∨ field (d 2) 63 16 ≠ 0 then homeWrite s (canonPa pa + 24) (natBytes 8 2)
          else
            let s' := invalidate s die (field (d 2) 15 0) (d 0) (d 1)
            let x := dieOf s' die
            setDie s' die { x with invalidating := x.invalidating ++ [pa] }
      | _ => noteWalkAt s (sliceAgent (64 * die)) (kernelRoot s die) v

/-- TLB_INVALIDATION (R342): the die takes a record and removes what it matches; DONE is written once every access that a
removed entry translated has performed or failed. -/
def execTlbInvalidation (die : Nat) (s : State) : Host.Outcome State Fault Refusal :=
  let s := takeInvalidation s die
  if dieAccesses s die then stepTo s
  else
    let d := dieOf s die
    let s := setDie s die { d with invalidating := [] }
    stepTo (d.invalidating.foldl (fun s pa => homeWrite s (canonPa pa + 24) (natBytes 8 1)) s)

/-- The die that can write a DONE it has held back. -/
def invalidationDue (s : State) : Option Event :=
  ((List.range 4).find? fun d => !(dieOf s d).invalidating.isEmpty && !dieAccesses s d).map .tlbInvalidation

end Sys2Proof.Machine
end

