-- ==== Sys2Proof/Machine/Scrub.lean ====
section
/-!
DEFINITION. Errors of the memory arrays, as a scrubber or an access finds them, and their reports (R343 to R347; log entry
68).
-/
namespace Sys2Proof.Machine

/-! ### Poison (R344) -/

/-- A sector of memory marked as poisoned, with what watches it (R344). -/
def poisonMem (s : State) (ca : Nat) : State :=
  if (mapFind s.poison (ca / 32)).isSome then s
  else
    let s := { s with poison := mapPut s.poison (ca / 32) 0 }
    let hit := s.watches.filter fun w => rangesMeet (w.pa, w.size) (ca / 32 * 32, 32)
    { s with events := s.events ++ hit.map Event.watchFire }

/-- A doubleword of a pool marked as poisoned. -/
def poisonPool (s : State) (core off : Nat) : State :=
  if (mapFind s.poolPoison (poolKey core off / 8)).isSome then s
  else { s with poolPoison := mapPut s.poolPoison (poolKey core off / 8) 0 }

/-- A doubleword of operand memory marked as poisoned. -/
def poisonOperand (s : State) (cluster off : Nat) : State :=
  let k := clusterAt s cluster
  if (mapFind k.opoison (off / 8)).isSome then s
  else setCluster s cluster { k with opoison := mapPut k.opoison (off / 8) 0 }

/-! ### Reports (R346, R347) -/

/-- A second in core cycles (R9; log entry 30). -/
def secondCycles : Nat := 1100000000

/-- The die, KIND, UNIT, PHYS and SPAN of a report about a codeword (R346). -/
structure Origin where
  die : Nat
  kind : Nat
  unit : Nat
  phys : Nat
  span : Nat
  deriving DecidableEq, Repr

/-- A corrected error of a unit: reported once a second, otherwise counted for the unit's next record (R347). -/
def noteCorrected (s : State) (o : Origin) : State :=
  let keep (m : AMap (Nat × Nat)) (s : State) : State := { s with module := { s.module with corrected := m } }
  let free := (Config.errorDetail (freeStamp s)).toNat
  match mapFind s.module.corrected o.unit with
  | some (t, n) =>
    if s.tick < t + secondCycles then keep (mapPut s.module.corrected o.unit (t, n + 1)) s
    else report (keep (mapPut s.module.corrected o.unit (s.tick, 0)) s) o.die o.kind o.unit o.phys o.span
      (if n = 0 then free else n) true
  | none =>
    report (keep (mapPut s.module.corrected o.unit (s.tick, 0)) s) o.die o.kind o.unit o.phys o.span free true

/-- An uncorrectable error of a unit, always reported, with the corrected ones not reported before. -/
def noteUncorrectable (s : State) (o : Origin) : State :=
  let free := (Config.errorDetail (freeStamp s)).toNat
  match mapFind s.module.corrected o.unit with
  | some (t, n) =>
    let s := { s with module := { s.module with corrected := mapPut s.module.corrected o.unit (t, 0) } }
    report s o.die o.kind o.unit o.phys o.span (if n = 0 then free else n) false
  | none => report s o.die o.kind o.unit o.phys o.span free false

/-! ### The arrays (R343, R345) -/

/-- The report of a sector at its home slice, of a kind. -/
def sliceOrigin (kind ca : Nat) : Origin := ⟨homeOf ca / 64, kind, homeOf ca + 2048, ca / 32 * 32, 32⟩

/-- The report of a sector in a cache of a core or beneath a cluster. -/
def cacheOrigin (die unit ca : Nat) : Origin := ⟨die, 3, unit, ca / 32 * 32, 32⟩

/-- Whether the home slice of an address holds its sector, and whether it is dirty there (R331). -/
def heldSector (s : State) (ca : Nat) : Option Bool :=
  match (mapGet [] s.l2 (homeOf ca)).find? fun l => l.line == ca / 256 with
  | some l => if l.valid.getLsbD (ca % 256 / 32) then some (l.dirty.getLsbD (ca % 256 / 32)) else none
  | none => none

/-- An error in a sector of a vault or of the second tier. -/
def scrubMemory (ca : Nat) (lost : Bool) (s : State) : State :=
  let note (o : Origin) : State := if lost then noteUncorrectable (poisonMem s ca) o else noteCorrected s o
  match regionOf ca with
  | .bonded v _ => note ⟨v / 64, 1, v + 2048, ca / 32 * 32, 32⟩
  | .second _ => note (sliceOrigin 2 ca)
  | _ => s

/-- An error in a sector that a home slice holds: a clean copy is read again from below. -/
def scrubSlice (ca : Nat) (lost : Bool) (s : State) : State :=
  match heldSector s ca with
  | none => s
  | some dirty =>
    if lost && dirty then noteUncorrectable (poisonMem s ca) (sliceOrigin 3 ca) else noteCorrected s (sliceOrigin 3 ca)

/-- An error in a doubleword of a core's pool. -/
def scrubPool (core off : Nat) (lost : Bool) (s : State) : State :=
  let o : Origin := ⟨dieOfAgent core, 3, core, Config.poolPhys core (off / 8 * 8), 8⟩
  if lost then noteUncorrectable (poisonPool s core off) o else noteCorrected s o

/-- An error in a doubleword of a cluster's operand memory. -/
def scrubOperand (cluster off : Nat) (lost : Bool) (s : State) : State :=
  let o : Origin := ⟨cluster / 64, 3, cluster + 2048, Config.operandPhys cluster (off / 8 * 8), 8⟩
  if lost then noteUncorrectable (poisonOperand s cluster off) o else noteCorrected s o

/-- An error in an L1 line: a clean copy leaves, to be read again from below; a dirty line is lost, and its sector poisoned. -/
def scrubL1 (core ca : Nat) (lost : Bool) (s : State) : State :=
  match l1Line s core ca with
  | none => s
  | some l =>
    let k := coreOf s core
    let gone := setCore s core { k with l1 := k.l1.filter fun x => x.line != ca / 32 }
    if !lost then noteCorrected s (cacheOrigin (dieOfAgent core) core ca)
    else if l.dirty then noteUncorrectable (poisonMem gone ca) (sliceOrigin 4 ca)
    else noteCorrected gone (cacheOrigin (dieOfAgent core) core ca)

/-- An error in an instruction-cache line: the line leaves, to be read again from below. -/
def scrubCode (core ca : Nat) (s : State) : State :=
  let k := coreOf s core
  if k.icache.any fun l => l.line == ca / 64 then
    noteCorrected (setCore s core { k with icache := k.icache.filter fun l => l.line != ca / 64 })
      (cacheOrigin (dieOfAgent core) core ca)
  else s

/-- An error in a constant-cache line: the same. -/
def scrubConstant (cluster ca : Nat) (s : State) : State :=
  let k := clusterAt s cluster
  if k.ccache.any fun l => l.line == ca / 32 then
    noteCorrected (setCluster s cluster { k with ccache := k.ccache.filter fun l => l.line != ca / 32 })
      (cacheOrigin (cluster / 64) (cluster + 2048) ca)
  else s

/-- PATROL_SCRUB (R345): a codeword read; corrected data is what it held, uncorrectable data is poisoned and reported. -/
def execPatrolScrub (word : Codeword) (found : ScrubFinding) (s : State) : Host.Outcome State Fault Refusal :=
  let lost := found == .uncorrectable
  if found = .clean then stepTo s
  else match word with
    | .mem ca => stepTo (scrubMemory ca lost s)
    | .l2 ca => stepTo (scrubSlice ca lost s)
    | .pool core off => stepTo (scrubPool core off lost s)
    | .operand cluster off => stepTo (scrubOperand cluster off lost s)
    | .l1 core ca => stepTo (scrubL1 core ca lost s)
    | .code core ca => stepTo (scrubCode core ca s)
    | .constant cluster ca => stepTo (scrubConstant cluster ca s)

end Sys2Proof.Machine
end

