-- ==== Sys2Proof/Machine/Transcend.lean ====
section
/-!
DEFINITION. 2^x and log2 x, rounded once (R275). Outside the exact cases the value is irrational; it is formed to 448
fraction bits, of which the rounding uses all but the last 40 (log entry 12).
-/
namespace Sys2Proof.Machine

/-- The fraction bits of the working precision. -/
def workBits : Nat := 448

/-- The sum of z^(2k+1) / (2k+1) for `n` values of k from `k` on, `p` being z^(2k+1), in units of 2^-448. -/
def atanhSum (z2 : Nat) : Nat → Nat → Nat → Nat
  | 0, _, _ => 0
  | n + 1, k, p => p / (2 * k + 1) + atanhSum z2 n (k + 1) (p * z2 / 2 ^ workBits)

/-- ln(a / b) for 1 ≤ a / b ≤ 2, from twice atanh((a - b) / (a + b)), in units of 2^-448. -/
def lnRatio (a b : Nat) : Nat :=
  let z := (a - b) * 2 ^ workBits / (a + b)
  2 * atanhSum (z * z / 2 ^ workBits) 150 0 z

/-- ln 2. -/
def ln2 : Nat := lnRatio 2 1

/-- The sum of y^k / k! for `n` values of k from `k` on, `t` being y^k / k!, in units of 2^-448. -/
def expSum (y : Nat) : Nat → Nat → Nat → Nat
  | 0, _, _ => 0
  | n + 1, k, t => t + expSum y n (k + 1) (t * y / 2 ^ workBits / (k + 1))

/-- 2^f for a fraction f below 1, in units of 2^-448. -/
def exp2Fraction (f : Nat) : Nat := expSum (f * ln2 / 2 ^ workBits) 100 0 (2 ^ workBits)

/-- 2^x (R275). -/
def exp2Fp (f : FpFmt) (r : Rounding) : FpVal → FpResult
  | .nan s => nanResult f s
  | .inf n => if n then zeroResult f false else infResult f false
  | .zero _ => roundFp f r false 1 0 false
  | .fin neg m e =>
    -- x in units of 2^-200; a magnitude of 2^12 or more is far out of every format's range
    let big := decide (12 ≤ e + (Nat.log2 m : Nat))
    let u : Int := inUnits (-200) (.fin neg m (if big then -(Nat.log2 m : Nat) + 12 else e))
    let n := u / 2 ^ 200
    let frac := (u % 2 ^ 200).toNat
    if frac = 0 then roundFp f r false 1 n false
    else roundFp f r false (exp2Fraction (frac * 2 ^ (workBits - 200)) / 2 ^ 40) (n - ((workBits - 40 : Nat) : Int)) true

/-- log2 x (R275). That log2 of 1 is +0 in every mode is the model's choice (log entry 101). -/
def log2Fp (f : FpFmt) (r : Rounding) : FpVal → FpResult
  | .nan s => nanResult f s
  | .zero _ => ⟨(infResult f true).bits, flagDZ⟩
  | .inf false => infResult f false
  | .inf true => nanResult f true
  | .fin true _ _ => nanResult f true
  | .fin false m e =>
    let k := Nat.log2 m
    let n := e + (k : Int)
    if m = 2 ^ k then roundVal f r (if n = 0 then .zero false else .fin (decide (n < 0)) n.natAbs 0)
    else
      let part := lnRatio m (2 ^ k) * 2 ^ workBits / ln2
      let v : Int := n * 2 ^ workBits + part
      let low := if v < 0 then v.natAbs - 2 ^ 39 else v.natAbs
      roundFp f r (decide (v < 0)) (low / 2 ^ 40) (-((workBits - 40 : Nat) : Int)) true

end Sys2Proof.Machine
end

