-- ==== Sys2Proof/Machine/Vector.lean ====
section
/-!
DEFINITION. The lane pool: claims and grants (R20, R264 to R266), and what every vector instruction shares: positions,
masks, modes, writes (R267 to R272).
-/
namespace Sys2Proof.Machine

/-! ### Claims (R20, R264, R265) -/

/-- The harts of a cluster. -/
def clusterHarts (c : Nat) : List HartId :=
  (List.range 8).flatMap fun i => [hartOf (8 * c + i) true, hartOf (8 * c + i) false]

/-- How many slots of a cluster hold a claim or wait for one, counting `h`. -/
def claimants (s : State) (c : Nat) (h : HartId) : Nat :=
  let k := clusterAt s c
  ((clusterHarts c).filter fun x => x == h || (slotOf s x).vlanes != 0 || k.vwait.any fun w => w.h == x).length

/-- The share of each of `n` claimants, in units. -/
def laneShare (n : Nat) : Nat := Nat.max 1 (8 / n)

/-- A slot with a claim of `g` units: lanes and mask bits below both the old and the new count keep their values, lanes
added read zero. -/
def withClaim (g : Nat) (x : Slot) : Slot :=
  let l := Nat.min (32 * g) x.vlanes.toNat
  let cut (m : BitVec 256) : BitVec 256 := BitVec.ofNat 256 (m.toNat % 2 ^ l)
  { x with
    vlanes := BitVec.ofNat 9 (32 * g)
    v := x.v.filter fun e => decide (e.1 % 256 < l)
    m := x.m.map cut }

/-- The units a VCLAIM asks for. -/
def claimRequest (vmax : Nat) (a : W) : Nat := Nat.min ((a.toNat + 31) / 32) (Nat.min vmax 8)

/-- VCLAIM (R264). One that finds free units takes them, whatever waits in the pool's list; that it may do so while a resume
is first there is the model's choice (log entry 98). -/
def execVclaim (x : RR) : State → Host.Outcome State Fault Refusal := runOp do
  commitPlace (.vclaim x)
  let a ← readSel x.a
  let s ← get
  let h := s.turn
  let vmax := vmaxOf s.cur.partw
  require (vmax != 0) .vclaim 1
  require (a != 0) .vclaim 2
  let c := clusterOf (agentOf h)
  let k := clusterAt s c
  if s.cur.vgrant ≠ 0 then
    modCur fun y => { y with vgrant := 0 }
    produceNow x.d (s.cur.vlanes.zeroExtend 64)
    finishCommit x.st
  else if k.vwait.any fun w => w.h == h then waitHere
  else
    let r := claimRequest vmax a
    let avail := k.freeUnits + s.cur.vlanes.toNat / 32
    let cap := if k.vwait.any fun w => w.h != h then laneShare (claimants s c h) else r
    let g := Nat.min r (Nat.min cap avail)
    if g = 0 then
      waitWith fun s => setCluster s c { clusterAt s c with vwait := (clusterAt s c).vwait ++ [⟨h, r, false⟩] }
    else
      modify fun s =>
        let s := setCluster s c { k with freeUnits := avail - g }
        let s := if k.vwait.isEmpty then s else emit s (.vclaimGrant c)
        { s with cur := withClaim g s.cur }
      produceNow x.d (w64 (32 * g))
      finishCommit x.st

/-- VREL (R265). -/
def execVrel (x : N0) : State → Host.Outcome State Fault Refusal := runOp do
  commitPlace (.vrel x)
  modify fun s => releaseLanes s s.turn
  finishCommit x.st

/-- The waiter that the pool serves next, H slots first and the oldest first within a class, with what it is granted; a
resume takes its whole count or nothing, and nothing passes it (R264). -/
def nextClaim (s : State) (c : Nat) : Option (LaneWaiter × Nat) :=
  let k := clusterAt s c
  match k.vwait.filter (fun w => isH w.h) ++ k.vwait.filter (fun w => !isH w.h) with
  | [] => none
  | w :: _ =>
    if w.resume then (if w.units ≤ k.freeUnits then some (w, w.units) else none)
    else
      let g := Nat.min w.units (Nat.min (laneShare (claimants s c w.h)) k.freeUnits)
      if g = 0 then none else some (w, g)

/-- VCLAIM_GRANT (R264): the pool serves its first waiter, and looks again. A resume holds its claim from here on. -/
def execVclaimGrant (cluster : Nat) (s : State) : Host.Outcome State Fault Refusal :=
  match nextClaim s cluster with
  | none => stepTo s
  | some (w, g) =>
    let k := clusterAt s cluster
    let s := setCluster s cluster { k with
      freeUnits := k.freeUnits - g
      vwait := k.vwait.filter fun v => v.h != w.h }
    let s := if w.resume then emit (setSlot s w.h { slotOf s w.h with vlanes := BitVec.ofNat 9 (32 * g) }) (.preemptResume w.h)
      else setSlot s w.h { withClaim g (slotOf s w.h) with vgrant := g }
    stepTo (emit s (.vclaimGrant cluster))

/-! ### Positions (R267, R268) -/

/-- The lanes of the slot's claim; without one the instruction traps VCLAIM (R270). -/
def needClaim : Op Nat := do
  let x ← curSlot
  require (x.vlanes != 0) .vclaim 0
  return x.vlanes.toNat

/-- A lane of a vector register. -/
def lane (x : Slot) (i j : Nat) : Nat := (mapGet 0 x.v (laneKey i j)).toNat

/-- The number of positions of elements of a width in `l` lanes. -/
def positions (w l : Nat) : Nat := if w = 64 then l / 2 else l

/-- The lane, and mask bit, of a position. -/
def posLane (w j : Nat) : Nat := if w = 64 then 2 * j else j

/-- The element at a position: a lane pair, a lane, or the low half of one. -/
def element (x : Slot) (w i j : Nat) : Nat :=
  if w = 64 then lane x i (2 * j) + lane x i (2 * j + 1) * 2 ^ 32
  else lane x i j % 2 ^ w

/-- The mask that a modifier word selects with, and whether it is inverted; none for every position. -/
def maskSel (x : Slot) : Option (Nat × Bool) :=
  match x.modw with
  | none => none
  | some m => if m.msel = 0 then none else some (m.msel.toNat - 1, m.minv == 1)

/-- Whether the lane or mask bit `b` is active. -/
def activeBit (x : Slot) (b : Nat) : Bool :=
  match maskSel x with
  | none => true
  | some (i, inv) => maskBit (x.m[i]!) b != inv

/-- Whether inactive positions are zeroed. -/
def zeroing (x : Slot) : Bool :=
  match x.modw with
  | none => false
  | some m => m.zm == 1

/-- The lane writes of an element at a position. -/
def laneOut (w d j v : Nat) : List (Nat × BitVec 32) :=
  if w = 64 then [(laneKey d (2 * j), BitVec.ofNat 32 v), (laneKey d (2 * j + 1), BitVec.ofNat 32 (v / 2 ^ 32))]
  else [(laneKey d j, BitVec.ofNat 32 (v % 2 ^ w))]

/-- The mask-bit writes of an element at a position. -/
def maskOut (w d j : Nat) (v : Bool) : List (Nat × Bool) :=
  if w = 64 then [(laneKey d (2 * j), v), (laneKey d (2 * j + 1), v)] else [(laneKey d j, v)]

/-- The writes over every position: `f` at an active one, a zero at an inactive one under ZM (R268). -/
def overPositions {α : Type} (x : Slot) (w l : Nat) (f : Nat → List α) (zero : Nat → List α) : List α :=
  (List.range (positions w l)).flatMap fun j =>
    if activeBit x (posLane w j) then f j else if zeroing x then zero j else []

/-! ### Results (R270, R272) -/

/-- The end of a vector instruction: its flags trap when enabled, at the boundary after it, and otherwise its writes
follow, in issue order (R161, R272). -/
def finishVector (i : Instr) (st : BitVec 3) (lanes : List (Nat × BitVec 32)) (masks : List (Nat × Bool))
    (flags : BitVec 5) : Op Unit := do
  let s ← get
  if flags &&& s.cur.fpte = 0 then emitOp (.laneResult ⟨s.turn, lanes, masks, flags, none⟩)
  else keepTrap i 1 false flags
  finish st

/-- The end of a reduction or mask count: a scalar result follows. -/
def finishScalar (i : Instr) (st : BitVec 3) (d : Sel) (v : W) (flags : BitVec 5) : Op Unit := do
  let (tag, dest) ← reserve d
  let s ← get
  if flags &&& s.cur.fpte = 0 then emitOp (.laneResult ⟨s.turn, [], [], flags, some ⟨s.turn, tag, dest, v, 0⟩⟩)
  else keepTrap i 1 false flags
  finish st

/-- The masks of a slot with one bit written. -/
def setMaskBit (m : Vector (BitVec 256) 4) (q : Nat × Bool) : Vector (BitVec 256) 4 :=
  let i := q.1 / 256
  let j := q.1 % 256
  let old := (m[i]!).toNat
  let bit := if maskBit (m[i]!) j then 2 ^ j else 0
  m.setIfInBounds i (BitVec.ofNat 256 (old - bit + if q.2 then 2 ^ j else 0))

/-- One lane written; zero is not listed. -/
def setLane (v : AMap (BitVec 32)) (q : Nat × BitVec 32) : AMap (BitVec 32) :=
  if q.2 = 0 then mapDel v q.1 else mapPut v q.1 q.2

/-- LANE_RESULT (R270): the lanes, mask bits and flags of a vector instruction are written, and its scalar result
arrives. -/
def execLaneResult (r : LaneWrite) (s : State) : Host.Outcome State Fault Refusal :=
  let x := slotOf s r.h
  let s := setSlot s r.h { x with
    v := r.lanes.foldl setLane x.v
    m := r.masks.foldl setMaskBit x.m
    fpflags := x.fpflags ||| r.flags }
  stepTo (match r.scalar with
    | some d => deliver s d
    | none => s)

end Sys2Proof.Machine
end

