-- ==== Sys2Proof/Machine/VecOps.lean ====
section
/-!
DEFINITION. Vector instructions on lanes: integer, logical, floating point, compare, convert, masks, memory, movement and
reductions (R273 to R282).
-/
namespace Sys2Proof.Machine

/-! ### Integer and logical (R273) -/

/-- A lane-wise instruction on 32-bit lanes. -/
def laneBinary (i : Instr) (x : RRR) (f : BitVec 32 → BitVec 32 → BitVec 32) : Op Unit := do
  let l ← needClaim
  let y ← curSlot
  let v (r : Sel) (j : Nat) : BitVec 32 := BitVec.ofNat 32 (lane y r.toNat j)
  let d := x.d.toNat
  finishVector i x.st
    (overPositions y 32 l (fun j => laneOut 32 d j (f (v x.a j) (v x.b j)).toNat) (fun j => laneOut 32 d j 0)) [] 0

/-- VADD.I32 (R273). -/
def execVaddI32 (x : RRR) : State → Host.Outcome State Fault Refusal := runOp do laneBinary (.vaddI32 x) x fun a b => a + b
/-- VSUB.I32 (R273). -/
def execVsubI32 (x : RRR) : State → Host.Outcome State Fault Refusal := runOp do laneBinary (.vsubI32 x) x fun a b => a - b
/-- VMUL.I32 (R273). -/
def execVmulI32 (x : RRR) : State → Host.Outcome State Fault Refusal := runOp do laneBinary (.vmulI32 x) x fun a b => a * b
/-- VMIN.I32 (R273). -/
def execVminI32 (x : RRR) : State → Host.Outcome State Fault Refusal := runOp do
  laneBinary (.vminI32 x) x fun a b => if a.slt b then a else b
/-- VMAX.I32 (R273). -/
def execVmaxI32 (x : RRR) : State → Host.Outcome State Fault Refusal := runOp do
  laneBinary (.vmaxI32 x) x fun a b => if a.slt b then b else a
/-- VMIN.UI32 (R273). -/
def execVminUi32 (x : RRR) : State → Host.Outcome State Fault Refusal := runOp do
  laneBinary (.vminUi32 x) x fun a b => if a.ult b then a else b
/-- VMAX.UI32 (R273). -/
def execVmaxUi32 (x : RRR) : State → Host.Outcome State Fault Refusal := runOp do
  laneBinary (.vmaxUi32 x) x fun a b => if a.ult b then b else a
/-- VAND (R273). -/
def execVand (x : RRR) : State → Host.Outcome State Fault Refusal := runOp do laneBinary (.vand x) x fun a b => a &&& b
/-- VOR (R273). -/
def execVor (x : RRR) : State → Host.Outcome State Fault Refusal := runOp do laneBinary (.vor x) x fun a b => a ||| b
/-- VXOR (R273). -/
def execVxor (x : RRR) : State → Host.Outcome State Fault Refusal := runOp do laneBinary (.vxor x) x fun a b => a ^^^ b
/-- VSHL (R273): 0 for a count of 32 or more. -/
def execVshl (x : RRR) : State → Host.Outcome State Fault Refusal := runOp do
  laneBinary (.vshl x) x fun a b => if 32 ≤ b.toNat then 0 else a <<< b.toNat
/-- VSHR (R273): 0 for a count of 32 or more. -/
def execVshr (x : RRR) : State → Host.Outcome State Fault Refusal := runOp do
  laneBinary (.vshr x) x fun a b => if 32 ≤ b.toNat then 0 else a >>> b.toNat

/-- VSEL (R273): every lane is written. -/
def execVsel (x : RRR) : State → Host.Outcome State Fault Refusal := runOp do
  let l ← needClaim
  let y ← curSlot
  let pick (j : Nat) : Nat := lane y (if activeBit y j then x.a.toNat else x.b.toNat) j
  finishVector (.vsel x) x.st ((List.range l).flatMap fun j => laneOut 32 x.d.toNat j (pick j)) [] 0

/-! ### Floating point (R272, R274, R275) -/

/-- A lane-wise floating-point instruction of a width: the result of each active position, with its own draw. -/
def laneFp (i : Instr) (st : BitVec 3) (w d : Nat) (f : Slot → Rounding → Nat → FpResult) : Op Unit := do
  let l ← needClaim
  let y ← curSlot
  let act := (List.range (positions w l)).filter fun j => activeBit y (posLane w j)
  let rs ← act.mapM fun j => do
    let m ← roundingFor (posLane w j)
    return (j, f y m j)
  let zeros := if zeroing y then
      ((List.range (positions w l)).filter fun j => !activeBit y (posLane w j)).flatMap fun j => laneOut w d j 0
    else []
  finishVector i st (rs.flatMap (fun r => laneOut w d r.1 r.2.bits) ++ zeros) []
    ((rs.map fun r => r.2.flags).foldl (· ||| ·) 0)

/-- A two-source instruction of a format. -/
def laneFp2 (i : Instr) (x : FRRR) (f : FpFmt → Rounding → Nat → Nat → FpResult) : Op Unit :=
  let g := fmtOf x.fmt
  laneFp i x.st g.width x.d.toNat fun y m j => f g m (element y g.width x.a.toNat j) (element y g.width x.b.toNat j)

/-- VADD (R274). -/
def execVaddF (x : FRRR) : State → Host.Outcome State Fault Refusal := runOp do
  laneFp2 (.vaddF x) x fun g m a b => sumFp g m [unpack g a, unpack g b]
/-- VSUB (R274). -/
def execVsubF (x : FRRR) : State → Host.Outcome State Fault Refusal := runOp do
  laneFp2 (.vsubF x) x fun g m a b => sumFp g m [unpack g a, (unpack g b).negate]
/-- VMUL (R274). -/
def execVmulF (x : FRRR) : State → Host.Outcome State Fault Refusal := runOp do
  laneFp2 (.vmulF x) x fun g m a b => roundVal g m (mulVal (unpack g a) (unpack g b))

/-- The addend register of VFMA. -/
def addendReg (y : Slot) : Nat :=
  match y.modw with
  | none => 0
  | some m => m.op4.toNat

/-- VFMA (R274). -/
def execVfma (x : FRRR) : State → Host.Outcome State Fault Refusal := runOp do
  let g := fmtOf x.fmt
  laneFp (.vfma x) x.st g.width x.d.toNat fun y m j =>
    let v (r : Nat) : FpVal := unpack g (element y g.width r j)
    sumFp g m [mulVal (v x.a.toNat) (v x.b.toNat), v (addendReg y)]

/-- VFMIN (R274). -/
def execVfmin (x : FRRR) : State → Host.Outcome State Fault Refusal := runOp do
  laneFp2 (.vfmin x) x fun g _ a b => minMaxFp g false false a b
/-- VFMAX (R274). -/
def execVfmax (x : FRRR) : State → Host.Outcome State Fault Refusal := runOp do
  laneFp2 (.vfmax x) x fun g _ a b => minMaxFp g true false a b

/-- A one-source FP32 function. -/
def laneFp1 (i : Instr) (x : RR) (f : Rounding → FpVal → FpResult) : Op Unit :=
  laneFp i x.st 32 x.d.toNat fun y m j => f m (unpack fp32 (element y 32 x.a.toNat j))

/-- VRCP (R275). -/
def execVrcp (x : RR) : State → Host.Outcome State Fault Refusal := runOp do
  laneFp1 (.vrcp x) x fun m a => divFp fp32 m (.fin false 1 0) a
/-- VRSQRT (R275). -/
def execVrsqrt (x : RR) : State → Host.Outcome State Fault Refusal := runOp do
  laneFp1 (.vrsqrt x) x fun m a => rsqrtFp fp32 m a
/-- VEXP2 (R275). -/
def execVexp2 (x : RR) : State → Host.Outcome State Fault Refusal := runOp do
  laneFp1 (.vexp2 x) x fun m a => exp2Fp fp32 m a
/-- VLOG2 (R275). -/
def execVlog2 (x : RR) : State → Host.Outcome State Fault Refusal := runOp do
  laneFp1 (.vlog2 x) x fun m a => log2Fp fp32 m a

/-! ### Compare and convert (R276, R277) -/

/-- A comparison of a type and condition, with its flags. -/
def compareLane (ty cond a b : Nat) : Bool × BitVec 5 :=
  let int (x y : Int) : Bool × BitVec 5 :=
    (match cond with
     | 0 => x == y
     | 1 => x != y
     | 2 => decide (x < y)
     | 3 => decide (x ≤ y)
     | _ => false, 0)
  let fp (f : FpFmt) : Bool × BitVec 5 :=
    match cond with
    | 0 => let r := compareFp f .eq a b; (r.bits == 1, r.flags)
    | 1 => let r := compareFp f .eq a b; (r.bits != 1, r.flags)
    | 2 => let r := compareFp f .lt a b; (r.bits == 1, r.flags)
    | 3 => let r := compareFp f .le a b; (r.bits == 1, r.flags)
    | _ => let r := compareFp f .un a b; (r.bits == 1, r.flags)
  match ty with
  | 0 => int (sextNat 32 a) (sextNat 32 b)
  | 1 => int a b
  | 2 => fp fp32
  | _ => fp fp64

/-- VCMP (R276). -/
def execVcmp (x : Vcmp) : State → Host.Outcome State Fault Refusal := runOp do
  let l ← needClaim
  let y ← curSlot
  let w := if x.ty = 3 then 64 else 32
  let r (j : Nat) : Bool × BitVec 5 :=
    compareLane x.ty.toNat x.cond.toNat (element y w x.a.toNat j) (element y w x.b.toNat j)
  let flags := ((List.range (positions w l)).map fun j => if activeBit y (posLane w j) then (r j).2 else 0).foldl (· ||| ·) 0
  finishVector (.vcmp x) x.st []
    (overPositions y w l (fun j => maskOut w x.d.toNat j (r j).1) (fun j => maskOut w x.d.toNat j false)) flags

/-- A conversion kind of VCVT: a format or an integer kind (R83). -/
inductive LaneKind where
  | fp (f : FpFmt)
  | int (k : IntKind)
  deriving DecidableEq, Repr

/-- The kind of a code. -/
def laneKind (c : BitVec 3) : LaneKind :=
  match c.toNat with
  | 0 => .fp fp32
  | 1 => .fp fp64
  | 2 => .fp fp16
  | 3 => .fp bf16
  | 4 => .int ⟨32, true⟩
  | _ => .int ⟨32, false⟩

/-- The width of a kind. -/
def LaneKind.width : LaneKind → Nat
  | .fp f => f.width
  | .int k => k.width

/-- A conversion of one element (R168 to R170, R277). -/
def convertLane (src dst : LaneKind) (m : Rounding) (v : Nat) : FpResult :=
  let from_ : FpVal := match src with
    | .fp f => unpack f v
    | .int k => intVal (intOfBits k v)
  match dst with
  | .fp f => roundVal f m from_
  | .int k =>
    let r := toIntFp k m from_
    ⟨(r.val % 2 ^ 32).toNat, r.flags⟩

/-- VCVT (R277): with an FP64 side, position j is pair j on that side and lane 2j on the other. -/
def execVcvt (x : Cvt) : State → Host.Outcome State Fault Refusal := runOp do
  let src := laneKind x.src
  let dst := laneKind x.dst
  let pair := src.width == 64 || dst.width == 64
  let w := if pair then 64 else Nat.max src.width dst.width
  laneFp (.vcvt x) x.st w x.d.toNat fun y m j =>
    let v := if src.width = 64 then element y 64 x.a.toNat j else element y src.width x.a.toNat (posLane w j)
    convertLane src dst m v

/-! ### Masks (R278) -/

/-- A mask instruction. -/
def maskBinary (i : Instr) (st : BitVec 3) (d : Sel) (f : Slot → Nat → Bool) : Op Unit := do
  let l ← needClaim
  let y ← curSlot
  finishVector i st [] ((List.range l).map fun j => (laneKey d.toNat j, f y j)) 0

/-- Bit `j` of a mask register. -/
def maskOf (y : Slot) (r : Sel) (j : Nat) : Bool := maskBit (y.m[r.toNat]!) j

/-- MAND (R278). -/
def execMand (x : RRR) : State → Host.Outcome State Fault Refusal := runOp do
  maskBinary (.mand x) x.st x.d fun y j => maskOf y x.a j && maskOf y x.b j
/-- MOR (R278). -/
def execMor (x : RRR) : State → Host.Outcome State Fault Refusal := runOp do
  maskBinary (.mor x) x.st x.d fun y j => maskOf y x.a j || maskOf y x.b j
/-- MNOT (R278). -/
def execMnot (x : RR) : State → Host.Outcome State Fault Refusal := runOp do
  maskBinary (.mnot x) x.st x.d fun y j => !maskOf y x.a j

/-- MPOP (R278). -/
def execMpop (x : RR) : State → Host.Outcome State Fault Refusal := runOp do
  let l ← needClaim
  let y ← curSlot
  finishScalar (.mpop x) x.st x.d (w64 ((List.range l).filter (maskOf y x.a)).length) 0

/-- MFIRST (R278). -/
def execMfirst (x : RR) : State → Host.Outcome State Fault Refusal := runOp do
  let l ← needClaim
  let y ← curSlot
  finishScalar (.mfirst x) x.st x.d
    (match (List.range l).find? (maskOf y x.a) with
     | some j => w64 j
     | none => allOnes) 0

/-! ### Memory (R279) -/

/-- A vector load: the active lanes in increasing order, each a plain 4-byte load. -/
def vectorLoad (i : Instr) (x : RRR) (address : Slot → Nat → W) (place : W → Op Place) : Op Unit := do
  let l ← needClaim
  let y ← curSlot
  let act := (List.range l).filter (activeBit y)
  let vs ← act.mapM fun j => do
    let ea := address y j
    let p ← place ea
    let bs ← loadAt p 4 0 (ea.toNat % 2 ^ 56)
    return (j, leNat bs)
  let zeros := if zeroing y then
      ((List.range l).filter fun j => !activeBit y j).flatMap fun j => laneOut 32 x.d.toNat j 0
    else []
  finishVector i x.st (vs.flatMap (fun v => laneOut 32 x.d.toNat v.1 v.2) ++ zeros) [] 0

/-- A vector store: the active lanes in increasing order, each a plain 4-byte store. When a lane faults, no lane has stored,
which is the model's choice (R279; log entry 99). -/
def vectorStore (x : RRR) (address : Slot → Nat → W) (place : W → Op Place) : Op Unit := do
  let l ← needClaim
  let y ← curSlot
  ((List.range l).filter (activeBit y)).forM fun j => do
    let p ← place (address y j)
    storeAt p (natBytes 4 (lane y x.d.toNat j))
  finish x.st

/-- A virtual address of a lane's load, checked (R174). -/
def lanePlace (write : Bool) (ea : W) : Op Place :=
  checkAccess (if write then 1 else 0) 4 4 (if write then .write else .read) true ea

/-- The address of lane `j` from the sum of two scalars. -/
def laneAddress (a b : W) (_y : Slot) (j : Nat) : W := a + b + w64 (4 * j)

/-- The address of lane `j` from a base and an index register. -/
def gatherAddress (a : W) (r : Sel) (y : Slot) (j : Nat) : W := a + w64 (lane y r.toNat j)

/-- VLD (R279). -/
def execVld (x : RRR) : State → Host.Outcome State Fault Refusal := runOp do
  let _ ← needClaim
  let a ← readSel x.a
  let b ← readSel x.b
  vectorLoad (.vld x) x (laneAddress a b) (lanePlace false)

/-- VST (R279). -/
def execVst (x : RRR) : State → Host.Outcome State Fault Refusal := runOp do
  let _ ← needClaim
  let a ← readSel x.a
  let b ← readSel x.b
  vectorStore x (laneAddress a b) (lanePlace true)

/-- VLDS (R279). -/
def execVlds (x : RRR) : State → Host.Outcome State Fault Refusal := runOp do
  let _ ← needClaim
  let a ← readSel x.a
  let b ← readSel x.b
  vectorLoad (.vlds x) x (laneAddress a b) fun ea => scratchPlace ea 4 false

/-- VSTS (R279). -/
def execVsts (x : RRR) : State → Host.Outcome State Fault Refusal := runOp do
  let _ ← needClaim
  let a ← readSel x.a
  let b ← readSel x.b
  vectorStore x (laneAddress a b) fun ea => scratchPlace ea 4 true

/-- VGATH (R279). -/
def execVgath (x : RRR) : State → Host.Outcome State Fault Refusal := runOp do
  let _ ← needClaim
  let a ← readSel x.a
  vectorLoad (.vgath x) x (gatherAddress a x.b) (lanePlace false)

/-- VSCAT (R279). -/
def execVscat (x : RRR) : State → Host.Outcome State Fault Refusal := runOp do
  let _ ← needClaim
  let a ← readSel x.a
  vectorStore x (gatherAddress a x.b) (lanePlace true)

/-! ### Broadcast and movement (R280, R281) -/

/-- VBCAST (R280). -/
def execVbcast (x : RR) : State → Host.Outcome State Fault Refusal := runOp do
  let l ← needClaim
  let a ← readSel x.a
  let y ← curSlot
  let w := if addendReg y = 1 then 64 else 32
  finishVector (.vbcast x) x.st
    (overPositions y w l (fun j => laneOut w x.d.toNat j a.toNat) (fun j => laneOut w x.d.toNat j 0)) [] 0

/-- A movement across lanes: active lane `i` takes lane `src i` of a when that lane exists and is active, and otherwise
keeps its contents or, under ZM, takes 0. -/
def moveLanes (i : Instr) (st : BitVec 3) (d a : Nat) (src : Slot → Nat → Int) : Op Unit := do
  let l ← needClaim
  let y ← curSlot
  let one (k : Nat) : List (Nat × BitVec 32) :=
    let j := src y k
    if 0 ≤ j ∧ j < (l : Int) ∧ activeBit y j.toNat then laneOut 32 d k (lane y a j.toNat)
    else if zeroing y then laneOut 32 d k 0 else []
  finishVector i st (overPositions y 32 l one fun k => laneOut 32 d k 0) [] 0

/-- VPERM (R281). -/
def execVperm (x : RRR) : State → Host.Outcome State Fault Refusal := runOp do
  moveLanes (.vperm x) x.st x.d.toNat x.a.toNat fun y k => ((lane y x.b.toNat k % 256 : Nat) : Int)

/-- VLSH (R281). -/
def execVlsh (x : RRR) : State → Host.Outcome State Fault Refusal := runOp do
  let _ ← needClaim
  let b ← readSel x.b
  moveLanes (.vlsh x) x.st x.d.toNat x.a.toNat fun _ k => (k : Int) - b.toInt

/-! ### Reductions (R282) -/

/-- The active elements of a register. -/
def activeElements (y : Slot) (w l a : Nat) : List Nat :=
  ((List.range (positions w l)).filter fun j => activeBit y (posLane w j)).map (element y w a)

/-- The format of a reduction's type, if it is a floating one. -/
def redFormat (t : BitVec 2) : Option FpFmt :=
  match t.toNat with
  | 0 => some fp32
  | 1 => some fp64
  | _ => none

/-- VRED.ADD (R282). -/
def execVredAdd (x : FRR) : State → Host.Outcome State Fault Refusal := runOp do
  let l ← needClaim
  let y ← curSlot
  match redFormat x.fmt with
  | none =>
    let es := activeElements y 32 l x.a.toNat
    finishScalar (.vredAdd x) x.st x.d (BitVec.ofInt 64 ((es.map (sextNat 32)).foldl (· + ·) 0)) 0
  | some f =>
    let es := activeElements y f.width l x.a.toNat
    let m ← roundingFor 0
    let r := if es.isEmpty then .clean 0 else sumFp f m (es.map (unpack f))
    finishScalar (.vredAdd x) x.st x.d (w64 r.bits) r.flags

/-- FMIN or FMAX across elements (R163, R282). -/
def redMinMax (f : FpFmt) (isMax : Bool) (es : List Nat) : FpResult :=
  let start : FpResult := infResult f isMax
  es.foldl (fun r e =>
    let q := minMaxFp f isMax false r.bits e
    ⟨q.bits, r.flags ||| q.flags⟩) start

/-- The signed least or greatest of elements. -/
def redIntMinMax (isMax : Bool) (es : List Nat) : Int :=
  let start : Int := if isMax then -(2 ^ 31) else 2 ^ 31 - 1
  (es.map (sextNat 32)).foldl (fun r e => if isMax then max r e else min r e) start

/-- VRED.MIN and VRED.MAX. -/
def reduceMinMax (i : Instr) (x : FRR) (isMax : Bool) : Op Unit := do
  let l ← needClaim
  let y ← curSlot
  match redFormat x.fmt with
  | none => finishScalar i x.st x.d (BitVec.ofInt 64 (redIntMinMax isMax (activeElements y 32 l x.a.toNat))) 0
  | some f =>
    let r := redMinMax f isMax (activeElements y f.width l x.a.toNat)
    finishScalar i x.st x.d (w64 r.bits) r.flags

/-- VRED.MIN (R282). -/
def execVredMin (x : FRR) : State → Host.Outcome State Fault Refusal := runOp do reduceMinMax (.vredMin x) x false
/-- VRED.MAX (R282). -/
def execVredMax (x : FRR) : State → Host.Outcome State Fault Refusal := runOp do reduceMinMax (.vredMax x) x true

end Sys2Proof.Machine
end

