-- ==== Sys2Proof/Machine/Dispatch.lean ====
section
/-!
DEFINITION. The meaning of every instruction and step: one arm per constructor, each one call.
-/
namespace Sys2Proof.Machine

/-- What an instruction or step does. -/
def exec (i : Instr) (s : State) : Host.Outcome State Fault Refusal :=
  match i with
  | .add x => Sys2Proof.Machine.execAdd x s
  | .sub x => Sys2Proof.Machine.execSub x s
  | .mul x => Sys2Proof.Machine.execMul x s
  | .mulh x => Sys2Proof.Machine.execMulh x s
  | .mulhu x => Sys2Proof.Machine.execMulhu x s
  | .div x => Sys2Proof.Machine.execDiv x s
  | .divu x => Sys2Proof.Machine.execDivu x s
  | .rem x => Sys2Proof.Machine.execRem x s
  | .remu x => Sys2Proof.Machine.execRemu x s
  | .and x => Sys2Proof.Machine.execAnd x s
  | .or x => Sys2Proof.Machine.execOr x s
  | .xor x => Sys2Proof.Machine.execXor x s
  | .andn x => Sys2Proof.Machine.execAndn x s
  | .orn x => Sys2Proof.Machine.execOrn x s
  | .shl x => Sys2Proof.Machine.execShl x s
  | .shr x => Sys2Proof.Machine.execShr x s
  | .sar x => Sys2Proof.Machine.execSar x s
  | .rot x => Sys2Proof.Machine.execRot x s
  | .min x => Sys2Proof.Machine.execMin x s
  | .max x => Sys2Proof.Machine.execMax x s
  | .minu x => Sys2Proof.Machine.execMinu x s
  | .maxu x => Sys2Proof.Machine.execMaxu x s
  | .abs x => Sys2Proof.Machine.execAbs x s
  | .clz x => Sys2Proof.Machine.execClz x s
  | .ctz x => Sys2Proof.Machine.execCtz x s
  | .pop x => Sys2Proof.Machine.execPop x s
  | .brev x => Sys2Proof.Machine.execBrev x s
  | .addi x => Sys2Proof.Machine.execAddi x s
  | .andi x => Sys2Proof.Machine.execAndi x s
  | .ori x => Sys2Proof.Machine.execOri x s
  | .xori x => Sys2Proof.Machine.execXori x s
  | .shli x => Sys2Proof.Machine.execShli x s
  | .shri x => Sys2Proof.Machine.execShri x s
  | .sari x => Sys2Proof.Machine.execSari x s
  | .roti x => Sys2Proof.Machine.execRoti x s
  | .lea x => Sys2Proof.Machine.execLea x s
  | .lim x => Sys2Proof.Machine.execLim x s
  | .sel x => Sys2Proof.Machine.execSel x s
  | .bext x => Sys2Proof.Machine.execBext x s
  | .bins x => Sys2Proof.Machine.execBins x s
  | .cmpeq x => Sys2Proof.Machine.execCmpeq x s
  | .cmpne x => Sys2Proof.Machine.execCmpne x s
  | .cmplt x => Sys2Proof.Machine.execCmplt x s
  | .cmpltu x => Sys2Proof.Machine.execCmpltu x s
  | .cmple x => Sys2Proof.Machine.execCmple x s
  | .cmpleu x => Sys2Proof.Machine.execCmpleu x s
  | .bexti x => Sys2Proof.Machine.execBexti x s
  | .cmplti x => Sys2Proof.Machine.execCmplti x s
  | .beq x => Sys2Proof.Machine.execBeq x s
  | .bne x => Sys2Proof.Machine.execBne x s
  | .blt x => Sys2Proof.Machine.execBlt x s
  | .bge x => Sys2Proof.Machine.execBge x s
  | .bltu x => Sys2Proof.Machine.execBltu x s
  | .bgeu x => Sys2Proof.Machine.execBgeu x s
  | .b x => Sys2Proof.Machine.execB x s
  | .call x => Sys2Proof.Machine.execCall x s
  | .jr x => Sys2Proof.Machine.execJr x s
  | .nop x => Sys2Proof.Machine.execNop x s
  | .brk x => Sys2Proof.Machine.execBrk x s
  | .rep x => Sys2Proof.Machine.execRep x s
  | .rgn x => Sys2Proof.Machine.execRgn x s
  | .rgnInc x => Sys2Proof.Machine.execRgnInc x s
  | .fadd x => Sys2Proof.Machine.execFadd x s
  | .fsub x => Sys2Proof.Machine.execFsub x s
  | .fmul x => Sys2Proof.Machine.execFmul x s
  | .fdiv x => Sys2Proof.Machine.execFdiv x s
  | .fsqrt x => Sys2Proof.Machine.execFsqrt x s
  | .fmin x => Sys2Proof.Machine.execFmin x s
  | .fmax x => Sys2Proof.Machine.execFmax x s
  | .fminn x => Sys2Proof.Machine.execFminn x s
  | .fmaxn x => Sys2Proof.Machine.execFmaxn x s
  | .fabs x => Sys2Proof.Machine.execFabs x s
  | .fneg x => Sys2Proof.Machine.execFneg x s
  | .fsgn x => Sys2Proof.Machine.execFsgn x s
  | .frnd x => Sys2Proof.Machine.execFrnd x s
  | .fma x => Sys2Proof.Machine.execFma x s
  | .fms x => Sys2Proof.Machine.execFms x s
  | .fnma x => Sys2Proof.Machine.execFnma x s
  | .fcvt x => Sys2Proof.Machine.execFcvt x s
  | .fcvti x => Sys2Proof.Machine.execFcvti x s
  | .icvtf x => Sys2Proof.Machine.execIcvtf x s
  | .fcmpeq x => Sys2Proof.Machine.execFcmpeq x s
  | .fcmplt x => Sys2Proof.Machine.execFcmplt x s
  | .fcmple x => Sys2Proof.Machine.execFcmple x s
  | .fcmpun x => Sys2Proof.Machine.execFcmpun x s
  | .fclass x => Sys2Proof.Machine.execFclass x s
  | .ld x => Sys2Proof.Machine.execLd x s
  | .st x => Sys2Proof.Machine.execSt x s
  | .ldAcq x => Sys2Proof.Machine.execLdAcq x s
  | .stRel x => Sys2Proof.Machine.execStRel x s
  | .lds x => Sys2Proof.Machine.execLds x s
  | .sts x => Sys2Proof.Machine.execSts x s
  | .ldk x => Sys2Proof.Machine.execLdk x s
  | .pref x => Sys2Proof.Machine.execPref x s
  | .wb x => Sys2Proof.Machine.execWb x s
  | .inv x => Sys2Proof.Machine.execInv x s
  | .bmove x => Sys2Proof.Machine.execBmove x s
  | .bfill x => Sys2Proof.Machine.execBfill x s
  | .sbind x => Sys2Proof.Machine.execSbind x s
  | .sclose x => Sys2Proof.Machine.execSclose x s
  | .spos x => Sys2Proof.Machine.execSpos x s
  | .amoAdd x => Sys2Proof.Machine.execAmoAdd x s
  | .amoAnd x => Sys2Proof.Machine.execAmoAnd x s
  | .amoOr x => Sys2Proof.Machine.execAmoOr x s
  | .amoXor x => Sys2Proof.Machine.execAmoXor x s
  | .amoMin x => Sys2Proof.Machine.execAmoMin x s
  | .amoMax x => Sys2Proof.Machine.execAmoMax x s
  | .amoMinu x => Sys2Proof.Machine.execAmoMinu x s
  | .amoMaxu x => Sys2Proof.Machine.execAmoMaxu x s
  | .amoSwap x => Sys2Proof.Machine.execAmoSwap x s
  | .xinit32 x => Sys2Proof.Machine.execXinit32 x s
  | .xinit64 x => Sys2Proof.Machine.execXinit64 x s
  | .xadd x => Sys2Proof.Machine.execXadd x s
  | .xclr x => Sys2Proof.Machine.execXclr x s
  | .enq x => Sys2Proof.Machine.execEnq x s
  | .deq x => Sys2Proof.Machine.execDeq x s
  | .seqdeq x => Sys2Proof.Machine.execSeqdeq x s
  | .waitv x => Sys2Proof.Machine.execWaitv x s
  | .xread x => Sys2Proof.Machine.execXread x s
  | .cas x => Sys2Proof.Machine.execCas x s
  | .seqenq x => Sys2Proof.Machine.execSeqenq x s
  | .send x => Sys2Proof.Machine.execSend x s
  | .sendm x => Sys2Proof.Machine.execSendm x s
  | .push x => Sys2Proof.Machine.execPush x s
  | .htset x => Sys2Proof.Machine.execHtset x s
  | .htget x => Sys2Proof.Machine.execHtget x s
  | .chmask x => Sys2Proof.Machine.execChmask x s
  | .chunmask x => Sys2Proof.Machine.execChunmask x s
  | .sendw x => Sys2Proof.Machine.execSendw x s
  | .launch x => Sys2Proof.Machine.execLaunch x s
  | .nread x => Sys2Proof.Machine.execNread x s
  | .subscribe x => Sys2Proof.Machine.execSubscribe x s
  | .suspend x => Sys2Proof.Machine.execSuspend x s
  | .yield x => Sys2Proof.Machine.execYield x s
  | .done x => Sys2Proof.Machine.execDone x s
  | .wborrow x => Sys2Proof.Machine.execWborrow x s
  | .wquery x => Sys2Proof.Machine.execWquery x s
  | .qarm x => Sys2Proof.Machine.execQarm x s
  | .grow x => Sys2Proof.Machine.execGrow x s
  | .retire x => Sys2Proof.Machine.execRetire x s
  | .coord x => Sys2Proof.Machine.execCoord x s
  | .slice x => Sys2Proof.Machine.execSlice x s
  | .geom x => Sys2Proof.Machine.execGeom x s
  | .tqinit x => Sys2Proof.Machine.execTqinit x s
  | .fetcht x => Sys2Proof.Machine.execFetcht x s
  | .gbar x => Sys2Proof.Machine.execGbar x s
  | .gbarPub x => Sys2Proof.Machine.execGbarPub x s
  | .unsub x => Sys2Proof.Machine.execUnsub x s
  | .pubfence x => Sys2Proof.Machine.execPubfence x s
  | .phase x => Sys2Proof.Machine.execPhase x s
  | .phend x => Sys2Proof.Machine.execPhend x s
  | .spinw x => Sys2Proof.Machine.execSpinw x s
  | .csrrd x => Sys2Proof.Machine.execCsrrd x s
  | .csrwr x => Sys2Proof.Machine.execCsrwr x s
  | .csrset x => Sys2Proof.Machine.execCsrset x s
  | .csrclr x => Sys2Proof.Machine.execCsrclr x s
  | .trap x => Sys2Proof.Machine.execTrap x s
  | .tret x => Sys2Proof.Machine.execTret x s
  | .wfi x => Sys2Proof.Machine.execWfi x s
  | .perf x => Sys2Proof.Machine.execPerf x s
  | .isync x => Sys2Proof.Machine.execIsync x s
  | .cpub x => Sys2Proof.Machine.execCpub x s
  | .fence x => Sys2Proof.Machine.execFence x s
  | .vclaim x => Sys2Proof.Machine.execVclaim x s
  | .vrel x => Sys2Proof.Machine.execVrel x s
  | .vaddI32 x => Sys2Proof.Machine.execVaddI32 x s
  | .vsubI32 x => Sys2Proof.Machine.execVsubI32 x s
  | .vmulI32 x => Sys2Proof.Machine.execVmulI32 x s
  | .vminI32 x => Sys2Proof.Machine.execVminI32 x s
  | .vmaxI32 x => Sys2Proof.Machine.execVmaxI32 x s
  | .vminUi32 x => Sys2Proof.Machine.execVminUi32 x s
  | .vmaxUi32 x => Sys2Proof.Machine.execVmaxUi32 x s
  | .vand x => Sys2Proof.Machine.execVand x s
  | .vor x => Sys2Proof.Machine.execVor x s
  | .vxor x => Sys2Proof.Machine.execVxor x s
  | .vshl x => Sys2Proof.Machine.execVshl x s
  | .vshr x => Sys2Proof.Machine.execVshr x s
  | .vsel x => Sys2Proof.Machine.execVsel x s
  | .vaddF x => Sys2Proof.Machine.execVaddF x s
  | .vsubF x => Sys2Proof.Machine.execVsubF x s
  | .vmulF x => Sys2Proof.Machine.execVmulF x s
  | .vfma x => Sys2Proof.Machine.execVfma x s
  | .vfmin x => Sys2Proof.Machine.execVfmin x s
  | .vfmax x => Sys2Proof.Machine.execVfmax x s
  | .vrcp x => Sys2Proof.Machine.execVrcp x s
  | .vrsqrt x => Sys2Proof.Machine.execVrsqrt x s
  | .vexp2 x => Sys2Proof.Machine.execVexp2 x s
  | .vlog2 x => Sys2Proof.Machine.execVlog2 x s
  | .vcmp x => Sys2Proof.Machine.execVcmp x s
  | .vcvt x => Sys2Proof.Machine.execVcvt x s
  | .vld x => Sys2Proof.Machine.execVld x s
  | .vst x => Sys2Proof.Machine.execVst x s
  | .vlds x => Sys2Proof.Machine.execVlds x s
  | .vsts x => Sys2Proof.Machine.execVsts x s
  | .vgath x => Sys2Proof.Machine.execVgath x s
  | .vscat x => Sys2Proof.Machine.execVscat x s
  | .vbcast x => Sys2Proof.Machine.execVbcast x s
  | .vperm x => Sys2Proof.Machine.execVperm x s
  | .vlsh x => Sys2Proof.Machine.execVlsh x s
  | .vredAdd x => Sys2Proof.Machine.execVredAdd x s
  | .vredMin x => Sys2Proof.Machine.execVredMin x s
  | .vredMax x => Sys2Proof.Machine.execVredMax x s
  | .mand x => Sys2Proof.Machine.execMand x s
  | .mor x => Sys2Proof.Machine.execMor x s
  | .mnot x => Sys2Proof.Machine.execMnot x s
  | .mpop x => Sys2Proof.Machine.execMpop x s
  | .mfirst x => Sys2Proof.Machine.execMfirst x s
  | .mmaDD x => Sys2Proof.Machine.execMmaDD x s
  | .mmaSS x => Sys2Proof.Machine.execMmaSS x s
  | .mmaBB x => Sys2Proof.Machine.execMmaBB x s
  | .mmaHH x => Sys2Proof.Machine.execMmaHH x s
  | .mmaBH x => Sys2Proof.Machine.execMmaBH x s
  | .mmaHB x => Sys2Proof.Machine.execMmaHB x s
  | .mmaNN x => Sys2Proof.Machine.execMmaNN x s
  | .mmaNB x => Sys2Proof.Machine.execMmaNB x s
  | .mmaBN x => Sys2Proof.Machine.execMmaBN x s
  | .mlease x => Sys2Proof.Machine.execMlease x s
  | .mrel x => Sys2Proof.Machine.execMrel x s
  | .oclaim x => Sys2Proof.Machine.execOclaim x s
  | .orel x => Sys2Proof.Machine.execOrel x s
  | .old x => Sys2Proof.Machine.execOld x s
  | .azero x => Sys2Proof.Machine.execAzero x s
  | .aread x => Sys2Proof.Machine.execAread x s
  | .awrite x => Sys2Proof.Machine.execAwrite x s
  | .ast x => Sys2Proof.Machine.execAst x s
  | .ald x => Sys2Proof.Machine.execAld x s
  | .mwait x => Sys2Proof.Machine.execMwait x s
  | .medge x => Sys2Proof.Machine.execMedge x s
  | .accown x => Sys2Proof.Machine.execAccown x s
  | .hint x => Sys2Proof.Machine.execHint x s
  | .modifier x => Sys2Proof.Machine.execModifier x s
  | .divideComplete r => Sys2Proof.Machine.execDivideComplete r s
  | .fpDivideComplete r flags => Sys2Proof.Machine.execFpDivideComplete r flags s
  | .fpLateTrap h tpc info => Sys2Proof.Machine.execFpLateTrap h tpc info s
  | .loadResponse r => Sys2Proof.Machine.execLoadResponse r s
  | .lateFault h cause info op => Sys2Proof.Machine.execLateFault h cause info op s
  | .storePerform r => Sys2Proof.Machine.execStorePerform r s
  | .homeAtomic r => Sys2Proof.Machine.execHomeAtomic r s
  | .homeCellOperation r => Sys2Proof.Machine.execHomeCellOperation r s
  | .homeQueueOperation r => Sys2Proof.Machine.execHomeQueueOperation r s
  | .launchAtHome r => Sys2Proof.Machine.execLaunchAtHome r s
  | .launchStatus r given => Sys2Proof.Machine.execLaunchStatus r given s
  | .watchRegister w => Sys2Proof.Machine.execWatchRegister w s
  | .watchFire w => Sys2Proof.Machine.execWatchFire w s
  | .fenceComplete r storeKinds => Sys2Proof.Machine.execFenceComplete r storeKinds s
  | .cpubComplete core scope lines => Sys2Proof.Machine.execCpubComplete core scope lines s
  | .nreadTimeout r => Sys2Proof.Machine.execNreadTimeout r s
  | .homeWeightUpdate u => Sys2Proof.Machine.execHomeWeightUpdate u s
  | .weightGrant h ctx k op => Sys2Proof.Machine.execWeightGrant h ctx k op s
  | .returnCombineFlush core => Sys2Proof.Machine.execReturnCombineFlush core s
  | .messageArrival core m => Sys2Proof.Machine.execMessageArrival core m s
  | .slotSelect h => Sys2Proof.Machine.execSlotSelect h s
  | .preemptRequest core payload => Sys2Proof.Machine.execPreemptRequest core payload s
  | .timeSliceExpiry h => Sys2Proof.Machine.execTimeSliceExpiry h s
  | .preemptHoldExpiry h => Sys2Proof.Machine.execPreemptHoldExpiry h s
  | .preemptResume h => Sys2Proof.Machine.execPreemptResume h s
  | .phaseOverrun h => Sys2Proof.Machine.execPhaseOverrun h s
  | .phaseOverrunMessage h => Sys2Proof.Machine.execPhaseOverrunMessage h s
  | .lSlotRotation h => Sys2Proof.Machine.execLSlotRotation h s
  | .wfiWake h => Sys2Proof.Machine.execWfiWake h s
  | .vclaimGrant cluster => Sys2Proof.Machine.execVclaimGrant cluster s
  | .leaseGrant cluster => Sys2Proof.Machine.execLeaseGrant cluster s
  | .leaseExpiry h => Sys2Proof.Machine.execLeaseExpiry h s
  | .mmaCommandStart cluster => Sys2Proof.Machine.execMmaCommandStart cluster s
  | .mmaCommandComplete cluster => Sys2Proof.Machine.execMmaCommandComplete cluster s
  | .subscriptionEstablish r => Sys2Proof.Machine.execSubscriptionEstablish r s
  | .batchWindowExpiry core entry => Sys2Proof.Machine.execBatchWindowExpiry core entry s
  | .updateApply u => Sys2Proof.Machine.execUpdateApply u s
  | .updateLogWrite u => Sys2Proof.Machine.execUpdateLogWrite u s
  | .gbarEpisodeComplete ctx => Sys2Proof.Machine.execGbarEpisodeComplete ctx s
  | .packetDispatch queue => Sys2Proof.Machine.execPacketDispatch queue s
  | .placementAction die => Sys2Proof.Machine.execPlacementAction die s
  | .gangDrain die => Sys2Proof.Machine.execGangDrain die s
  | .contextCompact ctx fromCore toCore => Sys2Proof.Machine.execContextCompact ctx fromCore toCore s
  | .contextComplete ctx => Sys2Proof.Machine.execContextComplete ctx s
  | .frameAdvance => Sys2Proof.Machine.execFrameAdvance s
  | .missMergeWindow cluster => Sys2Proof.Machine.execMissMergeWindow cluster s
  | .combineForward router cell => Sys2Proof.Machine.execCombineForward router cell s
  | .kick engine port => Sys2Proof.Machine.execKick engine port s
  | .jobStart engine => Sys2Proof.Machine.execJobStart engine s
  | .jobEnd engine status tcause detail => Sys2Proof.Machine.execJobEnd engine status tcause detail s
  | .collective engine peers => Sys2Proof.Machine.execCollective engine peers s
  | .remoteStore port r => Sys2Proof.Machine.execRemoteStore port r s
  | .remoteStoreAck port accepted => Sys2Proof.Machine.execRemoteStoreAck port accepted s
  | .linkDeath port => Sys2Proof.Machine.execLinkDeath port s
  | .portRestore port => Sys2Proof.Machine.execPortRestore port s
  | .pageWalk core ctx root va => Sys2Proof.Machine.execPageWalk core ctx root va s
  | .tlbInvalidation die => Sys2Proof.Machine.execTlbInvalidation die s
  | .patrolScrub word found => Sys2Proof.Machine.execPatrolScrub word found s
  | .heartWrite clerk v => Sys2Proof.Machine.execHeartWrite clerk v s
  | .heartTimeout clerk => Sys2Proof.Machine.execHeartTimeout clerk s
  | .warmRestart => Sys2Proof.Machine.execWarmRestart s
  | .coldStart => Sys2Proof.Machine.execColdStart s
  | .powerLoss => Sys2Proof.Machine.execPowerLoss s
  | .thermalShutdown => Sys2Proof.Machine.execThermalShutdown s
  | .powercapWrite v => Sys2Proof.Machine.execPowercapWrite v s
  | .mbColdStart tag => Sys2Proof.Machine.execMbColdStart tag s
  | .mbWarmRestart tag => Sys2Proof.Machine.execMbWarmRestart tag s
  | .mbWriteFirmware tag => Sys2Proof.Machine.execMbWriteFirmware tag s
  | .mbAttestation tag => Sys2Proof.Machine.execMbAttestation tag s
  | .mbRegisterLog tag => Sys2Proof.Machine.execMbRegisterLog tag s
  | .mbCommitVersion tag => Sys2Proof.Machine.execMbCommitVersion tag s
  | .mbStop tag => Sys2Proof.Machine.execMbStop tag s
  | .mbUnknownOp tag op => Sys2Proof.Machine.execMbUnknownOp tag op s
  | .hostEnqueue queue v => Sys2Proof.Machine.execHostEnqueue queue v s
  | .hostMemoryAccess offset write size => Sys2Proof.Machine.execHostMemoryAccess offset write size s
  | .configRegisterWrite offset v fromHost => Sys2Proof.Machine.execConfigRegisterWrite offset v fromHost s
  | .illegal word before => Sys2Proof.Machine.execIllegal word before s
  | .fetchFault cause info => Sys2Proof.Machine.execFetchFault cause info s
  | .laneResult r => Sys2Proof.Machine.execLaneResult r s
  | .powerThrottle throttled watts => Sys2Proof.Machine.execPowerThrottle throttled watts s
  | .shutdownPending temp => Sys2Proof.Machine.execShutdownPending temp s
  | .linkTraining port partner => Sys2Proof.Machine.execLinkTraining port partner s
  | .linkLevelRetry port => Sys2Proof.Machine.execLinkLevelRetry port s

end Sys2Proof.Machine
end

