-- ==== Sys2Proof/Machine/Timers.lean ====
section
/-!
DEFINITION. What comes due of itself between two groups: interrupts of a slot in the order of R424, timers, empty slots
that find work, and the dispatchers (R134, R360, R376 to R379, R406, R414, R434, R439).
-/
namespace Sys2Proof.Machine

/-- Every hart the state holds. -/
def allHarts (s : State) : List HartId := s.turn :: s.harts.map fun p => BitVec.ofNat 13 p.1

/-- Whether a strand has used its slice while another context waits (R379). -/
def sliceOver (s : State) (h : HartId) (x : Slot) : Bool :=
  decide ((dieOf s (dieOfAgent (agentOf h))).tslice.toNat ≤ s.clock - x.runAt) &&
    otherContextWork s (agentOf h) x.ctx (isH h)

/-- Whether an H strand has passed HLIMIT (R377). -/
def limitOver (s : State) (h : HartId) (x : Slot) : Bool :=
  let l := (coreOf s (agentOf h)).hlimit.toNat
  isH h && l != 0 && !x.hltaken && decide (l < s.clock - x.runAt)

/-- The FP trap of a variable-latency instruction whose cycle has come (R161). -/
def lateFp (s : State) (h : HartId) (x : Slot) : Option Event :=
  (x.fpTraps.find? fun q => decide (q.cycle ≤ s.tick)).map fun q => .fpLateTrap h q.tpc q.info

/-- The interrupt that a compute slot in user mode has due: the first of causes 3 and 4 of R424 and the late FP traps
behind them. -/
def interruptOf (s : State) (h : HartId) (x : Slot) : Option Event :=
  if !x.live || x.vgrant != 0 || x.hint.isSome || x.modw.isSome then none
  else if x.sup then lateFp s h x
  else
    match (if x.hold.isNone then x.request else none) with
    | some p => some (.preemptRequest (agentOf h) p)
    | none =>
      if x.hold.isNone && sliceOver s h x then some (.timeSliceExpiry h)
      else if limitOver s h x then some (.phaseOverrun h)
      else lateFp s h x

/-- Whether an interrupt that is due waits: trap entry for the LAUNCH statuses (R244), the save of R37 for what
`leavingWaits` names. -/
def interruptWaits (s : State) (h : HartId) (x : Slot) : Event → Bool
  | .preemptRequest _ p => runsStrand x (p.setWidth 16) && (x.launches != 0 || leavingWaits s h)
  | .timeSliceExpiry _ => x.launches != 0 || leavingWaits s h
  | _ => x.launches != 0

/-- What a compute slot's hart has due, in the order of R424. -/
def coreDue (s : State) (h : HartId) (x : Slot) : Option Event :=
  if x.lease.held && decide (x.lease.cyc.toNat ≤ s.clock - x.lease.since) then some (.leaseExpiry h)
  else if phaseOver s x then some (.phaseOverrunMessage h)
  else if (match x.hold with
    | some t => decide (t ≤ s.clock)
    | none => false) then some (.preemptHoldExpiry h)
  else match interruptOf s h x with
    | some e => if interruptWaits s h x e then none else some e
    | none => if x.rotate && !unsettled s h then some (.lSlotRotation h) else none

/-- Whether a hart waiting in WFI wakes (R434). -/
def wfiOver (s : State) (h : HartId) (x : Slot) : Bool :=
  match x.wfi with
  | none => false
  | some t => decide (t ≤ s.tick) || x.request.isSome ||
      (kindOf h == .core && (chooseWork s (agentOf h) (isH h)).isSome)

/-- What a hart has due. -/
def hartDue (s : State) (h : HartId) : Option Event :=
  let x := slotOf s h
  match kindOf h with
  | .core => if x.live && wfiOver s h x then some (.wfiWake h) else coreDue s h x
  | .clerk => if x.live && wfiOver s h x then some (.wfiWake h) else lateFp s h x
  | _ => lateFp s h x

/-- Whether the returns a network interface holds wait for updates of their context's regions (R415). -/
def returnBlocked (s : State) (core : Nat) (c : BitVec 16) : Bool :=
  (coreOf s core).pubs.any (fun e => e.2.ctx == c && e.2.batch.isSome) ||
    s.events.any fun e => match e with
      | .updateApply u => u.pubCore == core && u.ctx == c
      | .updateLogWrite u => u.pubCore == core && u.ctx == c
      | _ => false

/-- What a core's network interface has due, in a freeze too (R439): a batch past its window, a return to send. -/
def interfaceDue (s : State) (core : Nat) (k : Core) : Option Event :=
  match k.pubs.find? fun e => match e.2.batch with
    | some (_, _, t) => decide (t + 32 ≤ s.tick)
    | none => false with
  | some e => some (.batchWindowExpiry core e.1)
  | none =>
    if k.returns.any fun r => !returnBlocked s core r.1 then some (.returnCombineFlush core) else none

/-- What a core has due: its network interface, an empty slot with work, or with a malformed entry to report. -/
def coreUnitDue (s : State) (core : Nat) (k : Core) : Option Event :=
  match interfaceDue s core k with
  | some e => some e
  | none =>
    let looks := badLooks s core
    let empty (cls : Bool) : Bool :=
      !(slotOf s (hartOf core cls)).live && ((chooseWork s core cls).isSome || (overflowed s core).isSome || !looks.isEmpty)
    if k.placements.isEmpty then none
    else if empty true then some (.slotSelect (hartOf core true))
    else if empty false then some (.slotSelect (hartOf core false))
    else none

/-- What a die has due: a clerk that missed its heartbeat (R439). -/
def dieDue (s : State) (d : Nat) : Option Event :=
  let x := dieOf s d
  let late (i : Nat) : Bool :=
    (slotOf s (BitVec.ofNat 13 (2316 + 2 * d + i))).live && x.hblimit != 0 &&
      decide (x.hblimit.toNat < s.clock - (if i = 0 then x.heartAge[0] else x.heartAge[1]))
  if late 0 then some (.heartTimeout (2 * d))
  else if late 1 then some (.heartTimeout (2 * d + 1))
  else none

end Sys2Proof.Machine
end

