-- ==== Sys2Proof/Machine/Due.lean ====
section
/-!
DEFINITION. The one next thing that is due between two groups, and which hart issues (R375; log entry 4).
-/
namespace Sys2Proof.Machine

/-- The oldest operation in flight that passes, with the others. -/
def oldestOf (p : Event → Bool) : List Event → Option (Event × List Event)
  | [] => none
  | e :: es => if p e then some (e, es) else (oldestOf p es).map fun q => (q.1, e :: q.2)

/-- The oldest operation in flight whose cycle has come, with the others (R53; log entry 4). -/
def nextEvent (tick : Nat) (es : List Event) : Option (Event × List Event) :=
  oldestOf (fun e => decide (eventDue e ≤ tick)) es

/-- Whether an operation in flight may happen between the words of a group: a result arrives, or a store performs (R53) with
what is one step with it: a kick (R390), or a write of the configuration window with what it sets off (R450). -/
def betweenWords (e : Event) : Bool :=
  match e with
  | .storePerform _ => true
  | .kick _ _ => true
  | .configRegisterWrite _ _ _ => true
  | .heartWrite _ _ => true
  | .powercapWrite _ => true
  | .hostEnqueue _ _ => true
  | .portRestore _ => true
  | _ => (resultOf e).isSome

/-- The oldest such operation whose cycle has come, with the others. -/
def nextResult (tick : Nat) (es : List Event) : Option (Event × List Event) :=
  oldestOf (fun e => betweenWords e && decide (eventDue e ≤ tick)) es

/-- The input of the outside world that lands now (log entry 4). -/
def inputDue (s : State) : Option (Event × State) :=
  match s.inputs with
  | (t, e) :: rest => if t ≤ s.tick then some (e, { s with inputs := rest }) else none
  | [] => none

/-- What is due while the module is not frozen. -/
def runningDue (s : State) : Option Event :=
  match (allHarts s).findSome? (hartDue s) with
  | some e => some e
  | none =>
    match s.cores.findSome? (fun k => coreUnitDue s k.1 k.2) <|> s.clusters.findSome? (fun k => arrayDue s k.1 k.2) with
    | some e => some e
    | none =>
      match (List.range 4).findSome? (dieDue s) with
      | some e => some e
      | none =>
        match s.engines.findSome? fun e => engineDue s e.1 e.2 with
        | some e => some e
        | none => dispatchDue s

/-- What is due in a freeze: the restart that ends it, and the returns and updates that go on (R439, R442). -/
def frozenDue (s : State) : Option Event :=
  match restartDue s with
  | some e => some e
  | none => s.cores.findSome? fun k => interfaceDue s k.1 k.2

/-- The step of the machine that is due, if any: a freeze stops every timer of the slots and dispatchers. -/
def dueEvent (s : State) : Option Event :=
  if s.module.frame.toNat ≠ s.tick / 2048 % 256 then some .frameAdvance
  else if (combineDue s).isSome then combineDue s
  else if (invalidationDue s).isSome then invalidationDue s
  else if (thermalDue s).isSome then thermalDue s
  else if s.module.frozen.isSome then frozenDue s
  else runningDue s

/-! ### Which hart issues (R375; log entry 4) -/

/-- Whether a hart can issue: it holds a strand, its stall count lets it, and it waits for nothing outside the issue of
its next word. Between groups an interrupt that is due comes first, also while it waits (R424). -/
def canIssue (s : State) (h : HartId) : Bool :=
  let x := slotOf s h
  x.live && x.wfi.isNone && !x.stopped && (x.vgrant == 0 || !x.resumed) && (x.lreq.isNone || x.sup) && decide (x.earliest ≤ s.tick) &&
    !x.rotate && (x.sup || x.lateFaults.isEmpty) &&
    (s.module.frozen.isSome || kindOf h != .core || (interruptOf s h x).isNone)

/-- The harts that can issue, the ones after the executing hart first. -/
def roster (s : State) : List HartId :=
  let ids := (s.harts.map fun p => BitVec.ofNat 13 p.1).filter (canIssue s)
  let own := if canIssue s s.turn then [s.turn] else []
  ids.filter (fun h => s.turn < h) ++ ids.filter (fun h => h < s.turn) ++ own

/-- The H slot goes before the L slot of its core (R375). -/
def preferH (s : State) (h : HartId) : HartId :=
  if kindOf h == .core && !isH h && canIssue s (h ^^^ 4096) then h ^^^ 4096 else h

/-- The hart that issues next, with the turns left after it; none when no hart can issue. -/
def pickHart (s : State) : Option (HartId × List HartId) :=
  match s.arbiter.filter (canIssue s) with
  | h :: rest => some (preferH s h, rest)
  | [] =>
    match roster s with
    | [] => none
    | h :: rest => some (preferH s h, rest)

end Sys2Proof.Machine
end

