-- ==== Sys2Proof/Machine/RunEvent.lean ====
section
/-!
DEFINITION. A step of the machine that waits in the state happens: each is the meaning of the constructor of `Instr` of
the same name.
-/
namespace Sys2Proof.Machine

/-- What a waiting step does. -/
def runEvent (e : Event) (s : State) : Host.Outcome State Fault Refusal :=
  match e with
  | .divideComplete r => execDivideComplete r s
  | .fpDivideComplete r flags => execFpDivideComplete r flags s
  | .fpLateTrap h tpc info => execFpLateTrap h tpc info s
  | .loadResponse r => execLoadResponse r s
  | .lateFault h cause info op => execLateFault h cause info op s
  | .storePerform r => execStorePerform r s
  | .homeAtomic r => execHomeAtomic r s
  | .homeCellOperation r => execHomeCellOperation r s
  | .homeQueueOperation r => execHomeQueueOperation r s
  | .launchAtHome r => execLaunchAtHome r s
  | .launchStatus r given => execLaunchStatus r given s
  | .watchRegister w => execWatchRegister w s
  | .watchFire w => execWatchFire w s
  | .fenceComplete r storeKinds => execFenceComplete r storeKinds s
  | .cpubComplete core scope lines => execCpubComplete core scope lines s
  | .nreadTimeout r => execNreadTimeout r s
  | .homeWeightUpdate u => execHomeWeightUpdate u s
  | .weightGrant h ctx k op => execWeightGrant h ctx k op s
  | .returnCombineFlush core => execReturnCombineFlush core s
  | .messageArrival core m => execMessageArrival core m s
  | .slotSelect h => execSlotSelect h s
  | .preemptRequest core payload => execPreemptRequest core payload s
  | .timeSliceExpiry h => execTimeSliceExpiry h s
  | .preemptHoldExpiry h => execPreemptHoldExpiry h s
  | .preemptResume h => execPreemptResume h s
  | .phaseOverrun h => execPhaseOverrun h s
  | .phaseOverrunMessage h => execPhaseOverrunMessage h s
  | .lSlotRotation h => execLSlotRotation h s
  | .wfiWake h => execWfiWake h s
  | .vclaimGrant cluster => execVclaimGrant cluster s
  | .leaseGrant cluster => execLeaseGrant cluster s
  | .leaseExpiry h => execLeaseExpiry h s
  | .mmaCommandStart cluster => execMmaCommandStart cluster s
  | .mmaCommandComplete cluster => execMmaCommandComplete cluster s
  | .subscriptionEstablish r => execSubscriptionEstablish r s
  | .batchWindowExpiry core entry => execBatchWindowExpiry core entry s
  | .updateApply u => execUpdateApply u s
  | .updateLogWrite u => execUpdateLogWrite u s
  | .gbarEpisodeComplete ctx => execGbarEpisodeComplete ctx s
  | .packetDispatch queue => execPacketDispatch queue s
  | .placementAction die => execPlacementAction die s
  | .gangDrain die => execGangDrain die s
  | .contextCompact ctx fromCore toCore => execContextCompact ctx fromCore toCore s
  | .contextComplete ctx => execContextComplete ctx s
  | .frameAdvance => execFrameAdvance s
  | .missMergeWindow cluster => execMissMergeWindow cluster s
  | .combineForward router cell => execCombineForward router cell s
  | .kick engine port => execKick engine port s
  | .jobStart engine => execJobStart engine s
  | .jobEnd engine status tcause detail => execJobEnd engine status tcause detail s
  | .collective engine peers => execCollective engine peers s
  | .remoteStore port r => execRemoteStore port r s
  | .remoteStoreAck port accepted => execRemoteStoreAck port accepted s
  | .linkDeath port => execLinkDeath port s
  | .portRestore port => execPortRestore port s
  | .pageWalk core ctx root va => execPageWalk core ctx root va s
  | .tlbInvalidation die => execTlbInvalidation die s
  | .patrolScrub loc found => execPatrolScrub loc found s
  | .heartWrite clerk v => execHeartWrite clerk v s
  | .heartTimeout clerk => execHeartTimeout clerk s
  | .warmRestart => execWarmRestart s
  | .coldStart => execColdStart s
  | .powerLoss => execPowerLoss s
  | .thermalShutdown => execThermalShutdown s
  | .powercapWrite v => execPowercapWrite v s
  | .mbColdStart tag => execMbColdStart tag s
  | .mbWarmRestart tag => execMbWarmRestart tag s
  | .mbWriteFirmware tag => execMbWriteFirmware tag s
  | .mbAttestation tag => execMbAttestation tag s
  | .mbRegisterLog tag => execMbRegisterLog tag s
  | .mbCommitVersion tag => execMbCommitVersion tag s
  | .mbStop tag => execMbStop tag s
  | .mbUnknownOp tag op => execMbUnknownOp tag op s
  | .hostEnqueue queue v => execHostEnqueue queue v s
  | .hostMemoryAccess offset write size => execHostMemoryAccess offset write size s
  | .configRegisterWrite offset v fromHost => execConfigRegisterWrite offset v fromHost s
  | .illegal word before => execIllegal word before s
  | .fetchFault cause info => execFetchFault cause info s
  | .laneResult r => execLaneResult r s
  | .powerThrottle throttled watts => execPowerThrottle throttled watts s
  | .shutdownPending temp => execShutdownPending temp s
  | .linkTraining port partner => execLinkTraining port partner s
  | .linkLevelRetry port => execLinkLevelRetry port s

end Sys2Proof.Machine
end

