-- ==== Sys2Proof/Machine/Step.lean ====
section
/-!
DEFINITION. One step of the module: something that waits, something that is due, the end of a REP iteration, or one word
of the hart whose turn it is (R51, R53, R71, R115, R375, R424; log entry 4).
-/
namespace Sys2Proof.Machine

/-- A word executed. A committing word waits for the FP results and traps of the region (R161). -/
def issueWord (i : Instr) (s : State) : Host.Outcome State Fault Refusal :=
  if commits i && fpPending s s.turn then .next (holdUnissued s { s with cur := unissued s.cur })
  else match exec i s with
    | .next s' => .next (holdUnissued s s')
    | .fault f => .fault f
    | .refused r => .refused r

/-- The next word of a group already under way. -/
def continueGroup (s : State) : Host.Outcome State Fault Refusal :=
  match fetchWord s s.cur.pc with
  | .word w s' =>
    match decode w with
    | .ok i => issueWord i s'
    | .error _ => execIllegal w 0 s'
  | .fault c info => execFetchFault c info s
  | .hole pa => .fault (.physicalHole pa)

/-- The slot with the start of the group at PC remembered. -/
def markGroup (x : Slot) : Slot :=
  { x with gpc := x.pc, gnpc := x.npc, gnnpc := x.nnpc, gprev := (x.prev1, x.prev2) }

/-- The first word of the group at PC, or the trap the group takes (R71). A group whose sources are not ready does not issue
(R54); the last word of one that has waited behind its prefix words tries again alone (R51). -/
def startGroup (s : State) : Host.Outcome State Fault Refusal :=
  let s := { s with cur := markGroup s.cur }
  match fetchGroup s with
  | .inr (some (c, info), _) => execFetchFault c info s
  | .inr (none, pa) => .fault (.physicalHole pa)
  | .inl g =>
    match groupTrap s g.words with
    | some (.illegal w b) => execIllegal w b g.state
    | some (.trap c info) => execFetchFault c info g.state
    | none =>
      let t := holdSources g.state g.words
      if t.tick < t.cur.earliest then .next (holdUnissued s t)
      else
        let n := prefixCycles t.cur g.words
        let w := if n = 0 then g.words.getLastD 0 else g.words.headD 0
        match decode w with
        | .ok i => issueWord i (if n = 0 ∧ 1 < g.words.length then behindPrefixes t g.words else t)
        | .error _ => execIllegal w 0 t

/-- The executing hart's next word, or the iteration of a REP that it has to end first (R135). -/
def issueHart (s : State) : Host.Outcome State Fault Refusal :=
  if s.cur.nullify ≠ 0 then .next (nullifiedWord s)
  else if atBodyEnd s.cur then
    if iterationWaits s then .next s
    else
      let t := repIteration s
      if t.cur.stopped then .next t else startGroup t
  else startGroup s

/-- A cycle in which a hart has tried a word: when the word of an H slot waits at issue, the L slot of its core issues in
the same cycle (R375). -/
def cycleOf (s : State) : Host.Outcome State Fault Refusal → Host.Outcome State Fault Refusal
  | .next t =>
    let l := s.turn ^^^ 4096
    if heldBack s t && kindOf s.turn == .core && isH s.turn && canIssue t l then
      match issueHart (switchTo t l) with
      | .next u => .next (tickOne u)
      | o => o
    else .next (tickOne t)
  | o => o

/-- A turn: the hart that issues next issues; with none, a cycle passes. -/
def takeTurn (s : State) : Host.Outcome State Fault Refusal :=
  match pickHart s with
  | none => .next (tickOne s)
  | some (h, rest) =>
    let t := { switchTo s h with arbiter := rest }
    let t := { t with cur := markGroup t.cur }
    cycleOf t (issueHart t)

/-- One step. Between the words of a group a result may arrive and a store perform, and nothing else happens; between the
last word of a REP body and the end of its iteration nothing does (R51, R53, R135). -/
def step (s : State) : Host.Outcome State Fault Refusal :=
  if s.cur.hint.isSome || s.cur.modw.isSome then
    match nextResult s.tick s.events with
    | some (e, rest) => runEvent e { s with events := rest }
    | none => cycleOf s (continueGroup s)
  else if atBodyEnd s.cur && !iterationWaits s then .next (repIteration s)
  else
    match nextEvent s.tick s.events with
    | some (e, rest) => runEvent e { s with events := rest }
    | none =>
      match inputDue s with
      | some (e, s') => runEvent e s'
      | none =>
        match dueEvent s with
        | some e => runEvent e s
        | none => takeTurn s

/-! ### Placing an instruction for the next step (log entry 9) -/

/-- The page tables of `withFetchWord`: a root at 0x10000, tables at 0x12000, 0x14000 and 0x16000, and one 64 KiB page
at physical 0x20000, shared, user, executable, writable and readable, at virtual 0x10000. -/
def fetchTables (m : Memory) : Memory :=
  let put (m : Memory) (a v : Nat) : Memory := memWrite m a (natBytes 8 v)
  let m := put m 0x10000 (2 ^ 63 + 0x12000)
  let m := put m 0x12000 (2 ^ 63 + 0x14000)
  let m := put m 0x14000 (2 ^ 63 + 0x16000)
  put m 0x16008 (2 ^ 63 + 2 ^ 62 + 2 ^ 60 + 0x20000 + 0b101111)

/-- A placement of context 1 for `withFetchWord`. -/
def fetchPlacement : Placement :=
  { ctx := 1, partw := 0x00000804, pbase := 0, htab := [], ptab := 0, nphase := 0, sdef := 0, seed := 0
    root := 0x10000, coords := [], exts := [], mcount := 1, member := 0, group := 0, gidx := 0, gcores := 1, savedH := none, savedL := none
    absent := false, spilled := [], logged := [], heldCh := [], stage := false }

/-- The launch record and context of `withFetchWord`: one group of one core, both record queues of its own. -/
def fetchCtx : Ctx :=
  { queue := 0, record := 0, root := 0x10000, compl := 0x30000
    rec_ := { entry := 0x10000, total := 16, partw := 0x00000804, hold := false, rooth := false, gang := false
              pipe := false, child := 0, succ := false, sdef := 0, htab := 0, ptab := 0, shape := 0
              freeq := 0x8000, readyq := 0x8040, levels := [], stages := [], seed := 0, nphase := 0, image := []
              shapeImage := [] }
    groupCores := 1, groups := 1, share := 16, grown := 0, members := [(0, 0)], arrivals := [], later := [], passed := []
    complete := false, quiescer := none }

/-- The state with the words of an instruction where the next step fetches: an L strand of context 1 on core 0 in user
mode at virtual 0x10000 has the turn. A word with no major (an event's row has no words) is stored the same way. -/
def State.withFetchWord (s : State) (nbits w : Nat) : State :=
  let pc : Addr := 0x10000
  let x : Slot := { Slot.reset with
    live := true, ctx := 1, partw := 0x00000804, wcur := 16
    pc := pc, npc := pc + 4, nnpc := pc + 8, rstart := pc, gpc := pc }
  let k := coreOf s 0
  let s := if s.turn = 0 then s else { s with harts := mapDel (mapPut s.harts s.turn.toNat s.cur) 0 }
  let s := setCore s 0 { k with
    placements := fetchPlacement :: k.placements.filter (fun p => p.ctx != 1), icache := [], tlb := [] }
  let s := setCluster s 0 { clusterAt s 0 with tlb := [] }
  let s := setDie s 0 { dieOf s 0 with pointers := [] }
  { s with
    cur := { x with runAt := s.clock }
    turn := 0
    ctxs := mapPut s.ctxs 1 fetchCtx
    mem := memWrite (fetchTables s.mem) 0x20000 (natBytes 12 (w % 2 ^ nbits))
    poison := []
    events := []
    inputs := []
    arbiter := [0]
    module := { s.module with frozen := none, frame := BitVec.ofNat 8 (s.tick / 2048) } }

end Sys2Proof.Machine
end

