-- ==== Sys2Proof/Safety.lean ====
section
/-!
DEFINITION. What counts as a safe run, and the terms in which claims are stated: what a source field gives, where a result
goes, the state after a word, where a word may stand.
-/
namespace Sys2Proof.Machine

/-! ### Safe runs -/

/-- Memory, pools and the configuration window's bytes are in canonical form. -/
def State.memOk (s : State) : Bool := s.mem.wf && s.pools.wf && s.module.cfg.wf

/-- A step that answers a next state. -/
def safeStep (s : State) : Prop := ∃ t, step s = .next t

/-! ### Operands -/

/-- An operation ends normally in a state, with a value. -/
def Gives {α : Type} (op : Op α) (s : State) (v : α) (t : State) : Prop := op s = .ok (v, t)

/-- A source field gives a value; the state after has the element of a stream port popped (R45, R187). -/
def Reads (s : State) (f : Sel) (v : W) (t : State) : Prop := Gives (readSel f) s v t

/-- A result with a fixed latency is pushed, and written or appended as the destination field says (R45, R53). -/
def Produces (s : State) (d : Sel) (v : W) (latency : Nat) (t : State) : Prop := Gives (produce d v latency) s () t

/-- The same for a result that is there at once. -/
def ProducesNow (s : State) (d : Sel) (v : W) (t : State) : Prop := Gives (produceNow d v) s () t

/-- The queue position and the destination of a result still to come are taken (R53). -/
def Reserves (s : State) (d : Sel) (tag : Nat) (dest : Dest) (t : State) : Prop := Gives (reserve d) s (tag, dest) t

/-! ### After a word -/

/-- The state after a word that is no branch and does not commit (R115). -/
def issued (st : BitVec 3) (s : State) : State := { s with cur := afterWord st .none none s.tick s.cur }

/-- The state after a word that commits (R115, R124). -/
def committed (st : BitVec 3) (s : State) : State :=
  { s with cur := commitSlot s.module.frozen.isSome s.tags (afterWord st .none none s.tick s.cur) }

/-- The executing slot stands where a committing word may stand (R125, R137). -/
def MayCommit (s : State) : Prop := s.cur.rep = none ∧ commitAllowed s.cur = true

/-- The executing slot stands in no delay slot and in no REP body (R88, R137). -/
def InOpen (s : State) : Prop := s.cur.rep = none ∧ inDelaySlot s.cur = false

/-- Two states that differ in the executing slot only. -/
def OnlySlot (s t : State) : Prop := ∃ x, t = { s with cur := x }

/-- The registers of a slot that only the words named for them write: status, flags, weight, context, trap registers,
phase, lease, vector state, streams, counters and what goes with a strand. -/
def SlotFrame (x y : Slot) : Prop :=
  y.live = x.live ∧ y.wfi = x.wfi ∧ y.str = x.str ∧ y.ckpt = x.ckpt ∧ y.sup = x.sup ∧ y.checkstall = x.checkstall ∧
    y.fpte = x.fpte ∧ y.rmode = x.rmode ∧ y.fpflags = x.fpflags ∧
    fpflagsFinal y = fpflagsFinal x ∧ y.fpTraps = x.fpTraps ∧ y.lateFaults = x.lateFaults ∧ y.wcur = x.wcur ∧ y.ctx = x.ctx ∧ y.seed = x.seed ∧
    y.partw = x.partw ∧ y.pbase = x.pbase ∧ y.geom = x.geom ∧ y.tcause = x.tcause ∧ y.tinfo = x.tinfo ∧ y.tpc = x.tpc ∧
    y.rstart = x.rstart ∧ y.phcnt = x.phcnt ∧ y.phAt = x.phAt ∧ y.phexp = x.phexp ∧ y.phmargin = x.phmargin ∧
    y.phslack = x.phslack ∧ y.phopen = x.phopen ∧ y.phsent = x.phsent ∧ y.lease = x.lease ∧ y.vlanes = x.vlanes ∧
    y.v = x.v ∧ y.m = x.m ∧ y.stallcnt = x.stallcnt ∧ y.crec = x.crec ∧ y.landing = x.landing ∧ y.failed = x.failed ∧
    y.traps = x.traps ∧ y.rollbacks = x.rollbacks ∧ y.preempts = x.preempts ∧ y.save = x.save

/-- From one state to another a branch-class word has issued and nothing else has happened (R115): the executing slot has
gone on by one word, with the target, if taken, behind the two words already queued, and two words to be nullified after
a nullifying branch that is not taken. -/
def Went (s t : State) (taken nul : Bool) (target : Addr) : Prop :=
  OnlySlot s t ∧ SlotFrame s.cur t.cur ∧ t.cur.q = s.cur.q ∧ t.cur.n = s.cur.n ∧ t.cur.pc = s.cur.npc ∧
    t.cur.npc = s.cur.nnpc ∧ t.cur.nnpc = (if taken then target else s.cur.nnpc + 4) ∧
    t.cur.nullify = (if nul && !taken then 2 else s.cur.nullify) ∧ t.cur.retired = s.cur.retired + 1 ∧
    inDelaySlot t.cur = true

/-- TINFO in the layout of R175. -/
def accessInfo (reason : BitVec 4) (late : Bool) (kind : BitVec 3) (va : Addr) : W :=
  reason ++ BitVec.ofBool late ++ kind ++ va

/-- TINFO in the layout of R218. -/
def operationInfo (reason : BitVec 8) (late : Bool) (value : BitVec 55) : W := reason ++ BitVec.ofBool late ++ value

/-- From one state to another, memory has changed only where a dirty line of a core's L1 was written back (R309, R329). -/
def WrittenBackOnly (s t : State) (core : Nat) : Prop :=
  ∀ ca, memGet t.mem ca ≠ memGet s.mem ca → ∃ l ∈ (coreOf s core).l1, l.dirty = true ∧ l.line * 32 ≤ ca ∧
    ca < l.line * 32 + 32 ∧ memGet t.mem ca = (l.bytes[ca - l.line * 32]?).getD 0

/-- From one state to another, the harts have changed only in their records of failed stores and in the bytes that
instruction fetch still sees for them (R177, R322). -/
def HartsKept (s t : State) : Prop :=
  t.turn = s.turn ∧ ∀ h, slotOf t h =
    { slotOf s h with failed := (slotOf t h).failed, overwritten := (slotOf t h).overwritten }

/-- The trap that the executing hart's word takes (R51, R426). -/
def trapped (c : Cause) (info : W) (s : State) : State := takeTrap s s.turn c info (some s.cur.gpc)

end Sys2Proof.Machine
end

