-- ==== Sys2Proof/Certificates/Slice0/Obligations.lean ====
section
/-!
DEFINITION. The statements for the provers.
-/

section Slice0Statements

open Sys2Proof Sys2Proof.Machine

/-- O1. For every state: q1 to q16 and n0 to n7 give the value they hold when no result is awaited there, and make the
reader wait when one is; z gives 0; k the sign-extended payload of the group's hint word, or 0 without one; id the
agent-and-slot value; selector 31 traps ILLEGAL. A port bound for reading gives the element at base + position ×
stride, loaded with the checks of a plain load and extended as the descriptor says; an append to a port bound for
writing stores the low bytes of the value there, with the checks of a plain store. The position grows by one. A closed
port, a port of the wrong direction and an exhausted port trap PROTECT with reasons 7, 9 and 8. (R16, R19, R45, R53,
R175, R187) -/
def Obligations.SourceFieldsAndStreamPorts : Prop :=
  (∀ (s : State) (f : Sel),
     (f.toNat < 16 → (qEntry s.cur f.toNat).tag = 0 → Reads s f (qEntry s.cur f.toNat).val s) ∧
     (f.toNat < 16 → (qEntry s.cur f.toNat).tag ≠ 0 → readSel f s = .error (.wait id)) ∧
     (16 ≤ f.toNat → f.toNat < 24 → (nEntry s.cur (f.toNat - 16)).tag = 0 →
       Reads s f (nEntry s.cur (f.toNat - 16)).val s) ∧
     (16 ≤ f.toNat → f.toNat < 24 → (nEntry s.cur (f.toNat - 16)).tag ≠ 0 → readSel f s = .error (.wait id)) ∧
     Reads s 28 0 s ∧
     (s.cur.hint = none → Reads s 29 0 s) ∧
     (∀ k, s.cur.hint = some k → Reads s 29 (k.signExtend 64) s) ∧
     Reads s 30 (s.turn.zeroExtend 64) s ∧
     readSel 31 s = .error (.trap .illegal 0)) ∧
  (∀ (s : State) (p : BitVec 2) (v : W),
     let g := portOf s.cur p
     let f : Sel := BitVec.ofNat 5 (24 + p.toNat)
     let n := 2 ^ g.size.toNat
     let at_ : W := g.base + g.pos.zeroExtend 64 * g.stride
     let stepped (t : State) : State :=
       { t with cur := { t.cur with str := t.cur.str.set p.toNat { g with pos := g.pos + 1 } p.isLt } }
     let traps (op : Op Unit) (reason : BitVec 4) : Prop :=
       op s = .error (.trap .protect (accessInfo reason false 7 (p.zeroExtend 56)))
     let pop : Op Unit := do let _ ← readSel f
     (∀ bs t, g.bound = true → g.write = false → g.pos < g.count → Gives (loadVa 0 n n at_) s bs t →
       Reads s f (if g.signed then BitVec.ofInt 64 (sextNat (8 * n) (leNat bs)) else BitVec.ofNat 64 (leNat bs)) (stepped t)) ∧
     (∀ t, g.bound = true → g.write = true → g.pos < g.count →
       Gives (storeVa 1 n at_ (natBytes n v.toNat)) s () t → Gives (appendPort p v) s () (stepped t)) ∧
     (g.bound = false → traps pop 7 ∧ traps (appendPort p v) 7) ∧
     (g.bound = true → g.write = true → traps pop 9 ∧ (¬ g.pos < g.count → traps (appendPort p v) 8)) ∧
     (g.bound = true → g.write = false → traps (appendPort p v) 9 ∧ (¬ g.pos < g.count → traps pop 8)))

/-- O2. For every state, value and latency: the result becomes the newest queue entry and every other entry moves one
place on, the oldest leaving; D = 0 does no more; D = n0 to n7 also gives the register that value, inside a REP body
in the iteration buffer instead, with the cycle from which it may be read, and waits while an earlier result is
awaited there; a rollback before that cycle, with no other write of the register on its way, leaves the register as it
was. D = s0 to s3 also appends the value to the port: at once when the next word may read it and no append of the port
is still to come; otherwise the element is taken and checked at issue and the bytes are stored at the result's cycle,
and the word waits while an append that would come later than that cycle, or one whose cycle is not known, is still to
come (the model's reading, log entries 104 and 105). A word whose result comes later takes a fresh tag, which stands
in the newest queue entry and in the destination register; a reader of q1 then waits. When no entry held the tag
before, the arrival gives q1 the value, and the register too, and leaves every other entry and register of the slot as
it is. (R17, R45, R53, R55, R131, R136, R187) -/
def Obligations.ResultsReachTheirDestination : Prop :=
  (∀ (s : State) (v : W) (n : Nat),
     let e : Entry := ⟨v, 0, s.tick + n⟩
     let pushed : Slot := { s.cur with q := pushQueue s.cur.q e }
     (qEntry pushed 0 = e ∧ ∀ i, i < 15 → qEntry pushed (i + 1) = qEntry s.cur i) ∧
     Produces s 0 v n { s with cur := pushed } ∧
     (∀ i : BitVec 3, s.cur.rep = none → (nEntry s.cur i.toNat).tag = 0 →
       ∃ late, Produces s (BitVec.ofNat 5 (16 + i.toNat)) v n
           { s with cur := { pushed with n := s.cur.n.set i.toNat e i.isLt, late := late } } ∧
         ((∀ l ∈ s.cur.late, l.reg ≠ i) → 2 ≤ n → ∀ keep tick,
           nEntry (rolledBack keep tick { pushed with n := s.cur.n.set i.toNat e i.isLt, late := late }) i.toNat =
             if tick < s.tick + n then nEntry s.cur i.toNat else e) ∧
         ((∀ l ∈ s.cur.late, l.reg ≠ i) → n ≤ 1 → late = s.cur.late)) ∧
     (∀ i : BitVec 3, s.cur.rep = none → (nEntry s.cur i.toNat).tag ≠ 0 →
       produce (BitVec.ofNat 5 (16 + i.toNat)) v n s = .error (.wait id)) ∧
     (∀ (i : BitVec 3) (r : Repeat), s.cur.rep = some r → (∀ b, r.buf[i.toNat]? = some (some b) → b.tag = 0) →
       Produces s (BitVec.ofNat 5 (16 + i.toNat)) v n
         { s with cur := { pushed with rep := some { r with buf := r.buf.set i.toNat (some e) i.isLt } } }) ∧
     (∀ (i : BitVec 3) (r : Repeat) (b : Entry), s.cur.rep = some r → r.buf[i.toNat]? = some (some b) → b.tag ≠ 0 →
       produce (BitVec.ofNat 5 (16 + i.toNat)) v n s = .error (.wait id)) ∧
     (∀ (p : BitVec 2) (t : State), n ≤ 1 → appendAfter s s.turn p 0 = false →
       Gives (appendPort p v) { s with cur := pushed } () t → Produces s (BitVec.ofNat 5 (24 + p.toNat)) v n t) ∧
     (∀ (p : BitVec 2) (q : Place) (t u : State), 2 ≤ n ∨ appendAfter s s.turn p 0 = true →
       appendAfter s s.turn p (s.tick + n) = false →
       let g := portOf s.cur p
       let size := 2 ^ g.size.toNat
       g.bound = true → g.write = true → g.pos < g.count →
       Gives (checkAccess 1 size size .write true (g.base + g.pos.zeroExtend 64 * g.stride))
         { s with cur := pushed, tags := s.tags + 1 } q t →
       Gives (settleBytes q.loc size) t () u →
       Produces s (BitVec.ofNat 5 (24 + p.toNat)) v n
         (emit { u with cur := { u.cur with str := u.cur.str.set p.toNat { g with pos := g.pos + 1 } p.isLt } }
           (.loadResponse ⟨s.turn, s.tags, .stream p q.loc size q.shared, v, s.tick + n⟩))) ∧
     (∀ p : BitVec 2, appendAfter s s.turn p (s.tick + n) = true →
       produce (BitVec.ofNat 5 (24 + p.toNat)) v n s = .error (.wait id))) ∧
  (∀ (s : State) (h : HartId) (p : BitVec 2) (cycle : Nat), appendAfter s h p cycle = true ↔
     ∃ e ∈ s.events, (∃ l m, appendOf e = some (h, p, l, m)) ∧ ∀ r, resultOf e = some r → cycle < r.due) ∧
  (∀ (s : State) (r : Delivery) (p : BitVec 2) (l : Loc) (size : Nat) (b : Bool), r.dest = .stream p l size b →
     let u := deliver s { r with dest := .none }
     let w := storeOf u r.h (slotOf s r.h).ctx l b (natBytes size r.val.toNat)
     ∃ x, deliver s r = setSlot w r.h { slotOf w r.h with overwritten := x } ∧
       ((slotOf s r.h).openTag ≤ r.tag → x = (slotOf w r.h).overwritten)) ∧
  (∀ (s : State) (i : BitVec 3) (v : W) (due : Nat), s.cur.rep = none → s.tags ≠ 0 → (nEntry s.cur i.toNat).tag = 0 →
     (∀ j, j < 16 → (qEntry s.cur j).tag ≠ s.tags) → (∀ j, j < 8 → (nEntry s.cur j).tag ≠ s.tags) →
     ∃ t, Reserves s (BitVec.ofNat 5 (16 + i.toNat)) s.tags (.reg i) t ∧ t.tags = s.tags + 1 ∧
       readSel 0 t = .error (.wait id) ∧
       (let u := deliver t ⟨s.turn, s.tags, .reg i, v, due⟩
        Reads u 0 v u ∧ Reads u (BitVec.ofNat 5 (16 + i.toNat)) v u ∧
         (∀ j, j < 15 → qEntry u.cur (j + 1) = qEntry s.cur j) ∧
         (∀ j, j < 8 → j ≠ i.toNat → nEntry u.cur j = nEntry s.cur j)) ∧
       (∃ t₀, Reserves s 0 s.tags .none t₀ ∧
         (let u := deliver t₀ ⟨s.turn, s.tags, .none, v, due⟩
          Reads u 0 v u ∧ (∀ j, j < 8 → nEntry u.cur j = nEntry s.cur j))))

/-- O3. For every state and every operand form: when a and then b are read, and the result can be pushed and written
where D says, each of ADD, SUB, AND, OR, XOR, ANDN, ORN, MIN, MAX, MINU, MAXU and the six compares (latency 1), and
MUL, MULH and MULHU (latency 3) answers the state in which that was done and the word has issued. ADD, SUB and MUL
wrap modulo 2^64; MULH and MULHU give bits 127 to 64 of the signed and unsigned product; the compares give 1 or 0. ABS
reads a alone and gives a when a is not negative and 0 − a otherwise, the most negative number for itself. (R86, R91,
R97, R99, R105) -/
def Obligations.IntegerTwoSourceResults : Prop :=
  ∀ (x : RRR) (s s1 s2 : State) (a b : W), Reads s x.a a s1 → Reads s1 x.b b s2 →
    let done (i : Instr) (n : Nat) (r : W) : Prop := ∀ t, Produces s2 x.d r n t → exec i s = .next (issued x.st t)
    (∀ (y : RR) (t : State), y.a = x.a → y.d = x.d → Produces s1 y.d (if 0 ≤ a.toInt then a else 0 - a) 1 t →
      exec (.abs y) s = .next (issued y.st t)) ∧
      done (.add x) 1 (a + b) ∧ done (.sub x) 1 (a - b) ∧ done (.and x) 1 (a &&& b) ∧ done (.or x) 1 (a ||| b) ∧
      done (.xor x) 1 (a ^^^ b) ∧ done (.andn x) 1 (a &&& ~~~b) ∧ done (.orn x) 1 (a ||| ~~~b) ∧
      done (.min x) 1 (if a.sle b then a else b) ∧ done (.max x) 1 (if b.sle a then a else b) ∧
      done (.minu x) 1 (if a.ule b then a else b) ∧ done (.maxu x) 1 (if b.ule a then a else b) ∧
      done (.mul x) 3 (a * b) ∧
      done (.mulh x) 3 ((a.signExtend 128 * b.signExtend 128).extractLsb' 64 64) ∧
      done (.mulhu x) 3 ((a.setWidth 128 * b.setWidth 128).extractLsb' 64 64) ∧
      done (.cmpeq x) 1 (if a = b then 1 else 0) ∧ done (.cmpne x) 1 (if a ≠ b then 1 else 0) ∧
      done (.cmplt x) 1 (if a.toInt < b.toInt then 1 else 0) ∧ done (.cmpltu x) 1 (if a.toNat < b.toNat then 1 else 0) ∧
      done (.cmple x) 1 (if a.toInt ≤ b.toInt then 1 else 0) ∧ done (.cmpleu x) 1 (if a.toNat ≤ b.toNat then 1 else 0)

/-- O4. SHL, SHR, SAR and ROT are the words of major 0x01 with F 0x18 to 0x1B and fields D, A, B. They shift or rotate
a by b read as an unsigned 64-bit count n. For n ≤ 63: SHL and SHR shift with zeros entering, SAR with copies of bit
63; for n ≥ 64 SHL and SHR give 0, SAR 0 or all ones by bit 63 of a. ROT rotates left by n mod 64, so that ROT by −n
rotates right by n. A negative b is a count of at least 2^63. Each completes, for every operand form, in the state in
which the sources were read and the result produced. (R102) -/
def Obligations.ShiftsAndRotates : Prop :=
  (∀ x : RRR,
    encode (.shl x) = some ((0x01 : BitVec 6) ++ x.st ++ x.d ++ x.a ++ x.b ++ (0x18 : BitVec 8)) ∧
    encode (.shr x) = some ((0x01 : BitVec 6) ++ x.st ++ x.d ++ x.a ++ x.b ++ (0x19 : BitVec 8)) ∧
    encode (.sar x) = some ((0x01 : BitVec 6) ++ x.st ++ x.d ++ x.a ++ x.b ++ (0x1A : BitVec 8)) ∧
    encode (.rot x) = some ((0x01 : BitVec 6) ++ x.st ++ x.d ++ x.a ++ x.b ++ (0x1B : BitVec 8))) ∧
  ∀ (x : RRR) (s s1 s2 : State) (a b : W), Reads s x.a a s1 → Reads s1 x.b b s2 →
    let n := b.toNat
    let done (i : Instr) (r : W) : Prop := ∀ t, Produces s2 x.d r 1 t → exec i s = .next (issued x.st t)
    let is (i : Instr) (p : W → Prop) : Prop := ∃ r, p r ∧ done i r
    is (.shl x) (fun r => ∀ j, j < 64 → r.getLsbD j = (decide (n ≤ j) && a.getLsbD (j - n))) ∧
      is (.shr x) (fun r => ∀ j, j < 64 → r.getLsbD j = a.getLsbD (j + n)) ∧
      is (.sar x) (fun r => ∀ j, j < 64 → r.getLsbD j = a.getLsbD (min (j + n) 63)) ∧
      is (.rot x) (fun r => ∀ j, j < 64 → r.getLsbD ((j + n) % 64) = a.getLsbD j) ∧
      (b.toInt < 0 → 2 ^ 63 ≤ n) ∧
      (∀ m : Nat, b = 0 - BitVec.ofNat 64 m → is (.rot x) (fun r => ∀ j, j < 64 → r.getLsbD j = a.getLsbD ((j + m) % 64)))

/-- O5. CLZ, CTZ, POP and BREV are the words of major 0x01 with B = 0 and F 0x28 to 0x2B. CLZ counts the leading zero
bits of a and CTZ the trailing ones, each 64 for a = 0; POP counts the one bits; BREV moves bit i to bit 63 − i. Each
completes, for every operand form, in the state in which a was read and the result produced. (R104) -/
def Obligations.CountsAndReversal : Prop :=
  (∀ x : RR,
    encode (.clz x) = some ((0x01 : BitVec 6) ++ x.st ++ x.d ++ x.a ++ (0 : BitVec 5) ++ (0x28 : BitVec 8)) ∧
    encode (.ctz x) = some ((0x01 : BitVec 6) ++ x.st ++ x.d ++ x.a ++ (0 : BitVec 5) ++ (0x29 : BitVec 8)) ∧
    encode (.pop x) = some ((0x01 : BitVec 6) ++ x.st ++ x.d ++ x.a ++ (0 : BitVec 5) ++ (0x2A : BitVec 8)) ∧
    encode (.brev x) = some ((0x01 : BitVec 6) ++ x.st ++ x.d ++ x.a ++ (0 : BitVec 5) ++ (0x2B : BitVec 8))) ∧
  ∀ (x : RR) (s s1 : State) (a : W), Reads s x.a a s1 →
    let done (i : Instr) (r : W) : Prop := ∀ t, Produces s1 x.d r 1 t → exec i s = .next (issued x.st t)
    let counts (i : Instr) (p : Nat → Prop) : Prop := ∃ n, n ≤ 64 ∧ p n ∧ done i (BitVec.ofNat 64 n)
    counts (.clz x) (fun n => (∀ j, 64 - n ≤ j → j < 64 → a.getLsbD j = false) ∧ (n < 64 → a.getLsbD (63 - n) = true)) ∧
      counts (.ctz x) (fun n => (∀ j, j < n → a.getLsbD j = false) ∧ (n < 64 → a.getLsbD n = true)) ∧
      counts (.pop x) (fun n => n = ((List.range 64).filter fun j => a.getLsbD j).length) ∧
      ∃ r, done (.brev x) r ∧ ∀ j, j < 64 → r.getLsbD (63 - j) = a.getLsbD j

/-- O6. For every state and operand form, with imm the sign-extended 13-bit field, or the sign-extended 39-bit value
of the hint word's payload above it: ADDI, ANDI, ORI, XORI and CMPLTI give a op imm; SHLI, SHRI, SARI and ROTI shift
or rotate a by imm when it is 0 to 63 and trap ILLEGAL otherwise; LIM gives imm; LEA gives a plus its offset, likewise
extended, times the access size, with no access (each with latency 1); BEXTI gives the zero-extended field of a that
its limits allow (latency 2), whatever a hint word holds. Each completes in the state in which its source was read and
the result produced. (R48, R86, R98, R103, R106, R109, R111, R112) -/
def Obligations.ImmediateForms : Prop :=
  let imm (s : State) (f : BitVec 13) : W := match s.cur.hint with
    | none => f.signExtend 64
    | some k => (k ++ f).signExtend 64
  (∀ (x : RI) (s s1 : State) (a : W), Reads s x.a a s1 →
    let v := imm s x.imm
    let done (i : Instr) (r : W) : Prop := ∀ t, Produces s1 x.d r 1 t → exec i s = .next (issued x.st t)
    done (.addi x) (a + v) ∧ done (.andi x) (a &&& v) ∧ done (.ori x) (a ||| v) ∧ done (.xori x) (a ^^^ v) ∧
      done (.cmplti x) (if a.toInt < v.toInt then 1 else 0) ∧
      (v.toNat < 64 → done (.shli x) (a <<< v.toNat) ∧ done (.shri x) (a >>> v.toNat) ∧
        done (.sari x) (a.sshiftRight v.toNat) ∧ done (.roti x) (a.rotateLeft v.toNat))) ∧
  (∀ (x : RI) (s : State), 64 ≤ (imm s x.imm).toNat → s.cur.launches = 0 →
    ∀ i ∈ [Instr.shli x, .shri x, .sari x, .roti x],
      exec i s = .next (takeTrap s s.turn .illegal (illegalInfo (encode i) s.cur) (some s.cur.gpc))) ∧
  (∀ (x : DI) (s t : State), Produces s x.d (imm s x.imm) 1 t → exec (.lim x) s = .next (issued x.st t)) ∧
  (∀ (x : Mem) (s s1 t : State) (a : W), Reads s x.a a s1 →
    Produces s1 x.d (a + (match s.cur.hint with
      | none => x.off.signExtend 64
      | some k => (k ++ x.off).signExtend 64) * BitVec.ofNat 64 (2 ^ x.sz.toNat)) 1 t →
    exec (.lea x) s = .next (issued x.st t)) ∧
  (∀ (x : BitF) (s s1 t : State) (a : W), Reads s x.a a s1 → Instr.wf (.bexti x) = true →
    Produces s1 x.d (BitVec.ofNat 64 (a.toNat / 2 ^ x.pos.toNat % 2 ^ x.len.toNat)) 2 t →
    exec (.bexti x) s = .next (issued x.st t))

/-- O7. SEL is the word of major 0x0C with FN 000. It reads a, then b, then c, and pushes b when a ≠ 0 and c when a =
0, whichever input is chosen all three being read; any nonzero a chooses b. It completes in the state in which the
three were read and the chosen one produced. (R107) -/
def Obligations.SelectReadsAllAndChooses : Prop :=
  ∀ (x : RRRR) (s s1 s2 s3 t : State) (a b c : W), Reads s x.a a s1 → Reads s1 x.b b s2 → Reads s2 x.c c s3 →
    encode (.sel x) = some ((0x0C : BitVec 6) ++ x.st ++ x.d ++ x.a ++ x.b ++ x.c ++ (0 : BitVec 3)) ∧
    (a ≠ 0 → Produces s3 x.d b 1 t → exec (.sel x) s = .next (issued x.st t)) ∧
    (a = 0 → Produces s3 x.d c 1 t → exec (.sel x) s = .next (issued x.st t))

/-- O8. For every state and operand form. BEXT: bit j of the result is bit u(b) + j of a for j below u(c), else 0.
BINS, with pos = c[5:0] and len = c[12:6]: the bits of a from pos on, len of them or as many as there are, are those
of b from bit 0 on, the others a's (latency 2). A divide, with none of the slot under way, reads a and b, takes its
queue position and destination for the cycle of its result, and issues; its one result follows as a step of its own, 4
cycles later for a zero divisor or the overflow case and 4 plus half the dividend's significant bits later, rounded
up, otherwise: the quotient truncates toward zero and the remainder takes the sign of a; a zero divisor gives all ones
and a; the most negative number divided by −1 gives itself and remainder 0. While an earlier divide of the slot runs,
the word waits. (R53, R86, R100, R101, R108, R110) -/
def Obligations.BitFieldsAndDivides : Prop :=
  (∀ (x : RRRR) (s s1 s2 s3 : State) (a b c : W), Reads s x.a a s1 → Reads s1 x.b b s2 → Reads s2 x.c c s3 →
    let done (i : Instr) (r : W) : Prop := ∀ t, Produces s3 x.d r 2 t → exec i s = .next (issued x.st t)
    (∃ r, done (.bext x) r ∧ ∀ j, j < 64 → r.getLsbD j = (decide (j < c.toNat) && a.getLsbD (b.toNat + j))) ∧
    (∃ r, done (.bins x) r ∧ ∀ j, j < 64 →
      let pos := c.toNat % 64
      let len := c.toNat / 64 % 128
      r.getLsbD j = if pos ≤ j ∧ j < pos + len then b.getLsbD (j - pos) else a.getLsbD j)) ∧
  (∀ (x : RRR) (s s1 s2 : State) (a b : W), (∀ e ∈ s.events, ∀ r, e = .divideComplete r → r.h ≠ s.turn) →
    Reads s x.a a s1 → Reads s1 x.b b s2 →
    let extreme : Prop := a = 0x8000000000000000 ∧ b = BitVec.allOnes 64
    let done (i : Instr) (r : W) (cycles : Nat) : Prop :=
      ∀ tag dest t, Gives (reserveBy (s.tick + cycles) x.d) s2 (tag, dest) t →
        exec i s = .next (issued x.st (emit t (.divideComplete ⟨s.turn, tag, dest, r, s.tick + cycles⟩)))
    let cycles (m : Nat) : Nat := if b = 0 then 4 else 4 + (Nat.size m + 1) / 2
    (¬ extreme → done (.div x) (if b = 0 then BitVec.allOnes 64 else a.sdiv b) (cycles a.toInt.natAbs) ∧
      done (.rem x) (if b = 0 then a else a.srem b) (cycles a.toInt.natAbs)) ∧
      (extreme → done (.div x) a 4 ∧ done (.rem x) 0 4) ∧
      done (.divu x) (if b = 0 then BitVec.allOnes 64 else a / b) (cycles a.toNat) ∧
      done (.remu x) (if b = 0 then a else a % b) (cycles a.toNat)) ∧
  (∀ (x : RRR) (s : State) (r : Delivery), .divideComplete r ∈ s.events → r.h = s.turn →
    ∀ i ∈ [Instr.div x, .divu x, .rem x, .remu x], exec i s = .next { s with cur := unissued s.cur }) ∧
  (∀ (r : Delivery) (s : State), exec (.divideComplete r) s = .next (deliver s r))

/-- O9. For every state and every legal integer, bit or address word whose fields select no stream port: if it answers
a next state, that state differs from the one before in the executing slot only (every byte of memory and of every
pool, and every other unit and slot, is as it was), and of the slot only the queue, the named registers with what a
rollback would give them back, the iteration buffer, the counters of the advance, the group and RETIRED may differ;
the flags, STATUS, weight, trap registers, vector state and every other register of the slot are unchanged, and of the
named registers only the one that D selects may change. The shifts by an immediate are meant without a hint word (with
one they may trap). The divides may also put their result under way, and take a tag. (R88, R91, R93, R94, R95) -/
def Obligations.IntegerWordsChangeTheirSlotOnly : Prop :=
  let plain (f : Sel) : Prop := f.toNat < 24 ∨ 28 ≤ f.toNat
  let kept (d : Sel) (i : Instr) : Prop := ∀ s t, i.wf = true → plain d → exec i s = .next t →
    OnlySlot s t ∧ SlotFrame s.cur t.cur ∧ ∀ j, j < 8 → j + 16 ≠ d.toNat → nEntry t.cur j = nEntry s.cur j
  (∀ x : RRR, plain x.a → plain x.b →
    ∀ i ∈ [Instr.add x, .sub x, .mul x, .mulh x, .mulhu x, .and x, .or x, .xor x, .andn x, .orn x, .shl x, .shr x,
      .sar x, .rot x, .min x, .max x, .minu x, .maxu x, .cmpeq x, .cmpne x, .cmplt x, .cmpltu x, .cmple x, .cmpleu x],
      kept x.d i) ∧
  (∀ x : RR, plain x.a → ∀ i ∈ [Instr.abs x, .clz x, .ctz x, .pop x, .brev x], kept x.d i) ∧
  (∀ x : RI, plain x.a → ∀ i ∈ [Instr.addi x, .andi x, .ori x, .xori x, .cmplti x], kept x.d i) ∧
  (∀ x : RRRR, plain x.a → plain x.b → plain x.c → ∀ i ∈ [Instr.sel x, .bext x, .bins x], kept x.d i) ∧
  (∀ x : Mem, plain x.a → kept x.d (.lea x)) ∧ (∀ x : DI, kept x.d (.lim x)) ∧
  (∀ x : BitF, plain x.a → kept x.d (.bexti x)) ∧
  (∀ x : RI, plain x.a → plain x.d → ∀ i ∈ [Instr.shli x, .shri x, .sari x, .roti x], ∀ s t, i.wf = true →
    s.cur.hint = none → exec i s = .next t →
    OnlySlot s t ∧ SlotFrame s.cur t.cur ∧ ∀ j, j < 8 → j + 16 ≠ x.d.toNat → nEntry t.cur j = nEntry s.cur j) ∧
  (∀ x : RRR, plain x.a → plain x.b → plain x.d → ∀ i ∈ [Instr.div x, .divu x, .rem x, .remu x], ∀ s t, i.wf = true →
    exec i s = .next t →
    (∃ y evs tags, t = { s with cur := y, events := s.events ++ evs, tags := tags }) ∧ SlotFrame s.cur t.cur ∧
      ∀ j, j < 8 → j + 16 ≠ x.d.toNat → nEntry t.cur j = nEntry s.cur j)

/-- O10. For every state outside a REP body: a conditional branch reads a and then b and goes on, to the branch word's
address plus four times the displacement, or its 35-bit value with a hint word, if its condition holds, and otherwise
in sequence, with the next two words nullified if NUL is set; B, whose displacement a hint word extends to 46 bits, is
always taken; CALL produces the address of its word plus 12 in n7 and is taken; JR goes to a. Only the program
counters, the group and RETIRED change. JR to an a that is no 56-bit word address traps ALIGN with TINFO = a. In a REP
body each of them traps SLOT with its word. (R44, R48, R114, R115, R119, R120, R121, R137) -/
def Obligations.BranchesGoToTheirTarget : Prop :=
  (∀ (x : Br) (s s1 s2 : State) (a b : W), s.cur.rep = none → Reads s x.a a s1 → Reads s1 x.b b s2 →
    let target : Addr := s.cur.pc + 4 * (match s.cur.hint with
      | none => x.disp.signExtend 56
      | some k => (k ++ x.disp).signExtend 56)
    let goes (i : Instr) (taken : Bool) : Prop := ∃ t, exec i s = .next t ∧ Went s2 t taken (x.nul == 1) target
    goes (.beq x) (decide (a = b)) ∧ goes (.bne x) (decide (a ≠ b)) ∧ goes (.blt x) (decide (a.toInt < b.toInt)) ∧
      goes (.bge x) (decide (b.toInt ≤ a.toInt)) ∧ goes (.bltu x) (decide (a.toNat < b.toNat)) ∧
      goes (.bgeu x) (decide (b.toNat ≤ a.toNat))) ∧
  (∀ (x : BrL) (s : State), s.cur.rep = none →
    let target : Addr := s.cur.pc + 4 * (match s.cur.hint with
      | none => x.disp.signExtend 56
      | some k => (k ++ x.disp).signExtend 56)
    (∃ t, exec (.b x) s = .next t ∧ Went s t true false target) ∧
    (∀ u, Produces s 23 ((s.cur.pc + 12).zeroExtend 64) 1 u →
      ∃ t, exec (.call x) s = .next t ∧ Went u t true false target)) ∧
  (∀ (x : A1) (s s1 : State) (a : W), s.cur.rep = none → Reads s x.a a s1 →
    (a.toNat % 4 = 0 → a.toNat < 2 ^ 56 → ∃ t, exec (.jr x) s = .next t ∧ Went s1 t true false (a.setWidth 56)) ∧
    (a.toNat % 4 ≠ 0 ∨ 2 ^ 56 ≤ a.toNat → s.cur.launches = 0 → exec (.jr x) s = .next (trapped .align a s))) ∧
  (∀ (x : Br) (y : BrL) (z : A1) (s : State), s.cur.rep ≠ none → s.cur.launches = 0 →
    ∀ i ∈ [Instr.beq x, .bne x, .blt x, .bge x, .bltu x, .bgeu x, .b y, .call y, .jr z],
      ∃ w, encode i = some w ∧ exec i s = .next (trapped .slot (w.zeroExtend 64) s))

/-- O11. RGN.INC is the word of major 0x13 with D = n0 to n7, A = 0 and an IMM13; rgn.inc n4, #1 is 0x4C50_0001; D = 0
with IMM13 ≠ 0, and D outside n0 to n7, are illegal. v is the sign-extended IMM13, or the 39-bit value a hint word
makes of it. Outside delay slots and REP bodies, with the register ready, it sets d := d + v modulo 2^64 and commits,
in one step, and pushes nothing: in the state after it RSTART is the next word, the streams are checkpointed, the
queue is as it was, and a rollback to RSTART leaves the new value of d. In a delay slot or a REP body it traps SLOT.
(R127) -/
def Obligations.RgnIncCommitsItsAddition : Prop :=
  (decode 0x4C500001 = .ok (.rgnInc ⟨0, 20, 1⟩)) ∧
  (∀ x : DI, encode (.rgnInc x) = some ((0x13 : BitVec 6) ++ x.st ++ x.d ++ (0 : BitVec 5) ++ x.imm)) ∧
  (∀ (st : BitVec 3) (d : BitVec 5) (imm : BitVec 13),
    (d = 0 ∧ imm ≠ 0) ∨ (d ≠ 0 ∧ ¬ (16 ≤ d.toNat ∧ d.toNat < 24)) →
    ∃ e, decode ((0x13 : BitVec 6) ++ st ++ d ++ (0 : BitVec 5) ++ imm) = .error e) ∧
  (∀ (x : DI) (i : BitVec 3) (s : State), x.d = BitVec.ofNat 5 (16 + i.toNat) → InOpen s → (nEntry s.cur i.toNat).tag = 0 →
    let v : W := match s.cur.hint with
      | none => x.imm.signExtend 64
      | some k => (k ++ x.imm).signExtend 64
    let sum : W := (nEntry s.cur i.toNat).val + v
    ∃ u, exec (.rgnInc x) s = .next (rotateIfDue u) ∧ OnlySlot s u ∧ SlotFrame { s.cur with rstart := s.cur.npc, ckpt := s.cur.str } u.cur ∧
      u.cur.q = s.cur.q ∧ u.cur.pc = s.cur.npc ∧ u.cur.npc = s.cur.nnpc ∧ u.cur.nnpc = s.cur.nnpc + 4 ∧
      (∀ j, j < 8 → nEntry u.cur j = if j = i.toNat then ⟨sum, 0, 0⟩ else nEntry s.cur j) ∧
      (∀ keep tick, nEntry (rolledBack keep tick u.cur) i.toNat = ⟨sum, 0, 0⟩ ∧ (rolledBack keep tick u.cur).pc = s.cur.npc)) ∧
  (∀ (x : DI) (s : State), s.cur.rep ≠ none ∨ inDelaySlot s.cur = true → s.cur.launches = 0 →
    ∃ w, encode (.rgnInc x) = some w ∧ exec (.rgnInc x) s = .next (trapped .slot (w.zeroExtend 64) s))

/-- O12. For every state: RGN outside delay slots commits with RSTART at the next word and the streams checkpointed,
pushes nothing and changes nothing else (an L strand due for rotation is rotated next); in a delay slot or a REP body
it traps SLOT. NOP and ISYNC issue with no other effect. HINT and MODIFIER go on by one word, keep their field for the
instruction of their group, push nothing and are not counted in RETIRED. (R48, R49, R51, R122, R124, R126, R213) -/
def Obligations.RegionAndPrefixWords : Prop :=
  (∀ (x : N0) (s : State), InOpen s →
    ∃ u, exec (.rgn x) s = .next (rotateIfDue u) ∧ OnlySlot s u ∧
      SlotFrame { s.cur with rstart := s.cur.npc, ckpt := s.cur.str } u.cur ∧ u.cur.q = s.cur.q ∧ u.cur.n = s.cur.n ∧
      u.cur.pc = s.cur.npc ∧ u.cur.npc = s.cur.nnpc ∧ u.cur.nnpc = s.cur.nnpc + 4) ∧
  (∀ (x : N0) (s : State), s.cur.rep ≠ none ∨ inDelaySlot s.cur = true → s.cur.launches = 0 →
    ∃ w, encode (.rgn x) = some w ∧ exec (.rgn x) s = .next (trapped .slot (w.zeroExtend 64) s)) ∧
  (∀ (x : N0) (s : State), ∀ i ∈ [Instr.nop x, .isync x], ∃ t, exec i s = .next t ∧ OnlySlot s t ∧ SlotFrame s.cur t.cur ∧
    t.cur.q = s.cur.q ∧ t.cur.n = s.cur.n ∧ t.cur.pc = s.cur.npc ∧ t.cur.npc = s.cur.nnpc ∧
    t.cur.nnpc = s.cur.nnpc + 4 ∧ t.cur.retired = s.cur.retired + 1) ∧
  (∀ (x : Hint) (y : Modw) (s : State),
    let moved (i : Instr) (f : Slot → Prop) : Prop := ∃ t, exec i s = .next t ∧ OnlySlot s t ∧ SlotFrame s.cur t.cur ∧
      t.cur.q = s.cur.q ∧ t.cur.n = s.cur.n ∧ t.cur.pc = s.cur.npc ∧ t.cur.npc = s.cur.nnpc ∧
      t.cur.nnpc = s.cur.nnpc + 4 ∧ t.cur.retired = s.cur.retired ∧ f t.cur
    moved (.hint x) (fun z => z.hint = some x.kimm ∧ z.modw = s.cur.modw) ∧
      moved (.modifier y) (fun z => z.modw = some y ∧ z.hint = s.cur.hint))

/-- O13. For every state outside delay slots, with the count register ready: REP with a count of 0 commits with RSTART
past the body and the slot goes on there; with another count it commits with RSTART at its own group, and the body's
first word is next, with an empty iteration buffer. At the end of an iteration the count, or what the body wrote to
it, falls by one, the buffered values reach the named registers with the cycle from which each may be read, and the
streams are checkpointed; with a count left the body begins again with RSTART at the group, else the slot goes on past
the body with RSTART there. That end is the next step once the count is there and no FP result or trap of the
iteration is still to come; until then the slot waits. In a delay slot or a body REP traps SLOT. (R135, R136, R137) -/
def Obligations.RepRunsItsBodyTheCountedTimes : Prop :=
  (∀ (x : Rep) (i : BitVec 3) (s : State), x.a = BitVec.ofNat 5 (16 + i.toNat) → InOpen s → (nEntry s.cur i.toNat).tag = 0 →
    let body : Addr := s.cur.pc + 4
    let past : Addr := body + 4 * BitVec.ofNat 56 (x.len1.toNat + 1)
    ∃ t, exec (.rep x) s = .next t ∧ OnlySlot s t ∧ t.cur.n = s.cur.n ∧ t.cur.q = s.cur.q ∧ t.cur.ckpt = s.cur.str ∧
      ((nEntry s.cur i.toNat).val = 0 → t.cur.rep = none ∧ t.cur.pc = past ∧ t.cur.npc = past + 4 ∧
        t.cur.nnpc = past + 8 ∧ t.cur.rstart = past) ∧
      ((nEntry s.cur i.toNat).val ≠ 0 → t.cur.rstart = s.cur.gpc ∧ t.cur.pc = s.cur.npc ∧
        t.cur.rep = some ⟨s.cur.gpc, body, x.len1.toNat + 1, i, Vector.replicate 8 none⟩)) ∧
  (∀ (s : State) (r : Repeat), s.cur.rep = some r →
    let after (j : BitVec 3) : Entry := match r.buf[j.toNat]'j.isLt with
      | some e => e
      | none => nEntry s.cur j.toNat
    let count : W := (after r.reg).val - 1
    let t := repIteration s
    OnlySlot s t ∧ t.cur.q = s.cur.q ∧ t.cur.ckpt = s.cur.str ∧
      nEntry t.cur r.reg.toNat = { after r.reg with val := count } ∧
      (∀ j : BitVec 3, j ≠ r.reg → nEntry t.cur j.toNat = after j) ∧
      (count = 0 → t.cur.rep = none ∧ t.cur.pc = s.cur.pc ∧ t.cur.npc = s.cur.pc + 4 ∧ t.cur.rstart = s.cur.pc) ∧
      (count ≠ 0 → t.cur.rep = some { r with buf := Vector.replicate 8 none } ∧ t.cur.pc = r.body ∧
        t.cur.npc = r.body + 4 ∧ t.cur.rstart = r.group)) ∧
  (∀ (s : State) (r : Repeat), s.cur.rep = some r → s.cur.hint = none → s.cur.modw = none →
    s.cur.pc = r.body + 4 * BitVec.ofNat 56 r.len →
    let count : Entry := match r.buf[r.reg.toNat]'r.reg.isLt with
      | some e => e
      | none => nEntry s.cur r.reg.toNat
    (count.tag = 0 → fpPending s s.turn = false → step s = .next (repIteration s)) ∧
    (count.tag ≠ 0 ∨ fpPending s s.turn = true → s.cur.nullify = 0 → issueHart s = .next s)) ∧
  (∀ (x : Rep) (s : State), s.cur.rep ≠ none ∨ inDelaySlot s.cur = true → s.cur.launches = 0 →
    ∃ w, encode (.rep x) = some w ∧ exec (.rep x) s = .next (trapped .slot (w.zeroExtend 64) s))

/-- O14. For every state in which no group is under way, no end of an iteration comes first, and nothing waits or is
due, and the arbiter picks a hart that is not at a nullified word or the end of a body: when the words fetched at its
PC pass every check made before a group issues and the first decodes to i, and the sources of its group are ready,
and, for a committing word, no FP result or trap of the region is to come, the step is that of i on that hart, and a
cycle passes; until then the word waits. A group that has waited behind its prefix words tries again its last word
alone, with what those words hold, as they have had their cycles. When the word of an H slot waits at issue, the L
slot of its core issues in that cycle; in a freeze a hart whose word waits at issue stops. Inside a group the same
holds of the word at PC, once no result is due that can arrive and no store that can perform: those come first, the
oldest first, with no cycle passing. At a nullified word the slot goes on by one word with no other effect and NULLIFY
one less. The model's own choices: an operation in flight whose cycle has come runs before any word, the oldest first,
as the constructor of its name, with no cycle passing (log entry 4), the words before the last of a group that waits
issue once (log entry 106), and a hart whose word waits in a freeze stops (log entry 65). (R50, R51, R53, R54, R71,
R115, R161, R375) -/
def Obligations.AStepRunsTheDecodedWord : Prop :=
  (∀ (s : State) (h : HartId) (rest : List HartId) (g : Group) (i : Instr), s.cur.hint = none → s.cur.modw = none →
    (atBodyEnd s.cur = true → iterationWaits s = true) → nextEvent s.tick s.events = none → inputDue s = none →
    dueEvent s = none → pickHart s = some (h, rest) →
    let u : State := { switchTo s h with arbiter := rest }
    let m : State := { u with cur := markGroup u.cur }
    u.cur.nullify = 0 → atBodyEnd u.cur = false → fetchGroup m = .inl g → groupTrap m g.words = none →
    let v := holdSources g.state g.words
    let behind : Prop := v.cur.paid = some v.cur.pc ∧ 2 ≤ g.words.length
    let b := if behind then behindPrefixes v g.words else v
    (v.tick < v.cur.earliest → step s = cycleOf m (.next (holdUnissued m v))) ∧
    (decode (if behind then g.words.getLastD 0 else g.words.headD 0) = .ok i → v.cur.earliest ≤ v.tick →
      ((commits i = true → fpPending b b.turn = false) →
        step s = cycleOf m (match exec i b with
          | .next t => .next (holdUnissued b t)
          | .fault f => .fault f
          | .refused r => .refused r)) ∧
      (commits i = true → fpPending b b.turn = true →
        step s = cycleOf m (.next (holdUnissued b { b with cur := unissued b.cur }))))) ∧
  (∀ (s : State) (ws : List Word32) (h : Option (BitVec 26)) (w : Option Modw) (i : Instr),
    groupLegal (kindOf s.turn) ws = .ok (h, w, i) →
    OnlySlot s (behindPrefixes s ws) ∧ (behindPrefixes s ws).cur.hint = h ∧ (behindPrefixes s ws).cur.modw = w ∧
      (behindPrefixes s ws).cur.q = s.cur.q ∧ (behindPrefixes s ws).cur.n = s.cur.n ∧
      (behindPrefixes s ws).cur.gpc = s.cur.gpc ∧ (behindPrefixes s ws).cur.retired = s.cur.retired ∧
      (ws.length = 2 → (behindPrefixes s ws).cur.pc = s.cur.npc) ∧
      (ws.length = 3 → (behindPrefixes s ws).cur.pc = s.cur.nnpc)) ∧
  (∀ x : Slot, x.hint.isSome || x.modw.isSome = true → (unissued x).pc = x.gpc ∧ (unissued x).npc = x.gnpc ∧
    (unissued x).nnpc = x.gnnpc ∧ (unissued x).hint = none ∧ (unissued x).modw = none ∧ (unissued x).paid = some x.gpc) ∧
  (∀ (m t : State), heldBack m t = false ∨ kindOf m.turn ≠ .core ∨ isH m.turn = false →
    cycleOf m (.next t) = .next (tickOne t)) ∧
  (∀ (m t : State), kindOf m.turn = .core → isH m.turn = true → heldBack m t = true →
    canIssue t (m.turn ^^^ 4096) = true → ∀ w, issueHart (switchTo t (m.turn ^^^ 4096)) = .next w →
    cycleOf m (.next t) = .next (tickOne w)) ∧
  (∀ (s : State) (e : Event) (rest : List Event), s.cur.hint.isSome || s.cur.modw.isSome = true →
    nextResult s.tick s.events = some (e, rest) → step s = runEvent e { s with events := rest }) ∧
  (∀ (tick : Nat) (early rest : List Event) (e : Event),
    let comes (x : Event) : Prop := eventDue x ≤ tick ∧ ((∃ r, resultOf x = some r) ∨ ∃ r, x = .storePerform r)
    (∀ x ∈ early, ¬ comes x) → comes e → nextResult tick (early ++ e :: rest) = some (e, early ++ rest)) ∧
  (∀ (s v : State) (w : Word32) (i : Instr), s.cur.hint.isSome || s.cur.modw.isSome = true →
    nextResult s.tick s.events = none → fetchWord s s.cur.pc = .word w v → decode w = .ok i → (commits i = true → fpPending v v.turn = false) →
    step s = cycleOf s (match exec i v with
      | .next t => .next (holdUnissued v t)
      | .fault f => .fault f
      | .refused r => .refused r)) ∧
  (∀ (s : State), s.cur.nullify ≠ 0 → ∃ t, issueHart s = .next t ∧ t.cur.pc = s.cur.npc ∧ t.cur.npc = s.cur.nnpc ∧
    t.cur.nnpc = s.cur.nnpc + 4 ∧ t.cur.nullify = s.cur.nullify - 1 ∧ t.cur.retired = s.cur.retired ∧
    t.cur.q = s.cur.q ∧ t.cur.n = s.cur.n ∧ SlotFrame s.cur t.cur ∧ t.mem = s.mem ∧ t.pools = s.pools) ∧
  (∀ (s : State) (e : Event) (rest : List Event), s.cur.hint = none → s.cur.modw = none →
    (atBodyEnd s.cur = true → iterationWaits s = true) → nextEvent s.tick s.events = some (e, rest) →
    step s = runEvent e { s with events := rest }) ∧
  (∀ (tick : Nat) (early rest : List Event) (e : Event), (∀ x ∈ early, tick < eventDue x) → eventDue e ≤ tick →
    nextEvent tick (early ++ e :: rest) = some (e, early ++ rest))

/-- O15. For every state and destination: CSRRD produces, with latency 2 and in both modes, the value of the register
named: STATUS with SUP, CHECKSTALL, FPTE, RMODE and PRIO in their places, FPFLAGS (the flags of every result written
by now), WCUR, CTX, SEED, PARTW, PBASE, GEOM, TCAUSE, TINFO, TPC, RSTART, HLIMIT, PHCNT (counting while a phase is
open, and saturating), PHEXP, PHMARGIN, PHSLACK, PHOPEN, ACCOWN, LEASE (CYC falling while the lease is held, and HELD
reading 0 once CYC is 0), VLANES, CYCLE, RETIRED and STALLCNT. Any other number traps ILLEGAL. (R26, R27, R28, R29,
R30, R31, R32, R81, R377) -/
def Obligations.SpecialRegistersRead : Prop :=
  ∀ (s : State) (st : BitVec 3) (d : Sel),
    let x := s.cur
    let k := coreOf s (agentOf s.turn)
    let gives (n : BitVec 11) (v : W) : Prop := ∀ t, Produces s d v 2 t → exec (.csrrd ⟨st, d, n⟩) s = .next (issued st t)
    let bit (b : Bool) : BitVec 1 := BitVec.ofBool b
    gives 0x000 ((0 : BitVec 48) ++ bit x.sup ++ bit x.checkstall ++ x.fpte ++ x.rmode ++ bit (isH s.turn) ++ (0 : BitVec 5)) ∧
      gives 0x001 ((x.flagsDue.foldl (fun f q => if q.cycle ≤ s.tick then f ||| q.flags else f) x.fpflags).zeroExtend 64) ∧ gives 0x002 (x.wcur.zeroExtend 64) ∧ gives 0x003 (x.ctx.zeroExtend 64) ∧
      gives 0x004 x.seed ∧ gives 0x005 (x.partw.zeroExtend 64) ∧ gives 0x006 (x.pbase.zeroExtend 64) ∧ gives 0x008 x.geom ∧
      gives 0x010 (x.tcause.zeroExtend 64) ∧ gives 0x011 x.tinfo ∧ gives 0x012 (x.tpc.zeroExtend 64) ∧
      gives 0x013 (x.rstart.zeroExtend 64) ∧ gives 0x018 (k.hlimit.zeroExtend 64) ∧
      gives 0x020 (if x.phopen then BitVec.ofNat 64 (min (x.phcnt.toNat + (s.clock - x.phAt)) 0xFFFFFFFF)
        else x.phcnt.zeroExtend 64) ∧
      gives 0x021 (x.phexp.zeroExtend 64) ∧ gives 0x022 (x.phmargin.zeroExtend 64) ∧
      gives 0x023 (x.phslack.zeroExtend 64) ∧ gives 0x024 ((0 : BitVec 63) ++ bit x.phopen) ∧ gives 0x028 k.accown ∧
      (let left := x.lease.cyc.toNat - (s.clock - x.lease.since)
       gives 0x029 ((0 : BitVec 35) ++ bit (x.lease.held && decide (left ≠ 0)) ++ (0 : BitVec 5) ++ x.lease.cmds ++
        (0 : BitVec 5) ++ (if x.lease.held then BitVec.ofNat 11 left else x.lease.cyc))) ∧
      gives 0x02A (x.vlanes.zeroExtend 64) ∧ gives 0x030 (BitVec.ofNat 64 s.tick) ∧ gives 0x031 x.retired ∧
      gives 0x032 (x.stallcnt.zeroExtend 64) ∧
      ∀ n : BitVec 11, n ∉ [0x000, 0x001, 0x002, 0x003, 0x004, 0x005, 0x006, 0x008, 0x010, 0x011, 0x012, 0x013, 0x018, 0x020,
          0x021, 0x022, 0x023, 0x024, 0x028, 0x029, 0x02A, 0x030, 0x031, (0x032 : BitVec 11)] → x.launches = 0 →
        exec (.csrrd ⟨st, d, n⟩) s = .next (trapped .illegal (illegalInfo (encode (.csrrd ⟨st, d, n⟩)) x) s)

/-- O16. For every state where a committing word may stand: when the mode may write the register, CSRWR, CSRSET and
CSRCLR read a, write a, old OR a, or old AND NOT a, produce the old value with latency 2 and commit. In user mode a
register other than STATUS, FPFLAGS and GEOM traps PROTECT with its number; an unassigned number traps ILLEGAL. A
write changes no other register as it reads, and gives the register the low bits of its width: STATUS only CHECKSTALL,
FPTE and RMODE (5 to 7 leave RMODE), GEOM nothing if CW would be 0 or above 8, PARTW bits 28 to 0, HLIMIT and ACCOWN
on a core; WCUR, LEASE, VLANES, CYCLE and RETIRED discard it. Before a phase register is written, a phase that has
overrun has its message sent. The model's own: a write of ACCOWN waits while a matrix command of the core is in flight
(log entry 79), PBASE reads back all 18 bits written (log entry 85), and the commit of the word itself overwrites what
it writes to RSTART (log entry 20). (R11, R26, R27, R29, R30, R32, R81, R124, R303, R446) -/
def Obligations.SpecialRegistersWrite : Prop :=
  (∀ (x : CsrW) (s s1 t : State) (a old new : W), MayCommit s → s.cur.sup = true ∨ x.csr = 0 ∨ x.csr = 1 ∨ x.csr = 8 →
    csrRead s x.csr = some old → Reads s x.a a s1 →
    (x.csr = 0x028 → kindOf s1.turn = .core → coreBusy s1 (agentOf s1.turn) = false) →
    let s2 := if 0x020 ≤ x.csr.toNat ∧ x.csr.toNat ≤ 0x024 ∧ phaseOver s1 s1.cur = true then sendOverrun s1 s1.turn else s1
    Produces (csrWrite s2 x.csr new) x.d old 2 t →
    (new = a → exec (.csrwr x) s = .next (committed x.st t)) ∧
      (new = old ||| a → exec (.csrset x) s = .next (committed x.st t)) ∧
      (new = old &&& ~~~a → exec (.csrclr x) s = .next (committed x.st t))) ∧
  (∀ (x : CsrW) (s s1 : State) (a : W), MayCommit s → s.cur.sup = true → x.csr = 0x028 → Reads s x.a a s1 →
    kindOf s1.turn = .core → coreBusy s1 (agentOf s1.turn) = true →
    ∀ i ∈ [Instr.csrwr x, .csrset x, .csrclr x], exec i s = .next { s with cur := unissued s.cur }) ∧
  (∀ (x : CsrW) (s : State), MayCommit s → s.cur.launches = 0 →
    ∀ i ∈ [Instr.csrwr x, .csrset x, .csrclr x],
      (csrRead s x.csr = none → exec i s = .next (trapped .illegal (illegalInfo (encode i) s.cur) s)) ∧
      (csrRead s x.csr ≠ none → s.cur.sup = false → x.csr ≠ 0 → x.csr ≠ 1 → x.csr ≠ 8 →
        exec i s = .next (trapped .protect (x.csr.zeroExtend 64) s))) ∧
  (∀ (s : State) (n m : BitVec 11) (w : W), n ≠ m → csrRead (csrWrite s n w) m = csrRead s m) ∧
  (∀ (s : State) (w : W),
    let reads (n : BitVec 11) (v : W) : Prop := csrRead (csrWrite s n w) n = some v
    (∀ n ∈ [0x002, 0x029, 0x02A, 0x030, (0x031 : BitVec 11)], csrWrite s n w = s) ∧
    (csrWrite s 0 w).cur = { s.cur with
      checkstall := w.getLsbD 14
      fpte := w.extractLsb' 9 5
      rmode := if (w.extractLsb' 6 3).toNat < 5 then w.extractLsb' 6 3 else s.cur.rmode } ∧
    reads 0x001 ((w.setWidth 5).setWidth 64) ∧ reads 0x003 ((w.setWidth 16).setWidth 64) ∧ reads 0x004 w ∧
    reads 0x005 ((w.setWidth 29).setWidth 64) ∧ reads 0x006 ((w.setWidth 18).setWidth 64) ∧
    reads 0x008 (if (w.extractLsb' 48 4).toNat = 0 ∨ 8 < (w.extractLsb' 48 4).toNat then s.cur.geom
      else (w.setWidth 52).setWidth 64) ∧
    reads 0x010 ((w.setWidth 8).setWidth 64) ∧ reads 0x011 w ∧ reads 0x012 ((w.setWidth 56).setWidth 64) ∧
    reads 0x013 ((w.setWidth 56).setWidth 64) ∧ reads 0x020 ((w.setWidth 32).setWidth 64) ∧
    reads 0x021 ((w.setWidth 32).setWidth 64) ∧ reads 0x022 ((w.setWidth 8).setWidth 64) ∧
    reads 0x023 ((w.setWidth 32).setWidth 64) ∧ reads 0x024 ((w.setWidth 1).setWidth 64) ∧
    reads 0x032 ((w.setWidth 32).setWidth 64) ∧
    (kindOf s.turn = .core → reads 0x018 ((w.setWidth 32).setWidth 64) ∧ reads 0x028 ((w.setWidth 17).setWidth 64)))

/-- O17. For every state, every compute slot in user mode and every cause but PREEMPT, once the results of the slot's
committed loads and divides are in (with memories in canonical form): TCAUSE is the cause's code with ABORT 0, TINFO
the detail, TPC the group given (RSTART where none is), SUP is 1, the queue and n1 to n7 are 0, n0 is the pool offset
of the slot's save area, and the slot goes on at TENTRY of its die. Bytes 0x000 to 0x0FF of the save area hold the
registers (those whose newest write has not taken effect by now as they were before it, which is the model's reading
of R131, log entry 105), RSTART, the status fields, WCUR, LEASE, the phase and the streams at their checkpoint. The
claim and vector state, lease, weight, phase and context of the slot stay, FPFLAGS takes the flags of committed
results and of those written by now and of no other, and so does every other pool byte and all of memory. (R36, R131,
R158, R423, R426, R427) -/
def Obligations.TakingATrapInUserMode : Prop :=
  ∀ (s : State) (h : HartId) (c : Cause) (info : W) (tpc : Option Addr), (deliverCommitted s h).memOk = true →
    kindOf h = .core → (slotOf s h).sup = false → c ≠ .preempt →
    let d := deliverCommitted s h
    let x := slotOf d h
    let flags := x.flagsDue.foldl (fun f q => if q.cycle ≤ s.tick ∨ q.uncommitted = false then f ||| q.flags else f) x.fpflags
    let t := takeTrap s h c info tpc
    let y := slotOf t h
    let off := x.pbase.toNat + if isH h then 0 else 1024 + vmaxOf x.partw * 2048
    let entry := (dieOf s (dieOfAgent (agentOf h))).tentry
    y.tcause = BitVec.ofNat 8 (causeCode c) ∧ y.tinfo = info ∧ y.tpc = tpc.getD x.rstart ∧ y.sup = true ∧ y.pc = entry ∧
      y.npc = entry + 4 ∧ y.nnpc = entry + 8 ∧ (∀ j, j < 16 → qEntry y j = ⟨0, 0, 0⟩) ∧
      nEntry y 0 = ⟨BitVec.ofNat 64 off, 0, 0⟩ ∧ (∀ j, 0 < j → j < 8 → nEntry y j = ⟨0, 0, 0⟩) ∧ y.nullify = 0 ∧
      y.hint = none ∧ y.modw = none ∧ y.rep = none ∧ inDelaySlot y = false ∧ y.traps = x.traps + 1 ∧
      y.rollbacks = x.rollbacks + 1 ∧
      poolRead t (agentOf h) off 256 =
        saveBytes { x with str := x.ckpt, fpflags := flags, n := withoutLate x.late s.tick x.n } s.clock ∧
      (∀ p, p < poolKey (agentOf h) off ∨ poolKey (agentOf h) off + 256 ≤ p → memGet t.pools p = memGet d.pools p) ∧
      t.mem = d.mem ∧ y.wcur = x.wcur ∧ y.ctx = x.ctx ∧ y.fpflags = flags ∧ y.flagsDue = [] ∧ y.fpTraps = [] ∧ y.vlanes = x.vlanes ∧ y.v = x.v ∧
      y.m = x.m ∧ y.lease = x.lease ∧ y.phcnt = x.phcnt ∧ y.phAt = x.phAt ∧ y.phopen = x.phopen ∧ y.rmode = x.rmode ∧
      y.fpte = x.fpte ∧ y.checkstall = x.checkstall ∧ y.crec = x.crec ∧ y.partw = x.partw ∧ y.pbase = x.pbase ∧
      y.byPreempt = false ∧ (d.ctxs = t.ctxs ∧ d.module = t.module)

/-- O18. For every state, every compute slot in user mode outside a handler, and every cause but PREEMPT, once the
results of the slot's committed loads and divides are in (with memories in canonical form): when nothing changes
between the entry and the return, the return leaves the slot in user mode at its RSTART, with n0 to n7 as the rollback
left them (none awaited, and those whose newest write had not taken effect as they were before it, the model's
reading, log entry 105), an empty queue, the streams at their checkpoint, and STATUS, WCUR, the phase, the lease, the
claim and the vector state as they were, and FPFLAGS with the flags of every result written by then. TRET in
supervisor mode outside delay slots with ABORT clear is that return; where the save area of a compute slot is poisoned
it traps MEMERR instead (the model's choice, log entry 80); in user mode it traps PROTECT with its word, in a delay
slot or a REP body SLOT. (R33, R36, R131, R133, R344, R426, R433) -/
def Obligations.TrapThenReturn : Prop :=
  (∀ (s : State) (h : HartId) (c : Cause) (info : W) (tpc : Option Addr), (deliverCommitted s h).memOk = true →
    kindOf h = .core → (slotOf s h).sup = false → (slotOf s h).inTrap = false → c ≠ .preempt →
    let x₀ := slotOf (deliverCommitted s h) h
    let x : Slot := { x₀ with n := withoutLate x₀.late s.tick x₀.n }
    let y := slotOf (trapReturn (takeTrap s h c info tpc) h) h
    y.sup = false ∧ y.inTrap = false ∧ y.pc = x.rstart ∧ y.npc = x.rstart + 4 ∧ y.nnpc = x.rstart + 8 ∧
      y.rstart = x.rstart ∧ (∀ j, j < 8 → nEntry y j = ⟨(nEntry x j).val, 0, 0⟩) ∧
      (∀ j, j < 16 → qEntry y j = ⟨0, 0, 0⟩) ∧ y.rep = none ∧
      (∀ p : Fin 4, y.str[p] = if x.ckpt[p].bound then x.ckpt[p] else Stream.closed) ∧ y.ckpt = y.str ∧
      y.rmode = x.rmode ∧ y.fpte = x.fpte ∧ y.checkstall = x.checkstall ∧ y.fpflags = fpflagsKept x s.tick ∧ y.wcur = x.wcur ∧
      y.phexp = x.phexp ∧ y.phmargin = x.phmargin ∧ y.phslack = x.phslack ∧ y.phcnt = x.phcnt ∧ y.phAt = x.phAt ∧
      y.phopen = x.phopen ∧ y.lease = x.lease ∧ y.vlanes = x.vlanes ∧ y.v = x.v ∧ y.m = x.m ∧ y.ctx = x.ctx ∧
      y.crec = x.crec) ∧
  (∀ (x : N0) (s : State), s.cur.sup = true → InOpen s → s.cur.tcause.getLsbD 7 = false →
    let off := s.cur.pbase.toNat + if isH s.turn then 0 else 1024 + vmaxOf s.cur.partw * 2048
    (kindOf s.turn ≠ .core ∨ poisonedPool s (agentOf s.turn) off 256 = false →
      exec (.tret x) s = .next (trapReturn (issued x.st s) s.turn)) ∧
    (kindOf s.turn = .core → poisonedPool s (agentOf s.turn) off 256 = true → s.cur.launches = 0 →
      exec (.tret x) s = .next (trapped .memerr (BitVec.ofNat 64 off) s))) ∧
  (∀ (x : N0) (s : State), s.cur.launches = 0 → ∃ w, encode (.tret x) = some w ∧
    (s.cur.sup = false → exec (.tret x) s = .next (trapped .protect (w.zeroExtend 64) s)) ∧
    (s.cur.sup = true → ¬ InOpen s → exec (.tret x) s = .next (trapped .slot (w.zeroExtend 64) s)))

/-- O19. With no LAUNCH status awaited, BRK takes BREAK with its word and commits nothing; TRAP commits and takes
SYSCALL with TINFO = a; an illegal word takes ILLEGAL with the word and the prefix before it, a group not fetched its
cause. A trap of a compute slot in supervisor mode, and one of a clerk in its handler, freezes the module, if not
frozen, with code 1 or 2, which CRASHREG of every die holds in bits 39 to 32 (of every die, not of one: the model's
choice, log entry 56); the hart stops at the first word of its group, and compute slots in supervisor mode stop. A
trap of a clerk outside its handler saves bytes 0x000 to 0x0FF in its save SRAM (registers as log entry 105 reads
them), sets TCAUSE, TINFO and TPC, zeroes the queue and n0 to n7 and starts at CENTRY. A trap of an engine ends a job
that runs: status 2 and the address for MEMERR at an address not behind a DEAD port, 3 and the address for an access
that a constant page refuses (a queue operation whose ring page is constant is refused late, with PROTECT 1), else 1
with cause and TINFO. (R69, R70, R122, R133, R340, R386, R426, R430, R431, R439, R443, R453) -/
def Obligations.ExceptionsOfWordsAndOtherModes : Prop :=
  (∀ (x : N0) (s : State), s.cur.launches = 0 → ∃ w, encode (.brk x) = some w ∧
    exec (.brk x) s = .next (trapped .brk (w.zeroExtend 64) s)) ∧
  (∀ (x : A1) (s s1 : State) (a : W), MayCommit s → Reads s x.a a s1 → s1.cur.launches = 0 →
    exec (.trap x) s = .next (trapped .syscall a (committed x.st s1)) ∧ (committed x.st s1).cur.rstart = s1.cur.npc) ∧
  (∀ (w before : Word32) (s : State), s.cur.launches = 0 →
    exec (.illegal w before) s = .next (trapped .illegal (before ++ w) s)) ∧
  (∀ (c : Cause) (info : W) (s : State), s.cur.launches = 0 → exec (.fetchFault c info) s = .next (trapped c info s)) ∧
  (∀ (s : State) (h : HartId) (c : Cause) (info : W) (tpc : Option Addr), s.module.frozen = none →
    let t := takeTrap s h c info tpc
    let x := slotOf s h
    let crash (code : BitVec 8) : Prop := t.module.frozen = some code ∧ t.mem = s.mem ∧ t.pools = s.pools ∧
      (slotOf t h).stopped = true ∧ (slotOf t h).hint = none ∧ (slotOf t h).modw = none ∧
      (slotOf t h).pc = (if x.hint.isSome || x.modw.isSome then x.gpc else x.pc) ∧
      (∀ k, k ≠ h → (slotOf t k).pc = (slotOf s k).pc ∧
        (slotOf t k).stopped = ((slotOf s k).stopped || ((slotOf s k).sup && kindOf k == .core))) ∧ ∀ d, d < 4 → (dieOf t d).crashreg.extractLsb' 32 8 = code ∧
        (dieOf t d).crashreg.extractLsb' 0 32 = (dieOf s d).crashreg.extractLsb' 0 32
    (kindOf h = .core → x.sup = true → crash 1) ∧
    (kindOf h = .clerk → x.inTrap = true → crash 2)) ∧
  (∀ (s : State) (h : HartId) (c : Cause) (info : W) (tpc : Option Addr), kindOf h = .clerk → (slotOf s h).inTrap = false →
    let d := deliverCommitted s h
    let x := slotOf d h
    let t := takeTrap s h c info tpc
    let y := slotOf t h
    let entry := (dieOf s (dieOfAgent (agentOf h))).centry
    memRead y.save 0 256 = saveBytes
        { x with str := x.ckpt, fpflags := fpflagsKept x s.tick, n := withoutLate x.late s.tick x.n } s.clock ∧
      y.tcause = BitVec.ofNat 8 (causeCode c) ∧
      y.tinfo = info ∧ y.tpc = tpc.getD x.rstart ∧ y.sup = true ∧ y.inTrap = true ∧ y.pc = entry ∧ y.npc = entry + 4 ∧
      y.nnpc = entry + 8 ∧ (∀ j, j < 16 → qEntry y j = ⟨0, 0, 0⟩) ∧ (∀ j, j < 8 → nEntry y j = ⟨0, 0, 0⟩) ∧
      t.mem = d.mem ∧ t.pools = d.pools) ∧
  (∀ (s : State) (h : HartId) (c : Cause) (info : W) (tpc : Option Addr) (at_ : Addr),
    (kindOf h = .porter ∨ kindOf h = .carter) → h.toNat < 4096 →
    let d := engineAt (deliverCommitted s h) (agentOf h)
    d.ending = none → d.running ≠ none →
    let addr : W := info &&& 0x00FFFFFFFFFFFFFF
    let dead : Bool := behindDead s h addr.toNat
    let e := engineAt (takeTrap s h c info tpc) (agentOf h)
    let r := engineAt (takeRefusal s h info at_) (agentOf h)
    e.running = d.running ∧ (slotOf (takeTrap s h c info tpc) h).wfi = some 0 ∧
      (c = .memerr → dead = false → e.ending = some (2, 0, addr)) ∧
      (let ring : Prop := c = .protect ∧ info = accessInfo 1 true 2 (info.setWidth 56)
       (ring → e.ending = some (3, 0, addr)) ∧
         ((c ≠ .memerr ∨ dead = true) → ¬ ring → e.ending = some (1, BitVec.ofNat 8 (causeCode c), info))) ∧
      r.running = d.running ∧ r.ending = some (3, 0, addr))

/-- O20. For every state and every compute slot in user mode whose claim fits its partition, with the save area inside
the pool, once the results of the slot's committed loads and divides are in (with memories in canonical form): a
PREEMPT writes bytes 0x000 to 0x0FF (registers as log entry 105 reads them), the mask bits and the lanes below VLANES
and the zeros of bytes 0x180 to 0x3FF to the save area, releases the claim and the lease, sets TPC to RSTART, closes
the phase of the slot (the model's choice, log entry 76), and starts the slot at TENTRY. The expiry of a time slice
raises it with TINFO 1 in a slot that may take it, and does nothing in another; a request raises it with TINFO 0 in
the named slot of either class that runs the context, and the request of a slot in supervisor mode, held or awaiting
lanes stays. A slot with a matrix command in flight, with a store not yet acknowledged or with a contribution in the
combining tree takes no PREEMPT: the last two are the model's reading of R134 and R301 (log entry 74). (R33, R36, R37,
R134, R379, R424, R426, R433) -/
def Obligations.PreemptionSavesTheWholeSlot : Prop :=
  (∀ (s : State) (h : HartId) (info : W), (deliverCommitted s h).memOk = true → kindOf h = .core → (slotOf s h).sup = false →
    let x := slotOf (deliverCommitted s h) h
    let t := takeTrap s h .preempt info none
    let y := slotOf t h
    let off := x.pbase.toNat + if isH h then 0 else 1024 + vmaxOf x.partw * 2048
    x.vlanes.toNat ≤ 32 * vmaxOf x.partw → x.vlanes.toNat ≤ 256 → off + 1024 + 2048 * vmaxOf x.partw ≤ 2 ^ 18 →
    y.tcause = 0x14 ∧ y.tinfo = info ∧ y.tpc = x.rstart ∧ y.sup = true ∧ y.byPreempt = true ∧
      y.pc = (dieOf s (dieOfAgent (agentOf h))).tentry ∧ y.vlanes = 0 ∧ y.v = [] ∧ y.lease.held = false ∧ y.phopen = false ∧
      y.preempts = x.preempts + 1 ∧
      poolRead t (agentOf h) off 256 = saveBytes
        { x with str := x.ckpt, fpflags := fpflagsKept x s.tick, n := withoutLate x.late s.tick x.n } s.clock ∧
      poolRead t (agentOf h) (off + 0x180) 0x280 = List.replicate 0x280 0 ∧
      (∀ (i : Fin 4) (j : Nat), j < x.vlanes.toNat →
        (BitVec.ofNat 256 (leNat (poolRead t (agentOf h) (off + 0x100 + 32 * i.val) 32))).getLsbD j = x.m[i].getLsbD j) ∧
      (∀ i j, i < 16 → j < x.vlanes.toNat →
        poolRead t (agentOf h) (off + 0x400 + i * vmaxOf x.partw * 128 + 4 * j) 4 =
          natBytes 4 (mapGet 0 x.v (laneKey i j)).toNat)) ∧
  (∀ (h : HartId) (s : State), (preemptible s h = true → exec (.timeSliceExpiry h) s = .next (takeTrap s h .preempt 1 none)) ∧
    (preemptible s h = false → exec (.timeSliceExpiry h) s = .next s)) ∧
  (∀ (core : Nat) (cls : Bool) (payload : W) (s : State), core < 2048 →
    (slotOf s (hartOf core !cls)).request ≠ some payload →
    (slotOf s (hartOf core cls)).request = some payload →
    let h := hartOf core cls
    let x := slotOf s h
    (runsStrand x (payload.setWidth 16) = true → preemptible s h = true →
      exec (.preemptRequest core payload) s = .next (takeTrap (setSlot s h { x with request := none }) h .preempt 0 none)) ∧
    (runsStrand x (payload.setWidth 16) = true → preemptible s h = false → exec (.preemptRequest core payload) s = .next s) ∧
    (runsStrand x (payload.setWidth 16) = false →
      exec (.preemptRequest core payload) s = .next (setSlot s h { x with request := none }))) ∧
  (∀ (h : HartId) (s : State), matrixBusy s h = true ∨ unacknowledged s h = true ∨ combining s h = true → preemptible s h = false) ∧
  (∀ (h : HartId) (s : State), exec (.preemptHoldExpiry h) s = .next (setSlot s h { slotOf s h with hold := none }))

/-- O21. For every state: in supervisor mode outside delay slots WFI stops the slot's issue until it is woken, at the
latest 65,536 cycles on, with the program counters at the next word and nothing pushed; in user mode it traps PROTECT,
in a delay slot SLOT; a wake lets the slot issue again. PERF produces the counter that a names, with latency 2, and 0
for a number no row names; 9 and 10 grow by free amounts (log entry 16). An H run beyond HLIMIT takes PHASE_OVERRUN
once, with the run's cycles in TINFO. A phase that overruns has its home mint a unit for a message on channel 3, once
a phase. (R32, R70, R88, R243, R377, R434) -/
def Obligations.WaitingCountersAndPhaseEvents : Prop :=
  (∀ (x : N0) (s : State), s.cur.sup = true → InOpen s → ∃ t, exec (.wfi x) s = .next t ∧ OnlySlot s t ∧
    t.cur.wfi = some (s.tick + 65536) ∧ SlotFrame { s.cur with wfi := some (s.tick + 65536) } t.cur ∧ t.cur.q = s.cur.q ∧
    t.cur.n = s.cur.n ∧ t.cur.pc = s.cur.npc ∧ canIssue t t.turn = false) ∧
  (∀ (x : N0) (s : State), s.cur.launches = 0 → ∃ w, encode (.wfi x) = some w ∧
    (s.cur.sup = false → exec (.wfi x) s = .next (trapped .protect (w.zeroExtend 64) s)) ∧
    (s.cur.sup = true → ¬ InOpen s → exec (.wfi x) s = .next (trapped .slot (w.zeroExtend 64) s))) ∧
  (∀ (h : HartId) (s : State), exec (.wfiWake h) s = .next (setSlot s h { slotOf s h with wfi := none })) ∧
  (∀ (x : RR) (s s1 t : State) (a v : W), Reads s x.a a s1 →
    let s2 := openCounts a s1
    let k := coreOf s2 (agentOf s2.turn)
    (v = match a.toNat with
      | 0 => BitVec.ofNat 64 s2.tick | 1 => s2.cur.retired | 2 => s2.cur.stallcnt.zeroExtend 64 | 3 => s2.cur.traps
      | 4 => s2.cur.rollbacks | 5 => s2.cur.preempts | 6 => k.spilledTiles | 7 => k.accepted | 8 => k.l1miss
      | 9 => s2.cur.niWaits | 10 => k.undriven | _ => 0) →
    Produces s2 x.d v 2 t → exec (.perf x) s = .next (issued x.st t)) ∧
  (∀ (h : HartId) (s : State),
    let x := slotOf s h
    exec (.phaseOverrun h) s = .next (takeTrap (setSlot s h { x with hltaken := true }) h .phaseOverrun
      (BitVec.ofNat 64 (s.clock - x.runAt)) none) ∧
    exec (.phaseOverrunMessage h) s = .next (emit (setSlot s h { x with phsent := true })
      (.homeWeightUpdate (.mintEvent x.ctx (agentOf h) 3 h ((3 : BitVec 8) ++ (0 : BitVec 24) ++ phNow x s.clock)))))

/-- The real value of a finite value. -/
def IsReal (v : FpVal) (x : ℝ) : Prop :=
  match v with
  | .fin n m e => x = (if n then -1 else 1) * (m : ℝ) * (2 : ℝ) ^ e
  | .zero _ => x = 0
  | _ => False

/-- When a mode goes away from zero, from n units with a nonzero fraction of a unit left (R144, R145). -/
def RoundsUp (r : Rounding) (neg : Bool) (n : ℤ) (frac : ℝ) : Prop :=
  match r.mode with
  | .rne => 1 / 2 < frac ∨ (frac = 1 / 2 ∧ n % 2 = 1)
  | .rna => 1 / 2 ≤ frac
  | .rtz => False
  | .rup => neg = false
  | .rdn => neg = true
  | .sto => (r.draw : ℤ) < ⌊frac * 2 ^ 32⌋

/-- A nonnegative real rounded to a whole number of units. -/
def RoundsTo (r : Rounding) (neg : Bool) (units : ℝ) (k : ℤ) : Prop :=
  let n := ⌊units⌋
  let frac := units - n
  (frac = 0 → k = n) ∧ (frac ≠ 0 → RoundsUp r neg n frac → k = n + 1) ∧ (frac ≠ 0 → ¬ RoundsUp r neg n frac → k = n)

/-- The result of Round for a sign and a positive real magnitude, with its flags (R145, R146). -/
def IsRound (f : FpFmt) (r : Rounding) (neg : Bool) (a : ℝ) (res : FpResult) : Prop :=
  let sign : ℝ := if neg then -1 else 1
  let e : ℤ := max (Int.log 2 a) f.emin
  let spacing : ℝ := (2 : ℝ) ^ (e - f.prec + 1)
  let largest : ℝ := (2 - (2 : ℝ) ^ (1 - (f.prec : ℤ))) * (2 : ℝ) ^ (f.bias : ℤ)
  let toLargest : Prop := r.mode = .rtz ∨ (r.mode = .rup ∧ neg = true) ∨ (r.mode = .rdn ∧ neg = false)
  ∃ k : ℤ, RoundsTo r neg (a / spacing) k ∧
    let m : ℝ := k * spacing
    res.bits < 2 ^ f.width ∧
    (largest < m → res.flags = flagOF ||| flagNX ∧ (¬ toLargest → unpack f res.bits = .inf neg) ∧
      (toLargest → IsReal (unpack f res.bits) (sign * largest))) ∧
    (m ≤ largest → (unpack f res.bits).neg = neg ∧ IsReal (unpack f res.bits) (sign * m) ∧
      (m = a → res.flags = 0) ∧ (m ≠ a → a < (2 : ℝ) ^ f.emin → res.flags = flagNX ||| flagUF) ∧
      (m ≠ a → (2 : ℝ) ^ f.emin ≤ a → res.flags = flagNX))

/-- The end of a scalar FP instruction of fixed latency (R149, R150, R158, R424): with no raised flag enabled the result is
produced and its flags reach FPFLAGS in the cycle in which it is written; otherwise, where the result could be produced, the
word traps FP with the word, the tripped flags and the raised ones. The trap of an append that cannot be made comes first. -/
def FpEnds (i : Instr) (st : BitVec 3) (d : Sel) (latency : Nat) (v : W) (flags : BitVec 5) (s u : State) : Prop :=
  (∀ t, Produces u d v latency t →
    (flags &&& u.cur.fpte = 0 →
      exec i s = .next (issued st { t with cur := addFlags t.cur u.tick (u.tick + latency) flags })) ∧
    (flags &&& u.cur.fpte ≠ 0 → s.cur.launches = 0 → ∃ w : Word32, encode i = some w ∧
      exec i s = .next (trapped .fp (w ++ (0 : BitVec 19) ++ (flags &&& u.cur.fpte) ++ (0 : BitVec 3) ++ flags) s))) ∧
  (∀ c info, produce d v latency u = .error (.trap c info) → s.cur.launches = 0 → exec i s = .next (trapped c info s))

/-- O22. For each of the four formats, every mode with its draw, every sign and every exact nonzero magnitude mant ×
2^exp, the model's one rounding gives the result of Round: with e the greater of floor(log2 a) and emin, spacing 2^(e
− p + 1) and the neighbours lo and hi, the exact value if it is one of them, and else the one that RNE, RNA, RTZ, RUP,
RDN or the stochastic draw below floor(f × 2^32) chooses. Above the largest finite value the result is that of R146
with OF and NX; otherwise NX is raised exactly when the result differs from the value, and UF when it also lies below
2^emin. A zero keeps the sign. (R145, R146) -/
def Obligations.RoundingFollowsItsRule : Prop :=
  ∀ f ∈ [fp64, fp32, fp16, bf16], ∀ (r : Rounding) (neg : Bool) (mant : Nat) (exp : Int), 0 < mant →
    IsRound f r neg ((mant : ℝ) * (2 : ℝ) ^ exp) (roundFp f r neg mant exp false)

/-- O23. For each format and mode, and finite nonzero operands: a sum of two terms whose exact sum is not zero, a
product, a quotient and the square root of a positive value are the rounding of the exact real result; a sum of a
product and an addend is the rounding of the exact sum of both. A product with a zero, and the quotient of a zero by a
nonzero value, is a zero with the XOR of the operand signs and raises nothing. A sum that is exactly zero is −0 if
both terms are −0, or in RDN if not both are +0, and +0 otherwise. Conversions round the source's value, and an
integer source's. (R145, R147, R159, R162, R168, R170) -/
def Obligations.ArithmeticRoundsTheExactResult : Prop :=
  ∀ f ∈ [fp64, fp32, fp16, bf16], ∀ (r : Rounding) (x y z : FpVal) (a b c : ℝ), IsReal x a → IsReal y b → IsReal z c →
    let sum (v : ℝ) (res : FpResult) : Prop := v ≠ 0 → ∃ neg, (neg = true ↔ v < 0) ∧ IsRound f r neg |v| res
    sum (a + b) (sumFp f r [x, y]) ∧ sum (a - b) (sumFp f r [x, y.negate]) ∧ sum (a * b) (roundVal f r (mulVal x y)) ∧
      sum (a * b + c) (sumFp f r [mulVal x y, z]) ∧ sum (a * b - c) (sumFp f r [mulVal x y, z.negate]) ∧
      sum (c - a * b) (sumFp f r [(mulVal x y).negate, z]) ∧ (b ≠ 0 → sum (a / b) (divFp f r x y)) ∧
      (0 < a → IsRound f r false (Real.sqrt a) (sqrtFp f r x)) ∧ sum a (roundVal f r x) ∧
      (∀ v : Int, v ≠ 0 → IsRound f r (decide (v < 0)) (v.natAbs : ℝ) (roundVal f r (intVal v))) ∧
      (∀ p q : FpVal, IsReal p a → IsReal q b → a = 0 ∨ b = 0 → (∀ n k e, p = .fin n k e → k ≠ 0) → (∀ n k e, q = .fin n k e → k ≠ 0) →
        let zero : FpResult := ⟨if p.neg ^^ q.neg then f.signBit else 0, 0⟩
        roundVal f r (mulVal p q) = zero ∧ (b ≠ 0 → divFp f r p q = zero)) ∧
      (∀ p q : FpVal, IsReal p a → IsReal q (-a) →
        sumFp f r [p, q] = ⟨if (p = .zero true ∧ q = .zero true) ∨ (r.mode = .rdn ∧ ¬ (p = .zero false ∧ q = .zero false))
          then f.signBit else 0, 0⟩)

/-- O24. For each format and mode and every two values x and y of the formats: a sum, product, quotient or root with a
NaN operand gives the default NaN, with NV exactly when an operand is signalling; infinities of opposite sign in a
sum, 0 × ∞ (in a fused instruction also with a quiet addend), 0 / 0, ∞ / ∞ and the root of a value below −0 give the
default NaN with NV alone; a finite nonzero value over zero gives an infinity with the XOR of the signs and DZ alone;
a sum with an infinity, a product with one and no zero, and ∞ over a finite value give that infinity, and a finite
value over ∞, a product with a zero and a zero over a nonzero finite value a zero with the XOR of the signs, without a
flag; the root of −0 is −0. (R143, R147, R149, R159, R160, R162) -/
def Obligations.SpecialOperandsOfFp : Prop :=
  ∀ f ∈ [fp64, fp32, fp16, bf16], ∀ (r : Rounding) (x y : FpVal) (n m s : Bool) (k : Nat) (e : Int),
    let invalid : FpResult := ⟨f.nanBits, flagNV⟩
    let quiet : FpResult := ⟨f.nanBits, 0⟩
    let inf (neg : Bool) : FpResult := ⟨f.infBits + (if neg then f.signBit else 0), 0⟩
    let fin : FpVal := .fin n k e
    (∀ q, (x = .nan s ∧ q = (s || y.isSnan)) ∨ (y = .nan s ∧ q = (s || x.isSnan)) →
      let res := if q then invalid else quiet
      sumFp f r [x, y] = res ∧ roundVal f r (mulVal x y) = res ∧ divFp f r x y = res) ∧
    sqrtFp f r (.nan s) = (if s then invalid else quiet) ∧ roundVal f r (.nan s) = (if s then invalid else quiet) ∧
    sumFp f r [.inf n, .inf !n] = invalid ∧ roundVal f r (mulVal (.inf n) (.zero m)) = invalid ∧
    roundVal f r (mulVal (.zero m) (.inf n)) = invalid ∧ sumFp f r [mulVal (.inf n) (.zero m), .nan false] = invalid ∧
    divFp f r (.zero n) (.zero m) = invalid ∧ divFp f r (.inf n) (.inf m) = invalid ∧ sqrtFp f r (.inf true) = invalid ∧
    sqrtFp f r (.fin true k e) = invalid ∧
    divFp f r fin (.zero m) = ⟨(inf (n ^^ m)).bits, flagDZ⟩ ∧ sumFp f r [.inf m, fin] = inf m ∧ sumFp f r [fin, .inf m] = inf m ∧
    roundVal f r (mulVal (.inf m) fin) = inf (m ^^ n) ∧ divFp f r (.inf m) fin = inf (m ^^ n) ∧
    (let zero : FpResult := ⟨if n ^^ m then f.signBit else 0, 0⟩
     roundVal f r (mulVal (.zero n) (.zero m)) = zero ∧ roundVal f r (mulVal (.zero m) fin) = zero ∧
       roundVal f r (mulVal fin (.zero m)) = zero ∧ divFp f r (.zero m) fin = zero) ∧
    divFp f r fin (.inf m) = ⟨if n ^^ m then f.signBit else 0, 0⟩ ∧ sqrtFp f r (.zero n) = ⟨if n then f.signBit else 0, 0⟩ ∧
    sqrtFp f r (.inf false) = inf false

/-- O25. For every state and operand form: when the sources and then the rounding mode (with its draw) are read, FADD,
FSUB and FMUL (latency 4), FMA, FMS and FNMA (5), FRND, FCVT, FCVTI and ICVTF (3) end with the one rounding, in that
mode, of the sum, difference, product, fused value, integral value or converted value of the low bits of their
operands: with no raised flag enabled the result is produced and its flags reach FPFLAGS in the cycle in which it is
written, unless a rollback comes before that cycle and before the instruction's commit; otherwise the word traps FP as
it issues and changes nothing else; the trap of an append that cannot be made comes before that. The mode is that of
STATUS without a modifier word or with RM = 110, else RM's; the stochastic one draws from SEED, n(CNT) and lane 0. A
reserved code in STATUS rounds in a mode of its own that is never the stochastic one (the model's choice, log entry
72); that the trap of a fixed latency is taken at issue is the model's reading (log entry 83). (R142, R144, R148,
R149, R150, R158, R159, R162, R165, R168, R169, R170) -/
def Obligations.ScalarFpCompletes : Prop :=
  (∀ (x : Slot) (tick cycle t : Nat) (flags : BitVec 5), tick ≤ t →
    fpflagsNow (addFlags x tick cycle flags) t = (if cycle ≤ t then fpflagsNow x t ||| flags else fpflagsNow x t) ∧
    fpflagsKept (addFlags x tick cycle flags) t = (if cycle ≤ t then fpflagsKept x t ||| flags else fpflagsKept x t)) ∧
  (∀ s : State, (s.cur.modw = none ∨ ∃ w, s.cur.modw = some w ∧ w.rm = 6) → 5 ≤ s.cur.rmode.toNat →
    ∃ r, Gives (roundingFor 0) s r s ∧ r.mode ≠ .sto) ∧
  (∀ s : State, (s.cur.modw = none ∨ ∃ w, s.cur.modw = some w ∧ w.rm = 6) → s.cur.rmode.toNat < 5 →
    Gives (roundingFor 0) s ⟨modeOfCode s.cur.rmode.toNat, 0⟩ s) ∧
  (∀ (s : State) (w : Modw), s.cur.modw = some w → w.rm.toNat < 5 →
    Gives (roundingFor 0) s ⟨modeOfCode w.rm.toNat, 0⟩ s) ∧
  (∀ (s : State) (w : Modw), s.cur.modw = some w → w.rm = 5 → (nEntry s.cur w.cnt.toNat).tag = 0 →
    Gives (roundingFor 0) s ⟨.sto, (mix s.cur.seed (nEntry s.cur w.cnt.toNat).val 0).toNat / 2 ^ 32⟩ s) ∧
  (∀ (x : FRRR) (s s1 s2 : State) (a b : W) (r : Rounding), Reads s x.a a s1 → Reads s1 x.b b s2 →
    Gives (roundingFor 0) s2 r s2 →
    let f := fmtOf x.fmt
    let p := unpack f a.toNat
    let q := unpack f b.toNat
    let ends (i : Instr) (res : FpResult) : Prop := FpEnds i x.st x.d 4 (BitVec.ofNat 64 res.bits) res.flags s s2
    ends (.fadd x) (sumFp f r [p, q]) ∧ ends (.fsub x) (sumFp f r [p, q.negate]) ∧
      ends (.fmul x) (roundVal f r (mulVal p q))) ∧
  (∀ (x : FX) (s s1 s2 s3 : State) (a b c : W) (r : Rounding), Reads s x.a a s1 → Reads s1 x.b b s2 → Reads s2 x.c c s3 →
    Gives (roundingFor 0) s3 r s3 →
    let f := if x.single = 1 then fp32 else fp64
    let prod := mulVal (unpack f a.toNat) (unpack f b.toNat)
    let add := unpack f c.toNat
    let ends (i : Instr) (res : FpResult) : Prop := FpEnds i x.st x.d 5 (BitVec.ofNat 64 res.bits) res.flags s s3
    ends (.fma x) (sumFp f r [prod, add]) ∧ ends (.fms x) (sumFp f r [prod, add.negate]) ∧
      ends (.fnma x) (sumFp f r [prod.negate, add])) ∧
  (∀ (x : FRR) (s s1 : State) (a : W) (r : Rounding), Reads s x.a a s1 → Gives (roundingFor 0) s1 r s1 →
    let res := integralFp (fmtOf x.fmt) r a.toNat
    FpEnds (.frnd x) x.st x.d 3 (BitVec.ofNat 64 res.bits) res.flags s s1) ∧
  (∀ (x : Cvt) (s s1 : State) (a : W) (r : Rounding), Reads s x.a a s1 → Gives (roundingFor 0) s1 r s1 →
    let src := fmtOf (x.src.setWidth 2)
    let dst := fmtOf (x.dst.setWidth 2)
    let kind (c : BitVec 3) : IntKind := ⟨if 6 ≤ c.toNat then 64 else 32, c.toNat % 2 == 0⟩
    let v := unpack src a.toNat
    let i := toIntFp (kind x.dst) r v
    let fp (i : Instr) (res : FpResult) : Prop := FpEnds i x.st x.d 3 (BitVec.ofNat 64 res.bits) res.flags s s1
    fp (.fcvt x) (roundVal dst r v) ∧ FpEnds (.fcvti x) x.st x.d 3 (BitVec.ofInt 64 i.val) i.flags s s1 ∧
      fp (.icvtf x) (roundVal dst r (intVal (intOfBits (kind x.src) a.toNat))))

/-- O26. For every state, operand form and format. FMIN and FMAX end with the lesser or greater operand unchanged, −0
ordered below +0, or the default NaN for a NaN operand; FMINN and FMAXN with the other operand for one NaN; NV for a
signalling operand (latency 2). FCMPEQ, FCMPLT and FCMPLE end with 1 when the real values, or infinities, of two
operands that are no NaN compare so, else 0; FCMPUN with 1 for a NaN; NV for a signalling NaN, and in FCMPLT and
FCMPLE for any (latency 2). FABS, FNEG and FSGN clear, invert or copy the sign bit of the low bits (latency 1), and
FCLASS produces the class bit (latency 2); these four raise nothing. (R140, R142, R163, R164, R166, R167) -/
def Obligations.FpWithoutRounding : Prop :=
  (∀ (x : FRRR) (s s1 s2 : State) (a b : W), Reads s x.a a s1 → Reads s1 x.b b s2 →
    let f := fmtOf x.fmt
    let p := unpack f a.toNat
    let q := unpack f b.toNat
    let low (v : W) : W := BitVec.ofNat 64 (v.toNat % 2 ^ f.width)
    let val (u : FpVal) (v : EReal) : Prop := (u = .inf true → v = ⊥) ∧ (u = .inf false → v = ⊤) ∧
      ((∀ n, u ≠ .inf n) → ∃ w : ℝ, IsReal u w ∧ v = (w : EReal)) ∧ ∀ n, u ≠ .nan n
    let nv (c : Bool) : BitVec 5 := if c then flagNV else 0
    let ends (i : Instr) (v : W) (c : Bool) : Prop := FpEnds i x.st x.d 2 v (nv c) s s2
    let snan := p.isSnan || q.isSnan
    let nan : W := BitVec.ofNat 64 f.nanBits
    (∀ v w : EReal, val p v → val q w → (v < w ∨ (v = w ∧ (p.neg = true ∨ q.neg = false))) →
      ends (.fmin x) (low a) false ∧ ends (.fminn x) (low a) false) ∧
    (∀ v w : EReal, val p v → val q w → (w < v ∨ (v = w ∧ p.neg = false ∧ q.neg = true)) →
      ends (.fmin x) (low b) false ∧ ends (.fminn x) (low b) false) ∧
    (∀ v w : EReal, val p v → val q w → (w < v ∨ (v = w ∧ (p.neg = false ∨ q.neg = true))) →
      ends (.fmax x) (low a) false ∧ ends (.fmaxn x) (low a) false) ∧
    (∀ v w : EReal, val p v → val q w → (v < w ∨ (v = w ∧ p.neg = true ∧ q.neg = false)) →
      ends (.fmax x) (low b) false ∧ ends (.fmaxn x) (low b) false) ∧
    (p.isNan || q.isNan → ends (.fmin x) nan snan ∧ ends (.fmax x) nan snan) ∧
    (p.isNan && q.isNan → ends (.fminn x) nan snan ∧ ends (.fmaxn x) nan snan) ∧
    (p.isNan && !q.isNan → ends (.fminn x) (low b) snan ∧ ends (.fmaxn x) (low b) snan) ∧
    (!p.isNan && q.isNan → ends (.fminn x) (low a) snan ∧ ends (.fmaxn x) (low a) snan) ∧
    (∀ v w : EReal, val p v → val q w →
      (v = w → ends (.fcmpeq x) 1 false ∧ ends (.fcmplt x) 0 false ∧ ends (.fcmple x) 1 false) ∧
      (v < w → ends (.fcmpeq x) 0 false ∧ ends (.fcmplt x) 1 false ∧ ends (.fcmple x) 1 false) ∧
      (w < v → ends (.fcmpeq x) 0 false ∧ ends (.fcmplt x) 0 false ∧ ends (.fcmple x) 0 false) ∧
      ends (.fcmpun x) 0 false) ∧
    (p.isNan || q.isNan → ends (.fcmpeq x) 0 snan ∧ ends (.fcmplt x) 0 true ∧ ends (.fcmple x) 0 true ∧
      ends (.fcmpun x) 1 snan) ∧
    (∀ t, Produces s2 x.d (BitVec.ofNat 64 (a.toNat % 2 ^ (f.width - 1) +
      (if b.getLsbD (f.width - 1) then 2 ^ (f.width - 1) else 0))) 1 t → exec (.fsgn x) s = .next (issued x.st t))) ∧
  (∀ (x : FRR) (s s1 t : State) (a : W), Reads s x.a a s1 →
    let f := fmtOf x.fmt
    let mag := a.toNat % 2 ^ (f.width - 1)
    (Produces s1 x.d (BitVec.ofNat 64 mag) 1 t → exec (.fabs x) s = .next (issued x.st t)) ∧
    (Produces s1 x.d (BitVec.ofNat 64 (mag + if a.getLsbD (f.width - 1) then 0 else 2 ^ (f.width - 1))) 1 t →
      exec (.fneg x) s = .next (issued x.st t)) ∧
    (∀ k : Nat, (k = match unpack f a.toNat with
      | .inf true => 0 | .zero true => 3 | .zero false => 4 | .inf false => 7 | .nan true => 8 | .nan false => 9
      | .fin true m _ => if m < 2 ^ (f.prec - 1) then 2 else 1
      | .fin false m _ => if m < 2 ^ (f.prec - 1) then 5 else 6) →
      Produces s1 x.d (BitVec.ofNat 64 (2 ^ k)) 2 t → exec (.fclass x) s = .next (issued x.st t)))

/-- O27. For each format, mode and operand value. FRND of a finite value has the value of the rounding to an integer,
with the operand's sign, and raises NX exactly when it differs; it returns infinities and zeros unchanged, and the
default NaN for a NaN. The conversion to an integer of a finite value is the rounded integer when it lies in the
range, with NX exactly when it differs, and the nearer limit with NV alone otherwise; a zero gives 0 without a flag,
an infinity the limit on its side with NV, a NaN 0 with NV. (R145, R149, R165, R169) -/
def Obligations.IntegralAndIntegerConversions : Prop :=
  ∀ f ∈ [fp64, fp32, fp16, bf16], ∀ (r : Rounding) (v : Nat),
    let x := unpack f v
    (∀ a : ℝ, IsReal x a → x ≠ .zero true → x ≠ .zero false → ∃ k : ℤ, RoundsTo r x.neg |a| k ∧
      let w : ℝ := (if x.neg then -1 else 1) * k
      (unpack f (integralFp f r v).bits).neg = x.neg ∧ IsReal (unpack f (integralFp f r v).bits) w ∧
      (integralFp f r v).bits < 2 ^ f.width ∧ (w = a → (integralFp f r v).flags = 0) ∧ (w ≠ a → (integralFp f r v).flags = flagNX) ∧
      ∀ width ∈ [32, 64], ∀ signed,
        let kind : IntKind := ⟨width, signed⟩
        let lo : ℤ := if signed then -(2 ^ (width - 1)) else 0
        let hi : ℤ := if signed then 2 ^ (width - 1) - 1 else 2 ^ width - 1
        let u : ℤ := (if x.neg then -1 else 1) * k
        (u < lo → toIntFp kind r x = ⟨lo, flagNV⟩) ∧ (hi < u → toIntFp kind r x = ⟨hi, flagNV⟩) ∧
        (lo ≤ u → u ≤ hi → toIntFp kind r x = ⟨u, if (toIntFp kind r x).flags = 0 then 0 else flagNX⟩ ∧
          ((toIntFp kind r x).flags = 0 ↔ w = a))) ∧
    (∀ n, x = .inf n ∨ x = .zero n → integralFp f r v = ⟨v % 2 ^ f.width, 0⟩) ∧
    (∀ n kind, x = .zero n → toIntFp kind r x = ⟨0, 0⟩) ∧
    (∀ q, x = .nan q → integralFp f r v = ⟨f.nanBits, if q then flagNV else 0⟩ ∧
      ∀ kind, toIntFp kind r x = ⟨0, flagNV⟩) ∧
    (∀ n width, x = .inf n → toIntFp ⟨width, true⟩ r x = ⟨if n then -(2 ^ (width - 1)) else 2 ^ (width - 1) - 1, flagNV⟩ ∧
      toIntFp ⟨width, false⟩ r x = ⟨if n then 0 else 2 ^ width - 1, flagNV⟩)

/-- O28. For every state with the slot's FP divide unit free and every operand form: FDIV and FSQRT read their sources
and the mode, take a queue position and destination for the cycle of their result, and issue; with no raised flag
enabled the completion follows after the cycles of the format (22, 12, 8 and 8 for FDIV, 26, 14, 8 and 8 for FSQRT, 4
for a special operand) and fills those places with the rounded quotient or root and accumulates the flags, else the
slot keeps the FP trap for that cycle, with the word, the tripped and the raised flags, and the instruction's group.
While the unit works the word waits. The late trap is taken with that group in TPC. A late fault goes among those the
slot keeps, in the order of their operations' issue; with no LAUNCH status awaited the oldest of these and of those
that come with it is taken and the others stay, with one awaited all stay; in a compute slot in supervisor mode it is
a crash. That late faults are kept so is the model's reading of R176 and R424 (log entry 74). (R53, R149, R150, R160,
R161, R176, R244, R424) -/
def Obligations.FpDividesAndRoots : Prop :=
  (∀ (x : FRRR) (y : FRR) (s s1 s2 : State) (a b : W) (r : Rounding),
    let ordinary (v : FpVal) : Bool := match v with
      | .fin _ _ _ => true
      | _ => false
    let cycles (fmt : BitVec 2) (n32 n64 : Nat) (special : Bool) : Nat :=
      if special then 4 else if fmt = 0 then n64 else if fmt = 1 then n32 else 8
    let follows (i : Instr) (st : BitVec 3) (d : Sel) (u : State) (n : Nat) (res : FpResult) : Prop :=
      fpDividing u u.turn = false → ∀ t tag dest, Gives (reserveBy (u.tick + n) d) u (tag, dest) t →
      (res.flags &&& u.cur.fpte = 0 → exec i s = .next (issued st (emit t
        (.fpDivideComplete ⟨u.turn, tag, dest, BitVec.ofNat 64 res.bits, u.tick + n⟩ res.flags)))) ∧
      (res.flags &&& u.cur.fpte ≠ 0 → ∃ w : Word32, encode i = some w ∧
        exec i s = .next (issued st { t with cur := { t.cur with fpTraps := t.cur.fpTraps ++ [⟨u.tick + n, u.cur.gpc,
          w ++ (0 : BitVec 19) ++ (res.flags &&& u.cur.fpte) ++ (0 : BitVec 3) ++ res.flags, true⟩] } }))
    (Reads s x.a a s1 → Reads s1 x.b b s2 → Gives (roundingFor 0) s2 r s2 →
      let p := unpack (fmtOf x.fmt) a.toNat
      let q := unpack (fmtOf x.fmt) b.toNat
      follows (.fdiv x) x.st x.d s2 (cycles x.fmt 12 22 !(ordinary p && ordinary q)) (divFp (fmtOf x.fmt) r p q)) ∧
    (Reads s y.a a s1 → Gives (roundingFor 0) s1 r s1 →
      let p := unpack (fmtOf y.fmt) a.toNat
      follows (.fsqrt y) y.st y.d s1 (cycles y.fmt 14 26 (!ordinary p || p.neg)) (sqrtFp (fmtOf y.fmt) r p))) ∧
  (∀ (x : FRRR) (y : FRR) (s s1 s2 : State) (a b : W) (r : Rounding), fpDividing s2 s2.turn = true →
    (Reads s x.a a s1 → Reads s1 x.b b s2 → Gives (roundingFor 0) s2 r s2 →
      exec (.fdiv x) s = .next { s with cur := unissued s.cur }) ∧
    (Reads s y.a a s2 → Gives (roundingFor 0) s2 r s2 → exec (.fsqrt y) s = .next { s with cur := unissued s.cur })) ∧
  (∀ (s : State) (h : HartId), fpDividing s h = true ↔
    (∃ q ∈ (slotOf s h).fpTraps, q.divides = true) ∨ ∃ q fl, .fpDivideComplete q fl ∈ s.events ∧ q.h = h) ∧
  (∀ (q : Delivery) (fl : BitVec 5) (s : State),
    let u := deliver s q
    exec (.fpDivideComplete q fl) s = .next (setSlot u q.h { slotOf u q.h with fpflags := (slotOf u q.h).fpflags ||| fl })) ∧
  (∀ (h : HartId) (tpc : Addr) (info : W) (s : State),
    exec (.fpLateTrap h tpc info) s = .next (takeTrap s h .fp info (some tpc))) ∧
  (∀ (h : HartId) (c : Cause) (info : W) (o : IssueMark) (s : State),
    let f : LateFault := ⟨c, info, o⟩
    (kindOf h = .core → (slotOf s h).sup = true → exec (.lateFault h c info o) s = .next (takeTrap s h c info (some o.tpc))) ∧
    ((kindOf h ≠ .core ∨ (slotOf s h).sup = false) →
      ((slotOf s h).launches ≠ 0 → exec (.lateFault h c info o) s = .next (holdFault s h f)) ∧
      ((slotOf s h).launches = 0 →
        let first := holdFault s h f
        let kept := (first.events.filterMap (faultOf h)).foldl (fun u g => holdFault u h g)
          { first with events := first.events.filter fun e => (faultOf h e).isNone }
        ∃ g gs, (slotOf kept h).lateFaults = g :: gs ∧ exec (.lateFault h c info o) s =
          .next (takeTrap (setSlot kept h { slotOf kept h with lateFaults := gs }) h g.cause g.info (some g.op.tpc)))) ∧
    (∃ l, holdFault s h f = setSlot s h { slotOf s h with lateFaults := l } ∧ l.Perm (f :: (slotOf s h).lateFaults) ∧
      ((slotOf s h).lateFaults.Pairwise (fun a b => a.op.age ≤ b.op.age) → l.Pairwise fun a b => a.op.age ≤ b.op.age)))

/-- O29. For every state, kind, size, alignment and effective address: nonzero bits above 55 trap PAGE, reason 1; a
misaligned address ALIGN; in the window a word that may not use it, or an agent without a scratchpad, PROTECT 5;
outside it no mapping traps PAGE, reason 0. On a mapped page: user mode without U traps PROTECT 0; a write or atomic
with K is refused with PROTECT 1; LDK without K PROTECT 6; R or W missing PROTECT 0; in the remote window a word that
may not use it PROTECT 0 before these (R453). A walk that reads uncorrectable data traps MEMERR. An access that passes
names the canonical place, with a shared line as the page says, and changes nothing but that a walk may be noted. In
the window a core's access that may use it names what the low 32 bits name as a local address, the failing address
being the whole one. A local address of a user names the scratchpad byte: a MEMBER without REMOTE is PROTECT 4, an
offset beyond the partition 2, a write below 0x100 3. One of supervisor code names the pool byte itself. One with
REMOTE, in both modes, names the byte of the member's scratchpad with the same limits: GANG_SCOPE 1 for a launch that
is no gang, 2 for a MEMBER beyond the count, both before the offset (log entry 32), the count without the groups GROW
adds (log entry 87); that a member below it whose core does not hold the context is GANG_SCOPE 2 is the model's choice
(log entry 116). -/
def Obligations.AccessChecksInTheirOrder : Prop :=
  (∀ (s : State) (kind n align : Nat) (want : Want) (window : Bool) (ea : W), kind < 8 → 0 < align →
    let va : Addr := ea.setWidth 56
    let stops (c : Cause) (reason : BitVec 4) : Prop :=
      checkAccess kind n align want window ea s = .error (.trap c (accessInfo reason false (BitVec.ofNat 3 kind) va))
    (2 ^ 56 ≤ ea.toNat → stops .page 1) ∧
    (ea.toNat < 2 ^ 56 → ea.toNat % align ≠ 0 → stops .align 0) ∧
    (ea.toNat < 2 ^ 56 → ea.toNat % align = 0 → windowBase ≤ ea.toNat → (window = false ∨ kindOf s.turn ≠ .core) →
      stops .protect 5) ∧
    (ea.toNat < 2 ^ 56 → ea.toNat % align = 0 → windowBase ≤ ea.toNat → window = true → kindOf s.turn = .core →
      checkAccess kind n align want window ea s =
        localPlace ea.toNat n (decide (want = .write) || decide (want = .both)) kind s) ∧
    (ea.toNat < windowBase → ea.toNat % align = 0 →
      (∀ m, translate s s.turn ea.toNat = .unmapped m → stops .page 0) ∧
      (translate s s.turn ea.toNat = .poisoned → stops .memerr 0) ∧
      (∀ pa size attrs, translate s s.turn ea.toNat = .mapped pa size attrs →
        let a := attrsOf attrs
        let writes := want = .write ∨ want = .both
        let denied := s.cur.sup = false ∧ a.u = false
        let missing := (want ≠ .write ∧ a.r = false) ∨ (writes ∧ a.w = false)
        let refused := (window = false ∨ want = .both) ∧ ∃ port off, regionOf pa = .remote port off
        (refused → stops .protect 0) ∧ (denied → stops .protect 0) ∧
        (¬ refused → ¬ denied → a.k = true → writes → checkAccess kind n align want window ea s =
          .error (.constantPage (accessInfo 1 false (BitVec.ofNat 3 kind) va))) ∧
        (¬ refused → ¬ denied → a.k = false → want = .constant → stops .protect 6) ∧
        (¬ denied → ¬ (a.k = true ∧ writes) → ¬ (a.k = false ∧ want = .constant) → missing → stops .protect 0) ∧
        (¬ denied → ¬ (a.k = true ∧ writes) → ¬ (a.k = false ∧ want = .constant) → ¬ missing →
          ∀ ca, locOf pa = some (.mem ca) → ∃ t, Gives (checkAccess kind n align want window ea) s
            ⟨.mem ca, a.s || !isDevice pa⟩ t ∧ ∃ evs, t = { s with events := s.events ++ evs })))) ∧
  (∀ (s : State) (va n kind : Nat) (write : Bool), kind < 8 → va < 2 ^ 56 → s.cur.sup = false →
    let la := va % 2 ^ 32
    let off := la % 2 ^ 18
    let stops (reason : BitVec 4) : Prop :=
      localPlace va n write kind s = .error (.trap .protect (accessInfo reason false (BitVec.ofNat 3 kind) (BitVec.ofNat 56 va)))
    (la < 2 ^ 31 → 2 ^ 18 ≤ la → stops 4) ∧
    (la < 2 ^ 18 → padSize s.cur.partw < off + n → stops 2) ∧
    (la < 2 ^ 18 → off + n ≤ padSize s.cur.partw → write = true → off < 0x100 → stops 3) ∧
    (la < 2 ^ 18 → off + n ≤ padSize s.cur.partw → (write = false ∨ 0x100 ≤ off) →
      Gives (localPlace va n write kind) s
        ⟨.pool (agentOf s.turn) (s.cur.pbase.toNat + (s.cur.partw.extractLsb' 0 8).toNat * 4096 + off), false⟩ s)) ∧
  (∀ (s : State) (va n kind : Nat) (write : Bool), kind < 8 → va < 2 ^ 56 →
    let la := va % 2 ^ 32
    let off := la % 2 ^ 18
    let member := la / 2 ^ 18 % 2 ^ 13
    let c := s.cur.ctx
    let stops (cause : Cause) (reason : BitVec 4) : Prop :=
      localPlace va n write kind s = .error (.trap cause (accessInfo reason false (BitVec.ofNat 3 kind) (BitVec.ofNat 56 va)))
    (la < 2 ^ 31 → s.cur.sup = true → (2 ^ 18 ≤ la → stops .protect 4) ∧
      (la < 2 ^ 18 → Gives (localPlace va n write kind) s ⟨.pool (agentOf s.turn) off, false⟩ s)) ∧
    (2 ^ 31 ≤ la → (isGang s c = false → stops .gangScope 1) ∧
      (isGang s c = true → memberCount s c ≤ member → stops .gangScope 2) ∧
      (isGang s c = true → member < memberCount s c →
        ((∀ core, memberCore s c member = some core → placementOf s core c = none) → stops .gangScope 2) ∧
        ∀ core p, memberCore s c member = some core → placementOf s core c = some p →
          (padSize p.partw < off + n → stops .protect 2) ∧
          (off + n ≤ padSize p.partw → write = true → off < 0x100 → stops .protect 3) ∧
          (off + n ≤ padSize p.partw → (write = false ∨ 0x100 ≤ off) → Gives (localPlace va n write kind) s
            ⟨.pool core (p.pbase.toNat + (p.partw.extractLsb' 0 8).toNat * 4096 + off), false⟩ s))))

/-- O30. For every state with no store of the executing slot still on its way, and none of its own cell contributions
and appends to the bytes read: a load within a line of memory gives a core the bytes of the line its L1 holds, or else
those of memory, and any other hart those of memory; uncorrectable data that no line covers traps MEMERR. A load of
pool bytes gives them. When a load gives its bytes, pools, configuration and the harts are unchanged but for failed-
store records and what instruction fetch sees, and memory has changed only where a dirty line left the L1. The
constant path gives a core the bytes of the line its cluster's constant cache holds, or else those of memory, and
changes no memory. A load of bytes that an append of the slot has still to store waits, which is the model's choice
(log entry 104). (R177, R183, R309, R310, R311, R329, R332, R344) -/
def Obligations.LoadsReadTheirBytes : Prop :=
  (∀ (s : State) (ca n kind va : Nat) (shared : Bool), storesPending s = false → combining s s.turn = false →
    appendMeets s s.turn (.mem ca) n = false → 0 < n → n ≤ 32 - ca % 32 →
    let load := loadAt ⟨.mem ca, shared⟩ n kind va
    let core := agentOf s.turn
    (kindOf s.turn = .core → ∀ l, l1Line s core ca = some l → ∃ t, Gives load s ((l.bytes.drop (ca % 32)).take n) t) ∧
    ((kindOf s.turn ≠ .core ∨ l1Line s core ca = none) → poisonedMem s ca n = false →
      ∃ t, Gives load s ((List.range n).map fun i => memGet s.mem (ca + i)) t) ∧
    ((kindOf s.turn ≠ .core ∨ l1Line s core ca = none) → poisonedMem s ca n = true →
      load s = .error (.trap .memerr (memInfo 0 kind va false)))) ∧
  (∀ (s : State) (core off n kind va : Nat) (shared : Bool), storesPending s = false →
    appendMeets s s.turn (.pool core off) n = false →
    (poisonedPool s core off n = false →
      Gives (loadAt ⟨.pool core off, shared⟩ n kind va) s ((List.range n).map fun i => memGet s.pools (poolKey core off + i)) s) ∧
    (poisonedPool s core off n = true →
      loadAt ⟨.pool core off, shared⟩ n kind va s = .error (.trap .memerr (memInfo 0 kind va false)))) ∧
  (∀ (s : State) (p : Place) (n kind va : Nat), appendMeets s s.turn p.loc n = true → loadAt p n kind va s = .error (.wait id)) ∧
  (∀ (s t : State) (p : Place) (n kind va : Nat) (bs : List Byte), s.memOk = true → Gives (loadAt p n kind va) s bs t →
    t.pools = s.pools ∧ t.module = s.module ∧ HartsKept s t ∧ WrittenBackOnly s t (agentOf s.turn)) ∧
  (∀ (s : State) (ca n va : Nat), 0 < n → n ≤ 32 - ca % 32 →
    let held := if kindOf s.turn = .core then constantLine s (clusterOf (agentOf s.turn)) ca else none
    (∀ l, held = some l → Gives (loadConstant ca n va) s ((l.bytes.drop (ca % 32)).take n) s) ∧
    (held = none → poisonedMem s ca n = false → ∃ t, t.mem = s.mem ∧ t.pools = s.pools ∧ t.cur = s.cur ∧
      Gives (loadConstant ca n va) s ((List.range n).map fun i => memGet s.mem (ca + i)) t) ∧
    (held = none → poisonedMem s ca n = true →
      loadConstant ca n va s = .error (.trap .memerr (memInfo 0 3 va false))))

/-- O31. For every state in canonical form. A store to bytes that an append of the hart has still to store waits,
which is the model's choice (log entry 104). With no such append, and for memory no contribution of the hart to a cell
on its way: a store to the hart's own pool writes its bytes there at once, every other pool byte and memory being as
they were. A store to a shared line, and any store of a hart that is no core, is sent to its home, the bytes it is
about to change kept for instruction fetch of the open region, and performs there as a step of its own: the bytes
named hold the stored ones, every other byte of memory and every pool byte is as it was, unless the bytes touch a
declared exact cell: then nothing is stored and the slot's failed-store record grows. A store within a private line
that holds no cell bytes and no uncorrectable data among them puts the bytes into the line in the core's L1, dirty,
with the line's other bytes as they were; memory changes only where a dirty line left the L1. (R177, R203, R309, R322,
R329, R344, R413) -/
def Obligations.StoresReachTheirPlace : Prop :=
  (∀ (s : State) (h : HartId) (l : Loc) (n : Nat), appendMeets s h l n = true ↔
    ∃ e ∈ s.events, ∃ p m w, appendOf e = some (h, p, m, w) ∧ placesMeet (m, w) (l, n) = true) ∧
  (∀ (s : State) (p : Place) (bs : List Byte), appendMeets s s.turn p.loc bs.length = true →
    storeAt p bs s = .error (.wait id)) ∧
  (∀ (s : State) (l : Loc) (n : Nat), appendMeets s s.turn l n = false → combining s s.turn = false →
    Gives (settleBytes l n) s () s) ∧
  (∀ (s : State) (off : Nat) (bs : List Byte) (shared : Bool), s.memOk = true →
    appendMeets s s.turn (.pool (agentOf s.turn) off) bs.length = false →
    ∃ t, Gives (storeAt ⟨.pool (agentOf s.turn) off, shared⟩ bs) s () t ∧ t.mem = s.mem ∧
      ∀ p, memGet t.pools p = let k := poolKey (agentOf s.turn) off
        if k ≤ p ∧ p < k + bs.length then (bs[p - k]?).getD 0 else memGet s.pools p) ∧
  (∀ (s : State) (ca : Nat) (bs : List Byte), appendMeets s s.turn (.mem ca) bs.length = false →
    combining s s.turn = false → Gives (storeAt ⟨.mem ca, true⟩ bs) s ()
    (emit (noteStore s s.turn ca bs.length) (.storePerform ⟨s.turn, s.cur.ctx, .mem ca, bs⟩)) ∧
    (kindOf s.turn ≠ .core → Gives (storeAt ⟨.mem ca, false⟩ bs) s ()
      (emit (noteStore s s.turn ca bs.length) (.storePerform ⟨s.turn, s.cur.ctx, .mem ca, bs⟩)))) ∧
  (∀ (s : State) (r : StoreReq) (ca : Nat), s.memOk = true → r.loc = .mem ca →
    (touchesCell s ca r.bytes.length = false → ∃ t, exec (.storePerform r) s = .next t ∧ t.pools = s.pools ∧
      HartsKept s t ∧ (∀ h, (slotOf t h).failed = (slotOf s h).failed) ∧
      ∀ p, memGet t.mem p = if ca ≤ p ∧ p < ca + r.bytes.length then (r.bytes[p - ca]?).getD 0 else memGet s.mem p) ∧
    (touchesCell s ca r.bytes.length = true → ∃ t, exec (.storePerform r) s = .next t ∧ t.mem = s.mem ∧ t.pools = s.pools ∧
      (slotOf t r.h).failed = { (slotOf s r.h).failed with count := (slotOf s r.h).failed.count + 1, refused := true })) ∧
  (∀ (s : State) (r : StoreReq) (core off : Nat), s.memOk = true → r.loc = .pool core off →
    ∃ t, exec (.storePerform r) s = .next t ∧ t.mem = s.mem ∧
      ∀ p, memGet t.pools p = if poolKey core off ≤ p ∧ p < poolKey core off + r.bytes.length
        then (r.bytes[p - poolKey core off]?).getD 0 else memGet s.pools p) ∧
  (∀ (s : State) (ca : Nat) (bs : List Byte), s.memOk = true → kindOf s.turn = .core → bs.length ≤ 32 - ca % 32 →
    poisonedMem s ca bs.length = false → touchesCell s ca bs.length = false →
    appendMeets s s.turn (.mem ca) bs.length = false → combining s s.turn = false →
    (∀ l, l1Line s (agentOf s.turn) ca = some l → l.bytes.length = 32) →
    let old := match l1Line s (agentOf s.turn) ca with
      | some l => l.bytes
      | none => (List.range 32).map fun i => memGet s.mem (ca / 32 * 32 + i)
    ∃ t l, Gives (storeAt ⟨.mem ca, false⟩ bs) s () t ∧ l1Line t (agentOf s.turn) ca = some l ∧ l.dirty = true ∧
      l.shared = false ∧ l.bytes.length = 32 ∧
      (∀ i, i < 32 → l.bytes[i]? = if ca % 32 ≤ i ∧ i < ca % 32 + bs.length then bs[i - ca % 32]? else old[i]?) ∧
      t.pools = s.pools ∧ WrittenBackOnly s t (agentOf s.turn))

/-- O32. For every state and operand form. LD reads a and loads at a plus its offset times the access size, with the
35-bit offset a hint word makes; LDS and LDK at a + b, LDS a local address without bits above 31, LDK through K pages
and not in the window; LD.ACQ also discards the shared lines of the core's L1 first. Each then takes its queue
position and destination, an LDS in its own core's pool as of its response, and its value, zero-extended, follows as
its response, that of such an LDS three cycles after its issue. ST reads a and then the data and stores the low bytes
at its address; STS at the local address a + b; ST.REL, once no earlier store, append or cell contribution of the slot
is still to perform, after the dirty lines of the L1 have been written back. A response fills the places it was
awaited in. (R48, R53, R172, R178, R179, R180, R183, R310, R312, R444) -/
def Obligations.LoadAndStoreInstructions : Prop :=
  let addr (a : W) (y : Slot) (off : BitVec 9) (sz : BitVec 2) : W := a + (match y.hint with
    | none => off.signExtend 64
    | some k => (k ++ off).signExtend 64) * BitVec.ofNat 64 (2 ^ sz.toNat)
  let answers (i : Instr) (st : BitVec 3) (d : Sel) (bs : List Byte) (due : Nat) (s u : State) : Prop := ∀ t tag dest,
    Gives (reserveBy due d) u (tag, dest) t →
    exec i s = .next (issued st (emit t (.loadResponse ⟨t.turn, tag, dest, BitVec.ofNat 64 (leNat bs), due⟩)))
  (∀ (x : Mem) (s s1 u : State) (a : W) (bs : List Byte), Reads s x.a a s1 →
    Gives (loadVa 0 (2 ^ x.sz.toNat) (2 ^ x.sz.toNat) (addr a s.cur x.off x.sz)) s1 bs u →
    answers (.ld x) x.st x.d bs 0 s u) ∧
  (∀ (x : MemS) (s s1 s2 u : State) (a : W) (p : Place) (bs : List Byte), Reads s x.a a s1 →
    let ea := addr a s.cur x.off x.sz
    Gives (checkAccess 0 (2 ^ x.sz.toNat) (2 ^ x.sz.toNat) .read true ea) s1 p s2 →
    let dropped := if kindOf s2.turn = .core then setCore s2 (agentOf s2.turn)
      { coreOf s2 (agentOf s2.turn) with l1 := (coreOf s2 (agentOf s2.turn)).l1.filter fun l => !l.shared } else s2
    Gives (loadAt p (2 ^ x.sz.toNat) 0 (ea.toNat % 2 ^ 56)) dropped bs u → answers (.ldAcq x) x.st x.d bs 0 s u) ∧
  (∀ (x : RRRz) (s s1 s2 s3 u : State) (a b : W) (p : Place) (bs : List Byte), Reads s x.a a s1 → Reads s1 x.b b s2 →
    (Gives (scratchPlace (a + b) (2 ^ x.sz.toNat) false) s2 p s3 →
      Gives (loadAt p (2 ^ x.sz.toNat) 0 (a + b).toNat) s3 bs u →
      answers (.lds x) x.st x.d bs (match p.loc with
        | .pool c _ => if c = agentOf u.turn then u.tick + 3 else 0
        | _ => 0) s u) ∧
    (∀ ca, Gives (checkAccess 3 (2 ^ x.sz.toNat) (2 ^ x.sz.toNat) .constant false (a + b)) s2 p s3 → p.loc = .mem ca →
      Gives (loadConstant ca (2 ^ x.sz.toNat) ((a + b).toNat % 2 ^ 56)) s3 bs u →
      answers (.ldk x) x.st x.d bs 0 s u)) ∧
  (∀ (x : Mem) (s s1 s2 t : State) (a v : W), Reads s x.a a s1 → Reads s1 x.d v s2 →
    Gives (storeVa 1 (2 ^ x.sz.toNat) (addr a s.cur x.off x.sz) (natBytes (2 ^ x.sz.toNat) v.toNat)) s2 () t →
    exec (.st x) s = .next (issued x.st t)) ∧
  (∀ (x : MemS) (s s1 s2 s3 t : State) (a v : W) (p : Place), Reads s x.a a s1 → Reads s1 x.d v s2 →
    Gives (checkAccess 1 (2 ^ x.sz.toNat) (2 ^ x.sz.toNat) .write true (addr a s.cur x.off x.sz)) s2 p s3 →
    accessesPending s3 = false →
    Gives (storeAt p (natBytes (2 ^ x.sz.toNat) v.toNat))
      (if kindOf s3.turn = .core then flushDirty s3 (agentOf s3.turn) else s3) () t →
    exec (.stRel x) s = .next (issued x.st t)) ∧
  (∀ (x : RRRz) (s s1 s2 s3 s4 t : State) (a b v : W) (p : Place), Reads s x.a a s1 → Reads s1 x.b b s2 → Reads s2 x.d v s3 →
    Gives (scratchPlace (a + b) (2 ^ x.sz.toNat) true) s3 p s4 →
    Gives (storeAt p (natBytes (2 ^ x.sz.toNat) v.toNat)) s4 () t → exec (.sts x) s = .next (issued x.st t)) ∧
  (∀ (r : Delivery) (s : State), exec (.loadResponse r) s = .next (deliver s r)) ∧
  (∀ (c : Nat) (s : State), exec (.missMergeWindow c) s = .next s)

/-- O33. For every state and operand form: SBIND loads the 32-byte descriptor at a and, if its reserved bits are zero,
BASE and STRIDE are multiples of the element size and BASE has no bit above 55, binds the port to it, and otherwise
traps PROTECT 10; SCLOSE closes the port; SPOS produces its position, or 0 for a closed port. PREF outside the window
completes whatever a is, changing no memory but where a dirty line left the L1. WB and INV of the lines of [a, a + b)
complete; they write the dirty ones of the core's L1 back, so that each of its bytes stands in memory afterwards and
is uncorrectable no longer, but where the line has come to hold bytes of a cell, whose bytes stay as they were; WB
leaves the lines clean and INV drops them. Both skip unmapped pages, do nothing for length 0, wait while an append of
the slot to one of these lines is still to come, and trap MEMERR where a walk reads uncorrectable data, PROTECT 5 in
the window, and PAGE 1 from 2^56 on. The model's own choices here are PREF's PROTECT 5 in the window (log entry 17), a
range cut at the base of the window (log entry 23), the KIND of these traps (log entry 77), that no permission of the
pages is checked (log entry 96), and the wait for an append (log entry 104). (R173, R175, R185, R186, R189, R191,
R192, R214, R338) -/
def Obligations.StreamAndCacheWords : Prop :=
  (∀ (x : Sb) (s s1 s2 : State) (a : W) (bs : List Byte), Reads s x.a a s1 → Gives (loadVa 6 32 32 a) s1 bs s2 →
    let mode := dword bs 24
    let n := 2 ^ (mode % 4)
    let good := mode < 16 ∧ dword bs 0 % n = 0 ∧ dword bs 8 % n = 0 ∧ dword bs 0 < 2 ^ 56
    let g : Stream := { bound := true, base := BitVec.ofNat 64 (dword bs 0), stride := BitVec.ofNat 64 (dword bs 8)
                        count := BitVec.ofNat 32 (leNat ((bs.drop 16).take 4)), pos := BitVec.ofNat 32 (leNat ((bs.drop 20).take 4))
                        write := mode.testBit 3, signed := mode.testBit 2, size := BitVec.ofNat 2 mode }
    (good → 24 ≤ bs.length → exec (.sbind x) s = .next (issued x.st
      { s2 with cur := { s2.cur with str := s2.cur.str.set x.port.toNat g x.port.isLt } })) ∧
    (¬ good → s.cur.launches = 0 → exec (.sbind x) s = .next (trapped .protect (accessInfo 10 false 6 (a.setWidth 56)) s))) ∧
  (∀ (x : Sc) (s : State), exec (.sclose x) s = .next (issued x.st
    { s with cur := { s.cur with str := s.cur.str.set x.port.toNat Stream.closed x.port.isLt } })) ∧
  (∀ (x : Sp) (s t : State), Produces s x.d (if (portOf s.cur x.port).bound then (portOf s.cur x.port).pos.zeroExtend 64
    else 0) 1 t → exec (.spos x) s = .next (issued x.st t)) ∧
  (∀ (x : A1) (s s1 : State) (a : W), s1.memOk = true → Reads s x.a a s1 →
    (a.toNat < windowBase ∨ 2 ^ 56 ≤ a.toNat → ∃ t, exec (.pref x) s = .next (issued x.st t) ∧ t.pools = s1.pools ∧
      HartsKept s1 t ∧ WrittenBackOnly s1 t (agentOf s1.turn)) ∧
    (windowBase ≤ a.toNat → a.toNat < 2 ^ 56 → s.cur.launches = 0 →
      exec (.pref x) s = .next (trapped .protect (accessInfo 5 false 0 (a.setWidth 56)) s))) ∧
  (∀ (x : AB) (s s1 s2 : State) (a b : W), s2.memOk = true → Reads s x.a a s1 → Reads s1 x.b b s2 →
    (b = 0 ∨ a.toNat < windowBase → let parts := if b = 0 then [] else pageParts a.toNat b.toNat
      (∀ q ∈ parts, translate s2 s2.turn q.1 ≠ .poisoned) → ∃ (lines : List Nat) (t u : State),
        (∀ n, lines.contains n ↔ ∃ q ∈ parts, ∃ pa size attrs,
          translate s2 s2.turn q.1 = .mapped pa size attrs ∧ n ∈ pageLines pa q.2) ∧
        let held : Prop := ∃ e ∈ s2.events, ∃ p l w, appendOf e = some (s2.turn, p, l, w) ∧
          ∃ n ∈ lines, placesMeet (.mem (n * 32), 32) (l, w) = true ∨ placesMeet (.remote (n * 32), 32) (l, w) = true
        let core := agentOf s2.turn
        let saved (v : State) : Prop := ∀ older l newer, (coreOf s2 core).l1 = older ++ l :: newer →
          (∀ x ∈ newer, x.dirty = true → x.line ≠ l.line) → lines.contains l.line → l.dirty = true →
            (touchesCell s2 (32 * l.line) 32 = false → poisonedMem v (32 * l.line) 32 = false ∧
              ∀ i, i < 32 → memGet v.mem (32 * l.line + i) = (l.bytes[i]?).getD 0) ∧
            (touchesCell s2 (32 * l.line) 32 = true → ∀ i, i < 32 → memGet v.mem (32 * l.line + i) = memGet s2.mem (32 * l.line + i))
        (held → ∀ i ∈ [Instr.wb x, .inv x], exec i s = .next { s with cur := unissued s.cur }) ∧
        (¬ held → exec (.wb x) s = .next (issued x.st t) ∧ exec (.inv x) s = .next (issued x.st u) ∧
          t.pools = s2.pools ∧ u.pools = s2.pools ∧ HartsKept s2 t ∧ HartsKept s2 u ∧
          WrittenBackOnly s2 t core ∧ WrittenBackOnly s2 u core ∧ saved t ∧ saved u ∧
          (∀ l ∈ (coreOf t core).l1, lines.contains l.line → l.dirty = false) ∧
          (∀ l ∈ (coreOf u core).l1, !lines.contains l.line))) ∧
    (∀ pre q post, b ≠ 0 → a.toNat < windowBase → s.cur.launches = 0 → pageParts a.toNat b.toNat = pre ++ q :: post →
      (∀ p ∈ pre, translate s2 s2.turn p.1 ≠ .poisoned) → translate s2 s2.turn q.1 = .poisoned →
      ∀ i ∈ [Instr.wb x, .inv x], exec i s = .next (trapped .memerr (accessInfo 0 false 1 (BitVec.ofNat 56 q.1)) s)) ∧
    (b ≠ 0 → windowBase ≤ a.toNat → a.toNat < 2 ^ 56 → s.cur.launches = 0 → ∀ i ∈ [Instr.wb x, .inv x],
      exec i s = .next (trapped .protect (accessInfo 5 false 1 (a.setWidth 56)) s)) ∧
    (b ≠ 0 → 2 ^ 56 ≤ a.toNat → s.cur.launches = 0 → ∀ i ∈ [Instr.wb x, .inv x],
      exec i s = .next (trapped .page (accessInfo 1 false 1 (a.setWidth 56)) s)))

/-- O34. For every state outside delay slots and REP bodies with the registers ready: with no byte left each commits
past itself. Otherwise it moves or fills one chunk, of 32 bytes where both pointers (of BFILL the one) are multiples
of 32 and 32 are left, else 8 likewise, else 1, with the checks of a plain load and then a plain store; the pointers
advance and the count falls by the chunk, and the word commits with RSTART at its own group, which executes again.
Each byte BFILL writes at address x is byte x mod 8 of its pattern. (R88, R124, R138, R193, R194) -/
def Obligations.BlockMoveAndFillIterate : Prop :=
  let again (s : State) (x : Slot) : State :=
    { s with cur := { commitSlot s.module.frozen.isSome s.tags { x with
        pc := x.gpc, npc := x.gpc + 4, nnpc := x.gpc + 8, hint := none, modw := none, prev1 := .none, prev2 := .none,
        earliest := s.tick + 1 } with iters := x.iters + 1 } }
  let chunk (d a left : Nat) : Nat := if d % 32 = 0 ∧ a % 32 = 0 ∧ 32 ≤ left then 32
    else if d % 8 = 0 ∧ a % 8 = 0 ∧ 8 ≤ left then 8 else 1
  (∀ (x : RRR) (s s1 s2 : State) (i j k : BitVec 3) (bs : List Byte), InOpen s →
    x.d = BitVec.ofNat 5 (16 + i.toNat) → x.a = BitVec.ofNat 5 (16 + j.toNat) → x.b = BitVec.ofNat 5 (16 + k.toNat) →
    i ≠ j → j ≠ k → i ≠ k → (∀ m, m < 8 → (nEntry s.cur m).tag = 0) →
    let d := (nEntry s.cur i.toNat).val
    let a := (nEntry s.cur j.toNat).val
    let b := (nEntry s.cur k.toNat).val
    let c := chunk d.toNat a.toNat b.toNat
    (b = 0 → exec (.bmove x) s = .next (committed x.st s)) ∧
    (b ≠ 0 → Gives (loadVa 4 c c a) s bs s1 → Gives (storeVa 4 c d bs) s1 () s2 → s2.cur.n = s.cur.n →
      ∃ y, exec (.bmove x) s = .next (again s2 y) ∧ y = { s2.cur with n := y.n } ∧
        (nEntry y i.toNat).val = d + BitVec.ofNat 64 c ∧ (nEntry y j.toNat).val = a + BitVec.ofNat 64 c ∧
        (nEntry y k.toNat).val = b - BitVec.ofNat 64 c ∧
        ∀ m, m < 8 → m ≠ i.toNat → m ≠ j.toNat → m ≠ k.toNat → nEntry y m = nEntry s.cur m)) ∧
  (∀ (x : RRR) (s s1 : State) (i j : BitVec 3) (b : W), InOpen s →
    x.d = BitVec.ofNat 5 (16 + i.toNat) → x.a = BitVec.ofNat 5 (16 + j.toNat) → i ≠ j →
    (nEntry s.cur i.toNat).tag = 0 → (nEntry s.cur j.toNat).tag = 0 → Reads s x.b b s →
    let d := (nEntry s.cur i.toNat).val
    let a := (nEntry s.cur j.toNat).val
    let c := chunk d.toNat 0 a.toNat
    (a = 0 → exec (.bfill x) s = .next (committed x.st s)) ∧
    (a ≠ 0 → Gives (storeVa 4 c d ((List.range c).map fun m => b.extractLsb' (8 * ((d.toNat + m) % 8)) 8)) s () s1 →
      s1.cur.n = s.cur.n → ∃ y, exec (.bfill x) s = .next (again s1 y) ∧ y = { s1.cur with n := y.n } ∧
        (nEntry y i.toNat).val = d + BitVec.ofNat 64 c ∧ (nEntry y j.toNat).val = a - BitVec.ofNat 64 c ∧
        ∀ m, m < 8 → m ≠ i.toNat → m ≠ j.toNat → nEntry y m = nEntry s.cur m))

/-- O35. For every state where a committing word may stand: once the sources are read, the checks of an atomic pass
and the slot's own appends and contributions to the bytes are settled, each AMO and CAS takes its queue position and
destination, is sent to the home of a, and commits. At the home of memory bytes the lines they touch leave the L1 of
the issuer's core first, the dirty ones written back. Then, on bytes that hold no cell, no uncorrectable data and no
home record of weight, one step reads the old value, writes old OP b at the access size (CAS: b where old equals c,
else nothing changes) and answers the zero-extended old value; every other byte of memory and every pool byte is
unchanged. The same holds of a pool. Bytes of a cell answer a late XCELL 3 and uncorrectable data a late MEMERR, with
nothing written and no value. (R87, R125, R174, R176, R195, R196, R197, R203, R311) -/
def Obligations.AtomicsIssueAndPerform : Prop :=
  (∀ (x : Amo) (s s1 s2 s3 s4 t : State) (a b : W) (p : Place) (tag : Nat) (dest : Dest), MayCommit s →
    Reads s x.a a s1 → Reads s1 x.b b s2 →
    let n := if x.wide = 1 then 8 else 4
    Gives (checkAccess 2 n n .both true a) s2 p s3 →
    Gives (settleBytes p.loc n) s3 () s3 → Gives (evictPlace p.loc n) s3 () s4 → Reserves s4 x.d tag dest t →
    let ships (i : Instr) (op : AtomOp) : Prop := exec i s = .next (committed x.st (emit t
      (.homeAtomic ⟨t.turn, tag, dest, t.cur.gpc, a.setWidth 56, p.loc, n, op, b, 0, t.cur.sup⟩)))
    ships (.amoAdd x) .add ∧ ships (.amoAnd x) .and ∧ ships (.amoOr x) .or ∧ ships (.amoXor x) .xor ∧
      ships (.amoMin x) .min ∧ ships (.amoMax x) .max ∧ ships (.amoMinu x) .minu ∧ ships (.amoMaxu x) .maxu ∧
      ships (.amoSwap x) .swap) ∧
  (∀ (x : Cas) (s s1 s2 s3 s4 s5 t : State) (a b c : W) (p : Place) (tag : Nat) (dest : Dest), MayCommit s →
    Reads s x.a a s1 → Reads s1 x.b b s2 → Reads s2 x.c c s3 →
    let n := if x.wide = 1 then 8 else 4
    Gives (checkAccess 2 n n .both true a) s3 p s4 →
    Gives (settleBytes p.loc n) s4 () s4 → Gives (evictPlace p.loc n) s4 () s5 → Reserves s5 x.d tag dest t →
    exec (.cas x) s = .next (committed x.st (emit t
      (.homeAtomic ⟨t.turn, tag, dest, t.cur.gpc, a.setWidth 56, p.loc, n, .cas, b, c, t.cur.sup⟩)))) ∧
  (∀ (r : AtomicReq) (s : State) (n : Nat), s.memOk = true → r.size = n → n = 4 ∨ n = 8 →
    let new (old : BitVec (8 * n)) : BitVec (8 * n) :=
      let y : BitVec (8 * n) := r.b.setWidth (8 * n)
      match r.op with
      | .add => old + y | .and => old &&& y | .or => old ||| y | .xor => old ^^^ y
      | .min => if old.toInt < y.toInt then old else y | .max => if old.toInt < y.toInt then y else old
      | .minu => if old.toNat < y.toNat then old else y | .maxu => if old.toNat < y.toNat then y else old
      | .swap => y | .cas => if old = r.c.setWidth (8 * n) then y else old
    (∀ ca, r.loc = .mem ca →
      let s1 := evictOf s r.h ca n
      let old : BitVec (8 * n) := BitVec.ofNat (8 * n) (leNat (memRead s1.mem ca n))
      HartsKept s s1 ∧ WrittenBackOnly s s1 (agentOf r.h) ∧ s1.pools = s.pools ∧
      (kindOf r.h = .core → ∀ l ∈ (coreOf s1 (agentOf r.h)).l1, ∀ i, i < n → l.line ≠ (ca + i) / 32) ∧
      (touchesCell s1 ca n = false → poisonedMem s1 ca n = false → homeField s1 ca = none →
        ∃ u, exec (.homeAtomic r) s = .next (deliver u ⟨r.h, r.tag, r.dest, old.setWidth 64, 0⟩) ∧ u.pools = s.pools ∧
          HartsKept s1 u ∧ (∀ h, (slotOf u h).failed = (slotOf s1 h).failed) ∧
          ∀ p, memGet u.mem p = if ca ≤ p ∧ p < ca + n then (new old).extractLsb' (8 * (p - ca)) 8 else memGet s1.mem p) ∧
      (touchesCell s1 ca n = true →
        exec (.homeAtomic r) s = .next (emit s1 (.lateFault r.h .xcell (accessInfo 3 true 2 r.va) ⟨r.tpc, r.tag⟩))) ∧
      (touchesCell s1 ca n = false → poisonedMem s1 ca n = true →
        exec (.homeAtomic r) s = .next (emit s1 (.lateFault r.h .memerr (accessInfo 0 true 2 r.va) ⟨r.tpc, r.tag⟩)))) ∧
    (∀ core off, r.loc = .pool core off → poisonedPool s core off n = false →
      let k := poolKey core off
      let old : BitVec (8 * n) := BitVec.ofNat (8 * n) (leNat (memRead s.pools k n))
      ∃ u, exec (.homeAtomic r) s = .next (deliver u ⟨r.h, r.tag, r.dest, old.setWidth 64, 0⟩) ∧ u.mem = s.mem ∧
        ∀ p, memGet u.pools p = if k ≤ p ∧ p < k + n then (new old).extractLsb' (8 * (p - k)) 8 else memGet s.pools p))

/-- O36. For every state where a committing word may stand: a FENCE with a store kind waits while a store of the slot
has still to perform or to be acknowledged by another module or core, or an append is still to come, and every FENCE
while a cell contribution is on its way: R209 and R399 let it wait at its completion for these; that it waits at issue
for stores and appends (log entry 104), and with any kind for a contribution (log entry 25), is the model's way.
Otherwise FENCE acts on the L1 and batches as its kinds and scope say, takes its queue position and destination and
commits. With no store of the slot still to perform, or no store kind, its completion answers the status: failed
stores up to 255 in bits 15 to 8, WOFF, REFUSED and DEADLINK, and clears them; else it waits. CPUB in the window traps
PROTECT 5; outside it, it takes the lines of the mapped pages of its range, traps PROTECT 0 at a page of another
module and MEMERR where a walk reads uncorrectable data, and issues, waiting while an append of the slot to one of
these lines is still to come; its completion drops these lines from the instruction cache of each core in its scope,
memory changing only where dirty lines of these cores were written back. That the range is cut at the base of the
window (log entry 23), that a length of 0 makes no check (log entry 77), that no page permission is checked (log entry
96) and that it waits for an append (log entry 104) are the model's choices. (R173, R177, R209, R210, R211, R212,
R214, R338, R399, R453) -/
def Obligations.FencesAndCodePublication : Prop :=
  (∀ (x : Fence) (s : State), MayCommit s →
    let loads := x.kinds.getLsbD 3 || x.kinds.getLsbD 2
    let stores := x.kinds.getLsbD 1 || x.kinds.getLsbD 0
    let wide := decide (x.scope ≠ 0) && decide (kindOf s.turn = .core)
    let s1 := if stores && wide then flushDirty s (agentOf s.turn) else s
    let s2 := if loads && wide then dropShared s1 (agentOf s1.turn) else s1
    let s3 := if wide then closeBatches s2 (agentOf s2.turn) else s2
    let waits := (stores = true ∧ (storesPending s = true ∨ appendsPending s s.turn = true)) ∨ combining s s.turn = true
    (waits → exec (.fence x) s = .next { s with cur := unissued s.cur }) ∧
    (¬ waits → ∀ t tag dest, Reserves s3 x.d tag dest t →
      exec (.fence x) s = .next (committed x.st (emit t (.fenceComplete ⟨t.turn, tag, dest, 0, 0⟩ stores))))) ∧
  (∀ (s : State) (h : HartId), appendsPending s h = true ↔ ∃ e ∈ s.events, ∃ p l n, appendOf e = some (h, p, l, n)) ∧
  (∀ s : State, storesPending s = true ↔ unacknowledged s s.turn = true ∨
    ∃ e ∈ s.events, (∃ r, e = .storePerform r ∧ r.h = s.turn) ∨ ∃ port r, e = .remoteStore port r ∧ r.h = s.turn) ∧
  (∀ (r : Delivery) (stores : Bool) (s : State),
    let x := slotOf s r.h
    let f := x.failed
    let bit (b : Bool) : BitVec 1 := BitVec.ofBool b
    let status : W := (0 : BitVec 48) ++ BitVec.ofNat 8 (min f.count 255) ++ (0 : BitVec 5) ++ bit f.woff ++ bit f.refused ++ bit f.deadlink
    ((stores = false ∨ storesOf s r.h = false) → exec (.fenceComplete r stores) s =
      .next (deliver (setSlot s r.h { x with failed := ⟨0, false, false, false⟩ }) ⟨r.h, r.tag, r.dest, status, r.due⟩)) ∧
    (stores = true → storesOf s r.h = true →
      exec (.fenceComplete r stores) s = .next (emit s (.fenceComplete r stores)))) ∧
  (∀ (x : ABs) (s s1 s2 : State) (a b : W), Reads s x.a a s1 → Reads s1 x.b b s2 →
    let far (q : Nat × Nat) : Prop := ∃ pa size attrs port off,
      translate s2 s2.turn q.1 = .mapped pa size attrs ∧ regionOf pa = .remote port off
    (b = 0 ∨ a.toNat < windowBase → let parts := if b = 0 then [] else pageParts a.toNat b.toNat
      (∀ q ∈ parts, translate s2 s2.turn q.1 ≠ .poisoned ∧ ¬ far q) → ∃ (lines : List Nat) (evs : List Event),
        (∀ n, n ∈ lines ↔ ∃ q ∈ parts, ∃ pa size attrs,
          translate s2 s2.turn q.1 = .mapped pa size attrs ∧ n ∈ pageLines pa q.2) ∧
        let held : Prop := ∃ e ∈ s2.events, ∃ p l w, appendOf e = some (s2.turn, p, l, w) ∧
          ∃ n ∈ lines, placesMeet (.mem (n * 32), 32) (l, w) = true ∨ placesMeet (.remote (n * 32), 32) (l, w) = true
        (held → exec (.cpub x) s = .next { s with cur := unissued s.cur }) ∧
        (¬ held → exec (.cpub x) s = .next (issued x.st (emit { s2 with events := s2.events ++ evs }
          (.cpubComplete (agentOf s2.turn) x.scope lines))))) ∧
    (∀ pre q post, b ≠ 0 → a.toNat < windowBase → s.cur.launches = 0 → pageParts a.toNat b.toNat = pre ++ q :: post →
      (∀ p ∈ pre, translate s2 s2.turn p.1 ≠ .poisoned ∧ ¬ far p) →
      let traps (c : Cause) : Prop :=
        exec (.cpub x) s = .next (trapped c (accessInfo 0 false 1 (BitVec.ofNat 56 q.1)) s)
      (translate s2 s2.turn q.1 = .poisoned → traps .memerr) ∧ (far q → traps .protect)) ∧
    (b ≠ 0 → windowBase ≤ a.toNat → a.toNat < 2 ^ 56 → s.cur.launches = 0 →
      exec (.cpub x) s = .next (trapped .protect (accessInfo 5 false 1 (a.setWidth 56)) s))) ∧
  (∀ (core : Nat) (scope : BitVec 3) (lines : List Nat) (s : State), s.memOk = true →
    ∃ t, exec (.cpubComplete core scope lines) s = .next t ∧ t.pools = s.pools ∧
      (∀ c l, (∃ k, (c, k) ∈ s.cores) → inScope core scope.toNat c = true → l ∈ (coreOf t c).icache →
        ¬ (2 * l.line ∈ lines ∨ 2 * l.line + 1 ∈ lines)) ∧
      ∀ ca, memGet t.mem ca ≠ memGet s.mem ca → ∃ c l, inScope core scope.toNat c = true ∧ l ∈ (coreOf s c).l1 ∧
        l.dirty = true ∧ l.line ∈ lines ∧ l.line * 32 ≤ ca ∧ ca < l.line * 32 + 32)

/-- O37. For every state where a committing word may stand, once the checks pass on a header in memory and the slot's
own appends and contributions, which may be to the ring (log entry 104), are settled, each queue instruction takes its
queue position and destination, is sent to the header's home and commits. There the header's and the ring entry's
lines leave the issuer's L1 first. With the ring page readable and writable for the issuer: ENQ answers 2 for the
sentinel, 1 when full, else stores the item at TAIL mod capacity, TAIL grows and it answers 0; DEQ answers EMPTY when
HEAD = TAIL, else the item at HEAD and HEAD grows; SEQENQ answers 2, 1 outside the window of sequence numbers or for
2^64 − 1, 3 for a taken entry, else stores the item with tag c + 1; SEQDEQ answers EMPTY unless the entry at HEAD has
tag HEAD + 1, else the item, clears the tag, and HEAD grows. A malformed header answers a late QUEUE 1, one of the
other kind QUEUE 2, an uncorrectable one MEMERR. That a ring page which is not mapped, does not allow the issuer a
read and a write, or holds uncorrectable data answers a late PAGE, PROTECT or MEMERR with the ring address is the
model's choice (log entry 27), and so is that bytes of a cell are no bar (log entry 115). (R204, R205, R206, R207,
R311, R338, R344) -/
def Obligations.QueueOperationsAtTheirHome : Prop :=
  (∀ (x : RRR) (y : RR) (z : RRRR) (s s1 s2 s3 s4 t : State) (a b c : W) (p : Place) (ca tag : Nat) (dest : Dest), MayCommit s →
    let evicted := evictOf s4 s4.turn ca 64
    let settled (p : Place) : Prop := Gives (settleBytes p.loc 64) s4 () s4 ∧
      appendsPending s4 s4.turn = false ∧ combining s4 s4.turn = false
    let ships (i : Instr) (st : BitVec 3) (op : QueueOp) (b c : W) : Prop := exec i s = .next (committed st (emit t
      (.homeQueueOperation ⟨t.turn, tag, dest, t.cur.gpc, a.setWidth 56, ca, rootOf t t.turn, t.cur.sup, op, b, c⟩)))
    (Reads s x.a a s1 → Reads s1 x.b b s3 → Gives (checkAccess 2 64 64 .both false a) s3 p s4 → p.loc = .mem ca →
      settled p → Reserves evicted x.d tag dest t → ships (.enq x) x.st .enq b 0) ∧
    (Reads s y.a a s3 → Gives (checkAccess 2 64 64 .both false a) s3 p s4 → p.loc = .mem ca →
      settled p → Reserves evicted y.d tag dest t → ships (.deq y) y.st .deq 0 0 ∧ ships (.seqdeq y) y.st .seqdeq 0 0) ∧
    (Reads s z.a a s1 → Reads s1 z.b b s2 → Reads s2 z.c c s3 → Gives (checkAccess 2 64 64 .both false a) s3 p s4 →
      p.loc = .mem ca → settled p → Reserves evicted z.d tag dest t → ships (.seqenq z) z.st .seqenq b c)) ∧
  (∀ (r : QueueReq) (s : State) (ca : Nat), s.memOk = true → unitLoc r.pa = .mem ca →
    let s0 := evictOf s r.h ca 64
    (poisonedMem s0 ca 64 = true →
      exec (.homeQueueOperation r) s = .next (emit s0 (.lateFault r.h .memerr (accessInfo 0 true 2 r.va) ⟨r.tpc, r.tag⟩))) ∧
    (poisonedMem s0 ca 64 = false →
    let s1 := touchHeader (evictEntry s0 r.h (.mem ca) r.root r.sup r.op r.c.toNat) (.mem ca)
    let q := qheaderOf (memRead s1.mem ca 64)
    let cap := 2 ^ q.logcap
    let b := r.b.toNat
    let c := r.c.toNat
    let ends (v : Nat) (m : Memory) : Prop := ∃ w, w.mem = m ∧ w.pools = s.pools ∧ w.cur = s1.cur ∧ w.harts = s1.harts ∧
      exec (.homeQueueOperation r) s = .next
        (let u := deliver w ⟨r.h, r.tag, r.dest, BitVec.ofNat 64 v, 0⟩
         if r.op = .enq ∧ v = 0 then afterEnq u (.mem ca) else u)
    let headTail (m : Memory) (h t : Nat) : Memory := memWrite m (ca + 16) (natBytes 8 h ++ natBytes 8 t)
    let reaches (va n : Nat) (done : Nat → Prop) : Prop :=
      (∀ ring, ringAt s1 r.root r.sup va n = .ok ring → done ring) ∧
      ∀ cause reason, ringAt s1 r.root r.sup va n = .error (cause, reason) → exec (.homeQueueOperation r) s = .next
        (lateTrap (noteRing s1 (.mem ca) r.root (some va)) r.h cause reason 2 (BitVec.ofNat 56 va) ⟨r.tpc, r.tag⟩)
    HartsKept s s1 ∧ WrittenBackOnly s s1 (agentOf r.h) ∧
    (q.ok = false → exec (.homeQueueOperation r) s = .next (emit s1 (.lateFault r.h .queue (accessInfo 1 true 2 r.va) ⟨r.tpc, r.tag⟩))) ∧
    (q.ok = true → q.kind ≠ (if r.op = .enq ∨ r.op = .deq then 0 else 1) →
      exec (.homeQueueOperation r) s = .next (emit s1 (.lateFault r.h .queue (accessInfo 2 true 2 r.va) ⟨r.tpc, r.tag⟩))) ∧
    (q.ok = true → q.kind = 0 → r.op = .enq →
      (b = q.empty → ends 2 s1.mem) ∧
      (b ≠ q.empty → (q.tail + 2 ^ 64 - q.head) % 2 ^ 64 = cap → ends 1 s1.mem) ∧
      (b ≠ q.empty → (q.tail + 2 ^ 64 - q.head) % 2 ^ 64 ≠ cap →
        reaches (q.base + 8 * (q.tail % cap)) 8 fun ring =>
          ends 0 (headTail (memWrite s1.mem ring (natBytes 8 b)) q.head ((q.tail + 1) % 2 ^ 64)))) ∧
    (q.ok = true → q.kind = 0 → r.op = .deq →
      (q.head = q.tail → ends q.empty s1.mem) ∧
      (q.head ≠ q.tail → reaches (q.base + 8 * (q.head % cap)) 8 fun ring =>
        ends (leNat (memRead s1.mem ring 8)) (headTail s1.mem ((q.head + 1) % 2 ^ 64) q.tail))) ∧
    (q.ok = true → q.kind = 1 → r.op = .seqenq →
      let outside := c = 2 ^ 64 - 1 ∨ c < q.head ∨ q.head + cap ≤ c
      (b = q.empty → ends 2 s1.mem) ∧ (b ≠ q.empty → outside → ends 1 s1.mem) ∧
      (b ≠ q.empty → ¬ outside → reaches (q.base + 16 * (c % cap)) 16 fun ring =>
        (leNat (memRead s1.mem (ring + 8) 8) ≠ 0 → ends 3 s1.mem) ∧
        (leNat (memRead s1.mem (ring + 8) 8) = 0 →
          ends 0 (headTail (memWrite s1.mem ring (natBytes 8 b ++ natBytes 8 (c + 1))) q.head ((q.tail + 1) % 2 ^ 64))))) ∧
    (q.ok = true → q.kind = 1 → r.op = .seqdeq →
      reaches (q.base + 16 * (q.head % cap)) 16 fun ring =>
        (leNat (memRead s1.mem (ring + 8) 8) ≠ q.head + 1 → ends q.empty s1.mem) ∧
        (leNat (memRead s1.mem (ring + 8) 8) = q.head + 1 → ends (leNat (memRead s1.mem ring 8))
          (headTail (memWrite s1.mem (ring + 8) (natBytes 8 0)) ((q.head + 1) % 2 ^ 64) ((q.tail + 2 ^ 64 - 1) % 2 ^ 64)))))) ∧
  (∀ (s : State) (root va n : Nat) (sup : Bool),
    let is (c : Cause) (reason : Nat) : Prop := ringAt s root sup va n = .error (c, reason)
    ((∃ m, walk s root va = .unmapped m) → is .page 0) ∧ (walk s root va = .poisoned → is .memerr 0) ∧
    ∀ pa size attrs, walk s root va = .mapped pa size attrs →
      let a := attrsOf attrs
      let denied := sup = false ∧ a.u = false
      (denied ∨ (a.k = false ∧ ¬ (a.r = true ∧ a.w = true)) → is .protect 0) ∧ (¬ denied → a.k = true → is .protect 1) ∧
      (¬ denied → a.k = false → a.r = true → a.w = true →
        (inMemory pa n = false → is .page 0) ∧
        (inMemory pa n = true → poisonedMem s (canonPa pa) n = true → is .memerr 0) ∧
        (inMemory pa n = true → poisonedMem s (canonPa pa) n = false → ringAt s root sup va n = .ok (canonPa pa))))

/-- O38. For every state where a committing word may stand and the checks pass: XINIT.32, XINIT.64 and XCLR are sent
to the cell's home and commit, XADD's contribution merges into an open entry of its cell, by either physical address
of it, its context and frame at its router or opens one, of a full router's 32 the oldest going on, and it commits,
and XREAD takes its place and is sent without a commit. A forwarded entry, of one or more contributions, goes on to
the home. There the cell's lines leave the issuer's L1 first, and a declaration with room and without overlap zeroes
the cell's bytes and declares it; an addition to a cell of its kind leaves the sum wrapped to the accumulator, with
OVF added when the exact sum leaves its range, and every other byte of memory as it was; a read-out gives the
accumulator's real value rounded into the FP or integer format, the flags first, and its own flags reach FPFLAGS or,
one of them enabled, become an FP trap of the slot; a clear zeroes and ends the cell. An address that is no cell's
answers a late XCELL 1, for XADD one of the other kind XCELL 2, and uncorrectable data among a cell's bytes MEMERR, to
every contributor; a failure that an XADD issued in user mode gets while its slot is in its switch handler is kept for
it (read from R176 and R424, log entries 25 and 74). (R153, R155, R156, R157, R176, R199, R200, R201, R202, R399,
R424, R462) -/
def Obligations.CellsAddExactly : Prop :=
  (∀ (x : A1) (s s1 s2 s3 : State) (a : W) (pa : Nat), MayCommit s → Reads s x.a a s1 →
    let ships (i : Instr) (k : CellKind) (op : CellOp) : Prop := Gives (evictCell pa k) { s2 with tags := s2.tags + 1 } () s3 →
      exec i s = .next (committed x.st (emit s3 (.homeCellOperation ⟨s3.turn, s2.tags, .none, s3.cur.gpc, a.setWidth 56, pa, 0, op⟩)))
    (Gives (cellPlace 64 a (some .xa32)) s1 (pa, .xa32) s2 → ships (.xinit32 x) .xa32 (.init .xa32)) ∧
    (∀ k, Gives (cellPlace 64 a none) s1 (pa, k) s2 → ships (.xclr x) k .clear) ∧
    (Gives (cellPlace 512 a (some .xa64)) s1 (pa, .xa64) s2 → ships (.xinit64 x) .xa64 (.init .xa64))) ∧
  (∀ (x : Xread) (s s1 s2 s3 s4 : State) (a : W) (pa tag : Nat) (dest : Dest) (k : CellKind), Reads s x.a a s1 →
    Gives (cellPlace 64 a none) s1 (pa, k) s2 → Reserves s2 x.d tag dest s3 → Gives (evictCell pa k) s3 () s4 → ∃ w, encode (.xread x) = some w ∧
    exec (.xread x) s = .next (issued x.st (emit s4
      (.homeCellOperation ⟨s4.turn, tag, dest, s4.cur.gpc, a.setWidth 56, pa, w, .read x.fmt x.mode⟩)))) ∧
  (∀ (x : Xadd) (s s1 s2 s3 s4 : State) (a b : W) (pa : Nat), MayCommit s → Reads s x.a a s1 → Reads s1 x.b b s2 →
    let k := (addend x.fmt b).1
    Gives (cellAddress (if k = .xa64 then 512 else 64) a) s2 pa s3 → Gives (settleAppends pa k) s3 () s3 →
    Gives (evictCell pa k) s3 () s4 →
    exec (.xadd x) s = .next (committed x.st (mergeContribution s4 (routerOf (agentOf s4.turn)) s4.cur.ctx pa (a.setWidth 56)
      s4.cur.gpc k (contribution k (addend x.fmt b).2)))) ∧
  (∀ (s : State) (router pa : Nat) (ctx : BitVec 16) (va tpc : Addr) (k : CellKind) (v : CellValue),
    let same (e : Combine) : Bool :=
      decide (e.router = router ∧ e.ctx = ctx ∧ e.frame = s.module.frame ∧ canonPa e.pa = canonPa pa ∧ e.kind = k)
    let here := s.combine.filter fun e => e.router == router
    let me : Contributor := ⟨s.turn, ⟨tpc, s.tags⟩, s.cur.sup, va⟩
    let opened : Combine := ⟨router, ctx, s.module.frame, s.tick, pa, k, v.acc, v.flags, [me]⟩
    let merged := mergeContribution s router ctx pa va tpc k v
    let joined (e : Combine) : Combine :=
      let c := cellAdd k ⟨e.acc, e.flags⟩ v
      { e with acc := c.acc, flags := c.flags, from_ := e.from_ ++ [me] }
    let merge (e : Combine) : Combine := if same e then joined e else e
    ((∃ e ∈ s.combine, same e = true) → merged = { s with combine := s.combine.map merge, tags := s.tags + 1 }) ∧
    ((∀ e ∈ s.combine, same e = false) → here.length < 32 → merged = { s with combine := s.combine ++ [opened], tags := s.tags + 1 }) ∧
    (∀ e rest, (∀ e ∈ s.combine, same e = false) → 32 ≤ here.length → here = e :: rest →
      merged = { emit s (.combineForward router e.id) with combine := s.combine ++ [opened], tags := s.tags + 1 })) ∧
  (∀ (router : Nat) (s : State) (e : Combine) (f : Contributor) (rest : List Contributor),
    e ∈ s.combine → e.router = router → e.from_ = f :: rest →
    (∀ e' ∈ s.combine, e'.router = router → e'.id = e.id → e' = e) →
    exec (.combineForward router e.id) s = .next (emit { s with combine := s.combine.erase e }
      (.homeCellOperation ⟨f.h, 0, .none, f.op.tpc, f.va, e.pa, 0, .partial_ e.kind e.acc e.flags e.from_⟩))) ∧
  (∀ (k : CellKind) (c v : CellValue),
    let bits := if k = .xa32 then 504 else 2552
    let r := cellAdd k c v
    (-(2 ^ (bits - 1)) ≤ c.acc + v.acc → c.acc + v.acc < 2 ^ (bits - 1) → r = ⟨c.acc + v.acc, c.flags ||| v.flags⟩) ∧
    (¬ (-(2 ^ (bits - 1)) ≤ c.acc + v.acc ∧ c.acc + v.acc < 2 ^ (bits - 1)) → r.flags = c.flags ||| v.flags ||| 8 ∧
      (2 ^ bits : Int) ∣ r.acc - (c.acc + v.acc) ∧ -(2 ^ (bits - 1)) ≤ r.acc ∧ r.acc < 2 ^ (bits - 1))) ∧
  (∀ (fmt : BitVec 3) (b : W) (v : ℝ), IsReal (addend fmt b).2 v → fmt.toNat < 6 →
    let k := (addend fmt b).1
    (k = .xa64 ↔ fmt = 0) ∧ (contribution k (addend fmt b).2).flags = 0 ∧
      ((contribution k (addend fmt b).2).acc : ℝ) * (2 : ℝ) ^ (if k = .xa32 then (-149 : ℤ) else -1074) = v) ∧
  (∀ (fmt : BitVec 3) (b : W), fmt.toNat < 4 →
    let adds := contribution (addend fmt b).1 (addend fmt b).2
    let u := unpack (fmtOf (BitVec.ofNat 2 fmt.toNat)) b.toNat
    (u.isNan = true → adds = ⟨0, 4⟩) ∧ (u = .inf false → adds = ⟨0, 1⟩) ∧ (u = .inf true → adds = ⟨0, 2⟩)) ∧
  (∀ (r : CellReq) (s : State), s.memOk = true →
    let late (s0 : State) (c : Cause) (reason : BitVec 4) : Prop :=
      exec (.homeCellOperation r) s = .next (emit s0 (.lateFault r.h c (accessInfo reason true 2 r.va) ⟨r.tpc, r.tag⟩))
    (∀ k, r.op = .init k → inMemory r.pa (cellBytes k) = true →
      let others := s.cells.filter fun c => canonPa c.1 != canonPa r.pa
      let s0 := evictCellOf s r.h r.pa k
      let here : State := { s0 with cells := others }
      HartsKept s s0 ∧ WrittenBackOnly s s0 (agentOf r.h) ∧
      ((cellPieces r.pa k).any (fun q => touchesCell here q.1 q.2) = true → late s0 .xcell 5) ∧
      ((cellPieces r.pa k).any (fun q => touchesCell here q.1 q.2) = false →
        (1048576 < cellLoad here (homeOf r.pa) + (if k = .xa32 then 64 else 512) → late s0 .xcell 4) ∧
        (cellLoad here (homeOf r.pa) + (if k = .xa32 then 64 else 512) ≤ 1048576 → cellPoisoned s0 r.pa k = true → late s0 .memerr 0) ∧
        (cellLoad here (homeOf r.pa) + (if k = .xa32 then 64 else 512) ≤ 1048576 → cellPoisoned s0 r.pa k = false → ∃ t,
          exec (.homeCellOperation r) s = .next t ∧ t.cells = mapPut others r.pa k ∧ t.pools = s.pools ∧
          ∀ p, memGet t.mem p = if (cellPieces r.pa k).any fun q => decide (q.1 ≤ p ∧ p < q.1 + q.2) then 0 else memGet s0.mem p))) ∧
    ((r.op = .clear ∨ ∃ f m, r.op = .read f m) → cellAt s r.pa = none → late s .xcell 1) ∧
    ((r.op = .clear ∨ ∃ f m, r.op = .read f m) → ∀ pa k, cellAt s r.pa = some (pa, k) →
      let s0 := evictCellOf s r.h pa k
      HartsKept s s0 ∧ WrittenBackOnly s s0 (agentOf r.h) ∧ (cellPoisoned s0 pa k = true → late s0 .memerr 0)) ∧
    (∀ pa k, r.op = .clear → cellAt s r.pa = some (pa, k) → cellPoisoned (evictCellOf s r.h pa k) pa k = false →
      ∃ t, exec (.homeCellOperation r) s = .next t ∧ t.cells = mapDel s.cells pa ∧ t.pools = s.pools ∧
      ∀ p, memGet t.mem p = if (cellPieces pa k).any fun q => decide (q.1 ≤ p ∧ p < q.1 + q.2) then 0
        else memGet (evictCellOf s r.h pa k).mem p) ∧
    (∀ f m pa k, r.op = .read f m → cellAt s r.pa = some (pa, k) → cellPoisoned (evictCellOf s r.h pa k) pa k = false →
      let s0 := evictCellOf s r.h pa k
      let x := slotOf s0 r.h
      let v := readOut k (cellOfBytes k (physRead s0 pa (cellBytes k))) f (modeOfCode m.toNat)
      (v.2 &&& x.fpte = 0 → exec (.homeCellOperation r) s =
        .next (deliver (setSlot s0 r.h { x with fpflags := x.fpflags ||| v.2 }) ⟨r.h, r.tag, r.dest, v.1, 0⟩)) ∧
      (v.2 &&& x.fpte ≠ 0 → exec (.homeCellOperation r) s = .next (setSlot s0 r.h { x with
        fpTraps := x.fpTraps ++ [⟨s.tick, r.tpc, r.word ++ (0 : BitVec 19) ++ (v.2 &&& x.fpte) ++ (0 : BitVec 3) ++ v.2, false⟩] }))) ∧
    (∀ k acc fl from_, r.op = .partial_ k acc fl from_ →
      let s1 := from_.foldl (fun u f => evictCellOf u f.h r.pa k) s
      let refused (c : Cause) (reason : BitVec 4) : Prop := exec (.homeCellOperation r) s = .next
        (from_.foldl (fun u f => if kindOf f.h = .core ∧ f.sup = false ∧ (slotOf u f.h).sup = true then
          holdFault u f.h ⟨c, accessInfo reason true 2 f.va, f.op⟩
        else emit u (.lateFault f.h c (accessInfo reason true 2 f.va) f.op)) s1)
      (cellAt s r.pa = none → refused .xcell 1) ∧
      (∀ pa k', cellAt s r.pa = some (pa, k') → k ≠ k' → refused .xcell 2) ∧
      (∀ pa, cellAt s r.pa = some (pa, k) → cellPoisoned s1 pa k = true → refused .memerr 0) ∧
      (∀ pa, cellAt s r.pa = some (pa, k) → cellPoisoned s1 pa k = false → ∃ t, exec (.homeCellOperation r) s = .next t ∧
        t.cells = s.cells ∧ t.pools = s.pools ∧ (∀ f, from_ = [f] → WrittenBackOnly s s1 (agentOf f.h)) ∧
        (pa % (if k = .xa32 then 64 else 512) = 0 → physRead t pa (cellBytes k) =
          cellImage k (cellAdd k (cellOfBytes k (physRead s1 pa (cellBytes k))) ⟨acc, fl⟩)) ∧
        ∀ p, (cellPieces pa k).any (fun q => decide (q.1 ≤ p ∧ p < q.1 + q.2)) = false → memGet t.mem p = memGet s1.mem p))) ∧
  (∀ (k : CellKind) (c : CellValue) (fmt : BitVec 3) (m : RMode), fmt.toNat < 6 → m ≠ .sto →
    let f := fmtOf (BitVec.ofNat 2 fmt.toNat)
    let bit (i : Nat) : Bool := c.flags.getLsbD i
    let invalid := (bit 2 || bit 3 || (bit 0 && bit 1)) = true
    (fmt.toNat < 4 →
      (invalid → readOut k c fmt m = (BitVec.ofNat 64 f.nanBits, flagNV)) ∧
      (¬ invalid → bit 0 = true → readOut k c fmt m = (BitVec.ofNat 64 f.infBits, 0)) ∧
      (¬ invalid → bit 1 = true → readOut k c fmt m = (BitVec.ofNat 64 (f.infBits + f.signBit), 0)) ∧
      (c.flags = 0 → c.acc = 0 → readOut k c fmt m = (0, 0)) ∧
      (c.flags = 0 → c.acc ≠ 0 → ∃ res, readOut k c fmt m = (BitVec.ofNat 64 res.bits, res.flags) ∧
        IsRound f ⟨m, 0⟩ (decide (c.acc < 0)) (|(c.acc : ℝ)| * (2 : ℝ) ^ (if k = .xa32 then (-149 : ℤ) else -1074)) res)) ∧
    (4 ≤ fmt.toNat →
      let n := if fmt = 4 then 32 else 64
      let lo : ℤ := -(2 ^ (n - 1))
      let hi : ℤ := 2 ^ (n - 1) - 1
      let gives (v : ℤ) (fl : BitVec 5) : Prop := readOut k c fmt m = (BitVec.ofInt 64 v, fl)
      (invalid → gives 0 flagNV) ∧ (¬ invalid → bit 0 = true → gives hi flagNV) ∧ (¬ invalid → bit 1 = true → gives lo flagNV) ∧
      (c.flags = 0 → c.acc = 0 → gives 0 0) ∧
      (c.flags = 0 → c.acc ≠ 0 → ∃ j : ℤ,
        let a : ℝ := |(c.acc : ℝ)| * (2 : ℝ) ^ (if k = .xa32 then (-149 : ℤ) else -1074)
        let u : ℤ := (if c.acc < 0 then -1 else 1) * j
        RoundsTo ⟨m, 0⟩ (decide (c.acc < 0)) a j ∧ (u < lo → gives lo flagNV) ∧ (hi < u → gives hi flagNV) ∧
          (lo ≤ u → u ≤ hi → ((j : ℝ) = a → gives u 0) ∧ ((j : ℝ) ≠ a → gives u flagNX)))))

/-- O39. For every state whose hart's context is placed on its core: HTSET of a channel below 64, with a loaded block
that meets the format, replaces that channel's entry with the block's, MASK staying 0 on channels 4 and 5, and, if it
is not valid, brings the waiting messages of channels without a valid entry up to be refused; channels 4 to 7 and SUP
entries are for supervisor mode. HTGET of an entry gives, by bit 6 of a, bytes 8 to 15 as they were set or its PC
(latency 2). CHMASK and CHUNMASK set and clear MASK of one entry. A channel of 64 or more traps PROTECT 16, a channel
or a SUP entry that the mode may not name 18, a block that breaks the format 19, for which bits 1 and 0 of PC count
among the reserved ones (the model's choice, log entry 117). Other entries, the registers and memory stay. (R218,
R219, R220, R221, R222, R223) -/
def Obligations.HandlerTableWords : Prop :=
  (∀ (x : AB) (s s1 s2 s3 : State) (a b : W) (bs : List Byte) (p : Placement), Reads s x.a a s1 → Reads s1 x.b b s2 →
    let ch := a.toNat
    let system := 4 ≤ ch ∧ ch ≤ 7
    let e := entryOfBytes bs
    let good := entryReservedOk bs = true ∧ landingOk e (padSize s2.cur.partw) = true
    let traps (reason : BitVec 8) (v : W) : Prop := s.cur.launches = 0 →
      exec (.htset x) s = .next (trapped .protect (operationInfo reason false (v.setWidth 55)) s)
    (64 ≤ ch → traps 16 a) ∧ (ch < 64 → s2.cur.sup = false → system → traps 18 a) ∧
    (ch < 64 → (s2.cur.sup = true ∨ ¬ system) → Gives (loadVa 0 16 16 b) s2 bs s3 →
      (¬ good → traps 19 b) ∧ (good → s3.cur.sup = s2.cur.sup → s2.cur.sup = false → e.sup = true → traps 18 a) ∧
      (good → (s2.cur.sup = true ∨ e.sup = false) → placementOf s3 (agentOf s3.turn) s3.cur.ctx = some p →
        let e' := { e with mask := e.mask && !(ch == 4 || ch == 5) }
        let t := setPlacement s3 (agentOf s3.turn) { p with htab := setEntry p.htab ch e' }
        exec (.htset x) s = .next (issued x.st
          (if e.valid then t else refuseWaiting t (agentOf t.turn) t.cur.ctx))))) ∧
  (∀ (t : List HEntry) (ch i : Nat) (e : HEntry), ch < 64 → i < 64 →
    (setEntry t ch e)[i]? = some (if i = ch then e else (t[i]?).getD HEntry.zero)) ∧
  (∀ (x : RR) (s s1 t : State) (a : W) (p : Placement), Reads s x.a a s1 →
    placementOf s1 (agentOf s1.turn) s1.cur.ctx = some p →
    let e := entryAt p (a.toNat % 64)
    let bit (b : Bool) : BitVec 1 := BitVec.ofBool b
    let high : W := (0 : BitVec 32) ++ bit e.valid ++ bit e.mask ++ bit e.cls ++ e.level ++ bit e.sup ++ (0 : BitVec 7) ++ e.landing
    Produces s1 x.d (if a.getLsbD 6 then e.pc.zeroExtend 64 else high) 2 t → exec (.htget x) s = .next (issued x.st t)) ∧
  (∀ bs : List Byte, entryReservedOk bs = true →
    let e := entryOfBytes bs
    e.pc.toNat = dword bs 0 % 2 ^ 64 ∧ entryHigh e = dword bs 8) ∧
  (∀ (x : A1) (s s1 : State) (a : W) (p : Placement), Reads s x.a a s1 →
    placementOf s1 (agentOf s1.turn) s1.cur.ctx = some p →
    let ch := a.toNat
    let sets (m : Bool) : State := issued x.st
      (setPlacement s1 (agentOf s1.turn) { p with htab := setEntry p.htab ch { entryAt p ch with mask := m } })
    let traps (i : Instr) (reason : BitVec 8) : Prop := s.cur.launches = 0 →
      exec i s = .next (trapped .protect (operationInfo reason false (a.setWidth 55)) s)
    (64 ≤ ch → traps (.chmask x) 16 ∧ traps (.chunmask x) 16) ∧
    (ch < 64 → ch = 4 ∨ ch = 5 → traps (.chmask x) 18) ∧
    (ch < 64 → s1.cur.sup = false → ch = 6 ∨ ch = 7 → traps (.chmask x) 18 ∧ traps (.chunmask x) 18) ∧
    (ch < 64 → ch ≠ 4 → ch ≠ 5 → (s1.cur.sup = true ∨ (ch ≠ 6 ∧ ch ≠ 7)) → exec (.chmask x) s = .next (sets true)) ∧
    (ch < 64 → (s1.cur.sup = true ∨ (ch ≠ 6 ∧ ch ≠ 7)) → exec (.chunmask x) s = .next (sets false)))

/-- O40. For every state of a core or engine where a committing word may stand, once the destination, weight, payload
and the earlier stores, appends and cell contributions allow: SEND and PUSH send floor(WCUR / 2), SENDW c below WCUR,
SENDM floor(WCUR / (n + 1)) to each of its n cores; the slot keeps the rest, so that kept and sent weight add up to
WCUR; the word releases at its scope, its messages are on their way, and it commits. SEND to channels 4 and 5 and
SENDW on a clerk take no weight. The destination checks trap PROTECT 16, 17 and 18. A clerk's SEND names channel 4 or
5, and step 2 is for channel 5. An arriving message waits in the interface of a frozen module's core, and of a core
that holds its context and a valid entry (a root start needs none), or in the context buffer when the inbound queue is
full; it is spilled there when the context is absent, and written off with a KIND 10 report when the buffer is full;
it is written off and reported when refused (one of weight 0 is dropped); on channel 4 it raises a request in each
named slot that runs the context. That an invalid entry is refused also where the context is absent (log entry 36),
and when the inbound queue is full (log entry 109), are the model's choices. (R223, R227, R228, R229, R230, R231,
R232, R233, R234, R429, R433, R436) -/
def Obligations.SendsSplitWeightAndArrive : Prop :=
  (∀ (x : AB) (y : ABC) (s s1 s2 s3 s4 s5 : State) (a b c : W) (cores : List Nat) (ch : Nat) (payload d : List W), MayCommit s →
    kindOf s.turn ≠ .clerk → kindOf s3.turn = kindOf s.turn →
    let ready : Prop := accessesPending s4 = false ∧
      Gives (release (widest (cores.map (scopeBetween (agentOf s4.turn))))) s4 () s5
    let sent (w : Nat) (kind : MsgKind) : State := { s5 with
      cur := { s5.cur with wcur := BitVec.ofNat 48 (s3.cur.wcur.toNat - cores.length * w) }
      events := s5.events ++ cores.map fun core => .messageArrival core
        ⟨s4.cur.ctx, BitVec.ofNat 6 ch, s4.turn, BitVec.ofNat 48 w, payload, kind,
          widest (cores.map (scopeBetween (agentOf s4.turn)))⟩ }
    let share := s3.cur.wcur.toNat / (cores.length + 1)
    (Reads s x.a a s1 → Reads s1 x.b b s3 → s3.cur.wcur ≠ 0 → share ≠ 0 →
      (Gives (checkDest a false false) s3 (cores, ch) s3 → Gives (payloadOf a b) s3 payload s4 → ready →
        exec (.send x) s = .next (committed x.st (sent share .plain))) ∧
      (Gives (checkDest a true false) s3 (cores, ch) s3 → Gives (payloadOf a b) s3 payload s4 → ready →
        exec (.sendm x) s = .next (committed x.st (sent share .plain))) ∧
      (∀ s' : State, Gives (checkDest a false true) s3 (cores, ch) s3 → cores.length = 1 → kindOf s.turn = .core →
        kindOf s'.turn = .core → Gives (localWords b 4) s3 d s' → d.length = 4 →
        pushOk true (d[0]!).toNat (d[1]!).toNat (d[2]!).toNat (d[3]!).toNat = true →
        Gives (localWords (d[2]!) ((d[3]!).toNat / 8)) s' payload s4 → ready →
        exec (.push x) s = .next (committed x.st (sent share (.push ((d[0]!).setWidth 56) (d[1]!))))) ∧
      share * cores.length + (s3.cur.wcur.toNat - cores.length * share) = s3.cur.wcur.toNat) ∧
    (Reads s y.a a s1 → Reads s1 y.b b s2 → Reads s2 y.c c s3 → Gives (checkDest a false false) s3 (cores, ch) s3 →
      cores.length = 1 → c ≠ 0 → c.toNat < s3.cur.wcur.toNat → Gives (payloadOf a b) s3 payload s4 → ready →
      exec (.sendw y) s = .next (committed y.st (sent c.toNat .plain)))) ∧
  (∀ (x : AB) (y : ABC) (s s1 s2 s3 s4 : State) (a b c : W) (core ch : Nat), MayCommit s → kindOf s.turn = .clerk →
    s3.turn = s.turn → field a.toNat 25 20 = 0 → accessesPending s3 = false → s4 = s3 →
    let sent (w : Nat) : State := { s3 with events := s3.events ++
      [.messageArrival core ⟨s3.cur.ctx, BitVec.ofNat 6 ch, s3.turn, BitVec.ofNat 48 w, [b], .plain,
        widest [scopeBetween (agentOf s3.turn) core]⟩] }
    (Reads s x.a a s1 → Reads s1 x.b b s3 → Gives (clerkDest a) s3 ([core], ch) s3 →
      exec (.send x) s = .next (committed x.st (sent 0))) ∧
    (Reads s y.a a s1 → Reads s1 y.b b s2 → Reads s2 y.c c s3 → Gives (checkDest a false false) s3 ([core], ch) s3 →
      5 ≤ ch → c ≠ 0 → c.toNat < 2 ^ 48 →
      exec (.sendw y) s = .next (committed y.st (sent c.toNat)))) ∧
  (∀ (w : W) (multi push : Bool) (s : State),
    let ch := field w.toNat 18 13
    let cores := destCores w.toNat multi
    let placed := ∀ c ∈ cores, placementOf s c s.cur.ctx ≠ none
    let stops (reason : BitVec 8) (v : BitVec 55) : Prop :=
      checkDest w multi push s = .error (.trap .protect (operationInfo reason false v))
    let ok := destOk w.toNat multi push
    (ok = false → stops 16 (w.setWidth 55)) ∧
    (ok = true → ¬ placed → stops 17 (w.setWidth 55)) ∧
    (ok = true → placed → (ch ≤ 1 ∨ (s.cur.sup = false ∧ 4 ≤ ch ∧ ch ≤ 7)) → stops 18 (BitVec.ofNat 55 ch)) ∧
    (ok = true → placed → 2 ≤ ch → (s.cur.sup = true ∨ ch < 4 ∨ 7 < ch) → Gives (checkDest w multi push) s (cores, ch) s) ∧
    (multi = false → cores = [field w.toNat 11 0]) ∧
    (∀ core, multi = true → ok = true → (core ∈ cores ↔ ∃ x y k, field w.toNat 53 51 ≤ x ∧ x ≤ field w.toNat 50 48 ∧
      field w.toNat 47 45 ≤ y ∧ y ≤ field w.toNat 44 42 ∧ k < 8 ∧ w.getLsbD (56 + k) = true ∧
      core = (64 * field w.toNat 55 54 + 8 * y + x) * 8 + k))) ∧
  (∀ (w : W) (s : State),
    let ch := field w.toNat 18 13
    let core := field w.toNat 11 0
    let ok := destOk w.toNat false false
    let placed := placementOf s core s.cur.ctx ≠ none
    let stops (reason : BitVec 8) (v : BitVec 55) : Prop :=
      clerkDest w s = .error (.trap .protect (operationInfo reason false v))
    (ok = false → stops 16 (w.setWidth 55)) ∧ (ok = true → ch ≠ 4 → ch ≠ 5 → stops 18 (BitVec.ofNat 55 ch)) ∧
    (ok = true → ch = 5 → ¬ placed → stops 17 (w.setWidth 55)) ∧
    (ok = true → ch = 4 ∨ (ch = 5 ∧ placed) → Gives (clerkDest w) s ([core], ch) s)) ∧
  (∀ (core : Nat) (m : Msg) (s : State),
    let arrives (t : State) : Prop := exec (.messageArrival core m) s = .next t
    let k := coreOf s core
    let waits : State := setCore s core { k with ni := k.ni ++ [m] }
    let refused : State := report (emit s (.homeWeightUpdate (.writeOff m.ctx m.weight.toNat))) (dieOfAgent core) 7 core 0 0
      m.channel.toNat false
    (s.module.frozen ≠ none →
      ((∀ p, placementOf s core m.ctx = some p → p.absent = true ∨ overflows s core p = false) → arrives waits) ∧
      (∀ p, placementOf s core m.ctx = some p → p.absent = false → overflows s core p = true → arrives (spillOne core s m))) ∧
    (s.module.frozen = none → ¬ (m.channel = 4 ∧ m.kind = .plain) →
    (placementOf s core m.ctx = none → m.weight ≠ 0 → arrives refused) ∧
    (placementOf s core m.ctx = none → m.weight = 0 →
      arrives (if m.channel = 0 then emit s (.contextComplete m.ctx) else s)) ∧
    (∀ p, placementOf s core m.ctx = some p →
      let taken := isRoot m = true ∨ (entryAt p m.channel.toNat).valid = true
      (¬ taken → m.weight ≠ 0 → arrives refused) ∧
      (taken → p.absent = true ∨ overflows s core p = true → arrives (spillOne core s m)) ∧
      (taken → p.absent = false → overflows s core p = false → arrives waits)))) ∧
  (∀ (core : Nat) (m : Msg) (s : State) (p : Placement), placementOf s core m.ctx = some p →
    let die := dieOfAgent core
    let i := freeEntry s m.ctx
    (overflows s core p = true ↔
      (∃ n ∈ p.spilled, ∃ b, bufferBase s die p.ctx = some b ∧ poisonedPhys s (b + 320 * n.index) 320 = false) ∨
      ((coreOf s core).ni ≠ [] ∧ Config.inboundRoom ≤ (coreOf s core).ni.length)) ∧
    (bufferBase s die m.ctx = none → bufferSize s die m.ctx = 0) ∧
    (∀ b, bufferBase s die m.ctx = some b → i < bufferSize s die m.ctx → spillOne core s m =
      setPlacement (physWrite s (b + 320 * i) (msgBytes m))
      core { p with spilled := p.spilled ++ [⟨i, m.kind, m.scope⟩] }) ∧
    (bufferSize s die m.ctx ≤ i → spillOne core s m =
      report (emit s (.homeWeightUpdate (.writeOff m.ctx m.weight.toNat))) die 10 core 0 0 m.channel.toNat false)) ∧
  (∀ (core : Nat) (m : Msg) (s : State), core < 2048 → s.module.frozen = none → m.channel = 4 → m.kind = .plain → ∃ t,
    exec (.messageArrival core m) s = .next t ∧ t.mem = s.mem ∧ t.pools = s.pools ∧
    let v : W := (m.payload[0]?).getD 0
    ∀ h ∈ [hartOf core true, hartOf core false],
      let x := slotOf s h
      let named := (if isH h then v.getLsbD 16 else v.getLsbD 17) = true
      (slotOf t h).wfi = none ∧
      (named → runsStrand x (v.setWidth 16) = true → (slotOf t h).request = some v) ∧
      (¬ (named ∧ runsStrand x (v.setWidth 16) = true) → (slotOf t h).request = x.request))

/-- O41. For every state outside delay slots and REP bodies, once nothing of the slot is still to answer: SUSPEND
writes the 64-byte record (state 10, class, flags, next word, weight, context, n0 to n5) at CREC after the L1's dirty
lines, and leaves the slot empty, its lanes, lease and landing region given up; WAITV does the same and registers its
watch; YIELD writes state 01 and puts CREC on the ready queue, as a rotation does once nothing of the strand is in
flight; DONE returns WCUR through the interface and frees the record. SUSPEND, YIELD and WAITV in a QUIESCE handler
trap WEIGHT_FINE 3. A watch whose word differs is due at once; firing turns a record from state 10 to 01 and only then
enqueues it. That the record's FPFLAGS take in flags still on their way is read from the rules (log entry 83); that a
poisoned record stays as it is, is the model's choice (log entry 91). (R34, R35, R176, R208, R225, R237, R242, R321,
R378, R421) -/
def Obligations.StrandsLeaveTheirSlot : Prop :=
  let bit (b : Bool) : BitVec 1 := BitVec.ofBool b
  let gone (y : Slot) : Prop := y.live = false ∧ y.wcur = 0 ∧ y.vlanes = 0 ∧ y.lease.held = false ∧ y.landing = none ∧
    y.crec = 0 ∧ (∀ j, j < 8 → nEntry y j = ⟨0, 0, 0⟩) ∧ ∀ j, j < 16 → qEntry y j = ⟨0, 0, 0⟩
  (∀ (x : N0) (s : State), InOpen s → s.cur.quiesce = false → Gives settleStrand s () s →
    let u := committed x.st s
    exec (.suspend x) s = .next (suspendAs u s.turn 2 s.cur.npc) ∧
      exec (.yield x) s = .next (enqFor (suspendAs u s.turn 1 s.cur.npc) (agentOf s.turn) s.cur.ctx (readyQueue u s.cur.ctx) s.cur.crec)) ∧
  (∀ (s : State) (h : HartId) (state : BitVec 2) (pc : Addr) (ca : Nat), s.memOk = true → kindOf h = .core →
    let x := slotOf s h
    let f := flushDirty s (agentOf h)
    let t := suspendAs s h state.toNat pc
    recordLoc f (agentOf h) x.ctx x.crec = some ca →
    gone (slotOf t h) ∧ memRead t.mem ca 64 = natBytes 8 (state ++ bit (isH h) ++ fpflagsFinal x ++ pc).toNat ++
      natBytes 8 (x.wcur ++ x.ctx).toNat ++ ((List.range 6).flatMap fun j => natBytes 8 (nEntry x j).val.toNat) ∧
    ∀ p, p < ca ∨ ca + 64 ≤ p → memGet t.mem p = memGet f.mem p) ∧
  (∀ (x : N0) (s : State), InOpen s → kindOf s.turn = .core → unsettled s s.turn = false →
    ∃ t, exec (.done x) s = .next t ∧ t = endStrand (committed x.st s) s.turn ∧ gone t.cur ∧
      (coreOf t (agentOf s.turn)).returns = (coreOf s (agentOf s.turn)).returns ++
        (if s.cur.wcur = 0 then [] else [(s.cur.ctx, s.cur.wcur.toNat)])) ∧
  (∀ (x : N0) (s : State), InOpen s → kindOf s.turn = .porter ∨ kindOf s.turn = .carter → unsettled s s.turn = false →
    exec (.done x) s = .next (endJob (committed x.st s) (agentOf s.turn) 0 0 0)) ∧
  (∀ (x : ABw) (s s1 s2 s3 : State) (a b : W) (p : Place) (ca : Nat), InOpen s → Reads s x.a a s1 → Reads s1 x.b b s2 →
    let n := if x.wide = 1 then 8 else 4
    Gives (checkAccess 5 n n .read false a) s2 p s3 →
    (p.loc = .mem ca ∨ ∃ off, p.loc = .config off ∧ ca = 0x200000000000 + off) → kindOf s3.turn ≠ .clerk → s3.cur.quiesce = false →
    Gives settleStrand s3 () s3 →
    exec (.waitv x) s = .next (emit (suspendAs (committed x.st s3) s3.turn 2 s3.cur.npc)
      (.watchRegister ⟨s3.cur.ctx, ca, n, b, s3.cur.crec, none⟩))) ∧
  (∀ (x : N0) (s : State), InOpen s → s.cur.quiesce = true → s.cur.launches = 0 → ∀ i ∈ [Instr.suspend x, .yield x],
    exec i s = .next (trapped .weightFine (operationInfo 3 false 0) s)) ∧
  (∀ (x : ABw) (s s1 s2 s3 : State) (a b : W) (p : Place), InOpen s → Reads s x.a a s1 → Reads s1 x.b b s2 →
    let n := if x.wide = 1 then 8 else 4
    Gives (checkAccess 5 n n .read false a) s2 p s3 → kindOf s3.turn ≠ .clerk → s3.cur.quiesce = true → s.cur.launches = 0 →
    exec (.waitv x) s = .next (trapped .weightFine (operationInfo 3 false 0) s)) ∧
  (∀ (h : HartId) (s : State),
    ((slotOf s h).rotate = true → unsettled s h = false →
      exec (.lSlotRotation h) s = .next (yieldAs s h (slotOf s h).pc)) ∧
    ((slotOf s h).rotate = false ∨ unsettled s h = true → exec (.lSlotRotation h) s = .next s)) ∧
  (∀ s : State, rotateIfDue s = if rotationDue s s.turn then { s with cur := { s.cur with rotate := true } } else s) ∧
  (∀ (w : Watch) (s : State), (s.watches.filter fun v => homeOf v.pa == homeOf w.pa).length < 1024 →
    let t : State := { s with watches := s.watches ++ [w] }
    exec (.watchRegister w) s = .next (if watchDiffers s w then emit t (.watchFire w) else t)) ∧
  (∀ (w : Watch) (s : State), exec (.watchFire w) s = .next s ∨ w ∈ s.watches) ∧
  (∀ (w : Watch) (s : State) (ca : Nat), w ∈ s.watches → w.clerk = none → recordLoc s (sliceAgent (homeOf w.pa)) w.ctx w.crec = some ca →
    let s' : State := { s with watches := s.watches.erase w }
    let d := leNat (memRead s.mem ca 8)
    (d / 2 ^ 62 = 2 → poisonedMem s ca 8 = false → exec (.watchFire w) s =
      .next (enqFor (homeWrite s' ca (natBytes 8 (d - 2 ^ 62))) (sliceAgent (homeOf w.pa)) w.ctx (readyQueue s w.ctx) w.crec)) ∧
    (d / 2 ^ 62 ≠ 2 ∨ poisonedMem s ca 8 = true → exec (.watchFire w) s = .next s'))

/-- O42. For every state in canonical form whose home record of the context is aligned, apart from its completion word
and without uncorrectable data: a return adds to AT_HOME, a write-off to LOST, and TOTAL stays; QDONE is set exactly
when it was, or when AT_HOME + LOST then equals TOTAL. A grant adds k to TOTAL, which must not pass 2^48 − 1, and
sends k on channel 1; otherwise the borrower takes a late WEIGHT_OVERFLOW 2. WBORROW traps WEIGHT_FINE 4 for 0,
WEIGHT_OVERFLOW 1 from 2^48, WEIGHT_FINE 3 without weight, and else commits with the request on its way. WQUERY reads
a field; QARM arms a core that holds the context: with QDONE set the QUIESCE message goes to it at once, with QDONE
clear the record only names the core, unless AT_HOME + LOST equals TOTAL, which raises quiescence then. A record with
uncorrectable data changes with no update, and WBORROW and WQUERY take MEMERR, the model's choice (log entry 91). A
flush sends each context's held returns to its home as their sum. (R38, R39, R218, R237, R239, R240, R241, R243) -/
def Obligations.WeightAtItsHome : Prop :=
  (∀ (c : BitVec 16) (w : Nat) (s : State), s.memOk = true → homeRecord s c % 32 = 0 → homePoisoned s c = false →
    (∀ x, ctxOf s c = some x → canonPa x.compl + 8 ≤ canonPa (homeRecord s c) ∨ canonPa (homeRecord s c) + 32 ≤ canonPa x.compl) →
    (∃ t, exec (.homeWeightUpdate (.ret c w)) s = .next t ∧ atHomeOf t c = (atHomeOf s c + w) % 2 ^ 48 ∧
      lostOf t c = lostOf s c ∧ totalOf t c = totalOf s c ∧
      (qdone t c = true ↔ qdone s c = true ∨ atHomeOf t c + lostOf t c = totalOf t c)) ∧
    (∃ t, exec (.homeWeightUpdate (.writeOff c w)) s = .next t ∧ lostOf t c = (lostOf s c + w) % 2 ^ 48 ∧
      atHomeOf t c = atHomeOf s c ∧ totalOf t c = totalOf s c ∧
      (qdone t c = true ↔ qdone s c = true ∨ atHomeOf t c + lostOf t c = totalOf t c)) ∧
    (∀ (h : HartId) (k : W) (op : IssueMark),
      (totalOf s c + k.toNat < 2 ^ 48 → ∃ t, mintWeight s c k.toNat = some t ∧ totalOf t c = totalOf s c + k.toNat ∧
        atHomeOf t c = atHomeOf s c ∧ lostOf t c = lostOf s c ∧
        exec (.weightGrant h c k op) s = .next (emit t (.messageArrival (agentOf h)
          ⟨c, 1, homeAgent s c, k.setWidth 48, [k], .plain, 3⟩))) ∧
      (2 ^ 48 ≤ totalOf s c + k.toNat → exec (.weightGrant h c k op) s =
        .next (emit s (.lateFault h .weightOverflow (operationInfo 2 true (k.setWidth 55)) op)))) ∧
    (∀ core : BitVec 12, qdone s c = true → ∃ t u, exec (.homeWeightUpdate (.arm c core)) s =
        .next (emit t (.messageArrival core.toNat u)) ∧ u.channel = 0 ∧ u.weight = 0 ∧
      homeFlags t c = 2 ^ 17 + 2 ^ 16 + core.toNat ∧ totalOf t c = totalOf s c) ∧
    (∀ core : BitVec 12, qdone s c = false →
      (atHomeOf s c + lostOf s c ≠ totalOf s c → ∃ t, exec (.homeWeightUpdate (.arm c core)) s = .next t ∧
        homeFlags t c = 2 ^ 16 + core.toNat ∧ qdone t c = false ∧ totalOf t c = totalOf s c ∧ atHomeOf t c = atHomeOf s c ∧
        lostOf t c = lostOf s c ∧ ∀ k m, .messageArrival k m ∈ t.events → .messageArrival k m ∈ s.events) ∧
      (atHomeOf s c + lostOf s c = totalOf s c → ∃ t u, exec (.homeWeightUpdate (.arm c core)) s =
          .next (emit t (.messageArrival core.toNat u)) ∧ u.channel = 0 ∧ u.weight = 0 ∧
        homeFlags t c = 2 ^ 17 + 2 ^ 16 + core.toNat ∧ totalOf t c = totalOf s c))) ∧
  (∀ (c : BitVec 16) (w : Nat) (core : BitVec 12) (h : HartId) (k : W) (op : IssueMark) (s : State), homePoisoned s c = true →
    (∀ u ∈ [WeightUpd.ret c w, .writeOff c w, .arm c core], exec (.homeWeightUpdate u) s = .next s) ∧
    exec (.weightGrant h c k op) s =
      .next (emit s (.lateFault h .memerr (accessInfo 0 true 2 (BitVec.ofNat 56 (homeRecord s c))) op))) ∧
  (∀ (x : A1) (s s1 : State) (k : W), MayCommit s → Reads s x.a k s1 →
    (k ≠ 0 → k.toNat < 2 ^ 48 → s1.cur.wcur ≠ 0 →
      exec (.wborrow x) s = .next (committed x.st (emit { s1 with tags := s1.tags + 1 }
        (.weightGrant s1.turn s1.cur.ctx k ⟨s1.cur.gpc, s1.tags⟩)))) ∧
    (s.cur.launches = 0 →
      (k = 0 → exec (.wborrow x) s = .next (trapped .weightFine (operationInfo 4 false 0) s)) ∧
      (2 ^ 48 ≤ k.toNat → exec (.wborrow x) s = .next (trapped .weightOverflow (operationInfo 1 false (k.setWidth 55)) s)) ∧
      (k ≠ 0 → k.toNat < 2 ^ 48 → s1.cur.wcur = 0 →
        exec (.wborrow x) s = .next (trapped .weightFine (operationInfo 3 false 0) s)))) ∧
  (∀ (x : RR) (s s1 t : State) (a : W) (v : Nat), Reads s x.a a s1 →
    (v = match a.toNat % 4 with
      | 0 => totalOf s1 s1.cur.ctx | 1 => atHomeOf s1 s1.cur.ctx | 2 => lostOf s1 s1.cur.ctx | _ => homeFlags s1 s1.cur.ctx) →
    (homePoisoned s1 s1.cur.ctx = false → ProducesNow s1 x.d (BitVec.ofNat 64 v) t → exec (.wquery x) s = .next (issued x.st t)) ∧
    (homePoisoned s1 s1.cur.ctx = true → s.cur.launches = 0 → exec (.wquery x) s =
      .next (trapped .memerr (accessInfo 0 false 0 (BitVec.ofNat 56 (homeRecord s1 s1.cur.ctx))) s))) ∧
  (∀ (x : A1) (s s1 : State) (a : W), MayCommit s → Reads s x.a a s1 →
    let core := a.toNat % 4096
    (placementOf s1 core s1.cur.ctx ≠ none → exec (.qarm x) s =
      .next (committed x.st (emit s1 (.homeWeightUpdate (.arm s1.cur.ctx (BitVec.ofNat 12 core)))))) ∧
    (placementOf s1 core s1.cur.ctx = none → s.cur.launches = 0 →
      exec (.qarm x) s = .next (trapped .protect (operationInfo 17 false (a.setWidth 55)) s))) ∧
  (∀ (core : Nat) (s : State), (coreOf s core).pubs = [] →
    (∀ u, .updateApply u ∉ s.events ∧ .updateLogWrite u ∉ s.events) →
    let held := (coreOf s core).returns
    ∃ t, exec (.returnCombineFlush core) s = .next t ∧ (coreOf t core).returns = [] ∧ t.mem = s.mem ∧
      ∃ cs : List (BitVec 16), cs.Nodup ∧ (∀ c, c ∈ cs ↔ ∃ w, (c, w) ∈ held) ∧
        t.events = s.events ++ cs.map fun c => .homeWeightUpdate (.ret c ((held.filter fun r => r.1 == c).map (·.2)).sum))

/-- O43. For every state and slot: a slot with a strand is left as it is, and so is one without work, but that
malformed entries met in looking for it are reported, once until work is found (log entry 95); otherwise a selection
first brings back messages that a full inbound queue has spilled (log entry 109), and then starts what the visit of
the contexts chooses, the context noted as the one last run only where a strand of it comes to run: it asks for the
resume of a saved strand, starts the handler of the chosen message with a record from the free-record queue (a push
whose target is refused is refused), or picks up the record at the head of the ready queue. A saved strand comes
before other work of its context. A handler started by a message goes on at its entry with q1 the first payload
doubleword, q2 the landing address, q3 the sender, WCUR the message's weight, the other queue entries, n0 to n7,
FPFLAGS and claims zero, the streams closed, and the status defaults of SDEF; the payload lies in the landing region,
held until the strand leaves; a start acquires at the message's scope, a record at module scope. A record in state 01
with a word address and its own context becomes 11 and its strand runs with its weight, flags, PC and n0 to n5;
another record is not run. A resume is asked for without a claim and a lease of the slot (log entry 108). A resume
after pre-emption takes PC and the saved registers from the save area, with the phase count, and holds off pre-emption
for 65,536 cycles; that a poisoned save area is a crash of the resident kernel is the model's choice (log entry 80). A
start or resume of a strand ends its context's absence: the spilled messages come up for delivery before all else,
those with uncorrectable data staying (log entry 91), and the update log is emptied (log entry 90). (R27, R33, R35,
R37, R224, R225, R230, R235, R242, R264, R376, R433) -/
def Obligations.StrandsStartAndResume : Prop :=
  (∀ (h : HartId) (s : State), ((slotOf s h).live = true → exec (.slotSelect h) s = .next s) ∧
    ((slotOf s h).live = false →
      (∀ p, overflowed s (agentOf h) = some p → exec (.slotSelect h) s = .next (unspillMessages s (agentOf h) p.ctx)) ∧
      (overflowed s (agentOf h) = none → chooseWork s (agentOf h) (isH h) = none →
        exec (.slotSelect h) s = .next (noteLooks s (agentOf h))))) ∧
  (∀ (s : State) (core : Nat), (∀ p, overflowed s core = some p → p ∈ (coreOf s core).placements ∧ p.absent = false ∧
      ∃ n ∈ p.spilled, ∃ b, bufferBase s (dieOfAgent core) p.ctx = some b ∧ poisonedPhys s (b + 320 * n.index) 320 = false) ∧
    ((coreOf s core).ni ≠ [] → Config.inboundRoom ≤ (coreOf s core).ni.length → overflowed s core = none)) ∧
  (∀ (s : State) (core : Nat), let looks := badLooks s core
    (looks = [] → noteLooks s core = s) ∧ (noteLooks s core).events = s.events ++
      looks.map (fun l => .pageWalk core l.1 (ctxRoot s l.1) (BitVec.ofNat 56 l.2)) ∧
    (coreOf (noteLooks s core) core).noted = (coreOf s core).noted ++ looks ∧ (noteLooks s core).mem = s.mem ∧
    (noteLooks s core).pools = s.pools ∧ HartsKept s (noteLooks s core)) ∧
  (∀ (s : State) (core : Nat) (c : BitVec 16) (p : Placement), placementOf s core c = some p →
    (p.absent = false → endAbsence s core c = s) ∧ (p.absent = true → ∃ (ms : List Msg) (evs : List Event), let t := endAbsence s core c
      let lost (n : Spill) : Bool := match bufferBase s (dieOfAgent core) c with
        | some b => poisonedPhys s (b + 320 * n.index) 320
        | none => true
      placementOf t core c = some { p with absent := false, spilled := p.spilled.filter lost, logged := [] } ∧ t.mem = s.mem ∧
      t.events = ms.map (.messageArrival core) ++ s.events ++ evs ∧ ms.length = (p.spilled.filter fun n => !lost n).length)) ∧
  (∀ (h : HartId) (s : State) (p : Placement) (w : Work), (slotOf s h).live = false → overflowed s (agentOf h) = none →
    chooseWork s (agentOf h) (isH h) = some (p, w) →
    let core := agentOf h
    let ran (u : State) : State := setCore u core (if isH h then { coreOf u core with lastH := some p.ctx, noted := [] }
      else { coreOf u core with lastL := some p.ctx, noted := [] })
    let becomes (t : State) : Prop := exec (.slotSelect h) s = .next t
    (w = .saved → becomes (requestResume (setSlot (ran s) h (freshSlot p s.clock (slotOf s h))) h)) ∧
    (∀ i, w = .message i → ∃ m, (coreOf s core).ni[i]? = some m ∧
      (refusedPush s core p m = true → becomes (refuseMessage (takeMessage s core i) core m)) ∧
      (refusedPush s core p m = false → ∃ crec s2, deqFor s core p.ctx (freeQueue s p.ctx) = some (crec, s2) ∧
        becomes (endAbsence (startMessage (ran s2) h p i m crec) core p.ctx))) ∧
    (w = .record → ∃ crec ca s2, headRecord s core p.ctx (isH h) = some (crec, ca, s2) ∧ becomes (startRecord s2 h p crec ca))) ∧
  (∀ (s : State) (core : Nat) (p : Placement) (cls : Bool), (if cls then p.savedH else p.savedL) ≠ none →
    workOf s core p cls = some .saved) ∧
  (∀ (s : State) (h : HartId), kindOf h = .core →
    let x := slotOf s h
    let c := clusterOf (agentOf h)
    let area := poolRead s (agentOf h) (x.pbase.toNat + if isH h then 0 else 1024 + vmaxOf x.partw * 2048) 256
    let l := dword area 0x68 / 2 ^ 33 % 2 ^ 9
    let t := requestResume s h
    (slotOf t h).resumed = true ∧ (slotOf t h).sup = false ∧ (slotOf t h).vlanes = 0 ∧ (slotOf t h).lease.held = false ∧ (l = 0 → .preemptResume h ∈ t.events) ∧
      (l ≠ 0 → ⟨h, l / 32, true⟩ ∈ (clusterAt t c).vwait ∧ .vclaimGrant c ∈ t.events)) ∧
  (∀ (s : State) (h : HartId) (p : Placement) (i : Nat) (m : Msg) (crec : W), s.memOk = true → m.kind = .plain →
    kindOf h = .core →
    let core := agentOf h
    let e := entryAt p m.channel.toNat
    let t := startMessage s h p i m crec
    let y := slotOf t h
    let bare := e.sup = true ∧ e.landing = 0
    let data := m.payload.flatMap fun w => natBytes 8 w.toNat
    let k := poolKey core (p.pbase.toNat + regu p.partw * 4096 + e.landing.toNat)
    y.live = true ∧ y.pc = e.pc ∧ y.npc = e.pc + 4 ∧ y.nnpc = e.pc + 8 ∧ y.rstart = e.pc ∧ y.sup = e.sup ∧ y.wcur = m.weight ∧
      y.crec = crec ∧ y.ctx = p.ctx ∧ (qEntry y 0).val = (m.payload[0]?).getD 0 ∧
      (qEntry y 1).val = (if e.sup && e.landing == 0 then 0 else e.landing.zeroExtend 64) ∧
      (qEntry y 2).val = m.sender.zeroExtend 64 ∧ (∀ j, 3 ≤ j → j < 16 → qEntry y j = ⟨0, 0, 0⟩) ∧
      (∀ j, j < 8 → nEntry y j = ⟨0, 0, 0⟩) ∧ (∀ q : Fin 4, y.str[q] = Stream.closed) ∧ y.fpflags = 0 ∧ y.vlanes = 0 ∧
      y.lease = (slotOf s h).lease ∧ y.checkstall = p.sdef.getLsbD 8 ∧ y.fpte = p.sdef.extractLsb' 3 5 ∧ y.rmode = p.sdef.extractLsb' 0 3 ∧
      y.quiesce = (m.channel == 0) ∧ (m.scope ≠ 0 → ∀ l ∈ (coreOf t core).l1, l.shared = false) ∧
      (m.channel = 0 → ∀ c, ctxOf s m.ctx = some c → ∃ c', ctxOf t m.ctx = some c' ∧ c'.quiescer = some crec) ∧ (¬ bare → y.landing = some m.channel ∧
        ∀ q, memGet t.pools q = if k ≤ q ∧ q < k + data.length then (data[q - k]?).getD 0 else memGet s.pools q)) ∧
  (∀ (s : State) (h : HartId) (p : Placement) (crec : W) (ca : Nat), s.memOk = true → kindOf h = .core →
    let bs := memRead s.mem ca 64
    let d := dword bs 0
    let r := startRecord s h p crec ca
    let y := slotOf r h
    let last (u : State) : Option (BitVec 16) := if isH h then (coreOf u (agentOf h)).lastH else (coreOf u (agentOf h)).lastL
    (d / 2 ^ 62 ≠ 1 → startRecord s h p crec ca = s) ∧
    (d / 2 ^ 62 = 1 → d % 4 = 0 → dword bs 8 % 2 ^ 16 = p.ctx.toNat →
      y.live = true ∧ y.pc = BitVec.ofNat 56 d ∧ y.rstart = y.pc ∧ y.wcur.toNat = dword bs 8 / 2 ^ 16 ∧ y.crec = crec ∧
        y.fpflags = BitVec.ofNat 5 (d / 2 ^ 56) ∧ (∀ j, j < 6 → (nEntry y j).val.toNat = dword bs (16 + 8 * j)) ∧
        (∀ j, 6 ≤ j → j < 8 → nEntry y j = ⟨0, 0, 0⟩) ∧ (∀ j, j < 16 → qEntry y j = ⟨0, 0, 0⟩) ∧
        (y.quiesce = true ↔ ∃ c, ctxOf s p.ctx = some c ∧ c.quiescer = some crec) ∧
        (∀ l ∈ (coreOf r (agentOf h)).l1, l.shared = false) ∧ last r = some p.ctx ∧
        leNat (memRead r.mem ca 8) = d + 2 ^ 63) ∧
    (d / 2 ^ 62 = 1 → (d % 4 ≠ 0 ∨ dword bs 8 % 2 ^ 16 ≠ p.ctx.toNat) → y = slotOf s h ∧ last r = last s)) ∧
  (∀ (h : HartId) (s : State) (p : Placement), kindOf h = .core → (slotOf s h).resumed = true →
    placementOf s (agentOf h) (slotOf s h).ctx = some p → brokenHandles s (agentOf h) (slotOf s h).ctx = [] →
    let x := slotOf s h
    let off := x.pbase.toNat + if isH h then 0 else 1024 + vmaxOf x.partw * 2048
    let area := poolRead s (agentOf h) off 256
    let n := if dword area 0x68 / 2 ^ 33 % 2 ^ 9 = 0 then 1024 else 1024 + 2048 * vmaxOf x.partw
    (poisonedPool s (agentOf h) off n = true → exec (.preemptResume h) s = .next (kernelCrash s 1)) ∧
    (poisonedPool s (agentOf h) off n = false → ∃ t, exec (.preemptResume h) s = .next t ∧
      let y := slotOf t h
      y.pc = BitVec.ofNat 56 (dword area 0x40) ∧ y.rstart = y.pc ∧ y.npc = y.pc + 4 ∧
        (∀ j, j < 8 → (nEntry y j).val = BitVec.ofNat 64 (dword area (8 * j))) ∧ (∀ j, j < 16 → qEntry y j = ⟨0, 0, 0⟩) ∧
        y.wcur = BitVec.ofNat 48 (dword area 0x50) ∧ y.phcnt = BitVec.ofNat 32 (dword area 0x60) ∧
        y.phopen = (dword area 0x68).testBit 32 ∧ y.vlanes = BitVec.ofNat 9 (dword area 0x68 / 2 ^ 33) ∧ y.resumed = false ∧
        y.hold = some (s.clock + 65536))) ∧
  (∀ (h : HartId) (s : State), (slotOf s h).resumed = false → exec (.preemptResume h) s = .next s)

/-- O44. For every state of a strand with a placement: COORD pushes the coordinate, member, group index, core in
group, group size or CREC that a selects, else 0; GEOM the row or column bounds of its core; SLICE the start or count
of the strand's part, and the parts of a length cover each element exactly once. TQINIT sets the context's tile queue,
taking one of eight, else traps QUEUE 3; FETCHT takes max(a, 1) tiles or pushes all ones. NREAD pushes the word, or
all ones when it comes late (a free choice when c is not 0). PHASE opens a phase with its table entry and traps
PROTECT 23 from NPHASE on; PHEND closes it; an overrun not yet told is told first. SPINW waits while the word equals b
and else commits as an acquire. (R251, R252, R253, R254, R255, R260, R261) -/
def Obligations.PlacesTileQueuesAndPhases : Prop :=
  (∀ (x : RR) (s s1 t : State) (a : W) (p : Placement), Reads s x.a a s1 →
    placementOf s1 (agentOf s1.turn) s1.cur.ctx = some p →
    let u := a.toNat
    let coord : W := if u ≤ 7 then BitVec.ofNat 64 ((p.coords[u]?).getD 0) else if u = 8 then BitVec.ofNat 64 p.member
      else if u = 9 then BitVec.ofNat 64 p.gidx else if u = 10 then BitVec.ofNat 64 p.group
      else if u = 11 then BitVec.ofNat 64 p.gcores else if u = 12 then s1.cur.crec else 0
    let part (i w : Nat) : Nat := (s1.cur.geom.extractLsb' i w).toNat
    let cw := part 48 4
    let row0 := p.group / cw * part 32 8 * 32
    let col0 := p.group % cw * part 40 8 * 32
    let geom : Nat := if cw = 0 then 0 else if u = 0 then row0 else if u = 1 then min (part 32 8 * 32) (part 0 16 - row0)
      else if u = 2 then col0 else if u = 3 then min (part 40 8 * 32) (part 16 16 - col0) else 0
    (Produces s1 x.d coord 2 t → exec (.coord x) s = .next (issued x.st t)) ∧
    (Produces s1 x.d (BitVec.ofNat 64 geom) 2 t → exec (.geom x) s = .next (issued x.st t)) ∧
    (let sel := u / 16 % 16
     let at_ := if sel < 8 then (p.coords[sel]?).getD 0 else p.member
     let parts := if sel < 8 then (p.exts[sel]?).getD 0 else p.mcount
     (8 < sel ∨ parts = 0 → Produces s1 x.d 0 2 t → exec (.slice x) s = .next (issued x.st t)) ∧
     (∀ (q : Place) (bs : List Byte) (s2 s3 : State), sel ≤ 8 → parts ≠ 0 →
       Gives (localPlace (16 * (u % 16)) 16 false 0) s1 q s2 → Gives (loadAt q 16 0 (16 * (u % 16))) s2 bs s3 →
       let mine := sliceOf (dword bs 0) (dword bs 8) parts at_
       Produces s3 x.d (BitVec.ofNat 64 (if a.getLsbD 8 then mine.2 else mine.1)) 2 t →
       exec (.slice x) s = .next (issued x.st t)))) ∧
  (∀ grain length parts i : Nat, 0 < parts → i < length → ∃ k, k < parts ∧
    (∀ j, j < parts → ((sliceOf grain length parts j).1 ≤ i ∧
      i < (sliceOf grain length parts j).1 + (sliceOf grain length parts j).2 ↔ j = k)) ∧
    (sliceOf grain length parts k).1 % max grain 1 = 0) ∧
  (∀ (x : AB) (s s1 s2 : State) (a b : W), MayCommit s → Reads s x.a a s1 → Reads s1 x.b b s2 →
    let c := clusterOf (agentOf s2.turn)
    let k := clusterAt s2 c
    let others := k.tileQ.filter fun q => q.ctx != s2.cur.ctx
    (others.length < 8 → ∃ u, exec (.tqinit x) s = .next (committed x.st u) ∧ OnlySlot { s2 with clusters := u.clusters } u ∧
      u.cur = s2.cur ∧ (clusterAt u c).tileQ.find? (fun q => q.ctx == s2.cur.ctx) = some ⟨s2.cur.ctx, a, b⟩ ∧
      ((clusterAt u c).tileQ.filter fun q => q.ctx != s2.cur.ctx) = others) ∧
    (others.length = k.tileQ.length → 8 ≤ others.length → s.cur.launches = 0 →
      exec (.tqinit x) s = .next (trapped .queue (operationInfo 3 false (a.setWidth 55)) s))) ∧
  (∀ (x : RR) (s s1 t : State) (a : W), MayCommit s → Reads s x.a a s1 →
    let c := clusterOf (agentOf s1.turn)
    let k := clusterAt s1 c
    let mine := k.tileQ.find? fun q => q.ctx == s1.cur.ctx
    ((∀ q, mine = some q → q.fin.toNat ≤ q.next.toNat) → ProducesNow s1 x.d (BitVec.allOnes 64) t →
      exec (.fetcht x) s = .next (committed x.st t)) ∧
    (∀ q, mine = some q → q.next.toNat < q.fin.toNat →
      let next := min (q.next.toNat + max a.toNat 1) q.fin.toNat
      let s2 := setCluster s1 c { k with
        tileQ := k.tileQ.map fun y => if y.ctx = s1.cur.ctx then { y with next := BitVec.ofNat 64 next } else y }
      ProducesNow s2 x.d q.next t → exec (.fetcht x) s = .next (committed x.st t))) ∧
  (∀ (x : RAC) (s s1 s2 s3 t : State) (a c : W) (bs : List Byte) (tag : Nat) (dest : Dest), Reads s x.a a s1 →
    Reads s1 x.c c s2 → Gives (loadVa 0 4 4 a) s2 bs s3 → Reserves s3 x.d tag dest t →
    let r : Delivery := ⟨t.turn, tag, dest, leWord bs, 0⟩
    (c = 0 → exec (.nread x) s = .next (issued x.st (emit t (.loadResponse r)))) ∧
    (exec (.nread x) s = .next (issued x.st (emit t (.loadResponse r))) ∨
      exec (.nread x) s = .next (issued x.st (emit t (.nreadTimeout r))))) ∧
  (∀ (r : Delivery) (s : State), exec (.nreadTimeout r) s = .next (deliver s { r with val := BitVec.allOnes 64 })) ∧
  (∀ (x : B1) (s s1 : State) (b : W) (p : Placement), MayCommit s → Reads s x.b b s1 →
    placementOf s1 (agentOf s1.turn) s1.cur.ctx = some p →
    (p.nphase.toNat ≤ b.toNat → s.cur.launches = 0 →
      exec (.phase x) s = .next (trapped .protect (operationInfo 23 false (b.setWidth 55)) s)) ∧
    (∀ (bs : List Byte) (s2 : State), b.toNat < p.nphase.toNat →
      Gives (loadVa 0 4 4 (p.ptab.zeroExtend 64 + b * 4)) s1 bs s2 → ∃ u, exec (.phase x) s = .next (committed x.st u) ∧
        let s3 := if phaseOver s2 s2.cur = true then sendOverrun s2 s2.turn else s2
        OnlySlot s3 u ∧ u.cur = { s3.cur with
          phexp := BitVec.ofNat 32 (leNat bs), phcnt := 0, phopen := true, phsent := false, phAt := s2.clock })) ∧
  (∀ (x : N0) (s : State), MayCommit s → ∃ t, exec (.phend x) s = .next t ∧ t.cur.phopen = false ∧
    t.cur.phcnt = phNow s.cur s.clock ∧ t.mem = s.mem ∧ t.cur.phexp = s.cur.phexp ∧ t.cur.n = s.cur.n ∧
    t.events = s.events ++ if phaseOver s s.cur = true then [.homeWeightUpdate (.mintEvent s.cur.ctx (agentOf s.turn) 3 s.turn
      (BitVec.ofNat 64 (3 * 2 ^ 56 + (phNow s.cur s.clock).toNat)))] else []) ∧
  (∀ (x : AB) (s s1 s2 s3 s4 s5 : State) (a b : W) (p : Place) (bs : List Byte), InOpen s → Reads s x.a a s1 →
    Reads s1 x.b b s2 → Gives (checkAccess 0 8 8 .read true a) s2 p s3 → Gives (evictPlace p.loc 8) s3 () s4 →
    Gives (loadAt p 8 0 (a.toNat % 2 ^ 56)) s4 bs s5 →
    (leWord bs ≠ b → exec (.spinw x) s = .next (committed x.st
      (if kindOf s5.turn = .core then dropShared s5 (agentOf s5.turn) else s5))) ∧
    (leWord bs = b → exec (.spinw x) s = .next (rotateIfDue { s with cur := unissued s.cur })))

/-- O45. For every state where the word may stand and its checks pass, LAUNCH gives c of WCUR, is sent to the queue's
home and commits. There an accepted packet has its weight field written and answers 0; another status gives the weight
back, as does a late QUEUE, PAGE, PROTECT or MEMERR trap (that a nonzero status or a trap gives it back is log entry
38, that the ring or the record is refused with PAGE, PROTECT or MEMERR and its own address log entry 27: the model's
choices). In a QUIESCE handler RETIRE traps WEIGHT_FINE 3. GROW mints n times the share and pushes the first new
index, or all ones with nothing changed; a home record with uncorrectable data is MEMERR (the model's choice, log
entry 91). RETIRE, with the block, the permission and the record in order and no other strand of the context on the
core, commits and starts the successor if the shape rule holds, else ends the strand. The successor keeps WCUR, CREC
and the inherited named registers, its other registers start fresh, and its scratchpad holds the shape record, the
inherited ranges, and zeros elsewhere; that its table holds the kernel's entries for channels 4 and 5 is the model's
choice (log entry 119). (R125, R220, R239, R242, R244, R245, R246, R247, R248, R249, R250, R424) -/
def Obligations.LaunchingGrowingAndRetiring : Prop :=
  (∀ (x : RRRR) (s s1 s2 s3 s4 s5 s6 s6' s7 t : State) (a b c : W) (pa : Nat) (q r : Place) (tag : Nat) (dest : Dest),
    MayCommit s → Reads s x.a a s1 → Reads s1 x.b b s2 → Reads s2 x.c c s3 →
    let trapsWith (k : Cause) (reason : BitVec 8) (v : W) : Prop := s.cur.launches = 0 →
      exec (.launch x) s = .next (trapped k (operationInfo reason false (v.setWidth 55)) s)
    (childMode s3 s3.cur.ctx ≠ 1 → trapsWith .protect 21 a) ∧
    (childMode s3 s3.cur.ctx = 1 → (c = 0 ∨ s3.cur.wcur.toNat ≤ c.toNat) → trapsWith .weightFine 2 c) ∧
    (childMode s3 s3.cur.ctx = 1 → c ≠ 0 → c.toNat < s3.cur.wcur.toNat →
      Gives (checkAccess 2 64 64 .both false a) s3 q s4 → (q.loc = .mem pa ∨ ∃ off, q.loc = .config off ∧ pa = 0x200000000000 + off) → Gives (checkAccess 1 8 8 .write false (b + 8)) s4 r s5 →
      accessesPending s5 = false → Gives (release 3) s5 () s6 →
      Gives (evictPlace q.loc 64) s6 () s6' → Gives (evictPlace r.loc 8) s6' () s7 → Reserves s7 x.d tag dest t → t.cur.wcur = s3.cur.wcur →
      let u : State := { t with cur := { t.cur with
        wcur := BitVec.ofNat 48 (t.cur.wcur.toNat - c.toNat), launches := t.cur.launches + 1 } }
      exec (.launch x) s = .next (committed x.st (emit u (.launchAtHome ⟨u.turn, tag, dest, u.cur.gpc, a.setWidth 56, pa,
        rootOf u u.turn, u.cur.sup, b.setWidth 56, c.setWidth 48, u.cur.ctx⟩))))) ∧
  (∀ (r : LaunchReq) (s : State),
    let l := unitLoc r.pa
    let packet := (r.ctx ++ r.record.setWidth 48).toNat
    let back (t : State) : State :=
      let y := slotOf t r.h
      let u := setSlot t r.h { y with wcur := y.wcur + r.given, launches := y.launches - 1 }
      if y.launches ≤ 1 then retryFaults u r.h else u
    let answers (t : State) (v : W) : State := emit t (.launchStatus ⟨r.h, r.tag, r.dest, v, 0⟩ r.given)
    let s0 := match l with
      | .mem ca => evictOf s r.h ca 64
      | _ => s
    let s1 := touchHeader (evictEntry s0 r.h l r.root r.sup .enq 0) l
    let refuses (c : Cause) (reason : Nat) (ring : Option Nat) : Prop := exec (.launchAtHome r) s = .next
      (back (lateTrap (noteRing s1 l r.root ring) r.h c reason 2 (BitVec.ofNat 56 (ring.getD r.va.toNat)) ⟨r.tpc, r.tag⟩))
    (∀ ca, l = .mem ca → poisonedMem s0 ca 64 = true → exec (.launchAtHome r) s =
      .next (back (emit s0 (.lateFault r.h .memerr (accessInfo 0 true 2 r.va) ⟨r.tpc, r.tag⟩)))) ∧
    ((∀ ca, l = .mem ca → poisonedMem s0 ca 64 = false) →
      (∀ (c : Cause) (reason : Nat) (ring : Option Nat), enqHome s1 l r.root r.sup packet = .refuse c reason ring →
        refuses c reason ring) ∧
      (∀ (v : Nat) (t : State), v ≠ 0 → enqHome s1 l r.root r.sup packet = .value v t →
        exec (.launchAtHome r) s = .next (answers t (BitVec.ofNat 64 v))) ∧
      (∀ (t : State) (pa size attrs : Nat), enqHome s1 l r.root r.sup packet = .value 0 t →
        walk s1 r.root (r.record.toNat + 8) = .mapped pa size attrs → exec (.launchAtHome r) s = .next
          (answers (afterEnq (homeWrite (evictOf t r.h (canonPa pa) 8) (canonPa pa) (natBytes 8 r.given.toNat)) l) 0)) ∧
      (∀ t : State, enqHome s1 l r.root r.sup packet = .value 0 t →
        (∀ pa size attrs, walk s1 r.root (r.record.toNat + 8) ≠ .mapped pa size attrs) →
        refuses .page 0 (some (r.record.toNat + 8))))) ∧
  (∀ (r : Delivery) (given : BitVec 48) (s : State),
    let y := slotOf s r.h
    let u := setSlot s r.h { y with
      launches := y.launches - 1, wcur := if r.val = 0 then y.wcur else y.wcur + given }
    exec (.launchStatus r given) s = .next (deliver (if y.launches ≤ 1 then retryFaults u r.h else u) r)) ∧
  (∀ (x : RR) (s s1 t : State) (a : W) (k : Ctx), MayCommit s → Reads s x.a a s1 → ctxOf s1 s1.cur.ctx = some k →
    let n := a.toNat
    let first := k.groups + k.grown
    let fits := 1 ≤ n ∧ n ≤ 65535 ∧ first + n < 2 ^ 32
    (childMode s1 s1.cur.ctx ≠ 2 → s.cur.launches = 0 →
      exec (.grow x) s = .next (trapped .protect (operationInfo 21 false (a.setWidth 55)) s)) ∧
    (childMode s1 s1.cur.ctx = 2 → ¬ fits ∨ homePoisoned s1 s1.cur.ctx = false → ¬ (fits ∧ totalOf s1 s1.cur.ctx + n * k.share < 2 ^ 48) →
      ProducesNow s1 x.d (BitVec.allOnes 64) t → exec (.grow x) s = .next (committed x.st t)) ∧
    (childMode s1 s1.cur.ctx = 2 → fits → homePoisoned s1 s1.cur.ctx = true → s.cur.launches = 0 → exec (.grow x) s =
      .next (trapped .memerr (accessInfo 0 false 2 (BitVec.ofNat 56 (homeRecord s1 s1.cur.ctx))) s)) ∧
    (∀ s2, childMode s1 s1.cur.ctx = 2 → fits → mintWeight s1 s1.cur.ctx (n * k.share) = some s2 →
      let q := queueAt s2 k.queue
      let s3 := setQueue (setCtx s2 s1.cur.ctx { k with grown := k.grown + n }) k.queue { q with pending := q.pending ++
        [⟨s1.cur.ctx, k.rec_, false, (List.range n).map fun i => (first + i, k.share), [], s1.clock⟩] }
      ProducesNow s3 x.d (BitVec.ofNat 64 first) t → exec (.grow x) s = .next (committed x.st t))) ∧
  (∀ (x : ABe) (s : State), InOpen s → s.cur.quiesce = true → s.cur.launches = 0 →
    exec (.retire x) s = .next (trapped .weightFine (operationInfo 3 false 0) s)) ∧
  (∀ (x : ABe) (s s1 s2 s3 s4 s5 : State) (a b : W) (d : List W) (r : Launch), InOpen s → s.cur.quiesce = false →
    Reads s x.a a s1 → Reads s1 x.b b s2 → s2.cur.quiesce = false → Gives (localWords b 5) s2 d s3 →
    let block := d.map (·.toNat)
    let allowed := ∃ k, launchOf s3 s3.cur.ctx = some k ∧ k.succ = true
    let trapsWith (reason : BitVec 8) (v : W) : Prop := s.cur.launches = 0 →
      exec (.retire x) s = .next (trapped .protect (operationInfo reason false (v.setWidth 55)) s)
    (inheritOk block = false → trapsWith 19 b) ∧ (inheritOk block = true → ¬ allowed → trapsWith 20 a) ∧
    (inheritOk block = true → allowed → Gives (successorRecord a) s3 r s4 → Gives settleStrand s4 () s4 →
      runsStrand (slotOf s4 (s4.turn ^^^ 4096)) s4.cur.ctx = false → Gives (release (x.scope.toNat + 1)) s4 () s5 →
      let u := committed x.st s5
      (∀ p, placementOf u (agentOf u.turn) u.cur.ctx = some p → shapeRule u.cur.partw r.partw (inheritOf block) = true →
        exec (.retire x) s = .next (startSuccessor u u.turn p r (inheritOf block) (x.scope.toNat + 1))) ∧
      (∀ p, placementOf u (agentOf u.turn) u.cur.ctx = some p → shapeRule u.cur.partw r.partw (inheritOf block) = false →
        exec (.retire x) s = .next (refuseSuccessor u u.turn)))) ∧
  (∀ (s : State) (h : HartId), (slotOf (refuseSuccessor s h) h).live = false ∧ (slotOf (refuseSuccessor s h) h).wcur = 0) ∧
  (∀ (s : State) (h : HartId) (p : Placement) (r : Launch) (inh : Inherit) (scope : Nat), s.memOk = true →
    placementOf s (agentOf h) p.ctx = some p → r.shapeImage.length ≤ 256 → 1 ≤ spadu r.partw →
    p.pbase.toNat + (regu r.partw + spadu r.partw + accuOf r.partw) * 4096 ≤ 2 ^ 18 →
    let x := slotOf s h
    let t := startSuccessor s h p r inh scope
    let y := slotOf t h
    let pad := p.pbase.toNat + regu r.partw * 4096
    let byteOf (z : State) (off : Nat) : Byte := memGet z.pools (agentOf h * 2 ^ 18 + pad + off)
    y.live = true ∧ y.pc = r.entry ∧ y.rstart = r.entry ∧ y.wcur = x.wcur ∧ y.crec = x.crec ∧ y.partw = r.partw ∧
      y.sup = false ∧ y.fpflags = 0 ∧ y.vlanes = 0 ∧ y.lease.held = false ∧ (∀ q : Fin 4, y.str[q] = Stream.closed) ∧
      (∀ j, j < 8 → nEntry y j = ⟨if j < 6 ∧ inh.nregs.getLsbD j = true then (nEntry x j).val else 0, 0, 0⟩) ∧
      (∀ j, j < 16 → qEntry y j = ⟨0, 0, 0⟩) ∧
      (∀ off, off < 256 → byteOf t off = (r.shapeImage[off]?).getD 0) ∧
      (∀ off, 256 ≤ off → off < spadu r.partw * 4096 → byteOf t off =
        if (∃ q ∈ inh.ranges, q.1 ≤ off / 256 * 256 ∧ off / 256 * 256 < q.1 + q.2) then byteOf s off else 0))

/-- O46. For every state of a gang's strand: a GBAR whose slot's earlier accesses have performed registers its core's
arrival and waits, a second one of a core counting for the next episode; with the last arrival the episode completes
and each waiting GBAR issues as a release and acquire at the gang's scope. GBAR.PUB and PUBFENCE first close the
core's batches and wait until no append and no update is on its way; that they, and GBAR, wait at issue for a late
append is the model's choice (log entry 104). A launch that is no gang traps GANG_SCOPE 1, and a QUIESCE handler
WEIGHT_FINE 3. SUBSCRIBE commits, trapping GANG_SCOPE 2 for a member beyond the count (log entry 87); the publisher
shares or takes an entry and a slot, the snapshot is copied to the subscriber, no longer absent (log entry 90), and
the handle answered, or it says that entries or slots are used up. UNSUB ends its subscription once its updates are
applied. A batch is sent once to each slot with its SEQ; updates apply in SEQ order, go to the log of an absent
subscriber, or break the subscription when the log is full, whose entries there are skipped. The operand that PROTECT
19 names (log entry 33), the bytes of a log entry outside its mask and what is kept beside the log (log entry 71),
poisoned words left out of a snapshot (log entry 91), which entry and slot are taken and what both used up answer (log
entry 92) are the model's choices. (R182, R242, R256, R257, R258, R259, R412, R413, R414, R415, R416, R419) -/
def Obligations.BarriersAndSubscriptions : Prop :=
  (∀ (x y : N0) (s : State) (c : Ctx), InOpen s → s.cur.quiesce = false → ctxOf s s.cur.ctx = some c →
    let a := agentOf s.turn
    let w : State := { s with cur := unissued s.cur }
    let settled := accessesPending s = false
    let opened := (coreOf s a).pubs.any fun e => e.2.batch.isSome
    let flying := updatesInFlight s a fun _ => true
    let arrived : Prop := ∃ h ∈ c.arrivals, h % 4096 = a
    let waiting := s.turn.toNat ∈ c.arrivals ∨ s.turn.toNat ∈ c.later
    let both (o : Host.Outcome State Fault Refusal) : Prop := exec (.gbar x) s = o ∧ exec (.gbarPub y) s = o
    (c.rec_.gang = false → s.cur.launches = 0 → both (.next (trapped .gangScope (operationInfo 1 false 0) s))) ∧
    (c.rec_.gang = true → s.turn.toNat ∈ c.passed → settled →
      let u := if gangScope c = 0 ∨ kindOf s.turn ≠ .core then s else dropShared (flushDirty s a) a
      let v := setCtx u s.cur.ctx { c with passed := c.passed.filter fun h => h != s.turn.toNat }
      exec (.gbar x) s = .next (committed x.st v) ∧ exec (.gbarPub y) s = .next (committed y.st v)) ∧
    (c.rec_.gang = true → (s.turn.toNat ∉ c.passed ∧ waiting) ∨ ¬ settled → both (.next w)) ∧
    (c.rec_.gang = true → s.turn.toNat ∉ c.passed → ¬ waiting → settled →
      let c' : Ctx := { c with arrivals := c.arrivals ++ [s.turn.toNat] }
      let u (d : Ctx) : State := setCtx (if gangScope c = 0 then w else flushDirty w a) s.cur.ctx d
      let registers (o : Host.Outcome State Fault Refusal) : Prop :=
        (arrived → o = .next (u { c with later := c.later ++ [s.turn.toNat] })) ∧
        (¬ arrived → o = .next (if allArrived c' then emit (u c') (.gbarEpisodeComplete s.cur.ctx) else u c'))
      registers (exec (.gbar x) s) ∧
      (opened = true → exec (.gbarPub y) s = .next (closeBatches w a)) ∧
      (opened = false → flying = true → exec (.gbarPub y) s = .next w) ∧
      (opened = false → flying = false → registers (exec (.gbarPub y) s)))) ∧
  (∀ (x : N0) (s : State), InOpen s → s.cur.quiesce = true → s.cur.launches = 0 → ∀ i ∈ [Instr.gbar x, .gbarPub x],
    exec i s = .next (trapped .weightFine (operationInfo 3 false 0) s)) ∧
  (∀ (k : BitVec 16) (c : Ctx) (s : State), ctxOf s k = some c →
    let all (d : Ctx) : Prop := ∀ m ∈ d.members, ∃ h ∈ d.arrivals, h % 4096 = m.2
    let c' : Ctx := { c with passed := c.passed ++ c.arrivals, arrivals := c.later, later := [] }
    let t := setCtx s k c'
    (¬ all c → exec (.gbarEpisodeComplete k) s = .next s) ∧
    (all c → ¬ all c' → exec (.gbarEpisodeComplete k) s = .next t) ∧
    (all c → all c' → exec (.gbarEpisodeComplete k) s = .next (emit t (.gbarEpisodeComplete k)))) ∧
  (∀ (x : N0) (s : State), MayCommit s →
    let a := agentOf s.turn
    let opened := (coreOf s a).pubs.any fun e => e.2.batch.isSome
    let flying := updatesInFlight s a fun _ => true
    let w : State := { s with cur := unissued s.cur }
    (appendsPending s s.turn = true → exec (.pubfence x) s = .next w) ∧
    (appendsPending s s.turn = false →
      (opened = true → exec (.pubfence x) s = .next (closeBatches w a)) ∧
      (opened = false → flying = true → exec (.pubfence x) s = .next w) ∧
      (opened = false → flying = false → exec (.pubfence x) s = .next (committed x.st s)))) ∧
  (∀ (x : RRRR) (s s1 s2 s3 t : State) (a b c : W) (tag : Nat) (dest : Dest), MayCommit s → Reads s x.a a s1 →
    Reads s1 x.b b s2 → Reads s2 x.c c s3 →
    let traps (k : Cause) (reason : BitVec 8) (v : W) : Prop := s.cur.launches = 0 →
      exec (.subscribe x) s = .next (trapped k (operationInfo reason false (v.setWidth 55)) s)
    let member := a.toNat / 2 ^ 18 % 2 ^ 13
    let core := agentOf s3.turn
    (isGang s3 s3.cur.ctx = false → traps .gangScope 1 a) ∧
    (isGang s3 s3.cur.ctx = true → a.getLsbD 31 = false ∨ 2 ^ 32 ≤ a.toNat → traps .protect 19 a) ∧
    (isGang s3 s3.cur.ctx = true → a.getLsbD 31 = true → a.toNat < 2 ^ 32 → memberCount s3 s3.cur.ctx ≤ member →
      traps .gangScope 2 a) ∧
    (∀ (pub : Nat) (p : Placement), isGang s3 s3.cur.ctx = true → a.getLsbD 31 = true → a.toNat < 2 ^ 32 →
      member < memberCount s3 s3.cur.ctx → memberCore s3 s3.cur.ctx member = some pub →
      placementOf s3 pub s3.cur.ctx = some p →
      let off := a.toNat % 2 ^ 18
      let n := c.toNat
      let size := n % 32 = 0 ∧ 32 ≤ n ∧ n ≤ 65536
      let source := off % 32 = 0 ∧ 256 ≤ off ∧ off + n ≤ padSize p.partw
      let copy := b.toNat % 32 = 0 ∧ 256 ≤ b.toNat ∧ b.toNat + n ≤ padSize s3.cur.partw
      (¬ size → traps .protect 19 c) ∧ (size → ¬ source → traps .protect 19 a) ∧
      (size → source → ¬ copy → traps .protect 19 b) ∧ (size → source → copy → pub = core → traps .protect 19 a) ∧
      (size → source → copy → pub ≠ core → Reserves s3 x.d tag dest t → exec (.subscribe x) s = .next (committed x.st (emit t
        (.subscriptionEstablish ⟨t.turn, tag, dest, s3.cur.ctx, pub, member, off, n, core, b.toNat⟩)))))) ∧
  (∀ (r : SubReq) (s : State) (p q : Placement) (j : Nat), s.memOk = true → r.pubCore ≠ r.subCore → r.pubCore < 2048 →
    r.subCore < 2048 → placementOf s r.pubCore r.ctx = some p → placementOf s r.subCore r.ctx = some q →
    let k := coreOf s r.pubCore
    let same := k.pubs.find? fun e => e.2.ctx == r.ctx && e.2.base == r.base && e.2.len == r.len
    let entry := (same.map (·.1)).or (lowestFree k.pubs 16)
    let src := padBase p.partw p.pbase + r.base
    let dst := padBase q.partw q.pbase + r.subOff
    src + r.len ≤ 2 ^ 18 → dst + r.len ≤ 2 ^ 18 →
    (entry = none → exec (.subscriptionEstablish r) s = .next (deliver s ⟨r.h, r.tag, r.dest, 0x8000000000000001, 0⟩)) ∧
    (entry ≠ none → lowestFree k.subs 64 = none →
      exec (.subscriptionEstablish r) s = .next (deliver s ⟨r.h, r.tag, r.dest, 0x8000000000000002, 0⟩)) ∧
    (∀ i, entry = some i → lowestFree k.subs 64 = some j → ∃ u, exec (.subscriptionEstablish r) s =
        .next (deliver u ⟨r.h, r.tag, r.dest, BitVec.ofNat 64 (handleOf r.pubMember i j), 0⟩) ∧ u.mem = s.mem ∧
      (∃ skip, mapFind (coreOf u r.pubCore).subs j = some ⟨r.ctx, r.pubMember, i, false, r.subCore, r.subOff, 1, skip⟩) ∧
      (∃ e, mapFind (coreOf u r.pubCore).pubs i = some e ∧ j ∈ e.slots) ∧
      placementOf u r.subCore r.ctx = some (if q.absent then { q with absent := false, spilled := [], logged := [] } else q) ∧
      ∀ m, m < r.len → (poisonedPool s r.pubCore (src + m) 1 = false →
          memGet u.pools (r.subCore * 2 ^ 18 + dst + m) = memGet s.pools (r.pubCore * 2 ^ 18 + src + m)) ∧
        (q.absent = false → poisonedPool s r.pubCore (src + m) 1 = true →
          memGet u.pools (r.subCore * 2 ^ 18 + dst + m) = memGet s.pools (r.subCore * 2 ^ 18 + dst + m)))) ∧
  (∀ (x : A1) (s s1 : State) (a : W), MayCommit s → Reads s x.a a s1 →
    let live := liveHandle s1 s1.cur.ctx a.toNat
    (live = none → s.cur.launches = 0 →
      exec (.unsub x) s = .next (trapped .protect (operationInfo 22 false (a.setWidth 55)) s)) ∧
    (∀ core slot, live = some (core, slot) →
      (updatesInFlight s1 core (fun j => j == slot) = true → exec (.unsub x) s = .next { s with cur := unissued s.cur }) ∧
      (updatesInFlight s1 core (fun j => j == slot) = false →
        exec (.unsub x) s = .next (committed x.st (endSubscription s1 core slot)) ∧
          mapFind (coreOf (endSubscription s1 core slot) core).subs slot = none))) ∧
  (∀ (core i : Nat) (s : State), ∃ t, exec (.batchWindowExpiry core i) s = .next t ∧ t.mem = s.mem ∧ t.pools = s.pools ∧
    (∀ e, mapFind (coreOf t core).pubs i = some e → e.batch = none) ∧
    ∀ e line bytes since, mapFind (coreOf s core).pubs i = some e → e.batch = some (line, bytes, since) → e.slots.Nodup →
      ∃ us : List Update, t.events = s.events ++ us.map Event.updateApply ∧ ∀ u, u ∈ us ↔ ∃ j ∈ e.slots, ∃ q,
        mapFind (coreOf s core).subs j = some q ∧ (bytes.filter fun b => !q.skip.contains b.1) ≠ [] ∧
        u = ⟨e.ctx, core, j, q.subCore, q.subOff + line, q.seq, bytes.filter fun b => !q.skip.contains b.1,
          match placementOf s core e.ctx with
          | some p => poolRead s core (padBase p.partw p.pbase + e.base + line) 32
          | none => []⟩) ∧
  (∀ (u : Update) (s : State) (q : SubSlot) (p : Placement), mapFind (coreOf s u.pubCore).subs u.slot = some q →
    placementOf s u.core u.ctx = some p →
    let live := q.broken = false ∧ q.ctx = u.ctx ∧ q.subCore = u.core
    (¬ live → exec (.updateApply u) s = .next s) ∧
    (live → p.absent = true → exec (.updateApply u) s = .next (emitFirst s (.updateLogWrite u))) ∧
    (∀ e, live → p.absent = false → (coreOf s u.core).expect.find? (fun e => e.pubCore == u.pubCore && e.slot == u.slot) = some e →
      exec (.updateApply u) s = .next (if e.next = u.seq then
        nextUpdate (writeUpdate s u.core (padBase p.partw p.pbase + u.off) u.bytes) u else holdUpdate s u))) ∧
  (∀ (bytes : List (Nat × Byte)) (core start : Nat) (s : State), s.memOk = true → (bytes.map (·.1)).Nodup →
    (∀ b ∈ bytes, start + b.1 < 2 ^ 18) →
    let t := writeUpdate s core start bytes
    t.mem = s.mem ∧ (∀ b ∈ bytes, memGet t.pools (core * 2 ^ 18 + start + b.1) = b.2) ∧
      ∀ k, (∀ b ∈ bytes, k ≠ core * 2 ^ 18 + start + b.1) → memGet t.pools k = memGet s.pools k) ∧
  (∀ (u : Update) (s : State) (q : SubSlot) (p : Placement), mapFind (coreOf s u.pubCore).subs u.slot = some q →
    q.broken = false → placementOf s u.core u.ctx = some p →
    let lines := (u.bytes.map fun b => b.1 / 32).dedup
    let log := updateLog s u.core p
    let n := p.logged.length
    ((n + lines.length) * 64 ≤ log.2 → ∃ t, exec (.updateLogWrite u) s = .next t ∧ t.pools = s.pools ∧
      t.mem = (lines.zipIdx.foldl (fun z q => physWrite z (log.1 + 64 * (n + q.2)) (logEntry u q.1)) s).mem ∧
      placementOf t u.core u.ctx =
        some { p with logged := p.logged ++ List.replicate lines.length (.live u.pubCore u.slot) }) ∧
    (log.2 < (n + lines.length) * 64 → ∃ t, exec (.updateLogWrite u) s = .next (emit t
        (.homeWeightUpdate (.mintEvent q.ctx q.subCore 2 (homeAgent s q.ctx)
          (BitVec.ofNat 64 (2 ^ 56 + handleOf q.member q.entry u.slot))))) ∧
      t.mem = s.mem ∧ t.pools = s.pools ∧ (mapFind (coreOf t u.pubCore).subs u.slot).map (·.broken) = some true ∧
      placementOf t u.core u.ctx = some { p with
        logged := p.logged.map fun m => if m = .live u.pubCore u.slot then .skipped else m })) ∧
  (∀ (s : State) (core m b d : Nat) (p : Placement) (k : Ctx), ctxOf s p.ctx = some k → (m, core) ∈ k.members →
    (∀ i, (i, core) ∈ k.members → i = m) → regWord s (dieOfAgent core) p.ctx 40 = some b →
    regWord s (dieOfAgent core) p.ctx 48 = some d → d < 2 ^ 64 →
    updateLog s core p = (b % 2 ^ 52 + m * (d / 2 ^ 32), d / 2 ^ 32)) ∧
  (∀ (u : Update) (i : Nat), (u.bytes.map (·.1)).Nodup → u.slot < 64 →
    let e := logEntry u i
    e.length = 64 ∧ dword e 0 % 2 ^ 24 = (u.off + 32 * i) % 2 ^ 18 ∧ dword e 0 / 2 ^ 24 % 2 ^ 8 = u.slot ∧
      dword e 8 = u.seq.toNat ∧ ∀ j, j < 32 → ((dword e 0).testBit (32 + j) = true ↔ ∃ b, (32 * i + j, b) ∈ u.bytes) ∧
        e[16 + j]? = some (match u.bytes.find? fun b => b.1 == 32 * i + j with
          | some b => b.2
          | none => (u.data[j]?).getD 0))

/-- A lane write of the executing hart that, on any registers, gives lane j of register d the value `new j`, where there is
one, and leaves every other lane of every register as it was; it writes no mask and has no scalar result (R268, R270). -/
def LanesBecome (s : State) (r : LaneWrite) (d : Nat) (new : Nat → Option (BitVec 32)) : Prop :=
  r.h = s.turn ∧ r.masks = [] ∧ r.scalar = none ∧ ∀ (v : AMap (BitVec 32)) (k : Nat), mapGet 0 (r.lanes.foldl setLane v) k =
    if 256 * d ≤ k then (new (k - 256 * d)).getD (mapGet 0 v k) else mapGet 0 v k

/-- The same of a mask register's bits. -/
def MasksBecome (s : State) (r : LaneWrite) (d : Nat) (new : Nat → Option Bool) : Prop :=
  r.h = s.turn ∧ r.lanes = [] ∧ r.scalar = none ∧ ∀ (m : Vector (BitVec 256) 4) (i j : Nat), i < 4 → j < 256 →
    (r.masks.foldl setMaskBit m)[i]!.getLsbD j =
      if 256 * d ≤ 256 * i + j then (new (256 * i + j - 256 * d)).getD (m[i]!.getLsbD j) else m[i]!.getLsbD j

/-- What an instruction writes at lane or mask bit j under its mask, when it acts on lanes 0 to l − 1: the value at an active
position, zero at an inactive one under ZM, else nothing (R268). -/
def AtLane {α : Type} (y : Slot) (l j : Nat) (active : Bool) (v zero : α) : Option α :=
  if l ≤ j then none else if active then some v else if zeroing y then some zero else none

/-- A lane's value as a bit vector. -/
def laneBits (y : Slot) (i j : Nat) : BitVec 32 := mapGet 0 y.v (i * 256 + j)

/-- O47. For every state where a committing word may stand: VCLAIM with VMAX 0 traps VCLAIM 1, with 0 lanes VCLAIM 2.
Otherwise, for a slot of the list of no waiters, the request is the least of the lanes asked for in units, VMAX and 8,
the slot's own units count as free, another waiter caps the grant at the share, and a grant of none waits in the list.
A grant sets VLANES and the free units, keeps lanes and mask bits below both counts and zeroes the others, and pushes
the lanes. VREL gives every unit back and clears the lanes. A freed unit goes to H waiters before L ones, the oldest
first, a resume taking its whole count, which VLANES holds from then on, or nothing; a served waiter pushes its lanes
when it issues. Model's choices: no L waiter is served while an H waiter, a resume not yet served too, waits (log 49),
and a VCLAIM that issues takes free units while a resume is first of the list (log 98). Every vector word but VCLAIM
and VREL traps VCLAIM 0 without a claim. (R20, R70, R87, R264, R265, R266) -/
def Obligations.LanesAreClaimedAndGranted : Prop :=
  (∀ (x : RR) (s s1 : State) (a : W), MayCommit s → Reads s x.a a s1 →
    let h := s1.turn
    let c := clusterOf (agentOf h)
    let k := clusterAt s1 c
    let vmax := s1.cur.partw.toNat / 2 ^ 24 % 16
    let r := min ((a.toNat + 31) / 32) (min vmax 8)
    let others := k.vwait.any fun w => w.h != h
    let g := min r (min (if others then max 1 (8 / claimants s1 c h) else r) (k.freeUnits + s1.cur.vlanes.toNat / 32))
    (s.cur.launches = 0 → (vmax = 0 → exec (.vclaim x) s = .next (trapped .vclaim 1 s)) ∧
      (vmax ≠ 0 → a = 0 → exec (.vclaim x) s = .next (trapped .vclaim 2 s))) ∧
    (vmax ≠ 0 → a ≠ 0 → s1.cur.vgrant = 0 → (∀ w ∈ k.vwait, w.h ≠ h) →
      (g = 0 → exec (.vclaim x) s = .next
        (let w : State := { s with cur := unissued s.cur }
         setCluster w c { clusterAt w c with vwait := (clusterAt w c).vwait ++ [⟨h, r, false⟩] })) ∧
      (g ≠ 0 → ∀ t,
        let u := setCluster s1 c { k with freeUnits := k.freeUnits + s1.cur.vlanes.toNat / 32 - g }
        let v := if k.vwait.isEmpty then u else emit u (.vclaimGrant c)
        ProducesNow { v with cur := withClaim g s1.cur } x.d (BitVec.ofNat 64 (32 * g)) t →
        exec (.vclaim x) s = .next (committed x.st t))) ∧
    (vmax ≠ 0 → a ≠ 0 → s1.cur.vgrant ≠ 0 → ∀ t, ProducesNow { s1 with cur := { s1.cur with vgrant := 0 } } x.d
      (s1.cur.vlanes.setWidth 64) t → exec (.vclaim x) s = .next (committed x.st t)) ∧
    (vmax ≠ 0 → a ≠ 0 → s1.cur.vgrant = 0 → (∃ w ∈ k.vwait, w.h = h) →
      exec (.vclaim x) s = .next { s with cur := unissued s.cur })) ∧
  (∀ (g : Nat) (y : Slot), g ≤ 8 →
    let l := min (32 * g) y.vlanes.toNat
    (withClaim g y).vlanes.toNat = 32 * g ∧
    (∀ i j, j < 256 → laneBits (withClaim g y) i j = if j < l then laneBits y i j else 0) ∧
    ∀ i j, i < 4 → j < 256 → (withClaim g y).m[i]!.getLsbD j = (decide (j < l) && y.m[i]!.getLsbD j)) ∧
  (∀ (x : N0) (s : State), MayCommit s → kindOf s.turn = .core → ∃ t, exec (.vrel x) s = .next t ∧
    let c := clusterOf (agentOf s.turn)
    t.cur.vlanes = 0 ∧ t.cur.v = [] ∧ t.cur.m = Vector.replicate 4 0 ∧ t.mem = s.mem ∧ t.pools = s.pools ∧ t.cur.n = s.cur.n ∧
      t.cur.q = s.cur.q ∧ (clusterAt t c).freeUnits = (clusterAt s c).freeUnits + s.cur.vlanes.toNat / 32 ∧
      (clusterAt t c).vwait = (clusterAt s c).vwait.filter fun w => w.h != s.turn) ∧
  (∀ (c : Nat) (s : State), nextClaim s c = none → exec (.vclaimGrant c) s = .next s) ∧
  (∀ (c : Nat) (s : State) (w : LaneWaiter) (g : Nat), nextClaim s c = some (w, g) →
    let k := clusterAt s c
    let u := setCluster s c { k with freeUnits := k.freeUnits - g, vwait := k.vwait.filter fun v => v.h != w.h }
    let v := if w.resume then emit (setSlot u w.h { slotOf u w.h with vlanes := BitVec.ofNat 9 (32 * g) }) (.preemptResume w.h)
      else setSlot u w.h { withClaim g (slotOf u w.h) with vgrant := g }
    exec (.vclaimGrant c) s = .next (emit v (.vclaimGrant c)) ∧ g ≤ k.freeUnits ∧
      (if w.resume then g = w.units else g ≤ w.units ∧ g ≤ max 1 (8 / claimants s c w.h) ∧ g ≠ 0) ∧
      ∃ before after, k.vwait = before ++ w :: after ∧ (∀ b ∈ before, isH b.h ≠ isH w.h) ∧
        (isH w.h = false → ∀ b ∈ k.vwait, isH b.h = false)) ∧
  (∀ (s : State) (x : RRR) (y : RR) (f : FRRR) (e : FRR) (v : Vcmp) (z : Cvt), s.cur.vlanes = 0 → s.cur.launches = 0 →
    ∀ i ∈ [Instr.vaddI32 x, .vsubI32 x, .vmulI32 x, .vminI32 x, .vmaxI32 x, .vminUi32 x, .vmaxUi32 x, .vand x, .vor x, .vxor x,
      .vshl x, .vshr x, .vsel x, .vaddF f, .vsubF f, .vmulF f, .vfma f, .vfmin f, .vfmax f, .vrcp y, .vrsqrt y, .vexp2 y,
      .vlog2 y, .vcmp v, .vcvt z, .mand x, .mor x, .mnot y, .mpop y, .mfirst y, .vld x, .vst x, .vlds x, .vsts x, .vgath x,
      .vscat x, .vbcast y, .vperm x, .vlsh x, .vredAdd e, .vredMin e, .vredMax e],
      exec i s = .next (trapped .vclaim 0 s))

/-- O48. For every state with a claim of l lanes, each lane-wise integer and logical word, VSEL, VBCAST, VPERM and
VLSH issues with a lane write that gives each active lane below l of d its result mod 2^32, zeroes an inactive one
under ZM, and leaves every other lane, mask and register; VSEL writes each lane from a or b. MAND, MOR and MNOT write
bits 0 to l − 1 of their mask; MPOP and MFIRST give the number of set bits and the lowest set index, or all ones. The
integer reductions give the exact signed sum, least or greatest of the active lanes, or 0, 2^31 − 1 and −2^31 for
none. The lane result then writes lanes, mask bits and flags, and delivers the scalar. (R267, R268, R270, R273, R278,
R280, R281, R282) -/
def Obligations.IntegerLanesMasksAndMovement : Prop :=
  (∀ (x : RRR) (y : RR) (s : State), s.cur.vlanes ≠ 0 →
    let c := s.cur
    let l := c.vlanes.toNat
    let p (j : Nat) : BitVec 32 := laneBits c x.a.toNat j
    let q (j : Nat) : BitVec 32 := laneBits c x.b.toNat j
    let writes (i : Instr) (st : BitVec 3) (d : Nat) (new : Nat → Option (BitVec 32)) : Prop := ∃ r : LaneWrite,
      exec i s = .next (issued st (emit s (.laneResult r))) ∧ r.flags = 0 ∧ LanesBecome s r d new
    let lanewise (i : Instr) (f : BitVec 32 → BitVec 32 → BitVec 32) : Prop :=
      writes i x.st x.d.toNat fun j => AtLane c l j (activeBit c j) (f (p j) (q j)) 0
    let bits (i : Instr) (st : BitVec 3) (d : Nat) (f : Nat → Bool) : Prop := ∃ r : LaneWrite,
      exec i s = .next (issued st (emit s (.laneResult r))) ∧ r.flags = 0 ∧
        MasksBecome s r d fun j => if j < l then some (f j) else none
    let m (e : Sel) (j : Nat) : Bool := (c.m[e.toNat]!).getLsbD j
    let gives (i : Instr) (st : BitVec 3) (d : Sel) (v : W) : Prop := ∀ t tag dest, Reserves s d tag dest t →
      exec i s = .next (issued st (emit t (.laneResult ⟨t.turn, [], [], 0, some ⟨t.turn, tag, dest, v, 0⟩⟩)))
    lanewise (.vaddI32 x) (fun a b => a + b) ∧ lanewise (.vsubI32 x) (fun a b => a - b) ∧
    lanewise (.vmulI32 x) (fun a b => BitVec.ofNat 32 (a.toNat * b.toNat)) ∧
    lanewise (.vminI32 x) (fun a b => if a.toInt < b.toInt then a else b) ∧
    lanewise (.vmaxI32 x) (fun a b => if a.toInt < b.toInt then b else a) ∧
    lanewise (.vminUi32 x) (fun a b => if a.toNat < b.toNat then a else b) ∧
    lanewise (.vmaxUi32 x) (fun a b => if a.toNat < b.toNat then b else a) ∧
    lanewise (.vand x) (fun a b => a &&& b) ∧ lanewise (.vor x) (fun a b => a ||| b) ∧ lanewise (.vxor x) (fun a b => a ^^^ b) ∧
    lanewise (.vshl x) (fun a b => BitVec.ofNat 32 (a.toNat * 2 ^ b.toNat)) ∧
    lanewise (.vshr x) (fun a b => BitVec.ofNat 32 (a.toNat / 2 ^ b.toNat)) ∧
    writes (.vsel x) x.st x.d.toNat (fun j => if j < l then some (if activeBit c j then p j else q j) else none) ∧
    bits (.mand x) x.st x.d.toNat (fun j => m x.a j && m x.b j) ∧ bits (.mor x) x.st x.d.toNat (fun j => m x.a j || m x.b j) ∧
    bits (.mnot y) y.st y.d.toNat (fun j => !m y.a j) ∧
    gives (.mpop y) y.st y.d (BitVec.ofNat 64 ((Finset.range l).filter fun j => m y.a j = true).card) ∧
    ((∀ j, j < l → m y.a j = false) → gives (.mfirst y) y.st y.d (BitVec.allOnes 64)) ∧
    (∀ j, j < l → m y.a j = true → (∀ i, i < j → m y.a i = false) → gives (.mfirst y) y.st y.d (BitVec.ofNat 64 j)) ∧
    (let moved (z : State) (r : LaneWrite) (src : Nat → Int) : Prop := r.flags = 0 ∧ LanesBecome z r x.d.toNat fun j =>
      let y := z.cur
      let from_ := (src j).toNat
      if 0 ≤ src j ∧ from_ < l ∧ activeBit y from_ = true then AtLane y l j (activeBit y j) (laneBits y x.a.toNat from_) 0
      else if j < l ∧ zeroing y = true then some 0 else none
     (∃ r, exec (.vperm x) s = .next (issued x.st (emit s (.laneResult r))) ∧ moved s r fun j => ((q j).toNat % 256 : Nat)) ∧
     ∀ (v : W) (s1 : State), Reads s x.b v s1 → s1.cur.vlanes = s.cur.vlanes →
       ∃ r, exec (.vlsh x) s = .next (issued x.st (emit s1 (.laneResult r))) ∧ moved s1 r fun j => (j : Int) - v.toInt) ∧
    (∀ (a : W) (s1 : State), Reads s y.a a s1 → s1.cur.vlanes = s.cur.vlanes → ∃ r : LaneWrite,
      exec (.vbcast y) s = .next (issued y.st (emit s1 (.laneResult r))) ∧ r.flags = 0 ∧ LanesBecome s1 r y.d.toNat fun j =>
        if addendReg s1.cur = 1 then
          AtLane s1.cur (l / 2 * 2) j (activeBit s1.cur (j / 2 * 2)) (a.extractLsb' (if j % 2 = 0 then 0 else 32) 32) 0
        else AtLane s1.cur l j (activeBit s1.cur j) (a.setWidth 32) 0)) ∧
  (∀ (x : FRR) (s : State), s.cur.vlanes ≠ 0 → 2 ≤ x.fmt.toNat →
    let act := (Finset.range s.cur.vlanes.toNat).filter fun j => activeBit s.cur j = true
    let v (j : Nat) : Int := (laneBits s.cur x.a.toNat j).toInt
    let gives (i : Instr) (r : Int) : Prop := ∀ t tag dest, Reserves s x.d tag dest t → exec i s =
      .next (issued x.st (emit t (.laneResult ⟨t.turn, [], [], 0, some ⟨t.turn, tag, dest, BitVec.ofInt 64 r, 0⟩⟩)))
    gives (.vredAdd x) (∑ j ∈ act, v j) ∧
    (act = ∅ → gives (.vredMin x) (2 ^ 31 - 1) ∧ gives (.vredMax x) (-(2 ^ 31))) ∧
    (∀ i ∈ act, ((∀ j ∈ act, v i ≤ v j) → gives (.vredMin x) (v i)) ∧ ((∀ j ∈ act, v j ≤ v i) → gives (.vredMax x) (v i)))) ∧
  (∀ (y : Slot) (j : Nat), activeBit y j = match y.modw with
    | none => true
    | some w => if w.msel = 0 then true else (y.m[w.msel.toNat - 1]!).getLsbD j != (w.minv == 1)) ∧
  (∀ (r : LaneWrite) (s : State), ∃ u : State, exec (.laneResult r) s = .next (match r.scalar with
      | some d => deliver u d
      | none => u) ∧
    let x := slotOf s r.h
    u = setSlot s r.h { x with v := r.lanes.foldl setLane x.v, m := r.masks.foldl setMaskBit x.m, fpflags := x.fpflags ||| r.flags })

/-- O49. For every state with a claim and every draw: VADD to VFMAX, VRCP to VLOG2 and VCVT give each active position
of d the scalar rule's result in that position's mode and draw, zero inactive ones under ZM, and raise the OR of the
active positions' flags; VCMP writes mask bits so; with an enabled flag the word issues, nothing is written and the
slot keeps the FP trap, with the word, the tripped and the raised flags, for the boundary one cycle on (that cycle is
the model's choice: log entry 83). FP64 positions are lane pairs. VRED.ADD rounds the active values' sum once,
VRED.MIN and VRED.MAX fold FMIN and FMAX. VRSQRT of a positive value is correctly rounded, and the special operands of
VRSQRT, VEXP2 and VLOG2 give their table's results. A vector load or store makes one plain access per active lane in
increasing order; the load then writes its lanes. (R148, R150, R161, R174, R268, R270, R272, R274, R275, R276, R277,
R279) -/
def Obligations.VectorFpAndMemoryLanes : Prop :=
  (∀ (x : FRRR) (y : RR) (z : Cvt) (v : Vcmp) (s : State) (rd : Nat → Rounding), s.cur.vlanes ≠ 0 →
    let c := s.cur
    let l := c.vlanes.toNat
    let count (w : Nat) : Nat := if w = 64 then l / 2 else l
    let at_ (w j : Nat) : Nat := if w = 64 then 2 * j else j
    let on (w j : Nat) : Bool := activeBit c (at_ w j)
    let elem (w i j : Nat) : Nat := if w = 64 then (laneBits c i (2 * j + 1) ++ laneBits c i (2 * j)).toNat
      else (laneBits c i j).toNat % 2 ^ w
    let raised (w : Nat) (fl : Nat → BitVec 5) (flags : BitVec 5) : Prop := ∀ b, b < 5 →
      (flags.getLsbD b = true ↔ ∃ j, j < count w ∧ on w j = true ∧ (fl j).getLsbD b = true)
    let traps (i : Instr) (st : BitVec 3) (flags : BitVec 5) : Prop := flags &&& c.fpte ≠ 0 → ∃ w : Word32, encode i = some w ∧
      exec i s = .next (issued st { s with cur := { c with fpTraps := c.fpTraps ++
        [⟨s.tick + 1, c.gpc, w ++ (0 : BitVec 19) ++ (flags &&& c.fpte) ++ (0 : BitVec 3) ++ flags, false⟩] } })
    let ends (i : Instr) (st : BitVec 3) (w d : Nat) (res : Nat → FpResult) : Prop :=
      (∀ j, j < count w → on w j = true → Gives (roundingFor (at_ w j)) s (rd j) s) →
      ∀ flags, raised w (fun j => (res j).flags) flags → traps i st flags ∧ (flags &&& c.fpte = 0 → ∃ r : LaneWrite,
        exec i s = .next (issued st (emit s (.laneResult r))) ∧ r.flags = flags ∧ LanesBecome s r d fun k =>
          if w = 64 then AtLane c (l / 2 * 2) k (on 64 (k / 2)) (BitVec.ofNat 32 ((res (k / 2)).bits / 2 ^ (32 * (k % 2)))) 0
          else AtLane c l k (on w k) (BitVec.ofNat 32 ((res k).bits % 2 ^ w)) 0)
    let g := fmtOf x.fmt
    let p (j : Nat) : FpVal := unpack g (elem g.width x.a.toNat j)
    let q (j : Nat) : FpVal := unpack g (elem g.width x.b.toNat j)
    let two (i : Instr) (res : Nat → FpResult) : Prop := ends i x.st g.width x.d.toNat res
    let one (i : Instr) (f : Rounding → FpVal → FpResult) : Prop :=
      ends i y.st 32 y.d.toNat fun j => f (rd j) (unpack fp32 (elem 32 y.a.toNat j))
    let src := laneKind z.src
    let dst := laneKind z.dst
    let wide := src.width == 64 || dst.width == 64
    let wv := if v.ty = 3 then 64 else 32
    let cmp (j : Nat) : Bool × BitVec 5 :=
      let a := elem wv v.a.toNat j
      let b := elem wv v.b.toNat j
      let int (m n : Int) : Bool := match v.cond.toNat with
        | 0 => m == n | 1 => m != n | 2 => decide (m < n) | 3 => decide (m ≤ n) | _ => false
      let fp (f : FpFmt) : Bool × BitVec 5 :=
        let r := compareFp f (match v.cond.toNat with | 0 => .eq | 1 => .eq | 2 => .lt | 3 => .le | _ => .un) a b
        ((r.bits == 1) != (v.cond == 1), r.flags)
      match v.ty.toNat with
      | 0 => (int (BitVec.ofNat 32 a).toInt (BitVec.ofNat 32 b).toInt, 0)
      | 1 => (int a b, 0) | 2 => fp fp32 | _ => fp fp64
    two (.vaddF x) (fun j => sumFp g (rd j) [p j, q j]) ∧ two (.vsubF x) (fun j => sumFp g (rd j) [p j, (q j).negate]) ∧
    two (.vmulF x) (fun j => roundVal g (rd j) (mulVal (p j) (q j))) ∧
    two (.vfma x) (fun j => sumFp g (rd j) [mulVal (p j) (q j), unpack g (elem g.width (addendReg c) j)]) ∧
    two (.vfmin x) (fun j => minMaxFp g false false (elem g.width x.a.toNat j) (elem g.width x.b.toNat j)) ∧
    two (.vfmax x) (fun j => minMaxFp g true false (elem g.width x.a.toNat j) (elem g.width x.b.toNat j)) ∧
    one (.vrcp y) (fun r => divFp fp32 r (.fin false 1 0)) ∧ one (.vrsqrt y) (rsqrtFp fp32) ∧ one (.vexp2 y) (exp2Fp fp32) ∧
    one (.vlog2 y) (log2Fp fp32) ∧
    ends (.vcvt z) z.st (if wide then 64 else max src.width dst.width) z.d.toNat (fun j => convertLane src dst (rd j)
      (elem src.width z.a.toNat (if wide ∧ src.width ≠ 64 then 2 * j else j))) ∧
    (∀ flags, raised wv (fun j => (cmp j).2) flags → traps (.vcmp v) v.st flags ∧ (flags &&& c.fpte = 0 → ∃ r : LaneWrite,
      exec (.vcmp v) s = .next (issued v.st (emit s (.laneResult r))) ∧ r.flags = flags ∧ MasksBecome s r v.d.toNat fun k =>
        if wv = 64 then AtLane c (l / 2 * 2) k (on 64 (k / 2)) (cmp (k / 2)).1 false
        else AtLane c l k (on 32 k) (cmp k).1 false))) ∧
  (∀ (x : FRR) (s : State) (m : Rounding) (f : FpFmt), s.cur.vlanes ≠ 0 → (x.fmt = 0 ∧ f = fp32) ∨ (x.fmt = 1 ∧ f = fp64) →
    Gives (roundingFor 0) s m s →
    let es := activeElements s.cur f.width s.cur.vlanes.toNat x.a.toNat
    let ends (i : Instr) (r : FpResult) : Prop :=
      (r.flags &&& s.cur.fpte = 0 → ∀ t tag dest, Reserves s x.d tag dest t → exec i s = .next (issued x.st (emit t
        (.laneResult ⟨t.turn, [], [], r.flags, some ⟨t.turn, tag, dest, BitVec.ofNat 64 r.bits, 0⟩⟩)))) ∧
      (r.flags &&& s.cur.fpte ≠ 0 → ∀ t tag dest, Reserves s x.d tag dest t → ∃ w : Word32, encode i = some w ∧
        exec i s = .next (issued x.st { t with cur := { t.cur with fpTraps := t.cur.fpTraps ++
          [⟨t.tick + 1, t.cur.gpc, w ++ (0 : BitVec 19) ++ (r.flags &&& s.cur.fpte) ++ (0 : BitVec 3) ++ r.flags, false⟩] } }))
    let fold (isMax : Bool) : FpResult := es.foldl (fun r e =>
      ⟨(minMaxFp f isMax false r.bits e).bits, r.flags ||| (minMaxFp f isMax false r.bits e).flags⟩)
      ⟨f.infBits + if isMax then f.signBit else 0, 0⟩
    (es = [] → ends (.vredAdd x) ⟨0, 0⟩) ∧ (es ≠ [] → ends (.vredAdd x) (sumFp f m (es.map (unpack f)))) ∧
    ends (.vredMin x) (fold false) ∧ ends (.vredMax x) (fold true)) ∧
  (∀ (r : Rounding) (w : Nat) (a : ℝ), IsReal (unpack fp32 w) a → 0 < a →
    IsRound fp32 r false (1 / Real.sqrt a) (rsqrtFp fp32 r (unpack fp32 w))) ∧
  (∀ (r : Rounding) (n : Bool) (m : Nat) (e : Int),
    let f := fp32
    let inf (neg : Bool) (flags : BitVec 5) : FpResult := ⟨f.infBits + (if neg then f.signBit else 0), flags⟩
    let nan (flags : BitVec 5) : FpResult := ⟨f.nanBits, flags⟩
    rsqrtFp f r (.zero n) = inf n flagDZ ∧ rsqrtFp f r (.inf false) = ⟨0, 0⟩ ∧ rsqrtFp f r (.inf true) = nan flagNV ∧
    rsqrtFp f r (.fin true m e) = nan flagNV ∧ log2Fp f r (.zero n) = inf true flagDZ ∧ log2Fp f r (.inf false) = inf false 0 ∧
    log2Fp f r (.inf true) = nan flagNV ∧ log2Fp f r (.fin true m e) = nan flagNV ∧ exp2Fp f r (.inf false) = inf false 0 ∧
    exp2Fp f r (.inf true) = ⟨0, 0⟩ ∧ exp2Fp f r (.zero n) = ⟨0x3F800000, 0⟩ ∧
    rsqrtFp f r (.nan n) = nan (if n then flagNV else 0) ∧ log2Fp f r (.nan n) = nan (if n then flagNV else 0) ∧
    exp2Fp f r (.nan n) = nan (if n then flagNV else 0)) ∧
  (∀ (x : RRR) (s s1 s2 : State) (a b : W) (local_ : Bool) (st : Nat → State) (p : Nat → Place) (bs : Nat → List Byte),
    s.cur.vlanes ≠ 0 → Reads s x.a a s1 → Reads s1 x.b b s2 → s1.cur.vlanes = s.cur.vlanes → s2.cur.vlanes = s.cur.vlanes →
    let l := s.cur.vlanes.toNat
    let acts (c : Slot) : List Nat := (List.range l).filter (activeBit c)
    let place (write : Bool) (ea : W) : Op Place := if local_ then scratchPlace ea 4 write else lanePlace write ea
    let loads (c : Slot) (ea : Nat → W) : Prop := ∀ i, i < (acts c).length → ∃ m, Gives (place false (ea ((acts c)[i]!))) (st i)
      (p i) m ∧ Gives (loadAt (p i) 4 0 ((ea ((acts c)[i]!)).toNat % 2 ^ 56)) m (bs i) (st (i + 1))
    let stores (c : Slot) (ea : Nat → W) : Prop := ∀ i, i < (acts c).length → ∃ m, Gives (place true (ea ((acts c)[i]!))) (st i)
      (p i) m ∧ Gives (storeAt (p i) (natBytes 4 (laneBits c x.d.toNat ((acts c)[i]!)).toNat)) m () (st (i + 1))
    let loaded (i : Instr) (c : Slot) : Prop :=
      let t := st (acts c).length
      ∃ r : LaneWrite, exec i s = .next (issued x.st (emit t (.laneResult r))) ∧ r.flags = 0 ∧ LanesBecome t r x.d.toNat fun j =>
        AtLane c l j (activeBit c j) (BitVec.ofNat 32 (leNat (bs ((acts c).idxOf j)))) 0
    let stored (i : Instr) (c : Slot) : Prop := exec i s = .next (issued x.st (st (acts c).length))
    let unit (j : Nat) : W := a + b + BitVec.ofNat 64 (4 * j)
    let item (c : Slot) (j : Nat) : W := a + (laneBits c x.b.toNat j).setWidth 64
    (st 0 = s2 → (loads s2.cur unit → loaded (if local_ then .vlds x else .vld x) s2.cur) ∧
      (stores s2.cur unit → stored (if local_ then .vsts x else .vst x) s2.cur)) ∧
    (local_ = false → st 0 = s1 → (loads s1.cur (item s1.cur) → loaded (.vgath x) s1.cur) ∧
      (stores s1.cur (item s1.cur) → stored (.vscat x) s1.cur)))

/-- O50. For every state where the word may stand: MLEASE commits with the lease, traps LEASE 1 without accumulators,
else joins the list and waits; MREL and the end of CYC give the lease up; an unleased array grants H before L
requesters, round-robin by core, 64 commands and 1,024 cycles, or what a resume saved. OCLAIM takes the lowest free
slot or pushes all ones; OREL zeroes and frees a claimed slot that no command reads; OLD loads one as it issues (log
entry 120), late MEMERR for uncorrectable data. A tile must exist, be owned by the context (ACC_FIRST_USE) and not be
a command's (ACC_BUSY): then AZERO, AREAD, AWRITE and MEDGE zero, push and set its elements and edge word only. MWAIT
and ACCOWN wait for commands, and ACCOWN pushes and sets the owner and latches ACC64 and ACCU. A lease ends in one
cycle and the next is granted from the following one. That a late MEMERR names its failing unit (log entry 26), and
that a write of ACCOWN ends the exchange hold (log entry 47), are the model's choices. (R21, R30, R31, R286, R287,
R291, R293, R297, R302, R303, R437, R438) -/
def Obligations.LeasesOperandSlotsAndTiles : Prop :=
  (∀ (x y : N0) (s : State), MayCommit s →
    let c := clusterOf (agentOf s.turn)
    let w : State := { s with cur := unissued s.cur }
    let k := clusterAt w c
    let z := s.cur.lease
    let holds := z.held = true ∧ s.clock - z.since < z.cyc.toNat ∧ z.cmds ≠ 0
    let joined := setCluster w c { k with
      leaseWait := k.leaseWait ++ [s.turn], grantAt := max k.grantAt (s.tick + 1) }
    (holds → exec (.mlease x) s = .next (committed x.st s)) ∧
    (¬ holds → s.cur.partw.toNat / 2 ^ 16 % 256 = 0 → s.cur.launches = 0 →
      exec (.mlease x) s = .next (trapped .lease (operationInfo 1 false 0) s)) ∧
    (¬ holds → s.cur.partw.toNat / 2 ^ 16 % 256 ≠ 0 → exec (.mlease x) s = .next
      (if k.leaseWait.contains s.turn then w else joined)) ∧
    (∃ t, exec (.mrel y) s = .next t ∧ t.cur.lease.held = false ∧ t.cur.n = s.cur.n ∧ t.cur.q = s.cur.q ∧ t.mem = s.mem ∧
      t.pools = s.pools ∧ (kindOf s.turn = .core → (clusterAt t c).holder ≠ some s.turn))) ∧
  (∀ (h : HartId) (s : State), exec (.leaseExpiry h) s = .next (releaseLease s h) ∧
    (slotOf (releaseLease s h) h).lease.held = false ∧
    let c := clusterOf (agentOf h)
    (kindOf h = .core → (clusterAt s c).holder = some h →
      (clusterAt (releaseLease s h) c).holder = none ∧ (clusterAt (releaseLease s h) c).grantAt = s.tick + 1)) ∧
  (∀ (s : State) (c : Nat) (k : Cluster), k.holder = none → k.leaseWait ≠ [] →
    (k.grantAt ≤ s.tick ↔ arrayDue s c k = some (.leaseGrant c))) ∧
  (∀ (c : Nat) (s : State),
    let k := clusterAt s c
    (k.holder ≠ none ∨ nextLessee k = none → exec (.leaseGrant c) s = .next s) ∧
    (∀ h, k.holder = none → nextLessee k = some h → ∃ t, exec (.leaseGrant c) s = .next t ∧ (clusterAt t c).holder = some h ∧
      (∀ w, w ∈ (clusterAt t c).leaseWait ↔ w ∈ k.leaseWait ∧ w ≠ h) ∧ (slotOf t h).lreq = none ∧
      (slotOf t h).lease = match (slotOf s h).lreq with
        | some (cmds, cyc) => ⟨true, cmds, cyc, s.clock⟩
        | none => ⟨true, 64, 1024, s.clock⟩) ∧
    (∀ h, nextLessee k = some h → h ∈ k.leaseWait ∧ ∀ w ∈ k.leaseWait, (isH h = false → isH w = false) ∧
      (isH w = isH h → afterCore (if isH h then k.lastH else k.lastL) (agentOf h % 8) ≤
        afterCore (if isH h then k.lastH else k.lastL) (agentOf w % 8)))) ∧
  (∀ l i : Nat, l < 8 → i < 8 → afterCore none i = i ∧ afterCore (some l) i = (i + 7 - l) % 8) ∧
  (∀ (x : D1) (s t : State), MayCommit s →
    let c := clusterOf (agentOf s.turn)
    let k := clusterAt s c
    ((∀ n, n < 256 → mapFind k.oslots n ≠ none) → ProducesNow s x.d (BitVec.allOnes 64) t →
      exec (.oclaim x) s = .next (committed x.st t)) ∧
    (∀ n, n < 256 → mapFind k.oslots n = none → (∀ m, m < n → mapFind k.oslots m ≠ none) →
      ProducesNow (setCluster s c { k with oslots := mapPut k.oslots n ⟨s.turn, s.cur.ctx⟩ }) x.d (BitVec.ofNat 64 n) t →
      exec (.oclaim x) s = .next (committed x.st t))) ∧
  (∀ (s : State) (v : W),
    let k := clusterAt s (clusterOf (agentOf s.turn))
    let mine := v.toNat < 256 ∧ ∃ o, mapFind k.oslots v.toNat = some o ∧ o.ctx = s.cur.ctx
    (mine → Gives (claimedSlot v) s v.toNat s) ∧
    (¬ mine → claimedSlot v s = .error (.trap .slotClaim
      (operationInfo (if 256 ≤ v.toNat then 1 else 2) false (v.setWidth 55))))) ∧
  (∀ (x : A1) (s s1 : State) (a : W) (n : Nat), MayCommit s → Reads s x.a a s1 → Gives (claimedSlot a) s1 n s1 →
    let c := clusterOf (agentOf s1.turn)
    let k := clusterAt s1 c
    let used := ∃ m ∈ inFlight k, m.slotA = n ∨ m.slotB = n
    (used → exec (.orel x) s = .next { s with cur := unissued s.cur }) ∧
    (¬ used → ∃ u, exec (.orel x) s = .next (committed x.st u) ∧ u = setCluster s1 c { k with
        oslots := (clusterAt u c).oslots, omem := (clusterAt u c).omem, opoison := (clusterAt u c).opoison } ∧
      (∀ m, mapFind (clusterAt u c).oslots m = if m = n then none else mapFind k.oslots m) ∧
      ∀ p, memGet (clusterAt u c).omem p = if n * 2048 ≤ p ∧ p < n * 2048 + 2048 then 0 else memGet k.omem p)) ∧
  (∀ (x : AB) (s s1 s2 s3 s4 s5 : State) (a b : W) (n : Nat) (p q : Place) (us : List (Nat × Nat × Option (List Byte))),
    Gives exchangeWait s () s → Reads s x.a a s1 → Reads s1 x.b b s2 → Gives (claimedSlot a) s2 n s2 →
    Gives (checkAccess 0 1 64 .read true b) s2 p s3 → Gives (checkAccess 0 1 1 .read true (b + 2047)) s3 q s4 →
    (∀ m ∈ (clusterAt s4 (clusterOf (agentOf s4.turn))).cmdQ, m.slotA ≠ n ∧ m.slotB ≠ n) → Gives (loadUnits b 2048) s4 us s5 →
    s5.turn = s4.turn → let c := clusterOf (agentOf s5.turn)
    ((∀ u ∈ us, u.2.2 ≠ none) → exec (.old x) s = .next (issued x.st (setCluster s5 c { clusterAt s5 c with
      opoison := us.foldl (fun m u => clearWords m (n * 2048 + u.1) (u.2.2.getD []).length) (clusterAt s5 c).opoison
      omem := us.foldl (fun m u => memWrite m (n * 2048 + u.1) (u.2.2.getD [])) (clusterAt s5 c).omem }))) ∧
    (∀ u, us.find? (fun u => u.2.2.isNone) = some u → ∃ t n, exec (.old x) s = .next (issued x.st (emit t (.lateFault t.turn .memerr
      (accessInfo 0 true 0 (b.setWidth 56 + BitVec.ofNat 56 u.1)) ⟨t.cur.gpc, n⟩))) ∧ t.tags = n + 1 ∧ t.mem = s5.mem ∧ t.cur = s5.cur)) ∧
  (∀ (s : State) (i : Instr) (t : Nat) (w : Word32), encode i = some w → s.cur.sup = false → t < 8 →
    let core := agentOf s.turn
    let own := (coreOf s core).accown.toNat
    let size := if s.cur.partw.getLsbD 28 then 8192 else 4096
    let exists_ : Prop := (t + 1) * size ≤ s.cur.partw.toNat / 2 ^ 16 % 256 * 4096
    let owned := own / 2 ^ 16 % 2 = 1 ∧ own % 2 ^ 16 = s.cur.ctx.toNat
    let busy := (inFlight (clusterAt s (clusterOf core))).find? fun c => c.core == core && c.tile == t
    (exists_ → Gives (namedTile i t) s (s.cur.partw.getLsbD 28) s) ∧
    (¬ exists_ → namedTile i t s = .error (.trap .illegal (illegalInfo (some w) s.cur))) ∧
    (owned → busy = none → Gives (useTile i t) s () s) ∧
    (¬ owned → useTile i t s = .error (.trap .accFirstUse (BitVec.ofNat 64 (t * 2 ^ 32 + w.toNat)))) ∧
    (∀ c, owned → busy = some c →
      useTile i t s = .error (.trap .accBusy (BitVec.ofNat 64 (t * 2 ^ 16 + c.seq.toNat))))) ∧
  (∀ (x : D1) (s : State) (z : Bool), Gives (namedTile (.azero x) x.d.toNat) s z s →
    Gives (useTile (.azero x) x.d.toNat) s () s →
    let core := agentOf s.turn
    ∃ u, exec (.azero x) s = .next (issued x.st u) ∧ u = setCore s core { coreOf s core with tiles := (coreOf u core).tiles } ∧
      ∀ k, mapGet 0 (coreOf u core).tiles k = if k / 1024 = x.d.toNat then 0 else mapGet 0 (coreOf s core).tiles k) ∧
  (∀ (x : RRR) (s s1 t : State) (b : W) (z : Bool), Gives (namedTile (.aread x) x.a.toNat) s z s → Reads s x.b b s1 →
    Gives (useTile (.aread x) x.a.toNat) s1 () s1 →
    let i := b.toNat % 2048
    let k := coreOf s1 (agentOf s1.turn)
    ProducesNow s1 x.d (if i < 1024 then mapGet 0 k.tiles (x.a.toNat * 1024 + i)
      else if i = 1024 then (mapGet 0 k.edges x.a.toNat).setWidth 64 else 0) t → exec (.aread x) s = .next (issued x.st t)) ∧
  (∀ (x : RRR) (s s1 s2 : State) (a b : W) (z : Bool), Gives (namedTile (.awrite x) x.d.toNat) s z s → Reads s x.a a s1 →
    Reads s1 x.b b s2 → Gives (useTile (.awrite x) x.d.toNat) s2 () s2 →
    let i := a.toNat % 2048
    let core := agentOf s2.turn
    let k := coreOf s2 core
    ∃ u, exec (.awrite x) s = .next (issued x.st u) ∧ u.mem = s2.mem ∧ u.cur = s2.cur ∧
      (∀ y, mapGet 0 (coreOf u core).tiles y = if i < 1024 ∧ y = x.d.toNat * 1024 + i then
        (if z then b else (b.setWidth 32).setWidth 64) else mapGet 0 k.tiles y) ∧
      ∀ y, mapGet 0 (coreOf u core).edges y = if i = 1024 ∧ y = x.d.toNat then b.setWidth 16 &&& 0x1F1F else mapGet 0 k.edges y) ∧
  (∀ (x : A1) (s s1 : State) (a : W) (z : Bool), Reads s x.a a s1 →
    let t := a.toNat / 2 ^ 16 % 8
    let core := agentOf s1.turn
    Gives (namedTile (.medge x) t) s1 z s1 → Gives (touchTile (.medge x) t) s1 () s1 →
    ∃ u, exec (.medge x) s = .next (issued x.st u) ∧ u.mem = s1.mem ∧ u.cur = s1.cur ∧
      (coreOf u core).tiles = (coreOf s1 core).tiles ∧
      ∀ y, mapGet 0 (coreOf u core).edges y = if y = t then a.setWidth 16 &&& 0x1F1F else mapGet 0 (coreOf s1 core).edges y) ∧
  (∀ (x : N0) (s : State), exec (.mwait x) s = .next (if matrixBusy s s.turn then { s with cur := unissued s.cur } else issued x.st s)) ∧
  (∀ (x : RR) (s s1 t : State) (a : W), MayCommit s → s.cur.sup = true → Reads s x.a a s1 →
    let core := agentOf s1.turn
    let used := ∃ c ∈ inFlight (clusterAt s1 (clusterOf core)), c.core = core
    (used → exec (.accown x) s = .next { s with cur := unissued s.cur }) ∧
    (¬ used → kindOf s.turn = .core → t.turn = s.turn → ProducesNow s1 x.d (coreOf s1 core).accown t →
      exec (.accown x) s = .next (committed x.st (setCore t core { coreOf t core with
        accown := (a.setWidth 17).setWidth 64, acc64 := t.cur.partw.getLsbD 28
        accu := t.cur.partw.extractLsb' 16 8, exchange := (coreOf t core).exchange.filter fun h => h != t.turn }))))

/-- O51. For every state where the word may stand, with the tile of the pair's format, its touch, both claims, the
lease and room in the queue: each MMA commits, its command joins the queue with the scale, planes, edge word and next
sequence number, and CMDS falls by one, ending the lease at zero. A start on an idle array reads both operand slots; a
completion gives each element within the edge the RNE rounding of the exact sum of the accumulator and its products,
leaves the others, and ORs the flags in; a NaN, a product of zero and infinity, infinities and an exact sum of zero
give the special values of R295. Operands are read as their pair says, nested integers from their planes with their
scale. AST converts the whole tile, traps FP for an enabled flag, else stores the rows in order, counted in supervisor
mode; ALD loads the rows as it issues. That a command carries the sequence number after its growth (log entry 48),
that ALD's loads perform at issue (log entry 120) and that an MMA without the lease requests it without MLEASE's check
of ACCU (log entry 121) are the model's choices. (R151, R152, R284, R286, R289, R290, R294, R295, R298, R299, R304,
R447) -/
def Obligations.MatrixCommandsAndTileTransfers : Prop :=
  (∀ (x : RRR) (y : MmaN) (s s1 s2 s3 : State) (a b c : W) (na nb : Nat), MayCommit s →
    Gives exchangeWait s () s → Reads s x.a a s1 → Reads s1 x.b b s2 → y.d = x.d → y.a = x.a → y.b = x.b → y.st = x.st →
    Reads s2 y.c c s3 →
    let issues (i : Instr) (z : State) (pair : BitVec 6) (scale : W) (planes : Nat) : Prop :=
      Gives (namedTile i x.d.toNat) s (pair == 0x30) s → Gives (touchTile i x.d.toNat) z () z →
      Gives (claimedSlot a) z na z → Gives (claimedSlot b) z nb z → holdsLease z = true →
      let core := agentOf z.turn
      let cl := clusterOf core
      let kc := coreOf z core
      let k := clusterAt z cl
      let l := leaseNow z.cur z.clock
      k.cmdQ.length < 16 →
      let cmd : MmaCmd := ⟨z.turn, core, pair, x.d.toNat, na, nb, scale, planes, edgeOf z core x.d.toNat, kc.seq + 1, [], [], z.tick⟩
      let u := setCluster (setCore z core { kc with seq := kc.seq + 1, accepted := kc.accepted + 1 }) cl
        { k with cmdQ := k.cmdQ ++ [cmd] }
      let v : State := { u with cur := { u.cur with lease := { l with cmds := l.cmds - 1 } } }
      exec i s = .next (committed x.st (if l.cmds = 1 then releaseLease v v.turn else v))
    issues (.mmaDD x) s2 0x30 0 0 ∧ issues (.mmaSS x) s2 0x31 0 0 ∧ issues (.mmaBB x) s2 0x32 0 0 ∧ issues (.mmaHH x) s2 0x33 0 0 ∧
    issues (.mmaBH x) s2 0x34 0 0 ∧ issues (.mmaHB x) s2 0x35 0 0 ∧ issues (.mmaNN y) s3 0x36 c (y.pm2.toNat + 2) ∧
    issues (.mmaNB y) s3 0x37 c (y.pm2.toNat + 2) ∧ issues (.mmaBN y) s3 0x38 c (y.pm2.toNat + 2)) ∧
  (∀ (cl : Nat) (s : State) (c : MmaCmd) (cs : List MmaCmd),
    let k := clusterAt s cl
    (k.running ≠ none ∨ k.cmdQ = [] → exec (.mmaCommandStart cl) s = .next s) ∧
    (k.running = none → k.cmdQ = c :: cs → exec (.mmaCommandStart cl) s = .next (setCluster s cl { k with
      cmdQ := cs
      running := some { c with
        opA := slotBytes k cl (freeStamp s) c.slotA
        opB := slotBytes k cl (freeStamp s) c.slotB
        time := s.tick + if c.pair = 0x36 then (if 5 ≤ c.planes then 4 else 1) else 8 } }))) ∧
  (∀ (k : Cluster) (cl stamp n i : Nat), i < 2048 → mapFind k.opoison ((n * 2048 + i) / 8) = none →
    (slotBytes k cl stamp n)[i]? = some (memGet k.omem (n * 2048 + i))) ∧
  (∀ (cl : Nat) (s : State), (clusterAt s cl).running = none → exec (.mmaCommandComplete cl) s = .next s) ∧
  (∀ (cl : Nat) (s : State) (c : MmaCmd), (clusterAt s cl).running = some c → ∃ t, exec (.mmaCommandComplete cl) s = .next t ∧
    (clusterAt t cl).running = none ∧ t.mem = s.mem ∧
    (∀ i j, i < 32 → j < 32 → tileElem t c.core c.tile (32 * i + j) =
      if i < 32 - (c.edge.extractLsb' 0 5).toNat ∧ j < 32 - (c.edge.extractLsb' 8 5).toNat then
        BitVec.ofNat 64 (mmaElem c (tileElem s c.core c.tile (32 * i + j)) i j).bits
      else tileElem s c.core c.tile (32 * i + j)) ∧
    (∀ tile x, x < 1024 → tile ≠ c.tile → tileElem t c.core tile x = tileElem s c.core tile x) ∧
    (coreOf t c.core).edges = (coreOf s c.core).edges ∧
    ∀ b, b < 5 → ((slotOf t c.h).fpflags.getLsbD b = true ↔ (slotOf s c.h).fpflags.getLsbD b = true ∨
      ∃ i j, i < 32 - (c.edge.extractLsb' 0 5).toNat ∧ j < 32 - (c.edge.extractLsb' 8 5).toNat ∧
        (mmaElem c (tileElem s c.core c.tile (32 * i + j)) i j).flags.getLsbD b = true)) ∧
  (∀ (c : MmaCmd) (acc : W) (i j : Nat) (r : ℝ) (p q : Nat → ℝ),
    let pair := c.pair.toNat
    let n := if pair = 0x30 then 8 else if pair = 0x31 then 16 else if pair = 0x36 then 64 else 32
    let f := if pair = 0x30 then fp64 else fp32
    pair ≠ 0x36 → IsReal (unpack f acc.toNat) r →
    (∀ k, k < n → IsReal (elemA c (n * i + k)) (p k) ∧ IsReal (elemB c (n * j + k)) (q k)) →
    let sum := r + ∑ k ∈ Finset.range n, p k * q k
    let zero (v : FpVal) : Prop := ∃ b, v = .zero b
    let negZero : Prop := unpack f acc.toNat = .zero true ∧ ∀ k, k < n →
      (zero (elemA c (n * i + k)) ∨ zero (elemB c (n * j + k))) ∧ (elemA c (n * i + k)).neg ≠ (elemB c (n * j + k)).neg
    (sum ≠ 0 → IsRound f ⟨.rne, 0⟩ (decide (sum < 0)) |sum| (mmaElem c acc i j)) ∧
    (sum = 0 → (negZero → mmaElem c acc i j = ⟨f.signBit, 0⟩) ∧ (¬ negZero → mmaElem c acc i j = ⟨0, 0⟩))) ∧
  (∀ (c : MmaCmd) (acc : W) (i j : Nat), c.pair ≠ 0x36 →
    let n := if c.pair = 0x30 then 8 else if c.pair = 0x31 then 16 else 32
    let f := if c.pair = 0x30 then fp64 else fp32
    let a := unpack f acc.toNat
    let p (k : Nat) : FpVal := elemA c (n * i + k)
    let q (k : Nat) : FpVal := elemB c (n * j + k)
    let isNan (v : FpVal) : Prop := ∃ b, v = .nan b
    let isInf (v : FpVal) : Prop := ∃ b, v = .inf b
    let isZero (v : FpVal) : Prop := ∃ b, v = .zero b
    let zeroInf (k : Nat) : Prop := (isZero (p k) ∧ isInf (q k)) ∨ (isInf (p k) ∧ isZero (q k))
    let anyNan : Prop := isNan a ∨ ∃ k, k < n ∧ (isNan (p k) ∨ isNan (q k))
    let infinite (neg : Bool) : Prop := a = .inf neg ∨ ∃ k, k < n ∧ (isInf (p k) ∨ isInf (q k)) ∧ ¬ isNan (p k) ∧
      ¬ isNan (q k) ∧ ¬ zeroInf k ∧ ((p k).neg != (q k).neg) = neg
    let invalid : Prop := a = .nan true ∨ (∃ k, k < n ∧ (p k = .nan true ∨ q k = .nan true ∨ zeroInf k)) ∨
      (infinite false ∧ infinite true)
    (invalid → mmaElem c acc i j = ⟨f.nanBits, flagNV⟩) ∧ (¬ invalid → anyNan → mmaElem c acc i j = ⟨f.nanBits, 0⟩) ∧
    (¬ invalid → ¬ anyNan → ∀ neg, infinite neg →
      mmaElem c acc i j = ⟨f.infBits + if neg then f.signBit else 0, 0⟩)) ∧
  (∀ (c : MmaCmd) (acc : W) (i j : Nat) (b : Bool), c.pair = 0x36 →
    (unpack fp32 acc.toNat = .nan b → mmaElem c acc i j = ⟨fp32.nanBits, if b then flagNV else 0⟩) ∧
    (unpack fp32 acc.toNat = .inf b → mmaElem c acc i j = ⟨fp32.infBits + if b then fp32.signBit else 0, 0⟩)) ∧
  (∀ (c : MmaCmd) (acc : W) (i j : Nat) (r : ℝ), c.pair = 0x36 → c.planes ≤ 8 → IsReal (unpack fp32 acc.toNat) r →
    let e : ℤ := (c.scale.toNat % 256 : ℕ) + (c.scale.toNat / 256 % 256 : ℕ) - 254 + 2 * (8 - (c.planes : ℤ))
    let sum := r + (∑ k ∈ Finset.range 64, ((nestedInt c.opA c.planes (64 * i + k) * nestedInt c.opB c.planes (64 * j + k) : ℤ) : ℝ)) *
      (2 : ℝ) ^ e
    (sum ≠ 0 → IsRound fp32 ⟨.rne, 0⟩ (decide (sum < 0)) |sum| (mmaElem c acc i j)) ∧
    (sum = 0 → mmaElem c acc i j = ⟨0, 0⟩)) ∧
  (∀ (c : MmaCmd) (e : Nat),
    let bits (bs : List Byte) (n : Nat) : Nat := leNat ((bs.drop (e * n)).take n)
    let nested (bs : List Byte) (scale : Nat) : ℝ := (nestedInt bs c.planes e : ℝ) * (2 : ℝ) ^ ((scale : ℤ) - 127 + 8 - c.planes)
    (c.pair = 0x30 → elemA c e = unpack fp64 (bits c.opA 8) ∧ elemB c e = unpack fp64 (bits c.opB 8)) ∧
    (c.pair = 0x31 → elemA c e = unpack fp32 (bits c.opA 4) ∧ elemB c e = unpack fp32 (bits c.opB 4)) ∧
    (c.pair = 0x32 ∨ c.pair = 0x34 ∨ c.pair = 0x38 → elemA c e = unpack bf16 (bits c.opA 2)) ∧
    (c.pair = 0x33 ∨ c.pair = 0x35 → elemA c e = unpack fp16 (bits c.opA 2)) ∧
    (c.pair = 0x32 ∨ c.pair = 0x35 ∨ c.pair = 0x37 → elemB c e = unpack bf16 (bits c.opB 2)) ∧
    (c.pair = 0x33 ∨ c.pair = 0x34 → elemB c e = unpack fp16 (bits c.opB 2)) ∧
    (c.planes ≤ 8 → (c.pair = 0x37 → IsReal (elemA c e) (nested c.opA (c.scale.toNat % 256))) ∧
      (c.pair = 0x38 → IsReal (elemB c e) (nested c.opB (c.scale.toNat / 256 % 256))))) ∧
  (∀ (bs : List Byte) (p e : Nat), 0 < p → p ≤ 8 → -(2 ^ (p - 1)) ≤ nestedInt bs p e ∧ nestedInt bs p e < 2 ^ (p - 1) ∧
    ∀ j, j < p → (BitVec.ofInt 64 (nestedInt bs p e)).getLsbD (p - 1 - j) =
      ((bs[256 * (e / 256) + 32 * j + e % 256 / 8]?).getD 0).getLsbD (e % 8)) ∧
  (∀ (x : Ast) (s s1 s2 s3 : State) (a b : W) (z : Bool) (rd : Nat → Rounding) (st : Nat → State),
    Gives (namedTile (.ast x) x.tile.toNat) s z s → Reads s x.a a s1 → Reads s1 x.b b s2 →
    Gives (useTile (.ast x) x.tile.toNat) s2 () s2 →
    let src := if z then fp64 else fp32
    let dst := if x.fmt = 0 then src else if x.fmt = 1 then fp32 else if x.fmt = 2 then bf16 else fp16
    let n := dst.width / 8
    Gives (checkRows 1 .write a b (32 * n) n) s2 () s3 → (∀ i, i < 1024 → Gives (roundingFor i) s3 (rd i) s3) →
    let elem (i : Nat) : W := tileElem s3 (agentOf s2.turn) x.tile.toNat i
    let res (i : Nat) : FpResult := if src = dst then ⟨(elem i).toNat, 0⟩ else roundVal dst (rd i) (unpack src (elem i).toNat)
    ∀ flags : BitVec 5, (∀ k, k < 5 → (flags.getLsbD k = true ↔ ∃ i, i < 1024 ∧ (res i).flags.getLsbD k = true)) →
      (flags &&& s3.cur.fpte ≠ 0 → s.cur.launches = 0 → ∃ w : Word32, encode (.ast x) = some w ∧ exec (.ast x) s =
        .next (trapped .fp (w ++ (0 : BitVec 19) ++ (flags &&& s3.cur.fpte) ++ (0 : BitVec 3) ++ flags) s)) ∧
      (flags &&& s3.cur.fpte = 0 → st 0 = { s3 with cur := addFlags s3.cur s3.tick s3.tick flags } →
        (∀ i, i < 32 → Gives (storeSpan (a + BitVec.ofNat 64 i * b)
          ((List.range 32).flatMap fun j => natBytes n (res (32 * i + j)).bits)) (st i) () (st (i + 1))) →
        exec (.ast x) s = .next (issued x.st (countSpill (st 32))))) ∧
  (∀ (x : RRR) (s s1 s2 : State) (a b : W) (z : Bool) (st : Nat → State) (us : Nat → List (Nat × Nat × Option (List Byte))),
    Gives (namedTile (.ald x) x.d.toNat) s z s → Gives exchangeWait s () s → Reads s x.a a s1 → Reads s1 x.b b s2 →
    Gives (useTile (.ald x) x.d.toNat) s2 () s2 →
    let n := if z then 8 else 4
    Gives (checkRows 0 .read a b (32 * n) n) s2 () (st 0) →
    (∀ i, i < 32 → Gives (loadUnits (a + BitVec.ofNat 64 i * b) (32 * n)) (st i) (us i) (st (i + 1)) ∧ ∀ u ∈ us i, u.2.2 ≠ none) →
    let core := agentOf s2.turn
    let row (i : Nat) : List Byte := (us i).foldl (fun bs u => bs.take u.1 ++ u.2.2.getD [] ++ bs.drop (u.1 + (u.2.2.getD []).length))
      ((List.range 32).flatMap fun j => natBytes n (tileElem (st 32) core x.d.toNat (32 * i + j)).toNat)
    ∃ t, exec (.ald x) s = .next (issued x.st t) ∧ t = setCore (st 32) core { coreOf (st 32) core with tiles := (coreOf t core).tiles } ∧
      (∀ i j, i < 32 → j < 32 → tileElem t core x.d.toNat (32 * i + j) = leWord (((row i).drop (n * j)).take n)) ∧
      ∀ k, k / 1024 ≠ x.d.toNat → mapGet 0 (coreOf t core).tiles k = mapGet 0 (coreOf (st 32) core).tiles k)

/-- O52. For every state: a queue that gives no packet stays, but that a malformed entry in the way of its ring is
reported; a packet at the head of an enabled queue with nothing pending is refused with the reason of the first check
that fails (7 for a CTXN that names no context, log 37; 1 for a stage table that cannot be read, log 103), which the
completion word tells (a COUNT with uncorrectable data goes on from a free value, log 91); waits, its waiting counted
from when it came to the head, when no context number is free; or opens a context, whose home record holds its total,
and whose groups wait with weights that add up to the total. A placement action gives the next queue's groups cores
(queues of SHARE 0 by a pointer of their own, log 40), and where none can act ends the round: a new placement starts
with zeros, its edge words too, and the shape record, with the root table of the context's registry entry (with
uncorrectable data there that of its shadow, else the one loaded before, log 91), and each core's root start carries a
share that adds up to the group's weight. Of the overdue gangs with a target, which lies wholly in the queue's mask,
the oldest drains it (log 42); a held context moves with its partition. A completed context that is not held, and a
held one whose registry entry is set free (the model looks between steps, log 43), leaves every core, cluster and
launch queue. A frame counts 2,048 cycles. (R348, R350, R351, R357, R358, R359, R360, R362, R363, R366, R369, R406) -/
def Obligations.PacketsPlacementsAndCompletion : Prop :=
  (∀ (q : Nat) (s : State),
    ((s.module.frozen ≠ none ∨ queueEnabled s q = false ∨ (queueAt s q).pending ≠ []) → exec (.packetDispatch q) s = .next s) ∧
    (∀ ring, s.module.frozen = none → queueEnabled s q = true → (queueAt s q).pending = [] → headItem s q = .error ring →
      exec (.packetDispatch q) s = .next (noteRing s (unitLoc (queueDesc s q).header) (queueDesc s q).root ring))) ∧
  (∀ (q : Nat) (s s' : State) (v : W), s.module.frozen = none → queueEnabled s q = true → (queueAt s q).pending = [] →
    headItem s q = .ok (v, s') →
    let took := setQueue s' q { queueAt s' q with packet := none }
    let since := ((queueAt s' q).packet.map (·.2)).getD s.clock
    let c : BitVec 16 := v.extractLsb' 48 16
    (∀ reason, checkPacket s q v = .error reason →
      exec (.packetDispatch q) s =
        .next (emit (refusePacket (notePacket took q v reason) q v reason) (.packetDispatch q)) ∧
      (reason ≠ 7 → reason ≠ 6 → reason ≠ 1 → notePacket took q v reason = took)) ∧
    (∀ r, checkPacket s q v = .ok (r, .fresh) → freeNumber s (q / 64) = none →
      exec (.packetDispatch q) s = .next (setQueue s q { queueAt s q with packet := some (v, since) })) ∧
    (∀ r n, checkPacket s q v = .ok (r, .fresh) → freeNumber s (q / 64) = some n → s.memOk = true → s'.memOk = true →
      homeRecord (setCtx took n (newCtx q (queueDesc s q).root (queueDesc s q).compl 0 r)) n % 32 = 0 →
      ∃ t k, exec (.packetDispatch q) s = .next t ∧ ctxOf t n = some k ∧ k.queue = q ∧ k.rec_ = r ∧
        k.root = (queueDesc s q).root ∧ k.compl = (queueDesc s q).compl ∧ k.complete = false ∧
        totalOf t n = r.total % 2 ^ 48 ∧ atHomeOf t n = 0 ∧ lostOf t n = 0 ∧ qdone t n = false ∧
        (queueAt t q).pending = (queueAt s' q).pending ++ [⟨n, r, false, groupWeights r, [], since⟩]) ∧
    (∀ r, checkPacket s q v = .ok (r, .child) → ∃ t, exec (.packetDispatch q) s = .next t ∧ t.mem = s'.mem ∧
      (queueAt t q).pending = (queueAt s' q).pending ++ [⟨c, r, true, groupWeights r, [], s.clock⟩]) ∧
    (∀ r k, checkPacket s q v = .ok (r, .reopen) → ctxOf s c = some k →
      exec (.packetDispatch q) s = .next (reopenCtx took q c (v.toNat / 2 ^ 7 % 2 ^ 41 * 128) r k))) ∧
  (∀ (s : State) (q : Nat) (v : W), v.toNat % 128 ≠ 0 → checkPacket s q v = .error 6) ∧
  (∀ (s : State) (q : Nat) (v : W), v.toNat % 128 = 0 → readPacket s q v = none → checkPacket s q v = .error 7) ∧
  (∀ (s : State) (q : Nat) (v : W) (r : Launch) (k : PacketKind), checkPacket s q v = .ok (r, k) → ∃ rd : PacketRead,
    readPacket s q v = some rd ∧ v.toNat % 128 = 0 ∧ recordValid rd.bytes = true ∧ tableOk false rd.table (padSize r.partw) = true ∧
      partwOk r.partw = true ∧ maskHolds s q r = true ∧ (r.pipe = true → launchCores r ≤ r.total) ∧
      (r.pipe = false → groupSize r ≤ r.total / groupCount r) ∧ (k = .fresh ↔ v.extractLsb' 48 16 = (0 : BitVec 16))) ∧
  (∀ r : Launch, 1 ≤ groupCount r → ((groupWeights r).map (·.2)).sum = r.total) ∧
  (∀ v n : Nat, 0 < n → ∑ i ∈ Finset.range n, coreShare v n i = v) ∧
  (∀ (s : State) (compl c status reason : Nat), s.memOk = true → compl % 8 = 0 → c < 2 ^ 16 → status < 256 → reason < 256 →
    ∃ n, n < 2 ^ 32 ∧ (poisonedPhys s compl 8 = false → n = (physDword s compl + 1) % 2 ^ 32) ∧
      physDword (writeCompletion s compl c status reason) compl = c * 2 ^ 48 + status * 2 ^ 40 + reason * 2 ^ 32 + n) ∧
  (∀ (die : Nat) (s : State), (nextActor s die = none → exec (.placementAction die) s = .next (restoreShares s die)) ∧
    (∀ q fresh p gs k, nextActor s die = some (q, fresh) → choosePlans s q = some (p, gs) → ctxOf s p.ctx = some k →
      let s1 := if fresh then restoreShares s die else s
      let s2 := setQueue s1 q { queueAt s1 q with used := (queueAt s1 q).used + 1 }
      let s3 := setDie s2 die { dieOf s2 die with passAt := (q + 1) % 64 }
      exec (.placementAction die) s = .next (carryOut s3 q p k gs) ∧
        (∀ g ∈ gs, ∀ i, i < g.cores.length →
          .messageArrival (g.cores[i]!) (rootStart p.ctx p.rec_ g i) ∈ (carryOut s3 q p k gs).events ∧
          (rootStart p.ctx p.rec_ g i).weight = BitVec.ofNat 48 (coreShare g.weight g.cores.length i)))) ∧
  (∀ (s : State) (c : BitVec 16) (k : Ctx) (r : Launch) (core u : Nat), s.memOk = true → placementOf s core c = none →
    let units := partUnits r.partw
    poolStart s core units = some u → r.shapeImage.length ≤ 256 → 1 ≤ spadu r.partw →
    let t := placeOn s c k r core
    let shape := regu r.partw * 4096
    t.mem = (clearEdges s (dieOfAgent core) c).mem ∧ (∃ p, placementOf t core c = some p ∧ p.partw = r.partw ∧ p.pbase.toNat = 4096 * u ∧
      p.htab = placedTable r.image ∧ p.ptab = r.ptab ∧ p.nphase = r.nphase ∧
      let e := regEntry s (k.queue / 64) c
      let shadow := e + 0x800000
      p.root = if poisonedPhys s (e + 8) 8 = false then physDword s (e + 8) % 2 ^ 52
        else if poisonedPhys s (shadow + 8) 8 = false then physDword s (shadow + 8) % 2 ^ 52 else k.root) ∧ u + units ≤ 64 ∧
    ∀ a, memGet t.pools a = if core * 2 ^ 18 + 4096 * u ≤ a ∧ a < core * 2 ^ 18 + 4096 * (u + units) then
        (if core * 2 ^ 18 + 4096 * u + shape ≤ a then (r.shapeImage[a - (core * 2 ^ 18 + 4096 * u + shape)]?).getD 0 else 0)
      else memGet s.pools a) ∧
  (∀ (die : Nat) (s : State),
    let d := dieOf s die
    (d.drain = none → waitingGang s die = none → exec (.gangDrain die) s = .next s) ∧
    (∀ q cores, d.drain = none → waitingGang s die = some (q, cores) →
      exec (.gangDrain die) s = .next (setDie s die { d with drain := some (q, cores) }) ∧ q / 64 = die ∧
        (∃ p ps, (queueAt s q).pending = p :: ps ∧ p.since + d.gangwait.toNat ≤ s.clock ∧ drainTarget s q p = some cores) ∧
        ∀ c ∈ cores, maskedCore s (queueDesc s q).mask c = true) ∧
    (∀ q q' cores g, d.drain = none → waitingGang s die = some (q, cores) → (q' ∈ s.queues.map (·.1)) → q' / 64 = die →
      overdueGang s d.gangwait.toNat q' = some g → ∃ since, overdueGang s d.gangwait.toNat q = some (since, cores) ∧
        since ≤ g.1) ∧
    (d.drain ≠ none → movable s die = none → exec (.gangDrain die) s = .next s) ∧
    (∀ c a b, d.drain ≠ none → movable s die = some (c, a, b) → exec (.gangDrain die) s = .next (moveHeld s c a b))) ∧
  (∀ (c : BitVec 16) (a b : Nat) (s : State), mayMove s c a b = false → exec (.contextCompact c a b) s = .next s) ∧
  (∀ (c : BitVec 16) (a b : Nat) (s : State) (p : Placement), mayMove s c a b = true → s.memOk = true → placementOf s a c = some p →
    let n := 4096 * heldUnits s p
    p.pbase.toNat + n ≤ 2 ^ 18 → ∃ t u, exec (.contextCompact c a b) s = .next t ∧ placementOf t a c = none ∧
      placementOf t b c = some { p with pbase := BitVec.ofNat 18 (4096 * u) } ∧
      ∀ i, i < n → memGet t.pools (b * 2 ^ 18 + 4096 * u + i) = memGet s.pools (a * 2 ^ 18 + p.pbase.toNat + i)) ∧
  (∀ (c : BitVec 16) (k : Ctx) (s : State), ctxOf s c = some k →
    (k.complete = true → freedContext s ≠ some c → exec (.contextComplete c) s = .next s) ∧
    (k.complete = false → qdone s c = false → exec (.contextComplete c) s = .next s) ∧
    (k.complete = false → qdone s c = true → k.rec_.hold = true → exec (.contextComplete c) s =
      .next (dropPending (setRegDword (setCtx s c { k with complete := true }) (k.queue / 64) c 0
        (regHead k.queue 2 true (tileSaved s (k.queue / 64) c) c)) c)) ∧
    (∀ t : State, (∀ q, (queueAt (dropPending t c) q).pending = (queueAt t q).pending.filter fun g => g.ctx != c)) ∧
    ((if k.complete then freedContext s = some c else qdone s c = true ∧ k.rec_.hold = false) → ∃ t, exec (.contextComplete c) s = .next t ∧
      (∀ core, placementOf t core c = none) ∧ t.pools = s.pools ∧ ctxOf t c = none ∧
      (∀ q, (queueAt t q).pending = (queueAt s q).pending.filter fun g => g.ctx != c) ∧
      (∀ cl n o, mapFind (clusterAt t cl).oslots n = some o → o.ctx ≠ c) ∧ (∀ cl, ∀ x ∈ (clusterAt t cl).tileQ, x.ctx ≠ c) ∧
      ∀ j, j ≠ c → ctxOf t j = ctxOf s j)) ∧
  (∀ s : State, ∃ t es, exec .frameAdvance s = .next t ∧ t = { s with
      module := { s.module with frame := BitVec.ofNat 8 (s.tick / 2048) }, events := s.events ++ es } ∧
    ∀ e ∈ es, ∃ q, e = .packetDispatch q)

/-- O53. For every state: a KICK that names one or two new jobs of a valid port accepts each in turn, minting its
weight, or marking it to end with status 2 for uncorrectable data, also in the home record (log 91), and 4 for no
weight or a full TOTAL; another new value is written back, and so is KICK where it or COMPLETED holds uncorrectable
data (log 91). Model's choices: status 2 for a poisoned weight word (log 52), no kick of an unlisted port (log 51), a
collective that waits with its peers' values in the event (log 53), packets that an untrained link holds and training
of a dead port only after RESTORE (log 54). A job starts at the program with n0 its block, n1 its index, its weight,
and the root table of the context's registry entry; its end writes COMPLETED (from a free value where it holds
uncorrectable data, log 91), cause and status, and DETAIL, and returns the weight. A collective gives each element the
rounding of the sum of the cell and its peers' partials and ends the job with the flags, or with status 6 for a bad
record or one not aligned on 64. A store to another module carries one minted unit, which its acknowledgement returns,
the issuing core's own copies brought up to date; a dead link writes units off, fails the stores and ends the job; it
trains only after a RESTORE. (R177, R385, R386, R387, R390, R391, R395, R397, R400, R401, R453) -/
def Obligations.JobsCollectivesAndLinks : Prop :=
  (∀ (e : BitVec 12) (port : Nat) (s : State), mapFind (engineAt s e.toNat).ports port = none → exec (.kick e port) s = .next s) ∧
  (∀ (e : BitVec 12) (port : Nat) (s : State) (p : Port), mapFind (engineAt s e.toNat).ports port = some p →
    let word : BitVec 64 := BitVec.ofNat 64 (physDword s p.pblock)
    let v := word.setWidth 32
    let done : BitVec 32 := BitVec.ofNat 32 (physDword s (p.pblock + 8))
    let d := (v - p.accepted).toNat
    let bad := 2 < d ∨ 2 < (v - done).toNat ∨ word.extractLsb' 32 32 ≠ 0 ∨ p.valid = false ∨ qdone s p.ctx = true
    let lost := poisonedPhys s p.pblock 16
    (lost = true → exec (.kick e port) s = .next (homeWrite s (canonPa p.pblock) (natBytes 4 p.accepted.toNat))) ∧
    (lost = false → d = 0 → exec (.kick e port) s = .next s) ∧
    (lost = false → d ≠ 0 → bad → exec (.kick e port) s = .next (homeWrite s (canonPa p.pblock) (natBytes 4 p.accepted.toNat))) ∧
    (lost = false → d ≠ 0 → ¬ bad → ∃ t js, exec (.kick e port) s = .next t ∧ (engineAt t e.toNat).jobs = (engineAt s e.toNat).jobs ++ js ∧
      js.map (·.idx) = (List.range d).map (fun i => p.accepted + BitVec.ofNat 32 i) ∧ (∀ j ∈ js, j.port = port) ∧
      mapFind (engineAt t e.toNat).ports port = some { p with accepted := v } ∧
      (d = 1 → t = setEngine (acceptJob e.toNat port p s p.accepted) e.toNat
        { engineAt (acceptJob e.toNat port p s p.accepted) e.toNat with
          ports := mapPut (engineAt (acceptJob e.toNat port p s p.accepted) e.toNat).ports port { p with accepted := v } }) ∧
      (d = 2 → let z := acceptJob e.toNat port p (acceptJob e.toNat port p s p.accepted) (p.accepted + 1)
        t = setEngine z e.toNat { engineAt z e.toNat with
          ports := mapPut (engineAt z e.toNat).ports port { p with accepted := v } }))) ∧
  (∀ (a port : Nat) (p : Port) (s : State) (idx : BitVec 32), s.memOk = true → homeRecord s p.ctx % 32 = 0 →
    (∀ x, ctxOf s p.ctx = some x →
      canonPa x.compl + 8 ≤ canonPa (homeRecord s p.ctx) ∨ canonPa (homeRecord s p.ctx) + 32 ≤ canonPa x.compl) →
    let at_ := 0x40 + 0x40 * (idx.toNat % 2)
    let w := physDword s (p.pblock + at_) % 2 ^ 32
    let poisoned := poisonedMem s (canonPa (p.pblock + at_)) 8
    let t := acceptJob a port p s idx
    let adds (j : Job) : Prop := (engineAt t a).jobs = (engineAt s a).jobs ++ [j]
    (poisoned = true → adds ⟨port, idx, 0, some (2, p.vblock.setWidth 64 + BitVec.ofNat 64 at_)⟩ ∧ t.mem = s.mem) ∧
    (poisoned = false → w ≠ 0 → homePoisoned s p.ctx = true →
      adds ⟨port, idx, 0, some (2, BitVec.ofNat 64 (homeRecord s p.ctx))⟩ ∧ t.mem = s.mem) ∧
    (poisoned = false → w = 0 ∨ (homePoisoned s p.ctx = false ∧ 2 ^ 48 ≤ totalOf s p.ctx + w) →
      adds ⟨port, idx, 0, some (4, BitVec.ofNat 64 w)⟩ ∧ t.mem = s.mem) ∧
    (poisoned = false → w ≠ 0 → homePoisoned s p.ctx = false → totalOf s p.ctx + w < 2 ^ 48 → adds ⟨port, idx, w, none⟩ ∧ totalOf t p.ctx = totalOf s p.ctx + w)) ∧
  (∀ (e : BitVec 12) (s : State) (j : Job) (p : Port),
    let a := e.toNat
    let k := engineAt s a
    let h : HartId := e.setWidth 13
    let at_ : W := p.vblock.setWidth 64 + BitVec.ofNat 64 (0x40 + 0x40 * (j.idx.toNat % 2))
    (k.running ≠ none ∨ nextJob k = none → exec (.jobStart e) s = .next s) ∧
    (k.running = none → nextJob k = some j → mapFind k.ports j.port = some p → ∃ u,
      exec (.jobStart e) s = .next (match j.refused with
        | some (st, d) => endJob u a st 0 d
        | none => u) ∧ u.mem = s.mem ∧
      (engineAt u a).running = some j ∧ (engineAt u a).jobs = k.jobs.erase j ∧ (engineAt u a).lastPort = some j.port ∧
      (∀ c, ctxOf s p.ctx = some c → poisonedPhys s (regEntry s (c.queue / 64) p.ctx + 8) 8 = false →
        (engineAt u a).root = physDword s (regEntry s (c.queue / 64) p.ctx + 8) % 2 ^ 52) ∧
      let x := slotOf u h
      x.live = true ∧ x.pc = p.program ∧ x.rstart = p.program ∧ x.npc = p.program + 4 ∧ x.wcur = BitVec.ofNat 48 j.weight ∧
      x.ctx = p.ctx ∧ x.sup = false ∧ x.fpflags = 0 ∧ nEntry x 0 = ⟨at_, 0, 0⟩ ∧ nEntry x 1 = ⟨j.idx.setWidth 64, 0, 0⟩ ∧
      (∀ i, 2 ≤ i → i < 8 → nEntry x i = ⟨0, 0, 0⟩) ∧ ∀ i, i < 16 → qEntry x i = ⟨0, 0, 0⟩)) ∧
  (∀ (e : BitVec 12) (st tc : BitVec 8) (d : W) (s : State) (j : Job) (p : Port),
    let a := e.toNat
    let h : HartId := e.setWidth 13
    ((engineAt s a).running = none → exec (.jobEnd e st tc d) s = .next s) ∧
    ((engineAt s a).running = some j → mapFind (engineAt s a).ports j.port = some p → s.memOk = true → p.pblock % 64 = 0 →
      ∃ u, exec (.jobEnd e st tc d) s = .next (if (slotOf s h).wcur = 0 then u
          else emit u (.homeWeightUpdate (.ret (slotOf s h).ctx (slotOf s h).wcur.toNat))) ∧
        (engineAt u a).running = none ∧ (engineAt u a).ending = none ∧ (slotOf u h).live = false ∧
        (∃ n, n < 2 ^ 32 ∧ (poisonedPhys s (p.pblock + 8) 8 = false → n = (physDword s (p.pblock + 8) + 1) % 2 ^ 32) ∧
          physDword u (p.pblock + 8) = st.toNat * 2 ^ 56 + tc.toNat * 2 ^ 48 + n) ∧
        physDword u (p.pblock + 16) = d.toNat)) ∧
  (∀ (s : State) (h : HartId), jobBusy s h = true ↔ awaitsResponse s h = true ∨ resultPending s h = true) ∧
  (∀ (e : BitVec 12) (peers : List CellValue) (s z1 z2 : State) (j : Job) (p : Port) (b1 bs : List Byte),
    let a := e.toNat
    let h : HartId := e.setWidth 13
    let z := switchTo s h
    ((engineAt s a).running = none → exec (.collective e peers) s = .next s) ∧
    ((engineAt s a).running = some j → (engineAt s a).ending = none → mapFind (engineAt s a).ports j.port = some p →
      kindOfAgent a = .carter →
      (jobBusy s h = true ∨ s.module.frozen ≠ none →
        exec (.collective e peers) s = .next { s with inputs := s.inputs ++ [(s.tick + 1, .collective e peers)] }) ∧
      (jobBusy s h = false → s.module.frozen = none → Gives (loadVa 0 8 8 (jobBlock p j.idx + 8)) z b1 z1 →
        (leWord b1).toNat % 64 ≠ 0 → exec (.collective e peers) s = .next (endJob z1 (agentOf z1.turn) 6 0 (leWord b1))) ∧
      (jobBusy s h = false → s.module.frozen = none → Gives (loadVa 0 8 8 (jobBlock p j.idx + 8)) z b1 z1 →
        (leWord b1).toNat % 64 = 0 → Gives (loadVa 0 64 64 (leWord b1)) z1 bs z2 →
        let r := collectiveOf bs
        (r.ok = false → exec (.collective e peers) s = .next (endJob z2 (agentOf z2.turn) 6 0 (leWord b1))) ∧
        ∀ (st ss : Nat → State) (pa : Nat → Nat), r.ok = true → st 0 = z2 → ss 0 = st r.ncell →
          (∀ i, i < r.ncell → Gives (collectiveCell r.kind (r.cells + BitVec.ofNat 64 (cellStride r.kind * i))) (st i) (some (pa i))
            (st (i + 1)) ∧ cellPoisoned (ss 0) (pa i) r.kind = false) →
          let out (i : Nat) : W × BitVec 5 := readOut r.kind (collectiveSum r peers
            (cellOfBytes r.kind (physRead (ss 0) (pa i) (cellBytes r.kind))) i) r.fmt (modeOfCode r.mode.toNat)
          (∀ i, i < r.ncell → Gives (storeVa 1 (fmtBytes r.fmt) (r.out + BitVec.ofNat 64 (fmtBytes r.fmt * i))
            (natBytes (fmtBytes r.fmt) (out i).1.toNat)) (ss i) () (ss (i + 1))) →
          ∀ flags : BitVec 5, (∀ k, k < 5 → (flags.getLsbD k = true ↔ ∃ i, i < r.ncell ∧ (out i).2.getLsbD k = true)) →
            exec (.collective e peers) s = .next (endJob (ss r.ncell) (agentOf (ss r.ncell).turn) 0 0 (flags.setWidth 64))))) ∧
  (∀ (port : Nat) (r : RemotePacket) (s : State),
    let l := linkAt s port
    (l.dead = true → exec (.remoteStore port r) s = .next (failStore s r.h false false true)) ∧
    (l.dead = false → mintWeight s r.ctx 1 = none → exec (.remoteStore port r) s = .next (failStore s r.h false true false)) ∧
    (∀ u, l.dead = false → mintWeight s r.ctx 1 = some u →
      exec (.remoteStore port r) s = .next (setLink u port { l with outstanding := l.outstanding ++ [r] }))) ∧
  (∀ (port : Nat) (ok : Bool) (s : State),
    let l := linkAt s port
    (l.outstanding = [] → exec (.remoteStoreAck port ok) s = .next s) ∧
    (∀ r rest, l.outstanding = r :: rest →
      let u := returnWeight (setLink s port { l with outstanding := rest }) r.ctx 1
      exec (.remoteStoreAck port ok) s = .next (if ok = false then failStore u r.h false true false
        else if kindOf r.h = .core then updateResident u (agentOf r.h) r.pa r.bytes else u))) ∧
  (∀ (port : Nat) (s : State), (linkAt s port).dead = true → exec (.linkDeath port) s = .next s) ∧
  (∀ (port : Nat) (s : State), (linkAt s port).dead = false →
    let l := linkAt s port
    let a := 2304 + port
    let u := l.outstanding.foldl (fun z r => failStore (writeOffWeight z r.ctx 1) r.h true false true)
      (setLink s port { l with dead := true, up := false, restoring := false, outstanding := [] })
    exec (.linkDeath port) s = .next (if (engineAt u a).running.isSome then
      endJob (rollback u (BitVec.ofNat 13 a)) a 5 0 (BitVec.ofNat 64 port) else u)) ∧
  (∀ (port : Nat) (partner : BitVec 16) (s : State),
    let l := linkAt s port
    exec (.portRestore port) s = .next (if l.dead then setLink s port { l with restoring := true } else s) ∧
    exec (.linkTraining port partner) s = .next (if l.dead = true ∧ l.restoring = false then s
      else setLink s port ⟨partner, 0, false, true, false, l.outstanding⟩) ∧
    exec (.linkLevelRetry port) s = .next (setLink s port { l with
      retries := BitVec.ofNat 16 (min (l.retries.toNat + 1) 65535) })) ∧
  (∀ (s : State) (h : HartId) (w r d : Bool), (slotOf (failStore s h w r d) h).failed =
    let f := (slotOf s h).failed
    ⟨f.count + 1, f.woff || w, f.refused || r, f.deadlink || d⟩)

/-- O54. For every state: a core's walk that finds a translation makes it an entry of the core's TLB and of its
cluster's, within their sizes, and keeps its pointers; one that meets a malformed entry files a report of kind 5 with
the page size and level; otherwise nothing changes. A die takes an invalidation record: with reserved bits DONE is 2;
otherwise the matching entries of its cores and clusters, its pointers and its walks are gone and no other entry is,
and DONE is 1 once no access of the die is under way. A clean scrub changes nothing; an uncorrectable codeword of
memory, a pool or operand memory, or a dirty one of a cache is poisoned and reported; a cache's clean line is read
again and counts as corrected; a corrected one is reported once a second and counted otherwise. A report holds what
R346 says and is lost, counted, when its queue does not take it. Model's choices: a second is 1,100,000,000 cycles
(log 30), DONE waits for the die's open accesses, PHYS and SPAN of kind 5 (log 31), a record that cannot be read
removes nothing (log 93), a malformed report queue counts as full (log 7), errors are inputs (log 68). (R337, R338,
R340, R341, R342, R343, R344, R345, R346, R347) -/
def Obligations.WalksInvalidationsAndScrubs : Prop :=
  (∀ (core : Nat) (ctx : BitVec 16) (root : Nat) (va : Addr) (s : State),
    let v := va.toNat
    let die := dieOfAgent core
    let run := exec (.pageWalk core ctx root va) s
    (root = identityRoot → run = .next s) ∧
    (root ≠ identityRoot → 2048 ≤ core → run = match walk s root v with
      | .unmapped (some (at_, lvl)) => .next (report s die 5 core at_ (2 ^ (16 + 10 * lvl)) lvl false)
      | _ => .next s) ∧
    (root ≠ identityRoot → core < 2048 →
      (∀ e, (clusterAt s (core / 8)).tlb.find? (fun e => e.covers ctx v) = some e →
        ∃ t, run = .next t ∧ e ∈ (coreOf t core).tlb ∧ t.mem = s.mem ∧ t.cur = s.cur ∧ t.clusters = s.clusters) ∧
      ((clusterAt s (core / 8)).tlb.find? (fun e => e.covers ctx v) = none →
        (∀ pa size attrs, dieWalk s die root v = .mapped pa size attrs → ∃ t, run = .next t ∧
          (let e : TlbEntry := ⟨ctx, v / size * size, size, pa - v % size, BitVec.ofNat 6 attrs⟩
           e ∈ (coreOf t core).tlb ∧ e ∈ (clusterAt t (core / 8)).tlb) ∧
          ((coreOf t core).tlb.filter fun e => e.size == 65536).length ≤ 128 ∧
          ((coreOf t core).tlb.filter fun e => e.size != 65536).length ≤ 16 ∧
          (clusterAt t (core / 8)).tlb.length ≤ 4096 ∧ (dieOf t die).pointers.length ≤ 1024 ∧
          t.mem = s.mem ∧ t.cur = s.cur ∧ t.harts = s.harts) ∧
        (∀ at_ lvl, dieWalk s die root v = .unmapped (some (at_, lvl)) →
          run = .next (report s die 5 core at_ (2 ^ (16 + 10 * lvl)) lvl false)) ∧
        (dieWalk s die root v = .unmapped none ∨ dieWalk s die root v = .poisoned → run = .next s)))) ∧
  (∀ (s : State) (die : Nat) (v : Nat) (z : State) (pa size attrs : Nat),
    let l : Loc := .config (dieBlock die + 0x1000)
    let q := qheaderOf (headerBytes s l)
    q.ok = true → q.kind = 0 → q.head ≠ q.tail → deqHome s l (kernelRoot s die) true = .value v z →
      kernelWalk z die v = .mapped pa size attrs → inMemory pa 32 = true → poisonedMem z (canonPa pa) 32 = false →
      let d (i : Nat) := physDword z (pa + 8 * i)
      let u := takeInvalidation s die
      let c := d 2 % 2 ^ 16
      let hit (e : TlbEntry) : Bool := (decide (c = 0) || decide (e.ctx.toNat = c)) &&
        (decide (d 1 = 0) || decide (e.base < d 0 + 65536 * d 1 ∧ d 0 < e.base + e.size))
      (d 0 / 2 ^ 56 ≠ 0 ∨ d 2 / 2 ^ 16 ≠ 0 → u = homeWrite z (canonPa pa + 24) (natBytes 8 2)) ∧
      (d 0 / 2 ^ 56 = 0 → d 2 / 2 ^ 16 = 0 →
        (∀ core, core / 512 = die → (coreOf u core).tlb = (coreOf z core).tlb.filter fun e => !hit e) ∧
        (∀ core, core / 512 ≠ die → (coreOf u core).tlb = (coreOf z core).tlb) ∧
        (∀ k, k / 64 = die → (clusterAt u k).tlb = (clusterAt z k).tlb.filter fun e => !hit e) ∧
        (∀ k, k / 64 ≠ die → (clusterAt u k).tlb = (clusterAt z k).tlb) ∧
        (dieOf u die).pointers = [] ∧ (dieOf u die).invalidating = (dieOf z die).invalidating ++ [pa] ∧
        (∀ core x root va, dieOfAgent core = die → Event.pageWalk core x root va ∉ u.events) ∧ u.mem = z.mem)) ∧
  (∀ (s : State) (die : Nat),
    let u := takeInvalidation s die
    (dieAccesses u die = true → exec (.tlbInvalidation die) s = .next u) ∧
    (dieAccesses u die = false → exec (.tlbInvalidation die) s = .next
      ((dieOf u die).invalidating.foldl (fun z pa => homeWrite z (canonPa pa + 24) (natBytes 8 1))
        (setDie u die { dieOf u die with invalidating := [] }))) ∧
    (let q := qheaderOf (headerBytes s (.config (dieBlock die + 0x1000)))
     q.ok = false ∨ q.kind ≠ 0 ∨ q.head = q.tail → u = s)) ∧
  (∀ (w : Codeword) (s : State), exec (.patrolScrub w .clean) s = .next s) ∧
  (∀ (ca : Nat) (o : Origin) (s : State),
    ((∃ v off, regionOf ca = .bonded v off ∧ o = ⟨v / 64, 1, v + 2048, ca / 32 * 32, 32⟩) ∨
      (∃ x, regionOf ca = .second x ∧ o = ⟨homeOf ca / 64, 2, homeOf ca + 2048, ca / 32 * 32, 32⟩)) →
    exec (.patrolScrub (.mem ca) .corrected) s = .next (noteCorrected s o) ∧
    exec (.patrolScrub (.mem ca) .uncorrectable) s = .next (noteUncorrectable (poisonMem s ca) o)) ∧
  (∀ (c off : Nat) (s : State),
    let pool : Origin := ⟨dieOfAgent c, 3, c, Config.poolPhys c (off / 8 * 8), 8⟩
    let operand : Origin := ⟨c / 64, 3, c + 2048, Config.operandPhys c (off / 8 * 8), 8⟩
    exec (.patrolScrub (.pool c off) .corrected) s = .next (noteCorrected s pool) ∧
    exec (.patrolScrub (.pool c off) .uncorrectable) s = .next (noteUncorrectable (poisonPool s c off) pool) ∧
    exec (.patrolScrub (.operand c off) .corrected) s = .next (noteCorrected s operand) ∧
    exec (.patrolScrub (.operand c off) .uncorrectable) s = .next (noteUncorrectable (poisonOperand s c off) operand)) ∧
  (∀ (c ca : Nat) (f : ScrubFinding) (s : State), f ≠ .clean →
    let slice (kind : Nat) : Origin := ⟨homeOf ca / 64, kind, homeOf ca + 2048, ca / 32 * 32, 32⟩
    let core : Origin := ⟨dieOfAgent c, 3, c, ca / 32 * 32, 32⟩
    let k := coreOf s c
    let u := setCore s c { k with l1 := k.l1.filter fun x => x.line != ca / 32 }
    (heldSector s ca = none → exec (.patrolScrub (.l2 ca) f) s = .next s) ∧
    (∀ dirty, heldSector s ca = some dirty → exec (.patrolScrub (.l2 ca) f) s = .next
      (if dirty = true ∧ f = .uncorrectable then noteUncorrectable (poisonMem s ca) (slice 3) else noteCorrected s (slice 3))) ∧
    (l1Line s c ca = none → exec (.patrolScrub (.l1 c ca) f) s = .next s) ∧
    (∀ l, l1Line s c ca = some l → exec (.patrolScrub (.l1 c ca) f) s = .next
      (if f = .corrected then noteCorrected s core
       else if l.dirty = true then noteUncorrectable (poisonMem u ca) (slice 4) else noteCorrected u core)) ∧
    exec (.patrolScrub (.code c ca) f) s = .next (if k.icache.any fun l => l.line == ca / 64 then
        noteCorrected (setCore s c { k with icache := k.icache.filter fun l => l.line != ca / 64 }) core else s) ∧
    (let j := clusterAt s c
     exec (.patrolScrub (.constant c ca) f) s = .next (if j.ccache.any fun l => l.line == ca / 32 then
        noteCorrected (setCluster s c { j with ccache := j.ccache.filter fun l => l.line != ca / 32 })
          ⟨c / 64, 3, c + 2048, ca / 32 * 32, 32⟩ else s))) ∧
  (∀ (s : State) (ca c off : Nat), mapFind (poisonMem s ca).poison (ca / 32) ≠ none ∧ (poisonMem s ca).mem = s.mem ∧
    mapFind (poisonPool s c off).poolPoison (poolKey c off / 8) ≠ none ∧ (poisonPool s c off).pools = s.pools ∧
    mapFind (clusterAt (poisonOperand s c off) c).opoison (off / 8) ≠ none) ∧
  (∀ (s : State) (o : Origin),
    let counts (n : Nat × Nat) : State :=
      { s with module := { s.module with corrected := mapPut s.module.corrected o.unit n } }
    let files (u : State) (d : Nat) (b : Bool) : State := report u o.die o.kind o.unit o.phys o.span d b
    (∀ t n, mapFind s.module.corrected o.unit = some (t, n) →
      (s.tick < t + 1100000000 → noteCorrected s o = counts (t, n + 1)) ∧
      (t + 1100000000 ≤ s.tick → ∃ d, noteCorrected s o = files (counts (s.tick, 0)) d true ∧ (n ≠ 0 → d = n)) ∧
      ∃ d, noteUncorrectable s o = files (counts (t, 0)) d false ∧ (n ≠ 0 → d = n)) ∧
    (mapFind s.module.corrected o.unit = none → ∃ d, noteCorrected s o = files (counts (s.tick, 0)) d true ∧
      noteUncorrectable s o = files s d false)) ∧
  (∀ (s : State) (die kind unit phys span d : Nat) (b : Bool), kind < 256 → unit < 4096 →
    let r := rawRecord s die kind unit phys span d b
    let seq := (dieOf s die).reportSeq
    let u := setDie s die { dieOf s die with reportSeq := seq + 1 }
    let at_ := Config.faultRecord die seq.toNat
    let answer := enqHome u (.config (dieBlock die + 0x1040)) (kernelRoot s die) true at_
    r.length = 64 ∧ dword r 0 = s.tick % 2 ^ 64 ∧ field (dword r 8) 63 56 = kind ∧ bitOf (dword r 8) 55 = b ∧
      bitOf (dword r 8) 54 = false ∧ field (dword r 8) 53 44 = 0 ∧ field (dword r 8) 43 32 = unit ∧
      field (dword r 8) 31 0 = seq.toNat ∧ dword r 16 = phys % 2 ^ 52 ∧ dword r 24 = span % 2 ^ 32 ∧ dword r 32 = 0 ∧
      dword r 40 = 0 ∧ dword r 48 = d % 2 ^ 64 ∧ dword r 56 = 0 ∧
      (∀ z, answer = .value 0 z → report s die kind unit phys span d b = physWrite z at_ r) ∧
      ((∀ z, answer ≠ .value 0 z) → report s die kind unit phys span d b = setDie u die { dieOf u die with
        frlost := if (dieOf s die).frlost = BitVec.allOnes 64 then (dieOf s die).frlost else (dieOf s die).frlost + 1 }))

/-- O55. For every state: a misaligned write of the configuration window is discarded; one to MBCMD takes OP and TAG,
or is dropped and counted while BUSY; to an argument, POWERCAP or an enqueue window it does what these do; any other
write of a host, and any of MBSTAT, is discarded, and one of the resident kernel sets its die's register. A write to
HEART keeps its value and ends the clerk's WFI. A host enqueue does ENQ on the queue's header, answers the status and
counts it; before stage 0x10, without a header, or with a ring that fails, it answers 3. Host memory is reached at the
canonical address of its offset: a load answers the bytes, or none of poisoned data; a store writes them, but not in
the preserved region nor over a cell. Model's choices: the low bits that QTBASE, REGBASE and TENTRY drop (log 78), the
cell bytes and the empty answer (log 60), answer 3 before stage 0x10 and for a failing ring (log 59), a mailbox busy
while the flash is written (log 58), a write at stage 0 discarded (log 57), no host memory access outside stage 0x10
(log 107), a kernel's write of FRLOST discarded (log 110). (R425, R434, R441, R449, R450, R451, R452, R454, R344,
R349) -/
def Obligations.HostAndConfigurationWindow : Prop :=
  (∀ (off : Nat) (v : W) (host : Bool) (s : State),
    let run := exec (.configRegisterWrite off v host) s
    let m := s.module
    let op : BitVec 8 := v.setWidth 8
    let tag : BitVec 8 := v.extractLsb' 8 8
    let after (e : Event) : State := { s with events := e :: s.events }
    (off % 8 ≠ 0 ∨ m.stage = 0 → run = .next s) ∧
    (m.stage ≠ 0 → off = 0 → m.mbBusy = true ∨ s.epoch + s.tick < m.flashUntil → run = .next { s with module := { m with
      mbDropped := if m.mbDropped = BitVec.allOnes 32 then m.mbDropped else m.mbDropped + 1 } }) ∧
    (m.stage ≠ 0 → off = 0 → m.mbBusy = false → m.flashUntil ≤ s.epoch + s.tick → run = .next { s with
      module := { m with mbOp := op, mbTag := tag, mbBusy := true }
      events := s.events ++ [if op = 1 then .mbColdStart tag else if op = 2 then .mbWarmRestart tag
        else if op = 3 then .mbWriteFirmware tag else if op = 4 then .mbAttestation tag
        else if op = 5 then .mbRegisterLog tag else if op = 6 then .mbCommitVersion tag
        else if op = 7 then .mbStop tag else .mbUnknownOp tag op] }) ∧
    (m.stage ≠ 0 → off % 8 = 0 → 0x10 ≤ off → off < 0x80 →
      run = .next { s with module := { m with cfg := memWrite m.cfg off (natBytes 8 v.toNat) } }) ∧
    (m.stage ≠ 0 → off = 0x2000 → run = .next (after (.powercapWrite v))) ∧
    (∀ q, q < 256 → m.stage ≠ 0 → off = 0x4000 + 64 * q → run = .next (after (.hostEnqueue q v))) ∧
    (m.stage ≠ 0 → off = 8 → run = .next s) ∧
    (host = true → 0x80 ≤ off → off ≠ 0x2000 → (∀ q, q < 256 → off ≠ 0x4000 + 64 * q) → run = .next s) ∧
    (∀ p, p < 12 → host = false → m.stage ≠ 0 → off = 0x8000 + 64 * p →
      run = .next (if v.getLsbD 2 then after (.portRestore p) else s)) ∧
    (∀ d, d < 4 → host = false → m.stage ≠ 0 →
      let x := dieOf s d
      let at_ (o : Nat) : Prop := off = 0x1000000 * (d + 1) + o
      let sets (y : Die) : Prop := run = .next (setDie s d y)
      (at_ 0x000 → sets { x with qtbase := BitVec.ofNat 52 (v.toNat / 2 ^ 14 * 2 ^ 14) }) ∧ (at_ 0x008 → sets { x with hrbase := v.setWidth 52 }) ∧
      (at_ 0x010 → sets { x with gangwait := v.setWidth 32 }) ∧ (at_ 0x018 → sets { x with tslice := v.setWidth 32 }) ∧
      (at_ 0x100 → sets { x with tentry := BitVec.ofNat 56 (v.toNat / 4 * 4) }) ∧ (at_ 0x108 → sets { x with centry := v.setWidth 56 }) ∧
      (at_ 0x110 → sets { x with regbase := BitVec.ofNat 52 (v.toNat / 2 ^ 24 * 2 ^ 24) }) ∧ (at_ 0x118 → sets { x with hblimit := v.setWidth 32 }) ∧
      (at_ 0x120 → run = .next (after (.heartWrite (2 * d) (v.setWidth 32)))) ∧
      (at_ 0x128 → run = .next (after (.heartWrite (2 * d + 1) (v.setWidth 32)))) ∧
      (at_ 0x130 → sets { x with crashreg := (v.setWidth 40).setWidth 64 }) ∧
      (at_ 0x138 → sets { x with kroot := v.setWidth 52 }) ∧ (at_ 0x1080 → run = .next s))) ∧
  (∀ (clerk : Nat) (v : BitVec 32) (s : State), clerk < 8 → ∃ t, exec (.heartWrite clerk v) s = .next t ∧
    (dieOf t (clerk / 2)).heart[clerk % 2]? = some v ∧ (dieOf t (clerk / 2)).heartAge[clerk % 2]? = some s.clock ∧
    (slotOf t (BitVec.ofNat 13 (2316 + clerk))).wfi = none ∧ t.mem = s.mem ∧ t.events = s.events) ∧
  (∀ (q : Nat) (v : W) (s : State), s.module.stage ≠ 0x10 ∨ 256 ≤ q →
    exec (.hostEnqueue q v) s = .next { s with module := { s.module with reply := natBytes 8 3 } }) ∧
  (∀ (q : Nat) (v : W) (s : State), s.module.stage = 0x10 → q < 256 → hostHeader s q = none → ∃ t,
    exec (.hostEnqueue q v) s = .next t ∧ t.module.reply = natBytes 8 3 ∧ t.mem = s.mem ∧ t.events = s.events ∧
    queueAt t q = { queueAt s q with refused := (queueAt s q).refused + 1 }) ∧
  (∀ (q : Nat) (v : W) (s u : State) (l : Loc) (st : Nat), s.module.stage = 0x10 → q < 256 → hostHeader s q = some l →
    enqHome s l (queueDesc s q).root true v.toNat = .value st u → ∃ t,
    exec (.hostEnqueue q v) s = .next t ∧ t.module.reply = natBytes 8 st ∧ t.mem = u.mem ∧
    queueAt t q = (let x := queueAt u q
      if st = 0 then { x with accepted := x.accepted + 1 } else { x with refused := x.refused + 1 }) ∧
    (st ≠ 0 → u = s)) ∧
  (∀ (q : Nat) (v : W) (s : State) (l : Loc) (c : Cause) (r : Nat) (ring : Option Nat), s.module.stage = 0x10 → q < 256 →
    hostHeader s q = some l → enqHome s l (queueDesc s q).root true v.toNat = .refuse c r ring → ∃ t,
    exec (.hostEnqueue q v) s = .next t ∧ t.module.reply = natBytes 8 3 ∧ t.mem = s.mem ∧
    queueAt t q = { queueAt s q with refused := (queueAt s q).refused + 1 }) ∧
  (∀ (o size : Nat) (w : Option (List Byte)) (s : State), s.module.stage ≠ 0x10 → ∃ t,
    exec (.hostMemoryAccess o w size) s = .next t ∧ t.module.reply = [] ∧ t.mem = s.mem) ∧
  (∀ (o size : Nat) (bs : List Byte) (s : State), s.module.stage = 0x10 → o < 2432 * 2 ^ 30 → size ∈ [1, 2, 4, 8, 16, 32, 64] →
    o % size = 0 → bs.length = size →
    let pa := if o < 384 * 2 ^ 30 then 0x8000000000 + o / (96 * 2 ^ 30) * 2 ^ 37 + o % (96 * 2 ^ 30)
      else 0x100000000000 + (o - 384 * 2 ^ 30)
    let ca := canonPa pa
    inMemory pa size = true →
    (∃ t, exec (.hostMemoryAccess o none size) s = .next t ∧ t.mem = s.mem ∧
      t.module.reply = if poisonedMem s ca size then [] else memRead s.mem ca size) ∧
    ((0x11FFC0000000 ≤ pa ∧ pa < 0x120000000000) ∨ touchesCell s ca size = true →
      exec (.hostMemoryAccess o (some bs) size) s = .next s) ∧
    (¬ (0x11FFC0000000 ≤ pa ∧ pa < 0x120000000000) → touchesCell s ca size = false →
      exec (.hostMemoryAccess o (some bs) size) s = .next (homeWrite s ca bs)))

/-- O56. For every state: a HEART time-out and a warm-restart command freeze a module that is not frozen, put the code
into CRASHREG, stop supervisor compute slots and lock it at a third crash in 1.1 × 10^9 cycles. The restart of a
frozen module locks it and reports when the kernel's hash differs or its image holds uncorrectable data (log 91) and
otherwise thaws it, counts in CRASHREG and starts the clerks warm; a supervisor compute slot goes back to TENTRY with
the n0 and the trap registers of its entry (log 55). A cold start enters Running with a good image, memory zero but
for host memory and the kernel, and Recovery otherwise; power loss and a pending thermal shutdown leave nothing. Every
mailbox command ends with TAG and its RESULT: 2 in a wrong stage, 1 for an unknown one, 3 to 6 as the image and
arguments fail, an uncorrectable image too (log 91). POWERCAP takes 1,200 to 3,200 only and holds POWERNOW; THERMAL is
2 from 105 °C, and 10 ms of it end the power. Model's choices: CRASHREG on all dies (log 56), the cold start as one
step and stage 0 without power (log 57), the order of results 5 and 3 and the flash lost in a write (log 58), Stop's
frozen state (log 59), THERMAL's 2 kept by the limiter (log 61), 10 ms as cycles (log 30), the mismatch's RESULT (log
82). (R430, R434, R439, R441, R442, R454, R455, R456, R457, R458, R459, R461) -/
def Obligations.CrashesStartsAndMailboxCommands : Prop :=
  (∀ (code : BitVec 8) (s : State), s.module.frozen = none →
    let t := kernelCrash s code
    t.module.frozen = some code ∧ t.module.frozenAt = s.tick ∧ t.mem = s.mem ∧ t.pools = s.pools ∧
    (∀ d, d < 4 → (dieOf t d).crashreg = (code.setWidth 32 : BitVec 32) ++ (dieOf s d).crashreg.setWidth 32) ∧
    (∀ h, slotOf t h = if (slotOf s h).sup = true ∧ kindOf h = .core then { slotOf s h with stopped := true } else slotOf s h) ∧
    (∀ a b rest, s.module.crashes = a :: b :: rest → s.tick - b ≤ 1100000000 → t.module.locked = true) ∧
    (∀ a b rest, s.module.crashes = a :: b :: rest → 1100000000 < s.tick - b → t.module.locked = s.module.locked)) ∧
  (∀ (clerk : Nat) (s : State), exec (.heartTimeout clerk) s = .next (kernelCrash s 3) ∧
    (s.module.frozen ≠ none → exec (.heartTimeout clerk) s = .next s)) ∧
  (∀ (s : State), let m := s.module
    let run := exec .warmRestart s
    let image := memRead s.mem 0x11FFC0000000 m.kernelLen
    let lost := poisonedMem s 0x11FFC0000000 m.kernelLen
    (m.frozen = none ∨ m.locked = true ∨ m.stage ≠ 0x10 → run = .next s) ∧
    (m.frozen ≠ none → m.locked = false → m.stage = 0x10 → lost = true ∨ Config.sha384 image ≠ m.kernelHash →
      run = .next { s with module := { m with locked := true, mbResult := Config.mismatchResult } }) ∧
    (m.frozen ≠ none → m.locked = false → m.stage = 0x10 → lost = false → Config.sha384 image = m.kernelHash → ∃ t, run = .next t ∧
      t.module.frozen = none ∧ (∀ h, (slotOf t h).stopped = false) ∧
      (∀ i, i < 8 → (slotOf s (BitVec.ofNat 13 (2316 + i))).live = true →
        slotOf t (BitVec.ofNat 13 (2316 + i)) = Slot.clerkStart (2316 + i) true) ∧
      (∀ d, d < 4 → (dieOf t d).crashreg = (dieOf s d).crashreg.extractLsb' 32 32 ++ ((dieOf s d).crashreg.setWidth 32 + 1)))) ∧
  (∀ (s : State) (h : HartId) (x : Slot), kindOf h = .core → x.live = true → x.sup = true →
    let y := restartSlot s h x
    let entry := (dieOf s (dieOfAgent (agentOf h))).tentry
    y.sup = true ∧ y.pc = entry ∧ y.npc = entry + 4 ∧ y.nnpc = entry + 8 ∧ nEntry y 0 = ⟨x.entryN0, 0, 0⟩ ∧
      (∀ j, 0 < j → j < 8 → nEntry y j = ⟨0, 0, 0⟩) ∧ (∀ j, j < 16 → qEntry y j = ⟨0, 0, 0⟩) ∧
      y.tcause = x.entryTrap.cause ∧ y.tinfo = x.entryTrap.info ∧ y.tpc = x.entryTrap.tpc ∧ y.stopped = false ∧ y.nullify = 0 ∧
      y.hint = none ∧ y.modw = none ∧ y.rep = none ∧ inDelaySlot y = false) ∧
  (∀ (img : List Byte) (minimum : Nat),
    let n := leNat (slice img 0xC 4)
    let sized := 4096 ≤ n ∧ n ≤ 67108864 ∧ n % 4096 = 0 ∧ img.length = 0x1000 + n
    let signed := dword img 0 = 0x31305746524D4C54 ∧ Config.sha384 (img.drop 0x1000) = slice img 0x10 48 ∧
      Config.ed25519Verifies (slice img 0 0x40) (slice img 0x40 64) = true ∧
      Config.mldsa65Verifies (slice img 0 0x40) (slice img 0x80 3309) = true
    (¬ sized → imageResult img minimum = 5) ∧ (sized → ¬ signed → imageResult img minimum = 3) ∧
    (sized → signed → leNat (slice img 8 4) < minimum → imageResult img minimum = 4) ∧
    (sized → signed → minimum ≤ leNat (slice img 8 4) → imageResult img minimum = 0)) ∧
  (∀ (s : State) (tag : BitVec 8), s.memOk = true →
    let m := s.module
    let kernel := Config.kernelImage (m.flash.drop 0x1000)
    let good := imageResult m.flash m.minVersion.toNat = 0
    let keeps (t : State) : Prop := t.ctxs = [] ∧ t.cores = [] ∧ t.cells = [] ∧ t.poison = [] ∧ t.events = [] ∧ t.tick = 0 ∧
      t.module.flash = m.flash ∧ t.module.minVersion = m.minVersion ∧ t.module.frozen = none
    ∃ t, (m.flashUntil ≤ s.epoch + s.tick → exec .coldStart s = .next t) ∧ keeps t ∧
      exec (.mbColdStart tag) s = .next { t with module := { t.module with mbBusy := false, mbTag := tag, mbResult := 0 } } ∧
      (good → t.module.stage = 0x10 ∧ t.turn = 2316 ∧ t.cur = Slot.clerkStart 2316 false ∧ t.harts = State.reset.harts ∧
        t.module.version = BitVec.ofNat 32 (leNat (slice m.flash 8 4)) ∧ t.module.kernelHash = Config.sha384 kernel ∧
        ∀ ca, memGet t.mem ca =
          if 0x11FFC0000000 ≤ ca ∧ ca < 0x11FFC0000000 + kernel.length then (kernel[ca - 0x11FFC0000000]?).getD 0
          else if 0x8000000000000 ≤ ca ∧ ca < 0xF000000000000 then memGet s.mem ca else 0) ∧
      (¬ good → t.module.stage = 0xE0 ∧ t.cur.live = false ∧ t.harts = []) ∧
      ∃ u, (m.flashUntil ≤ s.epoch + s.tick → exec .powerLoss s = .next u) ∧ keeps u ∧ u.module.stage = 0 ∧ u.cur.live = false ∧ u.harts = [] ∧
        (∀ ca, memGet u.mem ca = if 0x8000000000000 ≤ ca ∧ ca < 0xF000000000000 then memGet s.mem ca else 0) ∧
        (s.epoch + s.tick < m.flashUntil → let z := { s with module := { m with flash := [], flashUntil := s.epoch + s.tick } }
          exec .coldStart s = exec .coldStart z ∧ exec .powerLoss s = exec .powerLoss z) ∧
        (∀ t0, m.thermal = 2 → m.hotSince = some t0 → t0 + 11000000 ≤ s.epoch + s.tick →
          exec .thermalShutdown s = exec .powerLoss s) ∧
        (m.thermal ≠ 2 ∨ (∀ t0, m.hotSince = some t0 → s.epoch + s.tick < t0 + 11000000) → exec .thermalShutdown s = .next s)) ∧
  (∀ (s : State) (tag op : BitVec 8),
    let m := s.module
    let done (z : State) (r : BitVec 8) : State := { z with module := { z.module with mbBusy := false, mbTag := tag, mbResult := r } }
    let base := leNat (memRead m.cfg 0x10 8)
    let n := leNat (memRead m.cfg 0x18 8)
    (m.stage ≠ 0x10 → ∀ e ∈ [Instr.mbWarmRestart tag, .mbAttestation tag, .mbRegisterLog tag, .mbCommitVersion tag, .mbStop tag],
      exec e s = .next (done s 2)) ∧
    (m.stage = 0x10 → exec (.mbWarmRestart tag) s = .next (done (kernelCrash s 4) 0)) ∧
    (m.stage ≠ 0xE0 → m.stage ≠ 0xF0 → exec (.mbWriteFirmware tag) s = .next (done s 2)) ∧
    (m.stage = 0xE0 ∨ m.stage = 0xF0 → (n < 0x2000 ∨ 0x4001000 < n → exec (.mbWriteFirmware tag) s = .next (done s 5)) ∧
      (0x2000 ≤ n → n ≤ 0x4001000 →
        0x7000000000000 < base + n ∨ poisonedMem s (0x8000000000000 + base) n = true → exec (.mbWriteFirmware tag) s = .next (done s 6)) ∧
      (0x2000 ≤ n → n ≤ 0x4001000 → base + n ≤ 0x7000000000000 → poisonedMem s (0x8000000000000 + base) n = false →
        let img := physRead s (0x8000000000000 + base) n
        let r := imageResult img m.minVersion.toNat
        (r ≠ 0 → exec (.mbWriteFirmware tag) s = .next (done s r)) ∧
        (r = 0 → exec (.mbWriteFirmware tag) s = .next (done { s with module := { m with
          flash := img, flashUntil := s.epoch + s.tick + Config.flashCycles (s.epoch + s.tick) } } 0)))) ∧
    (m.stage = 0x10 → ∃ r sig, exec (.mbAttestation tag) s =
        .next (done { s with module := { m with cfg := memWrite m.cfg 0x80 (r ++ sig) } } 0) ∧ r.length = 0x100 ∧
      sig.length = 64 + 3309 ∧ slice r 0 32 = memRead m.cfg 0x10 32 ∧ slice r 0x20 16 = padded 16 Config.moduleSerial ∧
      slice r 0x30 4 = natBytes 4 m.version.toNat ∧ slice r 0x34 4 = natBytes 4 m.minVersion.toNat ∧
      slice r 0x38 48 = padded 48 m.imageHash ∧ slice r 0x68 48 = padded 48 m.kernelHash ∧
      slice r 0x98 8 = natBytes 8 (dieOf s 0).crashreg.toNat ∧ slice r 0xD0 48 = natBytes 48 0) ∧
    (m.stage = 0x10 → base % 4096 ≠ 0 ∨ n < 4 ∨ 20 < n → exec (.mbRegisterLog tag) s = .next (done s 6)) ∧
    (m.stage = 0x10 → base % 4096 = 0 → 4 ≤ n → n ≤ 20 → base + 64 + 64 * 2 ^ n ≤ 0x7000000000000 →
      ∃ z, exec (.mbRegisterLog tag) s = .next (done z 0) ∧ z.mem = memWrite s.mem (0x8000000000000 + base) (natBytes 64 0) ∧
        z.module = { m with log := some (base, n) }) ∧
    (m.stage = 0x10 → exec (.mbCommitVersion tag) s = .next (done { s with module := { m with
      minVersion := if m.minVersion.toNat < m.version.toNat then m.version else m.minVersion } } 0)) ∧
    (m.stage = 0x10 → ∃ t, exec (.mbStop tag) s = .next t ∧ t.module.stage = 0xF0 ∧ t.module.frozen = some 0 ∧ t.module.locked = true ∧ t.ctxs = [] ∧
      t.harts = [] ∧ t.cur.live = false ∧ t.module.mbBusy = false ∧ t.module.mbTag = tag ∧ t.module.mbResult = 0) ∧
    (exec (.mbUnknownOp tag op) s = .next (done s 1))) ∧
  (∀ (v : W) (b : Bool) (watts temp : BitVec 16) (s : State),
    let m := s.module
    let w : BitVec 16 := v.setWidth 16
    (1200 ≤ w.toNat → w.toNat ≤ 3200 → exec (.powercapWrite v) s = .next { s with module := { m with
      powercap := w, powernow := if w < m.powernow then w else m.powernow } }) ∧
    (w.toNat < 1200 ∨ 3200 < w.toNat → exec (.powercapWrite v) s = .next s) ∧
    (∃ x, exec (.powerThrottle b watts) s = .next { s with module := { m with
        powernow := if m.powercap < watts then m.powercap else watts, thermal := x } } ∧
      (m.thermal = 2 → x = 2) ∧ (m.thermal ≠ 2 → x = if b then 1 else 0)) ∧
    ∃ x y, exec (.shutdownPending temp) s = .next { s with module := { m with tempmax := temp, thermal := x, hotSince := y } } ∧
      (1050 ≤ temp.toNat → x = 2 ∧ y = some (m.hotSince.getD (s.epoch + s.tick))) ∧
      (temp.toNat < 1050 → y = none ∧ x = if m.thermal = 2 then 0 else m.thermal))

/-- O57. The decoder reads sample words whose bits the spec writes out: integer, address, control, region, floating-
point, memory, atomic, cell, message, strand, vector, matrix, system, hint and modifier words, each with the
selectors, immediates and codes that the spec's table of the word gives. Major opcode 0 and a word with a reserved
function code or a nonzero unused field are no instructions. (R44, R48, R49, R69, R73, R74, R76, R77, R78, R79, R82,
R84) -/
def Obligations.TheSpecsWordsDecode : Prop :=
  decode 0x054A1100 = .ok (.add ⟨2, 0x12, 0x10, 0x11⟩) ∧ decode 0x084A3FFD = .ok (.addi ⟨0, 0x12, 0x11, 0x1FFD⟩) ∧
  decode 0x284A3803 = .ok (.lea ⟨0, 0x12, 0x11, 3, 3⟩) ∧ decode 0x402DEA05 = .ok (.blt ⟨0, 1, 0x17, 0x15, 5⟩) ∧
  decode 0x40352609 = .ok (.bge ⟨0, 0, 0x14, 0x13, 9⟩) ∧ decode 0x40700010 = .ok (.b ⟨0, 0x10⟩) ∧
  decode 0x4C500001 = .ok (.rgnInc ⟨0, 0x14, 1⟩) ∧ decode 0x51CE3200 = .ok (.fadd ⟨3, 0x13, 0x11, 0x12, 0⟩) ∧
  decode 0x54523298 = .ok (.fma ⟨0, 0x14, 0x11, 0x12, 0x13, 0⟩) ∧ decode 0x58464001 = .ok (.fcvt ⟨0, 0x11, 0x12, 0, 1⟩) ∧
  decode 0x604E3802 = .ok (.ld ⟨0, 0x13, 0x11, 3, 2⟩) ∧ decode 0x70465302 = .ok (.lds ⟨0, 0x11, 0x12, 0x13, 2⟩) ∧
  decode 0x78525510 = .ok (.amoAdd ⟨0, 0x14, 0x12, 0x15, 1⟩) ∧ decode 0x785A4090 = .ok (.xread ⟨0, 0x16, 0x12, 1, 0⟩) ∧
  decode 0x7C4653A3 = .ok (.cas ⟨0, 0x11, 0x12, 0x13, 0x14, 1⟩) ∧ decode 0x84023298 = .ok (.sendw ⟨0, 0x11, 0x12, 0x13⟩) ∧
  decode 0x88023212 = .ok (.retire ⟨0, 0x11, 0x12, 2⟩) ∧ decode 0x9C4A2003 = .ok (.perf ⟨0, 0x12, 0x11⟩) ∧
  decode 0x9C4C00BF = .ok (.fence ⟨0, 0x13, 3, 0xF⟩) ∧ decode 0xA04A2000 = .ok (.vclaim ⟨0, 0x12, 0x11⟩) ∧
  decode 0xAC040522 = .ok (.vcmp ⟨0, 1, 0, 5, 2, 2⟩) ∧ decode 0xA80C2243 = .ok (.vfma ⟨0, 3, 1, 2, 1⟩) ∧
  decode 0xC40E3200 = .ok (.mmaSS ⟨0, 3, 0x11, 0x12⟩) ∧ decode 0xD80A119A = .ok (.mmaNN ⟨0, 2, 0x10, 0x11, 0x13, 2⟩) ∧
  decode 0xE0465347 = .ok (.ast ⟨0, 2, 1, 0x12, 0x13⟩) ∧ decode 0xF4000001 = .ok (.hint ⟨1⟩) ∧
  decode 0xF8281400 = .ok (.modifier ⟨0, 0, 5, 0, 0, 5⟩) ∧ decode 0x00000000 = .error .illegalMajor ∧
  decode 0x04000009 = .error .reservedFunction ∧ decode 0x48000101 = .error .unusedFieldNonzero

/-- O58. State.reset is a cold start that has just entered stage 0x10: no mailbox command runs or has been dropped;
each of the eight clerks stands at the base of the preserved region in supervisor mode, with n0 its agent number and
every other register zero, and no other slot holds a strand; QTBASE, HRBASE, TENTRY, CENTRY, REGBASE, KROOT, CRASHREG
and HEART are 0, GANGWAIT 1,048,576, TSLICE 65,536 and HBLIMIT 110,000,000 on each die; POWERCAP is 3,200 and THERMAL
0; memory is zero; nothing is in flight; memories are in canonical form. Model's choices in it: that FRLOST and the
events start at zero and empty (log 1), that host memory reads as zero (log 3) and that the preserved region holds no
kernel (log 9). What any other register without a reset value in the spec holds is log 1's and no part of this. (R349,
R425, R430, R441, R449, R454, R457, R461) -/
def Obligations.ResetLeavesTheSpecsValues : Prop :=
  let s := State.reset
  s.module.stage = 0x10 ∧ s.module.mbBusy = false ∧ s.module.mbDropped = 0 ∧ s.module.mbResult = 0 ∧ s.module.mbTag = 0 ∧
  s.module.powercap = 3200 ∧ s.module.thermal = 0 ∧ s.module.frozen = none ∧ s.module.log = none ∧ s.ctxs = [] ∧
  s.events = [] ∧ s.poison = [] ∧ s.cells = [] ∧ s.tick = 0 ∧ s.memOk = true ∧ (∀ a, memGet s.mem a = 0) ∧
  (∀ i, i < 8 →
    let x := slotOf s (BitVec.ofNat 13 (2316 + i))
    x.live = true ∧ x.sup = true ∧ x.pc = 0x11FFC0000000 ∧ x.npc = 0x11FFC0000004 ∧ x.nnpc = 0x11FFC0000008 ∧
      nEntry x 0 = ⟨BitVec.ofNat 64 (2316 + i), 0, 0⟩ ∧ (∀ j, 1 ≤ j → j < 8 → nEntry x j = ⟨0, 0, 0⟩) ∧
      (∀ j, j < 16 → qEntry x j = ⟨0, 0, 0⟩) ∧ x.wcur = 0 ∧ x.fpflags = 0 ∧ x.rmode = 0 ∧ x.tcause = 0) ∧
  (∀ h : HartId, kindOf h ≠ .clerk → (slotOf s h).live = false) ∧
  (∀ d,
    let x := dieOf s d
    x.qtbase = 0 ∧ x.hrbase = 0 ∧ x.gangwait = 1048576 ∧ x.tslice = 65536 ∧ x.tentry = 0 ∧ x.centry = 0 ∧ x.regbase = 0 ∧
      x.hblimit = 110000000 ∧ x.heart[0] = 0 ∧ x.heart[1] = 0 ∧ x.crashreg = 0 ∧ x.kroot = 0 ∧ x.frlost = 0)

/-- O59. From every state in which main memory, the scratchpad pools and the bytes of the configuration window are in
canonical form (addresses strictly rising, no entry that equals what an unlisted address reads as), every step that
answers a next state leaves them so: equal memories stay equal data, whatever word, trap, late response or request of
the outside world the step performs. That an unlisted byte reads 0 is the model's choice where no scrub has written it
(log entries 1 and 3). (R8, R309, R325, R344) -/
def Obligations.EveryStepKeepsMemoryCanonical : Prop :=
  ∀ s t : State, s.memOk = true → step s = .next t → t.memOk = true

/-- O60. For every instruction that is a word and is legal on its own, with every operand at every value its fields
admit, decoding its encoding gives it back. For every word that the decoder accepts, the instruction it gives is legal
and its encoding is that word, so no bit of a word is dropped and no two words mean one instruction. No two legal
instructions share a word. (R41, R42, R44, R47, R48, R49, R69, R72) -/
def Obligations.DecodingInvertsEncoding : Prop :=
  (∀ (i : Instr) (w : Word32), i.wf = true → encode i = some w → decode w = .ok i) ∧
  (∀ (w : Word32) (i : Instr), decode w = .ok i → i.wf = true ∧ encode i = some w) ∧
  (∀ (i j : Instr) (w : Word32), i.wf = true → j.wf = true → encode i = some w → encode j = some w → i = j)

end Slice0Statements
end

