-- ==== Sys2Proof/Laws/Memory.lean ====
section
/-!
SUPPORT. The laws of byte memory: every operation keeps the canonical form, a read after a write, and what a write leaves
alone.
-/
namespace Sys2Proof.Machine

/-- Every key of a memory lies above `a`. -/
def Memory.above (a : Nat) (m : Memory) : Prop := ∀ c ∈ m, a < c.1

theorem Memory.wf_cons (a : Nat) (b : Byte) (m : Memory) :
    Memory.wf ((a, b) :: m) = true ↔ b ≠ 0 ∧ Memory.above a m ∧ Memory.wf m = true := by
  induction m generalizing a b with
  | nil => simp [Memory.wf, Memory.above]
  | cons c m ih =>
    obtain ⟨k, d⟩ := c
    have h := ih k d
    simp only [Memory.wf, Bool.and_eq_true, decide_eq_true_eq, bne_iff_ne] at h ⊢
    constructor
    · rintro ⟨⟨hb, hk⟩, hw⟩
      refine ⟨hb, ?_, hw⟩
      intro x hx
      rcases List.mem_cons.mp hx with rfl | hx
      · exact hk
      · exact Nat.lt_trans hk ((h.mp hw).2.1 x hx)
    · rintro ⟨hb, ha, hw⟩
      exact ⟨⟨hb, ha (k, d) (List.mem_cons_self ..)⟩, hw⟩

theorem Memory.wf_nil : Memory.wf [] = true := rfl

theorem Memory.above_mono {a b : Nat} {m : Memory} (h : b ≤ a) (ha : Memory.above a m) : Memory.above b m :=
  fun c hc => Nat.lt_of_le_of_lt h (ha c hc)

theorem memGet_above {a : Nat} {m : Memory} (h : Memory.above a m) : memGet m a = 0 := by
  induction m with
  | nil => rfl
  | cons c m ih =>
    obtain ⟨k, b⟩ := c
    have hk : a < k := h (k, b) (List.mem_cons_self ..)
    simp only [memGet]
    rw [if_neg (by omega)]
    exact ih fun x hx => h x (List.mem_cons_of_mem _ hx)

theorem memSet_above {a x : Nat} {b : Byte} {m : Memory} (h : Memory.above a m) (hx : a < x) :
    Memory.above a (memSet m x b) := by
  induction m with
  | nil =>
    simp only [memSet]
    split
    · exact fun c hc => absurd hc (by simp)
    · intro c hc
      simp only [List.mem_singleton] at hc
      subst hc
      exact hx
  | cons c m ih =>
    obtain ⟨k, d⟩ := c
    have hk : a < k := h (k, d) (List.mem_cons_self ..)
    have ht : Memory.above a m := fun c hc => h c (List.mem_cons_of_mem _ hc)
    have key : ∀ e : Nat × Byte, a < e.1 → ∀ l : Memory, Memory.above a l → Memory.above a (e :: l) := by
      intro e he l hl c hc
      rcases List.mem_cons.mp hc with rfl | hc
      · exact he
      · exact hl c hc
    simp only [memSet]
    split
    · split
      · exact h
      · exact key (x, b) hx _ h
    · split
      · split
        · exact ht
        · exact key (x, b) hx _ ht
      · exact key (k, d) hk _ (ih ht)

/-- One byte written keeps the canonical form. -/
theorem memSet_wf {m : Memory} (a : Nat) (b : Byte) (h : Memory.wf m = true) : Memory.wf (memSet m a b) = true := by
  induction m with
  | nil =>
    simp only [memSet]
    split
    · rfl
    · rename_i hb
      exact (Memory.wf_cons a b []).mpr ⟨hb, fun c hc => absurd hc (by simp), rfl⟩
  | cons c m ih =>
    obtain ⟨k, d⟩ := c
    obtain ⟨hd, hk, hm⟩ := (Memory.wf_cons k d m).mp h
    simp only [memSet]
    split
    · rename_i hak
      split
      · exact h
      · rename_i hb
        refine (Memory.wf_cons a b _).mpr ⟨hb, ?_, h⟩
        intro c hc
        rcases List.mem_cons.mp hc with rfl | hc
        · exact hak
        · exact Nat.lt_trans hak (hk c hc)
    · split
      · rename_i hak
        split
        · exact hm
        · rename_i hb
          subst hak
          exact (Memory.wf_cons a b _).mpr ⟨hb, hk, hm⟩
      · exact (Memory.wf_cons k d _).mpr ⟨hd, memSet_above hk (by omega), ih hm⟩

/-- A byte read after one was written. -/
theorem memGet_memSet {m : Memory} (a c : Nat) (b : Byte) (h : Memory.wf m = true) :
    memGet (memSet m a b) c = if c = a then b else memGet m c := by
  induction m with
  | nil =>
    simp only [memSet]
    split
    · rename_i hb
      simp [memGet, hb]
    · simp only [memGet]
      split <;> split <;> first | rfl | omega
  | cons e m ih =>
    obtain ⟨k, d⟩ := e
    obtain ⟨-, hk, hm⟩ := (Memory.wf_cons k d m).mp h
    simp only [memSet]
    split
    · rename_i hak
      split
      · rename_i hb
        split
        · rename_i hc
          subst hc
          rw [memGet_above, hb]
          intro x hx
          rcases List.mem_cons.mp hx with rfl | hx
          · exact hak
          · exact Nat.lt_trans hak (hk x hx)
        · rfl
      · by_cases hc : c = a
        · subst hc
          simp [memGet]
        · simp [memGet, hc, Ne.symm hc]
    · split
      · rename_i hak
        subst hak
        split
        · rename_i hb
          split
          · rename_i hc
            subst hc
            rw [memGet_above hk, hb]
          · simp only [memGet]
            split
            · omega
            · rfl
        · simp only [memGet]
          split <;> split <;> first | rfl | omega
      · simp only [memGet, ih hm]
        split <;> split <;> first | rfl | omega

/-- Bytes written keep the canonical form. -/
theorem memWrite_wf {m : Memory} (a : Nat) (bs : List Byte) (h : Memory.wf m = true) :
    Memory.wf (memWrite m a bs) = true := by
  induction bs generalizing m a with
  | nil => exact h
  | cons b bs ih => exact ih (a + 1) (memSet_wf a b h)

/-- A byte read after bytes were written: the one written there, or the one there before. -/
theorem memGet_memWrite {m : Memory} (a c : Nat) (bs : List Byte) (h : Memory.wf m = true) :
    memGet (memWrite m a bs) c = if a ≤ c ∧ c < a + bs.length then (bs[c - a]?).getD 0 else memGet m c := by
  induction bs generalizing m a with
  | nil =>
    simp only [memWrite, List.length_nil, Nat.add_zero]
    rw [if_neg (by omega)]
  | cons b bs ih =>
    simp only [memWrite, ih (a + 1) (memSet_wf a b h), memGet_memSet a c b h, List.length_cons]
    by_cases hc : c = a
    · subst hc
      rw [if_neg (by omega), if_pos (by omega)]
      simp
    · by_cases hr : a + 1 ≤ c ∧ c < a + 1 + bs.length
      · rw [if_pos hr, if_pos (by omega)]
        obtain ⟨n, hn⟩ : ∃ n, c - a = n + 1 := ⟨c - a - 1, by omega⟩
        rw [hn, show c - (a + 1) = n by omega]
        simp
      · rw [if_neg hr, if_neg hc, if_neg (by omega)]

/-- Bytes outside a write are as before. -/
theorem memGet_memWrite_outside {m : Memory} (a c : Nat) (bs : List Byte) (h : Memory.wf m = true)
    (hc : c < a ∨ a + bs.length ≤ c) : memGet (memWrite m a bs) c = memGet m c := by
  rw [memGet_memWrite a c bs h, if_neg (by omega)]

/-- A memory without some of its entries is canonical. -/
theorem Memory.filter_wf {m : Memory} (p : Host.Cell → Bool) (h : Memory.wf m = true) :
    Memory.wf (m.filter p) = true := by
  induction m with
  | nil => rfl
  | cons c m ih =>
    obtain ⟨k, d⟩ := c
    obtain ⟨hd, hk, hm⟩ := (Memory.wf_cons k d m).mp h
    rw [List.filter_cons]
    split
    · exact (Memory.wf_cons k d _).mpr ⟨hd, fun c hc => hk c (List.mem_filter.mp hc).1, ih hm⟩
    · exact ih hm

/-- Bytes set to zero keep the canonical form. -/
theorem memClear_wf {m : Memory} (a n : Nat) (h : Memory.wf m = true) : Memory.wf (memClear m a n) = true :=
  Memory.filter_wf _ h

/-- The bytes of a block have its length. -/
@[simp] theorem memRead_length (m : Memory) (a n : Nat) : (memRead m a n).length = n := by simp [memRead]

@[simp] theorem natBytes_length (n v : Nat) : (natBytes n v).length = n := by
  induction n generalizing v with
  | zero => rfl
  | succ n ih => simp [natBytes, ih]

/-- The bytes of a number spell it, modulo their range. -/
theorem leNat_natBytes (n v : Nat) : leNat (natBytes n v) = v % 256 ^ n := by
  induction n generalizing v with
  | zero => simp [natBytes, leNat, Nat.mod_one]
  | succ n ih =>
    simp only [natBytes, leNat, ih, BitVec.toNat_ofNat]
    have h : 256 ^ (n + 1) = 256 * 256 ^ n := by ring
    rw [h, Nat.mod_mul]

/-- What each change of a fold keeps, the fold keeps. -/
theorem foldl_kept {α β : Type} (p : State → β) (f : State → α → State) (hf : ∀ s a, p (f s a) = p s) (l : List α)
    (s : State) : p (l.foldl f s) = p s := by
  induction l generalizing s with
  | nil => rfl
  | cons a l ih => exact (ih _).trans (hf s a)

/-- Dropping lines of the constant caches changes the clusters only. -/
theorem dropConstant_eq (s : State) (ca n : Nat) : ∃ k, dropConstant s ca n = { s with clusters := k } := by
  unfold dropConstant
  dsimp only
  split
  · exact ⟨s.clusters, rfl⟩
  · exact ⟨_, rfl⟩

/-- Touching a home slice changes the slices only. -/
theorem touchHome_eq (s : State) (ca n : Nat) (w h : Bool) : ∃ l, touchHome s ca n w h = { s with l2 := l } := by
  unfold touchHome
  split
  · exact ⟨s.l2, rfl⟩
  · generalize List.range _ = is
    induction is generalizing s with
    | nil => exact ⟨s.l2, rfl⟩
    | cons i is ih =>
      obtain ⟨l, hl⟩ := ih (touchLine s w h (Nat.max ca ((ca / 256 + i) * 256))
        (Nat.min (ca + n) ((ca / 256 + i + 1) * 256) - Nat.max ca ((ca / 256 + i) * 256)))
      exact ⟨l, hl⟩

/-- A physical write changes memory, what is poisoned there, and the lines of the constant caches. -/
theorem physWrite_eq (s : State) (pa : Nat) (bs : List Byte) : ∃ k p, physWrite s pa bs =
    { s with
      mem := ((unitPieces bs.length pa bs.length).foldl (fun (acc : Memory × List Byte) (q : Nat × Nat) =>
        (memWrite acc.1 q.1 (acc.2.take q.2), acc.2.drop q.2)) (s.mem, bs)).1
      clusters := k
      poison := p } := by
  unfold physWrite
  dsimp only
  generalize (List.foldl _ (s.mem, bs) _).1 = m
  generalize unitPieces bs.length pa bs.length = ps
  suffices H : ∀ (ps : List (Nat × Nat)) (t : State), ∃ k p,
      ps.foldl (fun s q => dropConstant (clearPoison s q.1 q.2) q.1 q.2) t = { t with clusters := k, poison := p } from
    H ps { s with mem := m }
  intro ps
  induction ps with
  | nil => exact fun t => ⟨t.clusters, t.poison, rfl⟩
  | cons q ps ih =>
    intro t
    obtain ⟨k, hk⟩ := dropConstant_eq (clearPoison t q.1 q.2) q.1 q.2
    obtain ⟨k', p, h⟩ := ih (dropConstant (clearPoison t q.1 q.2) q.1 q.2)
    exact ⟨k', p, by rw [List.foldl_cons, h, hk]; rfl⟩

/-- What a physical write does to memory: its pieces written one after another. -/
theorem physWrite_mem (s : State) (pa : Nat) (bs : List Byte) :
    (physWrite s pa bs).mem = ((unitPieces bs.length pa bs.length).foldl (fun (acc : Memory × List Byte) (q : Nat × Nat) =>
      (memWrite acc.1 q.1 (acc.2.take q.2), acc.2.drop q.2)) (s.mem, bs)).1 := by
  obtain ⟨k, p, h⟩ := physWrite_eq s pa bs
  rw [h]

/-- A physical write keeps the canonical form. -/
theorem physWrite_wf {s : State} (pa : Nat) (bs : List Byte) (h : Memory.wf s.mem = true) :
    Memory.wf (physWrite s pa bs).mem = true := by
  rw [physWrite_mem]
  generalize unitPieces bs.length pa bs.length = ps
  suffices H : ∀ (ps : List (Nat × Nat)) (m : Memory) (l : List Byte), Memory.wf m = true →
      Memory.wf (ps.foldl (fun (acc : Memory × List Byte) (q : Nat × Nat) =>
        (memWrite acc.1 q.1 (acc.2.take q.2), acc.2.drop q.2)) (m, l)).1 = true from H ps s.mem bs h
  intro ps
  induction ps with
  | nil => exact fun m l hm => hm
  | cons q ps ih => exact fun m l hm => ih _ _ (memWrite_wf q.1 _ hm)

/-- A pool write keeps the canonical form. -/
theorem poolWrite_wf {s : State} (core off : Nat) (bs : List Byte) (h : Memory.wf s.pools = true) :
    Memory.wf (poolWrite s core off bs).pools = true := memWrite_wf _ _ h

/-- The memories of the state after reset are canonical. -/
theorem reset_wf : Memory.wf State.reset.mem = true ∧ Memory.wf State.reset.pools = true ∧
    Memory.wf State.reset.module.cfg = true := by decide

end Sys2Proof.Machine
end

