-- ==== Sys2Proof/Laws/Running.lean ====
section
/-!
SUPPORT. How a meaning runs: what each way of ending it gives, and how its parts follow one another.
-/
namespace Sys2Proof.Machine

/-- A meaning that ends normally answers its state. -/
theorem runOp_ok {op : Op Unit} {s t : State} {u : Unit} (h : op s = .ok (u, t)) : runOp op s = .next t := by
  simp [runOp, h]

/-- A meaning that traps takes the exception, unless a LAUNCH status is still awaited (R244). -/
theorem runOp_trap {op : Op Unit} {s : State} {c : Cause} {info : W} (h : op s = .error (.trap c info)) :
    runOp op s = if s.cur.launches ≠ 0 then .next { s with cur := unissued s.cur } else .next (takeTrap s s.turn c info (some s.cur.gpc)) := by
  simp [runOp, h]

/-- A meaning that a constant page refuses takes the exception likewise (R181). -/
theorem runOp_constantPage {op : Op Unit} {s : State} {info : W} (h : op s = .error (.constantPage info)) :
    runOp op s = if s.cur.launches ≠ 0 then .next { s with cur := unissued s.cur } else
      .next (takeRefusal s s.turn info s.cur.gpc) := by
  simp [runOp, h]

/-- A meaning that waits leaves the word unissued. -/
theorem runOp_wait {op : Op Unit} {s : State} {f : State → State} (h : op s = .error (.wait f)) :
    runOp op s = .next (f { s with cur := unissued s.cur }) := by
  simp [runOp, h]

/-- An operation followed by another. -/
theorem bind_of_gives {α β : Type} {op : Op α} {f : α → Op β} {s t : State} {v : α} (h : Gives op s v t) :
    (op >>= f) s = f v t := by
  unfold Gives at h
  simp [bind, StateT.bind, h, Except.bind]

/-- An operation that ends early ends what follows. -/
theorem bind_of_error {α β : Type} {op : Op α} {f : α → Op β} {s : State} {e : Stop} (h : op s = .error e) :
    (op >>= f) s = .error e := by
  simp [bind, StateT.bind, h, Except.bind]

@[simp] theorem pure_run {α : Type} (v : α) (s : State) : (pure v : Op α) s = .ok (v, s) := rfl
@[simp] theorem get_run (s : State) : (get : Op State) s = .ok (s, s) := rfl
@[simp] theorem set_run (s t : State) : (set t : Op Unit) s = .ok ((), t) := rfl
@[simp] theorem modify_run (f : State → State) (s : State) : (modify f : Op Unit) s = .ok ((), f s) := rfl
@[simp] theorem curSlot_run (s : State) : curSlot s = .ok (s.cur, s) := rfl
@[simp] theorem curAgent_run (s : State) : curAgent s = .ok (agentOf s.turn, s) := rfl
@[simp] theorem modCur_run (f : Slot → Slot) (s : State) : modCur f s = .ok ((), { s with cur := f s.cur }) := rfl
@[simp] theorem emitOp_run (e : Event) (s : State) : emitOp e s = .ok ((), emit s e) := rfl
@[simp] theorem waitHere_run {α : Type} (s : State) : (waitHere : Op α) s = .error (.wait id) := rfl
@[simp] theorem waitWith_run {α : Type} (f : State → State) (s : State) : (waitWith f : Op α) s = .error (.wait f) := rfl
@[simp] theorem trapWith_run {α : Type} (c : Cause) (i : W) (s : State) : (trapWith c i : Op α) s = .error (.trap c i) := rfl
@[simp] theorem stopWith_run {α : Type} (f : Fault) (s : State) : (stopWith f : Op α) s = .error (.fault f) := rfl
@[simp] theorem finish_run (st : BitVec 3) (s : State) : finish st s = .ok ((), issued st s) := rfl
@[simp] theorem finishCommit_run (st : BitVec 3) (s : State) : finishCommit st s = .ok ((), committed st s) := rfl

/-- A condition that holds. -/
theorem require_true {b : Bool} (h : b = true) (c : Cause) (i : W) (s : State) : require b c i s = .ok ((), s) := by
  simp [require, h]

/-- A condition that fails. -/
theorem require_false {b : Bool} (h : b = false) (c : Cause) (i : W) (s : State) :
    require b c i s = .error (.trap c i) := by
  simp [require, h]

/-- A committing word where it may stand. -/
theorem commitPlace_run (i : Instr) {s : State} (h : MayCommit s) : commitPlace i s = .ok ((), s) := by
  simp [commitPlace, bind, StateT.bind, Except.bind, h.1, h.2]

/-- A word that R88 keeps out of delay slots, outside of them. -/
theorem noDelaySlot_run (i : Instr) {s : State} (h : InOpen s) : noDelaySlot i s = .ok ((), s) := by
  simp [noDelaySlot, bind, StateT.bind, Except.bind, h.1, h.2]

end Sys2Proof.Machine
end

