-- ==== Sys2Proof/Laws/State.lean ====
section
/-!
SUPPORT. One lemma per field per update of the state: what each writes and that it leaves every other field.
-/
namespace Sys2Proof.Machine

/-! ### Maps -/

/-- The value just put at a key. -/
theorem mapFind_mapPut_self {α : Type} (m : AMap α) (a : Nat) (v : α) : mapFind (mapPut m a v) a = some v := by
  induction m with
  | nil => simp [mapPut, mapFind]
  | cons p m ih =>
    obtain ⟨k, w⟩ := p
    simp only [mapPut]
    split
    · simp [mapFind]
    · split
      · simp [mapFind]
      · rename_i h1 h2
        have : k ≠ a := fun q => h2 q.symm
        simp [mapFind, this, ih]

/-- The value at another key. -/
theorem mapFind_mapPut_other {α : Type} (m : AMap α) (a b : Nat) (v : α) (h : a ≠ b) :
    mapFind (mapPut m a v) b = mapFind m b := by
  induction m with
  | nil => simp [mapPut, mapFind, h]
  | cons p m ih =>
    obtain ⟨k, w⟩ := p
    simp only [mapPut]
    split
    · simp [mapFind, h]
    · split
      · rename_i h1 h2
        subst h2
        simp [mapFind, h]
      · simp only [mapFind]
        split <;> simp [ih]

theorem mapGet_mapPut_self {α : Type} (d : α) (m : AMap α) (a : Nat) (v : α) : mapGet d (mapPut m a v) a = v := by
  simp [mapGet, mapFind_mapPut_self]

theorem mapGet_mapPut_other {α : Type} (d : α) (m : AMap α) (a b : Nat) (v : α) (h : a ≠ b) :
    mapGet d (mapPut m a v) b = mapGet d m b := by
  simp [mapGet, mapFind_mapPut_other m a b v h]

/-! ### setCore -/

@[simp] theorem setCore_cur (s : State) (c : Nat) (x : Core) : (setCore s c x).cur = s.cur := rfl
@[simp] theorem setCore_turn (s : State) (c : Nat) (x : Core) : (setCore s c x).turn = s.turn := rfl
@[simp] theorem setCore_harts (s : State) (c : Nat) (x : Core) : (setCore s c x).harts = s.harts := rfl
@[simp] theorem setCore_cores (s : State) (c : Nat) (x : Core) : (setCore s c x).cores = mapPut s.cores c x := rfl
@[simp] theorem setCore_clusters (s : State) (c : Nat) (x : Core) : (setCore s c x).clusters = s.clusters := rfl
@[simp] theorem setCore_dies (s : State) (c : Nat) (x : Core) : (setCore s c x).dies = s.dies := rfl
@[simp] theorem setCore_ctxs (s : State) (c : Nat) (x : Core) : (setCore s c x).ctxs = s.ctxs := rfl
@[simp] theorem setCore_queues (s : State) (c : Nat) (x : Core) : (setCore s c x).queues = s.queues := rfl
@[simp] theorem setCore_engines (s : State) (c : Nat) (x : Core) : (setCore s c x).engines = s.engines := rfl
@[simp] theorem setCore_links (s : State) (c : Nat) (x : Core) : (setCore s c x).links = s.links := rfl
@[simp] theorem setCore_mem (s : State) (c : Nat) (x : Core) : (setCore s c x).mem = s.mem := rfl
@[simp] theorem setCore_pools (s : State) (c : Nat) (x : Core) : (setCore s c x).pools = s.pools := rfl
@[simp] theorem setCore_l2 (s : State) (c : Nat) (x : Core) : (setCore s c x).l2 = s.l2 := rfl
@[simp] theorem setCore_poison (s : State) (c : Nat) (x : Core) : (setCore s c x).poison = s.poison := rfl
@[simp] theorem setCore_poolPoison (s : State) (c : Nat) (x : Core) : (setCore s c x).poolPoison = s.poolPoison := rfl
@[simp] theorem setCore_cells (s : State) (c : Nat) (x : Core) : (setCore s c x).cells = s.cells := rfl
@[simp] theorem setCore_watches (s : State) (c : Nat) (x : Core) : (setCore s c x).watches = s.watches := rfl
@[simp] theorem setCore_combine (s : State) (c : Nat) (x : Core) : (setCore s c x).combine = s.combine := rfl
@[simp] theorem setCore_module (s : State) (c : Nat) (x : Core) : (setCore s c x).module = s.module := rfl
@[simp] theorem setCore_events (s : State) (c : Nat) (x : Core) : (setCore s c x).events = s.events := rfl
@[simp] theorem setCore_inputs (s : State) (c : Nat) (x : Core) : (setCore s c x).inputs = s.inputs := rfl
@[simp] theorem setCore_arbiter (s : State) (c : Nat) (x : Core) : (setCore s c x).arbiter = s.arbiter := rfl
@[simp] theorem setCore_tick (s : State) (c : Nat) (x : Core) : (setCore s c x).tick = s.tick := rfl
@[simp] theorem setCore_clock (s : State) (c : Nat) (x : Core) : (setCore s c x).clock = s.clock := rfl
@[simp] theorem setCore_tags (s : State) (c : Nat) (x : Core) : (setCore s c x).tags = s.tags := rfl
@[simp] theorem setCore_epoch (s : State) (c : Nat) (x : Core) : (setCore s c x).epoch = s.epoch := rfl

/-! ### setCluster -/

@[simp] theorem setCluster_cur (s : State) (c : Nat) (x : Cluster) : (setCluster s c x).cur = s.cur := rfl
@[simp] theorem setCluster_turn (s : State) (c : Nat) (x : Cluster) : (setCluster s c x).turn = s.turn := rfl
@[simp] theorem setCluster_harts (s : State) (c : Nat) (x : Cluster) : (setCluster s c x).harts = s.harts := rfl
@[simp] theorem setCluster_cores (s : State) (c : Nat) (x : Cluster) : (setCluster s c x).cores = s.cores := rfl
@[simp] theorem setCluster_clusters (s : State) (c : Nat) (x : Cluster) : (setCluster s c x).clusters = mapPut s.clusters c x := rfl
@[simp] theorem setCluster_dies (s : State) (c : Nat) (x : Cluster) : (setCluster s c x).dies = s.dies := rfl
@[simp] theorem setCluster_ctxs (s : State) (c : Nat) (x : Cluster) : (setCluster s c x).ctxs = s.ctxs := rfl
@[simp] theorem setCluster_queues (s : State) (c : Nat) (x : Cluster) : (setCluster s c x).queues = s.queues := rfl
@[simp] theorem setCluster_engines (s : State) (c : Nat) (x : Cluster) : (setCluster s c x).engines = s.engines := rfl
@[simp] theorem setCluster_links (s : State) (c : Nat) (x : Cluster) : (setCluster s c x).links = s.links := rfl
@[simp] theorem setCluster_mem (s : State) (c : Nat) (x : Cluster) : (setCluster s c x).mem = s.mem := rfl
@[simp] theorem setCluster_pools (s : State) (c : Nat) (x : Cluster) : (setCluster s c x).pools = s.pools := rfl
@[simp] theorem setCluster_l2 (s : State) (c : Nat) (x : Cluster) : (setCluster s c x).l2 = s.l2 := rfl
@[simp] theorem setCluster_poison (s : State) (c : Nat) (x : Cluster) : (setCluster s c x).poison = s.poison := rfl
@[simp] theorem setCluster_poolPoison (s : State) (c : Nat) (x : Cluster) : (setCluster s c x).poolPoison = s.poolPoison := rfl
@[simp] theorem setCluster_cells (s : State) (c : Nat) (x : Cluster) : (setCluster s c x).cells = s.cells := rfl
@[simp] theorem setCluster_watches (s : State) (c : Nat) (x : Cluster) : (setCluster s c x).watches = s.watches := rfl
@[simp] theorem setCluster_combine (s : State) (c : Nat) (x : Cluster) : (setCluster s c x).combine = s.combine := rfl
@[simp] theorem setCluster_module (s : State) (c : Nat) (x : Cluster) : (setCluster s c x).module = s.module := rfl
@[simp] theorem setCluster_events (s : State) (c : Nat) (x : Cluster) : (setCluster s c x).events = s.events := rfl
@[simp] theorem setCluster_inputs (s : State) (c : Nat) (x : Cluster) : (setCluster s c x).inputs = s.inputs := rfl
@[simp] theorem setCluster_arbiter (s : State) (c : Nat) (x : Cluster) : (setCluster s c x).arbiter = s.arbiter := rfl
@[simp] theorem setCluster_tick (s : State) (c : Nat) (x : Cluster) : (setCluster s c x).tick = s.tick := rfl
@[simp] theorem setCluster_clock (s : State) (c : Nat) (x : Cluster) : (setCluster s c x).clock = s.clock := rfl
@[simp] theorem setCluster_tags (s : State) (c : Nat) (x : Cluster) : (setCluster s c x).tags = s.tags := rfl
@[simp] theorem setCluster_epoch (s : State) (c : Nat) (x : Cluster) : (setCluster s c x).epoch = s.epoch := rfl

/-! ### setDie -/

@[simp] theorem setDie_cur (s : State) (d : Nat) (x : Die) : (setDie s d x).cur = s.cur := rfl
@[simp] theorem setDie_turn (s : State) (d : Nat) (x : Die) : (setDie s d x).turn = s.turn := rfl
@[simp] theorem setDie_harts (s : State) (d : Nat) (x : Die) : (setDie s d x).harts = s.harts := rfl
@[simp] theorem setDie_cores (s : State) (d : Nat) (x : Die) : (setDie s d x).cores = s.cores := rfl
@[simp] theorem setDie_clusters (s : State) (d : Nat) (x : Die) : (setDie s d x).clusters = s.clusters := rfl
@[simp] theorem setDie_dies (s : State) (d : Nat) (x : Die) : (setDie s d x).dies = mapPut s.dies d x := rfl
@[simp] theorem setDie_ctxs (s : State) (d : Nat) (x : Die) : (setDie s d x).ctxs = s.ctxs := rfl
@[simp] theorem setDie_queues (s : State) (d : Nat) (x : Die) : (setDie s d x).queues = s.queues := rfl
@[simp] theorem setDie_engines (s : State) (d : Nat) (x : Die) : (setDie s d x).engines = s.engines := rfl
@[simp] theorem setDie_links (s : State) (d : Nat) (x : Die) : (setDie s d x).links = s.links := rfl
@[simp] theorem setDie_mem (s : State) (d : Nat) (x : Die) : (setDie s d x).mem = s.mem := rfl
@[simp] theorem setDie_pools (s : State) (d : Nat) (x : Die) : (setDie s d x).pools = s.pools := rfl
@[simp] theorem setDie_l2 (s : State) (d : Nat) (x : Die) : (setDie s d x).l2 = s.l2 := rfl
@[simp] theorem setDie_poison (s : State) (d : Nat) (x : Die) : (setDie s d x).poison = s.poison := rfl
@[simp] theorem setDie_poolPoison (s : State) (d : Nat) (x : Die) : (setDie s d x).poolPoison = s.poolPoison := rfl
@[simp] theorem setDie_cells (s : State) (d : Nat) (x : Die) : (setDie s d x).cells = s.cells := rfl
@[simp] theorem setDie_watches (s : State) (d : Nat) (x : Die) : (setDie s d x).watches = s.watches := rfl
@[simp] theorem setDie_combine (s : State) (d : Nat) (x : Die) : (setDie s d x).combine = s.combine := rfl
@[simp] theorem setDie_module (s : State) (d : Nat) (x : Die) : (setDie s d x).module = s.module := rfl
@[simp] theorem setDie_events (s : State) (d : Nat) (x : Die) : (setDie s d x).events = s.events := rfl
@[simp] theorem setDie_inputs (s : State) (d : Nat) (x : Die) : (setDie s d x).inputs = s.inputs := rfl
@[simp] theorem setDie_arbiter (s : State) (d : Nat) (x : Die) : (setDie s d x).arbiter = s.arbiter := rfl
@[simp] theorem setDie_tick (s : State) (d : Nat) (x : Die) : (setDie s d x).tick = s.tick := rfl
@[simp] theorem setDie_clock (s : State) (d : Nat) (x : Die) : (setDie s d x).clock = s.clock := rfl
@[simp] theorem setDie_tags (s : State) (d : Nat) (x : Die) : (setDie s d x).tags = s.tags := rfl
@[simp] theorem setDie_epoch (s : State) (d : Nat) (x : Die) : (setDie s d x).epoch = s.epoch := rfl

/-! ### setQueue -/

@[simp] theorem setQueue_cur (s : State) (q : Nat) (x : LQueue) : (setQueue s q x).cur = s.cur := rfl
@[simp] theorem setQueue_turn (s : State) (q : Nat) (x : LQueue) : (setQueue s q x).turn = s.turn := rfl
@[simp] theorem setQueue_harts (s : State) (q : Nat) (x : LQueue) : (setQueue s q x).harts = s.harts := rfl
@[simp] theorem setQueue_cores (s : State) (q : Nat) (x : LQueue) : (setQueue s q x).cores = s.cores := rfl
@[simp] theorem setQueue_clusters (s : State) (q : Nat) (x : LQueue) : (setQueue s q x).clusters = s.clusters := rfl
@[simp] theorem setQueue_dies (s : State) (q : Nat) (x : LQueue) : (setQueue s q x).dies = s.dies := rfl
@[simp] theorem setQueue_ctxs (s : State) (q : Nat) (x : LQueue) : (setQueue s q x).ctxs = s.ctxs := rfl
@[simp] theorem setQueue_queues (s : State) (q : Nat) (x : LQueue) : (setQueue s q x).queues = mapPut s.queues q x := rfl
@[simp] theorem setQueue_engines (s : State) (q : Nat) (x : LQueue) : (setQueue s q x).engines = s.engines := rfl
@[simp] theorem setQueue_links (s : State) (q : Nat) (x : LQueue) : (setQueue s q x).links = s.links := rfl
@[simp] theorem setQueue_mem (s : State) (q : Nat) (x : LQueue) : (setQueue s q x).mem = s.mem := rfl
@[simp] theorem setQueue_pools (s : State) (q : Nat) (x : LQueue) : (setQueue s q x).pools = s.pools := rfl
@[simp] theorem setQueue_l2 (s : State) (q : Nat) (x : LQueue) : (setQueue s q x).l2 = s.l2 := rfl
@[simp] theorem setQueue_poison (s : State) (q : Nat) (x : LQueue) : (setQueue s q x).poison = s.poison := rfl
@[simp] theorem setQueue_poolPoison (s : State) (q : Nat) (x : LQueue) : (setQueue s q x).poolPoison = s.poolPoison := rfl
@[simp] theorem setQueue_cells (s : State) (q : Nat) (x : LQueue) : (setQueue s q x).cells = s.cells := rfl
@[simp] theorem setQueue_watches (s : State) (q : Nat) (x : LQueue) : (setQueue s q x).watches = s.watches := rfl
@[simp] theorem setQueue_combine (s : State) (q : Nat) (x : LQueue) : (setQueue s q x).combine = s.combine := rfl
@[simp] theorem setQueue_module (s : State) (q : Nat) (x : LQueue) : (setQueue s q x).module = s.module := rfl
@[simp] theorem setQueue_events (s : State) (q : Nat) (x : LQueue) : (setQueue s q x).events = s.events := rfl
@[simp] theorem setQueue_inputs (s : State) (q : Nat) (x : LQueue) : (setQueue s q x).inputs = s.inputs := rfl
@[simp] theorem setQueue_arbiter (s : State) (q : Nat) (x : LQueue) : (setQueue s q x).arbiter = s.arbiter := rfl
@[simp] theorem setQueue_tick (s : State) (q : Nat) (x : LQueue) : (setQueue s q x).tick = s.tick := rfl
@[simp] theorem setQueue_clock (s : State) (q : Nat) (x : LQueue) : (setQueue s q x).clock = s.clock := rfl
@[simp] theorem setQueue_tags (s : State) (q : Nat) (x : LQueue) : (setQueue s q x).tags = s.tags := rfl
@[simp] theorem setQueue_epoch (s : State) (q : Nat) (x : LQueue) : (setQueue s q x).epoch = s.epoch := rfl

/-! ### setEngine -/

@[simp] theorem setEngine_cur (s : State) (a : Nat) (x : Engine) : (setEngine s a x).cur = s.cur := rfl
@[simp] theorem setEngine_turn (s : State) (a : Nat) (x : Engine) : (setEngine s a x).turn = s.turn := rfl
@[simp] theorem setEngine_harts (s : State) (a : Nat) (x : Engine) : (setEngine s a x).harts = s.harts := rfl
@[simp] theorem setEngine_cores (s : State) (a : Nat) (x : Engine) : (setEngine s a x).cores = s.cores := rfl
@[simp] theorem setEngine_clusters (s : State) (a : Nat) (x : Engine) : (setEngine s a x).clusters = s.clusters := rfl
@[simp] theorem setEngine_dies (s : State) (a : Nat) (x : Engine) : (setEngine s a x).dies = s.dies := rfl
@[simp] theorem setEngine_ctxs (s : State) (a : Nat) (x : Engine) : (setEngine s a x).ctxs = s.ctxs := rfl
@[simp] theorem setEngine_queues (s : State) (a : Nat) (x : Engine) : (setEngine s a x).queues = s.queues := rfl
@[simp] theorem setEngine_engines (s : State) (a : Nat) (x : Engine) : (setEngine s a x).engines = mapPut s.engines a x := rfl
@[simp] theorem setEngine_links (s : State) (a : Nat) (x : Engine) : (setEngine s a x).links = s.links := rfl
@[simp] theorem setEngine_mem (s : State) (a : Nat) (x : Engine) : (setEngine s a x).mem = s.mem := rfl
@[simp] theorem setEngine_pools (s : State) (a : Nat) (x : Engine) : (setEngine s a x).pools = s.pools := rfl
@[simp] theorem setEngine_l2 (s : State) (a : Nat) (x : Engine) : (setEngine s a x).l2 = s.l2 := rfl
@[simp] theorem setEngine_poison (s : State) (a : Nat) (x : Engine) : (setEngine s a x).poison = s.poison := rfl
@[simp] theorem setEngine_poolPoison (s : State) (a : Nat) (x : Engine) : (setEngine s a x).poolPoison = s.poolPoison := rfl
@[simp] theorem setEngine_cells (s : State) (a : Nat) (x : Engine) : (setEngine s a x).cells = s.cells := rfl
@[simp] theorem setEngine_watches (s : State) (a : Nat) (x : Engine) : (setEngine s a x).watches = s.watches := rfl
@[simp] theorem setEngine_combine (s : State) (a : Nat) (x : Engine) : (setEngine s a x).combine = s.combine := rfl
@[simp] theorem setEngine_module (s : State) (a : Nat) (x : Engine) : (setEngine s a x).module = s.module := rfl
@[simp] theorem setEngine_events (s : State) (a : Nat) (x : Engine) : (setEngine s a x).events = s.events := rfl
@[simp] theorem setEngine_inputs (s : State) (a : Nat) (x : Engine) : (setEngine s a x).inputs = s.inputs := rfl
@[simp] theorem setEngine_arbiter (s : State) (a : Nat) (x : Engine) : (setEngine s a x).arbiter = s.arbiter := rfl
@[simp] theorem setEngine_tick (s : State) (a : Nat) (x : Engine) : (setEngine s a x).tick = s.tick := rfl
@[simp] theorem setEngine_clock (s : State) (a : Nat) (x : Engine) : (setEngine s a x).clock = s.clock := rfl
@[simp] theorem setEngine_tags (s : State) (a : Nat) (x : Engine) : (setEngine s a x).tags = s.tags := rfl
@[simp] theorem setEngine_epoch (s : State) (a : Nat) (x : Engine) : (setEngine s a x).epoch = s.epoch := rfl

/-! ### setLink -/

@[simp] theorem setLink_cur (s : State) (p : Nat) (x : Link) : (setLink s p x).cur = s.cur := rfl
@[simp] theorem setLink_turn (s : State) (p : Nat) (x : Link) : (setLink s p x).turn = s.turn := rfl
@[simp] theorem setLink_harts (s : State) (p : Nat) (x : Link) : (setLink s p x).harts = s.harts := rfl
@[simp] theorem setLink_cores (s : State) (p : Nat) (x : Link) : (setLink s p x).cores = s.cores := rfl
@[simp] theorem setLink_clusters (s : State) (p : Nat) (x : Link) : (setLink s p x).clusters = s.clusters := rfl
@[simp] theorem setLink_dies (s : State) (p : Nat) (x : Link) : (setLink s p x).dies = s.dies := rfl
@[simp] theorem setLink_ctxs (s : State) (p : Nat) (x : Link) : (setLink s p x).ctxs = s.ctxs := rfl
@[simp] theorem setLink_queues (s : State) (p : Nat) (x : Link) : (setLink s p x).queues = s.queues := rfl
@[simp] theorem setLink_engines (s : State) (p : Nat) (x : Link) : (setLink s p x).engines = s.engines := rfl
@[simp] theorem setLink_links (s : State) (p : Nat) (x : Link) : (setLink s p x).links = mapPut s.links p x := rfl
@[simp] theorem setLink_mem (s : State) (p : Nat) (x : Link) : (setLink s p x).mem = s.mem := rfl
@[simp] theorem setLink_pools (s : State) (p : Nat) (x : Link) : (setLink s p x).pools = s.pools := rfl
@[simp] theorem setLink_l2 (s : State) (p : Nat) (x : Link) : (setLink s p x).l2 = s.l2 := rfl
@[simp] theorem setLink_poison (s : State) (p : Nat) (x : Link) : (setLink s p x).poison = s.poison := rfl
@[simp] theorem setLink_poolPoison (s : State) (p : Nat) (x : Link) : (setLink s p x).poolPoison = s.poolPoison := rfl
@[simp] theorem setLink_cells (s : State) (p : Nat) (x : Link) : (setLink s p x).cells = s.cells := rfl
@[simp] theorem setLink_watches (s : State) (p : Nat) (x : Link) : (setLink s p x).watches = s.watches := rfl
@[simp] theorem setLink_combine (s : State) (p : Nat) (x : Link) : (setLink s p x).combine = s.combine := rfl
@[simp] theorem setLink_module (s : State) (p : Nat) (x : Link) : (setLink s p x).module = s.module := rfl
@[simp] theorem setLink_events (s : State) (p : Nat) (x : Link) : (setLink s p x).events = s.events := rfl
@[simp] theorem setLink_inputs (s : State) (p : Nat) (x : Link) : (setLink s p x).inputs = s.inputs := rfl
@[simp] theorem setLink_arbiter (s : State) (p : Nat) (x : Link) : (setLink s p x).arbiter = s.arbiter := rfl
@[simp] theorem setLink_tick (s : State) (p : Nat) (x : Link) : (setLink s p x).tick = s.tick := rfl
@[simp] theorem setLink_clock (s : State) (p : Nat) (x : Link) : (setLink s p x).clock = s.clock := rfl
@[simp] theorem setLink_tags (s : State) (p : Nat) (x : Link) : (setLink s p x).tags = s.tags := rfl
@[simp] theorem setLink_epoch (s : State) (p : Nat) (x : Link) : (setLink s p x).epoch = s.epoch := rfl

/-! ### setCtx -/

@[simp] theorem setCtx_cur (s : State) (c : BitVec 16) (x : Ctx) : (setCtx s c x).cur = s.cur := rfl
@[simp] theorem setCtx_turn (s : State) (c : BitVec 16) (x : Ctx) : (setCtx s c x).turn = s.turn := rfl
@[simp] theorem setCtx_harts (s : State) (c : BitVec 16) (x : Ctx) : (setCtx s c x).harts = s.harts := rfl
@[simp] theorem setCtx_cores (s : State) (c : BitVec 16) (x : Ctx) : (setCtx s c x).cores = s.cores := rfl
@[simp] theorem setCtx_clusters (s : State) (c : BitVec 16) (x : Ctx) : (setCtx s c x).clusters = s.clusters := rfl
@[simp] theorem setCtx_dies (s : State) (c : BitVec 16) (x : Ctx) : (setCtx s c x).dies = s.dies := rfl
@[simp] theorem setCtx_ctxs (s : State) (c : BitVec 16) (x : Ctx) : (setCtx s c x).ctxs = mapPut s.ctxs c.toNat x := rfl
@[simp] theorem setCtx_queues (s : State) (c : BitVec 16) (x : Ctx) : (setCtx s c x).queues = s.queues := rfl
@[simp] theorem setCtx_engines (s : State) (c : BitVec 16) (x : Ctx) : (setCtx s c x).engines = s.engines := rfl
@[simp] theorem setCtx_links (s : State) (c : BitVec 16) (x : Ctx) : (setCtx s c x).links = s.links := rfl
@[simp] theorem setCtx_mem (s : State) (c : BitVec 16) (x : Ctx) : (setCtx s c x).mem = s.mem := rfl
@[simp] theorem setCtx_pools (s : State) (c : BitVec 16) (x : Ctx) : (setCtx s c x).pools = s.pools := rfl
@[simp] theorem setCtx_l2 (s : State) (c : BitVec 16) (x : Ctx) : (setCtx s c x).l2 = s.l2 := rfl
@[simp] theorem setCtx_poison (s : State) (c : BitVec 16) (x : Ctx) : (setCtx s c x).poison = s.poison := rfl
@[simp] theorem setCtx_poolPoison (s : State) (c : BitVec 16) (x : Ctx) : (setCtx s c x).poolPoison = s.poolPoison := rfl
@[simp] theorem setCtx_cells (s : State) (c : BitVec 16) (x : Ctx) : (setCtx s c x).cells = s.cells := rfl
@[simp] theorem setCtx_watches (s : State) (c : BitVec 16) (x : Ctx) : (setCtx s c x).watches = s.watches := rfl
@[simp] theorem setCtx_combine (s : State) (c : BitVec 16) (x : Ctx) : (setCtx s c x).combine = s.combine := rfl
@[simp] theorem setCtx_module (s : State) (c : BitVec 16) (x : Ctx) : (setCtx s c x).module = s.module := rfl
@[simp] theorem setCtx_events (s : State) (c : BitVec 16) (x : Ctx) : (setCtx s c x).events = s.events := rfl
@[simp] theorem setCtx_inputs (s : State) (c : BitVec 16) (x : Ctx) : (setCtx s c x).inputs = s.inputs := rfl
@[simp] theorem setCtx_arbiter (s : State) (c : BitVec 16) (x : Ctx) : (setCtx s c x).arbiter = s.arbiter := rfl
@[simp] theorem setCtx_tick (s : State) (c : BitVec 16) (x : Ctx) : (setCtx s c x).tick = s.tick := rfl
@[simp] theorem setCtx_clock (s : State) (c : BitVec 16) (x : Ctx) : (setCtx s c x).clock = s.clock := rfl
@[simp] theorem setCtx_tags (s : State) (c : BitVec 16) (x : Ctx) : (setCtx s c x).tags = s.tags := rfl
@[simp] theorem setCtx_epoch (s : State) (c : BitVec 16) (x : Ctx) : (setCtx s c x).epoch = s.epoch := rfl

/-! ### emit -/

@[simp] theorem emit_cur (s : State) (e : Event) : (emit s e).cur = s.cur := rfl
@[simp] theorem emit_turn (s : State) (e : Event) : (emit s e).turn = s.turn := rfl
@[simp] theorem emit_harts (s : State) (e : Event) : (emit s e).harts = s.harts := rfl
@[simp] theorem emit_cores (s : State) (e : Event) : (emit s e).cores = s.cores := rfl
@[simp] theorem emit_clusters (s : State) (e : Event) : (emit s e).clusters = s.clusters := rfl
@[simp] theorem emit_dies (s : State) (e : Event) : (emit s e).dies = s.dies := rfl
@[simp] theorem emit_ctxs (s : State) (e : Event) : (emit s e).ctxs = s.ctxs := rfl
@[simp] theorem emit_queues (s : State) (e : Event) : (emit s e).queues = s.queues := rfl
@[simp] theorem emit_engines (s : State) (e : Event) : (emit s e).engines = s.engines := rfl
@[simp] theorem emit_links (s : State) (e : Event) : (emit s e).links = s.links := rfl
@[simp] theorem emit_mem (s : State) (e : Event) : (emit s e).mem = s.mem := rfl
@[simp] theorem emit_pools (s : State) (e : Event) : (emit s e).pools = s.pools := rfl
@[simp] theorem emit_l2 (s : State) (e : Event) : (emit s e).l2 = s.l2 := rfl
@[simp] theorem emit_poison (s : State) (e : Event) : (emit s e).poison = s.poison := rfl
@[simp] theorem emit_poolPoison (s : State) (e : Event) : (emit s e).poolPoison = s.poolPoison := rfl
@[simp] theorem emit_cells (s : State) (e : Event) : (emit s e).cells = s.cells := rfl
@[simp] theorem emit_watches (s : State) (e : Event) : (emit s e).watches = s.watches := rfl
@[simp] theorem emit_combine (s : State) (e : Event) : (emit s e).combine = s.combine := rfl
@[simp] theorem emit_module (s : State) (e : Event) : (emit s e).module = s.module := rfl
@[simp] theorem emit_events (s : State) (e : Event) : (emit s e).events = s.events ++ [e] := rfl
@[simp] theorem emit_inputs (s : State) (e : Event) : (emit s e).inputs = s.inputs := rfl
@[simp] theorem emit_arbiter (s : State) (e : Event) : (emit s e).arbiter = s.arbiter := rfl
@[simp] theorem emit_tick (s : State) (e : Event) : (emit s e).tick = s.tick := rfl
@[simp] theorem emit_clock (s : State) (e : Event) : (emit s e).clock = s.clock := rfl
@[simp] theorem emit_tags (s : State) (e : Event) : (emit s e).tags = s.tags := rfl
@[simp] theorem emit_epoch (s : State) (e : Event) : (emit s e).epoch = s.epoch := rfl

/-! ### emitFirst -/

@[simp] theorem emitFirst_cur (s : State) (e : Event) : (emitFirst s e).cur = s.cur := rfl
@[simp] theorem emitFirst_turn (s : State) (e : Event) : (emitFirst s e).turn = s.turn := rfl
@[simp] theorem emitFirst_harts (s : State) (e : Event) : (emitFirst s e).harts = s.harts := rfl
@[simp] theorem emitFirst_cores (s : State) (e : Event) : (emitFirst s e).cores = s.cores := rfl
@[simp] theorem emitFirst_clusters (s : State) (e : Event) : (emitFirst s e).clusters = s.clusters := rfl
@[simp] theorem emitFirst_dies (s : State) (e : Event) : (emitFirst s e).dies = s.dies := rfl
@[simp] theorem emitFirst_ctxs (s : State) (e : Event) : (emitFirst s e).ctxs = s.ctxs := rfl
@[simp] theorem emitFirst_queues (s : State) (e : Event) : (emitFirst s e).queues = s.queues := rfl
@[simp] theorem emitFirst_engines (s : State) (e : Event) : (emitFirst s e).engines = s.engines := rfl
@[simp] theorem emitFirst_links (s : State) (e : Event) : (emitFirst s e).links = s.links := rfl
@[simp] theorem emitFirst_mem (s : State) (e : Event) : (emitFirst s e).mem = s.mem := rfl
@[simp] theorem emitFirst_pools (s : State) (e : Event) : (emitFirst s e).pools = s.pools := rfl
@[simp] theorem emitFirst_l2 (s : State) (e : Event) : (emitFirst s e).l2 = s.l2 := rfl
@[simp] theorem emitFirst_poison (s : State) (e : Event) : (emitFirst s e).poison = s.poison := rfl
@[simp] theorem emitFirst_poolPoison (s : State) (e : Event) : (emitFirst s e).poolPoison = s.poolPoison := rfl
@[simp] theorem emitFirst_cells (s : State) (e : Event) : (emitFirst s e).cells = s.cells := rfl
@[simp] theorem emitFirst_watches (s : State) (e : Event) : (emitFirst s e).watches = s.watches := rfl
@[simp] theorem emitFirst_combine (s : State) (e : Event) : (emitFirst s e).combine = s.combine := rfl
@[simp] theorem emitFirst_module (s : State) (e : Event) : (emitFirst s e).module = s.module := rfl
@[simp] theorem emitFirst_events (s : State) (e : Event) : (emitFirst s e).events = e :: s.events := rfl
@[simp] theorem emitFirst_inputs (s : State) (e : Event) : (emitFirst s e).inputs = s.inputs := rfl
@[simp] theorem emitFirst_arbiter (s : State) (e : Event) : (emitFirst s e).arbiter = s.arbiter := rfl
@[simp] theorem emitFirst_tick (s : State) (e : Event) : (emitFirst s e).tick = s.tick := rfl
@[simp] theorem emitFirst_clock (s : State) (e : Event) : (emitFirst s e).clock = s.clock := rfl
@[simp] theorem emitFirst_tags (s : State) (e : Event) : (emitFirst s e).tags = s.tags := rfl
@[simp] theorem emitFirst_epoch (s : State) (e : Event) : (emitFirst s e).epoch = s.epoch := rfl

/-! ### poolWrite -/

@[simp] theorem poolWrite_cur (s : State) (c off : Nat) (bs : List Byte) : (poolWrite s c off bs).cur = s.cur := rfl
@[simp] theorem poolWrite_turn (s : State) (c off : Nat) (bs : List Byte) : (poolWrite s c off bs).turn = s.turn := rfl
@[simp] theorem poolWrite_harts (s : State) (c off : Nat) (bs : List Byte) : (poolWrite s c off bs).harts = s.harts := rfl
@[simp] theorem poolWrite_cores (s : State) (c off : Nat) (bs : List Byte) : (poolWrite s c off bs).cores = s.cores := rfl
@[simp] theorem poolWrite_clusters (s : State) (c off : Nat) (bs : List Byte) : (poolWrite s c off bs).clusters = s.clusters := rfl
@[simp] theorem poolWrite_dies (s : State) (c off : Nat) (bs : List Byte) : (poolWrite s c off bs).dies = s.dies := rfl
@[simp] theorem poolWrite_ctxs (s : State) (c off : Nat) (bs : List Byte) : (poolWrite s c off bs).ctxs = s.ctxs := rfl
@[simp] theorem poolWrite_queues (s : State) (c off : Nat) (bs : List Byte) : (poolWrite s c off bs).queues = s.queues := rfl
@[simp] theorem poolWrite_engines (s : State) (c off : Nat) (bs : List Byte) : (poolWrite s c off bs).engines = s.engines := rfl
@[simp] theorem poolWrite_links (s : State) (c off : Nat) (bs : List Byte) : (poolWrite s c off bs).links = s.links := rfl
@[simp] theorem poolWrite_mem (s : State) (c off : Nat) (bs : List Byte) : (poolWrite s c off bs).mem = s.mem := rfl
@[simp] theorem poolWrite_pools (s : State) (c off : Nat) (bs : List Byte) : (poolWrite s c off bs).pools = memWrite s.pools (poolKey c off) bs := rfl
@[simp] theorem poolWrite_l2 (s : State) (c off : Nat) (bs : List Byte) : (poolWrite s c off bs).l2 = s.l2 := rfl
@[simp] theorem poolWrite_poison (s : State) (c off : Nat) (bs : List Byte) : (poolWrite s c off bs).poison = s.poison := rfl
@[simp] theorem poolWrite_cells (s : State) (c off : Nat) (bs : List Byte) : (poolWrite s c off bs).cells = s.cells := rfl
@[simp] theorem poolWrite_watches (s : State) (c off : Nat) (bs : List Byte) : (poolWrite s c off bs).watches = s.watches := rfl
@[simp] theorem poolWrite_combine (s : State) (c off : Nat) (bs : List Byte) : (poolWrite s c off bs).combine = s.combine := rfl
@[simp] theorem poolWrite_module (s : State) (c off : Nat) (bs : List Byte) : (poolWrite s c off bs).module = s.module := rfl
@[simp] theorem poolWrite_events (s : State) (c off : Nat) (bs : List Byte) : (poolWrite s c off bs).events = s.events := rfl
@[simp] theorem poolWrite_inputs (s : State) (c off : Nat) (bs : List Byte) : (poolWrite s c off bs).inputs = s.inputs := rfl
@[simp] theorem poolWrite_arbiter (s : State) (c off : Nat) (bs : List Byte) : (poolWrite s c off bs).arbiter = s.arbiter := rfl
@[simp] theorem poolWrite_tick (s : State) (c off : Nat) (bs : List Byte) : (poolWrite s c off bs).tick = s.tick := rfl
@[simp] theorem poolWrite_clock (s : State) (c off : Nat) (bs : List Byte) : (poolWrite s c off bs).clock = s.clock := rfl
@[simp] theorem poolWrite_tags (s : State) (c off : Nat) (bs : List Byte) : (poolWrite s c off bs).tags = s.tags := rfl
@[simp] theorem poolWrite_epoch (s : State) (c off : Nat) (bs : List Byte) : (poolWrite s c off bs).epoch = s.epoch := rfl

/-! ### physWrite -/

@[simp] theorem physWrite_cur (s : State) (pa : Nat) (bs : List Byte) : (physWrite s pa bs).cur = s.cur := by
  obtain ⟨k, p, h⟩ := physWrite_eq s pa bs
  rw [h]
@[simp] theorem physWrite_turn (s : State) (pa : Nat) (bs : List Byte) : (physWrite s pa bs).turn = s.turn := by
  obtain ⟨k, p, h⟩ := physWrite_eq s pa bs
  rw [h]
@[simp] theorem physWrite_harts (s : State) (pa : Nat) (bs : List Byte) : (physWrite s pa bs).harts = s.harts := by
  obtain ⟨k, p, h⟩ := physWrite_eq s pa bs
  rw [h]
@[simp] theorem physWrite_cores (s : State) (pa : Nat) (bs : List Byte) : (physWrite s pa bs).cores = s.cores := by
  obtain ⟨k, p, h⟩ := physWrite_eq s pa bs
  rw [h]
@[simp] theorem physWrite_dies (s : State) (pa : Nat) (bs : List Byte) : (physWrite s pa bs).dies = s.dies := by
  obtain ⟨k, p, h⟩ := physWrite_eq s pa bs
  rw [h]
@[simp] theorem physWrite_ctxs (s : State) (pa : Nat) (bs : List Byte) : (physWrite s pa bs).ctxs = s.ctxs := by
  obtain ⟨k, p, h⟩ := physWrite_eq s pa bs
  rw [h]
@[simp] theorem physWrite_queues (s : State) (pa : Nat) (bs : List Byte) : (physWrite s pa bs).queues = s.queues := by
  obtain ⟨k, p, h⟩ := physWrite_eq s pa bs
  rw [h]
@[simp] theorem physWrite_engines (s : State) (pa : Nat) (bs : List Byte) : (physWrite s pa bs).engines = s.engines := by
  obtain ⟨k, p, h⟩ := physWrite_eq s pa bs
  rw [h]
@[simp] theorem physWrite_links (s : State) (pa : Nat) (bs : List Byte) : (physWrite s pa bs).links = s.links := by
  obtain ⟨k, p, h⟩ := physWrite_eq s pa bs
  rw [h]
@[simp] theorem physWrite_pools (s : State) (pa : Nat) (bs : List Byte) : (physWrite s pa bs).pools = s.pools := by
  obtain ⟨k, p, h⟩ := physWrite_eq s pa bs
  rw [h]
@[simp] theorem physWrite_l2 (s : State) (pa : Nat) (bs : List Byte) : (physWrite s pa bs).l2 = s.l2 := by
  obtain ⟨k, p, h⟩ := physWrite_eq s pa bs
  rw [h]
@[simp] theorem physWrite_poolPoison (s : State) (pa : Nat) (bs : List Byte) : (physWrite s pa bs).poolPoison = s.poolPoison := by
  obtain ⟨k, p, h⟩ := physWrite_eq s pa bs
  rw [h]
@[simp] theorem physWrite_cells (s : State) (pa : Nat) (bs : List Byte) : (physWrite s pa bs).cells = s.cells := by
  obtain ⟨k, p, h⟩ := physWrite_eq s pa bs
  rw [h]
@[simp] theorem physWrite_watches (s : State) (pa : Nat) (bs : List Byte) : (physWrite s pa bs).watches = s.watches := by
  obtain ⟨k, p, h⟩ := physWrite_eq s pa bs
  rw [h]
@[simp] theorem physWrite_combine (s : State) (pa : Nat) (bs : List Byte) : (physWrite s pa bs).combine = s.combine := by
  obtain ⟨k, p, h⟩ := physWrite_eq s pa bs
  rw [h]
@[simp] theorem physWrite_module (s : State) (pa : Nat) (bs : List Byte) : (physWrite s pa bs).module = s.module := by
  obtain ⟨k, p, h⟩ := physWrite_eq s pa bs
  rw [h]
@[simp] theorem physWrite_events (s : State) (pa : Nat) (bs : List Byte) : (physWrite s pa bs).events = s.events := by
  obtain ⟨k, p, h⟩ := physWrite_eq s pa bs
  rw [h]
@[simp] theorem physWrite_inputs (s : State) (pa : Nat) (bs : List Byte) : (physWrite s pa bs).inputs = s.inputs := by
  obtain ⟨k, p, h⟩ := physWrite_eq s pa bs
  rw [h]
@[simp] theorem physWrite_arbiter (s : State) (pa : Nat) (bs : List Byte) : (physWrite s pa bs).arbiter = s.arbiter := by
  obtain ⟨k, p, h⟩ := physWrite_eq s pa bs
  rw [h]
@[simp] theorem physWrite_tick (s : State) (pa : Nat) (bs : List Byte) : (physWrite s pa bs).tick = s.tick := by
  obtain ⟨k, p, h⟩ := physWrite_eq s pa bs
  rw [h]
@[simp] theorem physWrite_clock (s : State) (pa : Nat) (bs : List Byte) : (physWrite s pa bs).clock = s.clock := by
  obtain ⟨k, p, h⟩ := physWrite_eq s pa bs
  rw [h]
@[simp] theorem physWrite_tags (s : State) (pa : Nat) (bs : List Byte) : (physWrite s pa bs).tags = s.tags := by
  obtain ⟨k, p, h⟩ := physWrite_eq s pa bs
  rw [h]
@[simp] theorem physWrite_epoch (s : State) (pa : Nat) (bs : List Byte) : (physWrite s pa bs).epoch = s.epoch := by
  obtain ⟨k, p, h⟩ := physWrite_eq s pa bs
  rw [h]

/-! ### dropConstant -/

@[simp] theorem dropConstant_cur (s : State) (ca n : Nat) : (dropConstant s ca n).cur = s.cur := by
  obtain ⟨k, h⟩ := dropConstant_eq s ca n
  rw [h]
@[simp] theorem dropConstant_turn (s : State) (ca n : Nat) : (dropConstant s ca n).turn = s.turn := by
  obtain ⟨k, h⟩ := dropConstant_eq s ca n
  rw [h]
@[simp] theorem dropConstant_harts (s : State) (ca n : Nat) : (dropConstant s ca n).harts = s.harts := by
  obtain ⟨k, h⟩ := dropConstant_eq s ca n
  rw [h]
@[simp] theorem dropConstant_cores (s : State) (ca n : Nat) : (dropConstant s ca n).cores = s.cores := by
  obtain ⟨k, h⟩ := dropConstant_eq s ca n
  rw [h]
@[simp] theorem dropConstant_dies (s : State) (ca n : Nat) : (dropConstant s ca n).dies = s.dies := by
  obtain ⟨k, h⟩ := dropConstant_eq s ca n
  rw [h]
@[simp] theorem dropConstant_ctxs (s : State) (ca n : Nat) : (dropConstant s ca n).ctxs = s.ctxs := by
  obtain ⟨k, h⟩ := dropConstant_eq s ca n
  rw [h]
@[simp] theorem dropConstant_queues (s : State) (ca n : Nat) : (dropConstant s ca n).queues = s.queues := by
  obtain ⟨k, h⟩ := dropConstant_eq s ca n
  rw [h]
@[simp] theorem dropConstant_engines (s : State) (ca n : Nat) : (dropConstant s ca n).engines = s.engines := by
  obtain ⟨k, h⟩ := dropConstant_eq s ca n
  rw [h]
@[simp] theorem dropConstant_links (s : State) (ca n : Nat) : (dropConstant s ca n).links = s.links := by
  obtain ⟨k, h⟩ := dropConstant_eq s ca n
  rw [h]
@[simp] theorem dropConstant_mem (s : State) (ca n : Nat) : (dropConstant s ca n).mem = s.mem := by
  obtain ⟨k, h⟩ := dropConstant_eq s ca n
  rw [h]
@[simp] theorem dropConstant_pools (s : State) (ca n : Nat) : (dropConstant s ca n).pools = s.pools := by
  obtain ⟨k, h⟩ := dropConstant_eq s ca n
  rw [h]
@[simp] theorem dropConstant_l2 (s : State) (ca n : Nat) : (dropConstant s ca n).l2 = s.l2 := by
  obtain ⟨k, h⟩ := dropConstant_eq s ca n
  rw [h]
@[simp] theorem dropConstant_poison (s : State) (ca n : Nat) : (dropConstant s ca n).poison = s.poison := by
  obtain ⟨k, h⟩ := dropConstant_eq s ca n
  rw [h]
@[simp] theorem dropConstant_poolPoison (s : State) (ca n : Nat) : (dropConstant s ca n).poolPoison = s.poolPoison := by
  obtain ⟨k, h⟩ := dropConstant_eq s ca n
  rw [h]
@[simp] theorem dropConstant_cells (s : State) (ca n : Nat) : (dropConstant s ca n).cells = s.cells := by
  obtain ⟨k, h⟩ := dropConstant_eq s ca n
  rw [h]
@[simp] theorem dropConstant_watches (s : State) (ca n : Nat) : (dropConstant s ca n).watches = s.watches := by
  obtain ⟨k, h⟩ := dropConstant_eq s ca n
  rw [h]
@[simp] theorem dropConstant_combine (s : State) (ca n : Nat) : (dropConstant s ca n).combine = s.combine := by
  obtain ⟨k, h⟩ := dropConstant_eq s ca n
  rw [h]
@[simp] theorem dropConstant_module (s : State) (ca n : Nat) : (dropConstant s ca n).module = s.module := by
  obtain ⟨k, h⟩ := dropConstant_eq s ca n
  rw [h]
@[simp] theorem dropConstant_events (s : State) (ca n : Nat) : (dropConstant s ca n).events = s.events := by
  obtain ⟨k, h⟩ := dropConstant_eq s ca n
  rw [h]
@[simp] theorem dropConstant_inputs (s : State) (ca n : Nat) : (dropConstant s ca n).inputs = s.inputs := by
  obtain ⟨k, h⟩ := dropConstant_eq s ca n
  rw [h]
@[simp] theorem dropConstant_arbiter (s : State) (ca n : Nat) : (dropConstant s ca n).arbiter = s.arbiter := by
  obtain ⟨k, h⟩ := dropConstant_eq s ca n
  rw [h]
@[simp] theorem dropConstant_tick (s : State) (ca n : Nat) : (dropConstant s ca n).tick = s.tick := by
  obtain ⟨k, h⟩ := dropConstant_eq s ca n
  rw [h]
@[simp] theorem dropConstant_clock (s : State) (ca n : Nat) : (dropConstant s ca n).clock = s.clock := by
  obtain ⟨k, h⟩ := dropConstant_eq s ca n
  rw [h]
@[simp] theorem dropConstant_tags (s : State) (ca n : Nat) : (dropConstant s ca n).tags = s.tags := by
  obtain ⟨k, h⟩ := dropConstant_eq s ca n
  rw [h]
@[simp] theorem dropConstant_epoch (s : State) (ca n : Nat) : (dropConstant s ca n).epoch = s.epoch := by
  obtain ⟨k, h⟩ := dropConstant_eq s ca n
  rw [h]

/-! ### touchHome -/

@[simp] theorem touchHome_cur (s : State) (ca n : Nat) (w r : Bool) : (touchHome s ca n w r).cur = s.cur := by
  obtain ⟨k, h⟩ := touchHome_eq s ca n w r
  rw [h]
@[simp] theorem touchHome_turn (s : State) (ca n : Nat) (w r : Bool) : (touchHome s ca n w r).turn = s.turn := by
  obtain ⟨k, h⟩ := touchHome_eq s ca n w r
  rw [h]
@[simp] theorem touchHome_harts (s : State) (ca n : Nat) (w r : Bool) : (touchHome s ca n w r).harts = s.harts := by
  obtain ⟨k, h⟩ := touchHome_eq s ca n w r
  rw [h]
@[simp] theorem touchHome_cores (s : State) (ca n : Nat) (w r : Bool) : (touchHome s ca n w r).cores = s.cores := by
  obtain ⟨k, h⟩ := touchHome_eq s ca n w r
  rw [h]
@[simp] theorem touchHome_clusters (s : State) (ca n : Nat) (w r : Bool) : (touchHome s ca n w r).clusters = s.clusters := by
  obtain ⟨k, h⟩ := touchHome_eq s ca n w r
  rw [h]
@[simp] theorem touchHome_dies (s : State) (ca n : Nat) (w r : Bool) : (touchHome s ca n w r).dies = s.dies := by
  obtain ⟨k, h⟩ := touchHome_eq s ca n w r
  rw [h]
@[simp] theorem touchHome_ctxs (s : State) (ca n : Nat) (w r : Bool) : (touchHome s ca n w r).ctxs = s.ctxs := by
  obtain ⟨k, h⟩ := touchHome_eq s ca n w r
  rw [h]
@[simp] theorem touchHome_queues (s : State) (ca n : Nat) (w r : Bool) : (touchHome s ca n w r).queues = s.queues := by
  obtain ⟨k, h⟩ := touchHome_eq s ca n w r
  rw [h]
@[simp] theorem touchHome_engines (s : State) (ca n : Nat) (w r : Bool) : (touchHome s ca n w r).engines = s.engines := by
  obtain ⟨k, h⟩ := touchHome_eq s ca n w r
  rw [h]
@[simp] theorem touchHome_links (s : State) (ca n : Nat) (w r : Bool) : (touchHome s ca n w r).links = s.links := by
  obtain ⟨k, h⟩ := touchHome_eq s ca n w r
  rw [h]
@[simp] theorem touchHome_mem (s : State) (ca n : Nat) (w r : Bool) : (touchHome s ca n w r).mem = s.mem := by
  obtain ⟨k, h⟩ := touchHome_eq s ca n w r
  rw [h]
@[simp] theorem touchHome_pools (s : State) (ca n : Nat) (w r : Bool) : (touchHome s ca n w r).pools = s.pools := by
  obtain ⟨k, h⟩ := touchHome_eq s ca n w r
  rw [h]
@[simp] theorem touchHome_poison (s : State) (ca n : Nat) (w r : Bool) : (touchHome s ca n w r).poison = s.poison := by
  obtain ⟨k, h⟩ := touchHome_eq s ca n w r
  rw [h]
@[simp] theorem touchHome_poolPoison (s : State) (ca n : Nat) (w r : Bool) : (touchHome s ca n w r).poolPoison = s.poolPoison := by
  obtain ⟨k, h⟩ := touchHome_eq s ca n w r
  rw [h]
@[simp] theorem touchHome_cells (s : State) (ca n : Nat) (w r : Bool) : (touchHome s ca n w r).cells = s.cells := by
  obtain ⟨k, h⟩ := touchHome_eq s ca n w r
  rw [h]
@[simp] theorem touchHome_watches (s : State) (ca n : Nat) (w r : Bool) : (touchHome s ca n w r).watches = s.watches := by
  obtain ⟨k, h⟩ := touchHome_eq s ca n w r
  rw [h]
@[simp] theorem touchHome_combine (s : State) (ca n : Nat) (w r : Bool) : (touchHome s ca n w r).combine = s.combine := by
  obtain ⟨k, h⟩ := touchHome_eq s ca n w r
  rw [h]
@[simp] theorem touchHome_module (s : State) (ca n : Nat) (w r : Bool) : (touchHome s ca n w r).module = s.module := by
  obtain ⟨k, h⟩ := touchHome_eq s ca n w r
  rw [h]
@[simp] theorem touchHome_events (s : State) (ca n : Nat) (w r : Bool) : (touchHome s ca n w r).events = s.events := by
  obtain ⟨k, h⟩ := touchHome_eq s ca n w r
  rw [h]
@[simp] theorem touchHome_inputs (s : State) (ca n : Nat) (w r : Bool) : (touchHome s ca n w r).inputs = s.inputs := by
  obtain ⟨k, h⟩ := touchHome_eq s ca n w r
  rw [h]
@[simp] theorem touchHome_arbiter (s : State) (ca n : Nat) (w r : Bool) : (touchHome s ca n w r).arbiter = s.arbiter := by
  obtain ⟨k, h⟩ := touchHome_eq s ca n w r
  rw [h]
@[simp] theorem touchHome_tick (s : State) (ca n : Nat) (w r : Bool) : (touchHome s ca n w r).tick = s.tick := by
  obtain ⟨k, h⟩ := touchHome_eq s ca n w r
  rw [h]
@[simp] theorem touchHome_clock (s : State) (ca n : Nat) (w r : Bool) : (touchHome s ca n w r).clock = s.clock := by
  obtain ⟨k, h⟩ := touchHome_eq s ca n w r
  rw [h]
@[simp] theorem touchHome_tags (s : State) (ca n : Nat) (w r : Bool) : (touchHome s ca n w r).tags = s.tags := by
  obtain ⟨k, h⟩ := touchHome_eq s ca n w r
  rw [h]
@[simp] theorem touchHome_epoch (s : State) (ca n : Nat) (w r : Bool) : (touchHome s ca n w r).epoch = s.epoch := by
  obtain ⟨k, h⟩ := touchHome_eq s ca n w r
  rw [h]

/-! ### clearPoison -/

@[simp] theorem clearPoison_cur (s : State) (ca n : Nat) : (clearPoison s ca n).cur = s.cur := rfl
@[simp] theorem clearPoison_turn (s : State) (ca n : Nat) : (clearPoison s ca n).turn = s.turn := rfl
@[simp] theorem clearPoison_harts (s : State) (ca n : Nat) : (clearPoison s ca n).harts = s.harts := rfl
@[simp] theorem clearPoison_cores (s : State) (ca n : Nat) : (clearPoison s ca n).cores = s.cores := rfl
@[simp] theorem clearPoison_clusters (s : State) (ca n : Nat) : (clearPoison s ca n).clusters = s.clusters := rfl
@[simp] theorem clearPoison_dies (s : State) (ca n : Nat) : (clearPoison s ca n).dies = s.dies := rfl
@[simp] theorem clearPoison_ctxs (s : State) (ca n : Nat) : (clearPoison s ca n).ctxs = s.ctxs := rfl
@[simp] theorem clearPoison_queues (s : State) (ca n : Nat) : (clearPoison s ca n).queues = s.queues := rfl
@[simp] theorem clearPoison_engines (s : State) (ca n : Nat) : (clearPoison s ca n).engines = s.engines := rfl
@[simp] theorem clearPoison_links (s : State) (ca n : Nat) : (clearPoison s ca n).links = s.links := rfl
@[simp] theorem clearPoison_mem (s : State) (ca n : Nat) : (clearPoison s ca n).mem = s.mem := rfl
@[simp] theorem clearPoison_pools (s : State) (ca n : Nat) : (clearPoison s ca n).pools = s.pools := rfl
@[simp] theorem clearPoison_l2 (s : State) (ca n : Nat) : (clearPoison s ca n).l2 = s.l2 := rfl
@[simp] theorem clearPoison_poolPoison (s : State) (ca n : Nat) : (clearPoison s ca n).poolPoison = s.poolPoison := rfl
@[simp] theorem clearPoison_cells (s : State) (ca n : Nat) : (clearPoison s ca n).cells = s.cells := rfl
@[simp] theorem clearPoison_watches (s : State) (ca n : Nat) : (clearPoison s ca n).watches = s.watches := rfl
@[simp] theorem clearPoison_combine (s : State) (ca n : Nat) : (clearPoison s ca n).combine = s.combine := rfl
@[simp] theorem clearPoison_module (s : State) (ca n : Nat) : (clearPoison s ca n).module = s.module := rfl
@[simp] theorem clearPoison_events (s : State) (ca n : Nat) : (clearPoison s ca n).events = s.events := rfl
@[simp] theorem clearPoison_inputs (s : State) (ca n : Nat) : (clearPoison s ca n).inputs = s.inputs := rfl
@[simp] theorem clearPoison_arbiter (s : State) (ca n : Nat) : (clearPoison s ca n).arbiter = s.arbiter := rfl
@[simp] theorem clearPoison_tick (s : State) (ca n : Nat) : (clearPoison s ca n).tick = s.tick := rfl
@[simp] theorem clearPoison_clock (s : State) (ca n : Nat) : (clearPoison s ca n).clock = s.clock := rfl
@[simp] theorem clearPoison_tags (s : State) (ca n : Nat) : (clearPoison s ca n).tags = s.tags := rfl
@[simp] theorem clearPoison_epoch (s : State) (ca n : Nat) : (clearPoison s ca n).epoch = s.epoch := rfl

/-! ### clearPoolPoison -/

@[simp] theorem clearPoolPoison_cur (s : State) (c off n : Nat) : (clearPoolPoison s c off n).cur = s.cur := rfl
@[simp] theorem clearPoolPoison_turn (s : State) (c off n : Nat) : (clearPoolPoison s c off n).turn = s.turn := rfl
@[simp] theorem clearPoolPoison_harts (s : State) (c off n : Nat) : (clearPoolPoison s c off n).harts = s.harts := rfl
@[simp] theorem clearPoolPoison_cores (s : State) (c off n : Nat) : (clearPoolPoison s c off n).cores = s.cores := rfl
@[simp] theorem clearPoolPoison_clusters (s : State) (c off n : Nat) : (clearPoolPoison s c off n).clusters = s.clusters := rfl
@[simp] theorem clearPoolPoison_dies (s : State) (c off n : Nat) : (clearPoolPoison s c off n).dies = s.dies := rfl
@[simp] theorem clearPoolPoison_ctxs (s : State) (c off n : Nat) : (clearPoolPoison s c off n).ctxs = s.ctxs := rfl
@[simp] theorem clearPoolPoison_queues (s : State) (c off n : Nat) : (clearPoolPoison s c off n).queues = s.queues := rfl
@[simp] theorem clearPoolPoison_engines (s : State) (c off n : Nat) : (clearPoolPoison s c off n).engines = s.engines := rfl
@[simp] theorem clearPoolPoison_links (s : State) (c off n : Nat) : (clearPoolPoison s c off n).links = s.links := rfl
@[simp] theorem clearPoolPoison_mem (s : State) (c off n : Nat) : (clearPoolPoison s c off n).mem = s.mem := rfl
@[simp] theorem clearPoolPoison_pools (s : State) (c off n : Nat) : (clearPoolPoison s c off n).pools = s.pools := rfl
@[simp] theorem clearPoolPoison_l2 (s : State) (c off n : Nat) : (clearPoolPoison s c off n).l2 = s.l2 := rfl
@[simp] theorem clearPoolPoison_poison (s : State) (c off n : Nat) : (clearPoolPoison s c off n).poison = s.poison := rfl
@[simp] theorem clearPoolPoison_cells (s : State) (c off n : Nat) : (clearPoolPoison s c off n).cells = s.cells := rfl
@[simp] theorem clearPoolPoison_watches (s : State) (c off n : Nat) : (clearPoolPoison s c off n).watches = s.watches := rfl
@[simp] theorem clearPoolPoison_combine (s : State) (c off n : Nat) : (clearPoolPoison s c off n).combine = s.combine := rfl
@[simp] theorem clearPoolPoison_module (s : State) (c off n : Nat) : (clearPoolPoison s c off n).module = s.module := rfl
@[simp] theorem clearPoolPoison_events (s : State) (c off n : Nat) : (clearPoolPoison s c off n).events = s.events := rfl
@[simp] theorem clearPoolPoison_inputs (s : State) (c off n : Nat) : (clearPoolPoison s c off n).inputs = s.inputs := rfl
@[simp] theorem clearPoolPoison_arbiter (s : State) (c off n : Nat) : (clearPoolPoison s c off n).arbiter = s.arbiter := rfl
@[simp] theorem clearPoolPoison_tick (s : State) (c off n : Nat) : (clearPoolPoison s c off n).tick = s.tick := rfl
@[simp] theorem clearPoolPoison_clock (s : State) (c off n : Nat) : (clearPoolPoison s c off n).clock = s.clock := rfl
@[simp] theorem clearPoolPoison_tags (s : State) (c off n : Nat) : (clearPoolPoison s c off n).tags = s.tags := rfl
@[simp] theorem clearPoolPoison_epoch (s : State) (c off n : Nat) : (clearPoolPoison s c off n).epoch = s.epoch := rfl

/-! ### setSlot -/

@[simp] theorem setSlot_turn (s : State) (h : HartId) (x : Slot) : (setSlot s h x).turn = s.turn := by
  unfold setSlot; split <;> rfl
@[simp] theorem setSlot_cores (s : State) (h : HartId) (x : Slot) : (setSlot s h x).cores = s.cores := by
  unfold setSlot; split <;> rfl
@[simp] theorem setSlot_clusters (s : State) (h : HartId) (x : Slot) : (setSlot s h x).clusters = s.clusters := by
  unfold setSlot; split <;> rfl
@[simp] theorem setSlot_dies (s : State) (h : HartId) (x : Slot) : (setSlot s h x).dies = s.dies := by
  unfold setSlot; split <;> rfl
@[simp] theorem setSlot_ctxs (s : State) (h : HartId) (x : Slot) : (setSlot s h x).ctxs = s.ctxs := by
  unfold setSlot; split <;> rfl
@[simp] theorem setSlot_queues (s : State) (h : HartId) (x : Slot) : (setSlot s h x).queues = s.queues := by
  unfold setSlot; split <;> rfl
@[simp] theorem setSlot_engines (s : State) (h : HartId) (x : Slot) : (setSlot s h x).engines = s.engines := by
  unfold setSlot; split <;> rfl
@[simp] theorem setSlot_links (s : State) (h : HartId) (x : Slot) : (setSlot s h x).links = s.links := by
  unfold setSlot; split <;> rfl
@[simp] theorem setSlot_mem (s : State) (h : HartId) (x : Slot) : (setSlot s h x).mem = s.mem := by
  unfold setSlot; split <;> rfl
@[simp] theorem setSlot_pools (s : State) (h : HartId) (x : Slot) : (setSlot s h x).pools = s.pools := by
  unfold setSlot; split <;> rfl
@[simp] theorem setSlot_l2 (s : State) (h : HartId) (x : Slot) : (setSlot s h x).l2 = s.l2 := by
  unfold setSlot; split <;> rfl
@[simp] theorem setSlot_poison (s : State) (h : HartId) (x : Slot) : (setSlot s h x).poison = s.poison := by
  unfold setSlot; split <;> rfl
@[simp] theorem setSlot_poolPoison (s : State) (h : HartId) (x : Slot) : (setSlot s h x).poolPoison = s.poolPoison := by
  unfold setSlot; split <;> rfl
@[simp] theorem setSlot_cells (s : State) (h : HartId) (x : Slot) : (setSlot s h x).cells = s.cells := by
  unfold setSlot; split <;> rfl
@[simp] theorem setSlot_watches (s : State) (h : HartId) (x : Slot) : (setSlot s h x).watches = s.watches := by
  unfold setSlot; split <;> rfl
@[simp] theorem setSlot_combine (s : State) (h : HartId) (x : Slot) : (setSlot s h x).combine = s.combine := by
  unfold setSlot; split <;> rfl
@[simp] theorem setSlot_module (s : State) (h : HartId) (x : Slot) : (setSlot s h x).module = s.module := by
  unfold setSlot; split <;> rfl
@[simp] theorem setSlot_events (s : State) (h : HartId) (x : Slot) : (setSlot s h x).events = s.events := by
  unfold setSlot; split <;> rfl
@[simp] theorem setSlot_inputs (s : State) (h : HartId) (x : Slot) : (setSlot s h x).inputs = s.inputs := by
  unfold setSlot; split <;> rfl
@[simp] theorem setSlot_arbiter (s : State) (h : HartId) (x : Slot) : (setSlot s h x).arbiter = s.arbiter := by
  unfold setSlot; split <;> rfl
@[simp] theorem setSlot_tick (s : State) (h : HartId) (x : Slot) : (setSlot s h x).tick = s.tick := by
  unfold setSlot; split <;> rfl
@[simp] theorem setSlot_clock (s : State) (h : HartId) (x : Slot) : (setSlot s h x).clock = s.clock := by
  unfold setSlot; split <;> rfl
@[simp] theorem setSlot_tags (s : State) (h : HartId) (x : Slot) : (setSlot s h x).tags = s.tags := by
  unfold setSlot; split <;> rfl
@[simp] theorem setSlot_epoch (s : State) (h : HartId) (x : Slot) : (setSlot s h x).epoch = s.epoch := by
  unfold setSlot; split <;> rfl

/-- Replacing the executing hart's slot. -/
theorem setSlot_turn_cur (s : State) (x : Slot) : setSlot s s.turn x = { s with cur := x } := by simp [setSlot]

/-- A hart's slot after it is replaced. -/
theorem slotOf_setSlot_self (s : State) (h : HartId) (x : Slot) : slotOf (setSlot s h x) h = x := by
  unfold slotOf setSlot
  split
  · simp
  · simp [mapGet_mapPut_self]

/-- Another hart's slot after one is replaced. -/
theorem slotOf_setSlot_other (s : State) (h g : HartId) (x : Slot) (e : g ≠ h) : slotOf (setSlot s h x) g = slotOf s g := by
  have e' : h.toNat ≠ g.toNat := fun q => e (BitVec.eq_of_toNat_eq q.symm)
  by_cases hg : g = s.turn <;> by_cases hh : h = s.turn
  · exact absurd (hg.trans hh.symm) e
  · simp [slotOf, setSlot, hg, hh]
  · simp [slotOf, setSlot, hg, hh]
  · simp [slotOf, setSlot, hg, hh, mapGet_mapPut_other _ _ _ _ _ e']

/-- A core after it is replaced. -/
@[simp] theorem coreOf_setCore_self (s : State) (c : Nat) (x : Core) : coreOf (setCore s c x) c = x := by
  simp [coreOf, mapGet_mapPut_self]

/-- Another core after one is replaced. -/
theorem coreOf_setCore_other (s : State) (c d : Nat) (x : Core) (e : d ≠ c) : coreOf (setCore s c x) d = coreOf s d := by
  simp [coreOf, mapGet_mapPut_other _ _ _ _ _ (Ne.symm e)]

/-- A cluster after it is replaced. -/
@[simp] theorem clusterAt_setCluster_self (s : State) (c : Nat) (x : Cluster) :
    clusterAt (setCluster s c x) c = x := by
  simp [clusterAt, mapGet_mapPut_self]

/-- A die after it is replaced. -/
@[simp] theorem dieOf_setDie_self (s : State) (d : Nat) (x : Die) : dieOf (setDie s d x) d = x := by
  simp [dieOf, mapGet_mapPut_self]

end Sys2Proof.Machine
end

