-- ==== Sys2Proof/Laws/Canonical.lean ====
section
/-!
SUPPORT. That the shared operations keep every memory in canonical form: one lemma for each operation over the state, and
for each operation of a meaning one that holds of whatever it answers. The last lemma carries it to a meaning as it runs.
-/
namespace Sys2Proof.Machine

/-! ### Operations that leave the memories as they are -/

theorem memOk_of_eq {s t : State} (hm : t.mem = s.mem) (hp : t.pools = s.pools) (hc : t.module.cfg = s.module.cfg) :
    t.memOk = s.memOk := by
  simp [State.memOk, hm, hp, hc]

@[simp] theorem cur_memOk (s : State) (x : Slot) : State.memOk { s with cur := x } = s.memOk := rfl
@[simp] theorem tags_memOk (s : State) (n : Nat) : State.memOk { s with tags := n } = s.memOk := rfl
@[simp] theorem events_memOk (s : State) (l : List Event) : State.memOk { s with events := l } = s.memOk := rfl
@[simp] theorem ctxs_memOk (s : State) (l : AMap Ctx) : State.memOk { s with ctxs := l } = s.memOk := rfl
@[simp] theorem poison_memOk (s : State) (l : AMap (BitVec 32)) : State.memOk { s with poison := l } = s.memOk := rfl
@[simp] theorem poolPoison_memOk (s : State) (l : AMap (BitVec 8)) :
    State.memOk { s with poolPoison := l } = s.memOk := rfl

@[simp] theorem setSlot_memOk (s : State) (h : HartId) (x : Slot) : (setSlot s h x).memOk = s.memOk := by
  unfold setSlot
  split <;> rfl

@[simp] theorem setCore_memOk (s : State) (c : Nat) (x : Core) : (setCore s c x).memOk = s.memOk := rfl
@[simp] theorem setCluster_memOk (s : State) (c : Nat) (x : Cluster) : (setCluster s c x).memOk = s.memOk := rfl
@[simp] theorem setDie_memOk (s : State) (d : Nat) (x : Die) : (setDie s d x).memOk = s.memOk := rfl
@[simp] theorem setQueue_memOk (s : State) (q : Nat) (x : LQueue) : (setQueue s q x).memOk = s.memOk := rfl
@[simp] theorem setEngine_memOk (s : State) (a : Nat) (x : Engine) : (setEngine s a x).memOk = s.memOk := rfl
@[simp] theorem setLink_memOk (s : State) (p : Nat) (x : Link) : (setLink s p x).memOk = s.memOk := rfl
@[simp] theorem setPlacement_memOk (s : State) (c : Nat) (p : Placement) : (setPlacement s c p).memOk = s.memOk := rfl
@[simp] theorem emit_memOk (s : State) (e : Event) : (emit s e).memOk = s.memOk := rfl
@[simp] theorem emitFirst_memOk (s : State) (e : Event) : (emitFirst s e).memOk = s.memOk := rfl
@[simp] theorem failStore_memOk (s : State) (h : HartId) (w r d : Bool) : (failStore s h w r d).memOk = s.memOk := by
  simp [failStore]
@[simp] theorem dropConstant_memOk (s : State) (ca n : Nat) : (dropConstant s ca n).memOk = s.memOk := by
  simp [State.memOk]
@[simp] theorem touchHome_memOk (s : State) (ca n : Nat) (w r : Bool) : (touchHome s ca n w r).memOk = s.memOk := by
  simp [State.memOk]
@[simp] theorem readHome_memOk (s : State) (ca n : Nat) : (readHome s ca n).memOk = s.memOk := touchHome_memOk _ _ _ _ _
@[simp] theorem clearPoison_memOk (s : State) (ca n : Nat) : (clearPoison s ca n).memOk = s.memOk := rfl
@[simp] theorem clearPoolPoison_memOk (s : State) (c o n : Nat) : (clearPoolPoison s c o n).memOk = s.memOk := rfl

/-- A fold of changes keeps what each of them keeps. -/
theorem foldl_memOk {α : Type} (f : State → α → State) (hf : ∀ s a, s.memOk = true → (f s a).memOk = true) (l : List α)
    (s : State) (h : s.memOk = true) : (l.foldl f s).memOk = true := by
  induction l generalizing s with
  | nil => exact h
  | cons a l ih => exact ih _ (hf s a h)

/-! ### Operations that write -/

theorem memWrite_memOk {s : State} (a : Nat) (bs : List Byte) (h : s.memOk = true) :
    State.memOk { s with mem := memWrite s.mem a bs } = true := by
  simp only [State.memOk, Bool.and_eq_true] at h ⊢
  exact ⟨⟨memWrite_wf a bs h.1.1, h.1.2⟩, h.2⟩

theorem cfgWrite_memOk {s : State} (a : Nat) (bs : List Byte) (h : s.memOk = true) :
    State.memOk { s with module := { s.module with cfg := memWrite s.module.cfg a bs } } = true := by
  simp only [State.memOk, Bool.and_eq_true] at h ⊢
  exact ⟨h.1, memWrite_wf a bs h.2⟩

theorem physWrite_memOk {s : State} (pa : Nat) (bs : List Byte) (h : s.memOk = true) :
    (physWrite s pa bs).memOk = true := by
  simp only [State.memOk, Bool.and_eq_true] at h ⊢
  exact ⟨⟨physWrite_wf pa bs h.1.1, by simpa using h.1.2⟩, by simpa using h.2⟩

theorem poolWrite_memOk {s : State} (c o : Nat) (bs : List Byte) (h : s.memOk = true) :
    (poolWrite s c o bs).memOk = true := by
  simp only [State.memOk, Bool.and_eq_true] at h ⊢
  exact ⟨⟨h.1.1, poolWrite_wf c o bs h.1.2⟩, h.2⟩

/-- What publishing does to a state's memories: nothing. -/
theorem closeBatch_memOk {s : State} (c i : Nat) (h : s.memOk = true) : (closeBatch s c i).memOk = true := by
  unfold closeBatch
  dsimp only
  split
  · exact h
  · split
    · exact h
    · exact h

theorem closeBatches_memOk {s : State} (c : Nat) (h : s.memOk = true) : (closeBatches s c).memOk = true :=
  foldl_memOk _ (fun _ _ h => closeBatch_memOk _ _ h) _ _ h

theorem batchByte_memOk {s : State} (c o : Nat) (b : Byte) (i : Nat) (h : s.memOk = true) :
    (batchByte c o b s i).memOk = true := by
  have hb := closeBatch_memOk c i h
  unfold batchByte
  dsimp only
  repeat' split
  all_goals first | exact h | exact hb

theorem publish_memOk {s : State} (c o : Nat) (bs : List Byte) (h : s.memOk = true) : (publish s c o bs).memOk = true := by
  induction bs generalizing s o with
  | nil => exact h
  | cons b bs ih => exact ih (o + 1) (foldl_memOk _ (fun _ _ h => batchByte_memOk _ _ _ _ h) _ _ h)

theorem poolPerform_memOk {s : State} (c o : Nat) (bs : List Byte) (h : s.memOk = true) :
    (poolPerform s c o bs).memOk = true := by
  exact publish_memOk _ _ _ (poolWrite_memOk c o bs h)

theorem afterWrite_memOk {s : State} (ca n : Nat) (h : s.memOk = true) : (afterWrite s ca n).memOk = true := by
  unfold afterWrite
  dsimp only
  split <;> simpa using h

theorem homeWrite_memOk {s : State} (ca : Nat) (bs : List Byte) (h : s.memOk = true) : (homeWrite s ca bs).memOk = true := by
  unfold homeWrite
  apply afterWrite_memOk
  rw [clearPoison_memOk, dropConstant_memOk, touchHome_memOk]
  exact memWrite_memOk ca bs h

theorem setHeadTail_memOk {s : State} (l : Loc) (a b : Nat) (h : s.memOk = true) : (setHeadTail s l a b).memOk = true := by
  unfold setHeadTail
  dsimp only
  split
  · exact homeWrite_memOk _ _ h
  · exact cfgWrite_memOk _ _ h
  · exact h

/-- A ring entry that cannot be reached is a refusal. -/
theorem entryOf_error {s : State} {root c : Nat} {sup : Bool} {q : QHeader} {op : QueueOp} {a : QAnswer}
    (h : entryOf s root sup q op c = .error a) : ∃ x r g, a = .refuse x r g := by
  unfold entryOf at h
  dsimp only at h
  split at h
  · cases h
  · cases h
    exact ⟨_, _, _, rfl⟩

/-- A queue operation that is answered with a value keeps the memories in canonical form. -/
theorem enqHome_memOk {s t : State} {l : Loc} {root b v : Nat} {sup : Bool} (h : s.memOk = true)
    (e : enqHome s l root sup b = .value v t) : t.memOk = true := by
  unfold enqHome at e
  dsimp only at e
  repeat' split at e
  all_goals first
    | (cases e <;> first | exact h | exact setHeadTail_memOk _ _ _ (homeWrite_memOk _ _ h))
    | (obtain ⟨_, _, _, rfl⟩ := entryOf_error ‹_›; cases e)

theorem deqHome_memOk {s t : State} {l : Loc} {root v : Nat} {sup : Bool} (h : s.memOk = true)
    (e : deqHome s l root sup = .value v t) : t.memOk = true := by
  unfold deqHome at e
  dsimp only at e
  repeat' split at e
  all_goals first
    | (cases e <;> first | exact h | exact setHeadTail_memOk _ _ _ h)
    | (obtain ⟨_, _, _, rfl⟩ := entryOf_error ‹_›; cases e)

theorem seqenqHome_memOk {s t : State} {l : Loc} {root b c v : Nat} {sup : Bool} (h : s.memOk = true)
    (e : seqenqHome s l root sup b c = .value v t) : t.memOk = true := by
  unfold seqenqHome at e
  dsimp only at e
  repeat' split at e
  all_goals first
    | (cases e <;> first | exact h | exact setHeadTail_memOk _ _ _ (homeWrite_memOk _ _ h))
    | (obtain ⟨_, _, _, rfl⟩ := entryOf_error ‹_›; cases e)

theorem seqdeqHome_memOk {s t : State} {l : Loc} {root v : Nat} {sup : Bool} (h : s.memOk = true)
    (e : seqdeqHome s l root sup = .value v t) : t.memOk = true := by
  unfold seqdeqHome at e
  dsimp only at e
  repeat' split at e
  all_goals first
    | (cases e <;> first | exact h | exact setHeadTail_memOk _ _ _ (homeWrite_memOk _ _ h))
    | (obtain ⟨_, _, _, rfl⟩ := entryOf_error ‹_›; cases e)

@[simp] theorem noteWalkAt_memOk (s : State) (n root va : Nat) : (noteWalkAt s n root va).memOk = s.memOk := by
  unfold noteWalkAt
  split <;> simp

@[simp] theorem noteRing_memOk (s : State) (l : Loc) (root : Nat) (g : Option Nat) :
    (noteRing s l root g).memOk = s.memOk := by
  unfold noteRing
  dsimp only
  split <;> simp

theorem fileReport_memOk {s : State} (d : Nat) (r : List Byte) (h : s.memOk = true) : (fileReport s d r).memOk = true := by
  unfold fileReport
  dsimp only
  split
  · rename_i e
    exact physWrite_memOk _ _ (enqHome_memOk (s := setDie s d _) h e)
  · exact h

theorem report_memOk {s : State} (d k u p n x : Nat) (c : Bool) (h : s.memOk = true) :
    (report s d k u p n x c).memOk = true := fileReport_memOk _ _ h

theorem enqFor_memOk {s : State} (g : Nat) (c : BitVec 16) (a : Addr) (v : W) (h : s.memOk = true) :
    (enqFor s g c a v).memOk = true := by
  unfold enqFor
  split
  · simpa using h
  · split
    · rename_i e
      exact enqHome_memOk h e
    · simpa using h

theorem writeRecord_memOk {s : State} (g : Nat) (c : BitVec 16) (a : W) (bs : List Byte) (h : s.memOk = true) :
    (writeRecord s g c a bs).memOk = true := by
  unfold writeRecord
  split
  · exact homeWrite_memOk _ _ h
  · simpa using h

/-! ### The L1 -/

@[simp] theorem performedBy_memOk (s : State) (h : HartId) (ca : Nat) (bs : List Byte) :
    (performedBy s h ca bs).memOk = s.memOk := rfl
@[simp] theorem noteStore_memOk (s : State) (h : HartId) (ca n : Nat) : (noteStore s h ca n).memOk = s.memOk :=
  setSlot_memOk _ _ _
@[simp] theorem countMiss_memOk (s : State) (c : Nat) : (countMiss s c).memOk = s.memOk := rfl

theorem writeBack_memOk {s : State} (l : L1Line) (h : s.memOk = true) : (writeBack s l).memOk = true := by
  unfold writeBack
  split
  · exact h
  · split
    · simpa using h
    · exact homeWrite_memOk _ _ (by simpa using h)

theorem installLine_memOk {s : State} (c : Nat) (l : L1Line) (h : s.memOk = true) : (installLine s c l).memOk = true := by
  unfold installLine
  dsimp only
  exact foldl_memOk _ (fun _ _ h => writeBack_memOk _ h) _ _ (by simpa using h)

@[simp] theorem dropShared_memOk (s : State) (c : Nat) : (dropShared s c).memOk = s.memOk := rfl

theorem flushDirty_memOk {s : State} (c : Nat) (h : s.memOk = true) : (flushDirty s c).memOk = true := by
  unfold flushDirty
  dsimp only
  exact foldl_memOk _ (fun _ _ h => writeBack_memOk _ h) _ _ (by simpa using h)

theorem cleanLines_memOk {s : State} (c : Nat) (ls : List Nat) (b : Bool) (h : s.memOk = true) :
    (cleanLines s c ls b).memOk = true := by
  unfold cleanLines
  dsimp only
  exact foldl_memOk _ (fun _ _ h => writeBack_memOk _ h) _ _ (by simpa using h)

theorem evictOf_memOk {s : State} (k : HartId) (ca n : Nat) (h : s.memOk = true) : (evictOf s k ca n).memOk = true := by
  unfold evictOf
  split
  · exact cleanLines_memOk _ _ _ h
  · exact h

/-- A store of a hart keeps every memory in canonical form. -/
theorem storeOf_memOk {s : State} (k : HartId) (c : BitVec 16) (l : Loc) (b : Bool) (bs : List Byte) (h : s.memOk = true) :
    (storeOf s k c l b bs).memOk = true := by
  unfold storeOf
  dsimp only
  split
  · split
    · refine installLine_memOk _ _ ?_
      split <;> simpa using h
    · simpa using h
  · split
    · exact poolPerform_memOk _ _ _ h
    · exact h
  · split <;> exact h
  · split
    · simpa using h
    · exact h

/-! ### Taking an exception and returning -/

theorem deliver_memOk {s : State} (r : Delivery) (h : s.memOk = true) : (deliver s r).memOk = true := by
  have hs : ∀ (x : Slot) (l : Loc) (b : Bool) (bs : List Byte) (c : BitVec 16),
      (storeOf (setSlot s r.h x) r.h c l b bs).memOk = true := fun _ _ _ _ _ => storeOf_memOk _ _ _ _ _ (by simpa using h)
  unfold deliver
  extract_lets x fill y u
  split
  · split
    · exact (setSlot_memOk _ _ _).trans (hs _ _ _ _ _)
    · exact hs _ _ _ _ _
  · simpa [u] using h

theorem deliverCommitted_memOk {s : State} (k : HartId) (h : s.memOk = true) : (deliverCommitted s k).memOk = true := by
  unfold deliverCommitted
  dsimp only
  exact foldl_memOk _ (fun _ _ h => deliver_memOk _ h) _ _ h

@[simp] theorem withdraw_memOk (s : State) (h : HartId) : (withdraw s h).memOk = s.memOk := by
  unfold withdraw
  dsimp only
  split <;> simp

theorem rollback_memOk {s : State} (k : HartId) (h : s.memOk = true) : (rollback s k).memOk = true := by
  unfold rollback
  dsimp only
  rw [withdraw_memOk, setSlot_memOk]
  exact deliverCommitted_memOk k h

@[simp] theorem releaseLanes_memOk (s : State) (h : HartId) : (releaseLanes s h).memOk = s.memOk := by
  unfold releaseLanes
  dsimp only
  repeat' split
  all_goals simp

@[simp] theorem releaseLease_memOk (s : State) (h : HartId) : (releaseLease s h).memOk = s.memOk := by
  unfold releaseLease
  dsimp only
  repeat' split
  all_goals simp

@[simp] theorem releaseOslots_memOk (s : State) (h : HartId) (c : BitVec 16) (k : Nat → Bool) :
    (releaseOslots s h c k).memOk = s.memOk := by
  unfold releaseOslots
  dsimp only
  split <;> simp

@[simp] theorem endLanding_memOk (s : State) (h : HartId) : (endLanding s h).memOk = s.memOk := by
  unfold endLanding
  dsimp only
  repeat' split
  all_goals simp

@[simp] theorem setExchange_memOk (s : State) (h : HartId) (b : Bool) : (setExchange s h b).memOk = s.memOk := by
  unfold setExchange
  dsimp only
  repeat' split
  all_goals simp

@[simp] theorem noteWalk_memOk (s : State) (h : HartId) (c : Cause) (i : W) : (noteWalk s h c i).memOk = s.memOk := by
  unfold noteWalk
  split <;> simp

@[simp] theorem endJob_memOk (s : State) (a : Nat) (x y : BitVec 8) (d : W) : (endJob s a x y d).memOk = s.memOk := by
  unfold endJob
  dsimp only
  split <;> simp

@[simp] theorem forgetBarrier_memOk (s : State) (c : BitVec 16) (h : HartId) : (forgetBarrier s c h).memOk = s.memOk := by
  unfold forgetBarrier
  split <;> rfl

@[simp] theorem requestResume_memOk (s : State) (h : HartId) : (requestResume s h).memOk = s.memOk := by
  unfold requestResume
  dsimp only
  split <;> simp

theorem kernelCrash_memOk {s : State} (c : BitVec 8) (h : s.memOk = true) : (kernelCrash s c).memOk = true := by
  unfold kernelCrash
  split
  · exact h
  · exact foldl_memOk (fun (s : State) (d : Nat) => setDie s d _) (fun _ _ h => h) (List.range 4) s h

theorem saveVectors_memOk {s : State} (c b : Nat) (x : Slot) (h : s.memOk = true) : (saveVectors s c b x).memOk = true := by
  unfold saveVectors
  dsimp only
  exact foldl_memOk _ (fun _ _ h => foldl_memOk _ (fun _ _ h => poolWrite_memOk _ _ _ h) _ _ h) _ _
    (poolWrite_memOk _ _ _ (foldl_memOk _ (fun _ _ h => poolWrite_memOk _ _ _ h) _ _ h))

theorem crashAt_memOk {s : State} (k : HartId) (c : BitVec 8) (h : s.memOk = true) : (crashAt s k c).memOk = true :=
  kernelCrash_memOk _ (by simpa using h)

theorem spillOne_memOk {s : State} (k : Nat) (m : Msg) (h : s.memOk = true) : (spillOne k s m).memOk = true := by
  unfold spillOne
  dsimp only
  repeat' split
  · exact h
  · simpa using physWrite_memOk _ _ h
  · exact report_memOk _ _ _ _ _ _ _ (by simpa using h)

theorem spillMessages_memOk {s : State} (k : Nat) (c : BitVec 16) (h : s.memOk = true) :
    (spillMessages s k c).memOk = true := by
  have hf : ∀ (x : Core) (l : List Msg), (l.foldl (spillOne k) (setCore s k x)).memOk = true := fun x l =>
    foldl_memOk _ (fun _ m h => spillOne_memOk k m h) _ _ (by simpa using h)
  unfold spillMessages
  extract_lets x n u v
  split
  · exact (setPlacement_memOk _ _ _).trans (hf _ _)
  · exact hf _ _

@[simp] theorem unspillMessages_memOk (s : State) (k : Nat) (c : BitVec 16) :
    (unspillMessages s k c).memOk = s.memOk := by
  unfold unspillMessages
  split <;> simp

theorem replayEntry_memOk {s : State} (k : Nat) (p : Placement) (n : LogNote) (bs : List Byte) (h : s.memOk = true) :
    (replayEntry s k p n bs).memOk = true := by
  unfold replayEntry
  dsimp only
  split
  · exact h
  · exact foldl_memOk _ (fun _ _ h => poolPerform_memOk _ _ _ h) _ _ h

theorem replayLog_memOk {s : State} (k : Nat) (c : BitVec 16) (h : s.memOk = true) : (replayLog s k c).memOk = true := by
  unfold replayLog
  split
  · exact h
  · rename_i p _
    rcases updateLog s k p with ⟨base, size⟩
    simp only
    have H := foldl_memOk (fun (s : State) (q : LogNote × Nat) =>
      if size = 0 ∨ poisonedPhys s (base + 64 * q.2) 64 = true then s
      else replayEntry s k p q.1 (physRead s (base + 64 * q.2) 64)) (fun s q h => by
        split
        · exact h
        · exact replayEntry_memOk _ _ _ _ h) p.logged.zipIdx s h
    split
    · exact H
    · rw [setPlacement_memOk]
      exact H

theorem endAbsence_memOk {s : State} (k : Nat) (c : BitVec 16) (h : s.memOk = true) : (endAbsence s k c).memOk = true := by
  unfold endAbsence
  repeat' split
  all_goals first
    | exact h
    | exact replayLog_memOk _ _ (by simpa using h)

theorem writeSaveArea_memOk {s : State} (h : HartId) (b : Bool) (x : Slot) (hs : s.memOk = true) :
    (writeSaveArea s h b x).memOk = true := by
  unfold writeSaveArea
  dsimp only
  split
  · exact saveVectors_memOk _ _ _ (poolWrite_memOk _ _ _ hs)
  · exact poolWrite_memOk _ _ _ hs

theorem leavePreempted_memOk {s : State} (h : HartId) (x : Slot) (hs : s.memOk = true) :
    (leavePreempted s h x).memOk = true := by
  have hl : (releaseLease (releaseLanes s h) h).memOk = true := by simpa using hs
  unfold leavePreempted
  generalize releaseLease (releaseLanes s h) h = u at hl ⊢
  dsimp only
  split
  · exact hl
  · split
    · exact hl
    · exact spillMessages_memOk _ _ hl

theorem enterCore_memOk {s : State} (h : HartId) (c : Cause) (i : W) (t : Option Addr) (hs : s.memOk = true) :
    (enterCore s h c i t).memOk = true := by
  have hw : ∀ x, (writeSaveArea s h (c == .preempt) x).memOk = true := fun x => writeSaveArea_memOk h _ x hs
  have he : ∀ x y, (setSlot (writeSaveArea s h (c == .preempt) x) h y).memOk = true := fun x y =>
    (setSlot_memOk _ _ _).trans (hw x)
  have hx : ∀ x y, (if (c == .accFirstUse) = true then
      setExchange (setSlot (writeSaveArea s h (c == .preempt) x) h y) h true
      else setSlot (writeSaveArea s h (c == .preempt) x) h y).memOk = true := fun x y => by
    split
    · exact (setExchange_memOk _ _ _).trans (he x y)
    · exact he x y
  unfold enterCore
  extract_lets pre x u v w
  split
  · exact leavePreempted_memOk _ _ (hx _ _)
  · exact hx _ _

/-- Taking an exception keeps every memory in canonical form. -/
theorem takeTrap_memOk {s : State} (h : HartId) (c : Cause) (i : W) (t : Option Addr) (hs : s.memOk = true) :
    (takeTrap s h c i t).memOk = true := by
  have hn : (noteWalk s h c i).memOk = true := by simpa using hs
  unfold takeTrap
  generalize noteWalk s h c i = n at hn ⊢
  dsimp only
  split
  · split
    · exact crashAt_memOk _ _ hn
    · exact enterCore_memOk _ _ _ _ (rollback_memOk _ hn)
  · split
    · exact crashAt_memOk _ _ hn
    · simpa using rollback_memOk h hn
  · simpa using rollback_memOk h hn

theorem takeRefusal_memOk {s : State} (h : HartId) (i : W) (t : Addr) (hs : s.memOk = true) :
    (takeRefusal s h i t).memOk = true := by
  unfold takeRefusal
  dsimp only
  split
  · simpa using rollback_memOk h hs
  · exact takeTrap_memOk _ _ _ _ hs

theorem freeRecord_memOk {s : State} (g : Nat) (c : BitVec 16) (r : W) (h : s.memOk = true) :
    (freeRecord s g c r).memOk = true :=
  enqFor_memOk _ _ _ _ (writeRecord_memOk _ _ _ _ h)

theorem trapReport_memOk {s : State} (h : HartId) (a : Bool) (w : Nat) (hs : s.memOk = true) :
    (trapReport s h a w).memOk = true := by
  unfold trapReport
  dsimp only
  apply fileReport_memOk
  exact hs

theorem forgetSaved_memOk {s : State} (k : Nat) (c : BitVec 16) (b : Bool) (h : s.memOk = true) :
    (forgetSaved s k c b).memOk = true := by
  unfold forgetSaved
  dsimp only
  repeat' split
  all_goals first
    | exact h
    | exact endAbsence_memOk _ _ (by simpa using h)

theorem abortStrand_memOk {s : State} (h : HartId) (hs : s.memOk = true) : (abortStrand s h).memOk = true := by
  unfold abortStrand
  dsimp only
  rw [setSlot_memOk]
  apply trapReport_memOk
  apply freeRecord_memOk
  simp only [forgetBarrier_memOk, endLanding_memOk, releaseLease_memOk, releaseLanes_memOk, releaseOslots_memOk]
  have hf : (flushDirty s (agentOf h)).memOk = true := flushDirty_memOk _ hs
  generalize flushDirty s (agentOf h) = u at hf ⊢
  split <;> split
  all_goals first
    | exact forgetSaved_memOk _ _ _ hf
    | exact hf

@[simp] theorem retryFaults_memOk (s : State) (h : HartId) : (retryFaults s h).memOk = s.memOk := by
  unfold retryFaults
  dsimp only
  rw [events_memOk, setSlot_memOk]

/-- Returning from an exception keeps every memory in canonical form. -/
theorem trapReturn_memOk {s : State} (h : HartId) (hs : s.memOk = true) : (trapReturn s h).memOk = true := by
  unfold trapReturn
  dsimp only
  split
  · simpa using hs
  · split
    · exact abortStrand_memOk _ (by simpa using hs)
    · split <;> simpa using hs

/-! ### Operations of a meaning -/

/-- An operation that, from canonical memories, answers canonical memories, and that waits with a change that keeps them. -/
def Keeps {α : Type} (op : Op α) : Prop :=
  ∀ s : State, s.memOk = true →
    (∀ v t, op s = .ok (v, t) → t.memOk = true) ∧
      ∀ f, op s = .error (.wait f) → ∀ t : State, t.memOk = true → (f t).memOk = true

theorem keeps_pure {α : Type} (v : α) : Keeps (pure v : Op α) := fun s hs =>
  ⟨fun _ _ e => by cases e; exact hs, fun _ e => by cases e⟩

theorem keeps_trap {α : Type} (c : Cause) (i : W) : Keeps (trapWith c i : Op α) := fun _ _ =>
  ⟨fun _ _ e => (nomatch e), fun _ e => (nomatch e)⟩

theorem keeps_refuse {α : Type} (i : W) : Keeps (throw (.constantPage i) : Op α) := fun _ _ =>
  ⟨fun _ _ e => (nomatch e), fun _ e => (nomatch e)⟩

theorem keeps_stop {α : Type} (f : Fault) : Keeps (stopWith f : Op α) := fun _ _ =>
  ⟨fun _ _ e => (nomatch e), fun _ e => (nomatch e)⟩

theorem keeps_wait {α : Type} {f : State → State} (h : ∀ t, t.memOk = true → (f t).memOk = true) :
    Keeps (waitWith f : Op α) := fun _ _ => ⟨fun _ _ e => (nomatch e), fun _ e => by cases e; exact h⟩

theorem keeps_waitHere {α : Type} : Keeps (waitHere : Op α) := keeps_wait fun _ h => h

theorem keeps_modify {f : State → State} (h : ∀ t, t.memOk = true → (f t).memOk = true) : Keeps (modify f : Op Unit) :=
  fun s hs => ⟨fun _ _ e => by cases e; exact h s hs, fun _ e => by cases e⟩

theorem keeps_set {t : State} (h : t.memOk = true) : Keeps (set t : Op Unit) :=
  fun _ _ => ⟨fun _ _ e => by cases e; exact h, fun _ e => by cases e⟩

theorem keeps_bind {α β : Type} {op : Op α} {f : α → Op β} (h : Keeps op) (hf : ∀ v, Keeps (f v)) : Keeps (op >>= f) := by
  intro s hs
  obtain ⟨h1, h2⟩ := h s hs
  cases e : op s with
  | ok p =>
    have hb : (op >>= f) s = f p.1 p.2 := bind_of_gives (v := p.1) (t := p.2) e
    rw [hb]
    exact hf p.1 p.2 (h1 p.1 p.2 e)
  | error x =>
    rw [bind_of_error e]
    refine ⟨fun _ _ q => (nomatch q), fun g q => ?_⟩
    cases q
    exact h2 g e

/-- Reading the state: what follows may use that its memories are canonical. -/
theorem keeps_get {β : Type} {f : State → Op β} (hf : ∀ s, s.memOk = true → Keeps (f s)) :
    Keeps ((get : Op State) >>= f) := fun s hs => hf s hs s hs

theorem keeps_require (b : Bool) (c : Cause) (i : W) : Keeps (require b c i) := by
  unfold require
  split
  · exact keeps_pure _
  · exact keeps_trap _ _

theorem keeps_curSlot : Keeps curSlot := fun s hs => ⟨fun _ _ e => by cases e; exact hs, fun _ e => by cases e⟩
theorem keeps_curAgent : Keeps curAgent := fun s hs => ⟨fun _ _ e => by cases e; exact hs, fun _ e => by cases e⟩
theorem keeps_modCur (f : Slot → Slot) : Keeps (modCur f) := keeps_modify fun _ h => h
theorem keeps_emitOp (e : Event) : Keeps (emitOp e) := keeps_modify fun _ h => h
theorem keeps_finish (st : BitVec 3) : Keeps (finish st) := keeps_modify fun _ h => h
theorem keeps_finishCommit (st : BitVec 3) : Keeps (finishCommit st) := keeps_modify fun _ h => h
theorem keeps_finishBranch (st : BitVec 3) (t n : Bool) (a : Addr) : Keeps (finishBranch st t n a) :=
  keeps_modify fun _ h => h

theorem keeps_mapM {α β : Type} {f : α → Op β} (hf : ∀ a, Keeps (f a)) (l : List α) : Keeps (l.mapM f) := by
  induction l with
  | nil => simpa using keeps_pure _
  | cons a l ih =>
    rw [List.mapM_cons]
    exact keeps_bind (hf a) fun _ => keeps_bind ih fun _ => keeps_pure _

/-- A meaning whose operation keeps the memories canonical keeps them so, however it ends. -/
theorem runOp_memOk {op : Op Unit} (h : Keeps op) {s t : State} (hs : s.memOk = true) (e : runOp op s = .next t) :
    t.memOk = true := by
  obtain ⟨h1, h2⟩ := h s hs
  unfold runOp at e
  split at e
  · cases e
    exact h1 _ _ ‹_›
  · split at e
    · cases e
      exact hs
    · cases e
      exact takeTrap_memOk _ _ _ _ hs
  · split at e
    · cases e
      exact hs
    · cases e
      exact takeRefusal_memOk _ _ _ hs
  · cases e
    exact h2 _ ‹_› _ hs
  · cases e

/-! ### Accesses and operand forms -/

theorem keeps_localPlace (va n : Nat) (w : Bool) (k : Nat) : Keeps (localPlace va n w k) := by
  unfold localPlace
  refine keeps_get fun s hs => ?_
  dsimp only
  repeat' first
    | exact keeps_pure _
    | exact keeps_trap _ _
    | exact keeps_require _ _ _
    | split
    | refine keeps_bind ?_ fun _ => ?_

theorem keeps_scratchPlace (ea : W) (n : Nat) (w : Bool) : Keeps (scratchPlace ea n w) :=
  keeps_bind (keeps_require _ _ _) fun _ => keeps_bind (keeps_require _ _ _) fun _ => keeps_localPlace _ _ _ _

@[simp] theorem noteTranslation_memOk (s : State) (h : HartId) (va : Nat) (t : WalkResult) :
    (noteTranslation s h va t).memOk = s.memOk := by
  unfold noteTranslation
  repeat' split
  all_goals simp

theorem keeps_translateOp (k va : Nat) : Keeps (translateOp k va) := by
  unfold translateOp
  refine keeps_get fun s hs => ?_
  split
  · exact keeps_trap _ _
  · exact keeps_trap _ _
  · exact keeps_bind (keeps_set (by simpa using hs)) fun _ => keeps_pure _

theorem keeps_permitted (k va : Nat) (w : Want) (b : Bool) (a : Attrs) : Keeps (permitted k va w b a) := by
  unfold permitted
  dsimp only
  repeat' first
    | exact keeps_pure _
    | exact keeps_trap _ _
    | exact keeps_refuse _
    | split

theorem keeps_checkAccess (k n a : Nat) (w : Want) (b : Bool) (ea : W) : Keeps (checkAccess k n a w b ea) := by
  unfold checkAccess
  dsimp only
  refine keeps_bind (keeps_require _ _ _) fun _ => keeps_bind (keeps_require _ _ _) fun _ => keeps_get fun s hs => ?_
  repeat' first
    | exact keeps_pure _
    | exact keeps_trap _ _
    | exact keeps_stop _
    | exact keeps_require _ _ _
    | exact keeps_localPlace _ _ _ _
    | exact keeps_translateOp _ _
    | exact keeps_permitted _ _ _ _ _
    | split
    | refine keeps_bind ?_ fun _ => ?_

theorem keeps_loadLine (c ca n : Nat) (b : Bool) (k va : Nat) : Keeps (loadLine c ca n b k va) := by
  unfold loadLine
  refine keeps_get fun s hs => ?_
  split
  · exact keeps_bind (keeps_set (installLine_memOk _ _ hs)) fun _ => keeps_pure _
  · exact keeps_bind (keeps_require _ _ _) fun _ =>
      keeps_bind (keeps_set (installLine_memOk _ _ (by simpa using hs))) fun _ => keeps_pure _

theorem keeps_remoteLine (c pa n : Nat) : Keeps (remoteLine c pa n) := by
  unfold remoteLine
  refine keeps_get fun s hs => ?_
  split
  · exact keeps_bind (keeps_set (installLine_memOk _ _ hs)) fun _ => keeps_pure _
  · exact keeps_bind (keeps_set (installLine_memOk _ _ (by simpa using hs))) fun _ => keeps_pure _

theorem keeps_settleStores : Keeps settleStores := by
  unfold settleStores
  refine keeps_get fun s hs => ?_
  split
  · exact keeps_waitHere
  · exact keeps_pure _

theorem keeps_settleCells (ca n : Nat) : Keeps (settleCells ca n) := by
  unfold settleCells
  refine keeps_get fun s hs => ?_
  dsimp only
  split
  · exact keeps_pure _
  · exact keeps_wait fun _ h => h

theorem keeps_settleBytes (l : Loc) (n : Nat) : Keeps (settleBytes l n) := by
  unfold settleBytes
  refine keeps_get fun s hs => ?_
  repeat' first
    | exact keeps_pure _
    | exact keeps_waitHere
    | exact keeps_settleCells _ _
    | split

theorem keeps_acquire (n : Nat) : Keeps (acquire n) := keeps_modify fun t h => by
  split
  · exact h
  · exact h

theorem keeps_release (n : Nat) : Keeps (release n) := keeps_modify fun t h => by
  split
  · exact h
  · exact flushDirty_memOk _ h

theorem keeps_loadAt (p : Place) (n k va : Nat) : Keeps (loadAt p n k va) := by
  unfold loadAt
  refine keeps_get fun s hs => ?_
  repeat' first
    | exact keeps_pure _
    | exact keeps_waitHere
    | exact keeps_require _ _ _
    | exact keeps_settleBytes _ _
    | exact keeps_mapM (fun _ => keeps_loadLine _ _ _ _ _ _) _
    | exact keeps_mapM (fun _ => keeps_remoteLine _ _ _) _
    | split
    | refine keeps_bind ?_ fun _ => ?_

theorem keeps_storeAt (p : Place) (bs : List Byte) : Keeps (storeAt p bs) :=
  keeps_bind (keeps_settleBytes _ _) fun _ => keeps_modify fun _ h => storeOf_memOk _ _ _ _ _ h

theorem keeps_loadVa (k n a : Nat) (ea : W) : Keeps (loadVa k n a ea) :=
  keeps_bind (keeps_checkAccess _ _ _ _ _ _) fun _ => keeps_loadAt _ _ _ _

theorem keeps_storeVa (k a : Nat) (ea : W) (bs : List Byte) : Keeps (storeVa k a ea bs) :=
  keeps_bind (keeps_checkAccess _ _ _ _ _ _) fun _ => keeps_storeAt _ _

theorem keeps_portAddress (p : BitVec 2) (w : Bool) : Keeps (portAddress p w) := by
  unfold portAddress
  repeat' first
    | exact keeps_pure _
    | exact keeps_curSlot
    | exact keeps_require _ _ _
    | refine keeps_bind ?_ fun _ => ?_

theorem keeps_popPort (p : BitVec 2) : Keeps (popPort p) := by
  unfold popPort
  repeat' first
    | exact keeps_pure _
    | exact keeps_portAddress _ _
    | exact keeps_loadVa _ _ _ _
    | exact keeps_modCur _
    | refine keeps_bind ?_ fun _ => ?_

theorem keeps_appendPort (p : BitVec 2) (v : W) : Keeps (appendPort p v) := by
  unfold appendPort
  repeat' first
    | exact keeps_portAddress _ _
    | exact keeps_storeVa _ _ _ _
    | exact keeps_modCur _
    | refine keeps_bind ?_ fun _ => ?_

theorem keeps_stepPort (p : BitVec 2) (g : Stream) : Keeps (stepPort p g) := keeps_modCur _

theorem keeps_reserveElement (p : BitVec 2) (n : Nat) : Keeps (reserveElement p n) := by
  unfold reserveElement
  refine keeps_get fun s hs => ?_
  repeat' first
    | exact keeps_pure _
    | exact keeps_waitHere
    | exact keeps_settleBytes _ _
    | exact keeps_stepPort _ _
    | split
    | exact keeps_portAddress _ _
    | exact keeps_checkAccess _ _ _ _ _ _
    | exact keeps_modCur _
    | refine keeps_bind ?_ fun _ => ?_

theorem keeps_readEntry (e : Entry) : Keeps (readEntry e) := by
  unfold readEntry
  split
  · exact keeps_pure _
  · exact keeps_waitHere

/-- Reading a source field keeps every memory in canonical form. -/
theorem keeps_readSel (f : Sel) : Keeps (readSel f) := by
  unfold readSel
  refine keeps_get fun s hs => ?_
  dsimp only
  repeat' split
  all_goals first
    | exact keeps_pure _
    | exact keeps_trap _ _
    | exact keeps_readEntry _
    | exact keeps_popPort _

theorem keeps_freshTag : Keeps freshTag := by
  unfold freshTag
  exact keeps_get fun s hs => keeps_bind (keeps_set (by simpa using hs)) fun _ => keeps_pure _

theorem keeps_appendResult (p : BitVec 2) (v : W) (n : Nat) : Keeps (appendResult p v n) := by
  unfold appendResult
  refine keeps_get fun s hs => ?_
  split
  · exact keeps_appendPort _ _
  · exact keeps_bind keeps_freshTag fun _ => keeps_bind (keeps_reserveElement _ _) fun _ => keeps_emitOp _

theorem keeps_produceAt (d : Sel) (v : W) (n : Nat) : Keeps (produceAt d v n) := by
  unfold produceAt
  repeat' first
    | exact keeps_pure _
    | exact keeps_trap _ _
    | exact keeps_waitHere
    | exact keeps_curSlot
    | exact keeps_modCur _
    | exact keeps_modify fun _ h => h
    | exact keeps_appendResult _ _ _
    | split
    | refine keeps_bind ?_ fun _ => ?_

theorem keeps_produce (d : Sel) (v : W) (n : Nat) : Keeps (produce d v n) := keeps_get fun _ _ => keeps_produceAt _ _ _

theorem keeps_produceNow (d : Sel) (v : W) : Keeps (produceNow d v) := keeps_produceAt _ _ _

/-- Reserving a result keeps every memory in canonical form. -/
theorem keeps_reserveBy (n : Nat) (d : Sel) : Keeps (reserveBy n d) := by
  unfold reserveBy
  refine keeps_get fun s hs => keeps_bind keeps_freshTag fun _ => ?_
  dsimp only
  repeat' first
    | exact keeps_pure _
    | exact keeps_trap _ _
    | exact keeps_waitHere
    | exact keeps_modCur _
    | exact keeps_reserveElement _ _
    | split
    | refine keeps_bind ?_ fun _ => ?_

theorem keeps_reserve (d : Sel) : Keeps (reserve d) := keeps_reserveBy _ _

theorem keeps_illegalOp {α : Type} (i : Instr) : Keeps (illegalOp i : Op α) :=
  keeps_bind keeps_curSlot fun _ => keeps_trap _ _

theorem keeps_slotOp {α : Type} (i : Instr) : Keeps (slotOp i : Op α) := keeps_trap _ _

theorem keeps_commitPlace (i : Instr) : Keeps (commitPlace i) :=
  keeps_bind keeps_curSlot fun _ => by
    split
    · exact keeps_slotOp _
    · exact keeps_pure _

theorem keeps_noDelaySlot (i : Instr) : Keeps (noDelaySlot i) :=
  keeps_bind keeps_curSlot fun _ => by
    split
    · exact keeps_slotOp _
    · exact keeps_pure _

end Sys2Proof.Machine
end

