-- ==== Sys2Proof/Laws/Encoding.lean ====
section
/-!
SUPPORT. The encoder's words read field by field: for every word form, each field of a word built from it, and the form
read back.
-/
namespace Sys2Proof

/-- A field in the upper part of two bit vectors put together. -/
theorem bits_hi {n m : Nat} (a : BitVec n) (b : BitVec m) (lo k : Nat) (h : m ≤ lo) :
    (a ++ b).extractLsb' lo k = a.extractLsb' (lo - m) k := by
  ext i hi
  simp only [BitVec.getElem_extractLsb', BitVec.getLsbD_append]
  rw [if_neg (by omega)]
  congr 1
  omega

/-- A field in the lower part. -/
theorem bits_lo {n m : Nat} (a : BitVec n) (b : BitVec m) (lo k : Nat) (h : lo + k ≤ m) :
    (a ++ b).extractLsb' lo k = b.extractLsb' lo k := by
  ext i hi
  simp only [BitVec.getElem_extractLsb', BitVec.getLsbD_append]
  rw [if_pos (by omega)]

/-- The whole of a bit vector. -/
theorem bits_all {n : Nat} (a : BitVec n) : a.extractLsb' 0 n = a := by
  ext i hi
  simp

/-! ### RRR -/

@[simp] theorem RRR.major (x : RRR) (maj : BitVec 6) (fn : BitVec 8) :
    major (x.toWord maj fn) = maj :=
  (bits_hi (n := 24) (m := 8) _ _ 26 6 (by decide)).trans ((bits_hi (n := 19) (m := 5) _ _ 18 6 (by decide)).trans ((bits_hi (n := 14) (m := 5) _ _ 13 6 (by decide)).trans ((bits_hi (n := 9) (m := 5) _ _ 8 6 (by decide)).trans ((bits_hi (n := 6) (m := 3) _ _ 3 6 (by decide)).trans (bits_all _)))))

@[simp] theorem RRR.bits_23_3 (x : RRR) (maj : BitVec 6) (fn : BitVec 8) :
    bits (x.toWord maj fn) 23 3 = x.st :=
  (bits_hi (n := 24) (m := 8) _ _ 23 3 (by decide)).trans ((bits_hi (n := 19) (m := 5) _ _ 15 3 (by decide)).trans ((bits_hi (n := 14) (m := 5) _ _ 10 3 (by decide)).trans ((bits_hi (n := 9) (m := 5) _ _ 5 3 (by decide)).trans ((bits_lo (n := 6) (m := 3) _ _ 0 3 (by decide)).trans (bits_all _)))))

@[simp] theorem RRR.bits_18_5 (x : RRR) (maj : BitVec 6) (fn : BitVec 8) :
    bits (x.toWord maj fn) 18 5 = x.d :=
  (bits_hi (n := 24) (m := 8) _ _ 18 5 (by decide)).trans ((bits_hi (n := 19) (m := 5) _ _ 10 5 (by decide)).trans ((bits_hi (n := 14) (m := 5) _ _ 5 5 (by decide)).trans ((bits_lo (n := 9) (m := 5) _ _ 0 5 (by decide)).trans (bits_all _))))

@[simp] theorem RRR.bits_13_5 (x : RRR) (maj : BitVec 6) (fn : BitVec 8) :
    bits (x.toWord maj fn) 13 5 = x.a :=
  (bits_hi (n := 24) (m := 8) _ _ 13 5 (by decide)).trans ((bits_hi (n := 19) (m := 5) _ _ 5 5 (by decide)).trans ((bits_lo (n := 14) (m := 5) _ _ 0 5 (by decide)).trans (bits_all _)))

@[simp] theorem RRR.bits_8_5 (x : RRR) (maj : BitVec 6) (fn : BitVec 8) :
    bits (x.toWord maj fn) 8 5 = x.b :=
  (bits_hi (n := 24) (m := 8) _ _ 8 5 (by decide)).trans ((bits_lo (n := 19) (m := 5) _ _ 0 5 (by decide)).trans (bits_all _))

@[simp] theorem RRR.bits_0_8 (x : RRR) (maj : BitVec 6) (fn : BitVec 8) :
    bits (x.toWord maj fn) 0 8 = fn :=
  (bits_lo (n := 24) (m := 8) _ _ 0 8 (by decide)).trans (bits_all _)

@[simp] theorem RRR.ofWord_toWord (x : RRR) (maj : BitVec 6) (fn : BitVec 8) : RRR.ofWord (x.toWord maj fn) = .ok x := by
  simp [RRR.ofWord]

/-! ### RR -/

@[simp] theorem RR.major (x : RR) (maj : BitVec 6) (fn : BitVec 8) :
    major (x.toWord maj fn) = maj :=
  (bits_hi (n := 24) (m := 8) _ _ 26 6 (by decide)).trans ((bits_hi (n := 19) (m := 5) _ _ 18 6 (by decide)).trans ((bits_hi (n := 14) (m := 5) _ _ 13 6 (by decide)).trans ((bits_hi (n := 9) (m := 5) _ _ 8 6 (by decide)).trans ((bits_hi (n := 6) (m := 3) _ _ 3 6 (by decide)).trans (bits_all _)))))

@[simp] theorem RR.bits_23_3 (x : RR) (maj : BitVec 6) (fn : BitVec 8) :
    bits (x.toWord maj fn) 23 3 = x.st :=
  (bits_hi (n := 24) (m := 8) _ _ 23 3 (by decide)).trans ((bits_hi (n := 19) (m := 5) _ _ 15 3 (by decide)).trans ((bits_hi (n := 14) (m := 5) _ _ 10 3 (by decide)).trans ((bits_hi (n := 9) (m := 5) _ _ 5 3 (by decide)).trans ((bits_lo (n := 6) (m := 3) _ _ 0 3 (by decide)).trans (bits_all _)))))

@[simp] theorem RR.bits_18_5 (x : RR) (maj : BitVec 6) (fn : BitVec 8) :
    bits (x.toWord maj fn) 18 5 = x.d :=
  (bits_hi (n := 24) (m := 8) _ _ 18 5 (by decide)).trans ((bits_hi (n := 19) (m := 5) _ _ 10 5 (by decide)).trans ((bits_hi (n := 14) (m := 5) _ _ 5 5 (by decide)).trans ((bits_lo (n := 9) (m := 5) _ _ 0 5 (by decide)).trans (bits_all _))))

@[simp] theorem RR.bits_13_5 (x : RR) (maj : BitVec 6) (fn : BitVec 8) :
    bits (x.toWord maj fn) 13 5 = x.a :=
  (bits_hi (n := 24) (m := 8) _ _ 13 5 (by decide)).trans ((bits_hi (n := 19) (m := 5) _ _ 5 5 (by decide)).trans ((bits_lo (n := 14) (m := 5) _ _ 0 5 (by decide)).trans (bits_all _)))

@[simp] theorem RR.bits_8_5 (x : RR) (maj : BitVec 6) (fn : BitVec 8) :
    bits (x.toWord maj fn) 8 5 = 0#5 :=
  (bits_hi (n := 24) (m := 8) _ _ 8 5 (by decide)).trans ((bits_lo (n := 19) (m := 5) _ _ 0 5 (by decide)).trans (bits_all _))

@[simp] theorem RR.bits_0_8 (x : RR) (maj : BitVec 6) (fn : BitVec 8) :
    bits (x.toWord maj fn) 0 8 = fn :=
  (bits_lo (n := 24) (m := 8) _ _ 0 8 (by decide)).trans (bits_all _)

@[simp] theorem RR.ofWord_toWord (x : RR) (maj : BitVec 6) (fn : BitVec 8) : RR.ofWord (x.toWord maj fn) = .ok x := by
  simp [RR.ofWord]

/-! ### AB -/

@[simp] theorem AB.major (x : AB) (maj : BitVec 6) (fn : BitVec 8) :
    major (x.toWord maj fn) = maj :=
  (bits_hi (n := 24) (m := 8) _ _ 26 6 (by decide)).trans ((bits_hi (n := 19) (m := 5) _ _ 18 6 (by decide)).trans ((bits_hi (n := 14) (m := 5) _ _ 13 6 (by decide)).trans ((bits_hi (n := 9) (m := 5) _ _ 8 6 (by decide)).trans ((bits_hi (n := 6) (m := 3) _ _ 3 6 (by decide)).trans (bits_all _)))))

@[simp] theorem AB.bits_23_3 (x : AB) (maj : BitVec 6) (fn : BitVec 8) :
    bits (x.toWord maj fn) 23 3 = x.st :=
  (bits_hi (n := 24) (m := 8) _ _ 23 3 (by decide)).trans ((bits_hi (n := 19) (m := 5) _ _ 15 3 (by decide)).trans ((bits_hi (n := 14) (m := 5) _ _ 10 3 (by decide)).trans ((bits_hi (n := 9) (m := 5) _ _ 5 3 (by decide)).trans ((bits_lo (n := 6) (m := 3) _ _ 0 3 (by decide)).trans (bits_all _)))))

@[simp] theorem AB.bits_18_5 (x : AB) (maj : BitVec 6) (fn : BitVec 8) :
    bits (x.toWord maj fn) 18 5 = 0#5 :=
  (bits_hi (n := 24) (m := 8) _ _ 18 5 (by decide)).trans ((bits_hi (n := 19) (m := 5) _ _ 10 5 (by decide)).trans ((bits_hi (n := 14) (m := 5) _ _ 5 5 (by decide)).trans ((bits_lo (n := 9) (m := 5) _ _ 0 5 (by decide)).trans (bits_all _))))

@[simp] theorem AB.bits_13_5 (x : AB) (maj : BitVec 6) (fn : BitVec 8) :
    bits (x.toWord maj fn) 13 5 = x.a :=
  (bits_hi (n := 24) (m := 8) _ _ 13 5 (by decide)).trans ((bits_hi (n := 19) (m := 5) _ _ 5 5 (by decide)).trans ((bits_lo (n := 14) (m := 5) _ _ 0 5 (by decide)).trans (bits_all _)))

@[simp] theorem AB.bits_8_5 (x : AB) (maj : BitVec 6) (fn : BitVec 8) :
    bits (x.toWord maj fn) 8 5 = x.b :=
  (bits_hi (n := 24) (m := 8) _ _ 8 5 (by decide)).trans ((bits_lo (n := 19) (m := 5) _ _ 0 5 (by decide)).trans (bits_all _))

@[simp] theorem AB.bits_0_8 (x : AB) (maj : BitVec 6) (fn : BitVec 8) :
    bits (x.toWord maj fn) 0 8 = fn :=
  (bits_lo (n := 24) (m := 8) _ _ 0 8 (by decide)).trans (bits_all _)

@[simp] theorem AB.ofWord_toWord (x : AB) (maj : BitVec 6) (fn : BitVec 8) : AB.ofWord (x.toWord maj fn) = .ok x := by
  simp [AB.ofWord]

/-! ### A1 -/

@[simp] theorem A1.major (x : A1) (maj : BitVec 6) (fn : BitVec 8) :
    major (x.toWord maj fn) = maj :=
  (bits_hi (n := 24) (m := 8) _ _ 26 6 (by decide)).trans ((bits_hi (n := 19) (m := 5) _ _ 18 6 (by decide)).trans ((bits_hi (n := 14) (m := 5) _ _ 13 6 (by decide)).trans ((bits_hi (n := 9) (m := 5) _ _ 8 6 (by decide)).trans ((bits_hi (n := 6) (m := 3) _ _ 3 6 (by decide)).trans (bits_all _)))))

@[simp] theorem A1.bits_23_3 (x : A1) (maj : BitVec 6) (fn : BitVec 8) :
    bits (x.toWord maj fn) 23 3 = x.st :=
  (bits_hi (n := 24) (m := 8) _ _ 23 3 (by decide)).trans ((bits_hi (n := 19) (m := 5) _ _ 15 3 (by decide)).trans ((bits_hi (n := 14) (m := 5) _ _ 10 3 (by decide)).trans ((bits_hi (n := 9) (m := 5) _ _ 5 3 (by decide)).trans ((bits_lo (n := 6) (m := 3) _ _ 0 3 (by decide)).trans (bits_all _)))))

@[simp] theorem A1.bits_18_5 (x : A1) (maj : BitVec 6) (fn : BitVec 8) :
    bits (x.toWord maj fn) 18 5 = 0#5 :=
  (bits_hi (n := 24) (m := 8) _ _ 18 5 (by decide)).trans ((bits_hi (n := 19) (m := 5) _ _ 10 5 (by decide)).trans ((bits_hi (n := 14) (m := 5) _ _ 5 5 (by decide)).trans ((bits_lo (n := 9) (m := 5) _ _ 0 5 (by decide)).trans (bits_all _))))

@[simp] theorem A1.bits_13_5 (x : A1) (maj : BitVec 6) (fn : BitVec 8) :
    bits (x.toWord maj fn) 13 5 = x.a :=
  (bits_hi (n := 24) (m := 8) _ _ 13 5 (by decide)).trans ((bits_hi (n := 19) (m := 5) _ _ 5 5 (by decide)).trans ((bits_lo (n := 14) (m := 5) _ _ 0 5 (by decide)).trans (bits_all _)))

@[simp] theorem A1.bits_8_5 (x : A1) (maj : BitVec 6) (fn : BitVec 8) :
    bits (x.toWord maj fn) 8 5 = 0#5 :=
  (bits_hi (n := 24) (m := 8) _ _ 8 5 (by decide)).trans ((bits_lo (n := 19) (m := 5) _ _ 0 5 (by decide)).trans (bits_all _))

@[simp] theorem A1.bits_0_8 (x : A1) (maj : BitVec 6) (fn : BitVec 8) :
    bits (x.toWord maj fn) 0 8 = fn :=
  (bits_lo (n := 24) (m := 8) _ _ 0 8 (by decide)).trans (bits_all _)

@[simp] theorem A1.ofWord_toWord (x : A1) (maj : BitVec 6) (fn : BitVec 8) : A1.ofWord (x.toWord maj fn) = .ok x := by
  simp [A1.ofWord]

/-! ### B1 -/

@[simp] theorem B1.major (x : B1) (maj : BitVec 6) (fn : BitVec 8) :
    major (x.toWord maj fn) = maj :=
  (bits_hi (n := 24) (m := 8) _ _ 26 6 (by decide)).trans ((bits_hi (n := 19) (m := 5) _ _ 18 6 (by decide)).trans ((bits_hi (n := 14) (m := 5) _ _ 13 6 (by decide)).trans ((bits_hi (n := 9) (m := 5) _ _ 8 6 (by decide)).trans ((bits_hi (n := 6) (m := 3) _ _ 3 6 (by decide)).trans (bits_all _)))))

@[simp] theorem B1.bits_23_3 (x : B1) (maj : BitVec 6) (fn : BitVec 8) :
    bits (x.toWord maj fn) 23 3 = x.st :=
  (bits_hi (n := 24) (m := 8) _ _ 23 3 (by decide)).trans ((bits_hi (n := 19) (m := 5) _ _ 15 3 (by decide)).trans ((bits_hi (n := 14) (m := 5) _ _ 10 3 (by decide)).trans ((bits_hi (n := 9) (m := 5) _ _ 5 3 (by decide)).trans ((bits_lo (n := 6) (m := 3) _ _ 0 3 (by decide)).trans (bits_all _)))))

@[simp] theorem B1.bits_18_5 (x : B1) (maj : BitVec 6) (fn : BitVec 8) :
    bits (x.toWord maj fn) 18 5 = 0#5 :=
  (bits_hi (n := 24) (m := 8) _ _ 18 5 (by decide)).trans ((bits_hi (n := 19) (m := 5) _ _ 10 5 (by decide)).trans ((bits_hi (n := 14) (m := 5) _ _ 5 5 (by decide)).trans ((bits_lo (n := 9) (m := 5) _ _ 0 5 (by decide)).trans (bits_all _))))

@[simp] theorem B1.bits_13_5 (x : B1) (maj : BitVec 6) (fn : BitVec 8) :
    bits (x.toWord maj fn) 13 5 = 0#5 :=
  (bits_hi (n := 24) (m := 8) _ _ 13 5 (by decide)).trans ((bits_hi (n := 19) (m := 5) _ _ 5 5 (by decide)).trans ((bits_lo (n := 14) (m := 5) _ _ 0 5 (by decide)).trans (bits_all _)))

@[simp] theorem B1.bits_8_5 (x : B1) (maj : BitVec 6) (fn : BitVec 8) :
    bits (x.toWord maj fn) 8 5 = x.b :=
  (bits_hi (n := 24) (m := 8) _ _ 8 5 (by decide)).trans ((bits_lo (n := 19) (m := 5) _ _ 0 5 (by decide)).trans (bits_all _))

@[simp] theorem B1.bits_0_8 (x : B1) (maj : BitVec 6) (fn : BitVec 8) :
    bits (x.toWord maj fn) 0 8 = fn :=
  (bits_lo (n := 24) (m := 8) _ _ 0 8 (by decide)).trans (bits_all _)

@[simp] theorem B1.ofWord_toWord (x : B1) (maj : BitVec 6) (fn : BitVec 8) : B1.ofWord (x.toWord maj fn) = .ok x := by
  simp [B1.ofWord]

/-! ### D1 -/

@[simp] theorem D1.major (x : D1) (maj : BitVec 6) (fn : BitVec 8) :
    major (x.toWord maj fn) = maj :=
  (bits_hi (n := 24) (m := 8) _ _ 26 6 (by decide)).trans ((bits_hi (n := 19) (m := 5) _ _ 18 6 (by decide)).trans ((bits_hi (n := 14) (m := 5) _ _ 13 6 (by decide)).trans ((bits_hi (n := 9) (m := 5) _ _ 8 6 (by decide)).trans ((bits_hi (n := 6) (m := 3) _ _ 3 6 (by decide)).trans (bits_all _)))))

@[simp] theorem D1.bits_23_3 (x : D1) (maj : BitVec 6) (fn : BitVec 8) :
    bits (x.toWord maj fn) 23 3 = x.st :=
  (bits_hi (n := 24) (m := 8) _ _ 23 3 (by decide)).trans ((bits_hi (n := 19) (m := 5) _ _ 15 3 (by decide)).trans ((bits_hi (n := 14) (m := 5) _ _ 10 3 (by decide)).trans ((bits_hi (n := 9) (m := 5) _ _ 5 3 (by decide)).trans ((bits_lo (n := 6) (m := 3) _ _ 0 3 (by decide)).trans (bits_all _)))))

@[simp] theorem D1.bits_18_5 (x : D1) (maj : BitVec 6) (fn : BitVec 8) :
    bits (x.toWord maj fn) 18 5 = x.d :=
  (bits_hi (n := 24) (m := 8) _ _ 18 5 (by decide)).trans ((bits_hi (n := 19) (m := 5) _ _ 10 5 (by decide)).trans ((bits_hi (n := 14) (m := 5) _ _ 5 5 (by decide)).trans ((bits_lo (n := 9) (m := 5) _ _ 0 5 (by decide)).trans (bits_all _))))

@[simp] theorem D1.bits_13_5 (x : D1) (maj : BitVec 6) (fn : BitVec 8) :
    bits (x.toWord maj fn) 13 5 = 0#5 :=
  (bits_hi (n := 24) (m := 8) _ _ 13 5 (by decide)).trans ((bits_hi (n := 19) (m := 5) _ _ 5 5 (by decide)).trans ((bits_lo (n := 14) (m := 5) _ _ 0 5 (by decide)).trans (bits_all _)))

@[simp] theorem D1.bits_8_5 (x : D1) (maj : BitVec 6) (fn : BitVec 8) :
    bits (x.toWord maj fn) 8 5 = 0#5 :=
  (bits_hi (n := 24) (m := 8) _ _ 8 5 (by decide)).trans ((bits_lo (n := 19) (m := 5) _ _ 0 5 (by decide)).trans (bits_all _))

@[simp] theorem D1.bits_0_8 (x : D1) (maj : BitVec 6) (fn : BitVec 8) :
    bits (x.toWord maj fn) 0 8 = fn :=
  (bits_lo (n := 24) (m := 8) _ _ 0 8 (by decide)).trans (bits_all _)

@[simp] theorem D1.ofWord_toWord (x : D1) (maj : BitVec 6) (fn : BitVec 8) : D1.ofWord (x.toWord maj fn) = .ok x := by
  simp [D1.ofWord]

/-! ### N0 -/

@[simp] theorem N0.major (x : N0) (maj : BitVec 6) (fn : BitVec 8) :
    major (x.toWord maj fn) = maj :=
  (bits_hi (n := 24) (m := 8) _ _ 26 6 (by decide)).trans ((bits_hi (n := 19) (m := 5) _ _ 18 6 (by decide)).trans ((bits_hi (n := 14) (m := 5) _ _ 13 6 (by decide)).trans ((bits_hi (n := 9) (m := 5) _ _ 8 6 (by decide)).trans ((bits_hi (n := 6) (m := 3) _ _ 3 6 (by decide)).trans (bits_all _)))))

@[simp] theorem N0.bits_23_3 (x : N0) (maj : BitVec 6) (fn : BitVec 8) :
    bits (x.toWord maj fn) 23 3 = x.st :=
  (bits_hi (n := 24) (m := 8) _ _ 23 3 (by decide)).trans ((bits_hi (n := 19) (m := 5) _ _ 15 3 (by decide)).trans ((bits_hi (n := 14) (m := 5) _ _ 10 3 (by decide)).trans ((bits_hi (n := 9) (m := 5) _ _ 5 3 (by decide)).trans ((bits_lo (n := 6) (m := 3) _ _ 0 3 (by decide)).trans (bits_all _)))))

@[simp] theorem N0.bits_18_5 (x : N0) (maj : BitVec 6) (fn : BitVec 8) :
    bits (x.toWord maj fn) 18 5 = 0#5 :=
  (bits_hi (n := 24) (m := 8) _ _ 18 5 (by decide)).trans ((bits_hi (n := 19) (m := 5) _ _ 10 5 (by decide)).trans ((bits_hi (n := 14) (m := 5) _ _ 5 5 (by decide)).trans ((bits_lo (n := 9) (m := 5) _ _ 0 5 (by decide)).trans (bits_all _))))

@[simp] theorem N0.bits_13_5 (x : N0) (maj : BitVec 6) (fn : BitVec 8) :
    bits (x.toWord maj fn) 13 5 = 0#5 :=
  (bits_hi (n := 24) (m := 8) _ _ 13 5 (by decide)).trans ((bits_hi (n := 19) (m := 5) _ _ 5 5 (by decide)).trans ((bits_lo (n := 14) (m := 5) _ _ 0 5 (by decide)).trans (bits_all _)))

@[simp] theorem N0.bits_8_5 (x : N0) (maj : BitVec 6) (fn : BitVec 8) :
    bits (x.toWord maj fn) 8 5 = 0#5 :=
  (bits_hi (n := 24) (m := 8) _ _ 8 5 (by decide)).trans ((bits_lo (n := 19) (m := 5) _ _ 0 5 (by decide)).trans (bits_all _))

@[simp] theorem N0.bits_0_8 (x : N0) (maj : BitVec 6) (fn : BitVec 8) :
    bits (x.toWord maj fn) 0 8 = fn :=
  (bits_lo (n := 24) (m := 8) _ _ 0 8 (by decide)).trans (bits_all _)

@[simp] theorem N0.ofWord_toWord (x : N0) (maj : BitVec 6) (fn : BitVec 8) : N0.ofWord (x.toWord maj fn) = .ok x := by
  simp [N0.ofWord]

/-! ### RI -/

@[simp] theorem RI.major (x : RI) (maj : BitVec 6) :
    major (x.toWord maj) = maj :=
  (bits_hi (n := 19) (m := 13) _ _ 26 6 (by decide)).trans ((bits_hi (n := 14) (m := 5) _ _ 13 6 (by decide)).trans ((bits_hi (n := 9) (m := 5) _ _ 8 6 (by decide)).trans ((bits_hi (n := 6) (m := 3) _ _ 3 6 (by decide)).trans (bits_all _))))

@[simp] theorem RI.bits_23_3 (x : RI) (maj : BitVec 6) :
    bits (x.toWord maj) 23 3 = x.st :=
  (bits_hi (n := 19) (m := 13) _ _ 23 3 (by decide)).trans ((bits_hi (n := 14) (m := 5) _ _ 10 3 (by decide)).trans ((bits_hi (n := 9) (m := 5) _ _ 5 3 (by decide)).trans ((bits_lo (n := 6) (m := 3) _ _ 0 3 (by decide)).trans (bits_all _))))

@[simp] theorem RI.bits_18_5 (x : RI) (maj : BitVec 6) :
    bits (x.toWord maj) 18 5 = x.d :=
  (bits_hi (n := 19) (m := 13) _ _ 18 5 (by decide)).trans ((bits_hi (n := 14) (m := 5) _ _ 5 5 (by decide)).trans ((bits_lo (n := 9) (m := 5) _ _ 0 5 (by decide)).trans (bits_all _)))

@[simp] theorem RI.bits_13_5 (x : RI) (maj : BitVec 6) :
    bits (x.toWord maj) 13 5 = x.a :=
  (bits_hi (n := 19) (m := 13) _ _ 13 5 (by decide)).trans ((bits_lo (n := 14) (m := 5) _ _ 0 5 (by decide)).trans (bits_all _))

@[simp] theorem RI.bits_0_13 (x : RI) (maj : BitVec 6) :
    bits (x.toWord maj) 0 13 = x.imm :=
  (bits_lo (n := 19) (m := 13) _ _ 0 13 (by decide)).trans (bits_all _)

@[simp] theorem RI.ofWord_toWord (x : RI) (maj : BitVec 6) : RI.ofWord (x.toWord maj) = .ok x := by
  simp [RI.ofWord]

/-! ### DI -/

@[simp] theorem DI.major (x : DI) (maj : BitVec 6) :
    major (x.toWord maj) = maj :=
  (bits_hi (n := 19) (m := 13) _ _ 26 6 (by decide)).trans ((bits_hi (n := 14) (m := 5) _ _ 13 6 (by decide)).trans ((bits_hi (n := 9) (m := 5) _ _ 8 6 (by decide)).trans ((bits_hi (n := 6) (m := 3) _ _ 3 6 (by decide)).trans (bits_all _))))

@[simp] theorem DI.bits_23_3 (x : DI) (maj : BitVec 6) :
    bits (x.toWord maj) 23 3 = x.st :=
  (bits_hi (n := 19) (m := 13) _ _ 23 3 (by decide)).trans ((bits_hi (n := 14) (m := 5) _ _ 10 3 (by decide)).trans ((bits_hi (n := 9) (m := 5) _ _ 5 3 (by decide)).trans ((bits_lo (n := 6) (m := 3) _ _ 0 3 (by decide)).trans (bits_all _))))

@[simp] theorem DI.bits_18_5 (x : DI) (maj : BitVec 6) :
    bits (x.toWord maj) 18 5 = x.d :=
  (bits_hi (n := 19) (m := 13) _ _ 18 5 (by decide)).trans ((bits_hi (n := 14) (m := 5) _ _ 5 5 (by decide)).trans ((bits_lo (n := 9) (m := 5) _ _ 0 5 (by decide)).trans (bits_all _)))

@[simp] theorem DI.bits_13_5 (x : DI) (maj : BitVec 6) :
    bits (x.toWord maj) 13 5 = 0#5 :=
  (bits_hi (n := 19) (m := 13) _ _ 13 5 (by decide)).trans ((bits_lo (n := 14) (m := 5) _ _ 0 5 (by decide)).trans (bits_all _))

@[simp] theorem DI.bits_0_13 (x : DI) (maj : BitVec 6) :
    bits (x.toWord maj) 0 13 = x.imm :=
  (bits_lo (n := 19) (m := 13) _ _ 0 13 (by decide)).trans (bits_all _)

@[simp] theorem DI.ofWord_toWord (x : DI) (maj : BitVec 6) : DI.ofWord (x.toWord maj) = .ok x := by
  simp [DI.ofWord]

/-! ### Mem -/

@[simp] theorem Mem.major (x : Mem) (maj : BitVec 6) :
    major (x.toWord maj) = maj :=
  (bits_hi (n := 23) (m := 9) _ _ 26 6 (by decide)).trans ((bits_hi (n := 21) (m := 2) _ _ 17 6 (by decide)).trans ((bits_hi (n := 19) (m := 2) _ _ 15 6 (by decide)).trans ((bits_hi (n := 14) (m := 5) _ _ 13 6 (by decide)).trans ((bits_hi (n := 9) (m := 5) _ _ 8 6 (by decide)).trans ((bits_hi (n := 6) (m := 3) _ _ 3 6 (by decide)).trans (bits_all _))))))

@[simp] theorem Mem.bits_23_3 (x : Mem) (maj : BitVec 6) :
    bits (x.toWord maj) 23 3 = x.st :=
  (bits_hi (n := 23) (m := 9) _ _ 23 3 (by decide)).trans ((bits_hi (n := 21) (m := 2) _ _ 14 3 (by decide)).trans ((bits_hi (n := 19) (m := 2) _ _ 12 3 (by decide)).trans ((bits_hi (n := 14) (m := 5) _ _ 10 3 (by decide)).trans ((bits_hi (n := 9) (m := 5) _ _ 5 3 (by decide)).trans ((bits_lo (n := 6) (m := 3) _ _ 0 3 (by decide)).trans (bits_all _))))))

@[simp] theorem Mem.bits_18_5 (x : Mem) (maj : BitVec 6) :
    bits (x.toWord maj) 18 5 = x.d :=
  (bits_hi (n := 23) (m := 9) _ _ 18 5 (by decide)).trans ((bits_hi (n := 21) (m := 2) _ _ 9 5 (by decide)).trans ((bits_hi (n := 19) (m := 2) _ _ 7 5 (by decide)).trans ((bits_hi (n := 14) (m := 5) _ _ 5 5 (by decide)).trans ((bits_lo (n := 9) (m := 5) _ _ 0 5 (by decide)).trans (bits_all _)))))

@[simp] theorem Mem.bits_13_5 (x : Mem) (maj : BitVec 6) :
    bits (x.toWord maj) 13 5 = x.a :=
  (bits_hi (n := 23) (m := 9) _ _ 13 5 (by decide)).trans ((bits_hi (n := 21) (m := 2) _ _ 4 5 (by decide)).trans ((bits_hi (n := 19) (m := 2) _ _ 2 5 (by decide)).trans ((bits_lo (n := 14) (m := 5) _ _ 0 5 (by decide)).trans (bits_all _))))

@[simp] theorem Mem.bits_11_2 (x : Mem) (maj : BitVec 6) :
    bits (x.toWord maj) 11 2 = x.sz :=
  (bits_hi (n := 23) (m := 9) _ _ 11 2 (by decide)).trans ((bits_hi (n := 21) (m := 2) _ _ 2 2 (by decide)).trans ((bits_lo (n := 19) (m := 2) _ _ 0 2 (by decide)).trans (bits_all _)))

@[simp] theorem Mem.bits_9_2 (x : Mem) (maj : BitVec 6) :
    bits (x.toWord maj) 9 2 = 0#2 :=
  (bits_hi (n := 23) (m := 9) _ _ 9 2 (by decide)).trans ((bits_lo (n := 21) (m := 2) _ _ 0 2 (by decide)).trans (bits_all _))

@[simp] theorem Mem.bits_0_9 (x : Mem) (maj : BitVec 6) :
    bits (x.toWord maj) 0 9 = x.off :=
  (bits_lo (n := 23) (m := 9) _ _ 0 9 (by decide)).trans (bits_all _)

@[simp] theorem Mem.ofWord_toWord (x : Mem) (maj : BitVec 6) : Mem.ofWord (x.toWord maj) = .ok x := by
  simp [Mem.ofWord]

/-! ### MemS -/

@[simp] theorem MemS.major (x : MemS) (maj : BitVec 6) :
    major (x.toWord maj) = maj :=
  (bits_hi (n := 23) (m := 9) _ _ 26 6 (by decide)).trans ((bits_hi (n := 21) (m := 2) _ _ 17 6 (by decide)).trans ((bits_hi (n := 19) (m := 2) _ _ 15 6 (by decide)).trans ((bits_hi (n := 14) (m := 5) _ _ 13 6 (by decide)).trans ((bits_hi (n := 9) (m := 5) _ _ 8 6 (by decide)).trans ((bits_hi (n := 6) (m := 3) _ _ 3 6 (by decide)).trans (bits_all _))))))

@[simp] theorem MemS.bits_23_3 (x : MemS) (maj : BitVec 6) :
    bits (x.toWord maj) 23 3 = x.st :=
  (bits_hi (n := 23) (m := 9) _ _ 23 3 (by decide)).trans ((bits_hi (n := 21) (m := 2) _ _ 14 3 (by decide)).trans ((bits_hi (n := 19) (m := 2) _ _ 12 3 (by decide)).trans ((bits_hi (n := 14) (m := 5) _ _ 10 3 (by decide)).trans ((bits_hi (n := 9) (m := 5) _ _ 5 3 (by decide)).trans ((bits_lo (n := 6) (m := 3) _ _ 0 3 (by decide)).trans (bits_all _))))))

@[simp] theorem MemS.bits_18_5 (x : MemS) (maj : BitVec 6) :
    bits (x.toWord maj) 18 5 = x.d :=
  (bits_hi (n := 23) (m := 9) _ _ 18 5 (by decide)).trans ((bits_hi (n := 21) (m := 2) _ _ 9 5 (by decide)).trans ((bits_hi (n := 19) (m := 2) _ _ 7 5 (by decide)).trans ((bits_hi (n := 14) (m := 5) _ _ 5 5 (by decide)).trans ((bits_lo (n := 9) (m := 5) _ _ 0 5 (by decide)).trans (bits_all _)))))

@[simp] theorem MemS.bits_13_5 (x : MemS) (maj : BitVec 6) :
    bits (x.toWord maj) 13 5 = x.a :=
  (bits_hi (n := 23) (m := 9) _ _ 13 5 (by decide)).trans ((bits_hi (n := 21) (m := 2) _ _ 4 5 (by decide)).trans ((bits_hi (n := 19) (m := 2) _ _ 2 5 (by decide)).trans ((bits_lo (n := 14) (m := 5) _ _ 0 5 (by decide)).trans (bits_all _))))

@[simp] theorem MemS.bits_11_2 (x : MemS) (maj : BitVec 6) :
    bits (x.toWord maj) 11 2 = x.sz :=
  (bits_hi (n := 23) (m := 9) _ _ 11 2 (by decide)).trans ((bits_hi (n := 21) (m := 2) _ _ 2 2 (by decide)).trans ((bits_lo (n := 19) (m := 2) _ _ 0 2 (by decide)).trans (bits_all _)))

@[simp] theorem MemS.bits_9_2 (x : MemS) (maj : BitVec 6) :
    bits (x.toWord maj) 9 2 = x.sc :=
  (bits_hi (n := 23) (m := 9) _ _ 9 2 (by decide)).trans ((bits_lo (n := 21) (m := 2) _ _ 0 2 (by decide)).trans (bits_all _))

@[simp] theorem MemS.bits_0_9 (x : MemS) (maj : BitVec 6) :
    bits (x.toWord maj) 0 9 = x.off :=
  (bits_lo (n := 23) (m := 9) _ _ 0 9 (by decide)).trans (bits_all _)

@[simp] theorem MemS.ofWord_toWord (x : MemS) (maj : BitVec 6) : MemS.ofWord (x.toWord maj) = .ok x := by
  simp [MemS.ofWord]

/-! ### RRRR -/

@[simp] theorem RRRR.major (x : RRRR) (maj : BitVec 6) (fn : BitVec 3) :
    major (x.toWord maj fn) = maj :=
  (bits_hi (n := 29) (m := 3) _ _ 26 6 (by decide)).trans ((bits_hi (n := 24) (m := 5) _ _ 23 6 (by decide)).trans ((bits_hi (n := 19) (m := 5) _ _ 18 6 (by decide)).trans ((bits_hi (n := 14) (m := 5) _ _ 13 6 (by decide)).trans ((bits_hi (n := 9) (m := 5) _ _ 8 6 (by decide)).trans ((bits_hi (n := 6) (m := 3) _ _ 3 6 (by decide)).trans (bits_all _))))))

@[simp] theorem RRRR.bits_23_3 (x : RRRR) (maj : BitVec 6) (fn : BitVec 3) :
    bits (x.toWord maj fn) 23 3 = x.st :=
  (bits_hi (n := 29) (m := 3) _ _ 23 3 (by decide)).trans ((bits_hi (n := 24) (m := 5) _ _ 20 3 (by decide)).trans ((bits_hi (n := 19) (m := 5) _ _ 15 3 (by decide)).trans ((bits_hi (n := 14) (m := 5) _ _ 10 3 (by decide)).trans ((bits_hi (n := 9) (m := 5) _ _ 5 3 (by decide)).trans ((bits_lo (n := 6) (m := 3) _ _ 0 3 (by decide)).trans (bits_all _))))))

@[simp] theorem RRRR.bits_18_5 (x : RRRR) (maj : BitVec 6) (fn : BitVec 3) :
    bits (x.toWord maj fn) 18 5 = x.d :=
  (bits_hi (n := 29) (m := 3) _ _ 18 5 (by decide)).trans ((bits_hi (n := 24) (m := 5) _ _ 15 5 (by decide)).trans ((bits_hi (n := 19) (m := 5) _ _ 10 5 (by decide)).trans ((bits_hi (n := 14) (m := 5) _ _ 5 5 (by decide)).trans ((bits_lo (n := 9) (m := 5) _ _ 0 5 (by decide)).trans (bits_all _)))))

@[simp] theorem RRRR.bits_13_5 (x : RRRR) (maj : BitVec 6) (fn : BitVec 3) :
    bits (x.toWord maj fn) 13 5 = x.a :=
  (bits_hi (n := 29) (m := 3) _ _ 13 5 (by decide)).trans ((bits_hi (n := 24) (m := 5) _ _ 10 5 (by decide)).trans ((bits_hi (n := 19) (m := 5) _ _ 5 5 (by decide)).trans ((bits_lo (n := 14) (m := 5) _ _ 0 5 (by decide)).trans (bits_all _))))

@[simp] theorem RRRR.bits_8_5 (x : RRRR) (maj : BitVec 6) (fn : BitVec 3) :
    bits (x.toWord maj fn) 8 5 = x.b :=
  (bits_hi (n := 29) (m := 3) _ _ 8 5 (by decide)).trans ((bits_hi (n := 24) (m := 5) _ _ 5 5 (by decide)).trans ((bits_lo (n := 19) (m := 5) _ _ 0 5 (by decide)).trans (bits_all _)))

@[simp] theorem RRRR.bits_3_5 (x : RRRR) (maj : BitVec 6) (fn : BitVec 3) :
    bits (x.toWord maj fn) 3 5 = x.c :=
  (bits_hi (n := 29) (m := 3) _ _ 3 5 (by decide)).trans ((bits_lo (n := 24) (m := 5) _ _ 0 5 (by decide)).trans (bits_all _))

@[simp] theorem RRRR.bits_0_3 (x : RRRR) (maj : BitVec 6) (fn : BitVec 3) :
    bits (x.toWord maj fn) 0 3 = fn :=
  (bits_lo (n := 29) (m := 3) _ _ 0 3 (by decide)).trans (bits_all _)

@[simp] theorem RRRR.ofWord_toWord (x : RRRR) (maj : BitVec 6) (fn : BitVec 3) : RRRR.ofWord (x.toWord maj fn) = .ok x := by
  simp [RRRR.ofWord]

/-! ### ABC -/

@[simp] theorem ABC.major (x : ABC) (maj : BitVec 6) (fn : BitVec 3) :
    major (x.toWord maj fn) = maj :=
  (bits_hi (n := 29) (m := 3) _ _ 26 6 (by decide)).trans ((bits_hi (n := 24) (m := 5) _ _ 23 6 (by decide)).trans ((bits_hi (n := 19) (m := 5) _ _ 18 6 (by decide)).trans ((bits_hi (n := 14) (m := 5) _ _ 13 6 (by decide)).trans ((bits_hi (n := 9) (m := 5) _ _ 8 6 (by decide)).trans ((bits_hi (n := 6) (m := 3) _ _ 3 6 (by decide)).trans (bits_all _))))))

@[simp] theorem ABC.bits_23_3 (x : ABC) (maj : BitVec 6) (fn : BitVec 3) :
    bits (x.toWord maj fn) 23 3 = x.st :=
  (bits_hi (n := 29) (m := 3) _ _ 23 3 (by decide)).trans ((bits_hi (n := 24) (m := 5) _ _ 20 3 (by decide)).trans ((bits_hi (n := 19) (m := 5) _ _ 15 3 (by decide)).trans ((bits_hi (n := 14) (m := 5) _ _ 10 3 (by decide)).trans ((bits_hi (n := 9) (m := 5) _ _ 5 3 (by decide)).trans ((bits_lo (n := 6) (m := 3) _ _ 0 3 (by decide)).trans (bits_all _))))))

@[simp] theorem ABC.bits_18_5 (x : ABC) (maj : BitVec 6) (fn : BitVec 3) :
    bits (x.toWord maj fn) 18 5 = 0#5 :=
  (bits_hi (n := 29) (m := 3) _ _ 18 5 (by decide)).trans ((bits_hi (n := 24) (m := 5) _ _ 15 5 (by decide)).trans ((bits_hi (n := 19) (m := 5) _ _ 10 5 (by decide)).trans ((bits_hi (n := 14) (m := 5) _ _ 5 5 (by decide)).trans ((bits_lo (n := 9) (m := 5) _ _ 0 5 (by decide)).trans (bits_all _)))))

@[simp] theorem ABC.bits_13_5 (x : ABC) (maj : BitVec 6) (fn : BitVec 3) :
    bits (x.toWord maj fn) 13 5 = x.a :=
  (bits_hi (n := 29) (m := 3) _ _ 13 5 (by decide)).trans ((bits_hi (n := 24) (m := 5) _ _ 10 5 (by decide)).trans ((bits_hi (n := 19) (m := 5) _ _ 5 5 (by decide)).trans ((bits_lo (n := 14) (m := 5) _ _ 0 5 (by decide)).trans (bits_all _))))

@[simp] theorem ABC.bits_8_5 (x : ABC) (maj : BitVec 6) (fn : BitVec 3) :
    bits (x.toWord maj fn) 8 5 = x.b :=
  (bits_hi (n := 29) (m := 3) _ _ 8 5 (by decide)).trans ((bits_hi (n := 24) (m := 5) _ _ 5 5 (by decide)).trans ((bits_lo (n := 19) (m := 5) _ _ 0 5 (by decide)).trans (bits_all _)))

@[simp] theorem ABC.bits_3_5 (x : ABC) (maj : BitVec 6) (fn : BitVec 3) :
    bits (x.toWord maj fn) 3 5 = x.c :=
  (bits_hi (n := 29) (m := 3) _ _ 3 5 (by decide)).trans ((bits_lo (n := 24) (m := 5) _ _ 0 5 (by decide)).trans (bits_all _))

@[simp] theorem ABC.bits_0_3 (x : ABC) (maj : BitVec 6) (fn : BitVec 3) :
    bits (x.toWord maj fn) 0 3 = fn :=
  (bits_lo (n := 29) (m := 3) _ _ 0 3 (by decide)).trans (bits_all _)

@[simp] theorem ABC.ofWord_toWord (x : ABC) (maj : BitVec 6) (fn : BitVec 3) : ABC.ofWord (x.toWord maj fn) = .ok x := by
  simp [ABC.ofWord]

/-! ### RAC -/

@[simp] theorem RAC.major (x : RAC) (maj : BitVec 6) (fn : BitVec 3) :
    major (x.toWord maj fn) = maj :=
  (bits_hi (n := 29) (m := 3) _ _ 26 6 (by decide)).trans ((bits_hi (n := 24) (m := 5) _ _ 23 6 (by decide)).trans ((bits_hi (n := 19) (m := 5) _ _ 18 6 (by decide)).trans ((bits_hi (n := 14) (m := 5) _ _ 13 6 (by decide)).trans ((bits_hi (n := 9) (m := 5) _ _ 8 6 (by decide)).trans ((bits_hi (n := 6) (m := 3) _ _ 3 6 (by decide)).trans (bits_all _))))))

@[simp] theorem RAC.bits_23_3 (x : RAC) (maj : BitVec 6) (fn : BitVec 3) :
    bits (x.toWord maj fn) 23 3 = x.st :=
  (bits_hi (n := 29) (m := 3) _ _ 23 3 (by decide)).trans ((bits_hi (n := 24) (m := 5) _ _ 20 3 (by decide)).trans ((bits_hi (n := 19) (m := 5) _ _ 15 3 (by decide)).trans ((bits_hi (n := 14) (m := 5) _ _ 10 3 (by decide)).trans ((bits_hi (n := 9) (m := 5) _ _ 5 3 (by decide)).trans ((bits_lo (n := 6) (m := 3) _ _ 0 3 (by decide)).trans (bits_all _))))))

@[simp] theorem RAC.bits_18_5 (x : RAC) (maj : BitVec 6) (fn : BitVec 3) :
    bits (x.toWord maj fn) 18 5 = x.d :=
  (bits_hi (n := 29) (m := 3) _ _ 18 5 (by decide)).trans ((bits_hi (n := 24) (m := 5) _ _ 15 5 (by decide)).trans ((bits_hi (n := 19) (m := 5) _ _ 10 5 (by decide)).trans ((bits_hi (n := 14) (m := 5) _ _ 5 5 (by decide)).trans ((bits_lo (n := 9) (m := 5) _ _ 0 5 (by decide)).trans (bits_all _)))))

@[simp] theorem RAC.bits_13_5 (x : RAC) (maj : BitVec 6) (fn : BitVec 3) :
    bits (x.toWord maj fn) 13 5 = x.a :=
  (bits_hi (n := 29) (m := 3) _ _ 13 5 (by decide)).trans ((bits_hi (n := 24) (m := 5) _ _ 10 5 (by decide)).trans ((bits_hi (n := 19) (m := 5) _ _ 5 5 (by decide)).trans ((bits_lo (n := 14) (m := 5) _ _ 0 5 (by decide)).trans (bits_all _))))

@[simp] theorem RAC.bits_8_5 (x : RAC) (maj : BitVec 6) (fn : BitVec 3) :
    bits (x.toWord maj fn) 8 5 = 0#5 :=
  (bits_hi (n := 29) (m := 3) _ _ 8 5 (by decide)).trans ((bits_hi (n := 24) (m := 5) _ _ 5 5 (by decide)).trans ((bits_lo (n := 19) (m := 5) _ _ 0 5 (by decide)).trans (bits_all _)))

@[simp] theorem RAC.bits_3_5 (x : RAC) (maj : BitVec 6) (fn : BitVec 3) :
    bits (x.toWord maj fn) 3 5 = x.c :=
  (bits_hi (n := 29) (m := 3) _ _ 3 5 (by decide)).trans ((bits_lo (n := 24) (m := 5) _ _ 0 5 (by decide)).trans (bits_all _))

@[simp] theorem RAC.bits_0_3 (x : RAC) (maj : BitVec 6) (fn : BitVec 3) :
    bits (x.toWord maj fn) 0 3 = fn :=
  (bits_lo (n := 29) (m := 3) _ _ 0 3 (by decide)).trans (bits_all _)

@[simp] theorem RAC.ofWord_toWord (x : RAC) (maj : BitVec 6) (fn : BitVec 3) : RAC.ofWord (x.toWord maj fn) = .ok x := by
  simp [RAC.ofWord]

/-! ### BitF -/

@[simp] theorem BitF.major (x : BitF) (maj : BitVec 6) :
    major (x.toWord maj) = maj :=
  (bits_hi (n := 26) (m := 6) _ _ 26 6 (by decide)).trans ((bits_hi (n := 19) (m := 7) _ _ 20 6 (by decide)).trans ((bits_hi (n := 14) (m := 5) _ _ 13 6 (by decide)).trans ((bits_hi (n := 9) (m := 5) _ _ 8 6 (by decide)).trans ((bits_hi (n := 6) (m := 3) _ _ 3 6 (by decide)).trans (bits_all _)))))

@[simp] theorem BitF.bits_23_3 (x : BitF) (maj : BitVec 6) :
    bits (x.toWord maj) 23 3 = x.st :=
  (bits_hi (n := 26) (m := 6) _ _ 23 3 (by decide)).trans ((bits_hi (n := 19) (m := 7) _ _ 17 3 (by decide)).trans ((bits_hi (n := 14) (m := 5) _ _ 10 3 (by decide)).trans ((bits_hi (n := 9) (m := 5) _ _ 5 3 (by decide)).trans ((bits_lo (n := 6) (m := 3) _ _ 0 3 (by decide)).trans (bits_all _)))))

@[simp] theorem BitF.bits_18_5 (x : BitF) (maj : BitVec 6) :
    bits (x.toWord maj) 18 5 = x.d :=
  (bits_hi (n := 26) (m := 6) _ _ 18 5 (by decide)).trans ((bits_hi (n := 19) (m := 7) _ _ 12 5 (by decide)).trans ((bits_hi (n := 14) (m := 5) _ _ 5 5 (by decide)).trans ((bits_lo (n := 9) (m := 5) _ _ 0 5 (by decide)).trans (bits_all _))))

@[simp] theorem BitF.bits_13_5 (x : BitF) (maj : BitVec 6) :
    bits (x.toWord maj) 13 5 = x.a :=
  (bits_hi (n := 26) (m := 6) _ _ 13 5 (by decide)).trans ((bits_hi (n := 19) (m := 7) _ _ 7 5 (by decide)).trans ((bits_lo (n := 14) (m := 5) _ _ 0 5 (by decide)).trans (bits_all _)))

@[simp] theorem BitF.bits_6_7 (x : BitF) (maj : BitVec 6) :
    bits (x.toWord maj) 6 7 = x.len :=
  (bits_hi (n := 26) (m := 6) _ _ 6 7 (by decide)).trans ((bits_lo (n := 19) (m := 7) _ _ 0 7 (by decide)).trans (bits_all _))

@[simp] theorem BitF.bits_0_6 (x : BitF) (maj : BitVec 6) :
    bits (x.toWord maj) 0 6 = x.pos :=
  (bits_lo (n := 26) (m := 6) _ _ 0 6 (by decide)).trans (bits_all _)

@[simp] theorem BitF.ofWord_toWord (x : BitF) (maj : BitVec 6) : BitF.ofWord (x.toWord maj) = .ok x := by
  simp [BitF.ofWord]

/-! ### Br -/

@[simp] theorem Br.major (x : Br) (maj : BitVec 6) (fn : BitVec 3) :
    major (x.toWord maj fn) = maj :=
  (bits_hi (n := 23) (m := 9) _ _ 26 6 (by decide)).trans ((bits_hi (n := 18) (m := 5) _ _ 17 6 (by decide)).trans ((bits_hi (n := 13) (m := 5) _ _ 12 6 (by decide)).trans ((bits_hi (n := 12) (m := 1) _ _ 7 6 (by decide)).trans ((bits_hi (n := 9) (m := 3) _ _ 6 6 (by decide)).trans ((bits_hi (n := 6) (m := 3) _ _ 3 6 (by decide)).trans (bits_all _))))))

@[simp] theorem Br.bits_23_3 (x : Br) (maj : BitVec 6) (fn : BitVec 3) :
    bits (x.toWord maj fn) 23 3 = x.st :=
  (bits_hi (n := 23) (m := 9) _ _ 23 3 (by decide)).trans ((bits_hi (n := 18) (m := 5) _ _ 14 3 (by decide)).trans ((bits_hi (n := 13) (m := 5) _ _ 9 3 (by decide)).trans ((bits_hi (n := 12) (m := 1) _ _ 4 3 (by decide)).trans ((bits_hi (n := 9) (m := 3) _ _ 3 3 (by decide)).trans ((bits_lo (n := 6) (m := 3) _ _ 0 3 (by decide)).trans (bits_all _))))))

@[simp] theorem Br.bits_20_3 (x : Br) (maj : BitVec 6) (fn : BitVec 3) :
    bits (x.toWord maj fn) 20 3 = fn :=
  (bits_hi (n := 23) (m := 9) _ _ 20 3 (by decide)).trans ((bits_hi (n := 18) (m := 5) _ _ 11 3 (by decide)).trans ((bits_hi (n := 13) (m := 5) _ _ 6 3 (by decide)).trans ((bits_hi (n := 12) (m := 1) _ _ 1 3 (by decide)).trans ((bits_lo (n := 9) (m := 3) _ _ 0 3 (by decide)).trans (bits_all _)))))

@[simp] theorem Br.bits_19_1 (x : Br) (maj : BitVec 6) (fn : BitVec 3) :
    bits (x.toWord maj fn) 19 1 = x.nul :=
  (bits_hi (n := 23) (m := 9) _ _ 19 1 (by decide)).trans ((bits_hi (n := 18) (m := 5) _ _ 10 1 (by decide)).trans ((bits_hi (n := 13) (m := 5) _ _ 5 1 (by decide)).trans ((bits_lo (n := 12) (m := 1) _ _ 0 1 (by decide)).trans (bits_all _))))

@[simp] theorem Br.bits_14_5 (x : Br) (maj : BitVec 6) (fn : BitVec 3) :
    bits (x.toWord maj fn) 14 5 = x.a :=
  (bits_hi (n := 23) (m := 9) _ _ 14 5 (by decide)).trans ((bits_hi (n := 18) (m := 5) _ _ 5 5 (by decide)).trans ((bits_lo (n := 13) (m := 5) _ _ 0 5 (by decide)).trans (bits_all _)))

@[simp] theorem Br.bits_9_5 (x : Br) (maj : BitVec 6) (fn : BitVec 3) :
    bits (x.toWord maj fn) 9 5 = x.b :=
  (bits_hi (n := 23) (m := 9) _ _ 9 5 (by decide)).trans ((bits_lo (n := 18) (m := 5) _ _ 0 5 (by decide)).trans (bits_all _))

@[simp] theorem Br.bits_0_9 (x : Br) (maj : BitVec 6) (fn : BitVec 3) :
    bits (x.toWord maj fn) 0 9 = x.disp :=
  (bits_lo (n := 23) (m := 9) _ _ 0 9 (by decide)).trans (bits_all _)

@[simp] theorem Br.ofWord_toWord (x : Br) (maj : BitVec 6) (fn : BitVec 3) : Br.ofWord (x.toWord maj fn) = .ok x := by
  simp [Br.ofWord]

/-! ### BrL -/

@[simp] theorem BrL.major (x : BrL) (maj : BitVec 6) (fn : BitVec 3) :
    major (x.toWord maj fn) = maj :=
  (bits_hi (n := 12) (m := 20) _ _ 26 6 (by decide)).trans ((bits_hi (n := 9) (m := 3) _ _ 6 6 (by decide)).trans ((bits_hi (n := 6) (m := 3) _ _ 3 6 (by decide)).trans (bits_all _)))

@[simp] theorem BrL.bits_23_3 (x : BrL) (maj : BitVec 6) (fn : BitVec 3) :
    bits (x.toWord maj fn) 23 3 = x.st :=
  (bits_hi (n := 12) (m := 20) _ _ 23 3 (by decide)).trans ((bits_hi (n := 9) (m := 3) _ _ 3 3 (by decide)).trans ((bits_lo (n := 6) (m := 3) _ _ 0 3 (by decide)).trans (bits_all _)))

@[simp] theorem BrL.bits_20_3 (x : BrL) (maj : BitVec 6) (fn : BitVec 3) :
    bits (x.toWord maj fn) 20 3 = fn :=
  (bits_hi (n := 12) (m := 20) _ _ 20 3 (by decide)).trans ((bits_lo (n := 9) (m := 3) _ _ 0 3 (by decide)).trans (bits_all _))

@[simp] theorem BrL.bits_0_20 (x : BrL) (maj : BitVec 6) (fn : BitVec 3) :
    bits (x.toWord maj fn) 0 20 = x.disp :=
  (bits_lo (n := 12) (m := 20) _ _ 0 20 (by decide)).trans (bits_all _)

@[simp] theorem BrL.ofWord_toWord (x : BrL) (maj : BitVec 6) (fn : BitVec 3) : BrL.ofWord (x.toWord maj fn) = .ok x := by
  simp [BrL.ofWord]

/-! ### Rep -/

@[simp] theorem Rep.major (x : Rep) (maj : BitVec 6) :
    major (x.toWord maj) = maj :=
  (bits_hi (n := 26) (m := 6) _ _ 26 6 (by decide)).trans ((bits_hi (n := 24) (m := 2) _ _ 20 6 (by decide)).trans ((bits_hi (n := 19) (m := 5) _ _ 18 6 (by decide)).trans ((bits_hi (n := 14) (m := 5) _ _ 13 6 (by decide)).trans ((bits_hi (n := 9) (m := 5) _ _ 8 6 (by decide)).trans ((bits_hi (n := 6) (m := 3) _ _ 3 6 (by decide)).trans (bits_all _))))))

@[simp] theorem Rep.bits_23_3 (x : Rep) (maj : BitVec 6) :
    bits (x.toWord maj) 23 3 = x.st :=
  (bits_hi (n := 26) (m := 6) _ _ 23 3 (by decide)).trans ((bits_hi (n := 24) (m := 2) _ _ 17 3 (by decide)).trans ((bits_hi (n := 19) (m := 5) _ _ 15 3 (by decide)).trans ((bits_hi (n := 14) (m := 5) _ _ 10 3 (by decide)).trans ((bits_hi (n := 9) (m := 5) _ _ 5 3 (by decide)).trans ((bits_lo (n := 6) (m := 3) _ _ 0 3 (by decide)).trans (bits_all _))))))

@[simp] theorem Rep.bits_18_5 (x : Rep) (maj : BitVec 6) :
    bits (x.toWord maj) 18 5 = 0#5 :=
  (bits_hi (n := 26) (m := 6) _ _ 18 5 (by decide)).trans ((bits_hi (n := 24) (m := 2) _ _ 12 5 (by decide)).trans ((bits_hi (n := 19) (m := 5) _ _ 10 5 (by decide)).trans ((bits_hi (n := 14) (m := 5) _ _ 5 5 (by decide)).trans ((bits_lo (n := 9) (m := 5) _ _ 0 5 (by decide)).trans (bits_all _)))))

@[simp] theorem Rep.bits_13_5 (x : Rep) (maj : BitVec 6) :
    bits (x.toWord maj) 13 5 = x.a :=
  (bits_hi (n := 26) (m := 6) _ _ 13 5 (by decide)).trans ((bits_hi (n := 24) (m := 2) _ _ 7 5 (by decide)).trans ((bits_hi (n := 19) (m := 5) _ _ 5 5 (by decide)).trans ((bits_lo (n := 14) (m := 5) _ _ 0 5 (by decide)).trans (bits_all _))))

@[simp] theorem Rep.bits_8_5 (x : Rep) (maj : BitVec 6) :
    bits (x.toWord maj) 8 5 = 0#5 :=
  (bits_hi (n := 26) (m := 6) _ _ 8 5 (by decide)).trans ((bits_hi (n := 24) (m := 2) _ _ 2 5 (by decide)).trans ((bits_lo (n := 19) (m := 5) _ _ 0 5 (by decide)).trans (bits_all _)))

@[simp] theorem Rep.bits_6_2 (x : Rep) (maj : BitVec 6) :
    bits (x.toWord maj) 6 2 = 1#2 :=
  (bits_hi (n := 26) (m := 6) _ _ 6 2 (by decide)).trans ((bits_lo (n := 24) (m := 2) _ _ 0 2 (by decide)).trans (bits_all _))

@[simp] theorem Rep.bits_0_6 (x : Rep) (maj : BitVec 6) :
    bits (x.toWord maj) 0 6 = x.len1 :=
  (bits_lo (n := 26) (m := 6) _ _ 0 6 (by decide)).trans (bits_all _)

@[simp] theorem Rep.ofWord_toWord (x : Rep) (maj : BitVec 6) : Rep.ofWord (x.toWord maj) = .ok x := by
  simp [Rep.ofWord]

/-! ### FRRR -/

@[simp] theorem FRRR.major (x : FRRR) (maj : BitVec 6) (fn : BitVec 6) :
    major (x.toWord maj fn) = maj :=
  (bits_hi (n := 26) (m := 6) _ _ 26 6 (by decide)).trans ((bits_hi (n := 24) (m := 2) _ _ 20 6 (by decide)).trans ((bits_hi (n := 19) (m := 5) _ _ 18 6 (by decide)).trans ((bits_hi (n := 14) (m := 5) _ _ 13 6 (by decide)).trans ((bits_hi (n := 9) (m := 5) _ _ 8 6 (by decide)).trans ((bits_hi (n := 6) (m := 3) _ _ 3 6 (by decide)).trans (bits_all _))))))

@[simp] theorem FRRR.bits_23_3 (x : FRRR) (maj : BitVec 6) (fn : BitVec 6) :
    bits (x.toWord maj fn) 23 3 = x.st :=
  (bits_hi (n := 26) (m := 6) _ _ 23 3 (by decide)).trans ((bits_hi (n := 24) (m := 2) _ _ 17 3 (by decide)).trans ((bits_hi (n := 19) (m := 5) _ _ 15 3 (by decide)).trans ((bits_hi (n := 14) (m := 5) _ _ 10 3 (by decide)).trans ((bits_hi (n := 9) (m := 5) _ _ 5 3 (by decide)).trans ((bits_lo (n := 6) (m := 3) _ _ 0 3 (by decide)).trans (bits_all _))))))

@[simp] theorem FRRR.bits_18_5 (x : FRRR) (maj : BitVec 6) (fn : BitVec 6) :
    bits (x.toWord maj fn) 18 5 = x.d :=
  (bits_hi (n := 26) (m := 6) _ _ 18 5 (by decide)).trans ((bits_hi (n := 24) (m := 2) _ _ 12 5 (by decide)).trans ((bits_hi (n := 19) (m := 5) _ _ 10 5 (by decide)).trans ((bits_hi (n := 14) (m := 5) _ _ 5 5 (by decide)).trans ((bits_lo (n := 9) (m := 5) _ _ 0 5 (by decide)).trans (bits_all _)))))

@[simp] theorem FRRR.bits_13_5 (x : FRRR) (maj : BitVec 6) (fn : BitVec 6) :
    bits (x.toWord maj fn) 13 5 = x.a :=
  (bits_hi (n := 26) (m := 6) _ _ 13 5 (by decide)).trans ((bits_hi (n := 24) (m := 2) _ _ 7 5 (by decide)).trans ((bits_hi (n := 19) (m := 5) _ _ 5 5 (by decide)).trans ((bits_lo (n := 14) (m := 5) _ _ 0 5 (by decide)).trans (bits_all _))))

@[simp] theorem FRRR.bits_8_5 (x : FRRR) (maj : BitVec 6) (fn : BitVec 6) :
    bits (x.toWord maj fn) 8 5 = x.b :=
  (bits_hi (n := 26) (m := 6) _ _ 8 5 (by decide)).trans ((bits_hi (n := 24) (m := 2) _ _ 2 5 (by decide)).trans ((bits_lo (n := 19) (m := 5) _ _ 0 5 (by decide)).trans (bits_all _)))

@[simp] theorem FRRR.bits_6_2 (x : FRRR) (maj : BitVec 6) (fn : BitVec 6) :
    bits (x.toWord maj fn) 6 2 = x.fmt :=
  (bits_hi (n := 26) (m := 6) _ _ 6 2 (by decide)).trans ((bits_lo (n := 24) (m := 2) _ _ 0 2 (by decide)).trans (bits_all _))

@[simp] theorem FRRR.bits_0_6 (x : FRRR) (maj : BitVec 6) (fn : BitVec 6) :
    bits (x.toWord maj fn) 0 6 = fn :=
  (bits_lo (n := 26) (m := 6) _ _ 0 6 (by decide)).trans (bits_all _)

@[simp] theorem FRRR.ofWord_toWord (x : FRRR) (maj : BitVec 6) (fn : BitVec 6) : FRRR.ofWord (x.toWord maj fn) = .ok x := by
  simp [FRRR.ofWord]

/-! ### FRR -/

@[simp] theorem FRR.major (x : FRR) (maj : BitVec 6) (fn : BitVec 6) :
    major (x.toWord maj fn) = maj :=
  (bits_hi (n := 26) (m := 6) _ _ 26 6 (by decide)).trans ((bits_hi (n := 24) (m := 2) _ _ 20 6 (by decide)).trans ((bits_hi (n := 19) (m := 5) _ _ 18 6 (by decide)).trans ((bits_hi (n := 14) (m := 5) _ _ 13 6 (by decide)).trans ((bits_hi (n := 9) (m := 5) _ _ 8 6 (by decide)).trans ((bits_hi (n := 6) (m := 3) _ _ 3 6 (by decide)).trans (bits_all _))))))

@[simp] theorem FRR.bits_23_3 (x : FRR) (maj : BitVec 6) (fn : BitVec 6) :
    bits (x.toWord maj fn) 23 3 = x.st :=
  (bits_hi (n := 26) (m := 6) _ _ 23 3 (by decide)).trans ((bits_hi (n := 24) (m := 2) _ _ 17 3 (by decide)).trans ((bits_hi (n := 19) (m := 5) _ _ 15 3 (by decide)).trans ((bits_hi (n := 14) (m := 5) _ _ 10 3 (by decide)).trans ((bits_hi (n := 9) (m := 5) _ _ 5 3 (by decide)).trans ((bits_lo (n := 6) (m := 3) _ _ 0 3 (by decide)).trans (bits_all _))))))

@[simp] theorem FRR.bits_18_5 (x : FRR) (maj : BitVec 6) (fn : BitVec 6) :
    bits (x.toWord maj fn) 18 5 = x.d :=
  (bits_hi (n := 26) (m := 6) _ _ 18 5 (by decide)).trans ((bits_hi (n := 24) (m := 2) _ _ 12 5 (by decide)).trans ((bits_hi (n := 19) (m := 5) _ _ 10 5 (by decide)).trans ((bits_hi (n := 14) (m := 5) _ _ 5 5 (by decide)).trans ((bits_lo (n := 9) (m := 5) _ _ 0 5 (by decide)).trans (bits_all _)))))

@[simp] theorem FRR.bits_13_5 (x : FRR) (maj : BitVec 6) (fn : BitVec 6) :
    bits (x.toWord maj fn) 13 5 = x.a :=
  (bits_hi (n := 26) (m := 6) _ _ 13 5 (by decide)).trans ((bits_hi (n := 24) (m := 2) _ _ 7 5 (by decide)).trans ((bits_hi (n := 19) (m := 5) _ _ 5 5 (by decide)).trans ((bits_lo (n := 14) (m := 5) _ _ 0 5 (by decide)).trans (bits_all _))))

@[simp] theorem FRR.bits_8_5 (x : FRR) (maj : BitVec 6) (fn : BitVec 6) :
    bits (x.toWord maj fn) 8 5 = 0#5 :=
  (bits_hi (n := 26) (m := 6) _ _ 8 5 (by decide)).trans ((bits_hi (n := 24) (m := 2) _ _ 2 5 (by decide)).trans ((bits_lo (n := 19) (m := 5) _ _ 0 5 (by decide)).trans (bits_all _)))

@[simp] theorem FRR.bits_6_2 (x : FRR) (maj : BitVec 6) (fn : BitVec 6) :
    bits (x.toWord maj fn) 6 2 = x.fmt :=
  (bits_hi (n := 26) (m := 6) _ _ 6 2 (by decide)).trans ((bits_lo (n := 24) (m := 2) _ _ 0 2 (by decide)).trans (bits_all _))

@[simp] theorem FRR.bits_0_6 (x : FRR) (maj : BitVec 6) (fn : BitVec 6) :
    bits (x.toWord maj fn) 0 6 = fn :=
  (bits_lo (n := 26) (m := 6) _ _ 0 6 (by decide)).trans (bits_all _)

@[simp] theorem FRR.ofWord_toWord (x : FRR) (maj : BitVec 6) (fn : BitVec 6) : FRR.ofWord (x.toWord maj fn) = .ok x := by
  simp [FRR.ofWord]

/-! ### FX -/

@[simp] theorem FX.major (x : FX) (maj : BitVec 6) (fn : BitVec 2) :
    major (x.toWord maj fn) = maj :=
  (bits_hi (n := 31) (m := 1) _ _ 26 6 (by decide)).trans ((bits_hi (n := 29) (m := 2) _ _ 25 6 (by decide)).trans ((bits_hi (n := 24) (m := 5) _ _ 23 6 (by decide)).trans ((bits_hi (n := 19) (m := 5) _ _ 18 6 (by decide)).trans ((bits_hi (n := 14) (m := 5) _ _ 13 6 (by decide)).trans ((bits_hi (n := 9) (m := 5) _ _ 8 6 (by decide)).trans ((bits_hi (n := 6) (m := 3) _ _ 3 6 (by decide)).trans (bits_all _)))))))

@[simp] theorem FX.bits_23_3 (x : FX) (maj : BitVec 6) (fn : BitVec 2) :
    bits (x.toWord maj fn) 23 3 = x.st :=
  (bits_hi (n := 31) (m := 1) _ _ 23 3 (by decide)).trans ((bits_hi (n := 29) (m := 2) _ _ 22 3 (by decide)).trans ((bits_hi (n := 24) (m := 5) _ _ 20 3 (by decide)).trans ((bits_hi (n := 19) (m := 5) _ _ 15 3 (by decide)).trans ((bits_hi (n := 14) (m := 5) _ _ 10 3 (by decide)).trans ((bits_hi (n := 9) (m := 5) _ _ 5 3 (by decide)).trans ((bits_lo (n := 6) (m := 3) _ _ 0 3 (by decide)).trans (bits_all _)))))))

@[simp] theorem FX.bits_18_5 (x : FX) (maj : BitVec 6) (fn : BitVec 2) :
    bits (x.toWord maj fn) 18 5 = x.d :=
  (bits_hi (n := 31) (m := 1) _ _ 18 5 (by decide)).trans ((bits_hi (n := 29) (m := 2) _ _ 17 5 (by decide)).trans ((bits_hi (n := 24) (m := 5) _ _ 15 5 (by decide)).trans ((bits_hi (n := 19) (m := 5) _ _ 10 5 (by decide)).trans ((bits_hi (n := 14) (m := 5) _ _ 5 5 (by decide)).trans ((bits_lo (n := 9) (m := 5) _ _ 0 5 (by decide)).trans (bits_all _))))))

@[simp] theorem FX.bits_13_5 (x : FX) (maj : BitVec 6) (fn : BitVec 2) :
    bits (x.toWord maj fn) 13 5 = x.a :=
  (bits_hi (n := 31) (m := 1) _ _ 13 5 (by decide)).trans ((bits_hi (n := 29) (m := 2) _ _ 12 5 (by decide)).trans ((bits_hi (n := 24) (m := 5) _ _ 10 5 (by decide)).trans ((bits_hi (n := 19) (m := 5) _ _ 5 5 (by decide)).trans ((bits_lo (n := 14) (m := 5) _ _ 0 5 (by decide)).trans (bits_all _)))))

@[simp] theorem FX.bits_8_5 (x : FX) (maj : BitVec 6) (fn : BitVec 2) :
    bits (x.toWord maj fn) 8 5 = x.b :=
  (bits_hi (n := 31) (m := 1) _ _ 8 5 (by decide)).trans ((bits_hi (n := 29) (m := 2) _ _ 7 5 (by decide)).trans ((bits_hi (n := 24) (m := 5) _ _ 5 5 (by decide)).trans ((bits_lo (n := 19) (m := 5) _ _ 0 5 (by decide)).trans (bits_all _))))

@[simp] theorem FX.bits_3_5 (x : FX) (maj : BitVec 6) (fn : BitVec 2) :
    bits (x.toWord maj fn) 3 5 = x.c :=
  (bits_hi (n := 31) (m := 1) _ _ 3 5 (by decide)).trans ((bits_hi (n := 29) (m := 2) _ _ 2 5 (by decide)).trans ((bits_lo (n := 24) (m := 5) _ _ 0 5 (by decide)).trans (bits_all _)))

@[simp] theorem FX.bits_1_2 (x : FX) (maj : BitVec 6) (fn : BitVec 2) :
    bits (x.toWord maj fn) 1 2 = fn :=
  (bits_hi (n := 31) (m := 1) _ _ 1 2 (by decide)).trans ((bits_lo (n := 29) (m := 2) _ _ 0 2 (by decide)).trans (bits_all _))

@[simp] theorem FX.bits_0_1 (x : FX) (maj : BitVec 6) (fn : BitVec 2) :
    bits (x.toWord maj fn) 0 1 = x.single :=
  (bits_lo (n := 31) (m := 1) _ _ 0 1 (by decide)).trans (bits_all _)

@[simp] theorem FX.ofWord_toWord (x : FX) (maj : BitVec 6) (fn : BitVec 2) : FX.ofWord (x.toWord maj fn) = .ok x := by
  simp [FX.ofWord]

/-! ### Cvt -/

@[simp] theorem Cvt.major (x : Cvt) (maj : BitVec 6) (fn : BitVec 2) :
    major (x.toWord maj fn) = maj :=
  (bits_hi (n := 29) (m := 3) _ _ 26 6 (by decide)).trans ((bits_hi (n := 26) (m := 3) _ _ 23 6 (by decide)).trans ((bits_hi (n := 24) (m := 2) _ _ 20 6 (by decide)).trans ((bits_hi (n := 19) (m := 5) _ _ 18 6 (by decide)).trans ((bits_hi (n := 14) (m := 5) _ _ 13 6 (by decide)).trans ((bits_hi (n := 9) (m := 5) _ _ 8 6 (by decide)).trans ((bits_hi (n := 6) (m := 3) _ _ 3 6 (by decide)).trans (bits_all _)))))))

@[simp] theorem Cvt.bits_23_3 (x : Cvt) (maj : BitVec 6) (fn : BitVec 2) :
    bits (x.toWord maj fn) 23 3 = x.st :=
  (bits_hi (n := 29) (m := 3) _ _ 23 3 (by decide)).trans ((bits_hi (n := 26) (m := 3) _ _ 20 3 (by decide)).trans ((bits_hi (n := 24) (m := 2) _ _ 17 3 (by decide)).trans ((bits_hi (n := 19) (m := 5) _ _ 15 3 (by decide)).trans ((bits_hi (n := 14) (m := 5) _ _ 10 3 (by decide)).trans ((bits_hi (n := 9) (m := 5) _ _ 5 3 (by decide)).trans ((bits_lo (n := 6) (m := 3) _ _ 0 3 (by decide)).trans (bits_all _)))))))

@[simp] theorem Cvt.bits_18_5 (x : Cvt) (maj : BitVec 6) (fn : BitVec 2) :
    bits (x.toWord maj fn) 18 5 = x.d :=
  (bits_hi (n := 29) (m := 3) _ _ 18 5 (by decide)).trans ((bits_hi (n := 26) (m := 3) _ _ 15 5 (by decide)).trans ((bits_hi (n := 24) (m := 2) _ _ 12 5 (by decide)).trans ((bits_hi (n := 19) (m := 5) _ _ 10 5 (by decide)).trans ((bits_hi (n := 14) (m := 5) _ _ 5 5 (by decide)).trans ((bits_lo (n := 9) (m := 5) _ _ 0 5 (by decide)).trans (bits_all _))))))

@[simp] theorem Cvt.bits_13_5 (x : Cvt) (maj : BitVec 6) (fn : BitVec 2) :
    bits (x.toWord maj fn) 13 5 = x.a :=
  (bits_hi (n := 29) (m := 3) _ _ 13 5 (by decide)).trans ((bits_hi (n := 26) (m := 3) _ _ 10 5 (by decide)).trans ((bits_hi (n := 24) (m := 2) _ _ 7 5 (by decide)).trans ((bits_hi (n := 19) (m := 5) _ _ 5 5 (by decide)).trans ((bits_lo (n := 14) (m := 5) _ _ 0 5 (by decide)).trans (bits_all _)))))

@[simp] theorem Cvt.bits_8_5 (x : Cvt) (maj : BitVec 6) (fn : BitVec 2) :
    bits (x.toWord maj fn) 8 5 = 0#5 :=
  (bits_hi (n := 29) (m := 3) _ _ 8 5 (by decide)).trans ((bits_hi (n := 26) (m := 3) _ _ 5 5 (by decide)).trans ((bits_hi (n := 24) (m := 2) _ _ 2 5 (by decide)).trans ((bits_lo (n := 19) (m := 5) _ _ 0 5 (by decide)).trans (bits_all _))))

@[simp] theorem Cvt.bits_6_2 (x : Cvt) (maj : BitVec 6) (fn : BitVec 2) :
    bits (x.toWord maj fn) 6 2 = fn :=
  (bits_hi (n := 29) (m := 3) _ _ 6 2 (by decide)).trans ((bits_hi (n := 26) (m := 3) _ _ 3 2 (by decide)).trans ((bits_lo (n := 24) (m := 2) _ _ 0 2 (by decide)).trans (bits_all _)))

@[simp] theorem Cvt.bits_3_3 (x : Cvt) (maj : BitVec 6) (fn : BitVec 2) :
    bits (x.toWord maj fn) 3 3 = x.src :=
  (bits_hi (n := 29) (m := 3) _ _ 3 3 (by decide)).trans ((bits_lo (n := 26) (m := 3) _ _ 0 3 (by decide)).trans (bits_all _))

@[simp] theorem Cvt.bits_0_3 (x : Cvt) (maj : BitVec 6) (fn : BitVec 2) :
    bits (x.toWord maj fn) 0 3 = x.dst :=
  (bits_lo (n := 29) (m := 3) _ _ 0 3 (by decide)).trans (bits_all _)

@[simp] theorem Cvt.ofWord_toWord (x : Cvt) (maj : BitVec 6) (fn : BitVec 2) : Cvt.ofWord (x.toWord maj fn) = .ok x := by
  simp [Cvt.ofWord]

/-! ### RRRz -/

@[simp] theorem RRRz.major (x : RRRz) (maj : BitVec 6) (fn : BitVec 6) :
    major (x.toWord maj fn) = maj :=
  (bits_hi (n := 30) (m := 2) _ _ 26 6 (by decide)).trans ((bits_hi (n := 24) (m := 6) _ _ 24 6 (by decide)).trans ((bits_hi (n := 19) (m := 5) _ _ 18 6 (by decide)).trans ((bits_hi (n := 14) (m := 5) _ _ 13 6 (by decide)).trans ((bits_hi (n := 9) (m := 5) _ _ 8 6 (by decide)).trans ((bits_hi (n := 6) (m := 3) _ _ 3 6 (by decide)).trans (bits_all _))))))

@[simp] theorem RRRz.bits_23_3 (x : RRRz) (maj : BitVec 6) (fn : BitVec 6) :
    bits (x.toWord maj fn) 23 3 = x.st :=
  (bits_hi (n := 30) (m := 2) _ _ 23 3 (by decide)).trans ((bits_hi (n := 24) (m := 6) _ _ 21 3 (by decide)).trans ((bits_hi (n := 19) (m := 5) _ _ 15 3 (by decide)).trans ((bits_hi (n := 14) (m := 5) _ _ 10 3 (by decide)).trans ((bits_hi (n := 9) (m := 5) _ _ 5 3 (by decide)).trans ((bits_lo (n := 6) (m := 3) _ _ 0 3 (by decide)).trans (bits_all _))))))

@[simp] theorem RRRz.bits_18_5 (x : RRRz) (maj : BitVec 6) (fn : BitVec 6) :
    bits (x.toWord maj fn) 18 5 = x.d :=
  (bits_hi (n := 30) (m := 2) _ _ 18 5 (by decide)).trans ((bits_hi (n := 24) (m := 6) _ _ 16 5 (by decide)).trans ((bits_hi (n := 19) (m := 5) _ _ 10 5 (by decide)).trans ((bits_hi (n := 14) (m := 5) _ _ 5 5 (by decide)).trans ((bits_lo (n := 9) (m := 5) _ _ 0 5 (by decide)).trans (bits_all _)))))

@[simp] theorem RRRz.bits_13_5 (x : RRRz) (maj : BitVec 6) (fn : BitVec 6) :
    bits (x.toWord maj fn) 13 5 = x.a :=
  (bits_hi (n := 30) (m := 2) _ _ 13 5 (by decide)).trans ((bits_hi (n := 24) (m := 6) _ _ 11 5 (by decide)).trans ((bits_hi (n := 19) (m := 5) _ _ 5 5 (by decide)).trans ((bits_lo (n := 14) (m := 5) _ _ 0 5 (by decide)).trans (bits_all _))))

@[simp] theorem RRRz.bits_8_5 (x : RRRz) (maj : BitVec 6) (fn : BitVec 6) :
    bits (x.toWord maj fn) 8 5 = x.b :=
  (bits_hi (n := 30) (m := 2) _ _ 8 5 (by decide)).trans ((bits_hi (n := 24) (m := 6) _ _ 6 5 (by decide)).trans ((bits_lo (n := 19) (m := 5) _ _ 0 5 (by decide)).trans (bits_all _)))

@[simp] theorem RRRz.bits_2_6 (x : RRRz) (maj : BitVec 6) (fn : BitVec 6) :
    bits (x.toWord maj fn) 2 6 = fn :=
  (bits_hi (n := 30) (m := 2) _ _ 2 6 (by decide)).trans ((bits_lo (n := 24) (m := 6) _ _ 0 6 (by decide)).trans (bits_all _))

@[simp] theorem RRRz.bits_0_2 (x : RRRz) (maj : BitVec 6) (fn : BitVec 6) :
    bits (x.toWord maj fn) 0 2 = x.sz :=
  (bits_lo (n := 30) (m := 2) _ _ 0 2 (by decide)).trans (bits_all _)

@[simp] theorem RRRz.ofWord_toWord (x : RRRz) (maj : BitVec 6) (fn : BitVec 6) : RRRz.ofWord (x.toWord maj fn) = .ok x := by
  simp [RRRz.ofWord]

/-! ### Sb -/

@[simp] theorem Sb.major (x : Sb) (maj : BitVec 6) (fn : BitVec 6) :
    major (x.toWord maj fn) = maj :=
  (bits_hi (n := 30) (m := 2) _ _ 26 6 (by decide)).trans ((bits_hi (n := 24) (m := 6) _ _ 24 6 (by decide)).trans ((bits_hi (n := 19) (m := 5) _ _ 18 6 (by decide)).trans ((bits_hi (n := 14) (m := 5) _ _ 13 6 (by decide)).trans ((bits_hi (n := 9) (m := 5) _ _ 8 6 (by decide)).trans ((bits_hi (n := 6) (m := 3) _ _ 3 6 (by decide)).trans (bits_all _))))))

@[simp] theorem Sb.bits_23_3 (x : Sb) (maj : BitVec 6) (fn : BitVec 6) :
    bits (x.toWord maj fn) 23 3 = x.st :=
  (bits_hi (n := 30) (m := 2) _ _ 23 3 (by decide)).trans ((bits_hi (n := 24) (m := 6) _ _ 21 3 (by decide)).trans ((bits_hi (n := 19) (m := 5) _ _ 15 3 (by decide)).trans ((bits_hi (n := 14) (m := 5) _ _ 10 3 (by decide)).trans ((bits_hi (n := 9) (m := 5) _ _ 5 3 (by decide)).trans ((bits_lo (n := 6) (m := 3) _ _ 0 3 (by decide)).trans (bits_all _))))))

@[simp] theorem Sb.bits_18_5 (x : Sb) (maj : BitVec 6) (fn : BitVec 6) :
    bits (x.toWord maj fn) 18 5 = 0#5 :=
  (bits_hi (n := 30) (m := 2) _ _ 18 5 (by decide)).trans ((bits_hi (n := 24) (m := 6) _ _ 16 5 (by decide)).trans ((bits_hi (n := 19) (m := 5) _ _ 10 5 (by decide)).trans ((bits_hi (n := 14) (m := 5) _ _ 5 5 (by decide)).trans ((bits_lo (n := 9) (m := 5) _ _ 0 5 (by decide)).trans (bits_all _)))))

@[simp] theorem Sb.bits_13_5 (x : Sb) (maj : BitVec 6) (fn : BitVec 6) :
    bits (x.toWord maj fn) 13 5 = x.a :=
  (bits_hi (n := 30) (m := 2) _ _ 13 5 (by decide)).trans ((bits_hi (n := 24) (m := 6) _ _ 11 5 (by decide)).trans ((bits_hi (n := 19) (m := 5) _ _ 5 5 (by decide)).trans ((bits_lo (n := 14) (m := 5) _ _ 0 5 (by decide)).trans (bits_all _))))

@[simp] theorem Sb.bits_8_5 (x : Sb) (maj : BitVec 6) (fn : BitVec 6) :
    bits (x.toWord maj fn) 8 5 = 0#5 :=
  (bits_hi (n := 30) (m := 2) _ _ 8 5 (by decide)).trans ((bits_hi (n := 24) (m := 6) _ _ 6 5 (by decide)).trans ((bits_lo (n := 19) (m := 5) _ _ 0 5 (by decide)).trans (bits_all _)))

@[simp] theorem Sb.bits_2_6 (x : Sb) (maj : BitVec 6) (fn : BitVec 6) :
    bits (x.toWord maj fn) 2 6 = fn :=
  (bits_hi (n := 30) (m := 2) _ _ 2 6 (by decide)).trans ((bits_lo (n := 24) (m := 6) _ _ 0 6 (by decide)).trans (bits_all _))

@[simp] theorem Sb.bits_0_2 (x : Sb) (maj : BitVec 6) (fn : BitVec 6) :
    bits (x.toWord maj fn) 0 2 = x.port :=
  (bits_lo (n := 30) (m := 2) _ _ 0 2 (by decide)).trans (bits_all _)

@[simp] theorem Sb.ofWord_toWord (x : Sb) (maj : BitVec 6) (fn : BitVec 6) : Sb.ofWord (x.toWord maj fn) = .ok x := by
  simp [Sb.ofWord]

/-! ### Sc -/

@[simp] theorem Sc.major (x : Sc) (maj : BitVec 6) (fn : BitVec 6) :
    major (x.toWord maj fn) = maj :=
  (bits_hi (n := 30) (m := 2) _ _ 26 6 (by decide)).trans ((bits_hi (n := 24) (m := 6) _ _ 24 6 (by decide)).trans ((bits_hi (n := 19) (m := 5) _ _ 18 6 (by decide)).trans ((bits_hi (n := 14) (m := 5) _ _ 13 6 (by decide)).trans ((bits_hi (n := 9) (m := 5) _ _ 8 6 (by decide)).trans ((bits_hi (n := 6) (m := 3) _ _ 3 6 (by decide)).trans (bits_all _))))))

@[simp] theorem Sc.bits_23_3 (x : Sc) (maj : BitVec 6) (fn : BitVec 6) :
    bits (x.toWord maj fn) 23 3 = x.st :=
  (bits_hi (n := 30) (m := 2) _ _ 23 3 (by decide)).trans ((bits_hi (n := 24) (m := 6) _ _ 21 3 (by decide)).trans ((bits_hi (n := 19) (m := 5) _ _ 15 3 (by decide)).trans ((bits_hi (n := 14) (m := 5) _ _ 10 3 (by decide)).trans ((bits_hi (n := 9) (m := 5) _ _ 5 3 (by decide)).trans ((bits_lo (n := 6) (m := 3) _ _ 0 3 (by decide)).trans (bits_all _))))))

@[simp] theorem Sc.bits_18_5 (x : Sc) (maj : BitVec 6) (fn : BitVec 6) :
    bits (x.toWord maj fn) 18 5 = 0#5 :=
  (bits_hi (n := 30) (m := 2) _ _ 18 5 (by decide)).trans ((bits_hi (n := 24) (m := 6) _ _ 16 5 (by decide)).trans ((bits_hi (n := 19) (m := 5) _ _ 10 5 (by decide)).trans ((bits_hi (n := 14) (m := 5) _ _ 5 5 (by decide)).trans ((bits_lo (n := 9) (m := 5) _ _ 0 5 (by decide)).trans (bits_all _)))))

@[simp] theorem Sc.bits_13_5 (x : Sc) (maj : BitVec 6) (fn : BitVec 6) :
    bits (x.toWord maj fn) 13 5 = 0#5 :=
  (bits_hi (n := 30) (m := 2) _ _ 13 5 (by decide)).trans ((bits_hi (n := 24) (m := 6) _ _ 11 5 (by decide)).trans ((bits_hi (n := 19) (m := 5) _ _ 5 5 (by decide)).trans ((bits_lo (n := 14) (m := 5) _ _ 0 5 (by decide)).trans (bits_all _))))

@[simp] theorem Sc.bits_8_5 (x : Sc) (maj : BitVec 6) (fn : BitVec 6) :
    bits (x.toWord maj fn) 8 5 = 0#5 :=
  (bits_hi (n := 30) (m := 2) _ _ 8 5 (by decide)).trans ((bits_hi (n := 24) (m := 6) _ _ 6 5 (by decide)).trans ((bits_lo (n := 19) (m := 5) _ _ 0 5 (by decide)).trans (bits_all _)))

@[simp] theorem Sc.bits_2_6 (x : Sc) (maj : BitVec 6) (fn : BitVec 6) :
    bits (x.toWord maj fn) 2 6 = fn :=
  (bits_hi (n := 30) (m := 2) _ _ 2 6 (by decide)).trans ((bits_lo (n := 24) (m := 6) _ _ 0 6 (by decide)).trans (bits_all _))

@[simp] theorem Sc.bits_0_2 (x : Sc) (maj : BitVec 6) (fn : BitVec 6) :
    bits (x.toWord maj fn) 0 2 = x.port :=
  (bits_lo (n := 30) (m := 2) _ _ 0 2 (by decide)).trans (bits_all _)

@[simp] theorem Sc.ofWord_toWord (x : Sc) (maj : BitVec 6) (fn : BitVec 6) : Sc.ofWord (x.toWord maj fn) = .ok x := by
  simp [Sc.ofWord]

/-! ### Sp -/

@[simp] theorem Sp.major (x : Sp) (maj : BitVec 6) (fn : BitVec 6) :
    major (x.toWord maj fn) = maj :=
  (bits_hi (n := 30) (m := 2) _ _ 26 6 (by decide)).trans ((bits_hi (n := 24) (m := 6) _ _ 24 6 (by decide)).trans ((bits_hi (n := 19) (m := 5) _ _ 18 6 (by decide)).trans ((bits_hi (n := 14) (m := 5) _ _ 13 6 (by decide)).trans ((bits_hi (n := 9) (m := 5) _ _ 8 6 (by decide)).trans ((bits_hi (n := 6) (m := 3) _ _ 3 6 (by decide)).trans (bits_all _))))))

@[simp] theorem Sp.bits_23_3 (x : Sp) (maj : BitVec 6) (fn : BitVec 6) :
    bits (x.toWord maj fn) 23 3 = x.st :=
  (bits_hi (n := 30) (m := 2) _ _ 23 3 (by decide)).trans ((bits_hi (n := 24) (m := 6) _ _ 21 3 (by decide)).trans ((bits_hi (n := 19) (m := 5) _ _ 15 3 (by decide)).trans ((bits_hi (n := 14) (m := 5) _ _ 10 3 (by decide)).trans ((bits_hi (n := 9) (m := 5) _ _ 5 3 (by decide)).trans ((bits_lo (n := 6) (m := 3) _ _ 0 3 (by decide)).trans (bits_all _))))))

@[simp] theorem Sp.bits_18_5 (x : Sp) (maj : BitVec 6) (fn : BitVec 6) :
    bits (x.toWord maj fn) 18 5 = x.d :=
  (bits_hi (n := 30) (m := 2) _ _ 18 5 (by decide)).trans ((bits_hi (n := 24) (m := 6) _ _ 16 5 (by decide)).trans ((bits_hi (n := 19) (m := 5) _ _ 10 5 (by decide)).trans ((bits_hi (n := 14) (m := 5) _ _ 5 5 (by decide)).trans ((bits_lo (n := 9) (m := 5) _ _ 0 5 (by decide)).trans (bits_all _)))))

@[simp] theorem Sp.bits_13_5 (x : Sp) (maj : BitVec 6) (fn : BitVec 6) :
    bits (x.toWord maj fn) 13 5 = 0#5 :=
  (bits_hi (n := 30) (m := 2) _ _ 13 5 (by decide)).trans ((bits_hi (n := 24) (m := 6) _ _ 11 5 (by decide)).trans ((bits_hi (n := 19) (m := 5) _ _ 5 5 (by decide)).trans ((bits_lo (n := 14) (m := 5) _ _ 0 5 (by decide)).trans (bits_all _))))

@[simp] theorem Sp.bits_8_5 (x : Sp) (maj : BitVec 6) (fn : BitVec 6) :
    bits (x.toWord maj fn) 8 5 = 0#5 :=
  (bits_hi (n := 30) (m := 2) _ _ 8 5 (by decide)).trans ((bits_hi (n := 24) (m := 6) _ _ 6 5 (by decide)).trans ((bits_lo (n := 19) (m := 5) _ _ 0 5 (by decide)).trans (bits_all _)))

@[simp] theorem Sp.bits_2_6 (x : Sp) (maj : BitVec 6) (fn : BitVec 6) :
    bits (x.toWord maj fn) 2 6 = fn :=
  (bits_hi (n := 30) (m := 2) _ _ 2 6 (by decide)).trans ((bits_lo (n := 24) (m := 6) _ _ 0 6 (by decide)).trans (bits_all _))

@[simp] theorem Sp.bits_0_2 (x : Sp) (maj : BitVec 6) (fn : BitVec 6) :
    bits (x.toWord maj fn) 0 2 = x.port :=
  (bits_lo (n := 30) (m := 2) _ _ 0 2 (by decide)).trans (bits_all _)

@[simp] theorem Sp.ofWord_toWord (x : Sp) (maj : BitVec 6) (fn : BitVec 6) : Sp.ofWord (x.toWord maj fn) = .ok x := by
  simp [Sp.ofWord]

/-! ### Amo -/

@[simp] theorem Amo.major (x : Amo) (maj : BitVec 6) (fn : BitVec 4) :
    major (x.toWord maj fn) = maj :=
  (bits_hi (n := 28) (m := 4) _ _ 26 6 (by decide)).trans ((bits_hi (n := 27) (m := 1) _ _ 22 6 (by decide)).trans ((bits_hi (n := 24) (m := 3) _ _ 21 6 (by decide)).trans ((bits_hi (n := 19) (m := 5) _ _ 18 6 (by decide)).trans ((bits_hi (n := 14) (m := 5) _ _ 13 6 (by decide)).trans ((bits_hi (n := 9) (m := 5) _ _ 8 6 (by decide)).trans ((bits_hi (n := 6) (m := 3) _ _ 3 6 (by decide)).trans (bits_all _)))))))

@[simp] theorem Amo.bits_23_3 (x : Amo) (maj : BitVec 6) (fn : BitVec 4) :
    bits (x.toWord maj fn) 23 3 = x.st :=
  (bits_hi (n := 28) (m := 4) _ _ 23 3 (by decide)).trans ((bits_hi (n := 27) (m := 1) _ _ 19 3 (by decide)).trans ((bits_hi (n := 24) (m := 3) _ _ 18 3 (by decide)).trans ((bits_hi (n := 19) (m := 5) _ _ 15 3 (by decide)).trans ((bits_hi (n := 14) (m := 5) _ _ 10 3 (by decide)).trans ((bits_hi (n := 9) (m := 5) _ _ 5 3 (by decide)).trans ((bits_lo (n := 6) (m := 3) _ _ 0 3 (by decide)).trans (bits_all _)))))))

@[simp] theorem Amo.bits_18_5 (x : Amo) (maj : BitVec 6) (fn : BitVec 4) :
    bits (x.toWord maj fn) 18 5 = x.d :=
  (bits_hi (n := 28) (m := 4) _ _ 18 5 (by decide)).trans ((bits_hi (n := 27) (m := 1) _ _ 14 5 (by decide)).trans ((bits_hi (n := 24) (m := 3) _ _ 13 5 (by decide)).trans ((bits_hi (n := 19) (m := 5) _ _ 10 5 (by decide)).trans ((bits_hi (n := 14) (m := 5) _ _ 5 5 (by decide)).trans ((bits_lo (n := 9) (m := 5) _ _ 0 5 (by decide)).trans (bits_all _))))))

@[simp] theorem Amo.bits_13_5 (x : Amo) (maj : BitVec 6) (fn : BitVec 4) :
    bits (x.toWord maj fn) 13 5 = x.a :=
  (bits_hi (n := 28) (m := 4) _ _ 13 5 (by decide)).trans ((bits_hi (n := 27) (m := 1) _ _ 9 5 (by decide)).trans ((bits_hi (n := 24) (m := 3) _ _ 8 5 (by decide)).trans ((bits_hi (n := 19) (m := 5) _ _ 5 5 (by decide)).trans ((bits_lo (n := 14) (m := 5) _ _ 0 5 (by decide)).trans (bits_all _)))))

@[simp] theorem Amo.bits_8_5 (x : Amo) (maj : BitVec 6) (fn : BitVec 4) :
    bits (x.toWord maj fn) 8 5 = x.b :=
  (bits_hi (n := 28) (m := 4) _ _ 8 5 (by decide)).trans ((bits_hi (n := 27) (m := 1) _ _ 4 5 (by decide)).trans ((bits_hi (n := 24) (m := 3) _ _ 3 5 (by decide)).trans ((bits_lo (n := 19) (m := 5) _ _ 0 5 (by decide)).trans (bits_all _))))

@[simp] theorem Amo.bits_5_3 (x : Amo) (maj : BitVec 6) (fn : BitVec 4) :
    bits (x.toWord maj fn) 5 3 = 0#3 :=
  (bits_hi (n := 28) (m := 4) _ _ 5 3 (by decide)).trans ((bits_hi (n := 27) (m := 1) _ _ 1 3 (by decide)).trans ((bits_lo (n := 24) (m := 3) _ _ 0 3 (by decide)).trans (bits_all _)))

@[simp] theorem Amo.bits_4_1 (x : Amo) (maj : BitVec 6) (fn : BitVec 4) :
    bits (x.toWord maj fn) 4 1 = x.wide :=
  (bits_hi (n := 28) (m := 4) _ _ 4 1 (by decide)).trans ((bits_lo (n := 27) (m := 1) _ _ 0 1 (by decide)).trans (bits_all _))

@[simp] theorem Amo.bits_0_4 (x : Amo) (maj : BitVec 6) (fn : BitVec 4) :
    bits (x.toWord maj fn) 0 4 = fn :=
  (bits_lo (n := 28) (m := 4) _ _ 0 4 (by decide)).trans (bits_all _)

@[simp] theorem Amo.ofWord_toWord (x : Amo) (maj : BitVec 6) (fn : BitVec 4) : Amo.ofWord (x.toWord maj fn) = .ok x := by
  simp [Amo.ofWord]

/-! ### Xadd -/

@[simp] theorem Xadd.major (x : Xadd) (maj : BitVec 6) (fn : BitVec 5) :
    major (x.toWord maj fn) = maj :=
  (bits_hi (n := 29) (m := 3) _ _ 26 6 (by decide)).trans ((bits_hi (n := 24) (m := 5) _ _ 23 6 (by decide)).trans ((bits_hi (n := 19) (m := 5) _ _ 18 6 (by decide)).trans ((bits_hi (n := 14) (m := 5) _ _ 13 6 (by decide)).trans ((bits_hi (n := 9) (m := 5) _ _ 8 6 (by decide)).trans ((bits_hi (n := 6) (m := 3) _ _ 3 6 (by decide)).trans (bits_all _))))))

@[simp] theorem Xadd.bits_23_3 (x : Xadd) (maj : BitVec 6) (fn : BitVec 5) :
    bits (x.toWord maj fn) 23 3 = x.st :=
  (bits_hi (n := 29) (m := 3) _ _ 23 3 (by decide)).trans ((bits_hi (n := 24) (m := 5) _ _ 20 3 (by decide)).trans ((bits_hi (n := 19) (m := 5) _ _ 15 3 (by decide)).trans ((bits_hi (n := 14) (m := 5) _ _ 10 3 (by decide)).trans ((bits_hi (n := 9) (m := 5) _ _ 5 3 (by decide)).trans ((bits_lo (n := 6) (m := 3) _ _ 0 3 (by decide)).trans (bits_all _))))))

@[simp] theorem Xadd.bits_18_5 (x : Xadd) (maj : BitVec 6) (fn : BitVec 5) :
    bits (x.toWord maj fn) 18 5 = 0#5 :=
  (bits_hi (n := 29) (m := 3) _ _ 18 5 (by decide)).trans ((bits_hi (n := 24) (m := 5) _ _ 15 5 (by decide)).trans ((bits_hi (n := 19) (m := 5) _ _ 10 5 (by decide)).trans ((bits_hi (n := 14) (m := 5) _ _ 5 5 (by decide)).trans ((bits_lo (n := 9) (m := 5) _ _ 0 5 (by decide)).trans (bits_all _)))))

@[simp] theorem Xadd.bits_13_5 (x : Xadd) (maj : BitVec 6) (fn : BitVec 5) :
    bits (x.toWord maj fn) 13 5 = x.a :=
  (bits_hi (n := 29) (m := 3) _ _ 13 5 (by decide)).trans ((bits_hi (n := 24) (m := 5) _ _ 10 5 (by decide)).trans ((bits_hi (n := 19) (m := 5) _ _ 5 5 (by decide)).trans ((bits_lo (n := 14) (m := 5) _ _ 0 5 (by decide)).trans (bits_all _))))

@[simp] theorem Xadd.bits_8_5 (x : Xadd) (maj : BitVec 6) (fn : BitVec 5) :
    bits (x.toWord maj fn) 8 5 = x.b :=
  (bits_hi (n := 29) (m := 3) _ _ 8 5 (by decide)).trans ((bits_hi (n := 24) (m := 5) _ _ 5 5 (by decide)).trans ((bits_lo (n := 19) (m := 5) _ _ 0 5 (by decide)).trans (bits_all _)))

@[simp] theorem Xadd.bits_3_5 (x : Xadd) (maj : BitVec 6) (fn : BitVec 5) :
    bits (x.toWord maj fn) 3 5 = fn :=
  (bits_hi (n := 29) (m := 3) _ _ 3 5 (by decide)).trans ((bits_lo (n := 24) (m := 5) _ _ 0 5 (by decide)).trans (bits_all _))

@[simp] theorem Xadd.bits_0_3 (x : Xadd) (maj : BitVec 6) (fn : BitVec 5) :
    bits (x.toWord maj fn) 0 3 = x.fmt :=
  (bits_lo (n := 29) (m := 3) _ _ 0 3 (by decide)).trans (bits_all _)

@[simp] theorem Xadd.ofWord_toWord (x : Xadd) (maj : BitVec 6) (fn : BitVec 5) : Xadd.ofWord (x.toWord maj fn) = .ok x := by
  simp [Xadd.ofWord]

/-! ### ABw -/

@[simp] theorem ABw.major (x : ABw) (maj : BitVec 6) (fn : BitVec 7) :
    major (x.toWord maj fn) = maj :=
  (bits_hi (n := 31) (m := 1) _ _ 26 6 (by decide)).trans ((bits_hi (n := 24) (m := 7) _ _ 25 6 (by decide)).trans ((bits_hi (n := 19) (m := 5) _ _ 18 6 (by decide)).trans ((bits_hi (n := 14) (m := 5) _ _ 13 6 (by decide)).trans ((bits_hi (n := 9) (m := 5) _ _ 8 6 (by decide)).trans ((bits_hi (n := 6) (m := 3) _ _ 3 6 (by decide)).trans (bits_all _))))))

@[simp] theorem ABw.bits_23_3 (x : ABw) (maj : BitVec 6) (fn : BitVec 7) :
    bits (x.toWord maj fn) 23 3 = x.st :=
  (bits_hi (n := 31) (m := 1) _ _ 23 3 (by decide)).trans ((bits_hi (n := 24) (m := 7) _ _ 22 3 (by decide)).trans ((bits_hi (n := 19) (m := 5) _ _ 15 3 (by decide)).trans ((bits_hi (n := 14) (m := 5) _ _ 10 3 (by decide)).trans ((bits_hi (n := 9) (m := 5) _ _ 5 3 (by decide)).trans ((bits_lo (n := 6) (m := 3) _ _ 0 3 (by decide)).trans (bits_all _))))))

@[simp] theorem ABw.bits_18_5 (x : ABw) (maj : BitVec 6) (fn : BitVec 7) :
    bits (x.toWord maj fn) 18 5 = 0#5 :=
  (bits_hi (n := 31) (m := 1) _ _ 18 5 (by decide)).trans ((bits_hi (n := 24) (m := 7) _ _ 17 5 (by decide)).trans ((bits_hi (n := 19) (m := 5) _ _ 10 5 (by decide)).trans ((bits_hi (n := 14) (m := 5) _ _ 5 5 (by decide)).trans ((bits_lo (n := 9) (m := 5) _ _ 0 5 (by decide)).trans (bits_all _)))))

@[simp] theorem ABw.bits_13_5 (x : ABw) (maj : BitVec 6) (fn : BitVec 7) :
    bits (x.toWord maj fn) 13 5 = x.a :=
  (bits_hi (n := 31) (m := 1) _ _ 13 5 (by decide)).trans ((bits_hi (n := 24) (m := 7) _ _ 12 5 (by decide)).trans ((bits_hi (n := 19) (m := 5) _ _ 5 5 (by decide)).trans ((bits_lo (n := 14) (m := 5) _ _ 0 5 (by decide)).trans (bits_all _))))

@[simp] theorem ABw.bits_8_5 (x : ABw) (maj : BitVec 6) (fn : BitVec 7) :
    bits (x.toWord maj fn) 8 5 = x.b :=
  (bits_hi (n := 31) (m := 1) _ _ 8 5 (by decide)).trans ((bits_hi (n := 24) (m := 7) _ _ 7 5 (by decide)).trans ((bits_lo (n := 19) (m := 5) _ _ 0 5 (by decide)).trans (bits_all _)))

@[simp] theorem ABw.bits_1_7 (x : ABw) (maj : BitVec 6) (fn : BitVec 7) :
    bits (x.toWord maj fn) 1 7 = fn :=
  (bits_hi (n := 31) (m := 1) _ _ 1 7 (by decide)).trans ((bits_lo (n := 24) (m := 7) _ _ 0 7 (by decide)).trans (bits_all _))

@[simp] theorem ABw.bits_0_1 (x : ABw) (maj : BitVec 6) (fn : BitVec 7) :
    bits (x.toWord maj fn) 0 1 = x.wide :=
  (bits_lo (n := 31) (m := 1) _ _ 0 1 (by decide)).trans (bits_all _)

@[simp] theorem ABw.ofWord_toWord (x : ABw) (maj : BitVec 6) (fn : BitVec 7) : ABw.ofWord (x.toWord maj fn) = .ok x := by
  simp [ABw.ofWord]

/-! ### Xread -/

@[simp] theorem Xread.major (x : Xread) (maj : BitVec 6) :
    major (x.toWord maj) = maj :=
  (bits_hi (n := 31) (m := 1) _ _ 26 6 (by decide)).trans ((bits_hi (n := 28) (m := 3) _ _ 25 6 (by decide)).trans ((bits_hi (n := 25) (m := 3) _ _ 22 6 (by decide)).trans ((bits_hi (n := 24) (m := 1) _ _ 19 6 (by decide)).trans ((bits_hi (n := 19) (m := 5) _ _ 18 6 (by decide)).trans ((bits_hi (n := 14) (m := 5) _ _ 13 6 (by decide)).trans ((bits_hi (n := 9) (m := 5) _ _ 8 6 (by decide)).trans ((bits_hi (n := 6) (m := 3) _ _ 3 6 (by decide)).trans (bits_all _))))))))

@[simp] theorem Xread.bits_23_3 (x : Xread) (maj : BitVec 6) :
    bits (x.toWord maj) 23 3 = x.st :=
  (bits_hi (n := 31) (m := 1) _ _ 23 3 (by decide)).trans ((bits_hi (n := 28) (m := 3) _ _ 22 3 (by decide)).trans ((bits_hi (n := 25) (m := 3) _ _ 19 3 (by decide)).trans ((bits_hi (n := 24) (m := 1) _ _ 16 3 (by decide)).trans ((bits_hi (n := 19) (m := 5) _ _ 15 3 (by decide)).trans ((bits_hi (n := 14) (m := 5) _ _ 10 3 (by decide)).trans ((bits_hi (n := 9) (m := 5) _ _ 5 3 (by decide)).trans ((bits_lo (n := 6) (m := 3) _ _ 0 3 (by decide)).trans (bits_all _))))))))

@[simp] theorem Xread.bits_18_5 (x : Xread) (maj : BitVec 6) :
    bits (x.toWord maj) 18 5 = x.d :=
  (bits_hi (n := 31) (m := 1) _ _ 18 5 (by decide)).trans ((bits_hi (n := 28) (m := 3) _ _ 17 5 (by decide)).trans ((bits_hi (n := 25) (m := 3) _ _ 14 5 (by decide)).trans ((bits_hi (n := 24) (m := 1) _ _ 11 5 (by decide)).trans ((bits_hi (n := 19) (m := 5) _ _ 10 5 (by decide)).trans ((bits_hi (n := 14) (m := 5) _ _ 5 5 (by decide)).trans ((bits_lo (n := 9) (m := 5) _ _ 0 5 (by decide)).trans (bits_all _)))))))

@[simp] theorem Xread.bits_13_5 (x : Xread) (maj : BitVec 6) :
    bits (x.toWord maj) 13 5 = x.a :=
  (bits_hi (n := 31) (m := 1) _ _ 13 5 (by decide)).trans ((bits_hi (n := 28) (m := 3) _ _ 12 5 (by decide)).trans ((bits_hi (n := 25) (m := 3) _ _ 9 5 (by decide)).trans ((bits_hi (n := 24) (m := 1) _ _ 6 5 (by decide)).trans ((bits_hi (n := 19) (m := 5) _ _ 5 5 (by decide)).trans ((bits_lo (n := 14) (m := 5) _ _ 0 5 (by decide)).trans (bits_all _))))))

@[simp] theorem Xread.bits_8_5 (x : Xread) (maj : BitVec 6) :
    bits (x.toWord maj) 8 5 = 0#5 :=
  (bits_hi (n := 31) (m := 1) _ _ 8 5 (by decide)).trans ((bits_hi (n := 28) (m := 3) _ _ 7 5 (by decide)).trans ((bits_hi (n := 25) (m := 3) _ _ 4 5 (by decide)).trans ((bits_hi (n := 24) (m := 1) _ _ 1 5 (by decide)).trans ((bits_lo (n := 19) (m := 5) _ _ 0 5 (by decide)).trans (bits_all _)))))

@[simp] theorem Xread.bits_7_1 (x : Xread) (maj : BitVec 6) :
    bits (x.toWord maj) 7 1 = 1#1 :=
  (bits_hi (n := 31) (m := 1) _ _ 7 1 (by decide)).trans ((bits_hi (n := 28) (m := 3) _ _ 6 1 (by decide)).trans ((bits_hi (n := 25) (m := 3) _ _ 3 1 (by decide)).trans ((bits_lo (n := 24) (m := 1) _ _ 0 1 (by decide)).trans (bits_all _))))

@[simp] theorem Xread.bits_4_3 (x : Xread) (maj : BitVec 6) :
    bits (x.toWord maj) 4 3 = x.fmt :=
  (bits_hi (n := 31) (m := 1) _ _ 4 3 (by decide)).trans ((bits_hi (n := 28) (m := 3) _ _ 3 3 (by decide)).trans ((bits_lo (n := 25) (m := 3) _ _ 0 3 (by decide)).trans (bits_all _)))

@[simp] theorem Xread.bits_1_3 (x : Xread) (maj : BitVec 6) :
    bits (x.toWord maj) 1 3 = x.mode :=
  (bits_hi (n := 31) (m := 1) _ _ 1 3 (by decide)).trans ((bits_lo (n := 28) (m := 3) _ _ 0 3 (by decide)).trans (bits_all _))

@[simp] theorem Xread.bits_0_1 (x : Xread) (maj : BitVec 6) :
    bits (x.toWord maj) 0 1 = 0#1 :=
  (bits_lo (n := 31) (m := 1) _ _ 0 1 (by decide)).trans (bits_all _)

@[simp] theorem Xread.ofWord_toWord (x : Xread) (maj : BitVec 6) : Xread.ofWord (x.toWord maj) = .ok x := by
  simp [Xread.ofWord]

/-! ### Cas -/

@[simp] theorem Cas.major (x : Cas) (maj : BitVec 6) (fn : BitVec 2) :
    major (x.toWord maj fn) = maj :=
  (bits_hi (n := 31) (m := 1) _ _ 26 6 (by decide)).trans ((bits_hi (n := 29) (m := 2) _ _ 25 6 (by decide)).trans ((bits_hi (n := 24) (m := 5) _ _ 23 6 (by decide)).trans ((bits_hi (n := 19) (m := 5) _ _ 18 6 (by decide)).trans ((bits_hi (n := 14) (m := 5) _ _ 13 6 (by decide)).trans ((bits_hi (n := 9) (m := 5) _ _ 8 6 (by decide)).trans ((bits_hi (n := 6) (m := 3) _ _ 3 6 (by decide)).trans (bits_all _)))))))

@[simp] theorem Cas.bits_23_3 (x : Cas) (maj : BitVec 6) (fn : BitVec 2) :
    bits (x.toWord maj fn) 23 3 = x.st :=
  (bits_hi (n := 31) (m := 1) _ _ 23 3 (by decide)).trans ((bits_hi (n := 29) (m := 2) _ _ 22 3 (by decide)).trans ((bits_hi (n := 24) (m := 5) _ _ 20 3 (by decide)).trans ((bits_hi (n := 19) (m := 5) _ _ 15 3 (by decide)).trans ((bits_hi (n := 14) (m := 5) _ _ 10 3 (by decide)).trans ((bits_hi (n := 9) (m := 5) _ _ 5 3 (by decide)).trans ((bits_lo (n := 6) (m := 3) _ _ 0 3 (by decide)).trans (bits_all _)))))))

@[simp] theorem Cas.bits_18_5 (x : Cas) (maj : BitVec 6) (fn : BitVec 2) :
    bits (x.toWord maj fn) 18 5 = x.d :=
  (bits_hi (n := 31) (m := 1) _ _ 18 5 (by decide)).trans ((bits_hi (n := 29) (m := 2) _ _ 17 5 (by decide)).trans ((bits_hi (n := 24) (m := 5) _ _ 15 5 (by decide)).trans ((bits_hi (n := 19) (m := 5) _ _ 10 5 (by decide)).trans ((bits_hi (n := 14) (m := 5) _ _ 5 5 (by decide)).trans ((bits_lo (n := 9) (m := 5) _ _ 0 5 (by decide)).trans (bits_all _))))))

@[simp] theorem Cas.bits_13_5 (x : Cas) (maj : BitVec 6) (fn : BitVec 2) :
    bits (x.toWord maj fn) 13 5 = x.a :=
  (bits_hi (n := 31) (m := 1) _ _ 13 5 (by decide)).trans ((bits_hi (n := 29) (m := 2) _ _ 12 5 (by decide)).trans ((bits_hi (n := 24) (m := 5) _ _ 10 5 (by decide)).trans ((bits_hi (n := 19) (m := 5) _ _ 5 5 (by decide)).trans ((bits_lo (n := 14) (m := 5) _ _ 0 5 (by decide)).trans (bits_all _)))))

@[simp] theorem Cas.bits_8_5 (x : Cas) (maj : BitVec 6) (fn : BitVec 2) :
    bits (x.toWord maj fn) 8 5 = x.b :=
  (bits_hi (n := 31) (m := 1) _ _ 8 5 (by decide)).trans ((bits_hi (n := 29) (m := 2) _ _ 7 5 (by decide)).trans ((bits_hi (n := 24) (m := 5) _ _ 5 5 (by decide)).trans ((bits_lo (n := 19) (m := 5) _ _ 0 5 (by decide)).trans (bits_all _))))

@[simp] theorem Cas.bits_3_5 (x : Cas) (maj : BitVec 6) (fn : BitVec 2) :
    bits (x.toWord maj fn) 3 5 = x.c :=
  (bits_hi (n := 31) (m := 1) _ _ 3 5 (by decide)).trans ((bits_hi (n := 29) (m := 2) _ _ 2 5 (by decide)).trans ((bits_lo (n := 24) (m := 5) _ _ 0 5 (by decide)).trans (bits_all _)))

@[simp] theorem Cas.bits_1_2 (x : Cas) (maj : BitVec 6) (fn : BitVec 2) :
    bits (x.toWord maj fn) 1 2 = fn :=
  (bits_hi (n := 31) (m := 1) _ _ 1 2 (by decide)).trans ((bits_lo (n := 29) (m := 2) _ _ 0 2 (by decide)).trans (bits_all _))

@[simp] theorem Cas.bits_0_1 (x : Cas) (maj : BitVec 6) (fn : BitVec 2) :
    bits (x.toWord maj fn) 0 1 = x.wide :=
  (bits_lo (n := 31) (m := 1) _ _ 0 1 (by decide)).trans (bits_all _)

@[simp] theorem Cas.ofWord_toWord (x : Cas) (maj : BitVec 6) (fn : BitVec 2) : Cas.ofWord (x.toWord maj fn) = .ok x := by
  simp [Cas.ofWord]

/-! ### ABe -/

@[simp] theorem ABe.major (x : ABe) (maj : BitVec 6) (fn : BitVec 6) :
    major (x.toWord maj fn) = maj :=
  (bits_hi (n := 30) (m := 2) _ _ 26 6 (by decide)).trans ((bits_hi (n := 24) (m := 6) _ _ 24 6 (by decide)).trans ((bits_hi (n := 19) (m := 5) _ _ 18 6 (by decide)).trans ((bits_hi (n := 14) (m := 5) _ _ 13 6 (by decide)).trans ((bits_hi (n := 9) (m := 5) _ _ 8 6 (by decide)).trans ((bits_hi (n := 6) (m := 3) _ _ 3 6 (by decide)).trans (bits_all _))))))

@[simp] theorem ABe.bits_23_3 (x : ABe) (maj : BitVec 6) (fn : BitVec 6) :
    bits (x.toWord maj fn) 23 3 = x.st :=
  (bits_hi (n := 30) (m := 2) _ _ 23 3 (by decide)).trans ((bits_hi (n := 24) (m := 6) _ _ 21 3 (by decide)).trans ((bits_hi (n := 19) (m := 5) _ _ 15 3 (by decide)).trans ((bits_hi (n := 14) (m := 5) _ _ 10 3 (by decide)).trans ((bits_hi (n := 9) (m := 5) _ _ 5 3 (by decide)).trans ((bits_lo (n := 6) (m := 3) _ _ 0 3 (by decide)).trans (bits_all _))))))

@[simp] theorem ABe.bits_18_5 (x : ABe) (maj : BitVec 6) (fn : BitVec 6) :
    bits (x.toWord maj fn) 18 5 = 0#5 :=
  (bits_hi (n := 30) (m := 2) _ _ 18 5 (by decide)).trans ((bits_hi (n := 24) (m := 6) _ _ 16 5 (by decide)).trans ((bits_hi (n := 19) (m := 5) _ _ 10 5 (by decide)).trans ((bits_hi (n := 14) (m := 5) _ _ 5 5 (by decide)).trans ((bits_lo (n := 9) (m := 5) _ _ 0 5 (by decide)).trans (bits_all _)))))

@[simp] theorem ABe.bits_13_5 (x : ABe) (maj : BitVec 6) (fn : BitVec 6) :
    bits (x.toWord maj fn) 13 5 = x.a :=
  (bits_hi (n := 30) (m := 2) _ _ 13 5 (by decide)).trans ((bits_hi (n := 24) (m := 6) _ _ 11 5 (by decide)).trans ((bits_hi (n := 19) (m := 5) _ _ 5 5 (by decide)).trans ((bits_lo (n := 14) (m := 5) _ _ 0 5 (by decide)).trans (bits_all _))))

@[simp] theorem ABe.bits_8_5 (x : ABe) (maj : BitVec 6) (fn : BitVec 6) :
    bits (x.toWord maj fn) 8 5 = x.b :=
  (bits_hi (n := 30) (m := 2) _ _ 8 5 (by decide)).trans ((bits_hi (n := 24) (m := 6) _ _ 6 5 (by decide)).trans ((bits_lo (n := 19) (m := 5) _ _ 0 5 (by decide)).trans (bits_all _)))

@[simp] theorem ABe.bits_2_6 (x : ABe) (maj : BitVec 6) (fn : BitVec 6) :
    bits (x.toWord maj fn) 2 6 = fn :=
  (bits_hi (n := 30) (m := 2) _ _ 2 6 (by decide)).trans ((bits_lo (n := 24) (m := 6) _ _ 0 6 (by decide)).trans (bits_all _))

@[simp] theorem ABe.bits_0_2 (x : ABe) (maj : BitVec 6) (fn : BitVec 6) :
    bits (x.toWord maj fn) 0 2 = x.scope :=
  (bits_lo (n := 30) (m := 2) _ _ 0 2 (by decide)).trans (bits_all _)

@[simp] theorem ABe.ofWord_toWord (x : ABe) (maj : BitVec 6) (fn : BitVec 6) : ABe.ofWord (x.toWord maj fn) = .ok x := by
  simp [ABe.ofWord]

/-! ### CsrR -/

@[simp] theorem CsrR.major (x : CsrR) (maj : BitVec 6) (fn : BitVec 2) :
    major (x.toWord maj fn) = maj :=
  (bits_hi (n := 21) (m := 11) _ _ 26 6 (by decide)).trans ((bits_hi (n := 19) (m := 2) _ _ 15 6 (by decide)).trans ((bits_hi (n := 14) (m := 5) _ _ 13 6 (by decide)).trans ((bits_hi (n := 9) (m := 5) _ _ 8 6 (by decide)).trans ((bits_hi (n := 6) (m := 3) _ _ 3 6 (by decide)).trans (bits_all _)))))

@[simp] theorem CsrR.bits_23_3 (x : CsrR) (maj : BitVec 6) (fn : BitVec 2) :
    bits (x.toWord maj fn) 23 3 = x.st :=
  (bits_hi (n := 21) (m := 11) _ _ 23 3 (by decide)).trans ((bits_hi (n := 19) (m := 2) _ _ 12 3 (by decide)).trans ((bits_hi (n := 14) (m := 5) _ _ 10 3 (by decide)).trans ((bits_hi (n := 9) (m := 5) _ _ 5 3 (by decide)).trans ((bits_lo (n := 6) (m := 3) _ _ 0 3 (by decide)).trans (bits_all _)))))

@[simp] theorem CsrR.bits_18_5 (x : CsrR) (maj : BitVec 6) (fn : BitVec 2) :
    bits (x.toWord maj fn) 18 5 = x.d :=
  (bits_hi (n := 21) (m := 11) _ _ 18 5 (by decide)).trans ((bits_hi (n := 19) (m := 2) _ _ 7 5 (by decide)).trans ((bits_hi (n := 14) (m := 5) _ _ 5 5 (by decide)).trans ((bits_lo (n := 9) (m := 5) _ _ 0 5 (by decide)).trans (bits_all _))))

@[simp] theorem CsrR.bits_13_5 (x : CsrR) (maj : BitVec 6) (fn : BitVec 2) :
    bits (x.toWord maj fn) 13 5 = 0#5 :=
  (bits_hi (n := 21) (m := 11) _ _ 13 5 (by decide)).trans ((bits_hi (n := 19) (m := 2) _ _ 2 5 (by decide)).trans ((bits_lo (n := 14) (m := 5) _ _ 0 5 (by decide)).trans (bits_all _)))

@[simp] theorem CsrR.bits_11_2 (x : CsrR) (maj : BitVec 6) (fn : BitVec 2) :
    bits (x.toWord maj fn) 11 2 = fn :=
  (bits_hi (n := 21) (m := 11) _ _ 11 2 (by decide)).trans ((bits_lo (n := 19) (m := 2) _ _ 0 2 (by decide)).trans (bits_all _))

@[simp] theorem CsrR.bits_0_11 (x : CsrR) (maj : BitVec 6) (fn : BitVec 2) :
    bits (x.toWord maj fn) 0 11 = x.csr :=
  (bits_lo (n := 21) (m := 11) _ _ 0 11 (by decide)).trans (bits_all _)

@[simp] theorem CsrR.ofWord_toWord (x : CsrR) (maj : BitVec 6) (fn : BitVec 2) : CsrR.ofWord (x.toWord maj fn) = .ok x := by
  simp [CsrR.ofWord]

/-! ### CsrW -/

@[simp] theorem CsrW.major (x : CsrW) (maj : BitVec 6) (fn : BitVec 2) :
    major (x.toWord maj fn) = maj :=
  (bits_hi (n := 21) (m := 11) _ _ 26 6 (by decide)).trans ((bits_hi (n := 19) (m := 2) _ _ 15 6 (by decide)).trans ((bits_hi (n := 14) (m := 5) _ _ 13 6 (by decide)).trans ((bits_hi (n := 9) (m := 5) _ _ 8 6 (by decide)).trans ((bits_hi (n := 6) (m := 3) _ _ 3 6 (by decide)).trans (bits_all _)))))

@[simp] theorem CsrW.bits_23_3 (x : CsrW) (maj : BitVec 6) (fn : BitVec 2) :
    bits (x.toWord maj fn) 23 3 = x.st :=
  (bits_hi (n := 21) (m := 11) _ _ 23 3 (by decide)).trans ((bits_hi (n := 19) (m := 2) _ _ 12 3 (by decide)).trans ((bits_hi (n := 14) (m := 5) _ _ 10 3 (by decide)).trans ((bits_hi (n := 9) (m := 5) _ _ 5 3 (by decide)).trans ((bits_lo (n := 6) (m := 3) _ _ 0 3 (by decide)).trans (bits_all _)))))

@[simp] theorem CsrW.bits_18_5 (x : CsrW) (maj : BitVec 6) (fn : BitVec 2) :
    bits (x.toWord maj fn) 18 5 = x.d :=
  (bits_hi (n := 21) (m := 11) _ _ 18 5 (by decide)).trans ((bits_hi (n := 19) (m := 2) _ _ 7 5 (by decide)).trans ((bits_hi (n := 14) (m := 5) _ _ 5 5 (by decide)).trans ((bits_lo (n := 9) (m := 5) _ _ 0 5 (by decide)).trans (bits_all _))))

@[simp] theorem CsrW.bits_13_5 (x : CsrW) (maj : BitVec 6) (fn : BitVec 2) :
    bits (x.toWord maj fn) 13 5 = x.a :=
  (bits_hi (n := 21) (m := 11) _ _ 13 5 (by decide)).trans ((bits_hi (n := 19) (m := 2) _ _ 2 5 (by decide)).trans ((bits_lo (n := 14) (m := 5) _ _ 0 5 (by decide)).trans (bits_all _)))

@[simp] theorem CsrW.bits_11_2 (x : CsrW) (maj : BitVec 6) (fn : BitVec 2) :
    bits (x.toWord maj fn) 11 2 = fn :=
  (bits_hi (n := 21) (m := 11) _ _ 11 2 (by decide)).trans ((bits_lo (n := 19) (m := 2) _ _ 0 2 (by decide)).trans (bits_all _))

@[simp] theorem CsrW.bits_0_11 (x : CsrW) (maj : BitVec 6) (fn : BitVec 2) :
    bits (x.toWord maj fn) 0 11 = x.csr :=
  (bits_lo (n := 21) (m := 11) _ _ 0 11 (by decide)).trans (bits_all _)

@[simp] theorem CsrW.ofWord_toWord (x : CsrW) (maj : BitVec 6) (fn : BitVec 2) : CsrW.ofWord (x.toWord maj fn) = .ok x := by
  simp [CsrW.ofWord]

/-! ### ABs -/

@[simp] theorem ABs.major (x : ABs) (maj : BitVec 6) (fn : BitVec 5) :
    major (x.toWord maj fn) = maj :=
  (bits_hi (n := 29) (m := 3) _ _ 26 6 (by decide)).trans ((bits_hi (n := 24) (m := 5) _ _ 23 6 (by decide)).trans ((bits_hi (n := 19) (m := 5) _ _ 18 6 (by decide)).trans ((bits_hi (n := 14) (m := 5) _ _ 13 6 (by decide)).trans ((bits_hi (n := 9) (m := 5) _ _ 8 6 (by decide)).trans ((bits_hi (n := 6) (m := 3) _ _ 3 6 (by decide)).trans (bits_all _))))))

@[simp] theorem ABs.bits_23_3 (x : ABs) (maj : BitVec 6) (fn : BitVec 5) :
    bits (x.toWord maj fn) 23 3 = x.st :=
  (bits_hi (n := 29) (m := 3) _ _ 23 3 (by decide)).trans ((bits_hi (n := 24) (m := 5) _ _ 20 3 (by decide)).trans ((bits_hi (n := 19) (m := 5) _ _ 15 3 (by decide)).trans ((bits_hi (n := 14) (m := 5) _ _ 10 3 (by decide)).trans ((bits_hi (n := 9) (m := 5) _ _ 5 3 (by decide)).trans ((bits_lo (n := 6) (m := 3) _ _ 0 3 (by decide)).trans (bits_all _))))))

@[simp] theorem ABs.bits_18_5 (x : ABs) (maj : BitVec 6) (fn : BitVec 5) :
    bits (x.toWord maj fn) 18 5 = 0#5 :=
  (bits_hi (n := 29) (m := 3) _ _ 18 5 (by decide)).trans ((bits_hi (n := 24) (m := 5) _ _ 15 5 (by decide)).trans ((bits_hi (n := 19) (m := 5) _ _ 10 5 (by decide)).trans ((bits_hi (n := 14) (m := 5) _ _ 5 5 (by decide)).trans ((bits_lo (n := 9) (m := 5) _ _ 0 5 (by decide)).trans (bits_all _)))))

@[simp] theorem ABs.bits_13_5 (x : ABs) (maj : BitVec 6) (fn : BitVec 5) :
    bits (x.toWord maj fn) 13 5 = x.a :=
  (bits_hi (n := 29) (m := 3) _ _ 13 5 (by decide)).trans ((bits_hi (n := 24) (m := 5) _ _ 10 5 (by decide)).trans ((bits_hi (n := 19) (m := 5) _ _ 5 5 (by decide)).trans ((bits_lo (n := 14) (m := 5) _ _ 0 5 (by decide)).trans (bits_all _))))

@[simp] theorem ABs.bits_8_5 (x : ABs) (maj : BitVec 6) (fn : BitVec 5) :
    bits (x.toWord maj fn) 8 5 = x.b :=
  (bits_hi (n := 29) (m := 3) _ _ 8 5 (by decide)).trans ((bits_hi (n := 24) (m := 5) _ _ 5 5 (by decide)).trans ((bits_lo (n := 19) (m := 5) _ _ 0 5 (by decide)).trans (bits_all _)))

@[simp] theorem ABs.bits_3_5 (x : ABs) (maj : BitVec 6) (fn : BitVec 5) :
    bits (x.toWord maj fn) 3 5 = fn :=
  (bits_hi (n := 29) (m := 3) _ _ 3 5 (by decide)).trans ((bits_lo (n := 24) (m := 5) _ _ 0 5 (by decide)).trans (bits_all _))

@[simp] theorem ABs.bits_0_3 (x : ABs) (maj : BitVec 6) (fn : BitVec 5) :
    bits (x.toWord maj fn) 0 3 = x.scope :=
  (bits_lo (n := 29) (m := 3) _ _ 0 3 (by decide)).trans (bits_all _)

@[simp] theorem ABs.ofWord_toWord (x : ABs) (maj : BitVec 6) (fn : BitVec 5) : ABs.ofWord (x.toWord maj fn) = .ok x := by
  simp [ABs.ofWord]

/-! ### Fence -/

@[simp] theorem Fence.major (x : Fence) (maj : BitVec 6) (fn : BitVec 1) :
    major (x.toWord maj fn) = maj :=
  (bits_hi (n := 28) (m := 4) _ _ 26 6 (by decide)).trans ((bits_hi (n := 25) (m := 3) _ _ 22 6 (by decide)).trans ((bits_hi (n := 24) (m := 1) _ _ 19 6 (by decide)).trans ((bits_hi (n := 19) (m := 5) _ _ 18 6 (by decide)).trans ((bits_hi (n := 14) (m := 5) _ _ 13 6 (by decide)).trans ((bits_hi (n := 9) (m := 5) _ _ 8 6 (by decide)).trans ((bits_hi (n := 6) (m := 3) _ _ 3 6 (by decide)).trans (bits_all _)))))))

@[simp] theorem Fence.bits_23_3 (x : Fence) (maj : BitVec 6) (fn : BitVec 1) :
    bits (x.toWord maj fn) 23 3 = x.st :=
  (bits_hi (n := 28) (m := 4) _ _ 23 3 (by decide)).trans ((bits_hi (n := 25) (m := 3) _ _ 19 3 (by decide)).trans ((bits_hi (n := 24) (m := 1) _ _ 16 3 (by decide)).trans ((bits_hi (n := 19) (m := 5) _ _ 15 3 (by decide)).trans ((bits_hi (n := 14) (m := 5) _ _ 10 3 (by decide)).trans ((bits_hi (n := 9) (m := 5) _ _ 5 3 (by decide)).trans ((bits_lo (n := 6) (m := 3) _ _ 0 3 (by decide)).trans (bits_all _)))))))

@[simp] theorem Fence.bits_18_5 (x : Fence) (maj : BitVec 6) (fn : BitVec 1) :
    bits (x.toWord maj fn) 18 5 = x.d :=
  (bits_hi (n := 28) (m := 4) _ _ 18 5 (by decide)).trans ((bits_hi (n := 25) (m := 3) _ _ 14 5 (by decide)).trans ((bits_hi (n := 24) (m := 1) _ _ 11 5 (by decide)).trans ((bits_hi (n := 19) (m := 5) _ _ 10 5 (by decide)).trans ((bits_hi (n := 14) (m := 5) _ _ 5 5 (by decide)).trans ((bits_lo (n := 9) (m := 5) _ _ 0 5 (by decide)).trans (bits_all _))))))

@[simp] theorem Fence.bits_13_5 (x : Fence) (maj : BitVec 6) (fn : BitVec 1) :
    bits (x.toWord maj fn) 13 5 = 0#5 :=
  (bits_hi (n := 28) (m := 4) _ _ 13 5 (by decide)).trans ((bits_hi (n := 25) (m := 3) _ _ 9 5 (by decide)).trans ((bits_hi (n := 24) (m := 1) _ _ 6 5 (by decide)).trans ((bits_hi (n := 19) (m := 5) _ _ 5 5 (by decide)).trans ((bits_lo (n := 14) (m := 5) _ _ 0 5 (by decide)).trans (bits_all _)))))

@[simp] theorem Fence.bits_8_5 (x : Fence) (maj : BitVec 6) (fn : BitVec 1) :
    bits (x.toWord maj fn) 8 5 = 0#5 :=
  (bits_hi (n := 28) (m := 4) _ _ 8 5 (by decide)).trans ((bits_hi (n := 25) (m := 3) _ _ 4 5 (by decide)).trans ((bits_hi (n := 24) (m := 1) _ _ 1 5 (by decide)).trans ((bits_lo (n := 19) (m := 5) _ _ 0 5 (by decide)).trans (bits_all _))))

@[simp] theorem Fence.bits_7_1 (x : Fence) (maj : BitVec 6) (fn : BitVec 1) :
    bits (x.toWord maj fn) 7 1 = fn :=
  (bits_hi (n := 28) (m := 4) _ _ 7 1 (by decide)).trans ((bits_hi (n := 25) (m := 3) _ _ 3 1 (by decide)).trans ((bits_lo (n := 24) (m := 1) _ _ 0 1 (by decide)).trans (bits_all _)))

@[simp] theorem Fence.bits_4_3 (x : Fence) (maj : BitVec 6) (fn : BitVec 1) :
    bits (x.toWord maj fn) 4 3 = x.scope :=
  (bits_hi (n := 28) (m := 4) _ _ 4 3 (by decide)).trans ((bits_lo (n := 25) (m := 3) _ _ 0 3 (by decide)).trans (bits_all _))

@[simp] theorem Fence.bits_0_4 (x : Fence) (maj : BitVec 6) (fn : BitVec 1) :
    bits (x.toWord maj fn) 0 4 = x.kinds :=
  (bits_lo (n := 28) (m := 4) _ _ 0 4 (by decide)).trans (bits_all _)

@[simp] theorem Fence.ofWord_toWord (x : Fence) (maj : BitVec 6) (fn : BitVec 1) : Fence.ofWord (x.toWord maj fn) = .ok x := by
  simp [Fence.ofWord]

/-! ### Vcmp -/

@[simp] theorem Vcmp.major (x : Vcmp) (maj : BitVec 6) :
    major (x.toWord maj) = maj :=
  (bits_hi (n := 29) (m := 3) _ _ 26 6 (by decide)).trans ((bits_hi (n := 28) (m := 1) _ _ 23 6 (by decide)).trans ((bits_hi (n := 26) (m := 2) _ _ 22 6 (by decide)).trans ((bits_hi (n := 24) (m := 2) _ _ 20 6 (by decide)).trans ((bits_hi (n := 19) (m := 5) _ _ 18 6 (by decide)).trans ((bits_hi (n := 14) (m := 5) _ _ 13 6 (by decide)).trans ((bits_hi (n := 9) (m := 5) _ _ 8 6 (by decide)).trans ((bits_hi (n := 6) (m := 3) _ _ 3 6 (by decide)).trans (bits_all _))))))))

@[simp] theorem Vcmp.bits_23_3 (x : Vcmp) (maj : BitVec 6) :
    bits (x.toWord maj) 23 3 = x.st :=
  (bits_hi (n := 29) (m := 3) _ _ 23 3 (by decide)).trans ((bits_hi (n := 28) (m := 1) _ _ 20 3 (by decide)).trans ((bits_hi (n := 26) (m := 2) _ _ 19 3 (by decide)).trans ((bits_hi (n := 24) (m := 2) _ _ 17 3 (by decide)).trans ((bits_hi (n := 19) (m := 5) _ _ 15 3 (by decide)).trans ((bits_hi (n := 14) (m := 5) _ _ 10 3 (by decide)).trans ((bits_hi (n := 9) (m := 5) _ _ 5 3 (by decide)).trans ((bits_lo (n := 6) (m := 3) _ _ 0 3 (by decide)).trans (bits_all _))))))))

@[simp] theorem Vcmp.bits_18_5 (x : Vcmp) (maj : BitVec 6) :
    bits (x.toWord maj) 18 5 = x.d :=
  (bits_hi (n := 29) (m := 3) _ _ 18 5 (by decide)).trans ((bits_hi (n := 28) (m := 1) _ _ 15 5 (by decide)).trans ((bits_hi (n := 26) (m := 2) _ _ 14 5 (by decide)).trans ((bits_hi (n := 24) (m := 2) _ _ 12 5 (by decide)).trans ((bits_hi (n := 19) (m := 5) _ _ 10 5 (by decide)).trans ((bits_hi (n := 14) (m := 5) _ _ 5 5 (by decide)).trans ((bits_lo (n := 9) (m := 5) _ _ 0 5 (by decide)).trans (bits_all _)))))))

@[simp] theorem Vcmp.bits_13_5 (x : Vcmp) (maj : BitVec 6) :
    bits (x.toWord maj) 13 5 = x.a :=
  (bits_hi (n := 29) (m := 3) _ _ 13 5 (by decide)).trans ((bits_hi (n := 28) (m := 1) _ _ 10 5 (by decide)).trans ((bits_hi (n := 26) (m := 2) _ _ 9 5 (by decide)).trans ((bits_hi (n := 24) (m := 2) _ _ 7 5 (by decide)).trans ((bits_hi (n := 19) (m := 5) _ _ 5 5 (by decide)).trans ((bits_lo (n := 14) (m := 5) _ _ 0 5 (by decide)).trans (bits_all _))))))

@[simp] theorem Vcmp.bits_8_5 (x : Vcmp) (maj : BitVec 6) :
    bits (x.toWord maj) 8 5 = x.b :=
  (bits_hi (n := 29) (m := 3) _ _ 8 5 (by decide)).trans ((bits_hi (n := 28) (m := 1) _ _ 5 5 (by decide)).trans ((bits_hi (n := 26) (m := 2) _ _ 4 5 (by decide)).trans ((bits_hi (n := 24) (m := 2) _ _ 2 5 (by decide)).trans ((bits_lo (n := 19) (m := 5) _ _ 0 5 (by decide)).trans (bits_all _)))))

@[simp] theorem Vcmp.bits_6_2 (x : Vcmp) (maj : BitVec 6) :
    bits (x.toWord maj) 6 2 = 0#2 :=
  (bits_hi (n := 29) (m := 3) _ _ 6 2 (by decide)).trans ((bits_hi (n := 28) (m := 1) _ _ 3 2 (by decide)).trans ((bits_hi (n := 26) (m := 2) _ _ 2 2 (by decide)).trans ((bits_lo (n := 24) (m := 2) _ _ 0 2 (by decide)).trans (bits_all _))))

@[simp] theorem Vcmp.bits_4_2 (x : Vcmp) (maj : BitVec 6) :
    bits (x.toWord maj) 4 2 = x.ty :=
  (bits_hi (n := 29) (m := 3) _ _ 4 2 (by decide)).trans ((bits_hi (n := 28) (m := 1) _ _ 1 2 (by decide)).trans ((bits_lo (n := 26) (m := 2) _ _ 0 2 (by decide)).trans (bits_all _)))

@[simp] theorem Vcmp.bits_3_1 (x : Vcmp) (maj : BitVec 6) :
    bits (x.toWord maj) 3 1 = 0#1 :=
  (bits_hi (n := 29) (m := 3) _ _ 3 1 (by decide)).trans ((bits_lo (n := 28) (m := 1) _ _ 0 1 (by decide)).trans (bits_all _))

@[simp] theorem Vcmp.bits_0_3 (x : Vcmp) (maj : BitVec 6) :
    bits (x.toWord maj) 0 3 = x.cond :=
  (bits_lo (n := 29) (m := 3) _ _ 0 3 (by decide)).trans (bits_all _)

@[simp] theorem Vcmp.ofWord_toWord (x : Vcmp) (maj : BitVec 6) : Vcmp.ofWord (x.toWord maj) = .ok x := by
  simp [Vcmp.ofWord]

/-! ### MmaN -/

@[simp] theorem MmaN.major (x : MmaN) (maj : BitVec 6) :
    major (x.toWord maj) = maj :=
  (bits_hi (n := 29) (m := 3) _ _ 26 6 (by decide)).trans ((bits_hi (n := 24) (m := 5) _ _ 23 6 (by decide)).trans ((bits_hi (n := 19) (m := 5) _ _ 18 6 (by decide)).trans ((bits_hi (n := 14) (m := 5) _ _ 13 6 (by decide)).trans ((bits_hi (n := 9) (m := 5) _ _ 8 6 (by decide)).trans ((bits_hi (n := 6) (m := 3) _ _ 3 6 (by decide)).trans (bits_all _))))))

@[simp] theorem MmaN.bits_23_3 (x : MmaN) (maj : BitVec 6) :
    bits (x.toWord maj) 23 3 = x.st :=
  (bits_hi (n := 29) (m := 3) _ _ 23 3 (by decide)).trans ((bits_hi (n := 24) (m := 5) _ _ 20 3 (by decide)).trans ((bits_hi (n := 19) (m := 5) _ _ 15 3 (by decide)).trans ((bits_hi (n := 14) (m := 5) _ _ 10 3 (by decide)).trans ((bits_hi (n := 9) (m := 5) _ _ 5 3 (by decide)).trans ((bits_lo (n := 6) (m := 3) _ _ 0 3 (by decide)).trans (bits_all _))))))

@[simp] theorem MmaN.bits_18_5 (x : MmaN) (maj : BitVec 6) :
    bits (x.toWord maj) 18 5 = x.d :=
  (bits_hi (n := 29) (m := 3) _ _ 18 5 (by decide)).trans ((bits_hi (n := 24) (m := 5) _ _ 15 5 (by decide)).trans ((bits_hi (n := 19) (m := 5) _ _ 10 5 (by decide)).trans ((bits_hi (n := 14) (m := 5) _ _ 5 5 (by decide)).trans ((bits_lo (n := 9) (m := 5) _ _ 0 5 (by decide)).trans (bits_all _)))))

@[simp] theorem MmaN.bits_13_5 (x : MmaN) (maj : BitVec 6) :
    bits (x.toWord maj) 13 5 = x.a :=
  (bits_hi (n := 29) (m := 3) _ _ 13 5 (by decide)).trans ((bits_hi (n := 24) (m := 5) _ _ 10 5 (by decide)).trans ((bits_hi (n := 19) (m := 5) _ _ 5 5 (by decide)).trans ((bits_lo (n := 14) (m := 5) _ _ 0 5 (by decide)).trans (bits_all _))))

@[simp] theorem MmaN.bits_8_5 (x : MmaN) (maj : BitVec 6) :
    bits (x.toWord maj) 8 5 = x.b :=
  (bits_hi (n := 29) (m := 3) _ _ 8 5 (by decide)).trans ((bits_hi (n := 24) (m := 5) _ _ 5 5 (by decide)).trans ((bits_lo (n := 19) (m := 5) _ _ 0 5 (by decide)).trans (bits_all _)))

@[simp] theorem MmaN.bits_3_5 (x : MmaN) (maj : BitVec 6) :
    bits (x.toWord maj) 3 5 = x.c :=
  (bits_hi (n := 29) (m := 3) _ _ 3 5 (by decide)).trans ((bits_lo (n := 24) (m := 5) _ _ 0 5 (by decide)).trans (bits_all _))

@[simp] theorem MmaN.bits_0_3 (x : MmaN) (maj : BitVec 6) :
    bits (x.toWord maj) 0 3 = x.pm2 :=
  (bits_lo (n := 29) (m := 3) _ _ 0 3 (by decide)).trans (bits_all _)

@[simp] theorem MmaN.ofWord_toWord (x : MmaN) (maj : BitVec 6) : MmaN.ofWord (x.toWord maj) = .ok x := by
  simp [MmaN.ofWord]

/-! ### Ast -/

@[simp] theorem Ast.major (x : Ast) (maj : BitVec 6) (fn : BitVec 8) :
    major (x.toWord maj fn) = maj :=
  (bits_hi (n := 24) (m := 8) _ _ 26 6 (by decide)).trans ((bits_hi (n := 19) (m := 5) _ _ 18 6 (by decide)).trans ((bits_hi (n := 14) (m := 5) _ _ 13 6 (by decide)).trans ((bits_hi (n := 11) (m := 3) _ _ 8 6 (by decide)).trans ((bits_hi (n := 9) (m := 2) _ _ 5 6 (by decide)).trans ((bits_hi (n := 6) (m := 3) _ _ 3 6 (by decide)).trans (bits_all _))))))

@[simp] theorem Ast.bits_23_3 (x : Ast) (maj : BitVec 6) (fn : BitVec 8) :
    bits (x.toWord maj fn) 23 3 = x.st :=
  (bits_hi (n := 24) (m := 8) _ _ 23 3 (by decide)).trans ((bits_hi (n := 19) (m := 5) _ _ 15 3 (by decide)).trans ((bits_hi (n := 14) (m := 5) _ _ 10 3 (by decide)).trans ((bits_hi (n := 11) (m := 3) _ _ 5 3 (by decide)).trans ((bits_hi (n := 9) (m := 2) _ _ 2 3 (by decide)).trans ((bits_lo (n := 6) (m := 3) _ _ 0 3 (by decide)).trans (bits_all _))))))

@[simp] theorem Ast.bits_21_2 (x : Ast) (maj : BitVec 6) (fn : BitVec 8) :
    bits (x.toWord maj fn) 21 2 = x.fmt :=
  (bits_hi (n := 24) (m := 8) _ _ 21 2 (by decide)).trans ((bits_hi (n := 19) (m := 5) _ _ 13 2 (by decide)).trans ((bits_hi (n := 14) (m := 5) _ _ 8 2 (by decide)).trans ((bits_hi (n := 11) (m := 3) _ _ 3 2 (by decide)).trans ((bits_lo (n := 9) (m := 2) _ _ 0 2 (by decide)).trans (bits_all _)))))

@[simp] theorem Ast.bits_18_3 (x : Ast) (maj : BitVec 6) (fn : BitVec 8) :
    bits (x.toWord maj fn) 18 3 = x.tile :=
  (bits_hi (n := 24) (m := 8) _ _ 18 3 (by decide)).trans ((bits_hi (n := 19) (m := 5) _ _ 10 3 (by decide)).trans ((bits_hi (n := 14) (m := 5) _ _ 5 3 (by decide)).trans ((bits_lo (n := 11) (m := 3) _ _ 0 3 (by decide)).trans (bits_all _))))

@[simp] theorem Ast.bits_13_5 (x : Ast) (maj : BitVec 6) (fn : BitVec 8) :
    bits (x.toWord maj fn) 13 5 = x.a :=
  (bits_hi (n := 24) (m := 8) _ _ 13 5 (by decide)).trans ((bits_hi (n := 19) (m := 5) _ _ 5 5 (by decide)).trans ((bits_lo (n := 14) (m := 5) _ _ 0 5 (by decide)).trans (bits_all _)))

@[simp] theorem Ast.bits_8_5 (x : Ast) (maj : BitVec 6) (fn : BitVec 8) :
    bits (x.toWord maj fn) 8 5 = x.b :=
  (bits_hi (n := 24) (m := 8) _ _ 8 5 (by decide)).trans ((bits_lo (n := 19) (m := 5) _ _ 0 5 (by decide)).trans (bits_all _))

@[simp] theorem Ast.bits_0_8 (x : Ast) (maj : BitVec 6) (fn : BitVec 8) :
    bits (x.toWord maj fn) 0 8 = fn :=
  (bits_lo (n := 24) (m := 8) _ _ 0 8 (by decide)).trans (bits_all _)

@[simp] theorem Ast.ofWord_toWord (x : Ast) (maj : BitVec 6) (fn : BitVec 8) : Ast.ofWord (x.toWord maj fn) = .ok x := by
  simp [Ast.ofWord]

/-! ### Hint -/

@[simp] theorem Hint.major (x : Hint) (maj : BitVec 6) :
    major (x.toWord maj) = maj :=
  (bits_hi (n := 6) (m := 26) _ _ 26 6 (by decide)).trans (bits_all _)

@[simp] theorem Hint.bits_0_26 (x : Hint) (maj : BitVec 6) :
    bits (x.toWord maj) 0 26 = x.kimm :=
  (bits_lo (n := 6) (m := 26) _ _ 0 26 (by decide)).trans (bits_all _)

@[simp] theorem Hint.ofWord_toWord (x : Hint) (maj : BitVec 6) : Hint.ofWord (x.toWord maj) = .ok x := by
  simp [Hint.ofWord]

/-! ### Modw -/

@[simp] theorem Modw.major (x : Modw) (maj : BitVec 6) :
    major (x.toWord maj) = maj :=
  (bits_hi (n := 22) (m := 10) _ _ 26 6 (by decide)).trans ((bits_hi (n := 19) (m := 3) _ _ 16 6 (by decide)).trans ((bits_hi (n := 14) (m := 5) _ _ 13 6 (by decide)).trans ((bits_hi (n := 13) (m := 1) _ _ 8 6 (by decide)).trans ((bits_hi (n := 10) (m := 3) _ _ 7 6 (by decide)).trans ((bits_hi (n := 7) (m := 3) _ _ 4 6 (by decide)).trans ((bits_hi (n := 6) (m := 1) _ _ 1 6 (by decide)).trans (bits_all _)))))))

@[simp] theorem Modw.bits_25_1 (x : Modw) (maj : BitVec 6) :
    bits (x.toWord maj) 25 1 = x.minv :=
  (bits_hi (n := 22) (m := 10) _ _ 25 1 (by decide)).trans ((bits_hi (n := 19) (m := 3) _ _ 15 1 (by decide)).trans ((bits_hi (n := 14) (m := 5) _ _ 12 1 (by decide)).trans ((bits_hi (n := 13) (m := 1) _ _ 7 1 (by decide)).trans ((bits_hi (n := 10) (m := 3) _ _ 6 1 (by decide)).trans ((bits_hi (n := 7) (m := 3) _ _ 3 1 (by decide)).trans ((bits_lo (n := 6) (m := 1) _ _ 0 1 (by decide)).trans (bits_all _)))))))

@[simp] theorem Modw.bits_22_3 (x : Modw) (maj : BitVec 6) :
    bits (x.toWord maj) 22 3 = x.msel :=
  (bits_hi (n := 22) (m := 10) _ _ 22 3 (by decide)).trans ((bits_hi (n := 19) (m := 3) _ _ 12 3 (by decide)).trans ((bits_hi (n := 14) (m := 5) _ _ 9 3 (by decide)).trans ((bits_hi (n := 13) (m := 1) _ _ 4 3 (by decide)).trans ((bits_hi (n := 10) (m := 3) _ _ 3 3 (by decide)).trans ((bits_lo (n := 7) (m := 3) _ _ 0 3 (by decide)).trans (bits_all _))))))

@[simp] theorem Modw.bits_19_3 (x : Modw) (maj : BitVec 6) :
    bits (x.toWord maj) 19 3 = x.rm :=
  (bits_hi (n := 22) (m := 10) _ _ 19 3 (by decide)).trans ((bits_hi (n := 19) (m := 3) _ _ 9 3 (by decide)).trans ((bits_hi (n := 14) (m := 5) _ _ 6 3 (by decide)).trans ((bits_hi (n := 13) (m := 1) _ _ 1 3 (by decide)).trans ((bits_lo (n := 10) (m := 3) _ _ 0 3 (by decide)).trans (bits_all _)))))

@[simp] theorem Modw.bits_18_1 (x : Modw) (maj : BitVec 6) :
    bits (x.toWord maj) 18 1 = x.zm :=
  (bits_hi (n := 22) (m := 10) _ _ 18 1 (by decide)).trans ((bits_hi (n := 19) (m := 3) _ _ 8 1 (by decide)).trans ((bits_hi (n := 14) (m := 5) _ _ 5 1 (by decide)).trans ((bits_lo (n := 13) (m := 1) _ _ 0 1 (by decide)).trans (bits_all _))))

@[simp] theorem Modw.bits_13_5 (x : Modw) (maj : BitVec 6) :
    bits (x.toWord maj) 13 5 = x.op4 :=
  (bits_hi (n := 22) (m := 10) _ _ 13 5 (by decide)).trans ((bits_hi (n := 19) (m := 3) _ _ 3 5 (by decide)).trans ((bits_lo (n := 14) (m := 5) _ _ 0 5 (by decide)).trans (bits_all _)))

@[simp] theorem Modw.bits_10_3 (x : Modw) (maj : BitVec 6) :
    bits (x.toWord maj) 10 3 = x.cnt :=
  (bits_hi (n := 22) (m := 10) _ _ 10 3 (by decide)).trans ((bits_lo (n := 19) (m := 3) _ _ 0 3 (by decide)).trans (bits_all _))

@[simp] theorem Modw.bits_0_10 (x : Modw) (maj : BitVec 6) :
    bits (x.toWord maj) 0 10 = 0#10 :=
  (bits_lo (n := 22) (m := 10) _ _ 0 10 (by decide)).trans (bits_all _)

@[simp] theorem Modw.ofWord_toWord (x : Modw) (maj : BitVec 6) : Modw.ofWord (x.toWord maj) = .ok x := by
  simp [Modw.ofWord]

end Sys2Proof
end

