-- ==== Sys2Proof/Laws/Operands.lean ====
section
/-!
SUPPORT. What the operand forms can do: everything that reading a source, producing a result and reserving one may answer,
said once.
-/
namespace Sys2Proof.Machine

/-- An operation that ends normally ends in its two parts one after the other. -/
theorem bind_ok {α β : Type} {op : Op α} {f : α → Op β} {s u : State} {w : β} (h : (op >>= f) s = .ok (w, u)) :
    ∃ v t, op s = .ok (v, t) ∧ f v t = .ok (w, u) := by
  cases e : op s with
  | ok p => exact ⟨p.1, p.2, rfl, by rw [← h]; exact (bind_of_gives (v := p.1) (t := p.2) e).symm⟩
  | error x =>
    rw [bind_of_error e] at h
    cases h

theorem require_ok {b : Bool} {c : Cause} {i : W} {s t : State} {u : Unit} (h : require b c i s = .ok (u, t)) :
    b = true ∧ t = s := by
  unfold require at h
  split at h
  · cases h
    exact ⟨‹_›, rfl⟩
  · cases h

theorem readEntry_ok {e : Entry} {s t : State} {v : W} (h : readEntry e s = .ok (v, t)) : e.tag = 0 ∧ v = e.val ∧ t = s := by
  unfold readEntry at h
  split at h
  · cases h
    exact ⟨‹_›, rfl, rfl⟩
  · cases h

/-- What a source field gives: a filled queue position or named register, the next element of a stream port, zero, the
hint value, or the number of the agent and slot; nothing but a pop changes the state. -/
theorem readSel_ok {f : Sel} {s t : State} {v : W} (h : Reads s f v t) :
    (f.toNat < 16 ∧ (qEntry s.cur f.toNat).tag = 0 ∧ v = (qEntry s.cur f.toNat).val ∧ t = s) ∨
    (16 ≤ f.toNat ∧ f.toNat < 24 ∧ (nEntry s.cur (f.toNat - 16)).tag = 0 ∧ v = (nEntry s.cur (f.toNat - 16)).val ∧ t = s) ∨
    (24 ≤ f.toNat ∧ f.toNat < 28 ∧ popPort (BitVec.ofNat 2 (f.toNat - 24)) s = .ok (v, t)) ∨
    (f.toNat = 28 ∧ v = 0 ∧ t = s) ∨ (f.toNat = 29 ∧ v = kValue s.cur ∧ t = s) ∨
    (f.toNat = 30 ∧ v = idValue s.turn ∧ t = s) := by
  change readSel f s = .ok (v, t) at h
  unfold readSel at h
  obtain ⟨x, y, e, h⟩ := bind_ok h
  cases e
  dsimp only at h
  split at h
  · obtain ⟨h1, h2, h3⟩ := readEntry_ok h
    exact .inl ⟨‹_›, h1, h2, h3⟩
  · split at h
    · obtain ⟨h1, h2, h3⟩ := readEntry_ok h
      exact .inr (.inl ⟨by omega, ‹_›, h1, h2, h3⟩)
    · split at h
      · exact .inr (.inr (.inl ⟨by omega, ‹_›, h⟩))
      · split at h
        · cases h
          exact .inr (.inr (.inr (.inl ⟨‹_›, rfl, rfl⟩)))
        · split at h
          · cases h
            exact .inr (.inr (.inr (.inr (.inl ⟨‹_›, rfl, rfl⟩))))
          · split at h
            · cases h
              exact .inr (.inr (.inr (.inr (.inr ⟨‹_›, rfl, rfl⟩))))
            · cases h

/-- What the append of a result does: the append itself, or an element reserved for one that comes at the result's cycle. -/
theorem appendResult_ok {p : BitVec 2} {v : W} {cycle : Nat} {s t : State} (h : appendResult p v cycle s = .ok ((), t)) :
    (cycle ≤ s.tick + 1 ∧ appendAfter s s.turn p 0 = false ∧ appendPort p v s = .ok ((), t)) ∨
    (∃ dst u, reserveElement p cycle { s with tags := s.tags + 1 } = .ok (dst, u) ∧
      t = emit u (.loadResponse ⟨s.turn, s.tags, dst, v, cycle⟩)) := by
  unfold appendResult at h
  obtain ⟨x, y, e, h⟩ := bind_ok h
  cases e
  split at h
  · rename_i hc
    simp only [Bool.and_eq_true, decide_eq_true_eq, Bool.not_eq_true'] at hc
    exact .inl ⟨hc.1, hc.2, h⟩
  · obtain ⟨a, b, e, h⟩ := bind_ok h
    cases e
    obtain ⟨dst, u, e, h⟩ := bind_ok h
    cases h
    exact .inr ⟨dst, u, e, rfl⟩

/-- What producing a result does: a push, with a named register written or an element appended where the field says so. -/
theorem produceAt_ok {d : Sel} {v : W} {n : Nat} {s t : State} (h : produceAt d v n s = .ok ((), t)) :
    (d.toNat = 0 ∧ t = { s with cur := { s.cur with q := pushQueue s.cur.q ⟨v, 0, n⟩ } }) ∨
    (16 ≤ d.toNat ∧ d.toNat < 24 ∧ awaited s.cur (d.toNat - 16) = false ∧
      (let r := BitVec.ofNat 3 (d.toNat - 16)
       t = { s with cur := writeNamed (keepOld { s.cur with q := pushQueue s.cur.q ⟨v, 0, n⟩ } s.tick r n) r ⟨v, 0, n⟩ })) ∨
    (24 ≤ d.toNat ∧ d.toNat < 28 ∧ appendResult (BitVec.ofNat 2 (d.toNat - 24)) v n
      { s with cur := { s.cur with q := pushQueue s.cur.q ⟨v, 0, n⟩ } } = .ok ((), t)) := by
  unfold produceAt at h
  dsimp only at h
  obtain ⟨x, y, e, h⟩ := bind_ok h
  cases e
  split at h
  · cases h
    exact .inl ⟨‹_›, rfl⟩
  · split at h
    · rename_i hr
      split at h
      · obtain ⟨a, b, e, h⟩ := bind_ok h
        cases e
      · rename_i hw
        cases h
        exact .inr (.inl ⟨hr.1, hr.2, by simpa using hw, rfl⟩)
    · split at h
      · rename_i hr
        obtain ⟨a, b, e, h⟩ := bind_ok h
        cases e
        exact .inr (.inr ⟨hr.1, hr.2, h⟩)
      · cases h

/-- A fixed-latency result is one ready from the cycle on. -/
theorem produce_eq (d : Sel) (v : W) (n : Nat) (s : State) : produce d v n s = produceAt d v (s.tick + n) s := rfl

/-- A result that D does not send to a stream port changes the executing slot only. -/
theorem produceAt_slot {d : Sel} {v : W} {n : Nat} {s t : State} (h : produceAt d v n s = .ok ((), t)) (hd : d.toNat < 24) :
    OnlySlot s t := by
  rcases produceAt_ok h with ⟨-, rfl⟩ | ⟨-, -, -, rfl⟩ | ⟨h1, -, -⟩
  · exact ⟨_, rfl⟩
  · exact ⟨_, rfl⟩
  · omega

/-- A source that is no stream port leaves the state as it is. -/
theorem reads_same {f : Sel} {v : W} {s t : State} (h : Reads s f v t) (hf : f.toNat < 24 ∨ 28 ≤ f.toNat) : t = s := by
  rcases readSel_ok h with ⟨-, -, -, rfl⟩ | ⟨-, -, -, -, rfl⟩ | ⟨h1, h2, -⟩ | ⟨-, -, rfl⟩ | ⟨-, -, rfl⟩ | ⟨-, -, rfl⟩
  all_goals first | rfl | omega

/-- A filled queue position can be read. -/
theorem reads_queue {f : Sel} {s : State} (hf : f.toNat < 16) (h : (qEntry s.cur f.toNat).tag = 0) :
    Reads s f (qEntry s.cur f.toNat).val s := by
  change readSel f s = _
  unfold readSel
  rw [bind_of_gives (show Gives get s s s from rfl)]
  rw [if_pos hf]
  simp [readEntry, h]

/-- A filled named register can be read. -/
theorem reads_named {f : Sel} {s : State} (hf : 16 ≤ f.toNat) (hg : f.toNat < 24)
    (h : (nEntry s.cur (f.toNat - 16)).tag = 0) : Reads s f (nEntry s.cur (f.toNat - 16)).val s := by
  change readSel f s = _
  unfold readSel
  rw [bind_of_gives (show Gives get s s s from rfl)]
  rw [if_neg (by omega), if_pos hg]
  simp [readEntry, h]

end Sys2Proof.Machine
end

