-- ==== Sys2Proof/Laws/Shared.lean ====
section
/-!
SUPPORT. What the operations that the dispatcher, the home slices and the registry share can do: that they keep every memory
in canonical form, and what each leaves of the queues and messages it is about.
-/
namespace Sys2Proof.Machine

/-! ### The lines of an operand before an operation at its home -/

theorem evictHeader_memOk {s : State} (h : HartId) (l : Loc) (hs : s.memOk = true) : (evictHeader s h l).memOk = true := by
  unfold evictHeader
  split
  · exact evictOf_memOk _ _ _ hs
  · exact hs

theorem evictCellOf_memOk {s : State} (h : HartId) (pa : Nat) (k : CellKind) (hs : s.memOk = true) :
    (evictCellOf s h pa k).memOk = true :=
  foldl_memOk _ (fun _ _ h => evictOf_memOk _ _ _ h) _ _ hs

/-! ### Counts and registry entries that may hold uncorrectable data -/

/-- A count that can be read grows by one, modulo 2^32. -/
theorem countUp_eq {s : State} {pa : Nat} (h : poisonedPhys s pa 8 = false) : countUp s pa = (physDword s pa + 1) % 2 ^ 32 := by
  simp [countUp, h]

/-- Any count fits its 32 bits. -/
theorem countUp_lt (s : State) (pa : Nat) : countUp s pa < 2 ^ 32 := by
  unfold countUp
  split
  · exact BitVec.isLt _
  · exact Nat.mod_lt _ (by decide)

theorem writeCompletion_memOk {s : State} (a c x r : Nat) (h : s.memOk = true) : (writeCompletion s a c x r).memOk = true :=
  homeWrite_memOk _ _ h

/-- A doubleword of an entry that can be read is the entry's, whatever the shadow holds. -/
theorem regWord_entry {s : State} {die off : Nat} {c : BitVec 16} (h : poisonedPhys s (regEntry s die c + off) 8 = false) :
    regWord s die c off = some (physDword s (regEntry s die c + off)) := by
  simp [regWord, h]

theorem setCopyDword_memOk {s : State} (a off v : Nat) (h : s.memOk = true) : (setCopyDword s a off v).memOk = true := by
  unfold setCopyDword
  dsimp only
  split
  · exact physWrite_memOk _ _ h
  · exact physWrite_memOk _ _ (physWrite_memOk _ _ h)

theorem setRegDword_memOk {s : State} (die : Nat) (c : BitVec 16) (off v : Nat) (h : s.memOk = true) :
    (setRegDword s die c off v).memOk = true := by
  unfold setRegDword
  dsimp only
  split
  · exact setCopyDword_memOk _ _ _ (setCopyDword_memOk _ _ _ h)
  · exact physWrite_memOk _ _ (setCopyDword_memOk _ _ _ h)

/-! ### What a completed context and an invalid channel leave -/

@[simp] theorem dropPending_memOk (s : State) (c : BitVec 16) : (dropPending s c).memOk = s.memOk := rfl
@[simp] theorem dropPending_cores (s : State) (c : BitVec 16) : (dropPending s c).cores = s.cores := rfl
@[simp] theorem dropPending_clusters (s : State) (c : BitVec 16) : (dropPending s c).clusters = s.clusters := rfl
@[simp] theorem dropPending_ctxs (s : State) (c : BitVec 16) : (dropPending s c).ctxs = s.ctxs := rfl
@[simp] theorem dropPending_mem (s : State) (c : BitVec 16) : (dropPending s c).mem = s.mem := rfl
@[simp] theorem dropPending_pools (s : State) (c : BitVec 16) : (dropPending s c).pools = s.pools := rfl

/-- A queue keeps the groups of every other context, in their order. -/
theorem dropPending_pending (s : State) (c : BitVec 16) (q : Nat) :
    (queueAt (dropPending s c) q).pending = (queueAt s q).pending.filter fun g => g.ctx != c := by
  unfold dropPending queueAt mapGet
  dsimp only
  induction s.queues with
  | nil => rfl
  | cons a l ih =>
    by_cases e : a.1 = q
    · simp [mapFind, e, bne]
    · simpa [mapFind, e, bne] using ih

@[simp] theorem refuseWaiting_memOk (s : State) (core : Nat) (c : BitVec 16) : (refuseWaiting s core c).memOk = s.memOk := rfl

/-- Messages of other contexts stay in the core's interface. -/
theorem refuseWaiting_ni (s : State) (core : Nat) (c : BitVec 16) {m : Msg} (hm : m.ctx ≠ c) (h : m ∈ (coreOf s core).ni) :
    m ∈ (coreOf (refuseWaiting s core c) core).ni := by
  have e : (coreOf (refuseWaiting s core c) core).ni = (coreOf s core).ni.filter fun m => !(m.ctx == c && !isRoot m &&
      (match placementOf s core c with
        | some p => !(entryAt p m.channel.toNat).valid
        | none => false)) := congrArg Core.ni (coreOf_setCore_self s core _)
  rw [e, List.mem_filter]
  exact ⟨h, by simp [hm]⟩

end Sys2Proof.Machine
end

