-- ==== Sys2Proof/Tests/Slice0.lean ====
section
/-!
SUPPORT. Tests: ill-formed words are refused, every word of the opcode map decodes from its bits, single steps give what
the spec's tables and hand calculation give, and the hypotheses of the statements can be met (a theorem `test_meets_X`
for the statement X).
-/
namespace Sys2Proof.Tests

open Sys2Proof.Machine
set_option Elab.async false

/-! ### States for single steps -/

/-- A user strand of context 1 on core 0, in sequence at 0x1000, with n0 = 7, n1 = −3, n2 = −2^63, n3 = −1. -/
def slot0 : Slot := { Slot.reset with
  live := true, ctx := 1, pc := 0x1000, npc := 0x1004, nnpc := 0x1008, rstart := 0x1000, gpc := 0x1000, partw := 0x0101
  n := ((((Vector.replicate 8 ⟨0, 0, 0⟩).set 0 ⟨7, 0, 0⟩).set 1 ⟨-3, 0, 0⟩).set 2 ⟨0x8000000000000000, 0, 0⟩).set 3 ⟨-1, 0, 0⟩ }

/-- The module with that strand executing. -/
def st : State := { State.reset with turn := 0, cur := slot0 }

/-- The same strand with other values in n0 to n3. -/
def withN (a b c d : W) : State := { st with cur := { slot0 with
  n := ((((Vector.replicate 8 ⟨0, 0, 0⟩).set 0 ⟨a, 0, 0⟩).set 1 ⟨b, 0, 0⟩).set 2 ⟨c, 0, 0⟩).set 3 ⟨d, 0, 0⟩ } }

/-- The strand inside a REP body of one word. -/
def inRep : State := { st with cur := { slot0 with rep := some ⟨0xFFC, 0x1000, 1, 2, Vector.replicate 8 none⟩ } }

/-- The strand in the first delay slot of a branch. -/
def inSlot : State := { st with cur := { slot0 with prev1 := .taken } }

/-- The strand in supervisor mode. -/
def sup0 : State := { st with cur := { slot0 with sup := true } }

/-- What a step leaves in q1; none where a result is awaited or the step answers no state. -/
def q1After (i : Instr) (s : State) : Option W := match exec i s with
  | .next t => if (qEntry t.cur 0).tag = 0 then some (qEntry t.cur 0).val else none
  | _ => none

/-- A value of the state after a step. -/
def after {α : Type} (i : Instr) (s : State) (f : State → α) : Option α := match exec i s with
  | .next t => some (f t)
  | _ => none

/-- Whether an operation ends normally. -/
def ran {α : Type} (op : Op α) (s : State) : Bool := match op s with
  | .ok _ => true
  | .error _ => false

/-- An operation that ends normally gives a value and a state. -/
theorem gives_of_ran {α : Type} {op : Op α} {s : State} (h : ran op s = true) : ∃ v t, Gives op s v t := by
  unfold ran at h
  split at h
  · next v hv => exact ⟨v.1, v.2, hv⟩
  · simp at h

/-- A supervisor strand of core 0, whose root is the identity map, with values in n0 to n3 and 0x1122334455667788 at
0x100000. -/
def memN (a b c d : W) : State := { withN a b c d with
  cur := { (withN a b c d).cur with sup := true }
  mem := memWrite [] 0x100000 (natBytes 8 0x1122334455667788) }

/-- A user strand with a scratchpad of 4 KiB, with values in n0 to n3 and 0xAABBCCDD at its offset 0x100. -/
def padN (a b c d : W) : State := { withN a b c d with pools := memWrite [] 0x1100 (natBytes 4 0xAABBCCDD) }

/-- The strand of `memN` with a divide's append of 8 bytes to s3 at 0x100000 to come at cycle 9. -/
def appendN (a b c d : W) : State := emit (memN a b c d) (.divideComplete ⟨0, 9, .stream 3 (.mem 0x100000) 8 false, 5, 9⟩)

/-- Whether a step puts a result under way, with tag 1 and whatever cycle it comes in. -/
def brings (i : Instr) (s : State) (dest : Dest) (v : W) : Bool := after i s (fun t => t.events.any fun e =>
  match resultOf e with
  | some r => r.h == s.turn && r.tag == 1 && r.dest == dest && r.val == v
  | none => false) == some true

/-- Whether a step puts an operation under way. -/
def starts (i : Instr) (s : State) (e : Event) : Bool := after i s (fun t => t.events.any fun x => x == e) == some true

/-- A queue header at 0x200000: its ring at 0x300000, of 16 entries, HEAD and TAIL, the sentinel all ones; KIND as given. Launch queue 0's header. -/
def queueN (kind head tail : Nat) (a b c : W) : State :=
  let s := memN a b c 0
  { s with mem := memWrite (memWrite (memWrite s.mem 0 (natBytes 8 0x200000 ++ natBytes 24 0 ++ natBytes 8 1)) 0x200000 (natBytes 8 0x300000 ++ natBytes 8 (4 + 16 * kind) ++ natBytes 8 head ++
      natBytes 8 tail ++ natBytes 8 (2 ^ 64 - 1))) 0x300000 (natBytes 8 77 ++ natBytes 8 1) }

/-- A root table at 0x200000 with one leaf of 64 KiB at each level needed for the addresses below 0x10000: bits R, W and U,
not S, at the physical page 0x100000 (R336). -/
def pagedN (attrs : Nat) (a b c d : W) : State :=
  let s := withN a b c d
  let p (at_ next : Nat) (m : Memory) : Memory := memWrite m at_ (natBytes 8 (2 ^ 63 + next))
  { s with
    mem := memWrite (p 0x200000 0x202000 (p 0x202000 0x204000 (p 0x204000 0x206000 (p 0x206000 (2 ^ 62 + 2 ^ 60 + 0x100000 + attrs) [])))) 0x100000
      (natBytes 8 0x1122334455667788)
    cores := [(0, { Core.reset with placements := [⟨1, 0x0101, 0, [], 0, 0, 0, 0, 0x200000, [], [], 1, 0, 0, 0, 1, none, none, false, [], [], [], false⟩] })] }

/-- What a queue operation pushes, with HEAD and TAIL after it. -/
def queued (s : State) (op : QueueOp) (b c : W) : Option (W × Nat × Nat) :=
  after (.homeQueueOperation ⟨0, 9, .none, 0, 0x200000, 0x200000, identityRoot, true, op, b, c⟩)
    { s with cur := { s.cur with q := s.cur.q.set 0 ⟨0, 9, 0⟩ } }
    (fun t => ((qEntry t.cur 0).val, leNat (memRead t.mem 0x200010 8), leNat (memRead t.mem 0x200018 8)))

/-- A launch of nothing in particular: two cores of one group, its queues of records at 0x4000 and 0x5000. -/
def launch0 : Launch where
  entry := 0x1000
  total := 100
  partw := 0x0101
  hold := false
  rooth := false
  gang := false
  pipe := false
  child := 0
  succ := false
  sdef := 0
  htab := 0
  ptab := 0
  shape := 0
  freeq := 0x4000
  readyq := 0x5000
  levels := []
  stages := []
  seed := 0
  nphase := 0
  image := []
  shapeImage := []

/-- Context 1, with the root table of `pagedN` and its completion word at 0x300000. -/
def ctx1 : Ctx where
  queue := 0
  record := 0x6000
  root := 0x200000
  compl := 0x300000
  rec_ := launch0
  groupCores := 1
  groups := 2
  share := 1
  grown := 0
  members := [(0, 0), (1, 1)]
  arrivals := []
  later := []
  passed := []
  complete := false
  quiescer := none

/-- A valid entry of level 3 at 0x2000, its landing region at 0x100. -/
def entry0 : HEntry := ⟨0x2000, true, false, false, 3, false, 0x100⟩

/-- A placement of context 1, with that entry on the channels 2 to 63. -/
def place0 : Placement where
  ctx := 1
  partw := 0x0101
  pbase := 0
  htab := List.replicate 2 HEntry.zero ++ List.replicate 62 entry0
  ptab := 0
  nphase := 0
  sdef := 0
  seed := 0
  root := 0x200000
  coords := []
  exts := []
  mcount := 2
  member := 0
  group := 0
  gidx := 0
  gcores := 1
  savedH := none
  savedL := none
  absent := false
  spilled := []
  logged := []
  heldCh := []
  stage := false

/-- The strand with WCUR 101, a record at 0x80 and its context on the cores 0 and 1, its pages as in `pagedN`; an entry image
(0x2000, valid, level 2, landing 0x100) at 0x40 and a record in state 01 (PC 0x7004, weight 9, FPFLAGS 3, n0 = 5) at 0x100. -/
def coreN (a b c d : W) : State :=
  let s := pagedN 0b1011 a b c d
  { s with
    cur := { s.cur with wcur := 101, crec := 0x80, phcnt := 0 }
    mem := memWrite (memWrite s.mem 0x100040 (natBytes 8 0x2000 ++ natBytes 8 (2 ^ 31 + 2 * 2 ^ 26 + 0x100)))
      0x100100 (natBytes 8 (2 ^ 62 + 3 * 2 ^ 56 + 0x7004) ++ natBytes 8 (9 * 2 ^ 16 + 1) ++ natBytes 8 5),
    ctxs := [(1, ctx1)],
    cores := [(0, { Core.reset with placements := [place0] }), (1, { Core.reset with placements := [{ place0 with member := 1, group := 1 }] })] }

/-- The same in supervisor mode. -/
def coreS (a b c d : W) : State := { coreN a b c d with cur := { (coreN a b c d).cur with sup := true } }

/-- TCAUSE and TINFO after a word. -/
def trapOf (i : Instr) (s : State) : Option (BitVec 8 × W) := after i s fun t => (t.cur.tcause, t.cur.tinfo)

/-- An entry of the handler table of core 0 after a word. -/
def entryAfter (i : Instr) (s : State) (ch : Nat) : Option HEntry :=
  after i s fun t => entryAt (((placementOf t 0 1)).getD place0) ch

/-- What an operation on a queue header answers; 100 and its reason where it refuses. -/
def answerOf : QAnswer → Nat
  | .value v _ => v
  | .refuse _ r _ => 100 + r

/-- Whether a step answers a next state. -/
def answers (o : Host.Outcome State Fault Refusal) : Bool := match o with
  | .next _ => true
  | _ => false

/-- Context 1 with TOTAL 100, AT_HOME 60 and LOST 30 in its home record at 0x10020. -/
def homeN : State :=
  let s := coreN 10 1 0 0
  { s with
    dies := [(0, { Die.reset with hrbase := 0x10000 })]
    mem := memWrite s.mem 0x10020 (natBytes 8 100 ++ natBytes 8 60 ++ natBytes 8 30) }

/-- A clerk of die 0, in supervisor mode. -/
def clerkN (a b c d : W) : State := { coreS a b c d with turn := 2316 }

/-- The context with another launch record. -/
def ofLaunch (s : State) (r : Launch) : State := { s with ctxs := [(1, { ctx1 with rec_ := r })] }

/-- A strand that may launch: a queue header at 0x200 (ring at 0x500, of 16 entries, HEAD 3, TAIL `tail`), which
is launch queue 0's. -/
def launcher (tail : Nat) (a b c : W) : State :=
  let s := ofLaunch (coreN a b c 0) { launch0 with child := 1 }
  { s with mem := memWrite (memWrite s.mem 0 (natBytes 8 0x100200 ++ natBytes 24 0 ++ natBytes 8 1)) 0x100200 (natBytes 8 0x500 ++ natBytes 8 4 ++ natBytes 8 3 ++ natBytes 8 tail ++ natBytes 8 (2 ^ 64 - 1)) }

/-- A request of that strand, as a LAUNCH sends it. -/
def launchReq0 : LaunchReq := ⟨0, 9, .reg 2, 0x1000, 0x200, 0x100200, 0x200000, false, 0x400, 10, 1⟩

/-- A strand whose context grows, with SHARE 7, its home record at 0x10020. -/
def grower (a : W) : State :=
  let s := ofLaunch (coreN a 0 0 0) { launch0 with child := 2 }
  { s with
    ctxs := [(1, { ctx1 with rec_ := { launch0 with child := 2 }, share := 7 })]
    dies := [(0, { Die.reset with hrbase := 0x10000 })]
    mem := memWrite s.mem 0x10020 (natBytes 8 100) }

/-- A strand that may retire: the record of its successor at 0x800 (entry 0x6000, TOTAL 1, PARTW 0x0101, handler table at
0x1000, one level), its inheritance block at 0x200 of the scratchpad (n0 and n1). -/
def retirer (block : Nat) : State :=
  let s := ofLaunch (coreN 0x800 0x200 0 0) { launch0 with succ := true }
  { s with
    mem := memWrite s.mem 0x100800 (natBytes 8 0x6000 ++ natBytes 8 1 ++ natBytes 4 0x0101 ++ natBytes 4 (2 ^ 16) ++ natBytes 8 0x1000)
    pools := memWrite (memWrite [] 0x1200 (natBytes 8 block)) 0x1300 [5] }

/-- The record that the strand retires to. -/
def successor0 : Launch := { recordOfBytes (memRead (retirer 3).mem 0x100800 128) with image := List.replicate 64 HEntry.zero }

/-- A gang of the cores 0 and 1, with arrivals and harts whose episode is over. -/
def gang (a b c : W) (arrivals passed : List Nat) : State :=
  { coreN a b c 0 with ctxs := [(1, { ctx1 with rec_ := { launch0 with gang := true }, arrivals := arrivals, passed := passed })] }

/-- A subscription of core 1's region at 0x100 by core 0, as it is asked for. -/
def subReq0 : SubReq := ⟨0, 9, .reg 2, 1, 1, 1, 0x100, 32, 0, 0x200⟩

/-- The same subscription established: entry 0 and slot 0 of core 1, the next SEQ 1; an open batch of one byte. -/
def subbed (a : W) : State :=
  let s := gang a 0 0 [] []
  setCore (setCore s 1 { coreOf s 1 with
      pubs := [(0, ⟨1, 0x100, 32, [0], some (0x100, [(3, 0x77)], 0), []⟩)]
      subs := [(0, ⟨1, 1, 0, false, 0, 0x200, 1, []⟩)] })
    0 { coreOf s 0 with expect := [⟨1, 0, 1, []⟩] }

/-- The update of that batch. -/
def update0 : Update := ⟨1, 1, 0, 0, 0x200, 1, [(3, 0x77)], List.replicate 32 0⟩

/-- A strand with 32 lanes and VMAX 4: v0 holds 5, −1 (as FP32 a NaN) and 1.0 in lanes 0 to 2, v1 holds 3, 2^31 − 1 and 2.0;
mask m0 holds lanes 0 and 2. A modifier word as given. -/
def vecN (a b : W) (w : Option Modw) : State :=
  let s := coreN a b 0 0
  { s with cur := { s.cur with
      partw := 0x04000105, vlanes := 32, modw := w
      v := [(0, 5), (1, 0xFFFFFFFF), (2, 0x3F800000), (256, 3), (257, 0x7FFFFFFF), (258, 0x40000000)]
      m := (Vector.replicate 4 0).set 0 0b101 } }

/-- A modifier word that names mask m0, zeroing or not. -/
def masked (zm : BitVec 1) : Option Modw := some ⟨0, 1, 0, zm, 0, 0⟩

/-- A lane after a vector word and the arrival of its result. -/
def laneAfter (i : Instr) (s : State) (k : Nat) : Option (BitVec 32) :=
  (after i s fun t => match t.events.getLast? with
    | some (.laneResult r) => some (mapGet 0 (r.lanes.foldl setLane t.cur.v) k)
    | _ => none).join

/-- The scalar of a vector word. -/
def scalarAfter (i : Instr) (s : State) : Option W :=
  (after i s fun t => match t.events.getLast? with
    | some (.laneResult r) => r.scalar.map (·.val)
    | _ => none).join

/-- The mask registers after a vector word and the arrival of its result. -/
def maskAfter (i : Instr) (s : State) (d : Nat) : Option (BitVec 256) :=
  (after i s fun t => match t.events.getLast? with
    | some (.laneResult r) => some ((r.masks.foldl setMaskBit t.cur.m)[d]!)
    | _ => none).join

/-- A cluster where the L slot of core 1 waits for two units, with `free` units free. -/
def waiting (free : Nat) (resume : Bool) : State :=
  setCluster (vecN 0 0 none) 0 { Cluster.reset with freeUnits := free, vwait := [⟨1, 2, resume⟩] }

/-- Two lanes' words in memory and the scratchpad: at 0x100000 (memory) and 0x100 (local). -/
def vecMem (a b : W) : State :=
  let s := vecN a b none
  { s with
    cur := { s.cur with vlanes := 32, modw := masked 0, v := [(0, 0x11), (2, 0x33), (256, 8), (258, 0x10)] }
    pools := memWrite [] (5 * 4096 + 0x100) (natBytes 8 0xAAAAAAAABBBBBBBB ++ natBytes 4 0xCCCCCCCC) }

/-- A value after two steps. -/
def afterTwo {α : Type} (i j : Instr) (s : State) (f : State → α) : Option α := (after i s fun t => after j t f).join

/-- A strand that holds the lease, the operand slots 0 and 1 and its core's one FP32 tile, element 0 of which is 1.0; the edge
word leaves row 0 and column 0. Slot 0 begins 2.0, 3.0, slot 1 begins 5.0, 7.0 (FP32). -/
def tileN (a b : W) : State :=
  let s := coreN a b 0 0
  let s := { s with cur := { s.cur with partw := 0x00010101, lease := ⟨true, 64, 1024, 0⟩ } }
  let s := setCluster s 0 { Cluster.reset with
    holder := some 0, oslots := [(0, ⟨0, 1⟩), (1, ⟨0, 1⟩)],
    omem := memWrite (memWrite [] 0 (natBytes 4 0x40000000 ++ natBytes 4 0x40400000)) 2048 (natBytes 4 0x40A00000 ++ natBytes 4 0x40E00000) }
  setCore s 0 { coreOf s 0 with accown := 0x10001, tiles := [(0, 0x3F800000), (7, 9)], edges := [(0, 0x1F1F)] }

/-- A command of that strand in flight, and one that runs. -/
def mma0 : MmaCmd := ⟨0, 0, 0x31, 0, 0, 1, 0, 0, 0x1F1F, 5, [], [], 0⟩
def queuedMma (s : State) : State := setCluster s 0 { clusterAt s 0 with cmdQ := [mma0] }
def runningMma (pair : BitVec 6) (scale : W) (planes : Nat) (a b : List Byte) : State :=
  let s := tileN 0 1
  setCluster s 0 { clusterAt s 0 with running := some { mma0 with pair := pair, scale := scale, planes := planes, opA := a, opB := b } }

/-- A supervisor strand that takes the tiles over. -/
def tileS (a : W) : State := { tileN a 0 with cur := { (tileN a 0).cur with sup := true } }

/-- A module with launch queue 0 of die 0: its descriptor at 0x20000 (header 0x21000, mask 0x22000 of the cores 0 and 1,
completion word 0x23000, the root of `pagedN`, SHARE 1, enabled), its ring of 16 items at the virtual address 0x500 with one
item, `packet`; home records at 0x10000, the registry at 0x30000; at the virtual address 0x800 a launch record (entry 0x6000,
TOTAL 5, PARTW 0x0101, handler table at 0x1000, one level of two cores of one cluster, its other control bits as given). -/
def dispatchN (packet : Nat) (control : Nat) : State :=
  let s := coreN 0 0 0 0
  let m := memWrite s.mem 0x20000 (natBytes 8 0x21000 ++ natBytes 8 0x22000 ++ natBytes 8 0x23000 ++ natBytes 8 0x200000 ++ natBytes 8 (2 ^ 40 + 1))
  let m := memWrite m 0x21000 (natBytes 8 0x500 ++ natBytes 8 4 ++ natBytes 8 0 ++ natBytes 8 1 ++ natBytes 8 (2 ^ 64 - 1))
  let m := memWrite (memWrite m 0x22000 [3]) 0x100500 (natBytes 8 packet)
  let m := memWrite m 0x100800 (natBytes 8 0x6000 ++ natBytes 8 5 ++ natBytes 4 0x0101 ++ natBytes 4 (2 ^ 16 + control) ++ natBytes 8 0x1000)
  { s with
    mem := memWrite m 0x100840 (natBytes 4 0x20001)
    dies := [(0, { Die.reset with qtbase := 0x20000, hrbase := 0x10000, regbase := 0x30000, gangwait := 10 })]
    cores := []
    ctxs := [] }

/-- The launch of that record. -/
def launchN : Launch :=
  { recordOfBytes (memRead (dispatchN 0x800 0).mem 0x100800 128) with image := tableOfBytes (natBytes 1024 0), shapeImage := [] }

/-- The same with context 1 of that launch, whose groups are still to be placed. -/
def pendingN (r : Launch) : State :=
  let s := dispatchN 0x800 0
  { s with
    ctxs := [(1, { newCtx 0 0x200000 0x23000 0x800 r with members := [] })]
    queues := [(0, { LQueue.reset with pending := [⟨1, r, false, [(0, 5)], [], 0⟩] })] }

/-- A gang of one core that stays held, its context complete on core 0. -/
def launchH : Launch := { launchN with hold := true, gang := true, levels := [⟨1, 0, 1⟩] }
def heldN : State :=
  let s := pendingN launchH
  { s with
    clock := 20
    ctxs := [(1, { newCtx 0 0x200000 0x23000 0x800 launchH with members := [(0, 0)], complete := true })]
    mem := memWrite s.mem 0x22000 [0xFF, 1]
    cores := [(0, { Core.reset with placements := [place0] })]
    pools := memWrite [] 0x1105 [0x77] }

/-- Contexts 1, child-bearing, and 2, held and complete, beside the packets. -/
def kindsN : State :=
  let s := dispatchN 0x800 0
  { s with
    ctxs := [(1, newCtx 0 0x200000 0x23000 0x800 { launchN with child := 1 }),
      (2, { newCtx 0 0x200000 0x23000 0x800 { launchN with hold := true } with complete := true })]
    mem := memWrite s.mem 0x10020 (natBytes 8 9) }

/-- What the dispatcher reads of the packet. -/
def packetN : PacketRead := ⟨natBytes 8 0x6000 ++ natBytes 8 5 ++ natBytes 4 0x0101 ++ natBytes 4 (2 ^ 16) ++
  natBytes 8 0x1000 ++ natBytes 32 0 ++ natBytes 4 0x20001 ++ natBytes 60 0, natBytes 1024 0, []⟩

/-- A module with port 0 of carter 2304 (context 1, parameter block at 0x24000, mailbox and blocks as given), KICK `kick`,
JWEIGHT 7 in the blocks of the jobs 0 and 1. -/
def portN (kick : Nat) : State :=
  let s := dispatchN 0x800 0
  let m := memWrite s.mem 0x10020 (natBytes 8 100)
  let m := memWrite m 0x24000 (natBytes 8 kick)
  let m := memWrite (memWrite m 0x24040 (natBytes 4 7)) 0x24080 (natBytes 4 7)
  { s with
    ctxs := [(1, { ctx1 with compl := 0x23000 })]
    mem := m
    engines := [(2304, { Engine.reset with ports := [(0, ⟨0x24000, 0, 0x1000, true, 3, 1, 0⟩)] })] }

/-- The job of that port, and the carter running it: its parameter block at the virtual address 0x40 names the collective
record at 0x100, of one XA32 cell at 0x200 read out as FP32 to 0x300, with one port. -/
def job0 : Job := ⟨0, 0, 7, none⟩
def carterN : State :=
  let s := portN 1
  let m := memWrite s.mem 0x100048 (natBytes 8 0x100)
  let m := memWrite m 0x100100 (natBytes 8 0x200 ++ natBytes 8 (1 + 2 ^ 17) ++ natBytes 8 0x300 ++ natBytes 8 1)
  { s with
    mem := m
    cells := [(0x100200, .xa32)]
    engines := [(2304, { Engine.reset with ports := [(0, ⟨0x24000, 0, 0x1000, true, 3, 1, 1⟩)], running := some job0, root := ctxRoot s 1 })]
    harts := [(2304, { slot0 with wcur := 7 })] }

/-- A packet of context 1. -/
def packet0 : RemotePacket := ⟨0, 1, 0x1000000000000, [1]⟩

/-- Port 0 of a link with that packet. -/
def linkN : State := setLink (portN 0) 0 ⟨5, 3, false, true, false, [packet0]⟩

/-- Die 0's invalidation queue with the record at 0x25000: everything of context 1. -/
def invalidN : State :=
  let s := portN 0
  { s with
    mem := memWrite (memWrite s.mem 0x25010 (natBytes 8 1)) 0x26000 (natBytes 8 0x25000)
    cores := [(0, { Core.reset with tlb := [⟨1, 0, 65536, 0x100000, 0⟩, ⟨2, 0, 65536, 0x100000, 0⟩] })]
    module := { s.module with
      cfg := memWrite s.module.cfg 0x1001000 (natBytes 8 0x26000 ++ natBytes 8 4 ++ natBytes 8 0 ++ natBytes 8 1 ++ natBytes 8 (2 ^ 64 - 1)) } }

/-- A module in a stage; a module frozen with crashes before. -/
def inStageN (n : BitVec 8) : State := { st with module := { Module.reset with stage := n } }
def frozenN (hash : List Byte) : State := { st with module := { Module.reset with frozen := some 1, kernelHash := hash } }

/-! ### Decoding: words from the table of the opcode map (spec/03_opcode_map.md), each field at a value of its own -/

theorem test_decode_01_0 :
  decode 0x06CE2600 = .ok (.add ⟨5, 0x13, 0x11, 6⟩) ∧
  decode 0x06CE2601 = .ok (.sub ⟨5, 0x13, 0x11, 6⟩) ∧
  decode 0x06CE2602 = .ok (.mul ⟨5, 0x13, 0x11, 6⟩) ∧
  decode 0x06CE2603 = .ok (.mulh ⟨5, 0x13, 0x11, 6⟩) ∧
  decode 0x06CE2604 = .ok (.mulhu ⟨5, 0x13, 0x11, 6⟩) ∧
  decode 0x06CE2605 = .ok (.div ⟨5, 0x13, 0x11, 6⟩) ∧
  decode 0x06CE2606 = .ok (.divu ⟨5, 0x13, 0x11, 6⟩) ∧
  decode 0x06CE2607 = .ok (.rem ⟨5, 0x13, 0x11, 6⟩) ∧
  decode 0x06CE2608 = .ok (.remu ⟨5, 0x13, 0x11, 6⟩) ∧
  decode 0x06CE2610 = .ok (.and ⟨5, 0x13, 0x11, 6⟩) ∧
  decode 0x06CE2611 = .ok (.or ⟨5, 0x13, 0x11, 6⟩) ∧
  decode 0x06CE2612 = .ok (.xor ⟨5, 0x13, 0x11, 6⟩) ∧
  decode 0x06CE2613 = .ok (.andn ⟨5, 0x13, 0x11, 6⟩) ∧
  decode 0x06CE2614 = .ok (.orn ⟨5, 0x13, 0x11, 6⟩) := by decide

theorem test_decode_01_1 :
  decode 0x06CE2618 = .ok (.shl ⟨5, 0x13, 0x11, 6⟩) ∧
  decode 0x06CE2619 = .ok (.shr ⟨5, 0x13, 0x11, 6⟩) ∧
  decode 0x06CE261A = .ok (.sar ⟨5, 0x13, 0x11, 6⟩) ∧
  decode 0x06CE261B = .ok (.rot ⟨5, 0x13, 0x11, 6⟩) ∧
  decode 0x06CE2620 = .ok (.min ⟨5, 0x13, 0x11, 6⟩) ∧
  decode 0x06CE2621 = .ok (.max ⟨5, 0x13, 0x11, 6⟩) ∧
  decode 0x06CE2622 = .ok (.minu ⟨5, 0x13, 0x11, 6⟩) ∧
  decode 0x06CE2623 = .ok (.maxu ⟨5, 0x13, 0x11, 6⟩) ∧
  decode 0x06CE2024 = .ok (.abs ⟨5, 0x13, 0x11⟩) ∧
  decode 0x06CE2028 = .ok (.clz ⟨5, 0x13, 0x11⟩) ∧
  decode 0x06CE2029 = .ok (.ctz ⟨5, 0x13, 0x11⟩) ∧
  decode 0x06CE202A = .ok (.pop ⟨5, 0x13, 0x11⟩) ∧
  decode 0x06CE202B = .ok (.brev ⟨5, 0x13, 0x11⟩) := by decide

theorem test_decode_02 :
  decode 0x0ACE3A5B = .ok (.addi ⟨5, 0x13, 0x11, 0x1A5B⟩) := by decide

theorem test_decode_03 :
  decode 0x0ECE3A5B = .ok (.andi ⟨5, 0x13, 0x11, 0x1A5B⟩) := by decide

theorem test_decode_04 :
  decode 0x12CE3A5B = .ok (.ori ⟨5, 0x13, 0x11, 0x1A5B⟩) := by decide

theorem test_decode_05 :
  decode 0x16CE3A5B = .ok (.xori ⟨5, 0x13, 0x11, 0x1A5B⟩) := by decide

theorem test_decode_06 :
  decode 0x1ACE202A = .ok (.shli ⟨5, 0x13, 0x11, 0x2A⟩) := by decide

theorem test_decode_07 :
  decode 0x1ECE202A = .ok (.shri ⟨5, 0x13, 0x11, 0x2A⟩) := by decide

theorem test_decode_08 :
  decode 0x22CE202A = .ok (.sari ⟨5, 0x13, 0x11, 0x2A⟩) := by decide

theorem test_decode_09 :
  decode 0x26CE202A = .ok (.roti ⟨5, 0x13, 0x11, 0x2A⟩) := by decide

theorem test_decode_0A :
  decode 0x2ACE3155 = .ok (.lea ⟨5, 0x13, 0x11, 2, 0x155⟩) := by decide

theorem test_decode_0B :
  decode 0x2ECC1A5B = .ok (.lim ⟨5, 0x13, 0x1A5B⟩) := by decide

theorem test_decode_0C :
  decode 0x32CE26D0 = .ok (.sel ⟨5, 0x13, 0x11, 6, 0x1A⟩) ∧
  decode 0x32CE26D1 = .ok (.bext ⟨5, 0x13, 0x11, 6, 0x1A⟩) ∧
  decode 0x32CE26D2 = .ok (.bins ⟨5, 0x13, 0x11, 6, 0x1A⟩) := by decide

theorem test_decode_0D :
  decode 0x36CE2600 = .ok (.cmpeq ⟨5, 0x13, 0x11, 6⟩) ∧
  decode 0x36CE2601 = .ok (.cmpne ⟨5, 0x13, 0x11, 6⟩) ∧
  decode 0x36CE2602 = .ok (.cmplt ⟨5, 0x13, 0x11, 6⟩) ∧
  decode 0x36CE2603 = .ok (.cmpltu ⟨5, 0x13, 0x11, 6⟩) ∧
  decode 0x36CE2604 = .ok (.cmple ⟨5, 0x13, 0x11, 6⟩) ∧
  decode 0x36CE2605 = .ok (.cmpleu ⟨5, 0x13, 0x11, 6⟩) := by decide

theorem test_decode_0E :
  decode 0x3ACE2225 = .ok (.bexti ⟨5, 0x13, 0x11, 8, 0x25⟩) := by decide

theorem test_decode_0F :
  decode 0x3ECE3A5B = .ok (.cmplti ⟨5, 0x13, 0x11, 0x1A5B⟩) := by decide

theorem test_decode_10 :
  decode 0x428C4DA3 = .ok (.beq ⟨5, 1, 0x11, 6, 0x1A3⟩) ∧
  decode 0x429C4DA3 = .ok (.bne ⟨5, 1, 0x11, 6, 0x1A3⟩) ∧
  decode 0x42AC4DA3 = .ok (.blt ⟨5, 1, 0x11, 6, 0x1A3⟩) ∧
  decode 0x42BC4DA3 = .ok (.bge ⟨5, 1, 0x11, 6, 0x1A3⟩) ∧
  decode 0x42CC4DA3 = .ok (.bltu ⟨5, 1, 0x11, 6, 0x1A3⟩) ∧
  decode 0x42DC4DA3 = .ok (.bgeu ⟨5, 1, 0x11, 6, 0x1A3⟩) ∧
  decode 0x42FA5C3B = .ok (.b ⟨5, 0xA5C3B⟩) := by decide

theorem test_decode_11 :
  decode 0x46FA5C3B = .ok (.call ⟨5, 0xA5C3B⟩) := by decide

theorem test_decode_12 :
  decode 0x4A822000 = .ok (.jr ⟨5, 0x11⟩) ∧
  decode 0x4A800001 = .ok (.nop ⟨5⟩) ∧
  decode 0x4A800002 = .ok (.brk ⟨5⟩) ∧
  decode 0x4A82406B = .ok (.rep ⟨5, 0x12, 0x2B⟩) := by decide

theorem test_decode_13 :
  decode 0x4E800000 = .ok (.rgn ⟨5⟩) ∧
  decode 0x4ED41A5B = .ok (.rgnInc ⟨5, 0x15, 0x1A5B⟩) := by decide

theorem test_decode_14 :
  decode 0x52CE2640 = .ok (.fadd ⟨5, 0x13, 0x11, 6, 1⟩) ∧
  decode 0x52CE2641 = .ok (.fsub ⟨5, 0x13, 0x11, 6, 1⟩) ∧
  decode 0x52CE2642 = .ok (.fmul ⟨5, 0x13, 0x11, 6, 1⟩) ∧
  decode 0x52CE2643 = .ok (.fdiv ⟨5, 0x13, 0x11, 6, 1⟩) ∧
  decode 0x52CE2044 = .ok (.fsqrt ⟨5, 0x13, 0x11, 1⟩) ∧
  decode 0x52CE2645 = .ok (.fmin ⟨5, 0x13, 0x11, 6, 1⟩) ∧
  decode 0x52CE2646 = .ok (.fmax ⟨5, 0x13, 0x11, 6, 1⟩) ∧
  decode 0x52CE2647 = .ok (.fminn ⟨5, 0x13, 0x11, 6, 1⟩) ∧
  decode 0x52CE2648 = .ok (.fmaxn ⟨5, 0x13, 0x11, 6, 1⟩) ∧
  decode 0x52CE2049 = .ok (.fabs ⟨5, 0x13, 0x11, 1⟩) ∧
  decode 0x52CE204A = .ok (.fneg ⟨5, 0x13, 0x11, 1⟩) ∧
  decode 0x52CE264B = .ok (.fsgn ⟨5, 0x13, 0x11, 6, 1⟩) ∧
  decode 0x52CE204C = .ok (.frnd ⟨5, 0x13, 0x11, 1⟩) := by decide

theorem test_decode_15 :
  decode 0x56CE26D1 = .ok (.fma ⟨5, 0x13, 0x11, 6, 0x1A, 1⟩) ∧
  decode 0x56CE26D3 = .ok (.fms ⟨5, 0x13, 0x11, 6, 0x1A, 1⟩) ∧
  decode 0x56CE26D5 = .ok (.fnma ⟨5, 0x13, 0x11, 6, 0x1A, 1⟩) := by decide

theorem test_decode_16 :
  decode 0x5ACE200A = .ok (.fcvt ⟨5, 0x13, 0x11, 1, 2⟩) ∧
  decode 0x5ACE2055 = .ok (.fcvti ⟨5, 0x13, 0x11, 2, 5⟩) ∧
  decode 0x5ACE20B1 = .ok (.icvtf ⟨5, 0x13, 0x11, 6, 1⟩) := by decide

theorem test_decode_17 :
  decode 0x5ECE2640 = .ok (.fcmpeq ⟨5, 0x13, 0x11, 6, 1⟩) ∧
  decode 0x5ECE2641 = .ok (.fcmplt ⟨5, 0x13, 0x11, 6, 1⟩) ∧
  decode 0x5ECE2642 = .ok (.fcmple ⟨5, 0x13, 0x11, 6, 1⟩) ∧
  decode 0x5ECE2643 = .ok (.fcmpun ⟨5, 0x13, 0x11, 6, 1⟩) ∧
  decode 0x5ECE2044 = .ok (.fclass ⟨5, 0x13, 0x11, 1⟩) := by decide

theorem test_decode_18 :
  decode 0x62CE3155 = .ok (.ld ⟨5, 0x13, 0x11, 2, 0x155⟩) := by decide

theorem test_decode_19 :
  decode 0x66F63155 = .ok (.st ⟨5, 0x1D, 0x11, 2, 0x155⟩) := by decide

theorem test_decode_1A :
  decode 0x6ACE3355 = .ok (.ldAcq ⟨5, 0x13, 0x11, 2, 1, 0x155⟩) := by decide

theorem test_decode_1B :
  decode 0x6EF63355 = .ok (.stRel ⟨5, 0x1D, 0x11, 2, 1, 0x155⟩) := by decide

theorem test_decode_1C :
  decode 0x72CE2602 = .ok (.lds ⟨5, 0x13, 0x11, 6, 2⟩) ∧
  decode 0x72F62606 = .ok (.sts ⟨5, 0x1D, 0x11, 6, 2⟩) ∧
  decode 0x72CE260A = .ok (.ldk ⟨5, 0x13, 0x11, 6, 2⟩) := by decide

theorem test_decode_1D :
  decode 0x76822000 = .ok (.pref ⟨5, 0x11⟩) ∧
  decode 0x76822601 = .ok (.wb ⟨5, 0x11, 6⟩) ∧
  decode 0x76822602 = .ok (.inv ⟨5, 0x11, 6⟩) ∧
  decode 0x76D65708 = .ok (.bmove ⟨5, 0x15, 0x12, 0x17⟩) ∧
  decode 0x76D65E09 = .ok (.bfill ⟨5, 0x15, 0x12, 0x1E⟩) ∧
  decode 0x76822012 = .ok (.sbind ⟨5, 0x11, 2⟩) ∧
  decode 0x76800016 = .ok (.sclose ⟨5, 2⟩) ∧
  decode 0x76CC001A = .ok (.spos ⟨5, 0x13, 2⟩) := by decide

theorem test_decode_1E_0 :
  decode 0x7ACE2610 = .ok (.amoAdd ⟨5, 0x13, 0x11, 6, 1⟩) ∧
  decode 0x7ACE2611 = .ok (.amoAnd ⟨5, 0x13, 0x11, 6, 1⟩) ∧
  decode 0x7ACE2612 = .ok (.amoOr ⟨5, 0x13, 0x11, 6, 1⟩) ∧
  decode 0x7ACE2613 = .ok (.amoXor ⟨5, 0x13, 0x11, 6, 1⟩) ∧
  decode 0x7ACE2614 = .ok (.amoMin ⟨5, 0x13, 0x11, 6, 1⟩) ∧
  decode 0x7ACE2615 = .ok (.amoMax ⟨5, 0x13, 0x11, 6, 1⟩) ∧
  decode 0x7ACE2616 = .ok (.amoMinu ⟨5, 0x13, 0x11, 6, 1⟩) ∧
  decode 0x7ACE2617 = .ok (.amoMaxu ⟨5, 0x13, 0x11, 6, 1⟩) ∧
  decode 0x7ACE2618 = .ok (.amoSwap ⟨5, 0x13, 0x11, 6, 1⟩) ∧
  decode 0x7A822020 = .ok (.xinit32 ⟨5, 0x11⟩) ∧
  decode 0x7A822021 = .ok (.xinit64 ⟨5, 0x11⟩) ∧
  decode 0x7A82262D = .ok (.xadd ⟨5, 0x11, 6, 5⟩) ∧
  decode 0x7A822030 = .ok (.xclr ⟨5, 0x11⟩) ∧
  decode 0x7ACE2638 = .ok (.enq ⟨5, 0x13, 0x11, 6⟩) := by decide

theorem test_decode_1E_1 :
  decode 0x7ACE2039 = .ok (.deq ⟨5, 0x13, 0x11⟩) ∧
  decode 0x7ACE203A = .ok (.seqdeq ⟨5, 0x13, 0x11⟩) ∧
  decode 0x7A82263D = .ok (.waitv ⟨5, 0x11, 6, 1⟩) ∧
  decode 0x7ACE20D6 = .ok (.xread ⟨5, 0x13, 0x11, 5, 3⟩) := by decide

theorem test_decode_1F :
  decode 0x7ECE26D3 = .ok (.cas ⟨5, 0x13, 0x11, 6, 0x1A, 1⟩) ∧
  decode 0x7ECE26D4 = .ok (.seqenq ⟨5, 0x13, 0x11, 6, 0x1A⟩) := by decide

theorem test_decode_20 :
  decode 0x82822600 = .ok (.send ⟨5, 0x11, 6⟩) ∧
  decode 0x82822601 = .ok (.sendm ⟨5, 0x11, 6⟩) ∧
  decode 0x82822602 = .ok (.push ⟨5, 0x11, 6⟩) ∧
  decode 0x82822608 = .ok (.htset ⟨5, 0x11, 6⟩) ∧
  decode 0x82CE2009 = .ok (.htget ⟨5, 0x13, 0x11⟩) ∧
  decode 0x8282200A = .ok (.chmask ⟨5, 0x11⟩) ∧
  decode 0x8282200B = .ok (.chunmask ⟨5, 0x11⟩) := by decide

theorem test_decode_21 :
  decode 0x868226D0 = .ok (.sendw ⟨5, 0x11, 6, 0x1A⟩) ∧
  decode 0x86CE26D1 = .ok (.launch ⟨5, 0x13, 0x11, 6, 0x1A⟩) ∧
  decode 0x86CE20D2 = .ok (.nread ⟨5, 0x13, 0x11, 0x1A⟩) ∧
  decode 0x86CE26D3 = .ok (.subscribe ⟨5, 0x13, 0x11, 6, 0x1A⟩) := by decide

theorem test_decode_22 :
  decode 0x8A800000 = .ok (.suspend ⟨5⟩) ∧
  decode 0x8A800001 = .ok (.yield ⟨5⟩) ∧
  decode 0x8A800002 = .ok (.done ⟨5⟩) ∧
  decode 0x8A822003 = .ok (.wborrow ⟨5, 0x11⟩) ∧
  decode 0x8ACE2004 = .ok (.wquery ⟨5, 0x13, 0x11⟩) ∧
  decode 0x8A822005 = .ok (.qarm ⟨5, 0x11⟩) ∧
  decode 0x8ACE2006 = .ok (.grow ⟨5, 0x13, 0x11⟩) ∧
  decode 0x8A822612 = .ok (.retire ⟨5, 0x11, 6, 2⟩) := by decide

theorem test_decode_23 :
  decode 0x8ECE2000 = .ok (.coord ⟨5, 0x13, 0x11⟩) ∧
  decode 0x8ECE2001 = .ok (.slice ⟨5, 0x13, 0x11⟩) ∧
  decode 0x8ECE2002 = .ok (.geom ⟨5, 0x13, 0x11⟩) ∧
  decode 0x8E822608 = .ok (.tqinit ⟨5, 0x11, 6⟩) ∧
  decode 0x8ECE2009 = .ok (.fetcht ⟨5, 0x13, 0x11⟩) := by decide

theorem test_decode_24 :
  decode 0x92800000 = .ok (.gbar ⟨5⟩) ∧
  decode 0x92800001 = .ok (.gbarPub ⟨5⟩) ∧
  decode 0x92822008 = .ok (.unsub ⟨5, 0x11⟩) ∧
  decode 0x92800009 = .ok (.pubfence ⟨5⟩) := by decide

theorem test_decode_25 :
  decode 0x96800600 = .ok (.phase ⟨5, 6⟩) ∧
  decode 0x96800001 = .ok (.phend ⟨5⟩) ∧
  decode 0x96822602 = .ok (.spinw ⟨5, 0x11, 6⟩) := by decide

theorem test_decode_26 :
  decode 0x9ACC02A5 = .ok (.csrrd ⟨5, 0x13, 0x2A5⟩) ∧
  decode 0x9ACE2AA5 = .ok (.csrwr ⟨5, 0x13, 0x11, 0x2A5⟩) ∧
  decode 0x9ACE32A5 = .ok (.csrset ⟨5, 0x13, 0x11, 0x2A5⟩) ∧
  decode 0x9ACE3AA5 = .ok (.csrclr ⟨5, 0x13, 0x11, 0x2A5⟩) := by decide

theorem test_decode_27 :
  decode 0x9E822000 = .ok (.trap ⟨5, 0x11⟩) ∧
  decode 0x9E800001 = .ok (.tret ⟨5⟩) ∧
  decode 0x9E800002 = .ok (.wfi ⟨5⟩) ∧
  decode 0x9ECE2003 = .ok (.perf ⟨5, 0x13, 0x11⟩) ∧
  decode 0x9E800004 = .ok (.isync ⟨5⟩) ∧
  decode 0x9E822622 = .ok (.cpub ⟨5, 0x11, 6, 2⟩) ∧
  decode 0x9ECC00AB = .ok (.fence ⟨5, 0x13, 2, 0xB⟩) := by decide

theorem test_decode_28 :
  decode 0xA2CE2000 = .ok (.vclaim ⟨5, 0x13, 0x11⟩) ∧
  decode 0xA2800001 = .ok (.vrel ⟨5⟩) := by decide

theorem test_decode_29 :
  decode 0xA6A4CD00 = .ok (.vaddI32 ⟨5, 9, 6, 0xD⟩) ∧
  decode 0xA6A4CD01 = .ok (.vsubI32 ⟨5, 9, 6, 0xD⟩) ∧
  decode 0xA6A4CD02 = .ok (.vmulI32 ⟨5, 9, 6, 0xD⟩) ∧
  decode 0xA6A4CD03 = .ok (.vminI32 ⟨5, 9, 6, 0xD⟩) ∧
  decode 0xA6A4CD04 = .ok (.vmaxI32 ⟨5, 9, 6, 0xD⟩) ∧
  decode 0xA6A4CD05 = .ok (.vminUi32 ⟨5, 9, 6, 0xD⟩) ∧
  decode 0xA6A4CD06 = .ok (.vmaxUi32 ⟨5, 9, 6, 0xD⟩) ∧
  decode 0xA6A4CD08 = .ok (.vand ⟨5, 9, 6, 0xD⟩) ∧
  decode 0xA6A4CD09 = .ok (.vor ⟨5, 9, 6, 0xD⟩) ∧
  decode 0xA6A4CD0A = .ok (.vxor ⟨5, 9, 6, 0xD⟩) ∧
  decode 0xA6A4CD0C = .ok (.vshl ⟨5, 9, 6, 0xD⟩) ∧
  decode 0xA6A4CD0D = .ok (.vshr ⟨5, 9, 6, 0xD⟩) ∧
  decode 0xA6A4CD10 = .ok (.vsel ⟨5, 9, 6, 0xD⟩) := by decide

theorem test_decode_2A :
  decode 0xAAA4CD40 = .ok (.vaddF ⟨5, 9, 6, 0xD, 1⟩) ∧
  decode 0xAAA4CD41 = .ok (.vsubF ⟨5, 9, 6, 0xD, 1⟩) ∧
  decode 0xAAA4CD42 = .ok (.vmulF ⟨5, 9, 6, 0xD, 1⟩) ∧
  decode 0xAAA4CD43 = .ok (.vfma ⟨5, 9, 6, 0xD, 1⟩) ∧
  decode 0xAAA4CD44 = .ok (.vfmin ⟨5, 9, 6, 0xD, 1⟩) ∧
  decode 0xAAA4CD45 = .ok (.vfmax ⟨5, 9, 6, 0xD, 1⟩) ∧
  decode 0xAAA4C048 = .ok (.vrcp ⟨5, 9, 6⟩) ∧
  decode 0xAAA4C049 = .ok (.vrsqrt ⟨5, 9, 6⟩) ∧
  decode 0xAAA4C04A = .ok (.vexp2 ⟨5, 9, 6⟩) ∧
  decode 0xAAA4C04B = .ok (.vlog2 ⟨5, 9, 6⟩) := by decide

theorem test_decode_2B :
  decode 0xAE84CD24 = .ok (.vcmp ⟨5, 1, 6, 0xD, 2, 4⟩) ∧
  decode 0xAEA4C061 = .ok (.vcvt ⟨5, 9, 6, 4, 1⟩) := by decide

theorem test_decode_2C :
  decode 0xB2A62600 = .ok (.vld ⟨5, 9, 0x11, 6⟩) ∧
  decode 0xB2A62601 = .ok (.vst ⟨5, 9, 0x11, 6⟩) ∧
  decode 0xB2A62602 = .ok (.vlds ⟨5, 9, 0x11, 6⟩) ∧
  decode 0xB2A62603 = .ok (.vsts ⟨5, 9, 0x11, 6⟩) ∧
  decode 0xB2A62D04 = .ok (.vgath ⟨5, 9, 0x11, 0xD⟩) ∧
  decode 0xB2A62D05 = .ok (.vscat ⟨5, 9, 0x11, 0xD⟩) := by decide

theorem test_decode_2D :
  decode 0xB6A62000 = .ok (.vbcast ⟨5, 9, 0x11⟩) ∧
  decode 0xB6A4CD01 = .ok (.vperm ⟨5, 9, 6, 0xD⟩) ∧
  decode 0xB6A4C602 = .ok (.vlsh ⟨5, 9, 6, 6⟩) := by decide

theorem test_decode_2E :
  decode 0xBACCC080 = .ok (.vredAdd ⟨5, 0x13, 6, 2⟩) ∧
  decode 0xBACCC081 = .ok (.vredMin ⟨5, 0x13, 6, 2⟩) ∧
  decode 0xBACCC082 = .ok (.vredMax ⟨5, 0x13, 6, 2⟩) := by decide

theorem test_decode_2F :
  decode 0xBE846200 = .ok (.mand ⟨5, 1, 3, 2⟩) ∧
  decode 0xBE846201 = .ok (.mor ⟨5, 1, 3, 2⟩) ∧
  decode 0xBE846002 = .ok (.mnot ⟨5, 1, 3⟩) ∧
  decode 0xBECC6003 = .ok (.mpop ⟨5, 0x13, 3⟩) ∧
  decode 0xBECC6004 = .ok (.mfirst ⟨5, 0x13, 3⟩) := by decide

theorem test_decode_30 :
  decode 0xC2962600 = .ok (.mmaDD ⟨5, 5, 0x11, 6⟩) := by decide

theorem test_decode_31 :
  decode 0xC6962600 = .ok (.mmaSS ⟨5, 5, 0x11, 6⟩) := by decide

theorem test_decode_32 :
  decode 0xCA962600 = .ok (.mmaBB ⟨5, 5, 0x11, 6⟩) := by decide

theorem test_decode_33 :
  decode 0xCE962600 = .ok (.mmaHH ⟨5, 5, 0x11, 6⟩) := by decide

theorem test_decode_34 :
  decode 0xD2962600 = .ok (.mmaBH ⟨5, 5, 0x11, 6⟩) := by decide

theorem test_decode_35 :
  decode 0xD6962600 = .ok (.mmaHB ⟨5, 5, 0x11, 6⟩) := by decide

theorem test_decode_36 :
  decode 0xDA9626D5 = .ok (.mmaNN ⟨5, 5, 0x11, 6, 0x1A, 5⟩) := by decide

theorem test_decode_37 :
  decode 0xDE9626D5 = .ok (.mmaNB ⟨5, 5, 0x11, 6, 0x1A, 5⟩) := by decide

theorem test_decode_38 :
  decode 0xE29626D5 = .ok (.mmaBN ⟨5, 5, 0x11, 6, 0x1A, 5⟩) ∧
  decode 0xE2800007 = .ok (.mlease ⟨5⟩) ∧
  decode 0xE280000F = .ok (.mrel ⟨5⟩) ∧
  decode 0xE2CC0017 = .ok (.oclaim ⟨5, 0x13⟩) ∧
  decode 0xE282201F = .ok (.orel ⟨5, 0x11⟩) ∧
  decode 0xE2822627 = .ok (.old ⟨5, 0x11, 6⟩) ∧
  decode 0xE294002F = .ok (.azero ⟨5, 5⟩) ∧
  decode 0xE2CCC637 = .ok (.aread ⟨5, 0x13, 6, 6⟩) ∧
  decode 0xE296263F = .ok (.awrite ⟨5, 5, 0x11, 6⟩) ∧
  decode 0xE2B62647 = .ok (.ast ⟨5, 1, 5, 0x11, 6⟩) ∧
  decode 0xE296264F = .ok (.ald ⟨5, 5, 0x11, 6⟩) ∧
  decode 0xE2800057 = .ok (.mwait ⟨5⟩) ∧
  decode 0xE282205F = .ok (.medge ⟨5, 0x11⟩) ∧
  decode 0xE2CE2067 = .ok (.accown ⟨5, 0x13, 0x11⟩) := by decide

theorem test_decode_3D :
  decode 0xF6A5C3B1 = .ok (.hint ⟨0x2A5C3B1⟩) := by decide

theorem test_decode_3E :
  decode 0xFB2EB800 = .ok (.modifier ⟨1, 4, 5, 1, 0x15, 6⟩) := by decide

/-! ### Ill-formed terms, one for each check of WellFormed (R45, R69) -/

theorem test_wf_source_31 : Instr.wf (.add ⟨0, 16, 31, 0⟩) = false := by decide
theorem test_wf_destination_5 : Instr.wf (.add ⟨0, 5, 16, 17⟩) = false := by decide
theorem test_wf_destination_28 : Instr.wf (.add ⟨0, 28, 16, 17⟩) = false := by decide
theorem test_wf_rep_count_24 : Instr.wf (.rep ⟨0, 24, 3⟩) = false := by decide
theorem test_wf_rgn_inc_15 : Instr.wf (.rgnInc ⟨0, 15, 3⟩) = false := by decide
theorem test_wf_bfill_pattern_27 : Instr.wf (.bfill ⟨0, 16, 17, 27⟩) = false := by decide
theorem test_wf_vector_register_16 : Instr.wf (.vand ⟨0, 16, 0, 1⟩) = false := by decide
theorem test_wf_mask_4 : Instr.wf (.mand ⟨0, 4, 0, 1⟩) = false := by decide
theorem test_wf_tile_8 : Instr.wf (.mmaSS ⟨0, 8, 16, 17⟩) = false := by decide
theorem test_wf_shift_64 : Instr.wf (.shli ⟨0, 16, 17, 64⟩) = false := by decide
theorem test_wf_field_past_63 : Instr.wf (.bexti ⟨0, 16, 17, 8, 57⟩) = false ∧ Instr.wf (.bexti ⟨0, 16, 17, 0, 5⟩) = false := by
  decide
theorem test_wf_conversion_kinds : Instr.wf (.fcvt ⟨0, 16, 17, 4, 1⟩) = false ∧ Instr.wf (.fcvt ⟨0, 16, 17, 1, 1⟩) = false ∧
    Instr.wf (.fcvti ⟨0, 16, 17, 1, 2⟩) = false ∧ Instr.wf (.icvtf ⟨0, 16, 17, 1, 2⟩) = false := by decide
theorem test_wf_vcvt_kinds : Instr.wf (.vcvt ⟨0, 1, 2, 6, 0⟩) = false ∧ Instr.wf (.vcvt ⟨0, 1, 2, 4, 5⟩) = false ∧
    Instr.wf (.vcvt ⟨0, 1, 2, 1, 1⟩) = false := by decide
theorem test_wf_vcmp_condition : Instr.wf (.vcmp ⟨0, 1, 2, 3, 0, 4⟩) = false ∧ Instr.wf (.vcmp ⟨0, 1, 2, 3, 2, 5⟩) = false := by
  decide
theorem test_wf_xadd_format_6 : Instr.wf (.xadd ⟨0, 16, 17, 6⟩) = false := by decide
theorem test_wf_xread_mode_5 : Instr.wf (.xread ⟨0, 16, 17, 0, 5⟩) = false ∧ Instr.wf (.xread ⟨0, 16, 17, 6, 0⟩) = false := by decide
theorem test_wf_cpub_scope_5 : Instr.wf (.cpub ⟨0, 16, 17, 5⟩) = false := by decide
theorem test_wf_fence_kinds_0 : Instr.wf (.fence ⟨0, 0, 3, 0⟩) = false ∧ Instr.wf (.fence ⟨0, 0, 5, 1⟩) = false := by decide
theorem test_wf_reduction_format_3 : Instr.wf (.vredAdd ⟨0, 16, 1, 3⟩) = false := by decide
theorem test_wf_mma_planes_9 : Instr.wf (.mmaNN ⟨0, 1, 16, 17, 18, 7⟩) = false := by decide
theorem test_wf_modifier : Instr.wf (.modifier ⟨0, 0, 7, 0, 0, 0⟩) = false ∧ Instr.wf (.modifier ⟨0, 5, 0, 0, 0, 0⟩) = false ∧
    Instr.wf (.modifier ⟨1, 0, 0, 0, 0, 0⟩) = false ∧ Instr.wf (.modifier ⟨0, 0, 0, 0, 0, 3⟩) = false := by decide

/-! ### Words that are no instruction (R47, R69) -/

theorem test_refuse_major_0 : decode 0x00000000 = .error .illegalMajor ∧ decode 0xE8000000 = .error .illegalMajor := by decide
theorem test_refuse_reserved_function : decode 0x04000009 = .error .reservedFunction ∧
    decode 0x40600000 = .error .reservedFunction := by decide
theorem test_refuse_unused_field : decode 0x48000101 = .error .unusedFieldNonzero ∧
    decode 0x06CE2124 = .error .unusedFieldNonzero := by decide
theorem test_refuse_illegal_field : decode 0x0403FF00 = .error .illegalField ∧ decode 0x4C000001 = .error .illegalField := by decide

/-! ### Operands (R16, R45, R53) -/

/-- A port bound for reading two signed bytes from 0x11FFC0001000, where 0x80 and 0x05 stand. -/
def withPort (write : Bool) (pos : BitVec 32) : State :=
  { sup0 with
    cur := { slot0 with
      sup := true, str := Vector.replicate 4 ⟨true, 0x11FFC0001000, 1, 2, pos, write, true, 0⟩ }
    mem := [(0x11FFC0001000, 0x80), (0x11FFC0001001, 0x05)] }

theorem test_meets_SourceFieldsAndStreamPorts :
    (qEntry st.cur 15).tag = 0 ∧ (nEntry st.cur 7).tag = 0 ∧ st.cur.hint = none ∧
    (qEntry ({ slot0 with q := Vector.replicate 16 ⟨0, 9, 0⟩ }) 15).tag ≠ 0 ∧
    (nEntry ({ slot0 with n := Vector.replicate 8 ⟨0, 9, 0⟩ }) 7).tag ≠ 0 ∧
    ran (loadVa 0 1 1 0x11FFC0001001) (withPort false 1) = true ∧ (portOf (withPort false 1).cur 3).pos < 2 ∧
    ran (storeVa 1 1 0x11FFC0001001 [7]) (withPort true 1) = true ∧ (portOf (withPort true 1).cur 3).write = true ∧
    (portOf st.cur 0).bound = false ∧ ¬ (portOf (withPort true 2).cur 0).pos < 2 ∧ ¬ (portOf (withPort false 2).cur 0).pos < 2 := by
  decide
theorem test_port_pops_signed_byte : (match readSel 24 (withPort false 0) with
    | .ok (v, t) => v == 0xFFFFFFFFFFFFFF80 && (portOf t.cur 0).pos == 1
    | .error _ => false) = true := by decide
theorem test_meets_ResultsReachTheirDestination :
    st.cur.rep = none ∧ (nEntry st.cur 7).tag = 0 ∧ inRep.cur.rep ≠ none ∧ st.tags ≠ 0 ∧
    (nEntry ({ slot0 with n := Vector.replicate 8 ⟨0, 9, 0⟩ }) 0).tag ≠ 0 ∧ ran (appendPort 3 7) (withPort true 0) = true ∧
    (∀ j, j < 16 → (qEntry st.cur j).tag ≠ st.tags) ∧ (∀ j, j < 8 → (nEntry st.cur j).tag ≠ st.tags) := by decide
theorem test_meets_ResultsReachTheirDestination_appends : (∀ l ∈ st.cur.late, l.reg ≠ 0) ∧ appendAfter st 0 3 0 = false ∧
    appendAfter (appendN 0 0 0 0) 0 3 0 = true ∧ appendAfter (appendN 0 0 0 0) 0 3 8 = true ∧ appendAfter (appendN 0 0 0 0) 0 3 9 = false ∧
    ran (checkAccess 1 1 1 .write true 0x11FFC0001000) (withPort true 0) = true ∧
    ran (settleBytes (.mem 0x11FFC0001000) 1) (withPort true 0) = true ∧ (slotOf st 0).openTag ≤ 9 ∧
    (Vector.replicate 8 (some ⟨0, 9, 0⟩ : Option Entry))[0]? = some (some ⟨0, 9, 0⟩) := by decide
/-- A result of latency 5 to n0 is taken back by a rollback at cycle 4, and stays at cycle 5 (R131). -/
theorem test_late_write_taken_back : (match produce 16 9 5 st with
    | .ok (_, t) => (nEntry t.cur 0).val == 9 && (nEntry (rolledBack [] 4 t.cur) 0).val == 7 && (nEntry (rolledBack [] 5 t.cur) 0).val == 9
    | .error _ => false) = true := by decide +kernel
/-- An append behind a divide's waits when it would come first, and is held to its own cycle when not (R55). -/
theorem test_appends_in_order : (match produce 27 9 1 (appendN 0 0 0 0) with
    | .error (.wait _) => true
    | _ => false) = true ∧
    (match produce 24 9 5 (withPort true 0) with
    | .ok (_, t) => t.events.getLast? == some (.loadResponse ⟨0, 1, .stream 0 (.mem 0x11FFC0001000) 1 true, 9, 5⟩)
    | .error _ => false) = true := by decide

/-! ### Integer, bit and address instructions (chapter 04) -/

/-- Two sources of named registers can be read and a result produced. -/
theorem test_meets_two_sources : Reads st 16 7 st ∧ Reads st 17 (-3) st ∧ ∃ t, Produces st 18 4 1 t :=
  ⟨rfl, rfl, _, rfl⟩
theorem test_meets_IntegerTwoSourceResults : ∃ t, Produces st 18 4 3 t := ⟨_, rfl⟩
theorem test_integer_results :
    q1After (.add ⟨0, 0, 16, 17⟩) st = some 4 ∧ q1After (.sub ⟨0, 0, 16, 17⟩) st = some 10 ∧
    q1After (.mul ⟨0, 0, 16, 17⟩) st = some (-21) ∧ q1After (.mulh ⟨0, 0, 18, 19⟩) st = some 0 ∧
    q1After (.mulhu ⟨0, 0, 18, 19⟩) st = some 0x7FFFFFFFFFFFFFFF ∧ q1After (.andn ⟨0, 0, 16, 17⟩) st = some 2 ∧
    q1After (.orn ⟨0, 0, 16, 17⟩) st = some 7 ∧ q1After (.min ⟨0, 0, 16, 17⟩) st = some (-3) ∧
    q1After (.minu ⟨0, 0, 16, 17⟩) st = some 7 ∧ q1After (.abs ⟨0, 0, 18⟩) st = some 0x8000000000000000 ∧
    q1After (.cmplt ⟨0, 0, 17, 16⟩) st = some 1 ∧ q1After (.cmpltu ⟨0, 0, 17, 16⟩) st = some 0 := by decide
theorem test_integer_results_more :
    q1After (.and ⟨0, 0, 16, 17⟩) st = some 5 ∧ q1After (.or ⟨0, 0, 16, 17⟩) st = some (-1) ∧
    q1After (.xor ⟨0, 0, 16, 17⟩) st = some (-6) ∧ q1After (.max ⟨0, 0, 16, 17⟩) st = some 7 ∧
    q1After (.maxu ⟨0, 0, 16, 17⟩) st = some (-3) ∧ q1After (.cmpeq ⟨0, 0, 16, 16⟩) st = some 1 ∧
    q1After (.cmpne ⟨0, 0, 16, 16⟩) st = some 0 ∧ q1After (.cmple ⟨0, 0, 17, 16⟩) st = some 1 ∧
    q1After (.cmpleu ⟨0, 0, 17, 16⟩) st = some 0 := by decide
theorem test_meets_ShiftsAndRotates : Reads (withN 0x81 64 0 0) 16 0x81 (withN 0x81 64 0 0) ∧
    (∃ t, Produces (withN 0x81 64 0 0) 0 0 1 t) ∧ (-1 : W).toInt < 0 ∧ (-1 : W) = 0 - BitVec.ofNat 64 1 :=
  ⟨rfl, ⟨_, rfl⟩, by decide, by decide⟩
theorem test_shifts :
    q1After (.shl ⟨0, 0, 16, 17⟩) (withN 0x81 63 0 0) = some 0x8000000000000000 ∧ q1After (.shl ⟨0, 0, 16, 17⟩) (withN 0x81 64 0 0) = some 0 ∧
    q1After (.shr ⟨0, 0, 16, 17⟩) (withN 0x81 7 0 0) = some 1 ∧ q1After (.shr ⟨0, 0, 16, 17⟩) (withN (-1) (-1) 0 0) = some 0 ∧
    q1After (.sar ⟨0, 0, 16, 17⟩) (withN (-8) 64 0 0) = some (-1) ∧ q1After (.sar ⟨0, 0, 16, 17⟩) (withN (-8) 1 0 0) = some (-4) ∧
    q1After (.rot ⟨0, 0, 16, 17⟩) (withN 0x81 (-1) 0 0) = some 0x8000000000000040 ∧
    q1After (.rot ⟨0, 0, 16, 17⟩) (withN 0x81 65 0 0) = some 0x102 := by decide
theorem test_meets_CountsAndReversal : Reads (withN 0 0 0 0) 16 0 (withN 0 0 0 0) ∧ ∃ t, Produces (withN 0 0 0 0) 0 64 1 t :=
  ⟨rfl, _, rfl⟩
theorem test_counts :
    q1After (.clz ⟨0, 0, 16⟩) (withN 0 0 0 0) = some 64 ∧ q1After (.clz ⟨0, 0, 16⟩) (withN 1 0 0 0) = some 63 ∧
    q1After (.ctz ⟨0, 0, 16⟩) (withN 0 0 0 0) = some 64 ∧ q1After (.ctz ⟨0, 0, 16⟩) (withN 8 0 0 0) = some 3 ∧
    q1After (.pop ⟨0, 0, 16⟩) (withN (-1) 0 0 0) = some 64 ∧ q1After (.brev ⟨0, 0, 16⟩) (withN 2 0 0 0) = some 0x4000000000000000 := by
  decide
theorem test_meets_ImmediateForms : ((63 : BitVec 13).signExtend 64).toNat < 64 ∧ 64 ≤ ((64 : BitVec 13).signExtend 64).toNat ∧
    64 ≤ ((0x1FFF : BitVec 13).signExtend 64).toNat ∧ st.cur.launches = 0 ∧ Instr.wf (.bexti ⟨0, 0, 16, 64, 0⟩) = true ∧
    (∃ t, Produces st 0 7 2 t) := ⟨by decide, by decide, by decide, rfl, by decide, _, rfl⟩
theorem test_immediates :
    q1After (.addi ⟨0, 0, 16, 0x1FFD⟩) st = some 4 ∧ q1After (.andi ⟨0, 0, 17, 0x000F⟩) st = some 13 ∧
    q1After (.ori ⟨0, 0, 16, 0x0008⟩) st = some 15 ∧ q1After (.xori ⟨0, 0, 16, 0x1FFF⟩) st = some (-8) ∧
    q1After (.shli ⟨0, 0, 16, 63⟩) st = some 0x8000000000000000 ∧ q1After (.shri ⟨0, 0, 18, 63⟩) st = some 1 ∧
    q1After (.sari ⟨0, 0, 18, 63⟩) st = some (-1) ∧ q1After (.roti ⟨0, 0, 16, 62⟩) st = some 0xC000000000000001 ∧
    q1After (.cmplti ⟨0, 0, 17, 0x1FFE⟩) st = some 1 ∧ q1After (.lim ⟨0, 0, 0x1000⟩) st = some (-4096) ∧
    q1After (.lea ⟨0, 0, 16, 3, 0x1FF⟩) st = some (-1) ∧ q1After (.bexti ⟨0, 0, 17, 8, 4⟩) st = some 0xFF := by decide
/-- A hint word's payload stands above the field (R48). -/
theorem test_immediate_with_hint : q1After (.lim ⟨0, 0, 5⟩) { st with cur := { slot0 with hint := some 1 } } = some 0x2005 := by
  decide
theorem test_meets_SelectReadsAllAndChooses : Reads st 18 0x8000000000000000 st ∧ (7 : W) ≠ 0 ∧
    ∃ t, Produces st 20 7 1 t := ⟨rfl, by decide, _, rfl⟩
theorem test_select : q1After (.sel ⟨0, 0, 16, 17, 18⟩) st = some (-3) ∧
    q1After (.sel ⟨0, 0, 28, 17, 18⟩) st = some 0x8000000000000000 := by decide
theorem test_meets_BitFieldsAndDivides : st.events = [] ∧ (∃ tag dest t, Gives (reserveBy 68 18) st (tag, dest) t) ∧
    (∃ r ∈ (emit st (.divideComplete ⟨0, 1, .none, 5, 9⟩)).events, r = .divideComplete ⟨0, 1, .none, 5, 9⟩) :=
  ⟨rfl, ⟨_, _, _, rfl⟩, by decide⟩
/-- BINS: len 8 at pos 60 inserts the four bits that fit. -/
theorem test_bit_fields : q1After (.bext ⟨0, 0, 16, 17, 18⟩) (withN 0xABCD 4 8 0) = some 0xBC ∧
    q1After (.bins ⟨0, 0, 16, 17, 18⟩) (withN 0 0xFF (8 * 64 + 60) 0) = some 0xF000000000000000 := by decide
theorem test_divides :
    brings (.div ⟨0, 0, 17, 16⟩) st .none 0 = true ∧
    brings (.divu ⟨0, 0, 16, 28⟩) st .none (-1) = true ∧
    brings (.rem ⟨0, 0, 17, 16⟩) st .none (-3) = true ∧
    brings (.remu ⟨0, 0, 16, 28⟩) st .none 7 = true ∧
    brings (.div ⟨0, 0, 18, 19⟩) st .none 0x8000000000000000 = true := by decide
theorem test_meets_IntegerWordsChangeTheirSlotOnly : Instr.wf (.add ⟨0, 18, 16, 17⟩) = true ∧
    Instr.wf (.shli ⟨0, 18, 16, 63⟩) = true ∧ (after (.add ⟨0, 18, 16, 17⟩) st (fun _ => ())).isSome = true ∧
    (after (.div ⟨0, 18, 16, 17⟩) st (fun _ => ())).isSome = true ∧
    (after (.shli ⟨0, 18, 16, 63⟩) st (fun _ => ())).isSome = true := by decide
theorem test_illegal_shift_traps : after (.shli ⟨0, 18, 16, 64⟩) st (fun t => (t.cur.tcause, t.cur.sup)) = some (1, true) := by
  decide

/-! ### Control flow and regions (chapter 05) -/

theorem test_meets_BranchesGoToTheirTarget : st.cur.rep = none ∧ inRep.cur.rep ≠ none ∧ inRep.cur.launches = 0 ∧
    (0x2000 : W).toNat % 4 = 0 ∧ (0xFFFFFFFFFFFFFC : W).toNat < 2 ^ 56 ∧ (7 : W).toNat % 4 ≠ 0 ∧
    2 ^ 56 ≤ (0x100000000000000 : W).toNat ∧ (∃ t, Produces st 23 0x100C 1 t) :=
  ⟨rfl, by decide, rfl, by decide, by decide, by decide, by decide, _, rfl⟩
/-- The branch of R443's program: BLT.N with DISP9 = 5 goes to its word plus 20, and nullifies when it is not taken. -/
theorem test_branches :
    after (.blt ⟨0, 1, 17, 16, 5⟩) st (fun t => (t.cur.pc, t.cur.npc, t.cur.nnpc, t.cur.nullify)) = some (0x1004, 0x1008, 0x1014, 0) ∧
    after (.blt ⟨0, 1, 16, 17, 5⟩) st (fun t => (t.cur.pc, t.cur.npc, t.cur.nnpc, t.cur.nullify)) = some (0x1004, 0x1008, 0x100C, 2) ∧
    after (.beq ⟨0, 0, 16, 16, 0x1FF⟩) st (fun t => t.cur.nnpc) = some 0xFFC ∧
    after (.bne ⟨0, 0, 16, 16, 0x1FF⟩) st (fun t => t.cur.nnpc) = some 0x100C ∧
    after (.bge ⟨0, 0, 16, 17, 2⟩) st (fun t => t.cur.nnpc) = some 0x1008 ∧
    after (.bltu ⟨0, 0, 17, 16, 2⟩) st (fun t => t.cur.nnpc) = some 0x100C ∧
    after (.bgeu ⟨0, 0, 17, 16, 2⟩) st (fun t => t.cur.nnpc) = some 0x1008 := by decide
theorem test_jumps :
    after (.b ⟨0, 0x10⟩) st (fun t => t.cur.nnpc) = some 0x1040 ∧
    after (.call ⟨0, 0x10⟩) st (fun t => ((nEntry t.cur 7).val, t.cur.nnpc)) = some (0x100C, 0x1040) ∧
    after (.jr ⟨0, 16⟩) (withN 0x2000 0 0 0) (fun t => t.cur.nnpc) = some 0x2000 ∧
    after (.jr ⟨0, 16⟩) st (fun t => (t.cur.tcause, t.cur.tinfo)) = some (3, 7) := by decide
theorem test_meets_RgnIncCommitsItsAddition : InOpen st ∧ (nEntry st.cur 4).tag = 0 ∧ inDelaySlot inSlot.cur = true ∧
    inSlot.cur.launches = 0 ∧ (0 : BitVec 5) = 0 ∧ (1 : BitVec 13) ≠ 0 ∧ ¬ (16 ≤ (24 : BitVec 5).toNat ∧ (24 : BitVec 5).toNat < 24) := by
  refine ⟨⟨rfl, rfl⟩, ?_⟩; decide
theorem test_rgn_inc : after (.rgnInc ⟨0, 17, 1⟩) st (fun t => ((nEntry t.cur 1).val, t.cur.rstart, (qEntry t.cur 0).val)) =
    some (-2, 0x1004, 0) ∧ after (.rgnInc ⟨0, 17, 1⟩) inSlot (fun t => t.cur.tcause) = some 2 := by decide
theorem test_meets_RegionAndPrefixWords : InOpen st ∧ inRep.cur.rep ≠ none ∧ inDelaySlot inSlot.cur = true :=
  ⟨⟨rfl, rfl⟩, by decide, by decide⟩
theorem test_region_words :
    after (.rgn ⟨0⟩) st (fun t => (t.cur.rstart, t.cur.pc, t.cur.retired)) = some (0x1004, 0x1004, 1) ∧
    after (.rgn ⟨0⟩) inRep (fun t => t.cur.tcause) = some 2 ∧
    after (.nop ⟨0⟩) st (fun t => (t.cur.pc, t.cur.rstart)) = some (0x1004, 0x1000) ∧
    after (.isync ⟨0⟩) st (fun t => (t.cur.pc, t.cur.rstart)) = some (0x1004, 0x1000) ∧
    after (.hint ⟨5⟩) st (fun t => (t.cur.hint, t.cur.pc, t.cur.retired)) = some (some 5, 0x1004, 0) ∧
    after (.modifier ⟨0, 0, 1, 0, 0, 0⟩) st (fun t => t.cur.modw) = some (some ⟨0, 0, 1, 0, 0, 0⟩) := by decide
theorem test_meets_RepRunsItsBodyTheCountedTimes : InOpen st ∧ (nEntry st.cur 4).tag = 0 ∧ (nEntry st.cur 4).val = 0 ∧
    (nEntry st.cur 0).val ≠ 0 ∧ inRep.cur.rep ≠ none ∧ inDelaySlot inSlot.cur = true ∧ inRep.events = [] ∧
    inputDue inRep = none ∧ (0x1004 : Addr) = 0x1000 + 4 * BitVec.ofNat 56 1 := by
  refine ⟨⟨rfl, rfl⟩, ?_⟩; decide
theorem test_rep : after (.rep ⟨0, 20, 2⟩) st (fun t => (t.cur.pc, t.cur.rstart, t.cur.rep.isSome)) = some (0x1010, 0x1010, false) ∧
    after (.rep ⟨0, 16, 2⟩) st (fun t => (t.cur.pc, t.cur.rstart, t.cur.rep.isSome)) = some (0x1004, 0x1000, true) := by decide
/-- At the end of the body with a count of 1 left the slot goes on past it. -/
theorem test_rep_ends :
    (let t := repIteration { st with cur := { slot0 with
      pc := 0x1004, rep := some ⟨0xFFC, 0x1000, 1, 4, Vector.replicate 8 none⟩, n := slot0.n.set 4 ⟨1, 0, 0⟩ } }
    (t.cur.rep, t.cur.pc, t.cur.rstart, (nEntry t.cur 4).val)) = (none, 0x1004, 0x1004, 0) := by decide +kernel

/-! ### Steps, special registers and exceptions (chapters 01, 05, 19) -/

theorem test_meets_AStepRunsTheDecodedWord :
    (let s := State.reset.withFetchWord 32 0x054A1100
     s.cur.hint = none ∧ s.cur.modw = none ∧ s.events = [] ∧ inputDue s = none ∧ atBodyEnd s.cur = false ∧ dueEvent s = none ∧
     (pickHart s).isSome = true ∧ s.cur.nullify = 0 ∧ answers (step s) = true) ∧
    ({ slot0 with nullify := 2 }).nullify ≠ 0 ∧ (emit st (.wfiWake 0)).events = [.wfiWake 0] := by decide
/-- The word of the spec's example runs as the first word of a strand (R41). -/
theorem test_first_step : (match step (State.reset.withFetchWord 32 0x054A1100) with
    | .next t => t.cur.retired == 1 && t.tick == 1
    | _ => false) = true := by decide

theorem test_meets_SpecialRegistersRead : (∃ t, Produces st 0 5 2 t) ∧ st.cur.launches = 0 ∧
    (0x007 : BitVec 11) ∉ [0x000, 0x001, 0x002, 0x003, 0x004, 0x005, 0x006, (0x008 : BitVec 11)] := ⟨⟨_, rfl⟩, rfl, by decide⟩
theorem test_csr_reads :
    q1After (.csrrd ⟨0, 0, 0x000⟩) { st with cur := { slot0 with sup := true, fpte := 0x11, rmode := 3 } } = some 0xA2C0 ∧
    q1After (.csrrd ⟨0, 0, 0x003⟩) st = some 1 ∧ q1After (.csrrd ⟨0, 0, 0x013⟩) st = some 0x1000 ∧
    q1After (.csrrd ⟨0, 0, 0x030⟩) { st with tick := 42 } = some 42 ∧
    after (.csrrd ⟨0, 0, 0x007⟩) st (fun t => t.cur.tcause) = some 1 := by decide
theorem test_meets_SpecialRegistersWrite : MayCommit st ∧ csrRead st 1 = some 0 ∧ csrRead st 0x7FF = none ∧
    csrRead st 2 ≠ none ∧ st.cur.sup = false ∧ st.cur.launches = 0 ∧ (1 : BitVec 11) ≠ 8 ∧ kindOf st.turn = .core ∧
    (∃ t, Produces (csrWrite st 1 7) 0 0 2 t) := by
  refine ⟨⟨rfl, rfl⟩, by decide, by decide, by decide, rfl, rfl, by decide, by decide, _, rfl⟩
theorem test_csr_writes :
    after (.csrwr ⟨0, 0, 16, 1⟩) st (fun t => (t.cur.fpflags, t.cur.rstart)) = some (7, 0x1004) ∧
    after (.csrset ⟨0, 0, 16, 1⟩) { st with cur := { slot0 with fpflags := 8 } } (fun t => ((qEntry t.cur 0).val, t.cur.fpflags)) = some (8, 15) ∧
    after (.csrclr ⟨0, 0, 16, 1⟩) { st with cur := { slot0 with fpflags := 9 } } (fun t => t.cur.fpflags) = some 8 ∧
    after (.csrwr ⟨0, 0, 16, 3⟩) st (fun t => (t.cur.tcause, t.cur.tinfo)) = some (6, 3) ∧
    after (.csrwr ⟨0, 0, 16, 3⟩) sup0 (fun t => t.cur.ctx) = some 7 ∧
    after (.csrwr ⟨0, 0, 16, 0x7FF⟩) sup0 (fun t => t.module.frozen) = some (some 1) := by decide

theorem test_meets_TakingATrapInUserMode : st.memOk = true ∧ kindOf (0 : HartId) = .core ∧ (slotOf st 0).sup = false ∧
    Cause.syscall ≠ .preempt := by decide
theorem test_meets_TrapThenReturn : (slotOf st 0).inTrap = false ∧ sup0.cur.sup = true ∧ InOpen sup0 ∧
    sup0.cur.tcause.getLsbD 7 = false ∧ st.cur.launches = 0 ∧ ¬ InOpen { inSlot with cur := { inSlot.cur with sup := true } } := by
  refine ⟨by decide, rfl, ⟨rfl, rfl⟩, by decide, rfl, fun h => absurd h.2 (by decide)⟩
theorem test_trap_entry : after (.trap ⟨0, 16⟩) { st with dies := [(0, { Die.reset with tentry := 0x8000 })] }
    (fun t => ((t.cur.pc, t.cur.tcause, t.cur.tinfo), (t.cur.tpc, t.cur.sup, (nEntry t.cur 0).val))) =
    some ((0x8000, 0x19, 7), (0x1000, true, 0x400)) := by decide
theorem test_trap_return : after (.tret ⟨0⟩) (takeTrap st 0 .brk 0 none) (fun t => (t.cur.pc, t.cur.sup, (nEntry t.cur 1).val)) =
    some (0x1000, false, -3) := by decide +kernel
theorem test_meets_ExceptionsOfWordsAndOtherModes : st.module.frozen = none ∧ kindOf (2316 : HartId) = .clerk ∧
    (slotOf State.reset 2316).inTrap = false ∧ kindOf (2048 : HartId) = .porter ∧ kindOf (2315 : HartId) = .carter ∧
    (2315 : HartId).toNat < 4096 ∧ (engineAt st 2048).ending = none ∧
    (engineAt (setEngine st 2048 { Engine.reset with running := some ⟨0, 0, 1, none⟩ }) 2048).running ≠ none ∧
    (slotOf sup0 0).sup = true ∧ (0x1100000000000000 : W).extractLsb' 60 4 = 1 ∧ (0x1100000000000000 : W).extractLsb' 56 3 ≠ 0 := by
  decide
theorem test_exceptions : after (.brk ⟨0⟩) st (fun t => (t.cur.tcause, t.cur.tinfo, t.cur.tpc)) = some (0x18, 0x48000002, 0x1000) ∧
    after (.illegal 0x04000009 0xF4000001) st (fun t => (t.cur.tcause, t.cur.tinfo)) = some (1, 0xF400000104000009) ∧
    after (.fetchFault .page 0x1000) st (fun t => (t.cur.tcause, t.cur.tpc)) = some (5, 0x1000) ∧
    after (.brk ⟨0⟩) sup0 (fun t => (t.module.frozen, (dieOf t 3).crashreg)) = some (some 1, 0x100000000) := by decide
theorem test_meets_PreemptionSavesTheWholeSlot : preemptible st 0 = true ∧ preemptible sup0 0 = false ∧
    (slotOf st 0).vlanes.toNat ≤ 32 * vmaxOf (slotOf st 0).partw ∧ (slotOf st 0).vlanes.toNat ≤ 256 ∧
    (slotOf (setSlot st 4096 { slot0 with request := some 1 }) (hartOf 0 true)).request = some 1 ∧
    (slotOf (setSlot st 4096 { slot0 with request := some 1 }) (hartOf 0 false)).request ≠ some 1 ∧
    runsStrand { slot0 with request := some 1 } 1 = true ∧ runsStrand slot0 2 = false := by decide
theorem test_time_slice : after (.timeSliceExpiry 0) st (fun t => (t.cur.tcause, t.cur.tinfo, t.cur.byPreempt)) =
    some (0x14, 1, true) ∧ after (.timeSliceExpiry 0) sup0 (fun t => t.cur.pc) = some 0x1000 ∧
    after (.preemptHoldExpiry 0) { st with cur := { slot0 with hold := some 9 } } (fun t => t.cur.hold) = some none := by decide
theorem test_meets_WaitingCountersAndPhaseEvents : sup0.cur.sup = true ∧ st.cur.launches = 0 ∧ Reads st 16 7 st ∧
    (∃ t, Produces st 0 0 2 t) := ⟨rfl, rfl, rfl, _, rfl⟩
theorem test_waiting : after (.wfi ⟨0⟩) sup0 (fun t => (t.cur.wfi, t.cur.pc)) = some (some 65536, 0x1004) ∧
    after (.wfi ⟨0⟩) st (fun t => (t.cur.tcause, t.cur.tinfo)) = some (6, 0x9C000002) ∧
    after (.wfiWake 0) { st with cur := { slot0 with wfi := some 9 } } (fun t => t.cur.wfi) = some none ∧
    q1After (.perf ⟨0, 0, 16⟩) (withN 0 0 0 0) = some 0 ∧ q1After (.perf ⟨0, 0, 16⟩) (withN 11 0 0 0) = some 0 ∧
    after (.phaseOverrun 0) { st with clock := 900 } (fun t => (t.cur.tcause, t.cur.tinfo)) = some (0x0F, 900) := by decide

/-! ### Floating point (chapter 06) -/

theorem test_meets_RoundingFollowsItsRule : (0 : Nat) < 1 ∧ fp64 ∈ [fp64, fp32, fp16, bf16] := by decide
theorem test_meets_ArithmeticRoundsTheExactResult : IsReal (.fin false 1 0) 1 ∧ IsReal (.zero true) 0 ∧ (1 : ℝ) + 1 ≠ 0 ∧
    (0 : ℝ) < 1 ∧ IsReal (.fin true 1 0) (-1) := by
  simp [IsReal]
theorem test_meets_SpecialOperandsOfFp : ∃ x : FpVal, x = .nan true ∧ (true = (true || FpVal.isSnan (.zero false))) :=
  ⟨_, rfl, rfl⟩
theorem test_meets_ScalarFpCompletes : Gives (roundingFor 0) st ⟨.rne, 0⟩ st ∧
    (let s : State := { st with cur := { slot0 with modw := some ⟨0, 0, 5, 0, 0, 0⟩ } }
     Gives (roundingFor 0) s ⟨.sto, (mix 0 7 0).toNat / 2 ^ 32⟩ s) ∧ (slot0.rmode).toNat < 5 ∧
    (nEntry st.cur 7).tag = 0 ∧ (4 : BitVec 3).toNat < 5 ∧ flagNX &&& (0x11 : BitVec 5) ≠ 0 :=
  ⟨rfl, rfl, by decide, by decide, by decide, by decide⟩
/-- 1.5, −2, 0.1 and 3 as doubles. -/
def fpN : State := withN 0x3FF8000000000000 0xC000000000000000 0x3FB999999999999A 0x4008000000000000
theorem test_fp_arithmetic :
    q1After (.fadd ⟨0, 0, 16, 17, 0⟩) fpN = some 0xBFE0000000000000 ∧ q1After (.fsub ⟨0, 0, 16, 17, 0⟩) fpN = some 0x400C000000000000 ∧
    q1After (.fmul ⟨0, 0, 16, 17, 0⟩) fpN = some 0xC008000000000000 ∧
    q1After (.fma ⟨0, 0, 16, 17, 19, 0⟩) fpN = some 0 ∧ q1After (.fms ⟨0, 0, 16, 17, 19, 0⟩) fpN = some 0xC018000000000000 ∧
    q1After (.fnma ⟨0, 0, 16, 17, 19, 0⟩) fpN = some 0x4018000000000000 ∧
    after (.fadd ⟨0, 0, 16, 18, 0⟩) fpN (fun t => (fpflagsNow t.cur 3, fpflagsNow t.cur 4)) = some (0, 1) := by decide
theorem test_fp_conversions :
    q1After (.frnd ⟨0, 0, 16, 0⟩) fpN = some 0x4000000000000000 ∧ q1After (.fcvt ⟨0, 0, 16, 0, 1⟩) fpN = some 0x3FC00000 ∧
    q1After (.fcvti ⟨0, 0, 17, 0, 4⟩) fpN = some (-2) ∧ q1After (.icvtf ⟨0, 0, 16, 6, 0⟩) st = some 0x401C000000000000 := by decide
theorem test_meets_FpWithoutRounding : Reads fpN 16 0x3FF8000000000000 fpN ∧ (unpack fp64 0x7FF4000000000000).isNan = true ∧
    (unpack fp64 0x7FF4000000000000).isSnan = true ∧ (unpack fp64 0).isNan = false ∧
    (unpack fp64 0x3FF0000000000000 = .fin false (2 ^ 52) (-52)) := ⟨rfl, by decide, by decide, by decide, by decide⟩
theorem test_fp_order :
    q1After (.fmin ⟨0, 0, 16, 17, 0⟩) fpN = some 0xC000000000000000 ∧ q1After (.fmax ⟨0, 0, 16, 17, 0⟩) fpN = some 0x3FF8000000000000 ∧
    q1After (.fminn ⟨0, 0, 16, 17, 0⟩) (withN 0x7FF8000000000000 0 0 0) = some 0 ∧
    q1After (.fmaxn ⟨0, 0, 16, 17, 0⟩) (withN 0x7FF8000000000000 0 0 0) = some 0 ∧
    q1After (.fmin ⟨0, 0, 16, 17, 0⟩) (withN 0x7FF8000000000000 0 0 0) = some 0x7FF8000000000000 ∧
    q1After (.fcmplt ⟨0, 0, 17, 16, 0⟩) fpN = some 1 ∧ q1After (.fcmpeq ⟨0, 0, 16, 16, 0⟩) fpN = some 1 ∧
    q1After (.fcmple ⟨0, 0, 16, 17, 0⟩) fpN = some 0 ∧ q1After (.fcmpun ⟨0, 0, 16, 17, 0⟩) fpN = some 0 ∧
    q1After (.fabs ⟨0, 0, 17, 0⟩) fpN = some 0x4000000000000000 ∧ q1After (.fneg ⟨0, 0, 16, 0⟩) fpN = some 0xBFF8000000000000 ∧
    q1After (.fsgn ⟨0, 0, 16, 17, 0⟩) fpN = some 0xBFF8000000000000 ∧ q1After (.fclass ⟨0, 0, 16, 0⟩) fpN = some 0x40 := by decide
theorem test_meets_IntegralAndIntegerConversions : ∃ v, unpack fp64 v = .fin false (3 * 2 ^ 51) (-52) := ⟨0x3FF8000000000000, by decide⟩
theorem test_meets_FpDividesAndRoots : st.events = [] ∧ (∃ t tag dest, Gives (reserveBy 18 0) st (tag, dest) t) ∧
    (∃ q fl, Event.fpDivideComplete q fl ∈ (emit st (.fpDivideComplete ⟨0, 1, .none, 5, 9⟩ 0)).events ∧ q.h = st.turn) ∧
    (slotOf st 0).launches = 0 := ⟨rfl, ⟨_, _, _, rfl⟩, ⟨⟨0, 1, .none, 5, 9⟩, 0, by decide⟩, rfl⟩
theorem test_fp_divide : brings (.fdiv ⟨0, 0, 19, 16, 0⟩) fpN .none 0x4000000000000000 = true ∧
    brings (.fsqrt ⟨0, 0, 17, 0⟩) fpN .none 0x7FF8000000000000 = true ∧
    after (.fpLateTrap 0 0x1000 5) st (fun t => (t.cur.tcause, t.cur.tpc, t.cur.tinfo)) = some (0x15, 0x1000, 5) ∧
    after (.lateFault 0 .queue 5 ⟨0x1000, 1⟩) st (fun t => (t.cur.tcause, t.cur.tpc)) = some (0x17, 0x1000) := by decide

/-! ### Memory, atomics, queues and cells (chapter 07) -/

theorem test_meets_AccessChecksInTheirOrder :
    2 ^ 56 ≤ (0x100000000000000 : W).toNat ∧ (7 : W).toNat % 4 ≠ 0 ∧ windowBase ≤ (0xFFFFFF00000000 : W).toNat ∧
    translate (pagedN 0b1011 0 0 0 0) 0 0x10000 = .unmapped none ∧
    translate (pagedN 0b1011 0 0 0 0) 0 0x8 = .mapped 0x100008 65536 0b1011 ∧
    attrsOf 0b1011 = ⟨false, false, true, false, true, true⟩ ∧ locOf 0x100008 = some (.mem 0x100008) ∧
    padSize st.cur.partw = 4096 ∧ 2 ^ 18 ≤ (2 ^ 18 : Nat) := by decide
theorem test_access_checks :
    after (.ld ⟨0, 18, 16, 3, 0⟩) (pagedN 0b1011 4 0 0 0) (fun t => (t.cur.tcause, t.cur.tinfo)) = some (3, 4) ∧
    after (.ld ⟨0, 18, 16, 3, 0⟩) (pagedN 0b1011 0x10000 0 0 0) (fun t => (t.cur.tcause, t.cur.tinfo)) = some (5, 0x10000) ∧
    after (.ld ⟨0, 18, 16, 3, 0⟩) (pagedN 0b0011 8 0 0 0) (fun t => (t.cur.tcause, t.cur.tinfo)) = some (6, 8) ∧
    after (.st ⟨0, 17, 16, 3, 0⟩) (pagedN 0b11011 8 0 0 0) (fun t => (t.cur.tcause, t.cur.tinfo)) = some (6, 0x1100000000000008) ∧
    after (.ldk ⟨0, 18, 16, 28, 3⟩) (pagedN 0b1011 8 0 0 0) (fun t => (t.cur.tcause, t.cur.tinfo)) = some (6, 0x6300000000000008) := by
  decide
theorem test_meets_LoadsReadTheirBytes : storesPending (memN 0 0 0 0) = false ∧ combining (memN 0 0 0 0) 0 = false ∧
    appendMeets (memN 0 0 0 0) 0 (.mem 0x100000) 32 = false ∧ appendMeets (padN 0 0 0 0) 0 (.pool 0 0x1100) 4 = false ∧
    appendMeets (appendN 0 0 0 0) 0 (.mem 0x100007) 1 = true ∧ appendMeets (appendN 0 0 0 0) 0 (.mem 0x100008) 8 = false ∧ kindOf (0 : HartId) = .core ∧
    poisonedMem (memN 0 0 0 0) 0x100000 32 = false ∧ poisonedMem { memN 0 0 0 0 with poison := [(0x8000, 0)] } 0x10001F 1 = true ∧
    l1Line (memN 0 0 0 0) 0 0x100000 = none ∧ poisonedPool (padN 0 0 0 0) 0 0x1100 4 = false ∧
    (l1Line (setCore st 0 { Core.reset with l1 := [⟨0x8000, false, false, natBytes 32 5, 0⟩] }) 0 0x10001F).isSome = true ∧
    poisonedPool { padN 0 0 0 0 with poolPoison := [(0x220, 0)] } 0 0x1100 4 = true ∧
    ran (loadAt ⟨.mem 0x10001F, true⟩ 1 0 0) (memN 0 0 0 0) = true ∧ (memN 0 0 0 0).memOk = true := by decide
theorem test_meets_StoresReachTheirPlace : st.memOk = true ∧ touchesCell st 0x100000 32 = false ∧
    touchesCell { st with cells := [(0x100000, .xa32)] } 0x10003F 1 = true ∧ kindOf (2048 : HartId) ≠ .core ∧
    (natBytes 1 7).length ≤ 32 - 0x10001F % 32 ∧ poisonedMem st 0x10001F 1 = false ∧ l1Line st 0 0x10001F = none ∧
    appendMeets st 0 (.pool 0 0x1100) 4 = false ∧ appendMeets st 0 (.mem 0x100000) 32 = false ∧ combining st 0 = false ∧
    appendMeets (appendN 0 0 0 0) 0 (.mem 0x100000) 8 = true := by decide
theorem test_accesses_wait_for_appends :
    after (.ld ⟨0, 18, 16, 3, 0⟩) (appendN 0x100000 0 0 0) (fun t => (t.cur.pc, t.events.length)) = some (0x1000, 1) ∧
    after (.ld ⟨0, 18, 16, 3, 0⟩) (appendN 0x100008 0 0 0) (fun t => t.cur.pc) = some 0x1004 ∧
    after (.stRel ⟨0, 17, 16, 0, 3, 0⟩) (appendN 0x100800 1 0 0) (fun t => t.cur.pc) = some 0x1000 ∧
    after (.fence ⟨0, 18, 3, 1⟩) (appendN 0 0 0 0) (fun t => t.cur.pc) = some 0x1000 ∧
    after (.amoAdd ⟨0, 18, 16, 17, 1⟩) (appendN 0x100000 1 0 0) (fun t => t.cur.pc) = some 0x1000 := by decide
theorem test_stores_perform :
    after (.storePerform ⟨0, 1, .mem 0x100002, [0xAA, 0xBB]⟩) (memN 0 0 0 0) (fun t => leNat (memRead t.mem 0x100000 8)) =
      some 0x11223344BBAA7788 ∧
    after (.storePerform ⟨0, 1, .mem 0x10003F, [0xAA]⟩) { memN 0 0 0 0 with cells := [(0x100000, .xa32)] }
      (fun t => (t.mem == (memN 0 0 0 0).mem, t.cur.failed.refused)) = some (true, true) ∧
    after (.storePerform ⟨0, 1, .pool 3 0x1100, [0xAA]⟩) st (fun t => memGet t.pools (3 * 2 ^ 18 + 0x1100)) = some 0xAA := by decide
theorem test_meets_LoadAndStoreInstructions : ran (loadVa 0 8 8 0x100000) (memN 0 0 0 0) = true ∧
    ran (checkAccess 0 8 8 .read true 0x100000) (memN 0 0 0 0) = true ∧ ran (scratchPlace 0x100 4 false) (padN 0 0 0 0) = true ∧
    ran (scratchPlace 0x100 4 true) (padN 0 0 0 0) = true ∧ ran (checkAccess 3 8 8 .constant false 8) (pagedN 0b11001 0 0 0 0) = true ∧
    ran (storeVa 1 8 0x100000 (natBytes 8 5)) (memN 0 0 0 0) = true ∧ accessesPending (memN 0 0 0 0) = false ∧
    (∃ t tag dest, Gives (reserveBy 3 18) (memN 0 0 0 0) (tag, dest) t) :=
  ⟨by decide, by decide, by decide, by decide, by decide, by decide, by decide, _, _, _, rfl⟩
theorem test_loads :
    starts (.ld ⟨0, 18, 16, 3, 0⟩) (memN 0x100000 0 0 0) (.loadResponse ⟨0, 1, .reg 2, 0x1122334455667788, 0⟩) = true ∧
    starts (.ld ⟨0, 0, 16, 0, 0x1FF⟩) (memN 0x100002 0 0 0) (.loadResponse ⟨0, 1, .none, 0x77, 0⟩) = true ∧
    starts (.ldAcq ⟨0, 18, 16, 2, 1, 0⟩) (memN 0x100000 0 0 0) (.loadResponse ⟨0, 1, .reg 2, 0x55667788, 0⟩) = true ∧
    starts (.lds ⟨0, 18, 16, 17, 2⟩) (padN 0x80 0x80 0 0) (.loadResponse ⟨0, 1, .reg 2, 0xAABBCCDD, 3⟩) = true ∧
    starts (.ldk ⟨0, 18, 16, 28, 1⟩) (pagedN 0b11001 2 0 0 0) (.loadResponse ⟨0, 1, .reg 2, 0x5566, 0⟩) = true := by decide
theorem test_stores :
    starts (.st ⟨0, 17, 16, 1, 0⟩) (memN 0x100000 0xABCD 0 0) (.storePerform ⟨0, 1, .mem 0x100000, [0xCD, 0xAB]⟩) = true ∧
    starts (.stRel ⟨0, 17, 16, 0, 2, 1⟩) (memN 0x100000 0xABCD 0 0) (.storePerform ⟨0, 1, .mem 0x100001, [0xCD]⟩) = true ∧
    after (.sts ⟨0, 17, 16, 28, 1⟩) (padN 0x100 0xABCD 0 0) (fun t => leNat (memRead t.pools 0x1100 4)) = some 0xAABBABCD ∧
    after (.sts ⟨0, 17, 16, 28, 1⟩) (padN 0xFE 0xABCD 0 0) (fun t => (t.cur.tcause, t.cur.tinfo)) = some (6, 0x31000000000000FE) := by decide
theorem test_load_responses :
    after (.loadResponse ⟨0, 9, .reg 2, 5, 0⟩) { st with cur := { slot0 with n := slot0.n.set 2 ⟨0, 9, 0⟩ } } (fun t => (nEntry t.cur 2).val) = some 5 ∧
    after (.loadResponse ⟨0, 8, .reg 2, 5, 0⟩) { st with cur := { slot0 with n := slot0.n.set 2 ⟨0, 9, 0⟩ } } (fun t => (nEntry t.cur 2).tag) = some 9 ∧
    after (.missMergeWindow 0) st (fun t => (t.cur.pc, t.mem)) = some (0x1000, []) := by decide +kernel
theorem test_meets_StreamAndCacheWords : ran (loadVa 6 32 32 0x100000) (memN 0 0 0 0) = true ∧ (0 : Nat) < 16 ∧
    (0x100000 : W).toNat < windowBase ∧ windowBase ≤ (0xFFFFFF00000000 : W).toNat ∧ (0xFFFFFF00000000 : W).toNat < 2 ^ 56 ∧
    (memN 0 0 0 0).cur.launches = 0 ∧ (memN 0 0 0 0).memOk = true ∧
    placesMeet (.mem (0x8000 * 32), 32) (.mem 0x100000, 8) = true ∧ placesMeet (.mem (0x8001 * 32), 32) (.mem 0x100000, 8) = false := by decide
theorem test_streams :
    after (.sbind ⟨0, 16, 1⟩) { memN 0x100000 0 0 0 with mem := memWrite [] 0x100000 (natBytes 8 0x4000 ++ natBytes 8 8 ++ natBytes 4 5 ++ natBytes 4 1 ++ natBytes 8 7) }
      (fun t => portOf t.cur 1) = some ⟨true, 0x4000, 8, 5, 1, false, true, 3⟩ ∧
    after (.sbind ⟨0, 16, 1⟩) { memN 0x100000 0 0 0 with mem := memWrite [] 0x100000 (natBytes 8 0x4001 ++ natBytes 8 8 ++ natBytes 8 5 ++ natBytes 8 7) }
      (fun t => t.module.frozen) = some (some 1) ∧
    after (.sclose ⟨0, 0⟩) (withPort false 0) (fun t => portOf t.cur 0) = some Stream.closed ∧
    q1After (.spos ⟨0, 0, 2⟩) (withPort false 1) = some 1 ∧ q1After (.spos ⟨0, 0, 2⟩) st = some 0 := by decide
theorem test_cache_words :
    after (.pref ⟨0, 16⟩) (memN 0x100000 0 0 0) (fun t => (t.cur.pc, t.mem == (memN 0 0 0 0).mem)) = some (0x1004, true) ∧
    after (.wb ⟨0, 16, 17⟩) (setCore (memN 0x100000 32 0 0) 0 { Core.reset with l1 := [⟨0x8000, false, true, natBytes 32 9, 0⟩] })
      (fun t => ((coreOf t 0).l1.any fun l => l.dirty, memGet t.mem 0x100000)) = some (false, 9) ∧
    after (.inv ⟨0, 16, 17⟩) (setCore (memN 0x100000 32 0 0) 0 { Core.reset with l1 := [⟨0x8000, false, false, natBytes 32 9, 0⟩] })
      (fun t => (coreOf t 0).l1.length) = some 0 ∧
    after (.inv ⟨0, 16, 17⟩) (appendN 0x100000 32 0 0) (fun t => t.cur.pc) = some 0x1000 := by decide
theorem test_meets_BlockMoveAndFillIterate : InOpen st ∧ (∀ m, m < 8 → (nEntry (memN 0x100008 0x100000 8 0).cur m).tag = 0) ∧
    ran (loadVa 4 8 8 0x100000) (memN 0 0 0 0) = true ∧ ran (storeVa 4 8 0x100008 (natBytes 8 1)) (memN 0 0 0 0) = true ∧
    (16 : BitVec 5) = BitVec.ofNat 5 (16 + (0 : BitVec 3).toNat) ∧ (1 : BitVec 3) ≠ 2 := by
  refine ⟨⟨rfl, rfl⟩, ?_⟩; decide
theorem test_block_words :
    after (.bmove ⟨0, 16, 17, 18⟩) (memN 0x100010 0x100000 9 0) (fun t =>
      ((nEntry t.cur 0).val, (nEntry t.cur 1).val, (nEntry t.cur 2).val, t.cur.pc)) = some (0x100018, 0x100008, 1, 0x1000) ∧
    after (.bmove ⟨0, 16, 17, 18⟩) (memN 0x100010 0x100000 0 0) (fun t => (t.cur.pc, t.cur.rstart)) = some (0x1004, 0x1004) ∧
    after (.bfill ⟨0, 16, 17, 18⟩) (memN 0x100003 1 0x8877665544332211 0) (fun t =>
      ((nEntry t.cur 0).val, (nEntry t.cur 1).val, t.events.any fun e => e == .storePerform ⟨0, 1, .mem 0x100003, [0x44]⟩)) =
      some (0x100004, 0, true) := by decide

theorem test_meets_AtomicsIssueAndPerform : MayCommit (memN 0 0 0 0) ∧ ran (checkAccess 2 8 8 .both true 0x100000) (memN 0 0 0 0) = true ∧
    ran (evictPlace (.mem 0x100000) 8) (memN 0 0 0 0) = true ∧ ran (settleBytes (.mem 0x100000) 8) (memN 0 0 0 0) = true ∧ homeField (memN 0 0 0 0) 0x400000 = none ∧
    touchesCell (memN 0 0 0 0) 0x100000 8 = false ∧ poisonedMem (memN 0 0 0 0) 0x100000 8 = false ∧
    touchesCell { st with cells := [(0x100000, .xa32)] } 0x10003C 4 = true ∧ poisonedPool st 0 0x1100 4 = false ∧
    poisonedMem { st with poison := [(0x8000, 0)] } 0x100018 8 = true := by refine ⟨⟨rfl, rfl⟩, ?_⟩; decide
theorem test_atomics_issue :
    (let e (op : AtomOp) : Event := .homeAtomic ⟨0, 1, .reg 2, 0x1000, 0x100000, .mem 0x100000, 4, op, 5, 0, true⟩
     let s := memN 0x100000 5 0 0
     starts (.amoAdd ⟨0, 18, 16, 17, 0⟩) s (e .add) && starts (.amoAnd ⟨0, 18, 16, 17, 0⟩) s (e .and) &&
     starts (.amoOr ⟨0, 18, 16, 17, 0⟩) s (e .or) && starts (.amoXor ⟨0, 18, 16, 17, 0⟩) s (e .xor) &&
     starts (.amoMin ⟨0, 18, 16, 17, 0⟩) s (e .min) && starts (.amoMax ⟨0, 18, 16, 17, 0⟩) s (e .max) &&
     starts (.amoMinu ⟨0, 18, 16, 17, 0⟩) s (e .minu) && starts (.amoMaxu ⟨0, 18, 16, 17, 0⟩) s (e .maxu) &&
     starts (.amoSwap ⟨0, 18, 16, 17, 0⟩) s (e .swap)) = true ∧
    starts (.cas ⟨0, 18, 16, 17, 18, 1⟩) (memN 0x100000 5 6 0)
      (.homeAtomic ⟨0, 1, .reg 2, 0x1000, 0x100000, .mem 0x100000, 8, .cas, 5, 6, true⟩) = true := by decide
theorem test_atomics_at_home :
    (let r (op : AtomOp) (n : Nat) (b c : W) : Option (Nat × W) := after (.homeAtomic ⟨0, 9, .reg 2, 0, 0x400000, .mem 0x400000, n, op, b, c, false⟩)
      { st with mem := memWrite [] 0x400000 (natBytes 8 0x1122334455667788), cur := { slot0 with n := slot0.n.set 2 ⟨0, 9, 0⟩ } }
      (fun t => (leNat (memRead t.mem 0x400000 8), (nEntry t.cur 2).val))
     r .add 4 0xAA998878 0 = some (0x1122334400000000, 0x55667788) ∧ r .max 8 (-1) 0 = some (0x1122334455667788, 0x1122334455667788) ∧
     r .maxu 8 (-1) 0 = some (0xFFFFFFFFFFFFFFFF, 0x1122334455667788) ∧ r .cas 4 7 0x55667788 = some (0x1122334400000007, 0x55667788) ∧
     r .cas 4 7 0x55667789 = some (0x1122334455667788, 0x55667788)) := by decide +kernel

theorem test_meets_FencesAndCodePublication : MayCommit st ∧ unacknowledged st 0 = false ∧ combining st 0 = false ∧
    storesOf st 0 = false ∧ storesOf (emit st (.storePerform ⟨0, 1, .mem 0, [1]⟩)) 0 = true ∧ st.memOk = true ∧
    inScope 0 0 0 = true ∧ appendsPending st 0 = false ∧ appendsPending (appendN 0 0 0 0) 0 = true ∧ (∃ k, (0, k) ∈ [(0, Core.reset)]) := by
  refine ⟨⟨rfl, rfl⟩, by decide, by decide, by decide, by decide, by decide, by decide, by decide, by decide, Core.reset, by simp⟩
theorem test_fences :
    starts (.fence ⟨0, 18, 3, 0xF⟩) st (.fenceComplete ⟨0, 1, .reg 2, 0, 0⟩ true) = true ∧
    after (.fence ⟨0, 18, 3, 0xF⟩) st (fun t => t.cur.rstart) = some 0x1004 ∧
    after (.fenceComplete ⟨0, 9, .reg 2, 0, 0⟩ true) { st with cur := { slot0 with n := slot0.n.set 2 ⟨0, 9, 0⟩, failed := ⟨300, true, false, true⟩ } }
      (fun t => ((nEntry t.cur 2).val, t.cur.failed.count)) = some (0xFF05, 0) ∧
    starts (.cpub ⟨0, 16, 17, 0⟩) (memN 0x100000 32 0 0) (.cpubComplete 0 0 [0x8000]) = true ∧
    after (.cpubComplete 0 0 [0x8000]) (setCore st 0 { Core.reset with icache := [⟨0x4000, natBytes 64 1, []⟩] })
      (fun t => (coreOf t 0).icache.length) = some 0 := by decide +kernel
theorem test_meets_QueueOperationsAtTheirHome : ran (settleBytes (.mem 0x200000) 64) (memN 0 0 0 0) = true ∧ ran (checkAccess 2 64 64 .both false 0x200000) (memN 0 0 0 0) = true ∧
    unitLoc 0x200000 = .mem 0x200000 ∧ poisonedMem (queueN 0 0 0 0 0 0) 0x200000 64 = false ∧
    (qheaderOf (memRead (queueN 0 0 0 0 0 0).mem 0x200000 64)).ok = true ∧
    (qheaderOf (memRead (queueN 0 0 0 0 0 0).mem 0x200040 64)).ok = false ∧
    (qheaderOf (memRead (queueN 1 0 0 0 0 0).mem 0x200000 64)).kind = 1 ∧
    ringAt (queueN 0 0 0 0 0 0) identityRoot true 0x300078 8 = .ok 0x300078 := by decide
theorem test_queues_issue :
    (let e (op : QueueOp) (b c : W) : Event := .homeQueueOperation ⟨0, 1, .reg 2, 0x1000, 0x200000, 0x200000, identityRoot, true, op, b, c⟩
     let s := queueN 0 0 0 0x200000 5 6
     starts (.enq ⟨0, 18, 16, 17⟩) s (e .enq 5 0) && starts (.deq ⟨0, 18, 16⟩) s (e .deq 0 0) && starts (.seqdeq ⟨0, 18, 16⟩) s (e .seqdeq 0 0) &&
     starts (.seqenq ⟨0, 18, 16, 17, 18⟩) s (e .seqenq 5 6)) = true := by decide
theorem test_queues_at_home :
    queued (queueN 0 0 15 0 0 0) .enq 5 0 = some (0, 0, 16) ∧ queued (queueN 0 0 16 0 0 0) .enq 5 0 = some (1, 0, 16) ∧
    queued (queueN 0 0 1 0 0 0) .enq (-1) 0 = some (2, 0, 1) ∧ queued (queueN 0 0 1 0 0 0) .deq 0 0 = some (77, 1, 1) ∧
    queued (queueN 0 3 3 0 0 0) .deq 0 0 = some (-1, 3, 3) ∧ queued (queueN 1 0 1 0 0 0) .seqdeq 0 0 = some (77, 1, 0) ∧
    queued (queueN 1 0 0 0 0 0) .seqenq 8 1 = some (0, 0, 1) ∧ queued (queueN 1 0 0 0 0 0) .seqenq 8 16 = some (1, 0, 0) := by decide +kernel
theorem test_meets_CellsAddExactly : (match cellPlace 64 0x100000 none (memN 0 0 0 0) with | .ok (q, _) => q == (0x100000, .xa32) | .error _ => false) = true ∧
    (match cellPlace 64 0x100000 (some .xa32) (memN 0 0 0 0) with | .ok (q, _) => q == (0x100000, .xa32) | .error _ => false) = true ∧
    (match cellPlace 512 0x100000 (some .xa64) (memN 0 0 0 0) with | .ok (q, _) => q == (0x100000, .xa64) | .error _ => false) = true ∧
    ran (settleAppends 0x100000 .xa64) (memN 0 0 0 0) = true ∧
    ran (cellAddress 64 0x100000) (memN 0 0 0 0) = true ∧ ran (evictCell 0x100000 .xa64) (memN 0 0 0 0) = true ∧
    inMemory 0x100000 64 = true ∧ cellAt st 0x100000 = none ∧ cellAt { st with cells := [(0x100000, .xa32)] } 0x100000 = some (0x100000, .xa32) ∧
    (cellPieces 0x100000 .xa32).any (fun q => touchesCell st q.1 q.2) = false ∧
    (cellPieces 0x100000 .xa32).any (fun q => touchesCell { st with cells := [(0x100000, .xa64)] } q.1 q.2) = true ∧
    cellLoad st (homeOf 0x100000) + 64 ≤ 1048576 ∧ cellPoisoned st 0x100000 .xa32 = false ∧ (CellKind.xa32 ≠ .xa64) ∧
    (0 : Int) + 0 < 2 ^ 200 := by decide
/-- A router with 32 entries forwards its oldest for a contribution to another cell, and merges one to the same (R399). -/
def routerN : State := { st with combine := (List.range 32).map fun i =>
  ⟨0, 1, st.module.frame, 0, 64 * i, .xa32, 5, 0, [⟨0, ⟨0x1000, i⟩, true, 0⟩]⟩ }
theorem test_combining : ((mergeContribution routerN 0 1 (64 * 31) 0 0x2000 .xa32 ⟨2, 1⟩).combine.getLast?).map (fun e => (e.acc, e.flags, e.from_.length)) =
      some (7, 1, 2) ∧
    (let t := mergeContribution routerN 0 1 (64 * 32) 0 0x2000 .xa32 ⟨2, 1⟩
     (t.combine.length, t.events)) = (33, [.combineForward 0 0]) := by decide +kernel
theorem test_cells_issue :
    starts (.xinit32 ⟨0, 16⟩) (memN 0x100000 0 0 0) (.homeCellOperation ⟨0, 1, .none, 0x1000, 0x100000, 0x100000, 0, .init .xa32⟩) = true ∧
    starts (.xinit64 ⟨0, 16⟩) (memN 0x100000 0 0 0) (.homeCellOperation ⟨0, 1, .none, 0x1000, 0x100000, 0x100000, 0, .init .xa64⟩) = true ∧
    starts (.xclr ⟨0, 16⟩) (memN 0x100000 0 0 0) (.homeCellOperation ⟨0, 1, .none, 0x1000, 0x100000, 0x100000, 0, .clear⟩) = true ∧
    starts (.xread ⟨0, 18, 16, 1, 0⟩) (memN 0x100000 0 0 0)
      (.homeCellOperation ⟨0, 1, .reg 2, 0x1000, 0x100000, 0x100000, 0x784A0090, .read 1 0⟩) = true ∧
    after (.xadd ⟨0, 16, 17, 1⟩) (memN 0x100000 0x3F800000 0 0) (fun t => t.combine.map fun e => (e.acc == 2 ^ 149, e.flags, e.from_)) =
      some [(true, 0, [⟨0, ⟨0x1000, 1⟩, true, 0x100000⟩])] := by decide
theorem test_cells_at_home :
    after (.homeCellOperation ⟨0, 0, .none, 0, 0x100000, 0x100000, 0, .init .xa32⟩) (memN 0 0 0 0) (fun t => (t.cells, t.mem == [])) =
      some ([(0x100000, .xa32)], true) ∧
    after (.homeCellOperation ⟨0, 0, .none, 0, 0x100000, 0x100000, 0, .partial_ .xa32 5 0 [⟨0, ⟨0, 0⟩, true, 0⟩]⟩)
      { st with cells := [(0x100000, .xa32)] } (fun t => memGet t.mem 0x100000) = some 5 ∧
    after (.homeCellOperation ⟨0, 0, .none, 0, 0x100000, 0x100000, 0, .clear⟩)
      { memN 0 0 0 0 with cells := [(0x100000, .xa32)] } (fun t => (t.cells, t.mem == [])) = some ([], true) ∧
    after (.homeCellOperation ⟨0, 9, .none, 0, 0x100000, 0x100000, 0, .read 0 0⟩) { st with
      cells := [(0x100000, .xa32)], mem := memWrite [] 0x100000 (natBytes 63 (2 ^ 149)), cur := { slot0 with q := slot0.q.set 0 ⟨0, 9, 0⟩ } }
      (fun t => (qEntry t.cur 0).val) = some 0x3FF0000000000000 ∧
    after (.homeCellOperation ⟨0, 0, .none, 0x1000, 0x100000, 0x100000, 0, .clear⟩) st (fun t => t.events) =
      some [.lateFault 0 .xcell 0x1A00000000100000 ⟨0x1000, 0⟩] ∧
    after (.combineForward 7 0) { st with combine := [⟨7, 1, 0, 0, 0x100000, .xa32, 5, 0, [⟨0, ⟨0x1000, 0⟩, true, 0x100000⟩]⟩] }
      (fun t => (t.combine.length, t.events.length)) = some (0, 1) := by decide +kernel

/-! ### Strands, messages and weight -/

theorem test_meets_HandlerTableWords : (64 : Nat) ≤ (64 : W).toNat ∧ (63 : W).toNat < 64 ∧ ran (loadVa 0 16 16 0x40) (coreN 63 0x40 0 0) = true ∧
    (entryReservedOk (natBytes 8 0x2000 ++ natBytes 8 (2 ^ 31 + 0x100)) && landingOk (entryOfBytes (natBytes 8 0x2000 ++ natBytes 8 (2 ^ 31 + 0x100))) 4096) = true ∧
    entryReservedOk (natBytes 8 0x2001 ++ natBytes 8 0) = false ∧ landingOk (entryOfBytes (natBytes 8 0x2000 ++ natBytes 8 (2 ^ 31 + 0x101))) 4096 = false ∧
    (entryOfBytes (natBytes 8 0 ++ natBytes 8 (2 ^ 25))).sup = true ∧ (placementOf (coreN 0 0 0 0) 0 1).isSome = true ∧
    ran (produce 18 5 2) (coreN 0 0 0 0) = true ∧ (coreN 0 0 0 0).cur.launches = 0 ∧ (coreS 4 0 0 0).cur.sup = true := by decide
theorem test_htset : entryAfter (.htset ⟨0, 16, 17⟩) (coreN 63 0x40 0 0) 63 = some ⟨0x2000, true, false, false, 2, false, 0x100⟩ ∧
    entryAfter (.htset ⟨0, 16, 17⟩) (coreN 63 0x40 0 0) 62 = some entry0 ∧ trapOf (.htset ⟨0, 16, 17⟩) (coreN 64 0x40 0 0) = some (6, 0x1000000000000040) ∧
    trapOf (.htset ⟨0, 16, 17⟩) (coreN 7 0x40 0 0) = some (6, 0x1200000000000007) ∧ trapOf (.htset ⟨0, 16, 17⟩) (coreN 8 0x100 0 0) = some (6, 0x1300000000000100) := by decide
theorem test_htget : after (.htget ⟨0, 18, 16⟩) (coreN 66 0 0 0) (fun t => (nEntry t.cur 2).val) = some 0x2000 ∧
    after (.htget ⟨0, 18, 16⟩) (coreN 2 0 0 0) (fun t => (nEntry t.cur 2).val) = some 0x8C000100 := by decide
theorem test_masks : (entryAfter (.chmask ⟨0, 16⟩) (coreN 63 0 0 0) 63).map (·.mask) = some true ∧
    trapOf (.chmask ⟨0, 16⟩) (coreN 5 0 0 0) = some (6, 0x1200000000000005) ∧ after (.chmask ⟨0, 16⟩) (coreS 5 0 0 0) (fun t => t.module.frozen) = some (some 1) ∧
    trapOf (.chunmask ⟨0, 16⟩) (coreN 6 0 0 0) = some (6, 0x1200000000000006) ∧
    (entryAfter (.chunmask ⟨0, 16⟩) (coreS 7 0 0 0) 7).map (·.mask) = some false := by decide

theorem test_meets_SendsSplitWeightAndArrive : MayCommit (coreN 0 0 0 0) ∧ kindOf (coreN 0 0 0 0).turn ≠ .clerk ∧
    checkDest (2 * 2 ^ 13 + 1) false false (coreN 0 0 0 0) = .ok (([1], 2), coreN 0 0 0 0) ∧
    checkDest (3 * 2 ^ 56 + 2 * 2 ^ 13) true false (coreN 0 0 0 0) = .ok (([0, 1], 2), coreN 0 0 0 0) ∧
    checkDest (2 * 2 ^ 13 + 1) false true (coreN 0 0 0 0) = .ok (([1], 2), coreN 0 0 0 0) ∧
    payloadOf (2 * 2 ^ 13 + 1) 7 (coreN 0 0 0 0) = .ok ([7], coreN 0 0 0 0) ∧ kindOf (clerkN 0 0 0 0).turn = .clerk ∧
    checkDest (4 * 2 ^ 13 + 1) false false (clerkN 0 0 0 0) = .ok (([1], 4), clerkN 0 0 0 0) :=
  ⟨⟨rfl, rfl⟩, by decide, rfl, rfl, rfl, rfl, by decide, rfl⟩
theorem test_meets_SendsSplitWeightAndArrive_conditions : (coreN 0 0 0 0).cur.wcur.toNat / 3 ≠ 0 ∧ (coreN 0 0 0 0).cur.wcur ≠ 0 ∧
    accessesPending (coreN 0 0 0 0) = false ∧ ran (release 1) (coreN 0 0 0 0) = true ∧
    ran (localWords 0x100 4) (padN 0 0 0 0) = true ∧ pushOk true 0x2000 0x100 0x200 256 = true ∧ (100 : W).toNat < (coreN 0 0 0 0).cur.wcur.toNat ∧
    accessesPending (clerkN 0 0 0 0) = false ∧ (2 ^ 48 - 1 : W).toNat < 2 ^ 48 ∧
    destOk (2 ^ 12) false false = false ∧ destOk (2 * 2 ^ 13 + 2) false false = true ∧ placementOf (coreN 0 0 0 0) 2 1 = none := by decide
theorem test_meets_SendsSplitWeightAndArrive_arrival : placementOf (coreN 0 0 0 0) 2 1 = none ∧ (placementOf (coreN 0 0 0 0) 1 1).isSome = true ∧
    (coreN 0 0 0 0).module.frozen = none ∧ isRoot ⟨1, 2, 0, 5, [7], .plain, 1⟩ = false ∧ (entryAt place0 2).valid = true ∧ (entryAt place0 1).valid = false ∧
    place0.absent = false ∧ runsStrand (coreN 0 0 0 0).cur 1 = true ∧ (1 + 2 ^ 17 : W).getLsbD 17 = true := by decide
theorem test_send : after (.send ⟨0, 16, 17⟩) (coreN (2 * 2 ^ 13 + 1) 7 0 0) (fun t => (t.cur.wcur, t.events)) =
      some (51, [.messageArrival 1 ⟨1, 2, 0, 50, [7], .plain, 1⟩]) ∧
    trapOf (.send ⟨0, 16, 17⟩) (coreN (2 * 2 ^ 13 + 2) 7 0 0) = some (6, 0x1100000000004002) ∧
    trapOf (.send ⟨0, 16, 17⟩) (coreN (1 * 2 ^ 13 + 1) 7 0 0) = some (6, 0x1200000000000001) ∧
    trapOf (.send ⟨0, 16, 17⟩) (coreN (2 ^ 12) 7 0 0) = some (6, 0x1000000000001000) := by decide
theorem test_sends : after (.sendm ⟨0, 16, 17⟩) (coreN (3 * 2 ^ 56 + 2 * 2 ^ 13) 7 0 0) (fun t => (t.cur.wcur, t.events)) =
      some (35, [.messageArrival 0 ⟨1, 2, 0, 33, [7], .plain, 1⟩, .messageArrival 1 ⟨1, 2, 0, 33, [7], .plain, 1⟩]) ∧
    after (.sendw ⟨0, 16, 17, 18⟩) (coreN (2 * 2 ^ 13 + 1) 7 100 0) (fun t => (t.cur.wcur, t.events)) =
      some (1, [.messageArrival 1 ⟨1, 2, 0, 100, [7], .plain, 1⟩]) ∧
    trapOf (.sendw ⟨0, 16, 17, 18⟩) (coreN (2 * 2 ^ 13 + 1) 7 101 0) = some (12, 0x0200000000000065) := by decide +kernel
theorem test_push : after (.push ⟨0, 16, 17⟩) { coreN (2 * 2 ^ 13 + 1) 0x100 0 0 with
      pools := memWrite [] 0x1100 (natBytes 8 0x3000 ++ natBytes 8 0x400 ++ natBytes 8 0x120 ++ natBytes 8 8 ++ natBytes 8 9) }
      (fun t => t.events) = some [.messageArrival 1 ⟨1, 2, 0, 50, [9], .push 0x3000 0x400, 1⟩] := by decide
theorem test_arrival : after (.messageArrival 1 ⟨1, 2, 0, 50, [9], .plain, 1⟩) (coreN 0 0 0 0) (fun t => (coreOf t 1).ni.length) = some 1 ∧
    after (.messageArrival 1 ⟨1, 1, 0, 50, [9], .plain, 1⟩) (coreN 0 0 0 0) (fun t => (t.events.any fun e => e == .homeWeightUpdate (.writeOff 1 50))) = some true ∧
    after (.messageArrival 0 ⟨1, 4, 2316, 0, [1 + 2 ^ 17], .plain, 1⟩) (coreN 0 0 0 0) (fun t => t.cur.request) = some (some (1 + 2 ^ 17)) ∧
    after (.messageArrival 0 ⟨1, 4, 2316, 0, [2 + 2 ^ 17], .plain, 1⟩) (coreN 0 0 0 0) (fun t => t.cur.request) = some none := by decide

/-- The L strand has run for 4,096 cycles. -/
def longRun : State := { coreN 0 0 0 0 with clock := 4096 }

theorem test_meets_StrandsLeaveTheirSlot : InOpen (coreN 0 0 0 0) ∧ (coreN 0 0 0 0).cur.quiesce = false ∧ ran settleStrand (coreN 0 0 0 0) = true ∧
    (coreN 0 0 0 0).memOk = true ∧ recordLoc (coreN 0 0 0 0) 0 1 0x80 = some 0x100080 ∧ awaitsResponse (coreN 0 0 0 0) 0 = false ∧
    matrixBusy (coreN 0 0 0 0) 0 = false ∧ kindOf 2048 = .porter ∧ kindOf 2304 = .carter ∧ ran (checkAccess 5 8 8 .read false 8) (coreN 0 0 0 0) = true := by
  refine ⟨⟨rfl, rfl⟩, ?_⟩; decide
theorem test_meets_StrandsLeaveTheirSlot_events : rotationDue (coreN 0 0 0 0) 0 = false ∧
    ([] : List Watch).length < 1024 ∧ (⟨1, 0x100008, 8, 5, 0x80, none⟩ : Watch) ∈ [(⟨1, 0x100008, 8, 5, 0x80, none⟩ : Watch)] ∧
    ({ slot0 with quiesce := true } : Slot).quiesce = true ∧ poisonedMem (coreN 0 0 0 0) 0x100080 8 = false ∧
    poisonedMem { coreN 0 0 0 0 with poison := [(0x8004, 0)] } 0x100080 8 = true := by decide
theorem test_suspend : after (.suspend ⟨0⟩) (coreN 1 2 3 4) (fun t => (memRead t.mem 0x100080 32, t.cur.live, t.cur.wcur)) =
      some (natBytes 8 (2 ^ 63 + 0x1004) ++ natBytes 8 (101 * 2 ^ 16 + 1) ++ natBytes 8 1 ++ natBytes 8 2, false, 0) ∧
    after (.yield ⟨0⟩) (coreN 1 2 3 4) (fun t => memRead t.mem 0x100080 8) = some (natBytes 8 (2 ^ 62 + 0x1004)) ∧
    (let s : State := { coreN 8 5 3 4 with cur := { (coreN 8 5 3 4).cur with quiesce := true } }
     [Instr.suspend ⟨0⟩, .yield ⟨0⟩, .waitv ⟨0, 16, 17, 1⟩, .retire ⟨0, 16, 17, 0⟩, .gbar ⟨0⟩, .gbarPub ⟨0⟩].all fun i =>
      trapOf i s == some (12, 0x0300000000000000)) = true := by decide
theorem test_leave : after (.done ⟨0⟩) (coreN 1 2 3 4) (fun t => (t.cur.live, (coreOf t 0).returns)) = some (false, [(1, 101)]) ∧
    after (.waitv ⟨0, 16, 17, 1⟩) (coreN 8 5 0 0) (fun t =>
      (memRead t.mem 0x100080 8, t.events.contains (.watchRegister ⟨1, 0x100008, 8, 5, 0x80, none⟩))) = some (natBytes 8 (2 ^ 63 + 0x1004), true) := by decide
theorem test_watches : after (.watchRegister ⟨1, 0x100000, 8, 5, 0x80, none⟩) (coreN 0 0 0 0) (fun t => t.events) =
      some [.watchFire ⟨1, 0x100000, 8, 5, 0x80, none⟩] ∧
    after (.watchRegister ⟨1, 0x100000, 4, 0x55667788, 0x80, none⟩) (coreN 0 0 0 0) (fun t => (t.watches.length, t.events.length)) = some (1, 0) ∧
    after (.lSlotRotation 0) longRun (fun t => t.cur.live) = some true := by decide

theorem test_meets_WeightAtItsHome : homeN.memOk = true ∧ homeRecord homeN 1 = 0x10020 ∧ 0x10020 % 32 = 0 ∧
    canonPa (homeRecord homeN 1) + 32 ≤ canonPa ctx1.compl ∧ (2 ^ 48 - 101 : W).toNat + 100 < 2 ^ 48 ∧ 2 ^ 48 ≤ 100 + (2 ^ 48 - 100 : W).toNat ∧
    qdone { homeN with mem := memWrite homeN.mem 0x10038 (natBytes 8 (2 ^ 17)) } 1 = true ∧ (2 ^ 48 - 1 : W).toNat < 2 ^ 48 ∧ homeN.cur.wcur ≠ 0 ∧
    ({ slot0 with wcur := 0 } : Slot).wcur = 0 ∧ ran (produceNow 18 5) homeN = true ∧ (placementOf homeN 1 1).isSome = true ∧ placementOf homeN 10 1 = none := by decide
theorem test_meets_WeightAtItsHome_places : MayCommit homeN ∧ (coreOf homeN 0).pubs = [] ∧ homeN.events = [] := ⟨⟨rfl, rfl⟩, rfl, rfl⟩
theorem test_weight : after (.homeWeightUpdate (.ret 1 9)) homeN (fun t => (atHomeOf t 1, totalOf t 1, qdone t 1)) = some (69, 100, false) ∧
    after (.homeWeightUpdate (.ret 1 10)) homeN (fun t => (atHomeOf t 1, lostOf t 1, qdone t 1)) = some (70, 30, true) ∧
    after (.homeWeightUpdate (.writeOff 1 10)) homeN (fun t => (atHomeOf t 1, lostOf t 1, qdone t 1)) = some (60, 40, true) := by decide
theorem test_borrow : after (.wborrow ⟨0, 16⟩) homeN (fun t => t.events) = some [.weightGrant 0 1 10 ⟨0x1000, 1⟩] ∧
    after (.weightGrant 0 1 10 ⟨0x1000, 1⟩) homeN (fun t => (totalOf t 1, t.events)) = some (110, [.messageArrival 0 ⟨1, 1, 2324, 10, [10], .plain, 3⟩]) ∧
    trapOf (.wborrow ⟨0, 18⟩) homeN = some (12, 0x0400000000000000) ∧
    after (.wquery ⟨0, 18, 17⟩) homeN (fun t => (nEntry t.cur 2).val) = some 60 ∧
    after (.qarm ⟨0, 17⟩) homeN (fun t => t.events) = some [.homeWeightUpdate (.arm 1 1)] ∧
    trapOf (.qarm ⟨0, 16⟩) homeN = some (6, 0x110000000000000A) := by decide
theorem test_returns : after (.returnCombineFlush 0) (setCore homeN 0 { coreOf homeN 0 with returns := [(1, 3), (2, 1), (1, 4)] })
    (fun t => ((coreOf t 0).returns, t.events.length, t.events.contains (.homeWeightUpdate (.ret 1 7)))) = some ([], 2, true) := by decide

theorem test_meets_StrandsStartAndResume : (coreN 0 0 0 0).memOk = true ∧ kindOf 0 = .core ∧ kindOf 4096 = .core ∧
    chooseWork (coreN 0 0 0 0) 0 true = none ∧ (slotOf (coreN 0 0 0 0) 4096).live = false ∧ badLooks (coreN 0 0 0 0) 0 = [] ∧ place0.absent = false ∧ dword (memRead (coreN 0 0 0 0).mem 0x100100 64) 0 / 2 ^ 62 = 1 ∧
    dword (memRead (coreN 0 0 0 0).mem 0x100100 64) 0 % 4 = 0 ∧ dword (memRead (coreN 0 0 0 0).mem 0x100100 64) 8 % 2 ^ 16 = place0.ctx.toNat ∧
    dword (memRead (coreN 0 0 0 0).mem 0x100040 64) 0 / 2 ^ 62 ≠ 1 ∧ ({ slot0 with resumed := true } : Slot).resumed = true ∧
    brokenHandles (coreN 0 0 0 0) 0 1 = [] ∧ (coreN 0 0 0 0).cur.resumed = false ∧ (coreN 0 0 0 0).cur.live = true ∧ ¬ (entry0.sup = true ∧ entry0.landing = 0) := by decide
theorem test_start : (let y := slotOf (startMessage (coreN 0 0 0 0) 4096 place0 0 ⟨1, 2, 1, 50, [9, 8], .plain, 1⟩ 0xC0) 4096
      ((y.pc, y.wcur, y.crec, y.live), ((qEntry y 0).val, (qEntry y 1).val, (qEntry y 2).val), y.landing)) =
      ((0x2000, 50, 0xC0, true), (9, 0x100, 1), some 2) ∧
    leNat (memRead (startMessage (coreN 0 0 0 0) 4096 place0 0 ⟨1, 2, 1, 50, [9, 8], .plain, 1⟩ 0xC0).pools 0x1108 8) = 8 := by decide
theorem test_record : (let t := startRecord (coreN 0 0 0 0) 4096 place0 0x100 0x100100
      ((slotOf t 4096).pc, (slotOf t 4096).wcur, (slotOf t 4096).fpflags, (nEntry (slotOf t 4096) 0).val, leNat (memRead t.mem 0x100100 8))) =
      (0x7004, 9, 3, 5, 2 ^ 63 + 2 ^ 62 + 3 * 2 ^ 56 + 0x7004) := by decide
theorem test_preempt_resume : after (.preemptResume 0) { coreN 0 0 0 0 with
      cur := { (coreN 0 0 0 0).cur with resumed := true }
      pools := memWrite [] (1024 + 256 * 2048 + 0x40) (natBytes 8 0x4004) } (fun t => (t.cur.hold, t.cur.resumed)) = some (some 65536, false) := by decide
/-! ### Launching, growing, retiring, and where a strand stands -/

/-- A context of coordinates and extents, with GEOM a grid of 2 columns of 1 × 1 tiles over 64 × 40. -/
def gridN (a b : W) : State :=
  let s := coreN a b 0 0
  let k := coreOf s 0
  setCore { s with cur := { s.cur with geom := 64 + 40 * 2 ^ 16 + 2 ^ 32 + 2 ^ 40 + 2 * 2 ^ 48 }
                   pools := memWrite [] 0x1010 (natBytes 8 4 ++ natBytes 8 10) } 0
    { k with placements := [{ place0 with coords := [1, 5], exts := [2, 0], member := 1, group := 3, nphase := 2, ptab := 0x10 }] }

theorem test_meets_PlacesTileQueuesAndPhases : (placementOf (gridN 0 0) 0 1).isSome = true ∧ ran (produce 18 5 2) (gridN 0 0) = true ∧
    ran (localPlace 16 16 false 0) (gridN 0 0) = true ∧ ran (loadAt ⟨.pool 0 0x1010, false⟩ 16 0 16) (gridN 0 0) = true ∧ (0 : Nat) < 2 ∧
    (clusterAt (gridN 0 0) 0).tileQ.length < 8 ∧ ran (produceNow 18 5) (gridN 0 0) = true ∧ ran (loadVa 0 4 4 8) (gridN 0 0) = true ∧
    ran (reserve 18) (gridN 0 0) = true ∧ (1 : W).toNat < (2 : BitVec 16).toNat ∧ (2 : BitVec 16).toNat ≤ (2 : W).toNat ∧
    ran (checkAccess 0 8 8 .read true 8) (gridN 0 0) = true ∧ ran (evictPlace (.mem 0x100008) 8) (gridN 0 0) = true ∧
    ran (loadAt ⟨.mem 0x100008, false⟩ 8 0 8) (gridN 0 0) = true := by decide
theorem test_meets_PlacesTileQueuesAndPhases_places : MayCommit (gridN 0 0) ∧ InOpen (gridN 0 0) ∧ (gridN 0 0).cur.launches = 0 ∧
    ((List.range 8).map fun i => (⟨BitVec.ofNat 16 (i + 2), 0, 0⟩ : TileQueue)).length = 8 := ⟨⟨rfl, rfl⟩, ⟨rfl, rfl⟩, rfl, rfl⟩
theorem test_coord : after (.coord ⟨0, 18, 16⟩) (gridN 1 0) (fun t => (nEntry t.cur 2).val) = some 5 ∧
    after (.coord ⟨0, 18, 16⟩) (gridN 10 0) (fun t => (nEntry t.cur 2).val) = some 3 ∧
    after (.coord ⟨0, 18, 16⟩) (gridN 12 0) (fun t => (nEntry t.cur 2).val) = some 0x80 ∧
    after (.geom ⟨0, 18, 16⟩) (gridN 0 0) (fun t => (nEntry t.cur 2).val) = some 32 ∧
    after (.geom ⟨0, 18, 16⟩) (gridN 3 0) (fun t => (nEntry t.cur 2).val) = some 8 := by decide
theorem test_slice : after (.slice ⟨0, 18, 16⟩) (gridN 1 0) (fun t => (nEntry t.cur 2).val) = some 8 ∧
    after (.slice ⟨0, 18, 16⟩) (gridN 0x101 0) (fun t => (nEntry t.cur 2).val) = some 2 ∧
    after (.slice ⟨0, 18, 16⟩) (gridN 0x111 0) (fun t => (nEntry t.cur 2).val) = some 0 := by decide
theorem test_tile_queue : (after (.tqinit ⟨0, 16, 17⟩) (gridN 4 10) fun t => (clusterAt t 0).tileQ) = some [⟨1, 4, 10⟩] ∧
    (after (.fetcht ⟨0, 18, 16⟩) (setCluster (gridN 4 0) 0 { Cluster.reset with tileQ := [⟨1, 8, 10⟩] }) fun t =>
      ((nEntry t.cur 2).val, (clusterAt t 0).tileQ)) = some (8, [⟨1, 10, 10⟩]) ∧
    (after (.fetcht ⟨0, 18, 16⟩) (setCluster (gridN 4 0) 0 { Cluster.reset with tileQ := [⟨1, 10, 10⟩] }) fun t => (nEntry t.cur 2).val) =
      some 0xFFFFFFFFFFFFFFFF ∧
    trapOf (.tqinit ⟨0, 16, 17⟩) (setCluster (gridN 4 0) 0 { Cluster.reset with tileQ := (List.range 8).map fun i => ⟨BitVec.ofNat 16 (i + 2), 0, 0⟩ }) =
      some (23, 0x0300000000000004) := by decide
theorem test_phase : after (.phase ⟨0, 17⟩) (gridN 0 1) (fun t => (t.cur.phopen, t.cur.phexp, t.cur.phcnt)) = some (true, 0, 0) ∧
    trapOf (.phase ⟨0, 17⟩) (gridN 0 2) = some (6, 0x1700000000000002) ∧
    after (.phend ⟨0⟩) { gridN 0 0 with cur := { (gridN 0 0).cur with phopen := true, phAt := 0 }, clock := 12 } (fun t => (t.cur.phopen, t.cur.phcnt)) =
      some (false, 12) := by decide
theorem test_spin_and_nread : after (.spinw ⟨0, 16, 17⟩) (gridN 8 0) (fun t => t.cur.pc) = some 0x1000 ∧
    after (.spinw ⟨0, 16, 17⟩) (gridN 8 1) (fun t => t.cur.pc) = some 0x1004 ∧
    starts (.nread ⟨0, 18, 16, 17⟩) (gridN 4 0) (.loadResponse ⟨0, 1, .reg 2, 0x11223344, 0⟩) = true := by decide
theorem test_nread_timeout : after (.nreadTimeout ⟨0, 9, .reg 2, 5, 0⟩) { st with cur := { slot0 with n := slot0.n.set 2 ⟨0, 9, 0⟩ } }
    (fun t => (nEntry t.cur 2).val) = some 0xFFFFFFFFFFFFFFFF := by decide +kernel

theorem test_meets_LaunchingGrowingAndRetiring : MayCommit (launcher 3 0x200 0x400 10) ∧ childMode (coreN 0 0 0 0) 1 ≠ 1 ∧ childMode (launcher 3 0 0 0) 1 = 1 ∧
    (launcher 3 0 0 0).cur.wcur.toNat ≤ (101 : W).toNat ∧ (100 : W).toNat < (launcher 3 0 0 0).cur.wcur.toNat ∧
    ran (checkAccess 2 64 64 .both false 0x200) (launcher 3 0 0 0) = true ∧ ran (checkAccess 1 8 8 .write false (0x400 + 8)) (launcher 3 0 0 0) = true ∧
    accessesPending (launcher 3 0 0 0) = false ∧ ran (release 3) (launcher 3 0 0 0) = true ∧
    ran (evictPlace (.mem 0x100408) 8) (launcher 3 0 0 0) = true ∧ ran (reserve 18) (launcher 3 0 0 0) = true := by
  refine ⟨⟨rfl, rfl⟩, ?_⟩; decide +kernel
theorem test_meets_LaunchingGrowingAndRetiring_home : poisonedMem (launcher 3 0 0 0) 0x100200 64 = false ∧
    poisonedMem { launcher 3 0 0 0 with poison := [(0x8010, 1)] } 0x100200 64 = true ∧ unitLoc 0x100200 = .mem 0x100200 ∧
    answerOf (enqHome (launcher 3 0 0 0) (.mem 0x100200) 0x200000 true 0x1000000000400) = 0 ∧
    answerOf (enqHome (launcher 19 0 0 0) (.mem 0x100200) 0x200000 true 0x1000000000400) = 1 ∧
    answerOf (enqHome (coreN 0 0 0 0) (.mem 0x100200) 0x200000 true 0x1000000000400) = 101 ∧
    walk (launcher 3 0 0 0) 0x200000 0x408 = .mapped 0x100408 65536 0b1011 := by decide +kernel
theorem test_meets_LaunchingGrowingAndRetiring_grow : MayCommit (grower 2) ∧ (ctxOf (grower 2) 1).isSome = true ∧ childMode (coreN 0 0 0 0) 1 ≠ 2 ∧
    childMode (grower 2) 1 = 2 ∧ totalOf (grower 2) 1 + 65535 * 7 < 2 ^ 48 ∧ (mintWeight (grower 2) 1 14).isSome = true ∧ ran (produceNow 18 5) (grower 2) = true := by
  refine ⟨⟨rfl, rfl⟩, ?_⟩; decide
theorem test_meets_LaunchingGrowingAndRetiring_retire : InOpen (retirer 3) ∧ (retirer 3).cur.quiesce = false ∧ ran (localWords 0x200 5) (retirer 3) = true ∧
    inheritOk [3, 0, 0, 0, 0] = true ∧ inheritOk [2 ^ 20, 0, 0, 0, 0] = false ∧ (launchOf (retirer 3) 1).map (·.succ) = some true ∧
    ran settleStrand (retirer 3) = true ∧ runsStrand (slotOf (retirer 3) 4096) 1 = false ∧ ran (release 1) (retirer 3) = true ∧
    shapeRule 0x0101 0x0101 (inheritOf [3, 0, 0, 0, 0]) = true ∧ shapeRule 0x0101 0x0201 (inheritOf [3, 0, 0, 0, 0]) = false := by
  refine ⟨⟨rfl, rfl⟩, ?_⟩; decide
theorem test_meets_LaunchingGrowingAndRetiring_record : ran (successorRecord 0x800) (retirer 3) = true := by decide +kernel
theorem test_meets_LaunchingGrowingAndRetiring_start : (retirer 3).memOk = true ∧ (placementOf (retirer 3) 0 1).isSome = true ∧
    successor0.shapeImage.length ≤ 256 ∧ 1 ≤ spadu successor0.partw ∧
    place0.pbase.toNat + (regu successor0.partw + spadu successor0.partw + accuOf successor0.partw) * 4096 ≤ 2 ^ 18 := by decide
theorem test_launch : after (.launch ⟨0, 18, 16, 17, 18⟩) (launcher 3 0x200 0x400 10) (fun t => (t.cur.wcur, t.events.contains (.launchAtHome { launchReq0 with tag := 1 }))) =
      some (91, true) ∧
    trapOf (.launch ⟨0, 18, 16, 17, 18⟩) (launcher 3 0x200 0x400 101) = some (12, 0x0200000000000065) ∧
    trapOf (.launch ⟨0, 18, 16, 17, 18⟩) (coreN 0x200 0x400 10 0) = some (6, 0x1500000000000200) := by decide +kernel
theorem test_launch_home : after (.launchAtHome launchReq0) (launcher 3 0 0 0) (fun t =>
      (leNat (memRead t.mem 0x100408 1), leNat (memRead t.mem 0x100518 7), leNat (memRead t.mem 0x100218 1))) = some (10, 0x1000000000400, 4) ∧
    after (.launchAtHome launchReq0) (launcher 19 0 0 0) (fun t => (t.events.contains (.launchStatus ⟨0, 9, .reg 2, 1, 0⟩ 10))) = some true ∧
    after (.launchStatus ⟨0, 9, .none, 1, 0⟩ 10) (launcher 19 0 0 0) (fun t => t.cur.wcur) = some 111 := by decide +kernel
theorem test_grow : after (.grow ⟨0, 18, 16⟩) (grower 2) (fun t => (totalOf t 1, (nEntry t.cur 2).val, ((queueAt t 0).pending.map (·.groups)))) =
      some (114, 2, [[(2, 7), (3, 7)]]) ∧
    after (.grow ⟨0, 18, 16⟩) (grower 0) (fun t => (totalOf t 1, (nEntry t.cur 2).val)) = some (100, 0xFFFFFFFFFFFFFFFF) ∧
    trapOf (.grow ⟨0, 18, 16⟩) (coreN 2 0 0 0) = some (6, 0x1500000000000002) := by decide
theorem test_retire : (let t := startSuccessor (retirer 1) 0 place0 successor0 (inheritOf [1, 0, 0, 0, 0]) 1
    ((t.cur.pc, t.cur.wcur, (nEntry t.cur 0).val, (nEntry t.cur 1).val), memGet t.pools 0x1300)) = ((0x6000, 101, 0x800, 0), 0) := by decide +kernel

/-! ### Gangs and subscriptions -/

theorem test_meets_BarriersAndSubscriptions : InOpen (gang 0 0 0 [] []) ∧ (gang 0 0 0 [] []).cur.quiesce = false ∧ (ctxOf (gang 0 0 0 [] []) 1).isSome = true ∧
    launch0.gang = false ∧ accessesPending (gang 0 0 0 [] []) = false ∧ accessesPending (emit (gang 0 0 0 [] []) (.storePerform ⟨0, 1, .mem 0, [1]⟩)) = true ∧
    (coreOf (subbed 0) 1).pubs.any (fun e => e.2.batch.isSome) = true ∧ updatesInFlight { subbed 0 with events := [.updateApply update0] } 1 (fun _ => true) = true ∧
    allArrived { ctx1 with arrivals := [0, 1] } = true ∧ allArrived { ctx1 with arrivals := [4096, 4096] } = false ∧
    (gang 0 0 0 [] []).turn.toNat ∉ ([] : List Nat) ∧ (gang 0 0 0 [] [0]).turn.toNat ∈ [0] ∧ (∃ h ∈ [4096], h % 4096 = 0) ∧
    (coreOf (gang 0 0 0 [] []) 0).pubs.any (fun e => e.2.batch.isSome) = false ∧ updatesInFlight (gang 0 0 0 [] []) 0 (fun _ => true) = false := by
  refine ⟨⟨rfl, rfl⟩, ?_⟩; decide
theorem test_meets_BarriersAndSubscriptions_subscribe : MayCommit (gang 0 0 0 [] []) ∧ isGang (coreN 0 0 0 0) 1 = false ∧ isGang (gang 0 0 0 [] []) 1 = true ∧
    (2 ^ 31 + 2 ^ 18 + 0x100 : W).getLsbD 31 = true ∧ (2 ^ 31 + 2 ^ 18 + 0x100 : W).toNat < 2 ^ 32 ∧
    memberCore (gang 0 0 0 [] []) 1 1 = some 1 ∧ 1 < memberCount (gang 0 0 0 [] []) 1 ∧ (placementOf (gang 0 0 0 [] []) 1 1).isSome = true ∧
    0x100 + 0xF00 ≤ padSize place0.partw ∧ ran (reserve 18) (gang 0 0 0 [] []) = true ∧ (gang 0 0 0 [] []).memOk = true ∧
    padBase place0.partw place0.pbase + 0x100 + 32 ≤ 2 ^ 18 ∧ (lowestFree (coreOf (gang 0 0 0 [] []) 1).pubs 16).isSome = true := by
  refine ⟨⟨rfl, rfl⟩, ?_⟩; decide
theorem test_meets_BarriersAndSubscriptions_full : lowestFree ((List.range 16).map fun i => (i, i)) 16 = none ∧
    lowestFree ((List.range 64).map fun i => (i, i)) 64 = none ∧ lowestFree (coreOf (gang 0 0 0 [] []) 1).subs 64 = some 0 := by decide +kernel
theorem test_meets_BarriersAndSubscriptions_updates : liveHandle (subbed 0) 1 0x100 = some (1, 0) ∧ liveHandle (subbed 0) 1 0 = none ∧
    updatesInFlight (subbed 0) 1 (fun j => j == 0) = false ∧ updatesInFlight { subbed 0 with events := [.updateApply update0] } 1 (fun j => j == 0) = true ∧
    (mapFind (coreOf (subbed 0) 1).subs 0).isSome = true ∧ ((coreOf (subbed 0) 0).expect.find? (fun e => e.pubCore == 1 && e.slot == 0)).isSome = true ∧
    (update0.bytes.map (·.1)).Nodup ∧ (∀ b ∈ update0.bytes, 0x1200 + b.1 < 2 ^ 18) ∧ [0].Nodup ∧
    (updateLog (subbed 0) 0 place0).2 < (0 + 1) * 64 := by decide
theorem test_meets_BarriersAndSubscriptions_log : (0 + 1) * 64 ≤ (updateLog { subbed 0 with
    mem := memWrite [] (regEntry (subbed 0) 0 1 + 52) (natBytes 4 64) } 0 place0).2 := by decide
theorem test_gbar : trapOf (.gbar ⟨0⟩) (coreN 0 0 0 0) = some (16, 0x0100000000000000) ∧
    after (.gbar ⟨0⟩) (gang 0 0 0 [] []) (fun t => ((ctxOf t 1).map (·.arrivals), t.cur.pc)) = some (some [0], 0x1000) ∧
    after (.gbarPub ⟨0⟩) (gang 0 0 0 [1] []) (fun t => t.events) = some [.gbarEpisodeComplete 1] ∧
    after (.gbar ⟨0⟩) (gang 0 0 0 [] [0, 1]) (fun t => ((ctxOf t 1).map (·.passed), t.cur.pc)) = some (some [1], 0x1004) ∧
    after (.gbarEpisodeComplete 1) (gang 0 0 0 [1, 0] []) (fun t => (ctxOf t 1).map fun c => (c.arrivals, c.passed)) = some (some ([], [1, 0])) := by decide
/-- The second arrival of core 0 counts toward the next episode; GBAR.PUB closes an open batch before it arrives. -/
theorem test_gbar_more :
    (after (.gbar ⟨0⟩) (gang 0 0 0 [4096] []) fun t => (ctxOf t 1).map fun c => (c.arrivals, c.later)) = some (some ([4096], [0])) ∧
    (after (.gbarEpisodeComplete 1) { gang 0 0 0 [] [] with ctxs := [(1, { ctx1 with arrivals := [4096, 1], later := [0] })] } fun t =>
      (ctxOf t 1).map fun c => (c.passed, c.arrivals, c.later)) = some (some ([4096, 1], [0], [])) ∧
    (let s : State := { subbed 0 with turn := 1 }
     after (.gbarPub ⟨0⟩) s (fun t => (t.events.length, t.cur.pc)) = some (1, 0x1000) ∧
     after (.pubfence ⟨0⟩) { s with events := [.updateApply update0] } (fun t => t.cur.pc) = some 0x1000) := by decide +kernel
theorem test_subscribe : (after (.subscribe ⟨0, 18, 16, 17, 18⟩) (gang (2 ^ 31 + 2 ^ 18 + 0x100) 0x200 32 [] []) fun t => t.events) =
      some [.subscriptionEstablish { subReq0 with tag := 1 }] ∧
    trapOf (.subscribe ⟨0, 18, 16, 17, 18⟩) (gang (2 ^ 31 + 2 ^ 18 + 0x100) 0x200 0xF20 [] []) = some (6, 0x1300000080040100) ∧
    (after (.subscriptionEstablish subReq0) (gang 0 0 0 [] []) fun t => (mapFind (coreOf t 1).subs 0)) = some (some ⟨1, 1, 0, false, 0, 0x200, 1, []⟩) := by decide +kernel
theorem test_unsub : after (.unsub ⟨0, 16⟩) (subbed 0x100) (fun t => ((coreOf t 1).subs, t.cur.pc)) = some ([], 0x1004) ∧
    trapOf (.unsub ⟨0, 16⟩) (subbed 0) = some (6, 0x1600000000000000) ∧
    after (.pubfence ⟨0⟩) { subbed 0 with cores := [] } (fun t => t.cur.pc) = some 0x1004 := by decide
theorem test_updates : after (.batchWindowExpiry 1 0) (subbed 0) (fun t => t.events) = some [.updateApply ⟨1, 1, 0, 0, 0x300, 1, [(3, 0x77)], List.replicate 32 0⟩] ∧
    after (.updateApply update0) (subbed 0) (fun t => memGet t.pools 0x1203) = some 0x77 ∧
    after (.updateApply { update0 with seq := 2 }) (subbed 0) (fun t => memGet t.pools 0x1203) = some 0 ∧
    after (.updateLogWrite update0) (subbed 0) (fun t => (mapFind (coreOf t 1).subs 0).map (·.broken)) = some (some true) := by decide
/-! ### Vectors -/

theorem test_meets_LanesAreClaimedAndGranted : MayCommit (vecN 32 0 none) ∧ kindOf (vecN 0 0 none).turn = .core ∧ (coreN 0 0 0 0).cur.partw.toNat / 2 ^ 24 % 16 = 0 ∧
    (vecN 32 0 none).cur.partw.toNat / 2 ^ 24 % 16 ≠ 0 ∧ (32 : W) ≠ 0 ∧ (vecN 32 0 none).cur.vgrant = 0 ∧ (∀ w ∈ (clusterAt (vecN 32 0 none) 0).vwait, w.h ≠ 0) ∧
    ran (produceNow 18 32) (vecN 32 0 none) = true ∧ ({ slot0 with vgrant := 2 } : Slot).vgrant ≠ 0 ∧ nextClaim (waiting 0 false) 0 = none ∧
    nextClaim (waiting 8 false) 0 = some (⟨1, 2, false⟩, 2) ∧ nextClaim (waiting 2 true) 0 = some (⟨1, 2, true⟩, 2) ∧
    (∃ w ∈ (clusterAt { waiting 8 false with turn := 1 } 0).vwait, w.h = 1) ∧ (coreN 0 0 0 0).cur.vlanes = 0 := by
  refine ⟨⟨rfl, rfl⟩, ?_⟩; decide
theorem test_meets_LanesAreClaimedAndGranted_waits : min 1 (min 1 (0 + 0)) = 0 ∧
    (clusterAt (setCluster (coreN 33 0 0 0) 0 { Cluster.reset with freeUnits := 0 }) 0).freeUnits = 0 ∧ (8 : Nat) ≤ 8 := by decide
theorem test_vclaim : after (.vclaim ⟨0, 18, 16⟩) (vecN 33 0 none) (fun t => (t.cur.vlanes, (nEntry t.cur 2).val, (clusterAt t 0).freeUnits)) = some (64, 64, 7) ∧
    after (.vclaim ⟨0, 18, 16⟩) (vecN 256 0 none) (fun t => t.cur.vlanes) = some 128 ∧
    trapOf (.vclaim ⟨0, 18, 16⟩) (vecN 0 0 none) = some (19, 2) ∧ trapOf (.vclaim ⟨0, 18, 16⟩) (coreN 5 0 0 0) = some (19, 1) ∧
    trapOf (.vaddI32 ⟨0, 2, 0, 1⟩) (coreN 5 0 0 0) = some (19, 0) ∧
    after (.vrel ⟨0⟩) (vecN 0 0 none) (fun t => (t.cur.vlanes, t.cur.v, (clusterAt t 0).freeUnits)) = some (0, [], 9) ∧
    after (.vclaimGrant 0) (waiting 8 false) (fun t => ((slotOf t 1).vlanes, (slotOf t 1).vgrant, (clusterAt t 0).freeUnits)) = some (64, 2, 6) := by decide

theorem test_meets_IntegerLanesMasksAndMovement : (vecN 1 0 none).cur.vlanes ≠ 0 ∧ ran (reserve 18) (vecN 1 0 none) = true ∧
    ran (readSel 16) (vecN 1 0 none) = true ∧ (2 : Nat) ≤ (2 : BitVec 2).toNat ∧
    ((vecN 1 0 none).cur.m[0]!).getLsbD 0 = true ∧ (∀ j, j < 32 → ((vecN 1 0 none).cur.m[1]!).getLsbD j = false) := by decide
theorem test_lanes : laneAfter (.vaddI32 ⟨0, 2, 0, 1⟩) (vecN 0 0 none) 513 = some 0x7FFFFFFE ∧ laneAfter (.vsubI32 ⟨0, 2, 0, 1⟩) (vecN 0 0 none) 512 = some 2 ∧
    laneAfter (.vmulI32 ⟨0, 2, 0, 1⟩) (vecN 0 0 none) 513 = some 0x80000001 ∧ laneAfter (.vminI32 ⟨0, 2, 0, 1⟩) (vecN 0 0 none) 513 = some 0xFFFFFFFF ∧
    laneAfter (.vminUi32 ⟨0, 2, 0, 1⟩) (vecN 0 0 none) 513 = some 0x7FFFFFFF ∧ laneAfter (.vmaxI32 ⟨0, 2, 0, 1⟩) (vecN 0 0 none) 513 = some 0x7FFFFFFF := by decide
theorem test_lanes_logic : laneAfter (.vmaxUi32 ⟨0, 2, 0, 1⟩) (vecN 0 0 none) 513 = some 0xFFFFFFFF ∧ laneAfter (.vand ⟨0, 2, 0, 1⟩) (vecN 0 0 none) 512 = some 1 ∧
    laneAfter (.vor ⟨0, 2, 0, 1⟩) (vecN 0 0 none) 512 = some 7 ∧ laneAfter (.vxor ⟨0, 2, 0, 1⟩) (vecN 0 0 none) 512 = some 6 ∧
    laneAfter (.vshl ⟨0, 2, 0, 1⟩) (vecN 0 0 none) 512 = some 40 ∧ laneAfter (.vshr ⟨0, 2, 0, 1⟩) (vecN 0 0 none) 513 = some 0 := by decide
theorem test_masked_lanes : laneAfter (.vaddI32 ⟨0, 0, 0, 1⟩) (vecN 0 0 (masked 0)) 1 = some 0xFFFFFFFF ∧
    laneAfter (.vaddI32 ⟨0, 0, 0, 1⟩) (vecN 0 0 (masked 1)) 1 = some 0 ∧ laneAfter (.vsel ⟨0, 2, 0, 1⟩) (vecN 0 0 (masked 0)) 513 = some 0x7FFFFFFF ∧
    laneAfter (.vsel ⟨0, 2, 0, 1⟩) (vecN 0 0 (masked 0)) 512 = some 5 := by decide
theorem test_masks_words : maskAfter (.mnot ⟨0, 1, 0⟩) (vecN 0 0 none) 1 = some 0xFFFFFFFA ∧ maskAfter (.mor ⟨0, 1, 0, 1⟩) (vecN 0 0 none) 1 = some 5 ∧
    maskAfter (.mand ⟨0, 1, 0, 1⟩) (vecN 0 0 none) 1 = some 0 ∧ scalarAfter (.mpop ⟨0, 18, 0⟩) (vecN 0 0 none) = some 2 ∧
    scalarAfter (.mfirst ⟨0, 18, 0⟩) (vecN 0 0 none) = some 0 ∧ scalarAfter (.mfirst ⟨0, 18, 1⟩) (vecN 0 0 none) = some 0xFFFFFFFFFFFFFFFF := by decide +kernel
theorem test_movement : laneAfter (.vperm ⟨0, 2, 0, 1⟩) (vecN 0 0 none) 515 = some 5 ∧ laneAfter (.vlsh ⟨0, 2, 0, 16⟩) (vecN 1 0 none) 513 = some 5 ∧
    laneAfter (.vbcast ⟨0, 2, 16⟩) (vecN 0x900000007 0 none) 514 = some 7 ∧
    laneAfter (.vbcast ⟨0, 2, 16⟩) (vecN 0x900000007 0 (some ⟨0, 0, 0, 0, 1, 0⟩)) 515 = some 9 := by decide
theorem test_reductions : scalarAfter (.vredAdd ⟨0, 18, 1, 2⟩) (vecN 0 0 none) = some 0xC0000002 ∧
    scalarAfter (.vredMin ⟨0, 18, 0, 2⟩) (vecN 0 0 none) = some 0xFFFFFFFFFFFFFFFF ∧
    scalarAfter (.vredMax ⟨0, 18, 1, 2⟩) (vecN 0 0 none) = some 0x7FFFFFFF := by decide +kernel
theorem test_lane_result : after (.laneResult ⟨0, [(512, 7)], [(257, true)], 1, none⟩) (vecN 0 0 none) (fun t =>
    (lane t.cur 2 0, t.cur.m[1]!, t.cur.fpflags)) = some (7, 2, 1) := by decide +kernel

theorem test_meets_VectorFpAndMemoryLanes : (vecN 0 0 none).cur.vlanes ≠ 0 ∧ ran (roundingFor 0) (vecN 0 0 none) = true ∧ ran (roundingFor 31) (vecN 0 0 none) = true ∧
    ((flagNV &&& (0x1F : BitVec 5)) ≠ 0) ∧ (flagNX &&& (vecN 0 0 none).cur.fpte) = 0 ∧ ran (reserve 18) (vecN 0 0 none) = true ∧
    activeElements (vecN 0 0 (some ⟨0, 2, 0, 0, 0, 0⟩)).cur 32 32 0 = [] ∧ ran (lanePlace false 0) (vecMem 0 0) = true ∧ ran (lanePlace true 8) (vecMem 0 0) = true ∧
    ran (scratchPlace 0x108 4 true) (vecMem 0 0) = true ∧ ran (loadAt ⟨.mem 0x100008, false⟩ 4 0 8) (vecMem 0 0) = true ∧
    ran (storeAt ⟨.mem 0x100008, false⟩ (natBytes 4 1)) (vecMem 0 0) = true := by decide
theorem test_meets_VectorFpAndMemoryLanes_real : IsReal (unpack fp32 0x40800000) 4 ∧ (0 : ℝ) < 4 := by
  refine ⟨?_, by norm_num⟩
  rw [show unpack fp32 0x40800000 = .fin false 8388608 (-21) by decide]
  norm_num [IsReal]
theorem test_lane_fp : laneAfter (.vaddF ⟨0, 2, 0, 1, 1⟩) (vecN 0 0 none) 514 = some 0x40400000 ∧ laneAfter (.vsubF ⟨0, 2, 0, 1, 1⟩) (vecN 0 0 none) 514 = some 0xBF800000 ∧
    laneAfter (.vmulF ⟨0, 2, 0, 1, 1⟩) (vecN 0 0 none) 514 = some 0x40000000 ∧ laneAfter (.vfmax ⟨0, 2, 0, 1, 1⟩) (vecN 0 0 none) 514 = some 0x40000000 ∧
    laneAfter (.vfmin ⟨0, 2, 0, 1, 1⟩) (vecN 0 0 none) 514 = some 0x3F800000 := by decide +kernel
theorem test_lane_fma_convert : laneAfter (.vfma ⟨0, 2, 0, 1, 1⟩) (vecN 0 0 (some ⟨0, 0, 0, 0, 1, 0⟩)) 514 = some 0x40800000 ∧
    laneAfter (.vcvt ⟨0, 2, 0, 0, 4⟩) (vecN 0 0 none) 514 = some 1 ∧ maskAfter (.vcmp ⟨0, 1, 0, 1, 0, 2⟩) (vecN 0 0 none) 1 = some 0b110 ∧
    (after (.vaddF ⟨0, 2, 0, 1, 1⟩) { vecN 0 0 none with cur := { (vecN 0 0 none).cur with fpte := 31, v := [(0, 0x7F800000), (256, 0xFF800000)] } }
      fun t => t.cur.fpTraps.map fun q => (q.cycle, q.info)) =
      (encode (.vaddF ⟨0, 2, 0, 1, 1⟩)).map fun w => [(1, w ++ (0x1010 : BitVec 32))] := by decide +kernel
theorem test_lane_transcend : laneAfter (.vrcp ⟨0, 2, 1⟩) (vecN 0 0 none) 514 = some 0x3F000000 ∧ laneAfter (.vrsqrt ⟨0, 2, 0⟩) (vecN 0 0 none) 514 = some 0x3F800000 ∧
    laneAfter (.vexp2 ⟨0, 2, 3⟩) (vecN 0 0 none) 514 = some 0x3F800000 ∧
    scalarAfter (.vredMax ⟨0, 18, 1, 0⟩) (vecN 0 0 (masked 0)) = some 0x40000000 := by decide +kernel
theorem test_vector_loads : laneAfter (.vlds ⟨0, 2, 16, 17⟩) (vecMem 0x100 0) 514 = some 0xCCCCCCCC ∧ laneAfter (.vlds ⟨0, 2, 16, 17⟩) (vecMem 0x100 0) 513 = some 0 ∧
    laneAfter (.vld ⟨0, 2, 16, 17⟩) (vecMem 0 0) 512 = some 0x55667788 ∧ laneAfter (.vgath ⟨0, 2, 16, 1⟩) (vecMem 0x38 0) 512 = some 0x2000 := by decide +kernel
theorem test_vector_stores : after (.vsts ⟨0, 0, 16, 17⟩) (vecMem 0x100 0) (fun t => leNat (memRead t.pools (5 * 4096 + 0x100) 12)) = some 0x33AAAAAAAA00000011 ∧
    after (.vst ⟨0, 0, 16, 17⟩) (vecMem 0x400 0) (fun t => (coreOf t 0).l1.map fun l => (l.line, l.dirty, l.bytes.take 12)) =
      some [(0x8020, true, [0x11, 0, 0, 0, 0, 0, 0, 0, 0x33, 0, 0, 0])] ∧
    after (.vscat ⟨0, 0, 16, 1⟩) (vecMem 0x400 0) (fun t => (coreOf t 0).l1.map fun l => (l.line, l.bytes.drop 8 |>.take 12)) =
      some [(0x8020, [0x11, 0, 0, 0, 0, 0, 0, 0, 0x33, 0, 0, 0])] := by decide +kernel
/-! ### The matrix array -/

theorem test_meets_LeasesOperandSlotsAndTiles : MayCommit (tileN 0 1) ∧ (tileN 0 1).cur.lease.held = true ∧
    (tileN 0 1).clock - (tileN 0 1).cur.lease.since < (tileN 0 1).cur.lease.cyc.toNat ∧ (tileN 0 1).cur.lease.cmds ≠ 0 ∧
    ¬ (coreN 0 0 0 0).cur.lease.held = true ∧ (coreN 0 0 0 0).cur.partw.toNat / 2 ^ 16 % 256 = 0 ∧ (tileN 0 1).cur.partw.toNat / 2 ^ 16 % 256 ≠ 0 ∧
    (clusterAt (coreN 0 0 0 0) 0).holder = none ∧ nextLessee { Cluster.reset with leaseWait := [1, 0] } = some 0 ∧ nextLessee Cluster.reset = none ∧
    mapFind (clusterAt (tileN 0 1) 0).oslots 2 = none ∧ ran (produceNow 18 5) (tileN 0 1) = true := by
  refine ⟨⟨rfl, rfl⟩, ?_⟩; decide
theorem test_meets_LeasesOperandSlotsAndTiles_full : ∀ n, n < 256 → mapFind ((List.range 256).map fun i => (i, (⟨0, 1⟩ : OSlot))) n ≠ none := by decide +kernel
theorem test_meets_LeasesOperandSlotsAndTiles_slots : claimedSlot 1 (tileN 0 1) = .ok (1, tileN 0 1) ∧ exchangeWait (tileN 0 1) = .ok ((), tileN 0 1) ∧
    useTile (.azero ⟨0, 0⟩) 0 (tileN 0 1) = .ok ((), tileN 0 1) ∧ namedTile (.medge ⟨0, 16⟩) 0 (tileN 0 1) = .ok (false, tileN 0 1) ∧
    touchTile (.medge ⟨0, 16⟩) 0 (tileN 0 1) = .ok ((), tileN 0 1) := ⟨rfl, rfl, rfl, rfl, rfl⟩
theorem test_meets_LeasesOperandSlotsAndTiles_more : (∃ m ∈ inFlight (clusterAt (queuedMma (tileN 0 1)) 0), m.slotA = 0 ∨ m.slotB = 0) ∧
    ran (checkAccess 0 1 64 .read true 0x800) (tileN 0 0x800) = true ∧ ran (checkAccess 0 1 1 .read true (0x800 + 2047)) (tileN 0 0x800) = true ∧
    (encode (.azero ⟨0, 0⟩)).isSome = true ∧ (0 + 1) * 4096 ≤ (tileN 0 1).cur.partw.toNat / 2 ^ 16 % 256 * 4096 ∧
    ((inFlight (clusterAt (queuedMma (tileN 0 1)) 0)).find? fun c => c.core == 0 && c.tile == 0) = some mma0 ∧ (tileS 0).cur.sup = true ∧
    (inFlight (clusterAt (tileS 0) 0)) = [] ∧ (mma0.slotA ≠ 1 → mma0.slotB ≠ 2) := by decide
theorem test_meets_LeasesOperandSlotsAndTiles_old : ran (loadUnits 0x100800 2048) (tileS 0) = true := by decide +kernel
theorem test_lease : after (.mlease ⟨0⟩) (tileN 0 1) (fun t => t.cur.pc) = some 0x1004 ∧ trapOf (.mlease ⟨0⟩) (coreN 0 0 0 0) = some (10, 0x0100000000000000) ∧
    after (.mlease ⟨0⟩) { coreN 0 0 0 0 with cur := { (coreN 0 0 0 0).cur with partw := 0x10101 } } (fun t => ((clusterAt t 0).leaseWait, t.cur.pc)) = some ([0], 0x1000) ∧
    after (.leaseGrant 0) (setCluster (coreN 0 0 0 0) 0 { Cluster.reset with leaseWait := [0] }) (fun t => (t.cur.lease, (clusterAt t 0).holder)) =
      some (⟨true, 64, 1024, 0⟩, some 0) ∧
    after (.mrel ⟨0⟩) (tileN 0 1) (fun t => (t.cur.lease.held, (clusterAt t 0).holder)) = some (false, none) ∧
    after (.leaseExpiry 0) (tileN 0 1) (fun t => t.cur.lease.held) = some false := by decide
theorem test_slots : after (.oclaim ⟨0, 18⟩) (tileN 0 1) (fun t => ((nEntry t.cur 2).val, mapFind (clusterAt t 0).oslots 2)) = some (2, some ⟨0, 1⟩) ∧
    after (.orel ⟨0, 17⟩) (tileN 0 1) (fun t => (mapFind (clusterAt t 0).oslots 1, memGet (clusterAt t 0).omem 2051, memGet (clusterAt t 0).omem 3)) = some (none, 0, 0x40) ∧
    trapOf (.orel ⟨0, 16⟩) (tileN 2 1) = some (11, 0x0200000000000002) ∧ trapOf (.orel ⟨0, 16⟩) (tileN 256 1) = some (11, 0x0100000000000100) ∧
    after (.orel ⟨0, 17⟩) (queuedMma (tileN 0 1)) (fun t => t.cur.pc) = some 0x1000 := by decide +kernel
theorem test_old : after (.old ⟨0, 17, 16⟩) (tileS 0x100000) (fun t => t.cur.pc) = some 0x1004 ∧
    (trapOf (.old ⟨0, 16, 17⟩) (tileN 0 32)) = some (3, 32) ∧ after (.old ⟨0, 16, 17⟩) (queuedMma (tileN 0 0)) (fun t => t.cur.pc) = some 0x1000 := by decide +kernel
theorem test_tiles : after (.azero ⟨0, 0⟩) (tileN 0 1) (fun t => tileElem t 0 0 0) = some 0 ∧
    after (.aread ⟨0, 18, 0, 16⟩) (tileN 7 1) (fun t => (nEntry t.cur 2).val) = some 9 ∧
    after (.aread ⟨0, 18, 0, 16⟩) (tileN 1024 1) (fun t => (nEntry t.cur 2).val) = some 0x1F1F ∧
    after (.awrite ⟨0, 0, 16, 17⟩) (tileN 5 0x100000002) (fun t => tileElem t 0 0 5) = some 2 ∧
    after (.medge ⟨0, 16⟩) (tileN 0xE3E5 0) (fun t => edgeOf t 0 0) = some 0x0305 := by decide
theorem test_tile_traps : trapOf (.azero ⟨0, 0⟩) (queuedMma (tileN 0 1)) = some (8, 5) ∧
    trapOf (.azero ⟨0, 0⟩) (setCore (tileN 0 1) 0 { coreOf (tileN 0 1) 0 with accown := 0x10002 }) = ((encode (.azero ⟨0, 0⟩)).map fun w => (9, w.setWidth 64)) ∧
    (trapOf (.azero ⟨0, 1⟩) (tileN 0 1)).map (·.1) = some 1 ∧
    after (.mwait ⟨0⟩) (queuedMma (tileN 0 1)) (fun t => t.cur.pc) = some 0x1000 ∧ after (.mwait ⟨0⟩) (tileN 0 1) (fun t => t.cur.pc) = some 0x1004 ∧
    after (.accown ⟨0, 18, 16⟩) (tileS 0x10002) (fun t => ((nEntry t.cur 2).val, (coreOf t 0).accown, (coreOf t 0).accu)) = some (0x10001, 0x10002, 1) := by decide

theorem test_meets_MatrixCommandsAndTileTransfers : MayCommit (tileN 0 1) ∧ holdsLease (tileN 0 1) = true ∧ (clusterAt (tileN 0 1) 0).cmdQ.length < 16 ∧
    (clusterAt (queuedMma (tileN 0 1)) 0).running = none ∧ (clusterAt (queuedMma (tileN 0 1)) 0).cmdQ = [mma0] ∧
    (clusterAt (runningMma 0x31 0 0 [] []) 0).running.isSome = true ∧ (0x36 : BitVec 6) ≠ 0x31 ∧ (8 : Nat) ≤ 8 ∧ (encode (.ast ⟨0, 0, 0, 16, 17⟩)).isSome = true := by
  refine ⟨⟨rfl, rfl⟩, ?_⟩; decide
theorem test_meets_MatrixCommandsAndTileTransfers_tiles : namedTile (.mmaSS ⟨0, 0, 16, 17⟩) 0 (tileN 0 1) = .ok (false, tileN 0 1) ∧
    claimedSlot 0 (tileN 0 1) = .ok (0, tileN 0 1) ∧ exchangeWait (tileN 0 1) = .ok ((), tileN 0 1) ∧
    useTile (.ald ⟨0, 0, 16, 17⟩) 0 (tileN 0x400 128) = .ok ((), tileN 0x400 128) := ⟨rfl, rfl, rfl, rfl⟩
theorem test_meets_MatrixCommandsAndTileTransfers_rows : ran (checkRows 1 .write 0x101000 128 128 4) (tileS 0) = true ∧ ran (checkRows 0 .read 0x101000 128 128 4) (tileS 0) = true ∧
    ran (storeSpan 0x1000 (List.replicate 128 7)) (tileN 0x1000 128) = true ∧ ran (loadUnits 0x1000 128) (tileN 0x1000 128) = true ∧
    ran (roundingFor 1023) (tileN 0 1) = true := by decide +kernel
theorem test_meets_MatrixCommandsAndTileTransfers_real : IsReal (unpack fp32 0x3F800000) 1 ∧ IsReal (.zero false) 0 ∧ (1 : ℝ) + 0 ≠ 0 := by
  refine ⟨?_, by simp [IsReal], by norm_num⟩
  rw [show unpack fp32 0x3F800000 = .fin false 8388608 (-23) by decide]
  norm_num [IsReal]
theorem test_mma_issue : after (.mmaSS ⟨0, 0, 16, 17⟩) (tileN 0 1) (fun t => ((clusterAt t 0).cmdQ, (coreOf t 0).seq, t.cur.lease.cmds)) =
      some ([{ mma0 with seq := 1 }], 1, 63) ∧
    (trapOf (.mmaDD ⟨0, 0, 16, 17⟩) (tileN 0 1)).map (·.1) = some 1 ∧ (trapOf (.mmaBB ⟨0, 0, 16, 17⟩) (tileN 0 2)) = some (11, 0x0200000000000002) ∧
    after (.mmaNN ⟨0, 0, 16, 17, 18, 3⟩) (tileN 0 1) (fun t => ((clusterAt t 0).cmdQ.map fun c => (c.pair, c.planes))) = some [(0x36, 5)] := by decide
theorem test_mma_start : after (.mmaCommandStart 0) (queuedMma (tileN 0 1)) (fun t => ((clusterAt t 0).running.map (·.time), (clusterAt t 0).cmdQ)) = some (some 8, []) := by decide
theorem test_mma_elements : mmaElem { mma0 with opA := natBytes 4 0x40000000 ++ natBytes 4 0x40400000, opB := natBytes 4 0x40A00000 ++ natBytes 4 0x40E00000 } 0x3F800000 0 0 =
      ⟨0x42000000, 0⟩ ∧
    mmaElem { mma0 with pair := 0x34, opA := natBytes 2 0x4000, opB := natBytes 2 0x4200 } 0x3F800000 0 0 = ⟨0x40E00000, 0⟩ ∧
    mmaElem { mma0 with pair := 0x30, opA := natBytes 8 0x4000000000000000, opB := natBytes 8 0x4008000000000000 } 0 0 0 = ⟨0x4018000000000000, 0⟩ := by decide +kernel
theorem test_mma_nested : mmaElem { mma0 with pair := 0x36, scale := 0x7F7F, planes := 8, opA := natBytes 32 1, opB := natBytes 32 0 ++ natBytes 32 1 } 0x3F800000 0 0 =
      ⟨0xC5FFF800, 0⟩ ∧ withinEdge mma0 0 0 = true ∧ withinEdge mma0 0 1 = false := by decide +kernel
theorem test_tile_moves : trapOf (.ald ⟨0, 0, 16, 17⟩) (tileN 2 128) = some (3, 2) ∧ trapOf (.ast ⟨0, 2, 0, 16, 17⟩) (tileN 0x2001 128) = some (3, 0x1100000000002001 - 0x1000000000000000 + 0) ∧
    astElem fp32 bf16 ⟨.rne, 0⟩ 0x3F808000 = ⟨0x3F80, flagNX⟩ ∧ patchRow [1, 2, 3, 4] [(1, [9, 8])] = [1, 9, 8, 4] := by decide +kernel
/-! ### The dispatchers -/

/-- The reason of a packet's refusal; 100 and above where it is accepted. -/
def reasonOf (s : State) (q : Nat) (v : W) : Nat := match checkPacket s q v with
  | .error r => r
  | .ok (_, .fresh) => 100
  | .ok (_, .reopen) => 101
  | .ok (_, .child) => 102

theorem test_meets_PacketsPlacementsAndCompletion_packets : (dispatchN 0x800 0).module.frozen = none ∧ queueEnabled (dispatchN 0x800 0) 0 = true ∧
    queueEnabled (dispatchN 0x800 0) 1 = false ∧ (queueAt (dispatchN 0x800 0) 0).pending = [] ∧ (headPacket (dispatchN 0x800 0) 0).map (·.1) = some 0x800 ∧
    (dispatchN 0x800 0).memOk = true ∧ reasonOf (dispatchN 0x801 0) 0 0x801 = 6 ∧ reasonOf (dispatchN 0x10000 0) 0 0x10000 = 7 ∧
    freeNumber (dispatchN 0x800 0) 0 = some 1 ∧ homeRecord (dispatchN 0x800 0) 1 % 32 = 0 ∧ (0x801 : W).toNat % 128 ≠ 0 ∧
    readPacket (dispatchN 0x10000 0) 0 0x10000 = none ∧ 1 ≤ groupCount launchN ∧ 0x23000 % 8 = 0 := by decide +kernel
theorem test_meets_PacketsPlacementsAndCompletion_memory : (match headItem (dispatchN 0x800 0) 0 with
    | .ok (_, t) => t.memOk
    | .error _ => false) = true ∧
    (match headItem (dispatchN 0x800 0) 1 with
    | .ok _ => none
    | .error ring => some ring) = some none := by decide +kernel
/-- The launch it names, checked. -/
def launchR : Launch := { recordOfBytes packetN.bytes with stages := [], image := tableOfBytes packetN.table, shapeImage := packetN.shape }
theorem reads_record : readVirtual kindsN 0x200000 0x800 128 = some packetN.bytes := by decide +kernel
theorem reads_table : readSpan kindsN 0x200000 0x1000 1024 = some packetN.table := by decide +kernel
theorem table_ok : tableOk false packetN.table (padSize launchR.partw) = true := by decide +kernel
theorem record_facts : (recordValid packetN.bytes = true ∧ launchR.pipe = false ∧ partwOk launchR.partw = true) ∧ maskHolds kindsN 0 launchR = true ∧
    launchR.total / groupCount launchR = 5 ∧ groupSize launchR = 2 ∧ dword packetN.bytes 24 = 0x1000 ∧ dword packetN.bytes 40 = 0 := by decide +kernel
/-- The checks of a packet that names the record at 0x800, in any context of the queue's root. -/
theorem check_kinds (v : W) (h1 : v.toNat % 128 = 0) (h2 : packetRoot kindsN 0 (BitVec.ofNat 16 (field v.toNat 63 48)) = some 0x200000)
    (h3 : field v.toNat 47 7 * 128 = 0x800) : checkPacket kindsN 0 v =
      if BitVec.ofNat 16 (field v.toNat 63 48) = 0 then .ok (launchR, .fresh)
      else match namedKind kindsN 0 (BitVec.ofNat 16 (field v.toNat 63 48)) launchR with
        | some k => .ok (launchR, k)
        | none => .error 5 := by
  obtain ⟨⟨f1, f2, f3⟩, f4, f5, f6, f7, f8⟩ := record_facts
  have f2' : (recordOfBytes packetN.bytes).pipe = false := f2
  have hr : readPacket kindsN 0 v = some packetN := by
    simp only [readPacket, readRecord, h2, h3, reads_record, f7, f8]
    simp [reads_table, packetN]
  unfold checkPacket
  simp only [h1, hr, h2, f2', ne_eq, not_true_eq_false, ↓reduceIte, Bool.false_eq_true]
  change (if (!recordValid packetN.bytes || !tableOk false packetN.table (padSize launchR.partw) || (launchR.pipe && !stagesOk kindsN 0x200000 launchR [])) = true
    then _ else if (!partwOk launchR.partw) = true then _ else if (!maskHolds kindsN 0 launchR) = true then _ else
      if (launchR.pipe && decide (launchR.total < launchCores launchR)) = true then _ else
      if (!launchR.pipe && decide (launchR.total / groupCount launchR < groupSize launchR)) = true then _ else _) = _
  simp [f1, f2, f3, f4, f5, f6, table_ok]
  rfl
theorem test_meets_PacketsPlacementsAndCompletion_fresh : checkPacket kindsN 0 0x800 = .ok (launchR, .fresh) := by
  rw [check_kinds _ (by decide) (by decide +kernel) (by decide)]; rfl
theorem test_meets_PacketsPlacementsAndCompletion_child : checkPacket kindsN 0 (2 ^ 48 + 0x800) = .ok (launchR, .child) := by
  rw [check_kinds _ (by decide) (by decide +kernel) (by decide), if_neg (by decide),
    show namedKind kindsN 0 (BitVec.ofNat 16 (field (2 ^ 48 + 0x800 : W).toNat 63 48)) launchR = some .child by decide +kernel]
theorem test_meets_PacketsPlacementsAndCompletion_reopen : checkPacket kindsN 0 (2 * 2 ^ 48 + 0x800) = .ok (launchR, .reopen) := by
  rw [check_kinds _ (by decide) (by decide +kernel) (by decide), if_neg (by decide),
    show namedKind kindsN 0 (BitVec.ofNat 16 (field (2 * 2 ^ 48 + 0x800 : W).toNat 63 48)) launchR = some .reopen by decide +kernel]
/-- A die whose 65,535 context numbers are all taken. -/
def fullN : State := { dispatchN 0x800 0 with ctxs := (List.range 65535).map fun i => (i + 1, ctx1) }
theorem mapFind_range (n k : Nat) : ∀ l : List Nat, k ∈ l → (mapFind (l.map fun i => (i + 1, ctx1)) (k + 1)).isSome = true
  | [], h => by simp at h
  | a :: l, h => by
    by_cases e : a = k
    · simp [mapFind, e]
    · have : k ∈ l := by rcases List.mem_cons.mp h with h | h <;> [exact absurd h.symm e; exact h]
      simpa [mapFind, e] using mapFind_range n k l this
theorem test_meets_PacketsPlacementsAndCompletion_full : freeNumber fullN 0 = none := by
  unfold freeNumber
  rw [Option.map_eq_none_iff, List.find?_eq_none]
  intro i hi
  have h := mapFind_range 0 i (List.range 65535) hi
  have hi' : i + 1 < 65536 := by have := List.mem_range.mp hi; omega
  have e : (BitVec.ofNat 16 (i + 1)).toNat = i + 1 := by simp; omega
  simp only [fullN, ctxOf, e]
  simp [Option.isSome_iff_ne_none.mp h]
theorem test_dispatch : after (.packetDispatch 0) (dispatchN 0x801 0) (fun t => physDword t 0x23000) = some (0x17 * 2 ^ 40 + 6 * 2 ^ 32 + 1) ∧
    after (.packetDispatch 0) { dispatchN 0x800 0 with module := { Module.reset with frozen := some 1 } } (fun t => t.queues.length) = some 0 := by decide +kernel
theorem test_meets_PacketsPlacementsAndCompletion_placing : nextActor (dispatchN 0x800 0) 0 = none ∧ nextActor (pendingN launchN) 0 = some (0, false) ∧
    (choosePlans (pendingN launchN) 0).map (fun p => p.2.map fun g => (g.cores, g.isNew)) = some [([0, 1], true)] ∧
    (ctxOf (pendingN launchN) 1).isSome = true ∧ placementOf (pendingN launchN) 0 1 = none ∧ poolStart (pendingN launchN) 0 2 = some 0 ∧
    launchN.shapeImage.length ≤ 256 ∧ 1 ≤ spadu launchN.partw ∧ qdone (pendingN launchN) 1 = false := by decide +kernel
theorem test_meets_PacketsPlacementsAndCompletion_draining : (dieOf heldN 0).drain = none ∧ (waitingGang heldN 0).map (·.1) = some 0 ∧ waitingGang (dispatchN 0x800 0) 0 = none ∧
    (waitingGang heldN 0).map (·.2) = some [0, 1, 2, 3, 4, 5, 6, 7] ∧
    movable (setDie heldN 0 { dieOf heldN 0 with drain := some (0, [0]) }) 0 = some (1, 0, 1) ∧
    movable (setDie heldN 0 { dieOf heldN 0 with drain := some (0, [1]) }) 0 = none ∧ mayMove heldN 1 0 8 = true ∧ mayMove heldN 1 0 9 = false ∧
    heldN.memOk = true ∧ place0.pbase.toNat + 4096 * heldUnits heldN place0 ≤ 2 ^ 18 := by decide +kernel
theorem test_placing : after (.placementAction 0) (pendingN launchN) (fun t =>
      ((placementOf t 0 1).isSome, (placementOf t 1 1).map (·.member), t.events.filterMap fun e => match e with
        | .messageArrival c m => some (c, m.weight)
        | _ => none)) = some (true, some 1, [(0, 3), (1, 2)]) := by decide +kernel
theorem test_draining : after (.gangDrain 0) heldN (fun t => (dieOf t 0).drain) = some (some (0, [0, 1, 2, 3, 4, 5, 6, 7])) ∧
    (after (.contextCompact 1 0 8) heldN fun t => ((placementOf t 0 1).isNone, (placementOf t 8 1).isSome)) = some (true, true) := by decide +kernel
theorem test_meets_PacketsPlacementsAndCompletion_complete : qdone { pendingN launchN with mem := memWrite [] 0x10038 (natBytes 8 (2 ^ 17)) } 1 = true ∧
    (newCtx 0 0x200000 0x23000 0x800 launchN).complete = false ∧ launchH.hold = true ∧ launchN.hold = false := by decide +kernel
theorem test_complete : after (.contextComplete 1) { coreN 0 0 0 0 with
      dies := [(0, { Die.reset with hrbase := 0x10000, regbase := 0x30000 })], mem := memWrite [] 0x10038 (natBytes 8 (2 ^ 17)) }
      (fun t => (t.ctxs, (placementOf t 0 1).isSome)) = some ([], false) ∧
    after .frameAdvance { st with tick := 4096 } (fun t => t.module.frame) = some 2 := by decide +kernel
/-! ### Engines and links -/

theorem test_meets_JobsCollectivesAndLinks_kick : mapFind (engineAt (portN 1) 2304).ports 1 = none ∧ (mapFind (engineAt (portN 1) 2304).ports 0).isSome = true ∧
    physDword (portN 1) 0x24000 = 1 ∧ physDword (portN 3) 0x24000 = 3 ∧ physDword (portN 1) 0x24008 = 0 ∧ qdone (portN 1) 1 = false ∧ (portN 1).memOk = true ∧
    homeRecord (portN 1) 1 = 0x10020 ∧ canonPa (homeRecord (portN 1) 1) + 32 ≤ canonPa 0x23000 ∧ poisonedMem (portN 1) 0x24040 8 = false ∧
    poisonedMem { portN 1 with poison := [(0x1202, 0)] } 0x24040 8 = true ∧ physDword (portN 1) 0x24040 % 2 ^ 32 = 7 ∧ totalOf (portN 1) 1 + 7 < 2 ^ 48 := by decide +kernel
theorem test_meets_JobsCollectivesAndLinks_jobs : nextJob Engine.reset = none ∧ nextJob { Engine.reset with jobs := [job0] } = some job0 ∧
    (engineAt carterN 2304).running = some job0 ∧ (engineAt carterN 2304).ending = none ∧ kindOfAgent 2304 = .carter ∧ 0x24000 % 64 = 0 ∧
    awaitsResponse carterN 2304 = false ∧ awaitsResponse { carterN with events := [.storePerform ⟨2304, 1, .mem 0, []⟩] } 2304 = true ∧
    carterN.module.frozen = none ∧ ran (loadVa 0 8 8 0x48) (switchTo carterN 2304) = true ∧ ran (loadVa 0 64 64 0x100) (switchTo carterN 2304) = true ∧
    (collectiveOf (memRead carterN.mem 0x100100 64)).ok = true ∧ (collectiveOf (natBytes 64 0)).ok = false := by decide +kernel
theorem test_meets_JobsCollectivesAndLinks_collective : (match collectiveCell .xa32 0x200 (switchTo carterN 2304) with
      | .ok (some pa, t) => pa == 0x100200 && !cellPoisoned t pa .xa32
      | _ => false) = true ∧ ran (storeVa 1 4 0x300 (natBytes 4 0)) (switchTo carterN 2304) = true := by decide +kernel
theorem test_meets_JobsCollectivesAndLinks_links : (linkAt linkN 0).dead = false ∧ (linkAt (setLink st 0 ⟨0, 0, true, false, false, []⟩) 0).dead = true ∧
    (mintWeight linkN 1 1).isSome = true ∧ (mintWeight { linkN with mem := memWrite [] 0x10020 (natBytes 8 (2 ^ 48 - 1)) } 1 1).isNone = true ∧
    (linkAt linkN 0).outstanding = [packet0] ∧ (linkAt linkN 1).outstanding = [] := by decide +kernel
theorem test_kick : after (.kick 2304 0) (portN 2) (fun t => ((engineAt t 2304).jobs, totalOf t 1)) = some ([job0, ⟨0, 1, 7, none⟩], 114) ∧
    after (.kick 2304 0) (portN 3) (fun t => ((engineAt t 2304).jobs, physDword t 0x24000)) = some ([], 0) := by decide +kernel
theorem test_jobs : afterTwo (.kick 2304 0) (.jobStart 2304) (portN 1) (fun t => ((slotOf t 2304).pc, (slotOf t 2304).wcur, (nEntry (slotOf t 2304) 0).val)) =
      some (0x1000, 7, 0x40) ∧
    after (.jobEnd 2304 3 5 9) carterN (fun t => ((physDword t 0x24008, physDword t 0x24010), (slotOf t 2304).live, t.events)) =
      some ((3 * 2 ^ 56 + 5 * 2 ^ 48 + 1, 9), false, [.homeWeightUpdate (.ret 1 7)]) := by decide +kernel
theorem test_collective : after (.collective 2304 [⟨2 ^ 149, 0⟩]) carterN (fun t => ((engineAt t 2304).ending, leNat (memRead t.mem 0x100300 4))) =
    some (some (0, 0, 0), 0) ∧ collectiveSum (collectiveOf (memRead carterN.mem 0x100100 64)) [⟨5, 0⟩] ⟨7, 0⟩ 0 = ⟨12, 0⟩ := by decide +kernel
theorem test_links : after (.remoteStore 0 packet0) linkN (fun t => ((linkAt t 0).outstanding.length, totalOf t 1)) = some (2, 101) ∧
    after (.remoteStoreAck 0 false) linkN (fun t => ((linkAt t 0).outstanding, (slotOf t 0).failed.refused)) = some ([], true) ∧
    after (.linkDeath 0) linkN (fun t => ((linkAt t 0).dead, (slotOf t 0).failed)) = some (true, ⟨1, true, false, true⟩) ∧
    after (.portRestore 0) (setLink st 0 ⟨0, 0, true, false, false, []⟩) (fun t => (linkAt t 0).restoring) = some true ∧
    after (.linkTraining 0 9) linkN (fun t => ((linkAt t 0).partner, (linkAt t 0).retries)) = some (9, 0) ∧
    after (.linkLevelRetry 0) linkN (fun t => (linkAt t 0).retries) = some 4 := by decide +kernel

/-! ### Walks, the host and the configuration window -/

theorem test_meets_WalksInvalidationsAndScrubs : 0x200000 ≠ identityRoot ∧
    ((clusterAt { st with clusters := [(0, { Cluster.reset with tlb := [⟨1, 0, 65536, 0x100000, 0⟩] })] } 0).tlb.find? (fun e => e.covers 1 8)).isSome = true ∧
    (clusterAt (coreN 0 0 0 0) 0).tlb = [] ∧ dieWalk (coreN 0 0 0 0) 0 0x200000 8 = .mapped 0x100008 65536 0b1011 ∧
    dieWalk (coreN 0 0 0 0) 0 0x200000 0x10000 = .unmapped none ∧
    dieWalk { coreN 0 0 0 0 with mem := memWrite [] 0x200000 (natBytes 8 (2 ^ 63 + 1)) } 0 0x200000 8 = .unmapped (some (0x200000, 3)) ∧
    dieWalk (coreN 0 0 0 0) 0 0x200000 8 ≠ .poisoned ∧ regionOf 0x100000 = .bonded 0 0x100000 ∧
    mapFind ([(2048, (0, 4))] : AMap (Nat × Nat)) 2048 = some (0, 4) := by decide +kernel
theorem test_meets_WalksInvalidationsAndScrubs_queue : (qheaderOf (headerBytes invalidN (.config 0x1001000))).ok = true ∧
    (qheaderOf (headerBytes invalidN (.config 0x1001000))).kind = 0 ∧ (qheaderOf (headerBytes invalidN (.config 0x1001000))).head ≠ (qheaderOf (headerBytes invalidN (.config 0x1001000))).tail ∧
    answerOf (deqHome invalidN (.config 0x1001000) (kernelRoot invalidN 0) true) = 0x25000 ∧ (match kernelWalk invalidN 0 0x25000 with | .mapped pa _ _ => pa | _ => 0) = 0x25000 ∧
    inMemory 0x25000 32 = true ∧ poisonedMem invalidN 0x25000 32 = false ∧ dieAccesses (appendN 0 0 0 0) 0 = true ∧ dieAccesses invalidN 0 = false ∧ dieAccesses linkN 0 = true ∧
    answerOf (enqHome invalidN (.config 0x1001040) (kernelRoot invalidN 0) true 5) = 101 := by decide +kernel
theorem test_walk : after (.pageWalk 0 1 0x200000 8) (coreN 0 0 0 0) (fun t => ((coreOf t 0).tlb, (clusterAt t 0).tlb)) =
      some ([⟨1, 0, 65536, 0x100000, 0b1011⟩], [⟨1, 0, 65536, 0x100000, 0b1011⟩]) ∧
    after (.tlbInvalidation 0) invalidN (fun t => ((coreOf t 0).tlb.map (·.ctx), physDword t 0x25018)) = some ([2], 1) := by decide +kernel
theorem test_scrub : after (.patrolScrub (.mem 0x100000) .uncorrectable) st (fun t => ((mapFind t.poison 0x8000).isSome, (dieOf t 0).frlost)) = some (true, 1) ∧
    after (.patrolScrub (.mem 0x100000) .clean) st (fun t => (dieOf t 0).frlost) = some 0 ∧
    after (.patrolScrub (.mem 0x100000) .corrected) { st with module := { Module.reset with corrected := [(2048, (0, 4))] } } (fun t => t.module.corrected) =
      some [(2048, (0, 5))] := by decide +kernel

theorem test_meets_HostAndConfigurationWindow : st.module.stage = 0x10 ∧ (inStageN 0).module.stage = 0 ∧ st.module.mbBusy = false ∧
    hostHeader st 0 = none ∧ hostHeader (dispatchN 0x800 0) 0 = some (.mem 0x21000) ∧ hostHeader (dispatchN 0x800 0) 255 = none ∧
    answerOf (enqHome (dispatchN 0x800 0) (.mem 0x21000) (queueDesc (dispatchN 0x800 0) 0).root true 0x880) = 0 ∧
    answerOf (enqHome (dispatchN 0x800 0) (.mem 0x21000) (queueDesc (dispatchN 0x800 0) 0).root true (2 ^ 64 - 1)) = 2 ∧
    2432 * 2 ^ 30 - 64 < 2432 * 2 ^ 30 ∧ (64 : Nat) ∈ [1, 2, 4, 8, 16, 32, 64] ∧ inMemory 0x8000000000 8 = true ∧ inMemory 0x100000000000 64 = true ∧
    touchesCell { st with cells := [(0, .xa32)] } 0 8 = true ∧ touchesCell st 0 8 = false := by decide +kernel
theorem test_window : after (.configRegisterWrite 0 0x0503 true) st (fun t => (t.module.mbBusy, t.events)) = some (true, [.mbWriteFirmware 5]) ∧
    after (.configRegisterWrite 0x2000 1500 true) st (fun t => t.events) = some [.powercapWrite 1500] ∧
    after (.configRegisterWrite 0x4040 7 true) st (fun t => t.events) = some [.hostEnqueue 1 7] ∧
    after (.configRegisterWrite 0x8040 4 false) st (fun t => t.events) = some [.portRestore 1] ∧
    after (.configRegisterWrite 0x1000008 (2 ^ 52 + 9) false) st (fun t => (dieOf t 0).hrbase) = some 9 ∧
    after (.configRegisterWrite 0x1000008 9 true) st (fun t => (dieOf t 0).hrbase) = some 0 ∧
    after (.configRegisterWrite 0x4000128 6 false) st (fun t => t.events) = some [.heartWrite 7 6] := by decide +kernel
theorem test_host : after (.heartWrite 7 6) { st with clock := 5 } (fun t => ((dieOf t 3).heart[1], (dieOf t 3).heartAge[1])) = some (6, 5) ∧
    after (.hostEnqueue 0 0x880) (dispatchN 0x800 0) (fun t => (t.module.reply, (queueAt t 0).accepted, leNat (memRead t.mem 0x100508 8))) = some (natBytes 8 0, 1, 0x880) ∧
    after (.hostEnqueue 0 5) st (fun t => (t.module.reply, (queueAt t 0).refused)) = some (natBytes 8 3, 1) ∧
    after (.hostMemoryAccess 0 (some [7]) 1) st (fun t => memGet t.mem (canonPa 0x8000000000)) = some 7 ∧
    after (.hostMemoryAccess 0 none 2) { st with mem := memWrite [] (canonPa 0x8000000000) [7, 8] } (fun t => t.module.reply) = some [7, 8] := by decide +kernel

/-! ### Crashes, starts, the mailbox -/

/-- A hash is not itself with a byte more. -/
theorem longer_ne (l : List Byte) : l ≠ l ++ [0] := fun h => by simpa using congrArg List.length h
theorem test_meets_CrashesStartsAndMailboxCommands : st.module.frozen = none ∧ (frozenN []).module.frozen ≠ none ∧ (frozenN []).module.locked = false ∧
    (frozenN []).module.stage = 0x10 ∧ (frozenN []).module.kernelLen = 0 ∧ st.memOk = true ∧ (2 ^ 31 : Nat) - 2 ^ 31 ≤ 1100000000 ∧ (inStageN 0xE0).module.stage = 0xE0 ∧
    (inStageN 0xF0).module.stage ≠ 0x10 ∧ (1200 : BitVec 16).toNat = 1200 ∧ (3201 : BitVec 16).toNat > 3200 ∧
    leNat (slice (natBytes 0x10 (0x1000 * 2 ^ 96)) 0xC 4) = 4096 := by decide
theorem test_meets_CrashesStartsAndMailboxCommands_hash : Config.sha384 (memRead (frozenN (Config.sha384 [])).mem 0x11FFC0000000 0) = (frozenN (Config.sha384 [])).module.kernelHash ∧
    Config.sha384 (memRead (frozenN (Config.sha384 [] ++ [0])).mem 0x11FFC0000000 0) ≠ (frozenN (Config.sha384 [] ++ [0])).module.kernelHash :=
  ⟨rfl, longer_ne _⟩
/-- An image of the right size without the magic number. -/
theorem test_image (img : List Byte) (h : img.length = 8192) (h1 : leNat (slice img 0xC 4) = 4096) (h2 : dword img 0 = 0) :
    imageResult img 0 = 3 ∧ imageResult [] 0 = 5 := by
  refine ⟨?_, by decide⟩
  unfold imageResult bodyLen
  simp [h, h1, h2]
theorem test_meets_test_image : leNat (slice (natBytes 16 (0x1000 * 2 ^ 96) ++ List.replicate 8176 0) 0xC 4) = 4096 ∧
    dword (natBytes 16 (0x1000 * 2 ^ 96) ++ List.replicate 8176 0) 0 = 0 := by decide +kernel
theorem test_crash : after (.heartTimeout 0) st (fun t => (t.module.frozen, (dieOf t 2).crashreg)) = some (some 3, 0x300000000) ∧
    after (.mbWarmRestart 5) st (fun t => (t.module.frozen, t.module.mbTag, t.module.mbResult)) = some (some 4, 5, 0) ∧
    after (.mbStop 5) st (fun t => (t.module.stage, t.cur.live)) = some (0xF0, false) ∧
    after .powerLoss st (fun t => (t.module.stage, t.cur.live, t.harts.length)) = some (0, false, 0) := by decide +kernel
theorem test_mailbox : after (.mbCommitVersion 5) { st with module := { Module.reset with version := 4, minVersion := 3 } } (fun t => t.module.minVersion) = some 4 ∧
    after (.mbRegisterLog 5) { st with module := { Module.reset with cfg := memWrite [] 0x10 (natBytes 8 0x1000 ++ natBytes 8 4) } } (fun t => t.module.log) =
      some (some (0x1000, 4)) ∧
    after (.mbRegisterLog 5) { st with module := { Module.reset with cfg := memWrite [] 0x10 (natBytes 8 0x1000 ++ natBytes 8 21) } } (fun t => t.module.mbResult) = some 6 ∧
    after (.mbWriteFirmware 5) st (fun t => t.module.mbResult) = some 2 ∧ after (.mbUnknownOp 5 9) st (fun t => t.module.mbResult) = some 1 := by decide +kernel
theorem test_power : after (.powercapWrite 1199) st (fun t => t.module.powercap) = some 3200 ∧ after (.powercapWrite 1200) st (fun t => t.module.powercap) = some 1200 ∧
    after (.powerThrottle true 99) st (fun t => (t.module.powernow, t.module.thermal)) = some (99, 1) ∧
    after (.shutdownPending 1050) st (fun t => t.module.thermal) = some 2 := by decide

/-! ### Further clauses: selections, arrays, special terms -/

/-- The H slot of core 0 without a strand, its context with a free record in its queue at 0x4000, one in state 01 at the head of
its ready queue at 0x5000, and what the core holds for it. -/
def workN (saved : Option Saved) (ni : List Msg) : State :=
  let s := coreN 0 0 0 0
  let q (at_ ring rec_ : Nat) (m : Memory) : Memory :=
    memWrite (memWrite m at_ (natBytes 8 (ring - 0x100000) ++ natBytes 8 4 ++ natBytes 8 0 ++ natBytes 8 1 ++ natBytes 8 (2 ^ 64 - 1))) ring (natBytes 8 rec_)
  setCore { s with mem := memWrite (q 0x105000 0x105100 0x180 (q 0x104000 0x104100 0xC0 s.mem)) 0x100180 (natBytes 8 (2 ^ 62 + 2 ^ 61 + 0x7004) ++ natBytes 8 (9 * 2 ^ 16 + 1)) } 0
    { coreOf s 0 with placements := [{ place0 with savedH := saved, htab := List.replicate 64 { entry0 with cls := true } }], ni := ni }
def msg0 : Msg := ⟨1, 2, 1, 50, [9, 8], .plain, 1⟩
def saved0 : Saved := ⟨0x80, none, false, false, ⟨0, false, false, false⟩, []⟩
/-- The work of the H slot of core 0. -/
def workKind (s : State) : Option Work := (chooseWork s 0 true).map (·.2)
theorem test_meets_StrandsStartAndResume_work : (slotOf (workN none []) 4096).live = false ∧ workKind (workN (some saved0) []) = some .saved ∧
    workKind (workN none [{ msg0 with channel := 3 }, msg0]) = some (.message 1) ∧ workKind (workN none []) = some .record := by decide +kernel
theorem test_meets_StrandsStartAndResume_push : refusedPush (workN none []) 0 place0 msg0 = false ∧
    refusedPush (workN none []) 0 place0 { msg0 with kind := .push 0 (2 ^ 63) } = true := by decide +kernel
theorem test_slot_select : after (.slotSelect 4096) (workN none [msg0]) (fun t => ((slotOf t 4096).pc, (slotOf t 4096).crec, (coreOf t 0).ni)) = some (0x2000, 0xC0, []) ∧
    after (.slotSelect 4096) (workN none []) (fun t => ((slotOf t 4096).pc, (slotOf t 4096).wcur)) = some (0x7004, 9) ∧
    after (.slotSelect 4096) (workN (some saved0) []) (fun t => (slotOf t 4096).resumed) = some true := by decide +kernel
theorem test_meets_StrandsStartAndResume_poison : poisonedPool { coreN 0 0 0 0 with poolPoison := [(16, 0)] } 0 0 1024 = true ∧ poisonedPool (coreN 0 0 0 0) 0 0 1024 = false := by decide +kernel
theorem test_meets_PreemptionSavesTheWholeSlot_low : (slotOf { st with cur := { slot0 with request := some 1 } } (hartOf 0 false)).request = some 1 ∧
    (slotOf st (hartOf 0 true)).request ≠ some 1 ∧ preemptible { st with cur := { slot0 with request := some 1 } } 0 = true := by decide
theorem test_meets_QueueOperationsAtTheirHome_canonical : (queueN 0 0 0 0 0 0).memOk = true ∧ walk st identityRoot 0x300000 ≠ .poisoned ∧
    ringAt { queueN 0 0 0 0 0 0 with poison := [(0x300000 / 32, 0)] } identityRoot true 0x300000 8 = .error (.memerr, 0) ∧
    ringAt (pagedN 0b1001 0 0 0 0) 0x200000 false 0 8 = .error (.protect, 0) ∧ ringAt (pagedN 0b1011 0 0 0 0) 0x200000 false 0 8 = .ok 0x100000 ∧
    ringAt (pagedN 0b1011 0 0 0 0) 0x200000 false 0x10000 8 = .error (.page, 0) := by decide +kernel
theorem test_meets_FpWithoutRounding_infinity : (∃ v : EReal, (unpack fp64 0x7FF0000000000000 = .inf true → v = ⊥) ∧
      (unpack fp64 0x7FF0000000000000 = .inf false → v = ⊤) ∧ ((∀ n, unpack fp64 0x7FF0000000000000 ≠ .inf n) → ∃ w : ℝ, v = w) ∧
      ∀ n, unpack fp64 0x7FF0000000000000 ≠ .nan n) := by
  rw [show unpack fp64 0x7FF0000000000000 = .inf false by decide]
  exact ⟨⊤, by simp, by simp, fun h => absurd rfl (h false), by simp⟩
theorem test_fp_order_infinity : q1After (.fmin ⟨0, 0, 16, 17, 0⟩) (withN 0x7FF0000000000000 0 0 0) = some 0 ∧
    q1After (.fcmplt ⟨0, 0, 17, 16, 0⟩) (withN 0x7FF0000000000000 0 0 0) = some 1 := by decide
/-- An FP16 product of command `mma0` at element (0, 0), with the accumulator as given. -/
def half (a b acc : Nat) : FpResult := mmaElem { mma0 with pair := 0x33, opA := natBytes 2 a, opB := natBytes 2 b } (BitVec.ofNat 64 acc) 0 0
theorem test_mma_special : half 0x7C01 0 0 = ⟨fp32.nanBits, flagNV⟩ ∧ half 0x7E00 0 0 = ⟨fp32.nanBits, 0⟩ ∧ half 0x7C00 0 0 = ⟨fp32.nanBits, flagNV⟩ ∧
    half 0x7C00 0xBC00 0 = ⟨fp32.infBits + fp32.signBit, 0⟩ ∧ half 0x7C00 0xBC00 0x7F800000 = ⟨fp32.nanBits, flagNV⟩ ∧
    half 0x3C00 0x3C00 0xBF800000 = ⟨0, 0⟩ ∧ half 0x3C00 0x3C00 0x7FC00000 = ⟨fp32.nanBits, 0⟩ := by decide +kernel
theorem test_mma_special_nested : mmaElem { mma0 with pair := 0x36, planes := 8 } 0x7F800001 0 0 = ⟨fp32.nanBits, flagNV⟩ ∧
    mmaElem { mma0 with pair := 0x36, planes := 8 } 0xFF800000 0 0 = ⟨fp32.infBits + fp32.signBit, 0⟩ := by decide +kernel
theorem test_meets_JobsCollectivesAndLinks_two : ((BitVec.ofNat 64 (physDword (portN 2) 0x24000)).setWidth 32 - (0 : BitVec 32)).toNat = 2 ∧
    (leWord (natBytes 8 0x110)).toNat % 64 ≠ 0 ∧ (0x100 : W).toNat % 64 = 0 ∧ (linkAt (setLink st 0 ⟨0, 0, true, false, false, []⟩) 0).restoring = false ∧
    kindOf packet0.h = .core := by decide +kernel
theorem test_collective_misaligned : after (.collective 2304 []) { carterN with mem := memWrite carterN.mem 0x100048 (natBytes 8 0x110) }
    (fun t => (engineAt t 2304).ending) = some (some (6, 0, 0x110)) := by decide +kernel
/-- Line 0x8000 held by its home slice and by the caches of core 0 and cluster 0. -/
def heldLine (dirty : Bool) : State :=
  let s := setCore st 0 { Core.reset with l1 := [⟨0x8000, false, dirty, natBytes 32 7, 0⟩], icache := [⟨0x4000, natBytes 64 0, []⟩] }
  let s := setCluster s 0 { Cluster.reset with ccache := [⟨0x8000, natBytes 32 0, []⟩] }
  { s with l2 := [(homeOf 0x100000, [⟨0x1000, 1, if dirty then 1 else 0, false⟩])] }
theorem test_meets_WalksInvalidationsAndScrubs_arrays : heldSector (heldLine true) 0x100000 = some true ∧ heldSector (heldLine false) 0x100000 = some false ∧
    heldSector st 0x100000 = none ∧ (l1Line (heldLine true) 0 0x100000).map (·.dirty) = some true ∧ (l1Line (heldLine false) 0 0x100000).map (·.dirty) = some false ∧
    l1Line st 0 0x100000 = none ∧ mapFind st.module.corrected 2048 = none ∧ regionOf 0x100000 = .bonded 0 0x100000 := by decide +kernel
theorem test_scrub_arrays : after (.patrolScrub (.l1 0 0x100000) .uncorrectable) (heldLine true) (fun t => ((coreOf t 0).l1, (mapFind t.poison 0x8000).isSome)) = some ([], true) ∧
    after (.patrolScrub (.l1 0 0x100000) .uncorrectable) (heldLine false) (fun t => ((coreOf t 0).l1, (mapFind t.poison 0x8000).isSome)) = some ([], false) ∧
    after (.patrolScrub (.l2 0x100000) .uncorrectable) (heldLine true) (fun t => (mapFind t.poison 0x8000).isSome) = some true ∧
    after (.patrolScrub (.code 0 0x100000) .corrected) (heldLine false) (fun t => (coreOf t 0).icache.length) = some 0 ∧
    after (.patrolScrub (.constant 0 0x100000) .corrected) (heldLine false) (fun t => (clusterAt t 0).ccache.length) = some 0 ∧
    after (.patrolScrub (.operand 0 9) .uncorrectable) st (fun t => (mapFind (clusterAt t 0).opoison 1).isSome) = some true := by decide +kernel
theorem test_meets_HostAndConfigurationWindow_flash : (0 : Nat) < ({ Module.reset with flashUntil := 9 } : Module).flashUntil ∧ Module.reset.flashUntil ≤ 0 ∧
    answerOf (enqHome { dispatchN 0x800 0 with poison := [(0x100508 / 32, 0)] } (.mem 0x21000) (queueDesc (dispatchN 0x800 0) 0).root true 0x880) = 100 ∧
    (0x10 : Nat) % 8 = 0 := by decide +kernel
theorem test_meets_CrashesStartsAndMailboxCommands_hot : (let m : Module := { Module.reset with thermal := 2, hotSince := some 5 }
      m.thermal = 2 ∧ m.hotSince = some 5 ∧ 5 + 11000000 ≤ 11000005) ∧ Module.reset.thermal ≠ 2 ∧ (0 : Nat) < ({ Module.reset with flashUntil := 9 } : Module).flashUntil := by decide
theorem test_thermal : after .thermalShutdown { st with tick := 11000005, module := { Module.reset with thermal := 2, hotSince := some 5 } } (fun t => t.module.stage) = some 0 ∧
    after .thermalShutdown { st with tick := 11000004, module := { Module.reset with thermal := 2, hotSince := some 5 } } (fun t => t.module.stage) = some 0x10 ∧
    after (.powercapWrite 1200) { st with module := { Module.reset with powernow := 1300 } } (fun t => t.module.powernow) = some 1200 := by decide +kernel
theorem test_meets_PacketsPlacementsAndCompletion_freed : freedContext heldN = some 1 ∧ freedContext (dispatchN 0x800 0) = none ∧
    (overdueGang heldN 10 0).isSome = true := by decide +kernel
theorem test_freed : after (.contextComplete 1) heldN (fun t => (t.ctxs, (placementOf t 0 1).isSome)) = some ([], false) := by decide +kernel

/-! ### The whole machine -/

/-! ### The clauses beside the plain case -/

/-- The strand of `memN` in core 0 with a dirty line at 0x100000 and one at 0x100020. -/
def dirtyN (a b : W) : State := setCore (memN a b 0 0) 0 { Core.reset with
  l1 := [⟨0x8000, false, true, natBytes 32 9, 0⟩, ⟨0x8001, false, true, natBytes 32 8, 0⟩] }
/-- A message of the context that waits in the context buffer. -/
def placeSpilled : Placement := { place0 with spilled := [⟨0, .plain, 1⟩] }
/-- The core with such a message. -/
def spilledN : State := setCore (coreN 0 0 0 0) 0 { coreOf (coreN 0 0 0 0) 0 with placements := [placeSpilled] }
/-- Context 1's home record holds uncorrectable data. -/
def badHome (s : State) : State := { s with poison := [(canonPa (homeRecord s 1) / 32, 0)] }
/-- FINEX enabled in the strand. -/
def tripping (s : State) : State := { s with cur := { s.cur with fpte := 1 } }

theorem test_meets_ExceptionsOfWordsAndOtherModes_prefixed :
    after (.brk ⟨0⟩) { sup0 with cur := { sup0.cur with hint := some 5, gpc := 0xFFC } }
      (fun t => (t.cur.hint, t.cur.pc, t.cur.stopped, t.module.frozen)) = some (none, 0xFFC, true, some 1) := by decide
theorem test_meets_PreemptionSavesTheWholeSlot_waits :
    unacknowledged (setLink st 0 ⟨5, 3, false, true, false, [packet0]⟩) 0 = true ∧
    combining { st with combine := [⟨0, 1, 0, 0, 0, .xa32, 5, 0, [⟨0, ⟨0, 0⟩, true, 0⟩]⟩] } 0 = true := by decide +kernel
theorem test_meets_ScalarFpCompletes_append :
    (match produce 27 9 4 st with | .error (.trap c _) => c == .protect | _ => false) = true ∧
    trapOf (.fadd ⟨0, 27, 16, 18, 0⟩) (tripping fpN) = trapOf (.fadd ⟨0, 27, 16, 18, 0⟩) fpN ∧
    (trapOf (.fadd ⟨0, 0, 16, 18, 0⟩) (tripping fpN)).map (·.1) = some 0x15 := by decide
theorem test_meets_FpDividesAndRoots_late : (slotOf sup0 0).sup = true ∧ (slotOf { st with cur := { slot0 with launches := 1 } } 0).launches ≠ 0 ∧
    after (.lateFault 0 .queue 5 ⟨0x1004, 7⟩) { emit st (.lateFault 0 .xcell 6 ⟨0x1008, 3⟩) with cur := { slot0 with lateFaults := [⟨.page, 4, ⟨0x100C, 5⟩⟩] } }
      (fun t => (t.cur.tcause, t.cur.tinfo, t.cur.lateFaults.map (·.op.age))) = some (0x16, 6, [5, 7]) := by decide
theorem test_meets_AccessChecksInTheirOrder_members : isGang (gang 0 0 0 [] []) 1 = true ∧ isGang (coreN 0 0 0 0) 1 = false ∧
    memberCount (gang 0 0 0 [] []) 1 = 2 ∧ memberCore (gang 0 0 0 [] []) 1 1 = some 1 ∧ (placementOf (gang 0 0 0 [] []) 1 1).isSome = true ∧
    placementOf (setCore (gang 0 0 0 [] []) 1 Core.reset) 1 1 = none ∧
    ran (localPlace (2 ^ 31 + 2 ^ 18 + 0x100) 4 true 1) (gang 0 0 0 [] []) = true ∧
    ran (localPlace 0x10 8 true 1) (coreS 0 0 0 0) = true := by decide
theorem test_local_accesses :
    trapOf (.sts ⟨0, 17, 16, 28, 1⟩) (coreN (2 ^ 31 + 0x200) 5 0 0) = some (16, 0x1100000080000200) ∧
    trapOf (.sts ⟨0, 17, 16, 28, 1⟩) (gang (2 ^ 31 + 2 * 2 ^ 18 + 0x200) 5 0 [] []) = some (16, 0x2100000080080200) ∧
    after (.sts ⟨0, 17, 16, 28, 1⟩) (coreS 0x10 0xABCD 0 0) (fun t => leNat (memRead t.pools 0x10 2)) = some 0xABCD := by decide
theorem test_meets_StreamAndCacheWords_lines : (dirtyN 0x100000 33).memOk = true ∧ touchesCell (dirtyN 0 0) 0x100000 32 = false ∧
    touchesCell { dirtyN 0 0 with cells := [(0x100000, .xa32)] } 0x100020 32 = true ∧ 2 ^ 56 ≤ (0x100000000000000 : W).toNat ∧ (1 : W) ≠ 0 ∧
    Machine.translate { dirtyN 0 0 with poison := [(0x8000, 0)] } 0 0x100000 ≠ .poisoned ∧
    (pageParts 0x100000 33).length = 1 ∧ Machine.translate (pagedN 0b1011 0 0 0 0) 0 0x10000 = .unmapped none := by decide
theorem test_lines_written_back :
    after (.inv ⟨0, 16, 17⟩) { dirtyN 0x100000 33 with poison := [(0x8000, 0)] } (fun t => (memGet t.mem 0x100000, memGet t.mem 0x100020,
      (coreOf t 0).l1.length, t.poison)) = some (9, 8, 0, []) ∧
    after (.wb ⟨0, 16, 17⟩) (dirtyN 0x100000 32) (fun t => (memGet t.mem 0x100000, (coreOf t 0).l1.map (·.dirty))) = some (9, [false, true]) ∧
    after (.wb ⟨0, 16, 17⟩) { dirtyN 0x100000 1 with cells := [(0x100000, .xa32)] } (fun t => (memGet t.mem 0x100000, t.cur.failed.refused)) =
      some (0x88, true) ∧
    after (.wb ⟨0, 16, 17⟩) (memN 0x100000000000000 1 0 0) (fun t => t.module.frozen) = some (some 1) := by decide +kernel
theorem test_bfill_counts_iterations : after (.bfill ⟨0, 16, 17, 18⟩) (memN 0x100003 2 5 0) (fun t => (t.cur.iters, t.cur.pc)) = some (1, 0x1000) := by decide
theorem test_meets_AtomicsIssueAndPerform_evicts : (let s1 := evictOf (dirtyN 0 0) 0 0x100000 8
    (touchesCell s1 0x100000 8, poisonedMem s1 0x100000 8, (coreOf s1 0).l1.length, memGet s1.mem 0x100000)) = (false, false, 1, 9) ∧
    homeField (evictOf (dirtyN 0 0) 0 0x400000 8) 0x400000 = none ∧ touchesCell (evictOf { dirtyN 0 0 with cells := [(0x100000, .xa32)] } 0 0x100000 8) 0x100000 8 = true ∧
    poisonedMem (evictOf { memN 0 0 0 0 with poison := [(0x8000, 0)] } 0 0x100000 8) 0x100000 8 = true := by decide +kernel
theorem test_meets_FencesAndCodePublication_pending : storesPending (memN 0 0 0 0) = false ∧
    storesPending (emit (memN 0 0 0 0) (.storePerform ⟨0, 1, .mem 0, [1]⟩)) = true ∧ storesPending (emit (memN 0 0 0 0) (.remoteStore 0 packet0)) = true ∧
    after (.fence ⟨0, 18, 3, 1⟩) (emit (memN 0 0 0 0) (.remoteStore 0 packet0)) (fun t => t.cur.pc) = some 0x1000 := by decide
theorem test_meets_QueueOperationsAtTheirHome_appends : appendsPending (memN 0 0 0 0) 0 = false ∧
    after (.deq ⟨0, 18, 16⟩) (emit (queueN 0 0 1 0x200000 0 0) (.divideComplete ⟨0, 9, .stream 3 (.mem 0x300000) 8 false, 5, 9⟩)) (fun t => t.cur.pc) =
      some 0x1000 := by decide
/-- A cell at 0x100000 of the value 1, with flags, whose read-out FPFLAGS or a trap takes. -/
def cellN (flags : BitVec 4) : State := { st with
  cells := [(0x100000, .xa32)], mem := memWrite [] 0x100000 (cellImage .xa32 ⟨2 ^ 149, flags⟩), cur := { slot0 with q := slot0.q.set 0 ⟨0, 9, 0⟩ } }
/-- The value of a read-out of that cell. -/
def readN (flags : BitVec 4) (fmt mode : BitVec 3) : Option W :=
  after (.homeCellOperation ⟨0, 9, .none, 0, 0x100000, 0x100000, 0, .read fmt mode⟩) (cellN flags) fun t => (qEntry t.cur 0).val
theorem test_meets_CellsAddExactly_readout : (readOut .xa32 ⟨2 ^ 149 + 1, 0⟩ 1 .rne).2 &&& 1 ≠ 0 ∧ (readOut .xa32 ⟨2 ^ 149, 0⟩ 1 .rne).2 &&& 1 = 0 ∧
    (contribution (addend 1 0x7FC00000).1 (addend 1 0x7FC00000).2) = ⟨0, 4⟩ ∧ (contribution (addend 1 0xFF800000).1 (addend 1 0xFF800000).2) = ⟨0, 2⟩ ∧
    (4 : BitVec 3).toNat < 6 ∧ cellPoisoned { cellN 0 with poison := [(0x8001, 0)] } 0x100000 .xa32 = true := by decide +kernel
theorem test_readouts : readN 0 4 0 = some 1 ∧ readN 2 4 0 = some 0xFFFFFFFF80000000 ∧ readN 2 1 0 = some 0xFF800000 ∧ readN 1 5 0 = some 0x7FFFFFFFFFFFFFFF ∧
    readN 3 1 0 = some 0x7FC00000 ∧
    after (.homeCellOperation ⟨0, 9, .none, 0x1000, 0x100000, 0x100000, 7, .read 4 0⟩) { cellN 2 with cur := { (cellN 2).cur with fpte := 0x10 } }
      (fun t => (t.cur.fpTraps.map (·.tpc), (qEntry t.cur 0).tag)) = some ([0x1000], 9) := by decide +kernel
theorem test_meets_SendsSplitWeightAndArrive_overflow : overflows spilledN 0 placeSpilled = true ∧ overflows (coreN 0 0 0 0) 0 place0 = false ∧
    freeEntry spilledN 1 = 1 ∧ bufferSize spilledN 0 1 = 0 := by decide +kernel
theorem test_meets_WeightAtItsHome_poisoned : homePoisoned (badHome homeN) 1 = true ∧ homePoisoned homeN 1 = false ∧ qdone homeN 1 = false ∧
    atHomeOf homeN 1 + lostOf homeN 1 ≠ totalOf homeN 1 ∧
    (let s := { homeN with mem := memWrite homeN.mem 0x10028 (natBytes 8 70) }
     (qdone s 1, atHomeOf s 1 + lostOf s 1 == totalOf s 1)) = (false, true) := by decide +kernel
theorem test_arm : after (.homeWeightUpdate (.arm 1 3)) homeN (fun t => (homeFlags t 1, t.events.length)) = some (2 ^ 16 + 3, 0) ∧
    after (.homeWeightUpdate (.arm 1 3)) { homeN with mem := memWrite homeN.mem 0x10028 (natBytes 8 70) } (fun t => homeFlags t 1) =
      some (2 ^ 17 + 2 ^ 16 + 3) := by decide +kernel
theorem test_poisoned_home : (trapOf (.wquery ⟨0, 18, 17⟩) (badHome homeN)).map (·.1) = some 7 ∧
    after (.homeWeightUpdate (.ret 1 9)) (badHome homeN) (fun t => leNat (memRead t.mem 0x10028 8)) = some 60 ∧
    (trapOf (.grow ⟨0, 18, 16⟩) (badHome (grower 2))).map (·.1) = some 7 ∧ homePoisoned (badHome (grower 2)) 1 = true := by decide +kernel
theorem test_meets_StrandsStartAndResume_overflow : (overflowed spilledN 0).map (·.ctx) = some 1 ∧ overflowed (coreN 0 0 0 0) 0 = none ∧
    after (.slotSelect 4096) spilledN (fun t => (t.events.length, (placementOf t 0 1).map (·.spilled))) = some (1, some []) := by decide +kernel
theorem test_meets_JobsCollectivesAndLinks_busy : jobBusy carterN 2304 = false ∧
    jobBusy (emit carterN (.divideComplete ⟨2304, 9, .none, 5, 9⟩)) 2304 = true ∧ homePoisoned (badHome (portN 1)) 1 = true ∧
    after (.kick 2304 0) (badHome (portN 1)) (fun t => (engineAt t 2304).jobs.map (·.refused.map (·.1))) = some [some 2] ∧
    poisonedPhys (portN 1) (regEntry (portN 1) 0 1 + 8) 8 = false := by decide +kernel
theorem test_meets_CrashesStartsAndMailboxCommands_restart : sup0.cur.live = true ∧ sup0.cur.sup = true ∧ kindOf (0 : HartId) = .core ∧
    (let y := restartSlot st 0 { slot0 with sup := true, hint := some 5, prev1 := .taken, entryN0 := 4, entryTrap := ⟨9, 8, 7, 0, 0⟩ }
     ((y.hint, inDelaySlot y, (nEntry y 0).val), (y.tcause, y.tinfo, y.tpc))) = ((none, false, 4), (9, 8, 7)) := by decide

/-! ### The fourth review's points -/

/-- The queue of `queueN` with HEAD 0 and TAIL 1, whose header the issuer's core holds in a dirty line with TAIL 2. -/
def heldHeader : State := setCore (queueN 0 0 1 0 0 0) 0 { Core.reset with
  l1 := [⟨0x10000, false, true, natBytes 8 0x300000 ++ natBytes 8 4 ++ natBytes 8 0 ++ natBytes 8 2, 0⟩] }
theorem test_header_line_leaves_first :
    after (.homeQueueOperation ⟨0, 9, .none, 0, 0x200000, 0x200000, identityRoot, true, .deq, 0, 0⟩) heldHeader
      (fun t => ((coreOf t 0).l1.length, leNat (memRead t.mem 0x200010 8), leNat (memRead t.mem 0x200018 8))) = some (0, 1, 2) := by decide +kernel
theorem test_meets_QueueOperationsAtTheirHome_header : unitLoc 0x200000 = .mem 0x200000 ∧ poisonedMem (evictOf heldHeader 0 0x200000 64) 0x200000 64 = false ∧
    poisonedMem (evictOf { queueN 0 0 1 0 0 0 with poison := [(0x10000, 0)] } 0 0x200000 64) 0x200000 64 = true ∧
    combining (memN 0 0 0 0) 0 = false ∧
    after (.deq ⟨0, 18, 16⟩) { queueN 0 0 1 0x200000 0 0 with combine := [⟨0, 1, 0, 0, 0x300000, .xa32, 5, 0, [⟨0, ⟨0, 0⟩, true, 0⟩]⟩] }
      (fun t => t.cur.pc) = some 0x1000 := by decide +kernel
theorem test_cell_lines_leave_first :
    after (.homeCellOperation ⟨0, 0, .none, 0, 0x100000, 0x100000, 0, .init .xa32⟩) (dirtyN 0 0)
      (fun t => ((coreOf t 0).l1.length, memGet t.mem 0x100000, memGet t.mem 0x100020)) = some (0, 0, 0) := by decide +kernel
theorem test_meets_CellsAddExactly_forward : (let a : Combine := ⟨0, 1, 0, 0, 0x100000, .xa32, 5, 0, [⟨0, ⟨0x1000, 3⟩, true, 0⟩]⟩
    let b : Combine := ⟨0, 2, 0, 0, 0x100000, .xa32, 6, 0, [⟨0, ⟨0x1004, 4⟩, true, 0⟩]⟩
    (∀ e ∈ [a, b], e.router = 0 → e.id = b.id → e = b) ∧
      after (.combineForward 0 b.id) { st with combine := [a, b] } (fun t => t.combine.map (·.ctx)) = some [1]) := by decide +kernel
/-- The interleaved name 0x80_0000_0000 is that of the vault-direct byte 0 (R327). -/
theorem test_combining_by_either_name : canonPa 0x8000000000 = 0 ∧
    ((mergeContribution routerN 0 1 0x8000000000 0 0x2000 .xa32 ⟨2, 1⟩).combine.head?).map (fun e => (e.acc, e.from_.length)) = some (7, 2) := by decide +kernel
theorem test_stale_channels_only : (let m : Msg := ⟨1, 1, 1, 50, [9], .plain, 1⟩
    let s := setCore (coreN 0 0 0 0) 0 { coreOf (coreN 0 0 0 0) 0 with ni := [m, msg0] }
    ((refuseWaiting s 0 1).events, (coreOf (refuseWaiting s 0 1) 0).ni) = ([.messageArrival 0 m], [msg0])) := by decide
theorem test_resume_holds_its_lanes : after (.vclaimGrant 0) (waiting 8 true) (fun t => ((slotOf t 1).vlanes, t.events.length)) = some (64, 2) := by decide +kernel
theorem test_refused_record_walk : (let s := { kindsN with mem := memWrite kindsN.mem 0x200000 (natBytes 8 (2 ^ 63 + 1)) }
    ((notePacket s 0 (2 ^ 48 + 0x801) 6).events.length, (notePacket s 0 0x801 6).events.length)) = (1, 0) := by decide +kernel
/-- A core keeps the root that it was placed with, a home slice takes the dispatcher's. -/
theorem test_roots : (let s := { coreN 0 0 0 0 with ctxs := [(1, { ctx1 with root := 0x700000 })] }
    (recordLoc s 0 1 0x80, agentRoot s (sliceAgent 0) 1)) = (some 0x100080, 0x700000) := by decide +kernel
/-- A translation that a core holds serves its context whatever its root table is by now. -/
theorem test_stale_translation : (let s := coreN 0 0 0 0
    let k := coreOf s 0
    Machine.translate (setCore s 0 { k with tlb := [⟨1, 0, 65536, 0x200000, 0b1011⟩] }) 0 8) = .mapped 0x200008 65536 0b1011 := by decide +kernel
/-- The registry entry of context 1 lies at 0x30080, its BUFBASE at 0x300A0, and that of its shadow at 0x8300A0. -/
def shadowN (lost : AMap (BitVec 32)) : State := { portN 1 with
  poison := lost, mem := memWrite (portN 1).mem 0x8300A0 (natBytes 8 0x40000 ++ natBytes 8 0 ++ natBytes 8 16) }
theorem test_registry_copies : bufferBase (shadowN [(0x1805, 0)]) 0 1 = some 0x40000 ∧ bufferBase (shadowN [(0x1805, 0), (0x41805, 0)]) 0 1 = none ∧
    bufferSize (shadowN [(0x1805, 0), (0x41805, 0)]) 0 1 = 0 ∧ regWord (shadowN []) 0 1 32 = some 0 ∧
    physDword (setRegDword (shadowN [(0x1805, 0)]) 0 1 0 5) 0x30080 = 5 ∧ physDword (setRegDword (shadowN [(0x1805, 0)]) 0 1 0 5) 0x8300A0 = 0x40000 := by
  decide +kernel
theorem test_meets_PacketsPlacementsAndCompletion_lost : poisonedPhys { portN 1 with poison := [(0x1180, 0)] } 0x23000 8 = true ∧
    poisonedPhys (portN 1) 0x23000 8 = false ∧ poisonedPhys (shadowN [(0x1804, 0)]) (regEntry (portN 1) 0 1 + 8) 8 = true ∧
    poisonedPhys (shadowN [(0x1804, 0)]) (regEntry (portN 1) 0 1 + 0x800000 + 8) 8 = false := by decide +kernel
theorem test_meets_JobsCollectivesAndLinks_lost : poisonedPhys { portN 1 with poison := [(0x1200, 0)] } 0x24000 16 = true ∧
    poisonedPhys (portN 1) 0x24000 16 = false ∧ poisonedPhys (portN 1) 0x24008 8 = false ∧
    after (.kick 2304 0) { portN 1 with poison := [(0x1200, 0)] } (fun t => ((engineAt t 2304).jobs, physDword t 0x24000)) = some ([], 0) := by decide +kernel
theorem test_meets_CrashesStartsAndMailboxCommands_lost : poisonedMem { st with poison := [(0x11FFC0000000 / 32, 0)] } 0x11FFC0000000 64 = true ∧
    poisonedMem (frozenN []) 0x11FFC0000000 0 = false ∧
    after (.mbWriteFirmware 7) { inStageN 0xE0 with poison := [(0x8000000000000 / 32, 0)], module := { (inStageN 0xE0).module with
      cfg := memWrite [] 0x18 (natBytes 8 0x2000) } } (fun t => t.module.mbResult) = some 6 := by decide +kernel
/-- A context that completes before its groups are placed takes them out of its queue, and the drain for them ends. -/
theorem test_early_completion : (let s := { pendingN launchN with mem := memWrite (pendingN launchN).mem 0x10038 (natBytes 8 (2 ^ 17)) }
    after (.contextComplete 1) (setDie s 0 { dieOf s 0 with drain := some (0, [0]) })
      (fun t => ((queueAt t 0).pending, (dieOf t 0).drain, t.events))) = some ([], none, [.packetDispatch 0]) := by decide +kernel
/-- The cores of the first group of a nested pipeline are stage cores, and no other group's become any. -/
theorem test_nested_stage_cores :
    stageCore (enterGroup 1 { launch0 with pipe := true } true (coreN 0 0 0 0) ⟨0, 5, 0, [1], true⟩) 1 1 = true ∧
    stageCore (enterGroup 1 { launch0 with pipe := true } true (coreN 0 0 0 0) ⟨1, 5, 0, [1], true⟩) 1 1 = false ∧
    stageCore (coreN 0 0 0 0) 1 1 = false := by decide +kernel
/-- A member keeps its number when the group of a nested launch comes to its core. -/
theorem test_member_numbers : (let s := gang 0 0 0 [] []
    memberOn (setPlacement s 1 { place0 with member := 0 }) 1 1) = 1 := by decide +kernel
theorem test_meets_BarriersAndSubscriptions_member : (ctxOf (gang 0 0 0 [] []) 1).map (·.members) = some [(0, 0), (1, 1)] ∧
    regWord (gang 0 0 0 [] []) 0 1 40 = some 0 ∧ regWord (gang 0 0 0 [] []) 0 1 48 = some 0 := by decide +kernel
/-- What the entry found stays as it was when the handler writes TPC and TINFO. -/
theorem test_entry_kept : (let y := enterHandler 0x100 5 { slot0 with inTrap := false, tcause := 9, tinfo := 8, tpc := 7, rstart := 6 }
    (enterHandler 0x100 5 { y with tpc := 1, tinfo := 2 }).entryTrap) = ⟨9, 8, 7, 6, -3⟩ := by decide
/-- `pagedN` with its page on the remote window. -/
def farN (attrs : Nat) (a b c : W) : State :=
  let s := pagedN attrs a b c 0
  { s with mem := memWrite s.mem 0x206000 (natBytes 8 (2 ^ 63 + 2 ^ 62 + 2 ^ 61 + 2 ^ 60 + 0xF000000000000 + attrs)) }
theorem test_meets_AccessChecksInTheirOrder_remote : regionOf 0xF000000000008 = .remote 0 8 ∧
    Machine.translate (farN 0b101011 0 0 0) 0 8 = .mapped 0xF000000000008 65536 0b101011 := by decide +kernel
/-- In the remote window a word that may not use it has reason 0, whatever K says (R453). -/
theorem test_remote_refused : trapOf (.ldk ⟨0, 18, 16, 28, 3⟩) (farN 0b101011 8 0 0) = some (6, 0x0300000000000008) ∧
    trapOf (.ldk ⟨0, 18, 16, 28, 3⟩) (farN 0b111001 8 0 0) = some (6, 0x0300000000000008) ∧
    trapOf (.amoAdd ⟨0, 18, 16, 17, 1⟩) (farN 0b111001 8 0 0) = some (6, 0x0200000000000008) := by decide +kernel

theorem test_meets_EveryStepKeepsMemoryCanonical : (State.reset.withFetchWord 32 0x054A1100).memOk = true ∧
    answers (step (State.reset.withFetchWord 32 0x054A1100)) = true := by decide
theorem test_meets_DecodingInvertsEncoding : Instr.wf (.add ⟨2, 0x12, 0x10, 0x11⟩) = true ∧ encode (.add ⟨2, 0x12, 0x10, 0x11⟩) = some 0x054A1100 := by decide
theorem test_meets_DecodingInvertsEncoding_decode : decode 0x054A1100 = .ok (.add ⟨2, 0x12, 0x10, 0x11⟩) := by decide
end Sys2Proof.Tests
end

section
/-!
PROOF. The special registers as they are written (O16).
-/
namespace Sys2Proof.Machine

/-! ### The special registers: what a write of one leaves of the others (R26, R81) -/

/-- A phase whose count was set in this cycle counts from there, open or not. -/
theorem phNow_of_phAt {x : Slot} {clock : Nat} (h : x.phAt = clock) : phNow x clock = x.phcnt := by
  have : Nat.min x.phcnt.toNat 0xFFFFFFFF = x.phcnt.toNat := Nat.min_eq_left (by omega)
  simp [phNow, h, this]

/-- A write of PHOPEN leaves the count as it reads (R32). -/
@[simp] theorem phNow_writePhopen (v clock : Nat) (x : Slot) :
    phNow (writePhopen v clock x) clock = phNow x clock :=
  phNow_of_phAt rfl

/-- From one state to another every special register but number `k` keeps what `csrRead` reads of it. -/
structure ReadsSame (k : Nat) (s t : State) : Prop where
  turn : t.turn = s.turn := by rfl
  tick : t.tick = s.tick := by rfl
  clock : t.clock = s.clock := by rfl
  status : k ≠ 0 → ∀ p, statusWord t.cur p = statusWord s.cur p := by intros; rfl
  fpflags : k ≠ 1 → fpflagsNow t.cur s.tick = fpflagsNow s.cur s.tick := by intros; rfl
  wcur : t.cur.wcur = s.cur.wcur := by rfl
  ctx : k ≠ 3 → t.cur.ctx = s.cur.ctx := by intros; rfl
  seed : k ≠ 4 → t.cur.seed = s.cur.seed := by intros; rfl
  partw : k ≠ 5 → t.cur.partw = s.cur.partw := by intros; rfl
  pbase : k ≠ 6 → t.cur.pbase = s.cur.pbase := by intros; rfl
  geom : k ≠ 8 → t.cur.geom = s.cur.geom := by intros; rfl
  tcause : k ≠ 0x10 → t.cur.tcause = s.cur.tcause := by intros; rfl
  tinfo : k ≠ 0x11 → t.cur.tinfo = s.cur.tinfo := by intros; rfl
  tpc : k ≠ 0x12 → t.cur.tpc = s.cur.tpc := by intros; rfl
  rstart : k ≠ 0x13 → t.cur.rstart = s.cur.rstart := by intros; rfl
  hlimit : k ≠ 0x18 → (coreOf t (agentOf s.turn)).hlimit = (coreOf s (agentOf s.turn)).hlimit := by intros; rfl
  phcnt : k ≠ 0x20 → phNow t.cur s.clock = phNow s.cur s.clock := by intros; rfl
  phexp : k ≠ 0x21 → t.cur.phexp = s.cur.phexp := by intros; rfl
  phmargin : k ≠ 0x22 → t.cur.phmargin = s.cur.phmargin := by intros; rfl
  phslack : k ≠ 0x23 → t.cur.phslack = s.cur.phslack := by intros; rfl
  phopen : k ≠ 0x24 → t.cur.phopen = s.cur.phopen := by intros; rfl
  accown : k ≠ 0x28 → (coreOf t (agentOf s.turn)).accown = (coreOf s (agentOf s.turn)).accown := by intros; rfl
  lease : leaseNow t.cur s.clock = leaseNow s.cur s.clock := by rfl
  vlanes : t.cur.vlanes = s.cur.vlanes := by rfl
  retired : t.cur.retired = s.cur.retired := by rfl
  stallcnt : k ≠ 0x32 → t.cur.stallcnt = s.cur.stallcnt := by intros; rfl

/-- A register other than the one excepted reads the same. -/
theorem ReadsSame.csrRead_eq {s t : State} {k : Nat} (h : ReadsSame k s t) {m : BitVec 11} (hm : k ≠ m.toNat) :
    csrRead t m = csrRead s m := by
  obtain ⟨turn, tick, clock, status, fpflags, wcur, ctx, seed, partw, pbase, geom, tcause, tinfo, tpc, rstart, hlimit,
    phcnt, phexp, phmargin, phslack, phopen, accown, lease, vlanes, retired, stallcnt⟩ := h
  unfold csrRead
  simp only [turn, tick, clock, wcur, lease, vlanes, retired]
  split <;> simp_all only [ne_eq, not_false_eq_true, forall_const]

/-- FPFLAGS written: no flag that was on its way by now comes on top (R149). -/
theorem fpflagsNow_write (x : Slot) (tick : Nat) (f : BitVec 5) :
    fpflagsNow { addFlags x tick tick 0 with fpflags := f } tick = f := by
  have drop : ∀ l : List DueFlags, (l.filter fun q => decide (tick < q.cycle)).foldl
      (fun f q => if q.cycle ≤ tick then f ||| q.flags else f) f = f := by
    intro l
    induction l with
    | nil => rfl
    | cons q l ih =>
      by_cases h : tick < q.cycle
      · simp [h, ih, Nat.not_le.mpr h]
      · simp [h, ih]
  simp [fpflagsNow, addFlags, drop]

theorem writeGeom_readsSame (s : State) (v : Nat) : ReadsSame 8 s { s with cur := writeGeom v s.cur } := by
  unfold writeGeom
  split
  · exact {}
  · exact { geom := fun h => absurd rfl h }

theorem writeAccown_readsSame (s : State) (v : Nat) : ReadsSame 0x28 s (writeAccown s v) := by
  unfold writeAccown
  dsimp only
  split
  · exact { hlimit := by simp, accown := fun h => absurd rfl h }
  · exact {}

/-- Each case of `csrWrite` leaves all parts but its own as they were: only that one is named in its line. -/
theorem csrWrite_readsSame (s : State) (n : BitVec 11) (w : W) : ReadsSame n.toNat s (csrWrite s n w) := by
  unfold csrWrite
  dsimp only
  split <;> rename_i e
  case h_1 => exact { status := fun h => absurd e h }
  case h_2 => exact { fpflags := fun h => absurd e h }
  case h_3 => exact { ctx := fun h => absurd e h }
  case h_4 => exact { seed := fun h => absurd e h }
  case h_5 => exact { partw := fun h => absurd e h }
  case h_6 => exact { pbase := fun h => absurd e h }
  case h_7 => exact e ▸ writeGeom_readsSame s _
  case h_8 => exact { tcause := fun h => absurd e h }
  case h_9 => exact { tinfo := fun h => absurd e h }
  case h_10 => exact { tpc := fun h => absurd e h }
  case h_11 => exact { rstart := fun h => absurd e h }
  case h_12 =>
    split
    · exact { hlimit := fun h => absurd e h, accown := by simp }
    · exact {}
  case h_13 => exact { phcnt := fun h => absurd e h }
  case h_14 => exact { phexp := fun h => absurd e h }
  case h_15 => exact { phmargin := fun h => absurd e h }
  case h_16 => exact { phslack := fun h => absurd e h }
  case h_17 => exact { phcnt := fun _ => phNow_writePhopen _ _ _, phopen := fun h => absurd e h }
  case h_18 => exact e ▸ writeAccown_readsSame s _
  case h_19 => exact { stallcnt := fun h => absurd e h }
  case h_20 => exact {}

theorem csrRead_csrWrite_other (s : State) {n m : BitVec 11} (w : W) (h : n ≠ m) :
    csrRead (csrWrite s n w) m = csrRead s m :=
  (csrWrite_readsSame s n w).csrRead_eq fun e => h (BitVec.eq_of_toNat_eq e)

/-! ### The write forms, part by part (R26, R81) -/

/-- The registers that a user may write. -/
theorem userWritable_iff (n : BitVec 11) : userWritable n = true ↔ n = 0 ∨ n = 1 ∨ n = 8 := by
  simp [userWritable, or_assoc]

/-- An assigned register reads. -/
theorem readCsr_run (i : Instr) {s : State} {n : BitVec 11} {v : W} (h : csrRead s n = some v) :
    readCsr i n s = .ok (v, s) := by
  simp [readCsr, bind, StateT.bind, Except.bind, h]

/-- An unassigned number traps ILLEGAL. -/
theorem readCsr_illegal (i : Instr) {s : State} {n : BitVec 11} (h : csrRead s n = none) :
    readCsr i n s = .error (.trap .illegal (illegalInfo (encode i) s.cur)) := by
  simp [readCsr, illegalOp, bind, StateT.bind, Except.bind, h]

/-- The state once a write of register `n` has told an overrun of the phase that stands (R32). -/
def overrunTold (n : BitVec 11) (s : State) : State :=
  if 0x020 ≤ n.toNat ∧ n.toNat ≤ 0x024 ∧ phaseOver s s.cur = true then sendOverrun s s.turn else s

/-- What a write does first when nothing holds it up. -/
theorem beforeCsrWrite_run {s : State} {n : BitVec 11}
    (free : n = 0x028 → kindOf s.turn = .core → coreBusy s (agentOf s.turn) = false) :
    beforeCsrWrite n s = .ok ((), overrunTold n s) := by
  have free : ¬ (n = 0x028 ∧ kindOf s.turn = .core ∧ coreBusy s (agentOf s.turn) = true) := fun ⟨e, k, b⟩ => by
    simp [free e k] at b
  unfold beforeCsrWrite
  rw [bind_of_gives (get_run s), if_neg free]
  by_cases phase : 0x020 ≤ n.toNat ∧ n.toNat ≤ 0x024
  · rw [if_pos phase]
    simp [settlePhase, overrunTold, phase]
  · rw [if_neg phase]
    simp [overrunTold, phase, ← and_assoc]

/-- A write of ACCOWN waits for a matrix command of the core (log entry 79). -/
theorem beforeCsrWrite_wait {s : State} (core : kindOf s.turn = .core) (busy : coreBusy s (agentOf s.turn) = true) :
    beforeCsrWrite 0x028 s = .error (.wait id) := by
  simp [beforeCsrWrite, bind, StateT.bind, Except.bind, core, busy]

/-- A write form that completes (R26, R81). -/
theorem csrUpdate_run (i : Instr) {x : CsrW} {f : W → W → W} {s s1 t : State} {a old : W} (place : MayCommit s)
    (may : s.cur.sup = true ∨ x.csr = 0 ∨ x.csr = 1 ∨ x.csr = 8) (reads : csrRead s x.csr = some old)
    (operand : Reads s x.a a s1)
    (free : x.csr = 0x028 → kindOf s1.turn = .core → coreBusy s1 (agentOf s1.turn) = false)
    (result : Produces (csrWrite (overrunTold x.csr s1) x.csr (f old a)) x.d old 2 t) :
    csrUpdate i x f s = .ok ((), committed x.st t) := by
  have may : (s.cur.sup || userWritable x.csr) = true := by simpa [userWritable_iff] using may
  unfold csrUpdate
  rw [bind_of_gives (commitPlace_run i place), bind_of_gives (readCsr_run i reads), bind_of_gives (curSlot_run s),
    bind_of_gives (require_true may ..), bind_of_gives operand, bind_of_gives (beforeCsrWrite_run free),
    bind_of_gives (modify_run ..), bind_of_gives result, finishCommit_run]

/-- A write form of ACCOWN waits while a matrix command of the core is in flight (log entry 79). -/
theorem csrUpdate_wait (i : Instr) {x : CsrW} (f : W → W → W) {s s1 : State} {a : W} (place : MayCommit s)
    (sup : s.cur.sup = true) (accown : x.csr = 0x028) (operand : Reads s x.a a s1) (core : kindOf s1.turn = .core)
    (busy : coreBusy s1 (agentOf s1.turn) = true) : csrUpdate i x f s = .error (.wait id) := by
  have reads : csrRead s x.csr = some (coreOf s (agentOf s.turn)).accown := by simp [accown, csrRead]
  have may : (s.cur.sup || userWritable x.csr) = true := by simp [sup]
  unfold csrUpdate
  rw [bind_of_gives (commitPlace_run i place), bind_of_gives (readCsr_run i reads), bind_of_gives (curSlot_run s),
    bind_of_gives (require_true may ..), bind_of_gives operand, accown, bind_of_error (beforeCsrWrite_wait core busy)]

/-- A write form of an unassigned number traps ILLEGAL (R26). -/
theorem csrUpdate_illegal (i : Instr) {x : CsrW} (f : W → W → W) {s : State} (place : MayCommit s)
    (reads : csrRead s x.csr = none) :
    csrUpdate i x f s = .error (.trap .illegal (illegalInfo (encode i) s.cur)) := by
  unfold csrUpdate
  rw [bind_of_gives (commitPlace_run i place), bind_of_error (readCsr_illegal i reads)]

/-- A write form that the mode forbids traps PROTECT (R26). -/
theorem csrUpdate_protect (i : Instr) {x : CsrW} (f : W → W → W) {s : State} {old : W} (place : MayCommit s)
    (reads : csrRead s x.csr = some old) (user : s.cur.sup = false) (may : ¬ (x.csr = 0 ∨ x.csr = 1 ∨ x.csr = 8)) :
    csrUpdate i x f s = .error (.trap .protect (x.csr.zeroExtend 64)) := by
  have may : (s.cur.sup || userWritable x.csr) = false := by
    rw [user, Bool.false_or, ← Bool.not_eq_true, userWritable_iff]
    exact may
  unfold csrUpdate
  rw [bind_of_gives (commitPlace_run i place), bind_of_gives (readCsr_run i reads), bind_of_gives (curSlot_run s),
    bind_of_error (require_false may ..)]

/-- Each write form runs the shared write with its own function of the old value and the operand. -/
theorem exec_csrForm {x : CsrW} {i : Instr} (h : i ∈ [Instr.csrwr x, .csrset x, .csrclr x]) :
    ∃ f : W → W → W, exec i = runOp (csrUpdate i x f) := by
  simp only [List.mem_cons, List.not_mem_nil, or_false] at h
  obtain rfl | rfl | rfl := h
  · exact ⟨_, rfl⟩
  · exact ⟨_, rfl⟩
  · exact ⟨_, rfl⟩

/-! ### What a special register reads after a write of it (R26 to R32) -/

/-- A field of a word's number is the bits themselves. -/
theorem field_eq_extractLsb' (w : W) (lo n : Nat) (hn : 0 < n) :
    field w.toNat (lo + n - 1) lo = (w.extractLsb' lo n).toNat := by
  have : lo + n - 1 - lo + 1 = n := by omega
  simp [field, this, Nat.shiftRight_eq_div_pow]

theorem bitOf_eq_getLsbD (w : W) (i : Nat) : bitOf w.toNat i = w.getLsbD i := by
  simp [bitOf, BitVec.getLsbD, Nat.testBit_eq_decide_div_mod_eq, beq_eq_decide]

/-- STATUS takes CHECKSTALL, FPTE and a defined RMODE from the word's bits (R27). -/
theorem writeStatus_eq (w : W) (x : Slot) :
    writeStatus w.toNat x = { x with
      checkstall := w.getLsbD 14
      fpte := w.extractLsb' 9 5
      rmode := if (w.extractLsb' 6 3).toNat < 5 then w.extractLsb' 6 3 else x.rmode } := by
  have fpte := field_eq_extractLsb' w 9 5 (by decide)
  have rmode := field_eq_extractLsb' w 6 3 (by decide)
  simp only [Nat.reduceAdd, Nat.reduceSub] at fpte rmode
  simp only [writeStatus, bitOf_eq_getLsbD, fpte, rmode, BitVec.ofNat_toNat, BitVec.setWidth_eq]

/-- WCUR, LEASE, VLANES, CYCLE and RETIRED discard a write. -/
theorem discarding_csrWrite {n : BitVec 11} (h : n ∈ [0x002, 0x029, 0x02A, 0x030, (0x031 : BitVec 11)]) (s : State)
    (w : W) : csrWrite s n w = s := by
  simp only [List.mem_cons, List.not_mem_nil, or_false] at h
  obtain rfl | rfl | rfl | rfl | rfl := h <;> rfl

theorem w64_field_zero (w : W) (hi : Nat) :
    w64 (field w.toNat hi 0) = (w.setWidth (hi + 1)).setWidth 64 := by
  apply BitVec.eq_of_toNat_eq
  simp [w64, field]

theorem writeGeom_geom (w : W) (x : Slot) : (writeGeom w.toNat x).geom =
    if (w.extractLsb' 48 4).toNat = 0 ∨ 8 < (w.extractLsb' 48 4).toNat then x.geom
    else (w.setWidth 52).setWidth 64 := by
  have width := field_eq_extractLsb' w 48 4 (by decide)
  simp only [Nat.reduceAdd, Nat.reduceSub] at width
  unfold writeGeom
  rw [width, apply_ite Slot.geom, w64_field_zero w 51]

theorem csrRead_csrWrite_fpflags (s : State) (w : W) :
    csrRead (csrWrite s 0x001 w) 0x001 = some ((w.setWidth 5).setWidth 64) :=
  congrArg (fun f : BitVec 5 => some (f.setWidth 64)) (fpflagsNow_write s.cur s.tick (w.setWidth 5))

theorem csrRead_csrWrite_partw (s : State) (w : W) :
    csrRead (csrWrite s 0x005 w) 0x005 = some ((w.setWidth 29).setWidth 64) := by
  show some ((BitVec.ofNat 32 (w.toNat % 2 ^ 29)).setWidth 64) = _
  refine congrArg some (BitVec.eq_of_toNat_eq ?_)
  simp
  omega

theorem csrRead_csrWrite_geom (s : State) (w : W) : csrRead (csrWrite s 0x008 w) 0x008 =
    some (if (w.extractLsb' 48 4).toNat = 0 ∨ 8 < (w.extractLsb' 48 4).toNat then s.cur.geom
      else (w.setWidth 52).setWidth 64) :=
  congrArg some (writeGeom_geom w s.cur)

theorem csrRead_csrWrite_phcnt (s : State) (w : W) :
    csrRead (csrWrite s 0x020 w) 0x020 = some ((w.setWidth 32).setWidth 64) :=
  congrArg (fun f : BitVec 32 => some (f.setWidth 64)) (phNow_of_phAt rfl)

theorem csrRead_csrWrite_phopen (s : State) (w : W) :
    csrRead (csrWrite s 0x024 w) 0x024 = some ((w.setWidth 1).setWidth 64) := by
  show some (w64 (b1 (bitOf w.toNat 0))) = _
  refine congrArg some (BitVec.eq_of_toNat_eq ?_)
  simp [w64, b1, bitOf]
  split <;> omega

theorem csrRead_csrWrite_core {s : State} (core : kindOf s.turn = .core) (w : W) :
    csrRead (csrWrite s 0x018 w) 0x018 = some ((w.setWidth 32).setWidth 64) ∧
      csrRead (csrWrite s 0x028 w) 0x028 = some ((w.setWidth 17).setWidth 64) := by
  constructor
  · simp [csrRead, csrWrite, core]
  · simp [csrRead, csrWrite, writeAccown, core, w64_field_zero w 16]

/-- Settles O16: each write form is the shared write, whose parts run one after another; a write touches nothing that
another register reads, and what it stores reads back cut to the register's width. -/
theorem specialRegistersWrite : Obligations.SpecialRegistersWrite := by
  refine ⟨?completes, ?waits, ?traps, fun s n m w h => csrRead_csrWrite_other s w h, ?values⟩
  case completes =>
    intro x s s1 t a old new place may reads operand free s2 result
    refine ⟨?_, ?_, ?_⟩
    · rintro rfl
      exact runOp_ok (csrUpdate_run _ place may reads operand free result)
    · rintro rfl
      exact runOp_ok (csrUpdate_run _ place may reads operand free result)
    · rintro rfl
      exact runOp_ok (csrUpdate_run _ place may reads operand free result)
  case waits =>
    intro x s s1 a place sup accown operand core busy i hi
    obtain ⟨f, hf⟩ := exec_csrForm hi
    rw [hf, runOp_wait (csrUpdate_wait i f place sup accown operand core busy), id]
  case traps =>
    intro x s place settled i hi
    obtain ⟨f, hf⟩ := exec_csrForm hi
    rw [hf]
    constructor
    · intro reads
      rw [runOp_trap (csrUpdate_illegal i f place reads), if_neg (not_not_intro settled), trapped]
    · intro reads user h0 h1 h8
      obtain ⟨old, reads⟩ := Option.ne_none_iff_exists'.mp reads
      rw [runOp_trap (csrUpdate_protect i f place reads user (not_or.mpr ⟨h0, not_or.mpr ⟨h1, h8⟩⟩)),
        if_neg (not_not_intro settled), trapped]
  case values =>
    intro s w
    exact ⟨fun n hn => discarding_csrWrite hn s w, writeStatus_eq w s.cur, csrRead_csrWrite_fpflags s w, rfl, rfl,
      csrRead_csrWrite_partw s w, rfl, csrRead_csrWrite_geom s w, rfl, rfl, rfl, rfl, csrRead_csrWrite_phcnt s w, rfl,
      rfl, rfl, csrRead_csrWrite_phopen s w, rfl, fun core => csrRead_csrWrite_core core w⟩

end Sys2Proof.Machine
end

section
/-!
PROOF. Every step keeps the memories in canonical form (O59). One lemma for each function of the model that changes the
state: where it leaves the memories alone, an equation; where it writes them through the shared operations, that it
keeps `memOk`; for an operation of a meaning, `Keeps`; for a meaning, `Canonical`. They follow the order of the
model's files.
-/
namespace Sys2Proof.Machine

/-! ### What is shared -/

/-- An update of a state literal that keeps the memories and the bytes of the configuration window. -/
@[simp] theorem update_memOk (s : State) (cur turn harts cores clusters dies ctxs queues engines links l2 poison
    poolPoison cells watches combine events inputs arbiter tick clock tags epoch) (m : Module)
    (hm : m.cfg = s.module.cfg) :
    State.memOk { s with
      cur := cur, turn := turn, harts := harts, cores := cores, clusters := clusters, dies := dies, ctxs := ctxs
      queues := queues, engines := engines, links := links, l2 := l2, poison := poison, poolPoison := poolPoison
      cells := cells, watches := watches, combine := combine, events := events, inputs := inputs, arbiter := arbiter
      tick := tick, clock := clock, tags := tags, epoch := epoch, module := m } = s.memOk := by
  simp [State.memOk, hm]

/-- A meaning's answer that, if it is a next state, has canonical memories. -/
def Canonical (o : Host.Outcome State Fault Refusal) : Prop := ∀ t, o = .next t → t.memOk = true

@[simp] theorem canonical_next {t : State} : Canonical (.next t) ↔ t.memOk = true :=
  ⟨fun h => h t rfl, fun h _ e => by cases e; exact h⟩

@[simp] theorem canonical_fault (f : Fault) : Canonical (.fault f) := fun _ e => nomatch e

@[simp] theorem canonical_refused (r : Refusal) : Canonical (.refused r) := fun _ e => nomatch e

@[simp] theorem canonical_stepTo {t : State} : Canonical (stepTo t) ↔ t.memOk = true := canonical_next

theorem canonical_runOp {op : Op Unit} {s : State} (hs : s.memOk = true) (h : Keeps op) : Canonical (runOp op s) :=
  fun _ e => runOp_memOk h hs e

/-- The laws of the shared operations that write, together as rules for `simp`. -/
@[simp] theorem shared_memOk {s : State} (h : s.memOk = true) :
    (∀ pa bs, (physWrite s pa bs).memOk = true) ∧ (∀ pa bs c, (poolWrite s c pa bs).memOk = true) ∧
    (∀ pa bs, (homeWrite s pa bs).memOk = true) ∧ (∀ c o bs, (poolPerform s c o bs).memOk = true) ∧
    (∀ l a b, (setHeadTail s l a b).memOk = true) ∧ (∀ ca n, (afterWrite s ca n).memOk = true) ∧
    (∀ d r, (fileReport s d r).memOk = true) ∧ (∀ d k u p n x c, (report s d k u p n x c).memOk = true) ∧
    (∀ g c a v, (enqFor s g c a v).memOk = true) ∧ (∀ g c a bs, (writeRecord s g c a bs).memOk = true) ∧
    (∀ c l, (installLine s c l).memOk = true) ∧ (∀ c, (flushDirty s c).memOk = true) ∧
    (∀ l, (writeBack s l).memOk = true) ∧ (∀ c l b, (cleanLines s c l b).memOk = true) ∧
    (∀ h ca n, (evictOf s h ca n).memOk = true) ∧ (∀ k c l b bs, (storeOf s k c l b bs).memOk = true) ∧
    (∀ r, (deliver s r).memOk = true) ∧ (∀ k, (deliverCommitted s k).memOk = true) ∧
    (∀ k, (rollback s k).memOk = true) ∧ (∀ c i, (closeBatch s c i).memOk = true) ∧
    (∀ c, (closeBatches s c).memOk = true) ∧ (∀ c, (kernelCrash s c).memOk = true) ∧
    (∀ k c, (crashAt s k c).memOk = true) ∧ (∀ k c, (spillMessages s k c).memOk = true) ∧
    (∀ k c, (replayLog s k c).memOk = true) ∧ (∀ k c, (endAbsence s k c).memOk = true) ∧
    (∀ k x, (leavePreempted s k x).memOk = true) ∧ (∀ h b x, (writeSaveArea s h b x).memOk = true) ∧
    (∀ h c i t, (enterCore s h c i t).memOk = true) ∧ (∀ h c i t, (takeTrap s h c i t).memOk = true) ∧
    (∀ h c i, (takeRefusal s h c i).memOk = true) ∧ (∀ g c r, (freeRecord s g c r).memOk = true) ∧
    (∀ h a b, (trapReport s h a b).memOk = true) ∧ (∀ h a b, (forgetSaved s h a b).memOk = true) ∧
    (∀ h, (abortStrand s h).memOk = true) ∧ (∀ h, (trapReturn s h).memOk = true) ∧
    (∀ h l, (evictHeader s h l).memOk = true) ∧ (∀ h l k, (evictCellOf s h l k).memOk = true) ∧
    (∀ a b c d, (writeCompletion s a b c d).memOk = true) ∧ (∀ a b c d, (setRegDword s a b c d).memOk = true) ∧
    (∀ a b c, (setCopyDword s a b c).memOk = true) := by
  simp only [physWrite_memOk, poolWrite_memOk, homeWrite_memOk, poolPerform_memOk, setHeadTail_memOk,
    afterWrite_memOk, fileReport_memOk, report_memOk, enqFor_memOk, writeRecord_memOk, installLine_memOk,
    flushDirty_memOk, writeBack_memOk, cleanLines_memOk, evictOf_memOk, storeOf_memOk, deliver_memOk,
    deliverCommitted_memOk, rollback_memOk, closeBatch_memOk, closeBatches_memOk, kernelCrash_memOk, crashAt_memOk,
    spillMessages_memOk, replayLog_memOk, endAbsence_memOk, leavePreempted_memOk, writeSaveArea_memOk,
    enterCore_memOk, takeTrap_memOk, takeRefusal_memOk, freeRecord_memOk, trapReport_memOk, forgetSaved_memOk,
    abortStrand_memOk, trapReturn_memOk, evictHeader_memOk, evictCellOf_memOk, writeCompletion_memOk,
    setRegDword_memOk, setCopyDword_memOk, h, implies_true, and_self]

/-- Reading the state keeps it. -/
theorem keeps_state : Keeps (get : Op State) :=
  fun s hs => ⟨fun _ _ e => by cases e; exact hs, fun _ e => by cases e⟩

/-- The laws of the shared operations of a meaning, together as rules for `simp`. -/
@[simp] theorem keeps_shared :
    (∀ (α : Type) (v : α), Keeps (pure v)) ∧ (∀ (α : Type) (c i), Keeps (trapWith c i : Op α)) ∧
    (∀ (α : Type) (f), Keeps (stopWith f : Op α)) ∧ (∀ (α : Type), Keeps (waitHere : Op α)) ∧
    (∀ b c i, Keeps (require b c i)) ∧ Keeps curSlot ∧ Keeps curAgent ∧ (∀ f, Keeps (modCur f)) ∧
    (∀ e, Keeps (emitOp e)) ∧ (∀ st, Keeps (finish st)) ∧ (∀ st, Keeps (finishCommit st)) ∧
    (∀ st t n a, Keeps (finishBranch st t n a)) ∧
    (∀ (α β : Type) (f : α → Op β) (l : List α) (_ : ∀ a, Keeps (f a)), Keeps (l.mapM f)) ∧
    (∀ a n w k, Keeps (localPlace a n w k)) ∧ (∀ ea n w, Keeps (scratchPlace ea n w)) ∧
    (∀ k va, Keeps (translateOp k va)) ∧ (∀ k va w b a, Keeps (permitted k va w b a)) ∧
    (∀ k n a w b ea, Keeps (checkAccess k n a w b ea)) ∧ (∀ c ca n b k va, Keeps (loadLine c ca n b k va)) ∧
    (∀ c p n, Keeps (remoteLine c p n)) ∧ Keeps settleStores ∧ (∀ ca n, Keeps (settleCells ca n)) ∧
    (∀ l n, Keeps (settleBytes l n)) ∧ (∀ n, Keeps (acquire n)) ∧ (∀ n, Keeps (release n)) ∧
    (∀ p n k va, Keeps (loadAt p n k va)) ∧ (∀ p bs, Keeps (storeAt p bs)) ∧ (∀ k n a ea, Keeps (loadVa k n a ea)) ∧
    (∀ k a ea bs, Keeps (storeVa k a ea bs)) ∧ (∀ p w, Keeps (portAddress p w)) ∧ (∀ p, Keeps (popPort p)) ∧
    (∀ p v, Keeps (appendPort p v)) ∧ (∀ p g, Keeps (stepPort p g)) ∧ (∀ p n, Keeps (reserveElement p n)) ∧
    (∀ e, Keeps (readEntry e)) ∧ (∀ f, Keeps (readSel f)) ∧ Keeps freshTag ∧ (∀ p v n, Keeps (appendResult p v n)) ∧
    (∀ d v n, Keeps (produceAt d v n)) ∧ (∀ d v n, Keeps (produce d v n)) ∧ (∀ d v, Keeps (produceNow d v)) ∧
    (∀ n d, Keeps (reserveBy n d)) ∧ (∀ d, Keeps (reserve d)) ∧ (∀ (α : Type) i, Keeps (illegalOp i : Op α)) ∧
    (∀ (α : Type) i, Keeps (slotOp i : Op α)) ∧ (∀ i, Keeps (commitPlace i)) ∧ (∀ i, Keeps (noDelaySlot i)) ∧
    Keeps (get : Op State) ∧ (∀ t : State, t.memOk = true → Keeps (set t : Op Unit)) := by
  refine ⟨fun _ => keeps_pure, fun _ => keeps_trap, fun _ => keeps_stop, fun _ => keeps_waitHere, keeps_require,
    keeps_curSlot, keeps_curAgent, keeps_modCur, keeps_emitOp, keeps_finish, keeps_finishCommit, keeps_finishBranch,
    fun _ _ _ l h => keeps_mapM h l, keeps_localPlace, keeps_scratchPlace, keeps_translateOp, keeps_permitted,
    keeps_checkAccess, keeps_loadLine, keeps_remoteLine, keeps_settleStores, keeps_settleCells, keeps_settleBytes,
    keeps_acquire, keeps_release, keeps_loadAt, keeps_storeAt, keeps_loadVa, keeps_storeVa, keeps_portAddress,
    keeps_popPort, keeps_appendPort, keeps_stepPort, keeps_reserveElement, keeps_readEntry, keeps_readSel,
    keeps_freshTag, keeps_appendResult, keeps_produceAt, keeps_produce, keeps_produceNow, keeps_reserveBy,
    keeps_reserve, fun _ => keeps_illegalOp, fun _ => keeps_slotOp, keeps_commitPlace, keeps_noDelaySlot, keeps_state,
    fun _ => keeps_set⟩

/-- A fold of changes that leave the memories as they are. -/
theorem foldl_memOk_eq {α : Type} (f : State → α → State) (hf : ∀ s a, (f s a).memOk = s.memOk) (l : List α)
    (s : State) : (l.foldl f s).memOk = s.memOk := foldl_kept State.memOk f hf l s

theorem keeps_ite {α : Type} {c : Prop} [Decidable c] {a b : Op α} (ha : Keeps a) (hb : Keeps b) :
    Keeps (if c then a else b) := by
  split
  · exact ha
  · exact hb

theorem keeps_forM {α : Type} {f : α → Op Unit} (hf : ∀ a, Keeps (f a)) (l : List α) : Keeps (l.forM f) := by
  induction l with
  | nil => exact keeps_pure _
  | cons a l ih => exact keeps_bind (hf a) fun _ => ih

/-- Canonical form without recursion: addresses strictly rising, no zero byte. -/
theorem Memory.wf_iff (m : Memory) :
    Memory.wf m = true ↔ m.Pairwise (fun c d => c.1 < d.1) ∧ ∀ c ∈ m, c.2 ≠ 0 := by
  induction m with
  | nil => simp [Memory.wf]
  | cons c m ih =>
    obtain ⟨a, b⟩ := c
    rw [Memory.wf_cons, ih, List.pairwise_cons, List.forall_mem_cons]
    unfold Memory.above
    tauto

/-- The bytes of doublewords at rising addresses that do not overlap are in canonical form. -/
theorem bytesOfWords_wf {ws : List (Nat × Nat)} (h : (ws.map Prod.fst).Pairwise fun a b => a + 8 ≤ b) :
    Memory.wf (bytesOfWords ws) = true := by
  have hmem : ∀ (w : Nat × Nat) (c : Host.Cell), (c ∈ (List.range 8).filterMap fun i =>
      let b : Byte := BitVec.ofNat 8 (w.2 / 2 ^ (8 * i))
      if b = 0 then none else some (w.1 + i, b)) → w.1 ≤ c.1 ∧ c.1 < w.1 + 8 ∧ c.2 ≠ 0 := by
    intro w c hc
    simp only [List.mem_filterMap, List.mem_range, Option.ite_none_left_eq_some, Option.some.injEq] at hc
    obtain ⟨i, hi, hb, rfl⟩ := hc
    exact ⟨Nat.le_add_right _ _, Nat.add_lt_add_left hi _, hb⟩
  rw [Memory.wf_iff, bytesOfWords, List.pairwise_flatMap]
  refine ⟨⟨fun w _ => ?_, (List.pairwise_map.mp h).imp fun hvw c hc d hd => ?_⟩, fun c hc => ?_⟩
  · refine List.Pairwise.filterMap _ (fun i j hij c hc d hd => ?_) List.pairwise_lt_range
    simp only [Option.ite_none_left_eq_some, Option.some.injEq] at hc hd
    obtain ⟨-, rfl⟩ := hc
    obtain ⟨-, rfl⟩ := hd
    exact Nat.add_lt_add_left hij w.1
  · have hc := hmem _ c hc
    have hd := hmem _ d hd
    omega
  · obtain ⟨w, -, hc⟩ := List.mem_flatMap.mp hc
    exact (hmem w c hc).2.2

/-- The addresses of the capability list's doublewords, up to those of the fenced units. -/
def capabilityAddresses : List Nat :=
  0x3000 :: capabilities.zipIdx.flatMap (fun c => [0x3010 + 16 * c.2, 0x3010 + 16 * c.2 + 8]) ++ [0x3080, 0x3088]

theorem capabilityAddresses_rising : capabilityAddresses.Pairwise (fun a b => a + 8 ≤ b) ∧
    ∀ a ∈ capabilityAddresses, a + 8 ≤ 0x3090 := by decide

/-- The bytes of the capability list are in canonical form, however many units are fenced. -/
theorem capabilityList_wf (fenced : List Nat) : Memory.wf (capabilityList fenced) = true := by
  refine bytesOfWords_wf ?_
  generalize fenced.take 29 = units
  obtain ⟨hr, hb⟩ := capabilityAddresses_rising
  have hu : (units.zipIdx.map fun u : Nat × Nat => 0x3090 + 8 * u.2).Pairwise fun a b => a + 8 ≤ b := by
    have hi : (units.zipIdx.map Prod.snd).Pairwise (· < ·) := by
      rw [List.zipIdx_map_snd]
      exact List.pairwise_lt_range'
    exact List.pairwise_map.mpr ((List.pairwise_map.mp hi).imp fun _ => by omega)
  have ha : (capabilityAddresses ++ units.zipIdx.map fun u : Nat × Nat => 0x3090 + 8 * u.2).Pairwise
      fun a b => a + 8 ≤ b := by
    refine List.pairwise_append.mpr ⟨hr, hu, fun a ha b hu => ?_⟩
    obtain ⟨u, -, rfl⟩ := List.mem_map.mp hu
    exact (hb a ha).trans (Nat.le_add_right _ _)
  simp only [List.map_append, List.map_cons, List.map_flatMap, List.map_map, List.map_nil]
  simp only [capabilityAddresses, List.append_assoc, List.cons_append, List.nil_append] at ha ⊢
  exact ha

/-! ### Machine/Phys -/

@[simp] theorem switchTo_memOk (s : State) (h : HartId) : (switchTo s h).memOk = s.memOk := by
  unfold switchTo
  split <;> rfl

/-! ### Machine/Home -/

@[simp] theorem touchLine_memOk (s : State) (write header : Bool) (ca n : Nat) :
    (touchLine s write header ca n).memOk = s.memOk := rfl

@[simp] theorem setHome_memOk {s : State} (c : BitVec 16) (off v : Nat) (hs : s.memOk = true) :
    (setHome s c off v).memOk = true := by
  unfold setHome
  split <;> simp [hs]

@[simp] theorem quiesceTest_memOk {s : State} (c : BitVec 16) (hs : s.memOk = true) :
    (quiesceTest s c).memOk = true := by
  unfold quiesceTest
  dsimp only
  repeat' split
  all_goals simp [hs]

@[simp] theorem returnWeight_memOk {s : State} (c : BitVec 16) (w : Nat) (hs : s.memOk = true) :
    (returnWeight s c w).memOk = true := by
  simp [returnWeight, hs]

@[simp] theorem writeOffWeight_memOk {s : State} (c : BitVec 16) (w : Nat) (hs : s.memOk = true) :
    (writeOffWeight s c w).memOk = true := by
  simp [writeOffWeight, hs]

theorem mintWeight_memOk {s t : State} {c : BitVec 16} {w : Nat} (hs : s.memOk = true) (e : mintWeight s c w = some t) :
    t.memOk = true := by
  unfold mintWeight at e
  split at e
  · cases e
    simp [hs]
  · cases e

/-! ### Machine/Descriptor -/

@[simp] theorem afterEnq_memOk (s : State) (l : Loc) : (afterEnq s l).memOk = s.memOk := by
  unfold afterEnq
  repeat' split
  all_goals rfl

/-! ### Machine/Registry -/

@[simp] theorem writeUpdate_memOk {s : State} (core start : Nat) (bytes : List (Nat × Byte)) (hs : s.memOk = true) :
    (writeUpdate s core start bytes).memOk = true :=
  foldl_memOk _ (fun _ _ h => poolPerform_memOk _ _ _ h) _ _ hs

@[simp] theorem noteLog_memOk (s : State) (core : Nat) (c : BitVec 16) (pubCore slot : Nat) (note : LogNote) :
    (noteLog s core c pubCore slot note).memOk = s.memOk := by
  unfold noteLog
  repeat' split
  all_goals rfl

/-! ### Machine/Cache -/

@[simp] theorem updateResident_memOk (s : State) (core ca : Nat) (bs : List Byte) :
    (updateResident s core ca bs).memOk = s.memOk := rfl

/-! ### Machine/Fp -/

@[simp] theorem keeps_roundingFor (lane : Nat) : Keeps (roundingFor lane) := by
  unfold roundingFor
  repeat' first
    | with_reducible refine keeps_bind ?_ fun _ => ?_
    | split
  all_goals simp

@[simp] theorem keeps_raiseFlags (word latency : Nat) (flags : BitVec 5) : Keeps (raiseFlags word latency flags) := by
  unfold raiseFlags
  repeat' with_reducible refine keeps_bind ?_ fun _ => ?_
  all_goals simp

@[simp] theorem keeps_fpResult (i : Instr) (st : BitVec 3) (d : Sel) (latency : Nat) (v : W) (flags : BitVec 5) :
    Keeps (fpResult i st d latency v flags) := by
  unfold fpResult
  repeat' with_reducible refine keeps_bind ?_ fun _ => ?_
  all_goals simp

@[simp] theorem keeps_fpBinary (i : Instr) (x : FRRR) (latency : Nat) (f : FpFmt → Nat → Nat → FpResult) :
    Keeps (fpBinary i x latency f) := by
  unfold fpBinary
  repeat' with_reducible refine keeps_bind ?_ fun _ => ?_
  all_goals simp

@[simp] theorem keeps_fpRounded (i : Instr) (x : FRRR) (latency : Nat)
    (f : FpFmt → Rounding → FpVal → FpVal → FpResult) : Keeps (fpRounded i x latency f) := by
  unfold fpRounded
  repeat' with_reducible refine keeps_bind ?_ fun _ => ?_
  all_goals simp

@[simp] theorem keeps_keepTrap (i : Instr) (cycles : Nat) (divides : Bool) (flags : BitVec 5) :
    Keeps (keepTrap i cycles divides flags) := by
  unfold keepTrap
  repeat' with_reducible refine keeps_bind ?_ fun _ => ?_
  all_goals simp

@[simp] theorem keeps_fpVariable (i : Instr) (st : BitVec 3) (d : Sel) (cycles : Nat) (r : FpResult) :
    Keeps (fpVariable i st d cycles r) := by
  unfold fpVariable
  repeat' first
    | with_reducible refine keeps_bind ?_ fun _ => ?_
    | split
  all_goals simp

@[simp] theorem execFdiv_canonical (x : FRRR) {s : State} (hs : s.memOk = true) : Canonical (execFdiv x s) := by
  refine canonical_runOp hs ?_
  repeat' with_reducible refine keeps_bind ?_ fun _ => ?_
  all_goals simp

@[simp] theorem execFsqrt_canonical (x : FRR) {s : State} (hs : s.memOk = true) : Canonical (execFsqrt x s) := by
  refine canonical_runOp hs ?_
  repeat' with_reducible refine keeps_bind ?_ fun _ => ?_
  all_goals simp

@[simp] theorem execFpDivideComplete_canonical (r : Delivery) (flags : BitVec 5) {s : State} (hs : s.memOk = true) :
    Canonical (execFpDivideComplete r flags s) := by
  simp [execFpDivideComplete, hs]

@[simp] theorem execFpLateTrap_canonical (h : HartId) (tpc : Addr) (info : W) {s : State} (hs : s.memOk = true) :
    Canonical (execFpLateTrap h tpc info s) := by
  simp [execFpLateTrap, hs]

@[simp] theorem execFabs_canonical (x : FRR) {s : State} (hs : s.memOk = true) : Canonical (execFabs x s) := by
  refine canonical_runOp hs ?_
  repeat' with_reducible refine keeps_bind ?_ fun _ => ?_
  all_goals simp

@[simp] theorem execFneg_canonical (x : FRR) {s : State} (hs : s.memOk = true) : Canonical (execFneg x s) := by
  refine canonical_runOp hs ?_
  repeat' with_reducible refine keeps_bind ?_ fun _ => ?_
  all_goals simp

@[simp] theorem execFsgn_canonical (x : FRRR) {s : State} (hs : s.memOk = true) : Canonical (execFsgn x s) := by
  refine canonical_runOp hs ?_
  repeat' with_reducible refine keeps_bind ?_ fun _ => ?_
  all_goals simp

@[simp] theorem execFrnd_canonical (x : FRR) {s : State} (hs : s.memOk = true) : Canonical (execFrnd x s) := by
  refine canonical_runOp hs ?_
  repeat' with_reducible refine keeps_bind ?_ fun _ => ?_
  all_goals simp

@[simp] theorem keeps_fused (i : Instr) (x : FX) (negProduct negAddend : Bool) :
    Keeps (fused i x negProduct negAddend) := by
  unfold fused
  repeat' with_reducible refine keeps_bind ?_ fun _ => ?_
  all_goals simp

@[simp] theorem execFcvt_canonical (x : Cvt) {s : State} (hs : s.memOk = true) : Canonical (execFcvt x s) := by
  refine canonical_runOp hs ?_
  repeat' with_reducible refine keeps_bind ?_ fun _ => ?_
  all_goals simp

@[simp] theorem execFcvti_canonical (x : Cvt) {s : State} (hs : s.memOk = true) : Canonical (execFcvti x s) := by
  refine canonical_runOp hs ?_
  repeat' with_reducible refine keeps_bind ?_ fun _ => ?_
  all_goals simp

@[simp] theorem execIcvtf_canonical (x : Cvt) {s : State} (hs : s.memOk = true) : Canonical (execIcvtf x s) := by
  refine canonical_runOp hs ?_
  repeat' with_reducible refine keeps_bind ?_ fun _ => ?_
  all_goals simp

@[simp] theorem execFclass_canonical (x : FRR) {s : State} (hs : s.memOk = true) : Canonical (execFclass x s) := by
  refine canonical_runOp hs ?_
  repeat' with_reducible refine keeps_bind ?_ fun _ => ?_
  all_goals simp

/-! ### Machine/Work -/

@[simp] theorem noteRun_memOk (s : State) (core : Nat) (cls : Bool) (c : BitVec 16) :
    (noteRun s core cls c).memOk = s.memOk := rfl

@[simp] theorem rotateIfDue_memOk (s : State) : (rotateIfDue s).memOk = s.memOk := by
  unfold rotateIfDue
  split <;> rfl

/-! ### Machine/Control -/

@[simp] theorem keeps_notInBody (i : Instr) : Keeps (notInBody i) := by
  unfold notInBody
  repeat' first
    | with_reducible refine keeps_bind ?_ fun _ => ?_
    | split
  all_goals simp

@[simp] theorem keeps_branch (i : Instr) (x : Br) (cond : W → W → Bool) : Keeps (branch i x cond) := by
  unfold branch
  repeat' with_reducible refine keeps_bind ?_ fun _ => ?_
  all_goals simp

@[simp] theorem execB_canonical (x : BrL) {s : State} (hs : s.memOk = true) : Canonical (execB x s) := by
  refine canonical_runOp hs ?_
  repeat' with_reducible refine keeps_bind ?_ fun _ => ?_
  all_goals simp

@[simp] theorem execCall_canonical (x : BrL) {s : State} (hs : s.memOk = true) : Canonical (execCall x s) := by
  refine canonical_runOp hs ?_
  repeat' with_reducible refine keeps_bind ?_ fun _ => ?_
  all_goals simp

@[simp] theorem execJr_canonical (x : A1) {s : State} (hs : s.memOk = true) : Canonical (execJr x s) := by
  refine canonical_runOp hs ?_
  repeat' with_reducible refine keeps_bind ?_ fun _ => ?_
  all_goals simp

@[simp] theorem execNop_canonical (x : N0) {s : State} (hs : s.memOk = true) : Canonical (execNop x s) := by
  refine canonical_runOp hs ?_
  simp

@[simp] theorem execRgn_canonical (x : N0) {s : State} (hs : s.memOk = true) : Canonical (execRgn x s) := by
  refine canonical_runOp hs ?_
  repeat' first
    | with_reducible refine keeps_bind ?_ fun _ => ?_
    | with_reducible refine keeps_modify fun _ _ => ?_
  all_goals simp [*]

@[simp] theorem execRgnInc_canonical (x : DI) {s : State} (hs : s.memOk = true) : Canonical (execRgnInc x s) := by
  refine canonical_runOp hs ?_
  repeat' first
    | with_reducible refine keeps_bind ?_ fun _ => ?_
    | with_reducible refine keeps_modify fun _ _ => ?_
  all_goals simp [*]

@[simp] theorem execRep_canonical (x : Rep) {s : State} (hs : s.memOk = true) : Canonical (execRep x s) := by
  refine canonical_runOp hs ?_
  repeat' first
    | with_reducible refine keeps_bind ?_ fun _ => ?_
    | with_reducible refine keeps_modify fun _ _ => ?_
    | split
  all_goals simp [*]

@[simp] theorem repIteration_memOk (s : State) : (repIteration s).memOk = s.memOk := by
  unfold repIteration
  dsimp only
  repeat' split
  all_goals simp

@[simp] theorem execHint_canonical (x : Hint) {s : State} (hs : s.memOk = true) : Canonical (execHint x s) := by
  refine canonical_runOp hs ?_
  repeat' first
    | with_reducible refine keeps_bind ?_ fun _ => ?_
    | with_reducible refine keeps_modify fun _ _ => ?_
  all_goals simp [*]

@[simp] theorem execModifier_canonical (x : Modw) {s : State} (hs : s.memOk = true) :
    Canonical (execModifier x s) := by
  refine canonical_runOp hs ?_
  repeat' first
    | with_reducible refine keeps_bind ?_ fun _ => ?_
    | with_reducible refine keeps_modify fun _ _ => ?_
  all_goals simp [*]

@[simp] theorem execIllegal_canonical (word before : Word32) {s : State} (hs : s.memOk = true) :
    Canonical (execIllegal word before s) := by
  refine canonical_runOp hs ?_
  simp

@[simp] theorem execFetchFault_canonical (cause : Cause) (info : W) {s : State} (hs : s.memOk = true) :
    Canonical (execFetchFault cause info s) := by
  refine canonical_runOp hs ?_
  simp

/-! ### Machine/Memory -/

@[simp] theorem keeps_answerLoad (st : BitVec 3) (d : Sel) (bs : List Byte) (due : Nat) :
    Keeps (answerLoad st d bs due) := by
  unfold answerLoad
  repeat' with_reducible refine keeps_bind ?_ fun _ => ?_
  all_goals simp

@[simp] theorem execLd_canonical (x : Mem) {s : State} (hs : s.memOk = true) : Canonical (execLd x s) := by
  refine canonical_runOp hs ?_
  repeat' with_reducible refine keeps_bind ?_ fun _ => ?_
  all_goals simp

@[simp] theorem execSt_canonical (x : Mem) {s : State} (hs : s.memOk = true) : Canonical (execSt x s) := by
  refine canonical_runOp hs ?_
  repeat' with_reducible refine keeps_bind ?_ fun _ => ?_
  all_goals simp

@[simp] theorem execLdAcq_canonical (x : MemS) {s : State} (hs : s.memOk = true) : Canonical (execLdAcq x s) := by
  refine canonical_runOp hs ?_
  repeat' with_reducible refine keeps_bind ?_ fun _ => ?_
  all_goals simp

@[simp] theorem execStRel_canonical (x : MemS) {s : State} (hs : s.memOk = true) : Canonical (execStRel x s) := by
  refine canonical_runOp hs ?_
  repeat' with_reducible refine keeps_bind ?_ fun _ => ?_
  all_goals simp

@[simp] theorem execLds_canonical (x : RRRz) {s : State} (hs : s.memOk = true) : Canonical (execLds x s) := by
  refine canonical_runOp hs ?_
  repeat' with_reducible refine keeps_bind ?_ fun _ => ?_
  all_goals simp

@[simp] theorem execSts_canonical (x : RRRz) {s : State} (hs : s.memOk = true) : Canonical (execSts x s) := by
  refine canonical_runOp hs ?_
  repeat' with_reducible refine keeps_bind ?_ fun _ => ?_
  all_goals simp

@[simp] theorem fillConstant_memOk (s : State) (c ca : Nat) : (fillConstant s c ca).memOk = s.memOk := by
  simp [fillConstant]

@[simp] theorem keeps_loadConstant (ca n va : Nat) : Keeps (loadConstant ca n va) := by
  unfold loadConstant
  dsimp only
  repeat' first
    | with_reducible refine keeps_get fun _ _ => ?_
    | with_reducible refine keeps_bind ?_ fun _ => ?_
    | split
  all_goals simp [*]

@[simp] theorem execLdk_canonical (x : RRRz) {s : State} (hs : s.memOk = true) : Canonical (execLdk x s) := by
  refine canonical_runOp hs ?_
  repeat' first
    | with_reducible refine keeps_bind ?_ fun _ => ?_
    | split
  all_goals simp

@[simp] theorem execSbind_canonical (x : Sb) {s : State} (hs : s.memOk = true) : Canonical (execSbind x s) := by
  refine canonical_runOp hs ?_
  repeat' with_reducible refine keeps_bind ?_ fun _ => ?_
  all_goals simp

@[simp] theorem execSclose_canonical (x : Sc) {s : State} (hs : s.memOk = true) : Canonical (execSclose x s) := by
  refine canonical_runOp hs ?_
  repeat' with_reducible refine keeps_bind ?_ fun _ => ?_
  all_goals simp

@[simp] theorem execSpos_canonical (x : Sp) {s : State} (hs : s.memOk = true) : Canonical (execSpos x s) := by
  refine canonical_runOp hs ?_
  repeat' with_reducible refine keeps_bind ?_ fun _ => ?_
  all_goals simp

@[simp] theorem prefetchLine_memOk {s : State} (pa attrs : Nat) (hs : s.memOk = true) :
    (prefetchLine s pa attrs).memOk = true := by
  unfold prefetchLine
  dsimp only
  repeat' split
  all_goals simp [hs]

@[simp] theorem execPref_canonical (x : A1) {s : State} (hs : s.memOk = true) : Canonical (execPref x s) := by
  refine canonical_runOp hs ?_
  dsimp only
  repeat' first
    | with_reducible refine keeps_bind ?_ fun _ => ?_
    | with_reducible refine keeps_modify fun _ _ => ?_
    | split
  all_goals simp [*]

@[simp] theorem keeps_partLines (remote : Bool) (q : Nat × Nat) : Keeps (partLines remote q) := by
  unfold partLines
  repeat' first
    | with_reducible refine keeps_get fun _ _ => ?_
    | with_reducible refine keeps_bind ?_ fun _ => ?_
    | split
  all_goals simp [*]

@[simp] theorem keeps_rangeLines (remote : Bool) (a len : W) : Keeps (rangeLines remote a len) := by
  unfold rangeLines
  repeat' first
    | with_reducible refine keeps_bind ?_ fun _ => ?_
    | split
  all_goals simp

@[simp] theorem keeps_settleLines (lines : List Nat) : Keeps (settleLines lines) := by
  unfold settleLines
  repeat' first
    | with_reducible refine keeps_bind ?_ fun _ => ?_
    | with_reducible refine keeps_ite ?_ ?_
  all_goals simp

@[simp] theorem execWb_canonical (x : AB) {s : State} (hs : s.memOk = true) : Canonical (execWb x s) := by
  refine canonical_runOp hs ?_
  repeat' first
    | with_reducible refine keeps_bind ?_ fun _ => ?_
    | with_reducible refine keeps_modify fun _ _ => ?_
  all_goals simp [*]

@[simp] theorem execInv_canonical (x : AB) {s : State} (hs : s.memOk = true) : Canonical (execInv x s) := by
  refine canonical_runOp hs ?_
  repeat' first
    | with_reducible refine keeps_bind ?_ fun _ => ?_
    | with_reducible refine keeps_modify fun _ _ => ?_
  all_goals simp [*]

@[simp] theorem keeps_againAtGroup : Keeps againAtGroup := by
  unfold againAtGroup
  repeat' first
    | with_reducible refine keeps_bind ?_ fun _ => ?_
    | with_reducible refine keeps_modify fun _ _ => ?_
  all_goals simp [*]

@[simp] theorem keeps_setNamed (f : Sel) (v : W) : Keeps (setNamed f v) := by
  unfold setNamed
  simp

@[simp] theorem keeps_named (f : Sel) : Keeps (named f) := by
  unfold named
  repeat' with_reducible refine keeps_bind ?_ fun _ => ?_
  all_goals simp

@[simp] theorem execBmove_canonical (x : RRR) {s : State} (hs : s.memOk = true) : Canonical (execBmove x s) := by
  refine canonical_runOp hs ?_
  repeat' first
    | with_reducible refine keeps_bind ?_ fun _ => ?_
    | split
  all_goals simp

@[simp] theorem execBfill_canonical (x : RRR) {s : State} (hs : s.memOk = true) : Canonical (execBfill x s) := by
  refine canonical_runOp hs ?_
  repeat' first
    | with_reducible refine keeps_bind ?_ fun _ => ?_
    | split
  all_goals simp

@[simp] theorem execLoadResponse_canonical (r : Delivery) {s : State} (hs : s.memOk = true) :
    Canonical (execLoadResponse r s) := by
  simp [execLoadResponse, hs]

@[simp] theorem markWriter_memOk (s : State) (core off n : Nat) (h : HartId) :
    (markWriter s core off n h).memOk = s.memOk := by
  unfold markWriter
  dsimp only
  split <;> rfl

@[simp] theorem execStorePerform_canonical (r : StoreReq) {s : State} (hs : s.memOk = true) :
    Canonical (execStorePerform r s) := by
  unfold execStorePerform
  repeat' split
  all_goals simp [hs]

@[simp] theorem holdFault_memOk (s : State) (h : HartId) (f : LateFault) : (holdFault s h f).memOk = s.memOk := by
  simp [holdFault]

@[simp] theorem takeOldest_memOk {s : State} (h : HartId) (hs : s.memOk = true) : (takeOldest s h).memOk = true := by
  unfold takeOldest
  dsimp only
  split <;> simp [hs]

@[simp] theorem execLateFault_canonical {s : State} (h : HartId) (cause : Cause) (info : W) (op : IssueMark)
    (hs : s.memOk = true) : Canonical (execLateFault h cause info op s) := by
  unfold execLateFault
  dsimp only
  repeat' split
  · simp [hs]
  · simp [hs]
  · rw [canonical_stepTo, takeOldest_memOk]
    exact foldl_memOk _ (fun _ _ h => by simpa using h) _ _ (by simpa using hs)

@[simp] theorem execMissMergeWindow_canonical (_cluster : Nat) {s : State} (hs : s.memOk = true) :
    Canonical (execMissMergeWindow _cluster s) := by
  simp [execMissMergeWindow, hs]

/-! ### Machine/Atomics -/

@[simp] theorem keeps_evictPlace (l : Loc) (n : Nat) : Keeps (evictPlace l n) := by
  unfold evictPlace
  repeat' first
    | with_reducible refine keeps_bind ?_ fun _ => ?_
    | with_reducible refine keeps_modify fun _ _ => ?_
    | split
  all_goals simp [*]

@[simp] theorem lateTrap_memOk (s : State) (h : HartId) (c : Cause) (reason kind : Nat) (va : Addr) (op : IssueMark) :
    (lateTrap s h c reason kind va op).memOk = s.memOk := rfl

@[simp] theorem keeps_shipAtomic (st : BitVec 3) (d : Sel) (a b c : W) (size : Nat) (op : AtomOp) :
    Keeps (shipAtomic st d a b c size op) := by
  unfold shipAtomic
  repeat' with_reducible refine keeps_bind ?_ fun _ => ?_
  all_goals simp

@[simp] theorem keeps_amo (i : Instr) (x : Amo) (op : AtomOp) : Keeps (amo i x op) := by
  unfold amo
  repeat' with_reducible refine keeps_bind ?_ fun _ => ?_
  all_goals simp

@[simp] theorem execCas_canonical (x : Cas) {s : State} (hs : s.memOk = true) : Canonical (execCas x s) := by
  refine canonical_runOp hs ?_
  repeat' with_reducible refine keeps_bind ?_ fun _ => ?_
  all_goals simp

@[simp] theorem homeFieldAdd_memOk {s : State} (c : BitVec 16) (f b : Nat) (hs : s.memOk = true) :
    (homeFieldAdd s c f b).2.memOk = true := by
  unfold homeFieldAdd
  split
  · split
    · exact mintWeight_memOk hs ‹_›
    · exact hs
  · dsimp only
    exact returnWeight_memOk _ _ hs
  · dsimp only
    exact writeOffWeight_memOk _ _ hs

@[simp] theorem execHomeAtomic_canonical {s : State} (r : AtomicReq) (hs : s.memOk = true) :
    Canonical (execHomeAtomic r s) := by
  have ha : ∀ (x : State) (v : W), x.memOk = true → (deliver x ⟨r.h, r.tag, r.dest, v, 0⟩).memOk = true :=
    fun x v hx => deliver_memOk _ hx
  unfold execHomeAtomic
  dsimp only
  split
  · rename_i ca _
    have he : (evictOf s r.h ca r.size).memOk = true := evictOf_memOk _ _ _ hs
    generalize evictOf s r.h ca r.size = t at he
    split
    · exact canonical_stepTo.mpr he
    · split
      · exact canonical_stepTo.mpr he
      · split
        · exact canonical_stepTo.mpr (ha _ _ (homeFieldAdd_memOk _ _ _ he))
        · refine canonical_stepTo.mpr (ha _ _ ?_)
          split <;> simp [he]
  · split
    · exact canonical_stepTo.mpr hs
    · refine canonical_stepTo.mpr (ha _ _ ?_)
      split <;> simp [hs]
  · refine canonical_stepTo.mpr (ha _ _ ?_)
    split <;> simp [hs]
  · simp [hs]

@[simp] theorem keeps_shipQueue (st : BitVec 3) (d : Sel) (a b c : W) (op : QueueOp) :
    Keeps (shipQueue st d a b c op) := by
  unfold shipQueue
  repeat' first
    | with_reducible refine keeps_bind ?_ fun _ => ?_
    | split
  all_goals simp

@[simp] theorem execEnq_canonical (x : RRR) {s : State} (hs : s.memOk = true) : Canonical (execEnq x s) := by
  refine canonical_runOp hs ?_
  repeat' with_reducible refine keeps_bind ?_ fun _ => ?_
  all_goals simp

@[simp] theorem execDeq_canonical (x : RR) {s : State} (hs : s.memOk = true) : Canonical (execDeq x s) := by
  refine canonical_runOp hs ?_
  repeat' with_reducible refine keeps_bind ?_ fun _ => ?_
  all_goals simp

@[simp] theorem execSeqenq_canonical (x : RRRR) {s : State} (hs : s.memOk = true) : Canonical (execSeqenq x s) := by
  refine canonical_runOp hs ?_
  repeat' with_reducible refine keeps_bind ?_ fun _ => ?_
  all_goals simp

@[simp] theorem execSeqdeq_canonical (x : RR) {s : State} (hs : s.memOk = true) : Canonical (execSeqdeq x s) := by
  refine canonical_runOp hs ?_
  repeat' with_reducible refine keeps_bind ?_ fun _ => ?_
  all_goals simp

@[simp] theorem touchHeader_memOk (s : State) (l : Loc) : (touchHeader s l).memOk = s.memOk := by
  unfold touchHeader
  split <;> simp

@[simp] theorem evictEntry_memOk {s : State} (h : HartId) (l : Loc) (root : Nat) (sup : Bool) (op : QueueOp)
    (c : Nat) (hs : s.memOk = true) : (evictEntry s h l root sup op c).memOk = true := by
  unfold evictEntry
  dsimp only
  split <;> simp [hs]

/-- A queue operation answered with a value keeps the memories canonical, whichever of the four it is. -/
theorem queueAnswer_memOk {s t : State} {l : Loc} {root b c v : Nat} {sup : Bool} {op : QueueOp} (hs : s.memOk = true)
    (e : queueAnswer s l root sup op b c = .value v t) : t.memOk = true := by
  cases op with
  | enq => exact enqHome_memOk hs e
  | deq => exact deqHome_memOk hs e
  | seqenq => exact seqenqHome_memOk hs e
  | seqdeq => exact seqdeqHome_memOk hs e

@[simp] theorem execHomeQueueOperation_canonical {s : State} (r : QueueReq) (hs : s.memOk = true) :
    Canonical (execHomeQueueOperation r s) := by
  have he : (evictHeader s r.h (unitLoc r.pa)).memOk = true := evictHeader_memOk _ _ hs
  unfold execHomeQueueOperation
  dsimp only
  generalize evictHeader s r.h (unitLoc r.pa) = t at he
  split
  · simp [he]
  · have ht : (touchHeader (evictEntry t r.h (unitLoc r.pa) r.root r.sup r.op r.c.toNat)
        (unitLoc r.pa)).memOk = true := by
      simp [he]
    split
    · simp [he]
    · have ha := queueAnswer_memOk ht ‹_›
      split <;> simp [ha]

@[simp] theorem execFence_canonical (x : Fence) {s : State} (hs : s.memOk = true) : Canonical (execFence x s) := by
  refine canonical_runOp hs ?_
  repeat' first
    | with_reducible refine keeps_bind ?_ fun _ => ?_
    | with_reducible refine keeps_modify fun _ _ => ?_
    | split
  all_goals simp [*]

@[simp] theorem execFenceComplete_canonical (r : Delivery) (storeKinds : Bool) {s : State} (hs : s.memOk = true) :
    Canonical (execFenceComplete r storeKinds s) := by
  unfold execFenceComplete
  split <;> simp [hs]

@[simp] theorem execCpub_canonical (x : ABs) {s : State} (hs : s.memOk = true) : Canonical (execCpub x s) := by
  refine canonical_runOp hs ?_
  repeat' with_reducible refine keeps_bind ?_ fun _ => ?_
  all_goals simp

@[simp] theorem execCpubComplete_canonical {s : State} (core : Nat) (scope : BitVec 3) (lines : List Nat)
    (hs : s.memOk = true) : Canonical (execCpubComplete core scope lines s) := by
  unfold execCpubComplete
  rw [canonical_stepTo, foldl_memOk_eq _ fun _ _ => setCore_memOk _ _ _]
  exact foldl_memOk _ (fun _ _ h => cleanLines_memOk _ _ _ h) _ _ hs

@[simp] theorem execIsync_canonical (x : N0) {s : State} (hs : s.memOk = true) : Canonical (execIsync x s) := by
  refine canonical_runOp hs ?_
  simp

/-! ### Machine/Cells -/

@[simp] theorem writeCell_memOk {s : State} (pa : Nat) (bs : List Byte) (hs : s.memOk = true) :
    (writeCell s pa bs).memOk = true := by
  unfold writeCell
  exact List.foldlRecOn (motive := fun acc : State × List Byte => acc.1.memOk = true) _ _ hs
    fun _ h _ _ => homeWrite_memOk _ _ h

@[simp] theorem keeps_cellAddress (align : Nat) (a : W) : Keeps (cellAddress align a) := by
  unfold cellAddress
  repeat' first
    | with_reducible refine keeps_bind ?_ fun _ => ?_
    | split
  all_goals simp

@[simp] theorem keeps_settleAppends (pa : Nat) (k : CellKind) : Keeps (settleAppends pa k) := by
  unfold settleAppends
  repeat' first
    | with_reducible refine keeps_bind ?_ fun _ => ?_
    | split
  all_goals simp

@[simp] theorem keeps_cellPlace (align : Nat) (a : W) (kind : Option CellKind) : Keeps (cellPlace align a kind) := by
  unfold cellPlace
  repeat' with_reducible refine keeps_bind ?_ fun _ => ?_
  all_goals simp

@[simp] theorem keeps_evictCell (pa : Nat) (k : CellKind) : Keeps (evictCell pa k) := by
  unfold evictCell
  repeat' first
    | with_reducible refine keeps_bind ?_ fun _ => ?_
    | with_reducible refine keeps_modify fun _ _ => ?_
  all_goals simp [*]

@[simp] theorem keeps_shipCell (tag : Nat) (dest : Dest) (a : W) (pa : Nat) (k : CellKind) (word : Nat)
    (op : CellOp) : Keeps (shipCell tag dest a pa k word op) := by
  unfold shipCell
  repeat' with_reducible refine keeps_bind ?_ fun _ => ?_
  all_goals simp

@[simp] theorem execXinit32_canonical (x : A1) {s : State} (hs : s.memOk = true) : Canonical (execXinit32 x s) := by
  refine canonical_runOp hs ?_
  repeat' with_reducible refine keeps_bind ?_ fun _ => ?_
  all_goals simp

@[simp] theorem execXinit64_canonical (x : A1) {s : State} (hs : s.memOk = true) : Canonical (execXinit64 x s) := by
  refine canonical_runOp hs ?_
  repeat' with_reducible refine keeps_bind ?_ fun _ => ?_
  all_goals simp

@[simp] theorem execXclr_canonical (x : A1) {s : State} (hs : s.memOk = true) : Canonical (execXclr x s) := by
  refine canonical_runOp hs ?_
  repeat' with_reducible refine keeps_bind ?_ fun _ => ?_
  all_goals simp

@[simp] theorem execXread_canonical (x : Xread) {s : State} (hs : s.memOk = true) : Canonical (execXread x s) := by
  refine canonical_runOp hs ?_
  repeat' with_reducible refine keeps_bind ?_ fun _ => ?_
  all_goals simp

@[simp] theorem mergeContribution_memOk (s : State) (router : Nat) (ctx : BitVec 16) (pa : Nat) (va tpc : Addr)
    (k : CellKind) (v : CellValue) : (mergeContribution s router ctx pa va tpc k v).memOk = s.memOk := by
  unfold mergeContribution
  dsimp only
  repeat' split
  all_goals simp

@[simp] theorem execXadd_canonical (x : Xadd) {s : State} (hs : s.memOk = true) : Canonical (execXadd x s) := by
  refine canonical_runOp hs ?_
  repeat' first
    | with_reducible refine keeps_bind ?_ fun _ => ?_
    | with_reducible refine keeps_modify fun _ _ => ?_
  all_goals simp [*]

@[simp] theorem execCombineForward_canonical (router cell : Nat) {s : State} (hs : s.memOk = true) :
    Canonical (execCombineForward router cell s) := by
  unfold execCombineForward
  repeat' split
  all_goals simp [hs]

@[simp] theorem refuseCell_memOk (s : State) (r : CellReq) (c : Cause) (reason : Nat) :
    (refuseCell s r c reason).memOk = s.memOk := rfl

@[simp] theorem refusePartial_memOk (s : State) (c : Cause) (reason : Nat) (f : Contributor) :
    (refusePartial s c reason f).memOk = s.memOk := by
  unfold refusePartial
  split <;> simp

theorem initCell_canonical {s : State} (r : CellReq) (k : CellKind) (hr : r.op = .init k) (hs : s.memOk = true) :
    Canonical (execHomeCellOperation r s) := by
  have he : (evictCellOf s r.h r.pa k).memOk = true := evictCellOf_memOk _ _ _ hs
  unfold execHomeCellOperation
  rw [hr]
  dsimp only
  repeat' split
  all_goals simp [he]

theorem partialCell_canonical {s : State} (r : CellReq) {k : CellKind} {acc : Int} {flags : BitVec 4}
    {from_ : List Contributor} (hr : r.op = .partial_ k acc flags from_) (hs : s.memOk = true) :
    Canonical (execHomeCellOperation r s) := by
  have he : (from_.foldl (fun s f => evictCellOf s f.h r.pa k) s).memOk = true :=
    foldl_memOk _ (fun _ _ h => evictCellOf_memOk _ _ _ h) _ _ hs
  have hr' : ∀ (t : State) (c : Cause) (n : Nat), (from_.foldl (fun s f => refusePartial s c n f) t).memOk = t.memOk :=
    fun t c n => foldl_memOk_eq _ (fun _ _ => refusePartial_memOk ..) _ t
  unfold execHomeCellOperation
  rw [hr]
  dsimp only
  generalize from_.foldl (fun s f => evictCellOf s f.h r.pa k) s = t at he
  repeat' split
  all_goals simp [he, hr']

@[simp] theorem execHomeCellOperation_canonical {s : State} (r : CellReq) (hs : s.memOk = true) :
    Canonical (execHomeCellOperation r s) := by
  have he : ∀ pa k, (evictCellOf s r.h pa k).memOk = true := fun _ _ => evictCellOf_memOk _ _ _ hs
  cases hr : r.op with
  | init k => exact initCell_canonical r k hr hs
  | partial_ k acc flags from_ => exact partialCell_canonical r hr hs
  | read fmt mode =>
    unfold execHomeCellOperation
    rw [hr]
    dsimp only
    repeat' split
    all_goals simp [hs, he]
  | clear =>
    unfold execHomeCellOperation
    rw [hr]
    dsimp only
    repeat' split
    all_goals simp [hs, he]

/-! ### Machine/System -/

@[simp] theorem sendOverrun_memOk (s : State) (h : HartId) : (sendOverrun s h).memOk = s.memOk := by
  simp [sendOverrun]

@[simp] theorem keeps_settlePhase : Keeps settlePhase := by
  unfold settlePhase
  repeat' first
    | with_reducible refine keeps_bind ?_ fun _ => ?_
    | with_reducible refine keeps_modify fun _ _ => ?_
    | split
  all_goals simp [*]

@[simp] theorem keeps_openPhase (p : Placement) (b : W) : Keeps (openPhase p b) := by
  unfold openPhase
  repeat' first
    | with_reducible refine keeps_bind ?_ fun _ => ?_
    | with_reducible refine keeps_modify fun _ _ => ?_
  all_goals simp [*]

@[simp] theorem writeAccown_memOk (s : State) (v : Nat) : (writeAccown s v).memOk = s.memOk := by
  unfold writeAccown
  split <;> rfl

@[simp] theorem csrWrite_memOk (s : State) (n : BitVec 11) (w : W) : (csrWrite s n w).memOk = s.memOk := by
  unfold csrWrite
  repeat' split
  all_goals simp

@[simp] theorem keeps_readCsr (i : Instr) (n : BitVec 11) : Keeps (readCsr i n) := by
  unfold readCsr
  repeat' first
    | with_reducible refine keeps_bind ?_ fun _ => ?_
    | split
  all_goals simp

@[simp] theorem execCsrrd_canonical (x : CsrR) {s : State} (hs : s.memOk = true) : Canonical (execCsrrd x s) := by
  refine canonical_runOp hs ?_
  repeat' with_reducible refine keeps_bind ?_ fun _ => ?_
  all_goals simp

@[simp] theorem keeps_beforeCsrWrite (n : BitVec 11) : Keeps (beforeCsrWrite n) := by
  unfold beforeCsrWrite
  repeat' first
    | with_reducible refine keeps_bind ?_ fun _ => ?_
    | split
  all_goals simp

@[simp] theorem keeps_csrUpdate (i : Instr) (x : CsrW) (f : W → W → W) : Keeps (csrUpdate i x f) := by
  unfold csrUpdate
  repeat' first
    | with_reducible refine keeps_bind ?_ fun _ => ?_
    | with_reducible refine keeps_modify fun _ _ => ?_
  all_goals simp [*]

@[simp] theorem keeps_supervisorWord (i : Instr) : Keeps (supervisorWord i) := by
  unfold supervisorWord
  repeat' with_reducible refine keeps_bind ?_ fun _ => ?_
  all_goals simp

@[simp] theorem execTrap_canonical (x : A1) {s : State} (hs : s.memOk = true) : Canonical (execTrap x s) := by
  refine canonical_runOp hs ?_
  repeat' first
    | with_reducible refine keeps_bind ?_ fun _ => ?_
    | with_reducible refine keeps_modify fun _ _ => ?_
    | split
  all_goals simp [*]

@[simp] theorem execTret_canonical (x : N0) {s : State} (hs : s.memOk = true) : Canonical (execTret x s) := by
  refine canonical_runOp hs ?_
  repeat' first
    | with_reducible refine keeps_bind ?_ fun _ => ?_
    | with_reducible refine keeps_ite ?_ ?_
    | with_reducible refine keeps_modify fun _ _ => ?_
  all_goals simp [*]

@[simp] theorem execWfi_canonical (x : N0) {s : State} (hs : s.memOk = true) : Canonical (execWfi x s) := by
  refine canonical_runOp hs ?_
  repeat' first
    | with_reducible refine keeps_bind ?_ fun _ => ?_
    | with_reducible refine keeps_modify fun _ _ => ?_
  all_goals simp [*]

@[simp] theorem openCounts_memOk (a : W) (s : State) : (openCounts a s).memOk = s.memOk := by
  unfold openCounts
  repeat' split
  all_goals rfl

@[simp] theorem execPerf_canonical (x : RR) {s : State} (hs : s.memOk = true) : Canonical (execPerf x s) := by
  refine canonical_runOp hs ?_
  repeat' first
    | with_reducible refine keeps_bind ?_ fun _ => ?_
    | with_reducible refine keeps_modify fun _ _ => ?_
  all_goals simp [*]

@[simp] theorem execPreemptRequest_canonical {s : State} (core : Nat) (payload : W) (hs : s.memOk = true) :
    Canonical (execPreemptRequest core payload s) := by
  unfold execPreemptRequest
  rw [canonical_stepTo]
  refine foldl_memOk _ (fun s h hs => ?_) _ _ hs
  dsimp only
  repeat' split
  all_goals simp [hs]

@[simp] theorem execTimeSliceExpiry_canonical (h : HartId) {s : State} (hs : s.memOk = true) :
    Canonical (execTimeSliceExpiry h s) := by
  unfold execTimeSliceExpiry
  split <;> simp [hs]

@[simp] theorem execPreemptHoldExpiry_canonical (h : HartId) {s : State} (hs : s.memOk = true) :
    Canonical (execPreemptHoldExpiry h s) := by
  simp [execPreemptHoldExpiry, hs]

@[simp] theorem execPhaseOverrun_canonical (h : HartId) {s : State} (hs : s.memOk = true) :
    Canonical (execPhaseOverrun h s) := by
  simp [execPhaseOverrun, hs]

@[simp] theorem execPhaseOverrunMessage_canonical (h : HartId) {s : State} (hs : s.memOk = true) :
    Canonical (execPhaseOverrunMessage h s) := by
  simp [execPhaseOverrunMessage, hs]

@[simp] theorem execWfiWake_canonical (h : HartId) {s : State} (hs : s.memOk = true) :
    Canonical (execWfiWake h s) := by
  simp [execWfiWake, hs]

/-! ### Machine/Messages -/

@[simp] theorem keeps_modPlacement (f : Placement → Placement) : Keeps (modPlacement f) := by
  unfold modPlacement
  repeat' first
    | with_reducible refine keeps_bind ?_ fun _ => ?_
    | with_reducible refine keeps_modify fun _ _ => ?_
    | split
  all_goals simp [*]

@[simp] theorem keeps_channelEntry (ch : Nat) : Keeps (channelEntry ch) := by
  unfold channelEntry
  repeat' first
    | with_reducible refine keeps_bind ?_ fun _ => ?_
    | split
  all_goals simp

@[simp] theorem execHtset_canonical (x : AB) {s : State} (hs : s.memOk = true) : Canonical (execHtset x s) := by
  refine canonical_runOp hs ?_
  repeat' first
    | with_reducible refine keeps_bind ?_ fun _ => ?_
    | with_reducible refine keeps_modify fun _ _ => ?_
    | split
  all_goals simp [*]

@[simp] theorem execHtget_canonical (x : RR) {s : State} (hs : s.memOk = true) : Canonical (execHtget x s) := by
  refine canonical_runOp hs ?_
  repeat' with_reducible refine keeps_bind ?_ fun _ => ?_
  all_goals simp

@[simp] theorem keeps_setMask (st : BitVec 3) (sel : Sel) (v : Bool) : Keeps (setMask st sel v) := by
  unfold setMask
  repeat' with_reducible refine keeps_bind ?_ fun _ => ?_
  all_goals simp

@[simp] theorem keeps_checkDest (w : W) (multi push : Bool) : Keeps (checkDest w multi push) := by
  unfold checkDest
  repeat' with_reducible refine keeps_bind ?_ fun _ => ?_
  all_goals simp

@[simp] theorem keeps_splitWeight (n : Nat) (exact_ : Option W) : Keeps (splitWeight n exact_) := by
  unfold splitWeight
  repeat' first
    | with_reducible refine keeps_bind ?_ fun _ => ?_
    | split
  all_goals simp

@[simp] theorem keeps_localAddress (b : W) : Keeps (localAddress b) := by
  unfold localAddress
  repeat' with_reducible refine keeps_bind ?_ fun _ => ?_
  all_goals simp

@[simp] theorem keeps_localWords (b : W) (n : Nat) : Keeps (localWords b n) := by
  unfold localWords
  repeat' first
    | with_reducible refine keeps_bind ?_ fun _ => ?_
    | with_reducible refine keeps_mapM (fun _ => ?_) _
  all_goals simp

@[simp] theorem keeps_virtualWords (b : W) (n : Nat) : Keeps (virtualWords b n) := by
  unfold virtualWords
  repeat' first
    | with_reducible refine keeps_bind ?_ fun _ => ?_
    | with_reducible refine keeps_mapM (fun _ => ?_) _
  all_goals simp

@[simp] theorem keeps_payloadOf (w b : W) : Keeps (payloadOf w b) := by
  unfold payloadOf
  repeat' first
    | with_reducible refine keeps_bind ?_ fun _ => ?_
    | with_reducible refine keeps_ite ?_ ?_
  all_goals simp

@[simp] theorem keeps_sendAll (cores : List Nat) (ch weight : Nat) (keep : BitVec 48) (payload : List W)
    (kind : MsgKind) : Keeps (sendAll cores ch weight keep payload kind) := by
  unfold sendAll
  repeat' first
    | with_reducible refine keeps_bind ?_ fun _ => ?_
    | with_reducible refine keeps_modify fun _ _ => ?_
  all_goals simp [*]

@[simp] theorem keeps_sendShares (a b : W) (multi : Bool) : Keeps (sendShares a b multi) := by
  unfold sendShares
  repeat' with_reducible refine keeps_bind ?_ fun _ => ?_
  all_goals simp

@[simp] theorem keeps_clerkDest (w : W) : Keeps (clerkDest w) := by
  unfold clerkDest
  repeat' with_reducible refine keeps_bind ?_ fun _ => ?_
  all_goals simp

@[simp] theorem execSend_canonical (x : AB) {s : State} (hs : s.memOk = true) : Canonical (execSend x s) := by
  refine canonical_runOp hs ?_
  repeat' first
    | with_reducible refine keeps_bind ?_ fun _ => ?_
    | split
  all_goals simp

@[simp] theorem execSendm_canonical (x : AB) {s : State} (hs : s.memOk = true) : Canonical (execSendm x s) := by
  refine canonical_runOp hs ?_
  repeat' first
    | with_reducible refine keeps_bind ?_ fun _ => ?_
    | split
  all_goals simp

@[simp] theorem execSendw_canonical (x : ABC) {s : State} (hs : s.memOk = true) : Canonical (execSendw x s) := by
  refine canonical_runOp hs ?_
  repeat' first
    | with_reducible refine keeps_bind ?_ fun _ => ?_
    | split
  all_goals simp

@[simp] theorem execPush_canonical (x : AB) {s : State} (hs : s.memOk = true) : Canonical (execPush x s) := by
  refine canonical_runOp hs ?_
  repeat' first
    | with_reducible refine keeps_bind ?_ fun _ => ?_
    | split
  all_goals simp

@[simp] theorem refuseMessage_memOk {s : State} (core : Nat) (m : Msg) (hs : s.memOk = true) :
    (refuseMessage s core m).memOk = true := by
  unfold refuseMessage
  repeat' split
  all_goals simp [hs]

@[simp] theorem requestPreempt_memOk (s : State) (core : Nat) (v : W) :
    (requestPreempt s core v).memOk = s.memOk := by
  simp [requestPreempt]

@[simp] theorem execMessageArrival_canonical {s : State} (core : Nat) (m : Msg) (hs : s.memOk = true) :
    Canonical (execMessageArrival core m s) := by
  have hm : (spillOne core s m).memOk = true := spillOne_memOk _ _ hs
  unfold execMessageArrival
  dsimp only
  repeat' split
  all_goals simp [hs, hm]

/-! ### Machine/Strands -/

@[simp] theorem leaveSlot_memOk (s : State) (h : HartId) : (leaveSlot s h).memOk = s.memOk := by
  simp [leaveSlot]

@[simp] theorem suspendAs_memOk {s : State} (h : HartId) (state : Nat) (pc : Addr) (hs : s.memOk = true) :
    (suspendAs s h state pc).memOk = true := by
  simp [suspendAs, hs]

@[simp] theorem yieldAs_memOk {s : State} (h : HartId) (pc : Addr) (hs : s.memOk = true) :
    (yieldAs s h pc).memOk = true := by
  simp [yieldAs, hs]

@[simp] theorem keeps_settleStrand : Keeps settleStrand := by
  unfold settleStrand
  repeat' first
    | with_reducible refine keeps_bind ?_ fun _ => ?_
    | split
  all_goals simp

@[simp] theorem keeps_notQuiesce : Keeps notQuiesce := by
  unfold notQuiesce
  repeat' with_reducible refine keeps_bind ?_ fun _ => ?_
  all_goals simp

@[simp] theorem execSuspend_canonical (x : N0) {s : State} (hs : s.memOk = true) : Canonical (execSuspend x s) := by
  refine canonical_runOp hs ?_
  repeat' first
    | with_reducible refine keeps_bind ?_ fun _ => ?_
    | with_reducible refine keeps_modify fun _ _ => ?_
  all_goals simp [*]

@[simp] theorem execYield_canonical (x : N0) {s : State} (hs : s.memOk = true) : Canonical (execYield x s) := by
  refine canonical_runOp hs ?_
  repeat' first
    | with_reducible refine keeps_bind ?_ fun _ => ?_
    | with_reducible refine keeps_modify fun _ _ => ?_
  all_goals simp [*]

@[simp] theorem endStrand_memOk {s : State} (h : HartId) (hs : s.memOk = true) : (endStrand s h).memOk = true := by
  unfold endStrand
  dsimp only
  repeat' split
  all_goals simp [hs]

@[simp] theorem execDone_canonical (x : N0) {s : State} (hs : s.memOk = true) : Canonical (execDone x s) := by
  refine canonical_runOp hs ?_
  repeat' first
    | with_reducible refine keeps_bind ?_ fun _ => ?_
    | with_reducible refine keeps_modify fun _ _ => ?_
    | split
  all_goals simp [*]

@[simp] theorem execLSlotRotation_canonical (h : HartId) {s : State} (hs : s.memOk = true) :
    Canonical (execLSlotRotation h s) := by
  unfold execLSlotRotation
  split <;> simp [hs]

@[simp] theorem keeps_clerkWait (w : Watch) : Keeps (clerkWait w) := by
  unfold clerkWait
  repeat' first
    | with_reducible refine keeps_bind ?_ fun _ => ?_
    | with_reducible refine keeps_ite ?_ ?_
    | with_reducible refine keeps_modify fun _ _ => ?_
    | with_reducible refine keeps_wait fun _ _ => ?_
  all_goals simp [*]

@[simp] theorem execWaitv_canonical (x : ABw) {s : State} (hs : s.memOk = true) : Canonical (execWaitv x s) := by
  refine canonical_runOp hs ?_
  repeat' first
    | with_reducible refine keeps_bind ?_ fun _ => ?_
    | with_reducible refine keeps_modify fun _ _ => ?_
    | split
  all_goals simp [*]

@[simp] theorem execWatchRegister_canonical (w : Watch) {s : State} (hs : s.memOk = true) :
    Canonical (execWatchRegister w s) := by
  unfold execWatchRegister
  dsimp only
  repeat' split
  all_goals simp [hs]

@[simp] theorem execWatchFire_canonical {s : State} (w : Watch) (hs : s.memOk = true) :
    Canonical (execWatchFire w s) := by
  unfold execWatchFire
  dsimp only
  repeat' split
  all_goals first
    | exact canonical_stepTo.mpr (enqFor_memOk _ _ _ _ (homeWrite_memOk _ _ hs))
    | simp [hs]

@[simp] theorem execWborrow_canonical (x : A1) {s : State} (hs : s.memOk = true) : Canonical (execWborrow x s) := by
  refine canonical_runOp hs ?_
  repeat' with_reducible refine keeps_bind ?_ fun _ => ?_
  all_goals simp

@[simp] theorem execWeightGrant_canonical {s : State} (h : HartId) (ctx : BitVec 16) (k : W) (op : IssueMark)
    (hs : s.memOk = true) : Canonical (execWeightGrant h ctx k op s) := by
  unfold execWeightGrant
  split
  · simp [mintWeight_memOk hs ‹_›]
  · split <;> simp [hs]

@[simp] theorem execWquery_canonical (x : RR) {s : State} (hs : s.memOk = true) : Canonical (execWquery x s) := by
  refine canonical_runOp hs ?_
  repeat' with_reducible refine keeps_bind ?_ fun _ => ?_
  all_goals simp

@[simp] theorem execQarm_canonical (x : A1) {s : State} (hs : s.memOk = true) : Canonical (execQarm x s) := by
  refine canonical_runOp hs ?_
  repeat' with_reducible refine keeps_bind ?_ fun _ => ?_
  all_goals simp

@[simp] theorem execHomeWeightUpdate_canonical {s : State} (u : WeightUpd) (hs : s.memOk = true) :
    Canonical (execHomeWeightUpdate u s) := by
  unfold execHomeWeightUpdate
  dsimp only
  repeat' split
  all_goals first
    | simp [mintWeight_memOk hs ‹_›]
    | simp [hs]

@[simp] theorem execReturnCombineFlush_canonical (core : Nat) {s : State} (hs : s.memOk = true) :
    Canonical (execReturnCombineFlush core s) := by
  simp [execReturnCombineFlush, hs]

@[simp] theorem startAcquire_memOk (s : State) (core scope : Nat) : (startAcquire s core scope).memOk = s.memOk := by
  unfold startAcquire
  split <;> rfl

@[simp] theorem writePush_memOk {s : State} (core : Nat) (p : Placement) (target : Nat) (bs : List Byte)
    (hs : s.memOk = true) : (writePush s core p target bs).memOk = true := by
  unfold writePush
  split <;> simp [hs]

@[simp] theorem takeMessage_memOk (s : State) (core i : Nat) : (takeMessage s core i).memOk = s.memOk := rfl

@[simp] theorem openStage_memOk {s : State} (h : HartId) (p : Placement) (i : Nat) (hs : s.memOk = true) :
    (openStage s h p i).memOk = true := by
  have ht : (switchTo s h).memOk = true := by simp [hs]
  obtain ⟨hok, -⟩ := keeps_openPhase p (w64 i) _ ht
  unfold openStage
  dsimp only
  rw [switchTo_memOk]
  split
  · exact hok _ _ ‹_›
  · exact takeTrap_memOk _ _ _ _ ht
  · exact takeRefusal_memOk _ _ _ ht
  · exact ht

@[simp] theorem noteQuiescer_memOk (s : State) (c : BitVec 16) (crec : W) :
    (noteQuiescer s c crec).memOk = s.memOk := by
  unfold noteQuiescer
  split <;> rfl

@[simp] theorem startMessage_memOk {s : State} (h : HartId) (p : Placement) (i : Nat) (m : Msg) (crec : W)
    (hs : s.memOk = true) : (startMessage s h p i m crec).memOk = true := by
  unfold startMessage
  dsimp only
  repeat' split
  all_goals simp [hs]

@[simp] theorem startRecord_memOk {s : State} (h : HartId) (p : Placement) (crec : W) (ca : Nat) (hs : s.memOk = true) :
    (startRecord s h p crec ca).memOk = true := by
  unfold startRecord
  dsimp only
  split
  · exact hs
  · have hw := homeWrite_memOk ca (natBytes 8 (dword (memRead s.mem ca 64) 0 + 2 ^ 63)) hs
    generalize homeWrite s ca _ = t at hw
    split
    · exact report_memOk _ _ _ _ _ _ _ (freeRecord_memOk _ _ _ (by split <;> simp [hw]))
    · exact endAbsence_memOk _ _ (by simp [hw])

@[simp] theorem noteLooks_memOk (s : State) (core : Nat) : (noteLooks s core).memOk = s.memOk := by
  unfold noteLooks
  split <;> rfl

theorem deqFor_memOk {s t : State} {g : Nat} {c : BitVec 16} {a : Addr} {v : W} (hs : s.memOk = true)
    (e : deqFor s g c a = some (v, t)) : t.memOk = true := by
  unfold deqFor at e
  dsimp only at e
  repeat' split at e
  all_goals cases e
  exact deqHome_memOk hs ‹_›

theorem headRecord_memOk {s t : State} {core ca : Nat} {c : BitVec 16} {cls : Bool} {v : W} (hs : s.memOk = true)
    (e : headRecord s core c cls = some (v, ca, t)) : t.memOk = true := by
  unfold headRecord at e
  repeat' split at e
  all_goals cases e
  exact deqFor_memOk hs ‹_›

@[simp] theorem execSlotSelect_canonical {s : State} (h : HartId) (hs : s.memOk = true) :
    Canonical (execSlotSelect h s) := by
  unfold execSlotSelect
  dsimp only
  repeat' split
  all_goals first
    | simp [deqFor_memOk hs ‹_›]
    | simp [headRecord_memOk hs ‹_›]
    | simp [hs]

/-! ### Machine/Subs -/

@[simp] theorem setCtx_memOk (s : State) (c : BitVec 16) (x : Ctx) : (setCtx s c x).memOk = s.memOk := rfl

@[simp] theorem registerArrival_memOk (s : State) : (registerArrival s).memOk = s.memOk := by
  unfold registerArrival
  dsimp only
  repeat' split
  all_goals simp

@[simp] theorem keeps_barrier (st : BitVec 3) {before : Op Unit} (hb : Keeps before) : Keeps (barrier st before) := by
  unfold barrier
  repeat' first
    | with_reducible refine keeps_bind ?_ fun _ => ?_
    | with_reducible refine keeps_modify fun _ _ => ?_
    | with_reducible refine keeps_wait fun _ _ => ?_
    | split
  all_goals simp [*]

@[simp] theorem keeps_pubSettle : Keeps pubSettle := by
  unfold pubSettle
  repeat' first
    | with_reducible refine keeps_bind ?_ fun _ => ?_
    | with_reducible refine keeps_ite ?_ ?_
    | with_reducible refine keeps_wait fun _ _ => ?_
  all_goals simp [*]

@[simp] theorem execGbar_canonical (x : N0) {s : State} (hs : s.memOk = true) : Canonical (execGbar x s) := by
  refine canonical_runOp hs ?_
  repeat' with_reducible refine keeps_bind ?_ fun _ => ?_
  all_goals simp

@[simp] theorem execGbarPub_canonical (x : N0) {s : State} (hs : s.memOk = true) : Canonical (execGbarPub x s) := by
  refine canonical_runOp hs ?_
  repeat' with_reducible refine keeps_bind ?_ fun _ => ?_
  all_goals simp

@[simp] theorem execGbarEpisodeComplete_canonical (ctx : BitVec 16) {s : State} (hs : s.memOk = true) :
    Canonical (execGbarEpisodeComplete ctx s) := by
  unfold execGbarEpisodeComplete
  dsimp only
  repeat' split
  all_goals simp [hs]

@[simp] theorem execPubfence_canonical (x : N0) {s : State} (hs : s.memOk = true) : Canonical (execPubfence x s) := by
  refine canonical_runOp hs ?_
  repeat' with_reducible refine keeps_bind ?_ fun _ => ?_
  all_goals simp

@[simp] theorem dropExpect_memOk (s : State) (subCore pubCore slot : Nat) :
    (dropExpect s subCore pubCore slot).memOk = s.memOk := rfl

@[simp] theorem endSubscription_memOk (s : State) (core slot : Nat) :
    (endSubscription s core slot).memOk = s.memOk := by
  unfold endSubscription
  dsimp only
  split <;> simp

@[simp] theorem subscriptionEvent_memOk (s : State) (event slot : Nat) (t : SubSlot) :
    (subscriptionEvent s event slot t).memOk = s.memOk := rfl

@[simp] theorem endEntry_memOk (s : State) (core i : Nat) : (endEntry s core i).memOk = s.memOk := by
  unfold endEntry
  split
  · rfl
  · refine foldl_memOk_eq _ (fun s j => ?_) _ _
    split
    · rfl
    · simp

@[simp] theorem endSubscribed_memOk (s : State) (core : Nat) (c : BitVec 16) :
    (endSubscribed s core c).memOk = s.memOk :=
  foldl_memOk_eq _ (fun _ _ => endSubscription_memOk ..) _ _

@[simp] theorem execSubscribe_canonical (x : RRRR) {s : State} (hs : s.memOk = true) :
    Canonical (execSubscribe x s) := by
  refine canonical_runOp hs ?_
  repeat' first
    | with_reducible refine keeps_bind ?_ fun _ => ?_
    | split
  all_goals simp

@[simp] theorem execUnsub_canonical (x : A1) {s : State} (hs : s.memOk = true) : Canonical (execUnsub x s) := by
  refine canonical_runOp hs ?_
  repeat' first
    | with_reducible refine keeps_bind ?_ fun _ => ?_
    | with_reducible refine keeps_modify fun _ _ => ?_
    | split
  all_goals simp [*]

@[simp] theorem execBatchWindowExpiry_canonical (core entry : Nat) {s : State} (hs : s.memOk = true) :
    Canonical (execBatchWindowExpiry core entry s) := by
  simp [execBatchWindowExpiry, hs]

@[simp] theorem nextUpdate_memOk (s : State) (u : Update) : (nextUpdate s u).memOk = s.memOk := rfl
@[simp] theorem holdUpdate_memOk (s : State) (u : Update) : (holdUpdate s u).memOk = s.memOk := rfl

@[simp] theorem execUpdateApply_canonical (u : Update) {s : State} (hs : s.memOk = true) :
    Canonical (execUpdateApply u s) := by
  unfold execUpdateApply
  repeat' split
  all_goals simp [hs]

@[simp] theorem logUpdate_memOk {s : State} (u : Update) (hs : s.memOk = true) : (logUpdate s u).memOk = true := by
  unfold logUpdate
  split
  · split
    · exact hs
    · generalize updateLog s u.core _ = q
      obtain ⟨base, size⟩ := q
      dsimp only
      split
      · rw [nextUpdate_memOk, setPlacement_memOk]
        exact foldl_memOk _ (fun _ _ h => physWrite_memOk _ _ h) _ _ hs
      · simp [hs]
  · exact hs

@[simp] theorem execUpdateLogWrite_canonical (u : Update) {s : State} (hs : s.memOk = true) :
    Canonical (execUpdateLogWrite u s) := by
  simp [execUpdateLogWrite, hs]

@[simp] theorem execSubscriptionEstablish_canonical {s : State} (r : SubReq) (hs : s.memOk = true) :
    Canonical (execSubscriptionEstablish r s) := by
  unfold execSubscriptionEstablish
  dsimp only
  split
  · rw [canonical_stepTo]
    apply deliver_memOk
    split
    · simp [hs]
    · exact writeUpdate_memOk _ _ _ (by simp [hs])
  · simp [hs]
  · simp [hs]

/-! ### Machine/Launch -/

@[simp] theorem execLaunch_canonical (x : RRRR) {s : State} (hs : s.memOk = true) : Canonical (execLaunch x s) := by
  refine canonical_runOp hs ?_
  repeat' first
    | with_reducible refine keeps_bind ?_ fun _ => ?_
    | split
  all_goals simp

@[simp] theorem giveBack_memOk (s : State) (h : HartId) (given : BitVec 48) :
    (giveBack s h given).memOk = s.memOk := by
  simp [giveBack]

@[simp] theorem execLaunchAtHome_canonical {s : State} (r : LaunchReq) (hs : s.memOk = true) :
    Canonical (execLaunchAtHome r s) := by
  have he : (evictHeader s r.h (unitLoc r.pa)).memOk = true := evictHeader_memOk _ _ hs
  unfold execLaunchAtHome
  extract_lets l refuse status t u
  have hr : ∀ (x : State) (c : Cause) (n : Nat) (a : Option Nat), x.memOk = true → (refuse x c n a).memOk = true := by
    intro x c n a hx
    simp only [refuse]
    split <;> simp [hx]
  have hu : u.memOk = true := by
    rw [touchHeader_memOk]
    exact evictEntry_memOk _ _ _ _ _ _ he
  split
  · exact canonical_stepTo.mpr (hr _ _ _ _ he)
  · split
    · exact canonical_stepTo.mpr (hr _ _ _ _ (by simp [hu]))
    · have ha := enqHome_memOk hu ‹_›
      dsimp only
      split
      · simp [status, ha]
      · exact canonical_stepTo.mpr (hr _ _ _ _ (by simp [hu]))
    · have ha := enqHome_memOk hu ‹_›
      exact canonical_stepTo.mpr ha

@[simp] theorem execLaunchStatus_canonical (r : Delivery) (given : BitVec 48) {s : State} (hs : s.memOk = true) :
    Canonical (execLaunchStatus r given s) := by
  unfold execLaunchStatus
  dsimp only
  repeat' split
  all_goals simp [hs]

@[simp] theorem execGrow_canonical (x : RR) {s : State} (hs : s.memOk = true) : Canonical (execGrow x s) := by
  refine canonical_runOp hs ?_
  refine keeps_bind (keeps_commitPlace _) fun _ => keeps_bind (keeps_readSel _) fun a => keeps_get fun t ht => ?_
  dsimp only
  refine keeps_bind (keeps_require _ _ _) fun _ => ?_
  split
  · exact keeps_trap _ _
  · refine keeps_bind (keeps_require _ _ _) fun _ => ?_
    split
    · exact keeps_bind (keeps_produceNow _ _) fun _ => keeps_finishCommit _
    · rename_i hm
      split at hm
      · have hu := mintWeight_memOk ht hm
        exact keeps_bind (keeps_set hu) fun _ => keeps_bind (keeps_produceNow _ _) fun _ => keeps_finishCommit _
      · cases hm

@[simp] theorem keeps_curPlacement : Keeps curPlacement := by
  unfold curPlacement
  repeat' with_reducible refine keeps_bind ?_ fun _ => ?_
  all_goals simp

@[simp] theorem execCoord_canonical (x : RR) {s : State} (hs : s.memOk = true) : Canonical (execCoord x s) := by
  refine canonical_runOp hs ?_
  repeat' with_reducible refine keeps_bind ?_ fun _ => ?_
  all_goals simp

@[simp] theorem execSlice_canonical (x : RR) {s : State} (hs : s.memOk = true) : Canonical (execSlice x s) := by
  refine canonical_runOp hs ?_
  repeat' first
    | with_reducible refine keeps_bind ?_ fun _ => ?_
    | split
  all_goals simp

@[simp] theorem execGeom_canonical (x : RR) {s : State} (hs : s.memOk = true) : Canonical (execGeom x s) := by
  refine canonical_runOp hs ?_
  repeat' with_reducible refine keeps_bind ?_ fun _ => ?_
  all_goals simp

@[simp] theorem execTqinit_canonical (x : AB) {s : State} (hs : s.memOk = true) : Canonical (execTqinit x s) := by
  refine canonical_runOp hs ?_
  repeat' first
    | with_reducible refine keeps_get fun _ _ => ?_
    | with_reducible refine keeps_bind ?_ fun _ => ?_
    | with_reducible refine keeps_ite ?_ ?_
  all_goals simp [*]

@[simp] theorem execFetcht_canonical (x : RR) {s : State} (hs : s.memOk = true) : Canonical (execFetcht x s) := by
  refine canonical_runOp hs ?_
  dsimp only
  repeat' first
    | with_reducible refine keeps_get fun _ _ => ?_
    | with_reducible refine keeps_bind ?_ fun _ => ?_
    | split
  all_goals simp [*]

@[simp] theorem execNread_canonical (x : RAC) {s : State} (hs : s.memOk = true) : Canonical (execNread x s) := by
  refine canonical_runOp hs ?_
  repeat' first
    | with_reducible refine keeps_bind ?_ fun _ => ?_
    | split
  all_goals simp

@[simp] theorem execNreadTimeout_canonical (r : Delivery) {s : State} (hs : s.memOk = true) :
    Canonical (execNreadTimeout r s) := by
  simp [execNreadTimeout, hs]

@[simp] theorem execPhase_canonical (x : B1) {s : State} (hs : s.memOk = true) : Canonical (execPhase x s) := by
  refine canonical_runOp hs ?_
  repeat' first
    | with_reducible refine keeps_bind ?_ fun _ => ?_
    | split
  all_goals simp

@[simp] theorem execPhend_canonical (x : N0) {s : State} (hs : s.memOk = true) : Canonical (execPhend x s) := by
  refine canonical_runOp hs ?_
  repeat' first
    | with_reducible refine keeps_bind ?_ fun _ => ?_
    | with_reducible refine keeps_modify fun _ _ => ?_
  all_goals simp [*]

@[simp] theorem execSpinw_canonical (x : AB) {s : State} (hs : s.memOk = true) : Canonical (execSpinw x s) := by
  refine canonical_runOp hs ?_
  repeat' first
    | with_reducible refine keeps_bind ?_ fun _ => ?_
    | with_reducible refine keeps_ite ?_ ?_
    | with_reducible refine keeps_wait fun _ _ => ?_
  all_goals simp [*]

@[simp] theorem requestLease_memOk (s : State) (h : HartId) (word : Nat) :
    (requestLease s h word).memOk = s.memOk := by
  unfold requestLease
  split <;> simp

@[simp] theorem execPreemptResume_canonical (h : HartId) {s : State} (hs : s.memOk = true) :
    Canonical (execPreemptResume h s) := by
  unfold execPreemptResume
  dsimp only
  repeat' split
  all_goals simp [hs]

/-! ### Machine/Retire -/

@[simp] theorem zeroPool_memOk {s : State} (core off n : Nat) (hs : s.memOk = true) :
    (zeroPool s core off n).memOk = true := by
  simp only [State.memOk, Bool.and_eq_true] at hs ⊢
  obtain ⟨⟨hm, hp⟩, hc⟩ := hs
  exact ⟨⟨hm, memClear_wf _ _ hp⟩, hc⟩

@[simp] theorem scrubPad_memOk {s : State} (core base size : Nat) (inh : Inherit) (hs : s.memOk = true) :
    (scrubPad s core base size inh).memOk = true :=
  foldl_memOk _ (fun _ _ h => by split <;> simp [h]) _ _ hs

@[simp] theorem scrubTiles_memOk {s : State} (core : Nat) (p : Placement) (partw : BitVec 32) (inh : Inherit)
    (hs : s.memOk = true) : (scrubTiles s core p partw inh).memOk = true := by
  unfold scrubTiles
  extract_lets k kept t size start zero u die four
  have ht : t.memOk = true := by
    simp only [t]
    split <;> simp [hs]
  have hu : u.memOk = true := foldl_memOk _ (fun _ _ h => by simp only [zero]; split <;> simp [h]) _ _ ht
  have hfour : ∀ (s : State) (i : Nat), s.memOk = true → (four s i).memOk = true := fun s i h => by
    simp only [four]
    split <;> simp [h]
  split
  · exact hu
  · exact hfour _ _ (hfour _ _ hu)

@[simp] theorem endRegions_memOk (s : State) (core : Nat) (c : BitVec 16) (inh : Inherit) :
    (endRegions s core c inh).memOk = s.memOk :=
  foldl_memOk_eq _ (fun _ _ => endEntry_memOk _ _ _) _ _

@[simp] theorem startSuccessor_memOk {s : State} (h : HartId) (p : Placement) (r : Launch) (inh : Inherit) (scope : Nat)
    (hs : s.memOk = true) : (startSuccessor s h p r inh scope).memOk = true := by
  unfold startSuccessor
  extract_lets core x base t u v w y z a
  have hu : u.memOk = true := by
    simp only [u, t]
    split <;> simp [hs]
  have hw : w.memOk = true := scrubTiles_memOk _ _ _ _ (scrubPad_memOk _ _ _ _ hu)
  have ha : a.memOk = true := by
    simp only [a, z, y, endLanding_memOk, releaseLease_memOk, releaseLanes_memOk, releaseOslots_memOk]
    exact poolWrite_memOk _ _ _ (zeroPool_memOk _ _ _ hw)
  split <;> simp [ha]

@[simp] theorem refuseSuccessor_memOk {s : State} (h : HartId) (hs : s.memOk = true) :
    (refuseSuccessor s h).memOk = true := by
  unfold refuseSuccessor
  dsimp only
  apply endStrand_memOk
  rw [endSubscribed_memOk]
  split <;> simp [hs]

@[simp] theorem keeps_successorRecord (a : W) : Keeps (successorRecord a) := by
  unfold successorRecord
  repeat' first
    | with_reducible refine keeps_bind ?_ fun _ => ?_
    | split
  all_goals simp

@[simp] theorem execRetire_canonical (x : ABe) {s : State} (hs : s.memOk = true) : Canonical (execRetire x s) := by
  refine canonical_runOp hs ?_
  repeat' first
    | with_reducible refine keeps_bind ?_ fun _ => ?_
    | with_reducible refine keeps_modify fun _ _ => ?_
    | split
  all_goals simp [*]

/-! ### Machine/Placement -/

@[simp] theorem clearEdges_memOk {s : State} (die : Nat) (c : BitVec 16) (hs : s.memOk = true) :
    (clearEdges s die c).memOk = true := by
  simp [clearEdges, hs]

@[simp] theorem placeOn_memOk {s : State} (ctx : BitVec 16) (k : Ctx) (r : Launch) (core : Nat) (hs : s.memOk = true) :
    (placeOn s ctx k r core).memOk = true := by
  unfold placeOn
  split
  · exact hs
  · exact clearEdges_memOk _ _ (poolWrite_memOk _ _ _ (zeroPool_memOk _ _ _ hs))

@[simp] theorem enterGroup_memOk (ctx : BitVec 16) (r : Launch) (nested : Bool) (s : State) (g : GroupPlan) :
    (enterGroup ctx r nested s g).memOk = s.memOk := by
  unfold enterGroup
  refine foldl_memOk_eq _ (fun s q => ?_) _ _
  dsimp only
  repeat' split
  all_goals simp

@[simp] theorem carryOut_memOk {s : State} (q : Nat) (p : Pending) (k : Ctx) (gs : List GroupPlan)
    (hs : s.memOk = true) :
    (carryOut s q p k gs).memOk = true := by
  have hp := foldl_memOk _ (fun _ c h => placeOn_memOk p.ctx k p.rec_ c h)
    ((gs.filter (·.isNew)).flatMap (·.cores)) s hs
  have hg := (foldl_memOk_eq _ (enterGroup_memOk p.ctx p.rec_ p.nested) gs _).trans hp
  unfold carryOut
  dsimp only
  generalize List.foldl _ (List.foldl _ s _) gs = t at hg
  repeat' split
  all_goals simp [hg]

/-! ### Machine/Dispatcher -/

@[simp] theorem notePacket_memOk (s : State) (q : Nat) (v : W) (reason : Nat) :
    (notePacket s q v reason).memOk = s.memOk := by
  unfold notePacket
  split
  · rfl
  · split
    · exact foldl_memOk_eq _ (fun _ _ => noteWalkAt_memOk _ _ _ _) _ _
    · rfl

@[simp] theorem refusePacket_memOk {s : State} (q : Nat) (v : W) (reason : Nat) (hs : s.memOk = true) :
    (refusePacket s q v reason).memOk = true := by
  unfold refusePacket
  repeat' split
  all_goals simp [hs]

@[simp] theorem initHome_memOk {s : State} (c : BitVec 16) (total : Nat) (hs : s.memOk = true) :
    (initHome s c total).memOk = true := by
  simp [initHome, hs]

@[simp] theorem enterRegistry_memOk {s : State} (c : BitVec 16) (k : Ctx) (saved : Bool) (hs : s.memOk = true) :
    (enterRegistry s c k saved).memOk = true :=
  foldl_memOk _ (fun _ _ h => setRegDword_memOk _ _ _ _ h) _ _ hs

@[simp] theorem initRegistry_memOk {s : State} (c : BitVec 16) (k : Ctx) (hs : s.memOk = true) :
    (initRegistry s c k).memOk = true := by
  simp [initRegistry, hs]

@[simp] theorem pend_memOk (s : State) (q : Nat) (ctx : BitVec 16) (r : Launch) (nested : Bool) (since : Nat) :
    (pend s q ctx r nested since).memOk = s.memOk := rfl

@[simp] theorem reopenCtx_memOk {s : State} (q : Nat) (ctx : BitVec 16) (record : Nat) (r : Launch) (k : Ctx)
    (hs : s.memOk = true) : (reopenCtx s q ctx record r k).memOk = true := by
  unfold reopenCtx
  dsimp only
  rw [pend_memOk]
  refine initHome_memOk _ _ (enterRegistry_memOk _ _ _ ?_)
  rw [setCtx_memOk]
  refine foldl_memOk _ (fun s core h => ?_) _ _ hs
  split <;> simp [h]

theorem headItem_memOk {s t : State} {q : Nat} {v : W} (hs : s.memOk = true) (e : headItem s q = .ok (v, t)) :
    t.memOk = true := by
  unfold headItem at e
  dsimp only at e
  repeat' split at e
  all_goals cases e
  exact deqHome_memOk hs ‹_›

@[simp] theorem execPacketDispatch_canonical {s : State} (q : Nat) (hs : s.memOk = true) :
    Canonical (execPacketDispatch q s) := by
  unfold execPacketDispatch
  split
  · simp [hs]
  · split
    · simp [hs]
    · have ht := headItem_memOk hs ‹_›
      dsimp only
      repeat' split
      all_goals simp [hs, ht]

@[simp] theorem restoreShares_memOk (s : State) (die : Nat) : (restoreShares s die).memOk = s.memOk := rfl

@[simp] theorem execPlacementAction_canonical (die : Nat) {s : State} (hs : s.memOk = true) :
    Canonical (execPlacementAction die s) := by
  unfold execPlacementAction
  repeat' split
  all_goals simp [hs]

@[simp] theorem dropTileQ_memOk (s : State) (ctx : BitVec 16) (c : Nat) : (dropTileQ s ctx c).memOk = s.memOk := by
  unfold dropTileQ
  split <;> rfl

@[simp] theorem moveHeld_memOk {s : State} (ctx : BitVec 16) (a b : Nat) (hs : s.memOk = true) :
    (moveHeld s ctx a b).memOk = true := by
  unfold moveHeld
  split
  · split
    · exact hs
    · dsimp only
      rw [setCtx_memOk, dropTileQ_memOk, setCore_memOk, setCore_memOk, poolPoison_memOk]
      refine poolWrite_memOk _ _ _ (zeroPool_memOk _ _ _ ?_)
      rw [endSubscribed_memOk]
      exact (foldl_memOk_eq _ (fun _ _ => endSubscription_memOk ..) _ _).trans hs
  · exact hs

@[simp] theorem execContextCompact_canonical (ctx : BitVec 16) (fromCore toCore : Nat) {s : State}
    (hs : s.memOk = true) : Canonical (execContextCompact ctx fromCore toCore s) := by
  unfold execContextCompact
  split <;> simp [hs]

@[simp] theorem execGangDrain_canonical (die : Nat) {s : State} (hs : s.memOk = true) :
    Canonical (execGangDrain die s) := by
  unfold execGangDrain
  dsimp only
  repeat' split
  all_goals simp [hs]

@[simp] theorem dropPlacement_memOk (ctx : BitVec 16) (s : State) (core : Nat) :
    (dropPlacement ctx s core).memOk = s.memOk := by
  unfold dropPlacement
  split
  · rfl
  · exact foldl_memOk_eq _ (fun _ _ => endSubscription_memOk ..) _ _

@[simp] theorem freeCore_memOk (ctx : BitVec 16) (s : State) (core : Nat) :
    (freeCore ctx s core).memOk = s.memOk := by
  unfold freeCore
  dsimp only
  repeat' split
  all_goals simp

@[simp] theorem freeCluster_memOk (ctx : BitVec 16) (s : State) (c : Nat) :
    (freeCluster ctx s c).memOk = s.memOk := by
  unfold freeCluster
  dsimp only
  split <;> rfl

@[simp] theorem dropContext_memOk {s : State} (ctx : BitVec 16) (queue : Nat) (hs : s.memOk = true) :
    (dropContext s ctx queue).memOk = true := by
  unfold dropContext
  extract_lets t u v w waiting
  have ht : t.memOk = s.memOk := foldl_memOk_eq _ (fun _ _ => freeCore_memOk ..) _ _
  have hu : u.memOk = t.memOk := foldl_memOk_eq _ (fun _ _ => freeCluster_memOk ..) _ _
  exact setRegDword_memOk _ _ _ _ ((hu.trans ht).trans hs)

@[simp] theorem execContextComplete_canonical (ctx : BitVec 16) {s : State} (hs : s.memOk = true) :
    Canonical (execContextComplete ctx s) := by
  unfold execContextComplete
  repeat' split
  all_goals simp [hs]

@[simp] theorem execFrameAdvance_canonical {s : State} (hs : s.memOk = true) : Canonical (execFrameAdvance s) := by
  simp [execFrameAdvance, hs]

/-! ### Machine/Fetch -/

@[simp] theorem fillIc_memOk (s : State) (core ca : Nat) : (fillIc s core ca).memOk = s.memOk := by
  simp [fillIc]

@[simp] theorem holdSources_memOk (s : State) (ws : List Word32) : (holdSources s ws).memOk = s.memOk := by
  unfold holdSources
  dsimp only
  repeat' split
  all_goals simp

@[simp] theorem tickOne_memOk (s : State) : (tickOne s).memOk = s.memOk := rfl

@[simp] theorem holdUnissued_memOk {s : State} (t : State) : (holdUnissued s t).memOk = t.memOk := by
  unfold holdUnissued
  split <;> rfl

@[simp] theorem behindPrefixes_memOk (s : State) (ws : List Word32) : (behindPrefixes s ws).memOk = s.memOk := by
  unfold behindPrefixes
  repeat' split
  all_goals rfl

@[simp] theorem nullifiedWord_memOk (s : State) : (nullifiedWord s).memOk = s.memOk := rfl

/-! ### Machine/Engines -/

@[simp] theorem refreshPort_memOk (s : State) (die off : Nat) : (refreshPort s die off).memOk = s.memOk := by
  unfold refreshPort
  dsimp only
  repeat' split
  all_goals simp

@[simp] theorem acceptJob_memOk {s : State} (a port : Nat) (p : Port) (i : BitVec 32) (hs : s.memOk = true) :
    (acceptJob a port p s i).memOk = true := by
  unfold acceptJob
  dsimp only
  repeat' split
  all_goals first
    | simp [mintWeight_memOk hs ‹_›]
    | simp [hs]

@[simp] theorem execKick_canonical {s : State} (engine : BitVec 12) (port : Nat) (hs : s.memOk = true) :
    Canonical (execKick engine port s) := by
  unfold execKick
  dsimp only
  repeat' split
  all_goals first
    | exact canonical_stepTo.mpr (foldl_memOk _ (fun _ _ h => acceptJob_memOk _ _ _ _ h) _ _ hs)
    | simp [hs]

@[simp] theorem execJobStart_canonical (engine : BitVec 12) {s : State} (hs : s.memOk = true) :
    Canonical (execJobStart engine s) := by
  unfold execJobStart
  dsimp only
  repeat' split
  all_goals simp [hs]

@[simp] theorem execJobEnd_canonical (engine : BitVec 12) (status tcause : BitVec 8) (detail : W) {s : State}
    (hs : s.memOk = true) : Canonical (execJobEnd engine status tcause detail s) := by
  unfold execJobEnd
  dsimp only
  repeat' split
  all_goals simp [hs]

@[simp] theorem keeps_collectiveCell (k : CellKind) (va : W) : Keeps (collectiveCell k va) := by
  unfold collectiveCell
  repeat' first
    | with_reducible refine keeps_bind ?_ fun _ => ?_
    | split
  all_goals simp

@[simp] theorem keeps_endNow (status : BitVec 8) (detail : W) : Keeps (endNow status detail) := by
  unfold endNow
  repeat' first
    | with_reducible refine keeps_bind ?_ fun _ => ?_
    | with_reducible refine keeps_modify fun _ _ => ?_
  all_goals simp [*]

@[simp] theorem keeps_runCollective (block : W) (peers : List CellValue) : Keeps (runCollective block peers) := by
  unfold runCollective
  dsimp only
  repeat' first
    | with_reducible refine keeps_bind ?_ fun _ => ?_
    | with_reducible refine keeps_forM (fun _ => ?_) _
    | split
  all_goals simp

@[simp] theorem execCollective_canonical {s : State} (engine : BitVec 12) (peers : List CellValue)
    (hs : s.memOk = true) :
    Canonical (execCollective engine peers s) := by
  unfold execCollective
  dsimp only
  repeat' split
  all_goals first
    | exact canonical_runOp (by simp [hs]) (keeps_runCollective _ _)
    | simp [hs]

@[simp] theorem execRemoteStore_canonical {s : State} (port : Nat) (r : RemotePacket) (hs : s.memOk = true) :
    Canonical (execRemoteStore port r s) := by
  unfold execRemoteStore
  dsimp only
  repeat' split
  · simp [hs]
  · simp [hs]
  · simp [mintWeight_memOk hs ‹_›]

@[simp] theorem execRemoteStoreAck_canonical {s : State} (port : Nat) (accepted : Bool) (hs : s.memOk = true) :
    Canonical (execRemoteStoreAck port accepted s) := by
  unfold execRemoteStoreAck
  dsimp only
  split
  · simp [hs]
  · repeat' split
    all_goals simp [hs]

@[simp] theorem execLinkDeath_canonical {s : State} (port : Nat) (hs : s.memOk = true) :
    Canonical (execLinkDeath port s) := by
  unfold execLinkDeath
  extract_lets l t fail u a
  have hu : u.memOk = true := foldl_memOk _ (fun _ _ h => by simp [fail, h]) _ _ (by simpa [t] using hs)
  split
  · simp [hs]
  · split <;> simp [hu]

@[simp] theorem execPortRestore_canonical (port : Nat) {s : State} (hs : s.memOk = true) :
    Canonical (execPortRestore port s) := by
  unfold execPortRestore
  dsimp only
  split <;> simp [hs]

@[simp] theorem execLinkTraining_canonical (port : Nat) (partner : BitVec 16) {s : State} (hs : s.memOk = true) :
    Canonical (execLinkTraining port partner s) := by
  unfold execLinkTraining
  dsimp only
  split <;> simp [hs]

@[simp] theorem execLinkLevelRetry_canonical (port : Nat) {s : State} (hs : s.memOk = true) :
    Canonical (execLinkLevelRetry port s) := by
  simp [execLinkLevelRetry, hs]

/-! ### Machine/Integer -/

@[simp] theorem keeps_binary (x : RRR) (latency : Nat) (f : W → W → W) : Keeps (binary x latency f) := by
  unfold binary
  repeat' with_reducible refine keeps_bind ?_ fun _ => ?_
  all_goals simp

@[simp] theorem keeps_unary (x : RR) (latency : Nat) (f : W → W) : Keeps (unary x latency f) := by
  unfold unary
  repeat' with_reducible refine keeps_bind ?_ fun _ => ?_
  all_goals simp

@[simp] theorem keeps_immediate (x : RI) (f : W → W → W) : Keeps (immediate x f) := by
  unfold immediate
  repeat' with_reducible refine keeps_bind ?_ fun _ => ?_
  all_goals simp

@[simp] theorem keeps_shiftImmediate (i : Instr) (x : RI) (f : W → Nat → W) : Keeps (shiftImmediate i x f) := by
  unfold shiftImmediate
  repeat' first
    | with_reducible refine keeps_bind ?_ fun _ => ?_
    | with_reducible refine keeps_ite ?_ ?_
  all_goals simp

@[simp] theorem keeps_ternary (x : RRRR) (latency : Nat) (f : W → W → W → W) : Keeps (ternary x latency f) := by
  unfold ternary
  repeat' with_reducible refine keeps_bind ?_ fun _ => ?_
  all_goals simp

@[simp] theorem keeps_divide (x : RRR) (signed : Bool) (f : W → W → W) : Keeps (divide x signed f) := by
  unfold divide
  repeat' first
    | with_reducible refine keeps_bind ?_ fun _ => ?_
    | with_reducible refine keeps_ite ?_ ?_
  all_goals simp

@[simp] theorem execLea_canonical (x : Mem) {s : State} (hs : s.memOk = true) : Canonical (execLea x s) := by
  refine canonical_runOp hs ?_
  repeat' with_reducible refine keeps_bind ?_ fun _ => ?_
  all_goals simp

@[simp] theorem execLim_canonical (x : DI) {s : State} (hs : s.memOk = true) : Canonical (execLim x s) := by
  refine canonical_runOp hs ?_
  repeat' with_reducible refine keeps_bind ?_ fun _ => ?_
  all_goals simp

@[simp] theorem execBexti_canonical (x : BitF) {s : State} (hs : s.memOk = true) : Canonical (execBexti x s) := by
  refine canonical_runOp hs ?_
  repeat' with_reducible refine keeps_bind ?_ fun _ => ?_
  all_goals simp

@[simp] theorem execDivideComplete_canonical (r : Delivery) {s : State} (hs : s.memOk = true) :
    Canonical (execDivideComplete r s) := by
  simp [execDivideComplete, hs]

/-! ### Machine/Restart -/

@[simp] theorem execHeartWrite_canonical (clerk : Nat) (v : BitVec 32) {s : State} (hs : s.memOk = true) :
    Canonical (execHeartWrite clerk v s) := by
  simp [execHeartWrite, hs]

@[simp] theorem execHeartTimeout_canonical (_clerk : Nat) {s : State} (hs : s.memOk = true) :
    Canonical (execHeartTimeout _clerk s) := by
  simp [execHeartTimeout, hs]

@[simp] theorem noteAdoption_memOk (s : State) (bs : List Byte) : (noteAdoption s bs).memOk = s.memOk := by
  simp [noteAdoption]

@[simp] theorem adopt_memOk {s : State} (c : BitVec 16) (bs : List Byte) (hs : s.memOk = true) :
    (adopt s c bs).memOk = true := by
  unfold adopt
  dsimp only
  rw [foldl_memOk_eq _ (fun _ _ => by split <;> simp), setCtx_memOk]
  split <;> simp [hs]

@[simp] theorem dropStrand_memOk (c : BitVec 16) (s : State) (h : HartId) : (dropStrand c s h).memOk = s.memOk := by
  unfold dropStrand
  split <;> simp

@[simp] theorem dropJobs_memOk (c : BitVec 16) (s : State) (a : Nat) : (dropJobs c s a).memOk = s.memOk := rfl

@[simp] theorem endLost_memOk {s : State} (c : BitVec 16) (die : Nat) (hs : s.memOk = true) :
    (endLost s c die).memOk = true := by
  unfold endLost
  extract_lets abroad t u v w x y z a
  have hu : u.memOk = true := by
    simp only [u, t]
    split <;> simp [hs]
  have hy : y.memOk = u.memOk := by
    simp only [y, x, w, v, foldl_memOk_eq _ fun _ _ => dropStrand_memOk ..,
      foldl_memOk_eq _ fun _ _ => dropJobs_memOk ..,
      foldl_memOk_eq _ fun _ _ => dropPlacement_memOk .., foldl_memOk_eq _ fun _ _ => freeCluster_memOk ..]
  exact setRegDword_memOk (s := z) _ _ _ _ (fileReport_memOk _ _ (hy.trans hu))

@[simp] theorem readopt_memOk (die : Nat) {s : State} (i : Nat) (hs : s.memOk = true) :
    (readopt die s i).memOk = true := by
  unfold readopt
  dsimp only
  repeat' split
  all_goals simp [hs]

@[simp] theorem readoptDie_memOk {s : State} (die : Nat) (hs : s.memOk = true) : (readoptDie s die).memOk = true :=
  foldl_memOk _ (fun _ _ h => readopt_memOk _ _ h) _ _ hs

@[simp] theorem deliverHeld_memOk (s : State) : (deliverHeld s).memOk = s.memOk := by
  unfold deliverHeld
  refine foldl_memOk_eq _ (fun s core => ?_) _ _
  exact foldl_memOk_eq _ (fun _ _ => unspillMessages_memOk _ _ _) _ _

@[simp] theorem restarted_memOk {s : State} (hs : s.memOk = true) : (restarted s).memOk = true := by
  have hr := foldl_memOk readoptDie (fun _ _ h => readoptDie_memOk _ h) (List.range 4) s hs
  unfold restarted
  generalize (List.range 4).foldl readoptDie s = t at hr
  have hd : ((List.range 4).foldl (fun s d => setDie s d (restartDie s.clock (dieOf s d))) t).memOk = true :=
    (foldl_memOk_eq _ (fun _ _ => setDie_memOk _ _ _) _ _).trans hr
  dsimp only
  generalize List.foldl _ t _ = u at hd
  rw [events_memOk, deliverHeld_memOk]
  exact hd

@[simp] theorem execWarmRestart_canonical {s : State} (hs : s.memOk = true) : Canonical (execWarmRestart s) := by
  unfold execWarmRestart
  dsimp only
  repeat' split
  all_goals simp [hs]

@[simp] theorem blank_memOk {s : State} (stage : BitVec 8) (hs : s.memOk = true) : (blank s stage).memOk = true := by
  simp only [State.memOk, Bool.and_eq_true] at hs ⊢
  obtain ⟨⟨hm, -⟩, -⟩ := hs
  exact ⟨⟨Memory.filter_wf _ hm, rfl⟩, rfl⟩

@[simp] theorem coldRunning_memOk {s : State} (hs : s.memOk = true) : (coldRunning s).memOk = true := by
  have hb := blank_memOk 0x10 hs
  simp only [State.memOk, Bool.and_eq_true] at hb ⊢
  obtain ⟨⟨hm, hp⟩, -⟩ := hb
  exact ⟨⟨memWrite_wf _ _ hm, hp⟩, capabilityList_wf _⟩

@[simp] theorem coldStarted_memOk {s : State} (hs : s.memOk = true) : (coldStarted s).memOk = true := by
  unfold coldStarted
  split <;> simp [hs]

@[simp] theorem cutFlash_memOk (s : State) : (cutFlash s).memOk = s.memOk := by
  unfold cutFlash
  split <;> rfl

@[simp] theorem execColdStart_canonical {s : State} (hs : s.memOk = true) : Canonical (execColdStart s) := by
  unfold execColdStart
  simp [hs]

@[simp] theorem execPowerLoss_canonical {s : State} (hs : s.memOk = true) : Canonical (execPowerLoss s) := by
  simp [execPowerLoss, hs]

@[simp] theorem execThermalShutdown_canonical {s : State} (hs : s.memOk = true) :
    Canonical (execThermalShutdown s) := by
  unfold execThermalShutdown
  split <;> simp [hs]

@[simp] theorem execPowercapWrite_canonical (v : W) {s : State} (hs : s.memOk = true) :
    Canonical (execPowercapWrite v s) := by
  unfold execPowercapWrite
  dsimp only
  split <;> simp [hs]

@[simp] theorem execPowerThrottle_canonical (throttled : Bool) (watts : BitVec 16) {s : State} (hs : s.memOk = true) :
    Canonical (execPowerThrottle throttled watts s) := by
  simp [execPowerThrottle, hs]

@[simp] theorem execShutdownPending_canonical (temp : BitVec 16) {s : State} (hs : s.memOk = true) :
    Canonical (execShutdownPending temp s) := by
  simp [execShutdownPending, hs]

/-! ### Machine/Mailbox -/

@[simp] theorem mbEnd_memOk (s : State) (tag result : BitVec 8) : (mbEnd s tag result).memOk = s.memOk := rfl

@[simp] theorem execMbColdStart_canonical (tag : BitVec 8) {s : State} (hs : s.memOk = true) :
    Canonical (execMbColdStart tag s) := by
  unfold execMbColdStart
  simp [hs]

@[simp] theorem execMbWarmRestart_canonical (tag : BitVec 8) {s : State} (hs : s.memOk = true) :
    Canonical (execMbWarmRestart tag s) := by
  unfold execMbWarmRestart
  split <;> simp [hs]

@[simp] theorem writeFlash_memOk (s : State) (img : List Byte) : (writeFlash s img).memOk = s.memOk := rfl

@[simp] theorem execMbWriteFirmware_canonical (tag : BitVec 8) {s : State} (hs : s.memOk = true) :
    Canonical (execMbWriteFirmware tag s) := by
  unfold execMbWriteFirmware
  dsimp only
  repeat' split
  all_goals simp [hs]

@[simp] theorem execMbAttestation_canonical {s : State} (tag : BitVec 8) (hs : s.memOk = true) :
    Canonical (execMbAttestation tag s) := by
  unfold execMbAttestation
  dsimp only
  split
  · simp [hs]
  · rw [canonical_stepTo, mbEnd_memOk]
    exact cfgWrite_memOk _ _ hs

@[simp] theorem execMbRegisterLog_canonical (tag : BitVec 8) {s : State} (hs : s.memOk = true) :
    Canonical (execMbRegisterLog tag s) := by
  unfold execMbRegisterLog
  dsimp only
  repeat' split
  all_goals simp [hs]

@[simp] theorem execMbCommitVersion_canonical (tag : BitVec 8) {s : State} (hs : s.memOk = true) :
    Canonical (execMbCommitVersion tag s) := by
  unfold execMbCommitVersion
  split <;> simp [hs]

@[simp] theorem execMbStop_canonical {s : State} (tag : BitVec 8) (hs : s.memOk = true) :
    Canonical (execMbStop tag s) := by
  unfold execMbStop
  split
  · simp [hs]
  · have hb := blank_memOk 0xF0 hs
    simp only [State.memOk, Bool.and_eq_true] at hs hb
    obtain ⟨hm, -⟩ := hb
    obtain ⟨-, hc⟩ := hs
    rw [canonical_stepTo, mbEnd_memOk]
    simpa only [State.memOk, Bool.and_eq_true] using ⟨hm, hc⟩

@[simp] theorem execMbUnknownOp_canonical (tag _op : BitVec 8) {s : State} (hs : s.memOk = true) :
    Canonical (execMbUnknownOp tag _op s) := by
  simp [execMbUnknownOp, hs]

@[simp] theorem mbWrite_memOk (s : State) (v : W) : (mbWrite s v).memOk = s.memOk := by
  unfold mbWrite
  split <;> rfl

theorem hostEnq_memOk {s : State} (q : Nat) (v : W) (hs : s.memOk = true) : (hostEnq s q v).2.memOk = true := by
  unfold hostEnq
  repeat' split
  all_goals first
    | exact hs
    | simp [enqHome_memOk hs ‹_›]
    | simp [hs]

@[simp] theorem execHostEnqueue_canonical {s : State} (queue : Nat) (v : W) (hs : s.memOk = true) :
    Canonical (execHostEnqueue queue v s) := by
  have hq := hostEnq_memOk queue v hs
  unfold execHostEnqueue
  split
  · simp [hs]
  · simp [hq]

@[simp] theorem execHostMemoryAccess_canonical {s : State} (offset : Nat) (write : Option (List Byte)) (size : Nat)
    (hs : s.memOk = true) : Canonical (execHostMemoryAccess offset write size s) := by
  unfold execHostMemoryAccess
  dsimp only
  repeat' split
  all_goals first
    | simp [hs]; done
    | rw [canonical_stepTo]
  refine List.foldlRecOn (motive := fun acc : State × List Byte => acc.1.memOk = true) _ _ hs fun acc h q _ => ?_
  dsimp only
  split
  · exact h
  · exact homeWrite_memOk _ _ h

@[simp] theorem dieBlockWrite_memOk {s : State} (die off : Nat) (v : W) (hs : s.memOk = true) :
    (dieBlockWrite s die off v).memOk = true := by
  have hw := cfgWrite_memOk (dieBlock die + off) (wordBytes 8 v) hs
  unfold dieBlockWrite
  repeat' split
  all_goals simp [hs, hw]

@[simp] theorem execConfigRegisterWrite_canonical {s : State} (offset : Nat) (v : W) (fromHost : Bool)
    (hs : s.memOk = true) : Canonical (execConfigRegisterWrite offset v fromHost s) := by
  have hw := cfgWrite_memOk offset (wordBytes 8 v) hs
  unfold execConfigRegisterWrite
  repeat' split
  all_goals simp [hs, hw]

/-! ### Machine/Matrix -/

@[simp] theorem keeps_namedTile (i : Instr) (t : Nat) : Keeps (namedTile i t) := by
  unfold namedTile
  repeat' first
    | with_reducible refine keeps_bind ?_ fun _ => ?_
    | split
  all_goals simp

@[simp] theorem keeps_touchTile (i : Instr) (t : Nat) : Keeps (touchTile i t) := by
  unfold touchTile
  repeat' with_reducible refine keeps_bind ?_ fun _ => ?_
  all_goals simp

@[simp] theorem keeps_exchangeWait : Keeps exchangeWait := by
  unfold exchangeWait
  repeat' first
    | with_reducible refine keeps_bind ?_ fun _ => ?_
    | split
  all_goals simp

@[simp] theorem keeps_tileFree (t : Nat) : Keeps (tileFree t) := by
  unfold tileFree
  dsimp only
  repeat' first
    | with_reducible refine keeps_bind ?_ fun _ => ?_
    | split
  all_goals simp

@[simp] theorem setElems_memOk (s : State) (core t : Nat) (es : List (Nat × W)) :
    (setElems s core t es).memOk = s.memOk := rfl

@[simp] theorem setEdge_memOk (s : State) (core t : Nat) (e : BitVec 16) : (setEdge s core t e).memOk = s.memOk := rfl

@[simp] theorem keeps_requestAndWait : Keeps requestAndWait := keeps_wait fun _ hs => by
  dsimp only
  split <;> simp [hs]

@[simp] theorem execMlease_canonical (x : N0) {s : State} (hs : s.memOk = true) : Canonical (execMlease x s) := by
  refine canonical_runOp hs ?_
  repeat' first
    | with_reducible refine keeps_bind ?_ fun _ => ?_
    | split
  all_goals simp

@[simp] theorem execMrel_canonical (x : N0) {s : State} (hs : s.memOk = true) : Canonical (execMrel x s) := by
  refine canonical_runOp hs ?_
  repeat' first
    | with_reducible refine keeps_bind ?_ fun _ => ?_
    | with_reducible refine keeps_modify fun _ _ => ?_
  all_goals simp [*]

@[simp] theorem execLeaseGrant_canonical (cluster : Nat) {s : State} (hs : s.memOk = true) :
    Canonical (execLeaseGrant cluster s) := by
  unfold execLeaseGrant
  dsimp only
  split <;> simp [hs]

@[simp] theorem execLeaseExpiry_canonical (h : HartId) {s : State} (hs : s.memOk = true) :
    Canonical (execLeaseExpiry h s) := by
  simp [execLeaseExpiry, hs]

@[simp] theorem keeps_claimedSlot (v : W) : Keeps (claimedSlot v) := by
  unfold claimedSlot
  repeat' with_reducible refine keeps_bind ?_ fun _ => ?_
  all_goals simp

@[simp] theorem execOclaim_canonical (x : D1) {s : State} (hs : s.memOk = true) : Canonical (execOclaim x s) := by
  refine canonical_runOp hs ?_
  dsimp only
  repeat' first
    | with_reducible refine keeps_get fun _ _ => ?_
    | with_reducible refine keeps_bind ?_ fun _ => ?_
    | split
  all_goals simp [*]

@[simp] theorem execOrel_canonical (x : A1) {s : State} (hs : s.memOk = true) : Canonical (execOrel x s) := by
  refine canonical_runOp hs ?_
  repeat' first
    | with_reducible refine keeps_get fun _ _ => ?_
    | with_reducible refine keeps_bind ?_ fun _ => ?_
    | with_reducible refine keeps_ite ?_ ?_
  all_goals simp [*]

@[simp] theorem keeps_loadUnit (n : Nat) (va : W) : Keeps (loadUnit n va) := by
  unfold loadUnit
  repeat' first
    | with_reducible refine keeps_bind ?_ fun _ => ?_
    | with_reducible refine keeps_ite ?_ ?_
  all_goals simp

@[simp] theorem keeps_loadUnits (va : W) (n : Nat) : Keeps (loadUnits va n) := by
  unfold loadUnits
  repeat' first
    | with_reducible refine keeps_bind ?_ fun _ => ?_
    | with_reducible refine keeps_mapM (fun _ => ?_) _
  all_goals simp

@[simp] theorem keeps_lateUnits (va : W) (us : List (Nat × Nat × Option (List Byte))) : Keeps (lateUnits va us) := by
  unfold lateUnits
  repeat' first
    | with_reducible refine keeps_bind ?_ fun _ => ?_
    | split
  all_goals simp

@[simp] theorem execOld_canonical (x : AB) {s : State} (hs : s.memOk = true) : Canonical (execOld x s) := by
  refine canonical_runOp hs ?_
  repeat' first
    | with_reducible refine keeps_bind ?_ fun _ => ?_
    | with_reducible refine keeps_modify fun _ _ => ?_
    | split
  all_goals simp [*]

@[simp] theorem keeps_issueMma (i : Instr) (st : BitVec 3) (pair : Nat) (d a b : Sel) (c : Option Sel)
    (planes : Nat) : Keeps (issueMma i st pair d a b c planes) := by
  unfold issueMma
  repeat' first
    | with_reducible refine keeps_get fun _ _ => ?_
    | with_reducible refine keeps_bind ?_ fun _ => ?_
    | with_reducible refine keeps_ite ?_ ?_
    | split
  all_goals simp [*]

@[simp] theorem execMmaCommandStart_canonical (cluster : Nat) {s : State} (hs : s.memOk = true) :
    Canonical (execMmaCommandStart cluster s) := by
  unfold execMmaCommandStart
  dsimp only
  split <;> simp [hs]

@[simp] theorem orFlags_memOk {s : State} (h : HartId) (fl : BitVec 5) (hs : s.memOk = true) :
    (orFlags s h fl).memOk = true := by
  unfold orFlags
  dsimp only
  split <;> simp [hs]

@[simp] theorem execMmaCommandComplete_canonical (cluster : Nat) {s : State} (hs : s.memOk = true) :
    Canonical (execMmaCommandComplete cluster s) := by
  unfold execMmaCommandComplete
  dsimp only
  split <;> simp [hs]

@[simp] theorem keeps_useTile (i : Instr) (t : Nat) : Keeps (useTile i t) := by
  unfold useTile
  repeat' with_reducible refine keeps_bind ?_ fun _ => ?_
  all_goals simp

@[simp] theorem execAzero_canonical (x : D1) {s : State} (hs : s.memOk = true) : Canonical (execAzero x s) := by
  refine canonical_runOp hs ?_
  repeat' first
    | with_reducible refine keeps_bind ?_ fun _ => ?_
    | with_reducible refine keeps_modify fun _ _ => ?_
  all_goals simp [*]

@[simp] theorem execAread_canonical (x : RRR) {s : State} (hs : s.memOk = true) : Canonical (execAread x s) := by
  refine canonical_runOp hs ?_
  repeat' with_reducible refine keeps_bind ?_ fun _ => ?_
  all_goals simp

@[simp] theorem execAwrite_canonical (x : RRR) {s : State} (hs : s.memOk = true) : Canonical (execAwrite x s) := by
  refine canonical_runOp hs ?_
  repeat' first
    | with_reducible refine keeps_bind ?_ fun _ => ?_
    | with_reducible refine keeps_modify fun _ _ => ?_
    | split
  all_goals simp [*]

@[simp] theorem keeps_checkRows (kind : Nat) (want : Want) (a b : W) (n align : Nat) :
    Keeps (checkRows kind want a b n align) := by
  unfold checkRows
  repeat' first
    | with_reducible refine keeps_bind ?_ fun _ => ?_
    | with_reducible refine keeps_forM (fun _ => ?_) _
  all_goals simp

@[simp] theorem keeps_storeSpan (va : W) (bs : List Byte) : Keeps (storeSpan va bs) := by
  unfold storeSpan
  repeat' first
    | with_reducible refine keeps_bind ?_ fun _ => ?_
    | with_reducible refine keeps_forM (fun _ => ?_) _
  all_goals simp

@[simp] theorem countSpill_memOk (s : State) : (countSpill s).memOk = s.memOk := by
  unfold countSpill
  split <;> rfl

@[simp] theorem execAst_canonical (x : Ast) {s : State} (hs : s.memOk = true) : Canonical (execAst x s) := by
  refine canonical_runOp hs ?_
  repeat' first
    | with_reducible refine keeps_bind ?_ fun _ => ?_
    | with_reducible refine keeps_mapM (fun _ => ?_) _
    | with_reducible refine keeps_forM (fun _ => ?_) _
    | with_reducible refine keeps_modify fun _ _ => ?_
  all_goals simp [*]

@[simp] theorem execAld_canonical (x : RRR) {s : State} (hs : s.memOk = true) : Canonical (execAld x s) := by
  refine canonical_runOp hs ?_
  repeat' first
    | with_reducible refine keeps_bind ?_ fun _ => ?_
    | split
  all_goals first
    | exact keeps_modify fun _ h => (foldl_memOk_eq _ (fun _ _ => setElems_memOk ..) _ _).trans h
    | simp

@[simp] theorem execMwait_canonical (x : N0) {s : State} (hs : s.memOk = true) : Canonical (execMwait x s) := by
  refine canonical_runOp hs ?_
  repeat' first
    | with_reducible refine keeps_bind ?_ fun _ => ?_
    | split
  all_goals simp

@[simp] theorem execMedge_canonical (x : A1) {s : State} (hs : s.memOk = true) : Canonical (execMedge x s) := by
  refine canonical_runOp hs ?_
  repeat' first
    | with_reducible refine keeps_bind ?_ fun _ => ?_
    | with_reducible refine keeps_modify fun _ _ => ?_
  all_goals simp [*]

@[simp] theorem execAccown_canonical (x : RR) {s : State} (hs : s.memOk = true) : Canonical (execAccown x s) := by
  refine canonical_runOp hs ?_
  repeat' first
    | with_reducible refine keeps_bind ?_ fun _ => ?_
    | with_reducible refine keeps_ite ?_ ?_
    | with_reducible refine keeps_modify fun _ _ => ?_
  all_goals simp [*]

/-! ### Machine/Pages -/

@[simp] theorem installCore_memOk (s : State) (core : Nat) (e : TlbEntry) :
    (installCore s core e).memOk = s.memOk := rfl

@[simp] theorem installCluster_memOk (s : State) (c : Nat) (e : TlbEntry) :
    (installCluster s c e).memOk = s.memOk := rfl

@[simp] theorem keepPointers_memOk (s : State) (die : Nat) (ps : List (Nat × Nat)) :
    (keepPointers s die ps).memOk = s.memOk := rfl

@[simp] theorem execPageWalk_canonical (core : Nat) (ctx : BitVec 16) (root : Nat) (va : Addr) {s : State}
    (hs : s.memOk = true) : Canonical (execPageWalk core ctx root va s) := by
  unfold execPageWalk
  dsimp only
  repeat' split
  all_goals simp [hs]

@[simp] theorem invalidate_memOk (s : State) (die ctx base pages : Nat) :
    (invalidate s die ctx base pages).memOk = s.memOk := rfl

@[simp] theorem takeInvalidation_memOk {s : State} (die : Nat) (hs : s.memOk = true) :
    (takeInvalidation s die).memOk = true := by
  have hd : ∀ (v : Nat) (t : State), deqHome s (.config (dieBlock die + 0x1000)) (kernelRoot s die) true = .value v t →
      t.memOk = true := fun _ _ => deqHome_memOk hs
  unfold takeInvalidation
  dsimp only
  split
  · exact hs
  · split
    · simp [hs]
    · have ht := hd _ _ ‹_›
      clear hd
      repeat' split
      all_goals simp [ht]

@[simp] theorem execTlbInvalidation_canonical {s : State} (die : Nat) (hs : s.memOk = true) :
    Canonical (execTlbInvalidation die s) := by
  have ht := takeInvalidation_memOk die hs
  unfold execTlbInvalidation
  generalize takeInvalidation s die = t at ht
  extract_lets u d v
  split
  · exact canonical_stepTo.mpr ht
  · exact canonical_stepTo.mpr (foldl_memOk _ (fun _ _ h => homeWrite_memOk _ _ h) _ _ ht)

/-! ### Machine/Scrub -/

@[simp] theorem poisonMem_memOk (s : State) (ca : Nat) : (poisonMem s ca).memOk = s.memOk := by
  unfold poisonMem
  split <;> rfl

@[simp] theorem poisonPool_memOk (s : State) (core off : Nat) : (poisonPool s core off).memOk = s.memOk := by
  unfold poisonPool
  split <;> rfl

@[simp] theorem poisonOperand_memOk (s : State) (cluster off : Nat) :
    (poisonOperand s cluster off).memOk = s.memOk := by
  unfold poisonOperand
  dsimp only
  split <;> rfl

@[simp] theorem noteCorrected_memOk {s : State} (o : Origin) (hs : s.memOk = true) :
    (noteCorrected s o).memOk = true := by
  unfold noteCorrected
  repeat' split
  all_goals simp [hs]

@[simp] theorem noteUncorrectable_memOk {s : State} (o : Origin) (hs : s.memOk = true) :
    (noteUncorrectable s o).memOk = true := by
  unfold noteUncorrectable
  split <;> simp [hs]

@[simp] theorem scrubMemory_memOk (ca : Nat) (lost : Bool) {s : State} (hs : s.memOk = true) :
    (scrubMemory ca lost s).memOk = true := by
  unfold scrubMemory
  repeat' split
  all_goals simp [hs]

@[simp] theorem scrubSlice_memOk (ca : Nat) (lost : Bool) {s : State} (hs : s.memOk = true) :
    (scrubSlice ca lost s).memOk = true := by
  unfold scrubSlice
  repeat' split
  all_goals simp [hs]

@[simp] theorem scrubPool_memOk (core off : Nat) (lost : Bool) {s : State} (hs : s.memOk = true) :
    (scrubPool core off lost s).memOk = true := by
  unfold scrubPool
  split <;> simp [hs]

@[simp] theorem scrubOperand_memOk (cluster off : Nat) (lost : Bool) {s : State} (hs : s.memOk = true) :
    (scrubOperand cluster off lost s).memOk = true := by
  unfold scrubOperand
  split <;> simp [hs]

@[simp] theorem scrubL1_memOk (core ca : Nat) (lost : Bool) {s : State} (hs : s.memOk = true) :
    (scrubL1 core ca lost s).memOk = true := by
  unfold scrubL1
  repeat' split
  all_goals simp [hs]

@[simp] theorem scrubCode_memOk (core ca : Nat) {s : State} (hs : s.memOk = true) :
    (scrubCode core ca s).memOk = true := by
  unfold scrubCode
  dsimp only
  split <;> simp [hs]

@[simp] theorem scrubConstant_memOk (cluster ca : Nat) {s : State} (hs : s.memOk = true) :
    (scrubConstant cluster ca s).memOk = true := by
  unfold scrubConstant
  dsimp only
  split <;> simp [hs]

@[simp] theorem execPatrolScrub_canonical (word : Codeword) (found : ScrubFinding) {s : State} (hs : s.memOk = true) :
    Canonical (execPatrolScrub word found s) := by
  unfold execPatrolScrub
  repeat' split
  all_goals simp [hs]

/-! ### Machine/Vector -/

@[simp] theorem execVclaim_canonical (x : RR) {s : State} (hs : s.memOk = true) : Canonical (execVclaim x s) := by
  refine canonical_runOp hs ?_
  repeat' first
    | with_reducible refine keeps_bind ?_ fun _ => ?_
    | with_reducible refine keeps_ite ?_ ?_
    | with_reducible refine keeps_modify fun _ _ => ?_
    | with_reducible refine keeps_wait fun _ _ => ?_
    | split
  all_goals simp [*]

@[simp] theorem execVrel_canonical (x : N0) {s : State} (hs : s.memOk = true) : Canonical (execVrel x s) := by
  refine canonical_runOp hs ?_
  repeat' first
    | with_reducible refine keeps_bind ?_ fun _ => ?_
    | with_reducible refine keeps_modify fun _ _ => ?_
  all_goals simp [*]

@[simp] theorem execVclaimGrant_canonical (cluster : Nat) {s : State} (hs : s.memOk = true) :
    Canonical (execVclaimGrant cluster s) := by
  unfold execVclaimGrant
  repeat' split
  all_goals simp [hs]

@[simp] theorem keeps_needClaim : Keeps needClaim := by
  unfold needClaim
  repeat' with_reducible refine keeps_bind ?_ fun _ => ?_
  all_goals simp

@[simp] theorem keeps_finishVector (i : Instr) (st : BitVec 3) (lanes : List (Nat × BitVec 32)) (masks : List
    (Nat × Bool)) (flags : BitVec 5) : Keeps (finishVector i st lanes masks flags) := by
  unfold finishVector
  repeat' first
    | with_reducible refine keeps_bind ?_ fun _ => ?_
    | split
  all_goals simp

@[simp] theorem keeps_finishScalar (i : Instr) (st : BitVec 3) (d : Sel) (v : W) (flags : BitVec 5) :
    Keeps (finishScalar i st d v flags) := by
  unfold finishScalar
  repeat' first
    | with_reducible refine keeps_bind ?_ fun _ => ?_
    | split
  all_goals simp

@[simp] theorem execLaneResult_canonical (r : LaneWrite) {s : State} (hs : s.memOk = true) :
    Canonical (execLaneResult r s) := by
  unfold execLaneResult
  split <;> simp [hs]

/-! ### Machine/VecOps -/

@[simp] theorem keeps_laneBinary (i : Instr) (x : RRR) (f : BitVec 32 → BitVec 32 → BitVec 32) :
    Keeps (laneBinary i x f) := by
  unfold laneBinary
  repeat' with_reducible refine keeps_bind ?_ fun _ => ?_
  all_goals simp

@[simp] theorem execVsel_canonical (x : RRR) {s : State} (hs : s.memOk = true) : Canonical (execVsel x s) := by
  refine canonical_runOp hs ?_
  repeat' with_reducible refine keeps_bind ?_ fun _ => ?_
  all_goals simp

@[simp] theorem keeps_laneFp (i : Instr) (st : BitVec 3) (w d : Nat) (f : Slot → Rounding → Nat → FpResult) :
    Keeps (laneFp i st w d f) := by
  unfold laneFp
  repeat' first
    | with_reducible refine keeps_bind ?_ fun _ => ?_
    | with_reducible refine keeps_mapM (fun _ => ?_) _
  all_goals simp

@[simp] theorem keeps_laneFp2 (i : Instr) (x : FRRR) (f : FpFmt → Rounding → Nat → Nat → FpResult) :
    Keeps (laneFp2 i x f) := by
  unfold laneFp2
  simp

@[simp] theorem keeps_laneFp1 (i : Instr) (x : RR) (f : Rounding → FpVal → FpResult) : Keeps (laneFp1 i x f) := by
  unfold laneFp1
  simp

@[simp] theorem execVcmp_canonical (x : Vcmp) {s : State} (hs : s.memOk = true) : Canonical (execVcmp x s) := by
  refine canonical_runOp hs ?_
  repeat' with_reducible refine keeps_bind ?_ fun _ => ?_
  all_goals simp

@[simp] theorem keeps_maskBinary (i : Instr) (st : BitVec 3) (d : Sel) (f : Slot → Nat → Bool) :
    Keeps (maskBinary i st d f) := by
  unfold maskBinary
  repeat' with_reducible refine keeps_bind ?_ fun _ => ?_
  all_goals simp

@[simp] theorem execMpop_canonical (x : RR) {s : State} (hs : s.memOk = true) : Canonical (execMpop x s) := by
  refine canonical_runOp hs ?_
  repeat' with_reducible refine keeps_bind ?_ fun _ => ?_
  all_goals simp

@[simp] theorem execMfirst_canonical (x : RR) {s : State} (hs : s.memOk = true) : Canonical (execMfirst x s) := by
  refine canonical_runOp hs ?_
  repeat' with_reducible refine keeps_bind ?_ fun _ => ?_
  all_goals simp

@[simp] theorem keeps_vectorLoad (i : Instr) (x : RRR) (address : Slot → Nat → W) {place : W → Op Place}
    (hp : ∀ ea, Keeps (place ea)) : Keeps (vectorLoad i x address place) := by
  unfold vectorLoad
  repeat' first
    | with_reducible refine keeps_bind ?_ fun _ => ?_
    | with_reducible refine keeps_mapM (fun _ => ?_) _
  all_goals simp [hp]

@[simp] theorem keeps_vectorStore (x : RRR) (address : Slot → Nat → W) {place : W → Op Place}
    (hp : ∀ ea, Keeps (place ea)) : Keeps (vectorStore x address place) := by
  unfold vectorStore
  repeat' first
    | with_reducible refine keeps_bind ?_ fun _ => ?_
    | with_reducible refine keeps_forM (fun _ => ?_) _
  all_goals simp [hp]

@[simp] theorem keeps_lanePlace (write : Bool) (ea : W) : Keeps (lanePlace write ea) := by
  unfold lanePlace
  simp

@[simp] theorem execVld_canonical (x : RRR) {s : State} (hs : s.memOk = true) : Canonical (execVld x s) := by
  refine canonical_runOp hs ?_
  repeat' with_reducible refine keeps_bind ?_ fun _ => ?_
  all_goals simp

@[simp] theorem execVst_canonical (x : RRR) {s : State} (hs : s.memOk = true) : Canonical (execVst x s) := by
  refine canonical_runOp hs ?_
  repeat' with_reducible refine keeps_bind ?_ fun _ => ?_
  all_goals simp

@[simp] theorem execVlds_canonical (x : RRR) {s : State} (hs : s.memOk = true) : Canonical (execVlds x s) := by
  refine canonical_runOp hs ?_
  repeat' with_reducible refine keeps_bind ?_ fun _ => ?_
  all_goals simp

@[simp] theorem execVsts_canonical (x : RRR) {s : State} (hs : s.memOk = true) : Canonical (execVsts x s) := by
  refine canonical_runOp hs ?_
  repeat' with_reducible refine keeps_bind ?_ fun _ => ?_
  all_goals simp

@[simp] theorem execVgath_canonical (x : RRR) {s : State} (hs : s.memOk = true) : Canonical (execVgath x s) := by
  refine canonical_runOp hs ?_
  repeat' with_reducible refine keeps_bind ?_ fun _ => ?_
  all_goals simp

@[simp] theorem execVscat_canonical (x : RRR) {s : State} (hs : s.memOk = true) : Canonical (execVscat x s) := by
  refine canonical_runOp hs ?_
  repeat' with_reducible refine keeps_bind ?_ fun _ => ?_
  all_goals simp

@[simp] theorem execVbcast_canonical (x : RR) {s : State} (hs : s.memOk = true) : Canonical (execVbcast x s) := by
  refine canonical_runOp hs ?_
  repeat' with_reducible refine keeps_bind ?_ fun _ => ?_
  all_goals simp

@[simp] theorem keeps_moveLanes (i : Instr) (st : BitVec 3) (d a : Nat) (src : Slot → Nat → ℤ) :
    Keeps (moveLanes i st d a src) := by
  unfold moveLanes
  repeat' with_reducible refine keeps_bind ?_ fun _ => ?_
  all_goals simp

@[simp] theorem execVlsh_canonical (x : RRR) {s : State} (hs : s.memOk = true) : Canonical (execVlsh x s) := by
  refine canonical_runOp hs ?_
  repeat' with_reducible refine keeps_bind ?_ fun _ => ?_
  all_goals simp

@[simp] theorem execVredAdd_canonical (x : FRR) {s : State} (hs : s.memOk = true) : Canonical (execVredAdd x s) := by
  refine canonical_runOp hs ?_
  repeat' first
    | with_reducible refine keeps_bind ?_ fun _ => ?_
    | split
  all_goals simp

@[simp] theorem keeps_reduceMinMax (i : Instr) (x : FRR) (isMax : Bool) : Keeps (reduceMinMax i x isMax) := by
  unfold reduceMinMax
  repeat' first
    | with_reducible refine keeps_bind ?_ fun _ => ?_
    | split
  all_goals simp

/-! ### Fetch, issue and the step -/

/-- A fetched word leaves the memories in canonical form. -/
theorem fetchWord_memOk {s t : State} {pc : Addr} {w : Word32} (hs : s.memOk = true) (e : fetchWord s pc = .word w t) :
    t.memOk = true := by
  unfold fetchWord at e
  dsimp only at e
  repeat' split at e
  all_goals first
    | cases e; done
    | cases e
      simp [hs]

theorem fetchGroup_memOk {s : State} {g : Group} (hs : s.memOk = true) (e : fetchGroup s = .inl g) :
    g.state.memOk = true := by
  unfold fetchGroup at e
  dsimp only at e
  split at e
  · have h1 := fetchWord_memOk hs ‹_›
    split at e
    · cases e
      exact h1
    · split at e
      · have h2 := fetchWord_memOk h1 ‹_›
        split at e
        · cases e
          exact h2
        · split at e
          · cases e
            exact fetchWord_memOk h2 ‹_›
          · cases e
      · cases e
  · cases e

/-- Every response, request and timer keeps the memories canonical. -/
theorem runEvent_canonical (e : Event) {s : State} (hs : s.memOk = true) : Canonical (runEvent e s) := by
  cases e <;> simp [runEvent, hs]

/-- Every instruction keeps the memories canonical: the forms of one shared operation together, each other one by the
lemma of its own meaning. -/
theorem exec_canonical (i : Instr) {s : State} (hs : s.memOk = true) : Canonical (exec i s) := by
  cases i with
  | fadd x | fsub x | fmul x =>
    exact canonical_runOp hs (keeps_fpRounded _ _ _ _)
  | fmin x | fmax x | fminn x | fmaxn x | fcmpeq x | fcmplt x | fcmple x | fcmpun x =>
    exact canonical_runOp hs (keeps_fpBinary _ _ _ _)
  | fma x | fms x | fnma x =>
    exact canonical_runOp hs (keeps_fused _ _ _ _)
  | beq x | bne x | blt x | bge x | bltu x | bgeu x =>
    exact canonical_runOp hs (keeps_branch _ _ _)
  | brk x =>
    exact canonical_runOp hs (keeps_trap _ _)
  | amoAdd x | amoAnd x | amoOr x | amoXor x | amoMin x | amoMax x | amoMinu x | amoMaxu x | amoSwap x =>
    exact canonical_runOp hs (keeps_amo _ _ _)
  | csrwr x | csrset x | csrclr x =>
    exact canonical_runOp hs (keeps_csrUpdate _ _ _)
  | chmask x | chunmask x =>
    exact canonical_runOp hs (keeps_setMask _ _ _)
  | add x | sub x | mul x | mulh x | mulhu x | and x | or x | xor x | andn x | orn x | shl x | shr x | sar x
    | rot x | min x | max x | minu x | maxu x | cmpeq x | cmpne x | cmplt x | cmpltu x | cmple x | cmpleu x =>
    exact canonical_runOp hs (keeps_binary _ _ _)
  | div x | divu x | rem x | remu x =>
    exact canonical_runOp hs (keeps_divide _ _ _)
  | abs x | clz x | ctz x | pop x | brev x =>
    exact canonical_runOp hs (keeps_unary _ _ _)
  | addi x | andi x | ori x | xori x | cmplti x =>
    exact canonical_runOp hs (keeps_immediate _ _)
  | shli x | shri x | sari x | roti x =>
    exact canonical_runOp hs (keeps_shiftImmediate _ _ _)
  | sel x | bext x | bins x =>
    exact canonical_runOp hs (keeps_ternary _ _ _)
  | mmaDD x | mmaSS x | mmaBB x | mmaHH x | mmaBH x | mmaHB x | mmaNN x | mmaNB x | mmaBN x =>
    exact canonical_runOp hs (keeps_issueMma _ _ _ _ _ _ _ _)
  | vaddI32 x | vsubI32 x | vmulI32 x | vminI32 x | vmaxI32 x | vminUi32 x | vmaxUi32 x | vand x | vor x
    | vxor x | vshl x | vshr x =>
    exact canonical_runOp hs (keeps_laneBinary _ _ _)
  | vaddF x | vsubF x | vmulF x | vfmin x | vfmax x =>
    exact canonical_runOp hs (keeps_laneFp2 _ _ _)
  | vfma x | vcvt x =>
    exact canonical_runOp hs (keeps_laneFp _ _ _ _ _)
  | vrcp x | vrsqrt x | vexp2 x | vlog2 x =>
    exact canonical_runOp hs (keeps_laneFp1 _ _ _)
  | mand x | mor x | mnot x =>
    exact canonical_runOp hs (keeps_maskBinary _ _ _ _)
  | vperm x =>
    exact canonical_runOp hs (keeps_moveLanes _ _ _ _ _)
  | vredMin x | vredMax x =>
    exact canonical_runOp hs (keeps_reduceMinMax _ _ _)
  | _ => simp [exec, hs]

theorem issueWord_canonical (i : Instr) {s : State} (hs : s.memOk = true) : Canonical (issueWord i s) := by
  have hi := exec_canonical i hs
  unfold issueWord
  split
  · simp [hs]
  · split
    · simp [hi _ ‹_›]
    · simp
    · simp

theorem continueGroup_canonical {s : State} (hs : s.memOk = true) : Canonical (continueGroup s) := by
  unfold continueGroup
  split
  · have hf := fetchWord_memOk hs ‹_›
    split
    · exact issueWord_canonical _ hf
    · simp [hf]
  · simp [hs]
  · simp

/-- A group as it is fetched and begun: each state that fetch hands on has canonical memories, and the word
runs from it. -/
theorem startGroup_canonical {s : State} (hs : s.memOk = true) : Canonical (startGroup s) := by
  unfold startGroup
  extract_lets t
  have ht : t.memOk = true := hs
  split
  · simp [ht]
  · simp
  · rename_i g hg
    have hm := fetchGroup_memOk ht hg
    split
    · simp [hm]
    · simp [hm]
    · dsimp only
      have hh : (holdSources g.state g.words).memOk = true := by simp [hm]
      generalize holdSources g.state g.words = u at hh
      split
      · simp [hh]
      · split
        · apply issueWord_canonical
          split <;> simp [hh]
        · simp [hh]

theorem issueHart_canonical {s : State} (hs : s.memOk = true) : Canonical (issueHart s) := by
  unfold issueHart
  dsimp only
  repeat' split
  all_goals simp [hs, startGroup_canonical]

/-- A cycle runs the other slot after the first where the first answers a next state. -/
theorem cycleOf_canonical {s : State} {o : Host.Outcome State Fault Refusal} (ho : Canonical o) :
    Canonical (cycleOf s o) := by
  cases o with
  | next t =>
    have ht : t.memOk = true := canonical_next.mp ho
    have hi := issueHart_canonical (s := switchTo t (s.turn ^^^ 4096)) (by simp [ht])
    unfold cycleOf
    dsimp only
    split
    · split
      · simp [hi _ ‹_›]
      · exact hi
    · simp [ht]
  | fault f => exact ho
  | refused r => exact ho

theorem takeTurn_canonical {s : State} (hs : s.memOk = true) : Canonical (takeTurn s) := by
  unfold takeTurn
  split
  · simp [hs]
  · exact cycleOf_canonical (issueHart_canonical (by simp [hs]))

theorem inputDue_memOk {s t : State} {e : Event} (hs : s.memOk = true) (h : inputDue s = some (e, t)) :
    t.memOk = true := by
  unfold inputDue at h
  repeat' split at h
  all_goals cases h
  exact hs

/-- One step: a word, a held event, a due timer or input, or a turn of a hart. -/
theorem step_canonical {s : State} (hs : s.memOk = true) : Canonical (step s) := by
  unfold step
  split
  · split
    · exact runEvent_canonical _ hs
    · exact cycleOf_canonical (continueGroup_canonical hs)
  · split
    · simp [hs]
    · split
      · exact runEvent_canonical _ hs
      · split
        · exact runEvent_canonical _ (inputDue_memOk hs ‹_›)
        · split
          · exact runEvent_canonical _ hs
          · exact takeTurn_canonical hs

/-- Settles O59: a step is a meaning that runs from a state with canonical memories, and every meaning is made of
operations that keep them so. -/
theorem everyStepKeepsMemoryCanonical : Obligations.EveryStepKeepsMemoryCanonical :=
  fun _ t hs e => step_canonical hs t e

end Sys2Proof.Machine
end

section
/-!
PROOF. What a source field gives and what a stream port does (O1).
-/
namespace Sys2Proof.Machine

/-! ### TINFO as the statements write it (R175, R218) -/

/-- Two bit vectors put together, as a number. -/
theorem toNat_append_eq {n m : Nat} (a : BitVec n) (b : BitVec m) : (a ++ b).toNat = a.toNat * 2 ^ m + b.toNat := by
  rw [BitVec.toNat_append, ← Nat.shiftLeft_add_eq_or_of_lt b.isLt, Nat.shiftLeft_eq]

theorem toNat_ofBool_eq (b : Bool) : (BitVec.ofBool b).toNat = b1 b := by cases b <;> rfl

/-- TINFO in the layout of R175, field by field. -/
theorem accessInfo_toNat (reason : BitVec 4) (kind : BitVec 3) (va : Addr) (late : Bool) :
    (accessInfo reason late kind va).toNat = ((reason.toNat * 2 + b1 late) * 2 ^ 3 + kind.toNat) * 2 ^ 56 + va.toNat := by
  rw [← toNat_ofBool_eq]
  exact (toNat_append_eq _ va).trans (by rw [toNat_append_eq, toNat_append_eq, pow_one])

theorem memInfo_eq_accessInfo (reason : BitVec 4) (kind : BitVec 3) (va : Addr) (late : Bool) :
    memInfo reason.toNat kind.toNat va.toNat late = accessInfo reason late kind va := by
  apply BitVec.eq_of_toNat_eq
  rw [accessInfo_toNat, memInfo, w64, BitVec.toNat_ofNat]
  have := reason.isLt
  have := kind.isLt
  have := va.isLt
  cases late <;> simp only [b1, Bool.false_eq_true, if_false, if_true] <;> omega

/-- TINFO in the layout of R218, field by field. -/
theorem operationInfo_toNat (reason : BitVec 8) (value : BitVec 55) (late : Bool) :
    (operationInfo reason late value).toNat = (reason.toNat * 2 + b1 late) * 2 ^ 55 + value.toNat := by
  rw [← toNat_ofBool_eq]
  exact (toNat_append_eq _ value).trans (by rw [toNat_append_eq, pow_one])

theorem opInfo_eq_operationInfo (reason : BitVec 8) (value : Nat) (late : Bool) :
    opInfo reason.toNat value late = operationInfo reason late (BitVec.ofNat 55 value) := by
  apply BitVec.eq_of_toNat_eq
  rw [operationInfo_toNat, opInfo, w64, BitVec.toNat_ofNat, BitVec.toNat_ofNat]
  have := reason.isLt
  cases late <;> simp only [b1, Bool.false_eq_true, if_false, if_true] <;> omega

/-! ### Sources (R19, R45) -/

theorem readSel_queue {f : Sel} (s : State) (hf : f.toNat < 16) : readSel f s = readEntry (qEntry s.cur f.toNat) s := by
  unfold readSel
  rw [bind_of_gives (get_run s), if_pos hf]

theorem readSel_named {f : Sel} (s : State) (hf : 16 ≤ f.toNat) (hg : f.toNat < 24) :
    readSel f s = readEntry (nEntry s.cur (f.toNat - 16)) s := by
  unfold readSel
  rw [bind_of_gives (get_run s), if_neg (by omega), if_pos hg]

/-- A source field that names a stream port pops it. -/
theorem readSel_port (s : State) (p : BitVec 2) : readSel (BitVec.ofNat 5 (24 + p.toNat)) s = popPort p s := by
  have hp := p.isLt
  have hf : (BitVec.ofNat 5 (24 + p.toNat)).toNat = 24 + p.toNat := by rw [BitVec.toNat_ofNat]; omega
  unfold readSel
  rw [bind_of_gives (get_run s), hf, if_neg (by omega), if_neg (by omega), if_pos (by omega), Nat.add_sub_cancel_left,
    BitVec.ofNat_toNat, BitVec.setWidth_eq]

/-- A reader of an entry still awaited waits (R53). -/
theorem readEntry_wait {e : Entry} (s : State) (h : e.tag ≠ 0) : readEntry e s = .error (.wait id) := by
  simp [readEntry, h]

theorem reads_hint {s : State} : Reads s 29 (kValue s.cur) s := rfl

/-! ### Stream ports (R187) -/

/-- The trap of a port's state, with its number in TINFO (R175). -/
theorem portInfo_eq (reason : BitVec 4) (p : BitVec 2) :
    portInfo reason.toNat p = accessInfo reason false 7 (p.zeroExtend 56) := by
  rw [← memInfo_eq_accessInfo, portInfo]
  congr 1

/-- The state with a port of the executing slot moved to its next element. -/
def stepped (p : BitVec 2) (g : Stream) (t : State) : State :=
  { t with cur := { t.cur with str := t.cur.str.set p.toNat { g with pos := g.pos + 1 } p.isLt } }

theorem stepPort_run (p : BitVec 2) (g : Stream) (t : State) : stepPort p g t = .ok ((), stepped p g t) := rfl

section
variable {s : State} {p : BitVec 2} {write : Bool}

theorem portAddress_run (bound : (portOf s.cur p).bound = true) (dir : (portOf s.cur p).write = write)
    (left : (portOf s.cur p).pos < (portOf s.cur p).count) : portAddress p write s = .ok ((portOf s.cur p,
      (portOf s.cur p).base + (portOf s.cur p).pos.zeroExtend 64 * (portOf s.cur p).stride), s) := by
  unfold portAddress
  rw [bind_of_gives (curSlot_run s), bind_of_gives (require_true bound ..), bind_of_gives (require_true (by simp [dir]) ..),
    bind_of_gives (require_true (decide_eq_true left) ..), pure_run]

theorem portAddress_closed (bound : (portOf s.cur p).bound = false) :
    portAddress p write s = .error (.trap .protect (portInfo 7 p)) := by
  unfold portAddress
  rw [bind_of_gives (curSlot_run s), bind_of_error (require_false bound ..)]

theorem portAddress_direction (bound : (portOf s.cur p).bound = true) (dir : (portOf s.cur p).write ≠ write) :
    portAddress p write s = .error (.trap .protect (portInfo 9 p)) := by
  unfold portAddress
  rw [bind_of_gives (curSlot_run s), bind_of_gives (require_true bound ..),
    bind_of_error (require_false (by simp [dir]) ..)]

theorem portAddress_exhausted (bound : (portOf s.cur p).bound = true) (dir : (portOf s.cur p).write = write)
    (left : ¬ (portOf s.cur p).pos < (portOf s.cur p).count) :
    portAddress p write s = .error (.trap .protect (portInfo 8 p)) := by
  unfold portAddress
  rw [bind_of_gives (curSlot_run s), bind_of_gives (require_true bound ..), bind_of_gives (require_true (by simp [dir]) ..),
    bind_of_error (require_false (decide_eq_false left) ..)]

/-- A pop and an append trap as the port's state says. -/
theorem popPort_trap {info : W} (h : portAddress p false s = .error (.trap .protect info)) :
    popPort p s = .error (.trap .protect info) := by
  unfold popPort
  rw [bind_of_error h]

theorem appendPort_trap {info : W} (v : W) (h : portAddress p true s = .error (.trap .protect info)) :
    appendPort p v s = .error (.trap .protect info) := by
  unfold appendPort
  rw [bind_of_error h]

/-- A pop loads the element and moves the port on. -/
theorem popPort_run {bs : List Byte} {t : State} (bound : (portOf s.cur p).bound = true)
    (dir : (portOf s.cur p).write = false) (left : (portOf s.cur p).pos < (portOf s.cur p).count) :
    let g := portOf s.cur p
    let n := 2 ^ g.size.toNat
    Gives (loadVa 0 n n (g.base + g.pos.zeroExtend 64 * g.stride)) s bs t →
    popPort p s = .ok (if g.signed then BitVec.ofInt 64 (sextNat (8 * n) (leNat bs)) else w64 (leNat bs), stepped p g t) := by
  intro g n load
  unfold popPort
  rw [bind_of_gives (portAddress_run bound dir left)]
  exact (bind_of_gives load).trans (bind_of_gives (stepPort_run ..))

/-- An append stores the element and moves the port on. -/
theorem appendPort_run {v : W} {t : State} (bound : (portOf s.cur p).bound = true)
    (dir : (portOf s.cur p).write = true) (left : (portOf s.cur p).pos < (portOf s.cur p).count) :
    let g := portOf s.cur p
    let n := 2 ^ g.size.toNat
    Gives (storeVa 1 n (g.base + g.pos.zeroExtend 64 * g.stride) (wordBytes n v)) s () t →
    appendPort p v s = .ok ((), stepped p g t) := by
  intro g n store
  unfold appendPort
  rw [bind_of_gives (portAddress_run bound dir left)]
  exact (bind_of_gives store).trans (stepPort_run ..)

end

/-- Settles O1: each source field by its number; a port's three checks in their order, then its access. -/
theorem sourceFieldsAndStreamPorts : Obligations.SourceFieldsAndStreamPorts := by
  refine ⟨fun s f => ⟨fun hf tag => reads_queue hf tag, fun hf tag => ?_, fun hf hg tag => reads_named hf hg tag,
    fun hf hg tag => ?_, rfl, fun hint => ?_, fun k hint => ?_, rfl, rfl⟩, fun s p v => ?_⟩
  · rw [readSel_queue s hf, readEntry_wait s tag]
  · rw [readSel_named s hf hg, readEntry_wait s tag]
  · simpa [kValue, hint] using reads_hint (s := s)
  · simpa [kValue, hint] using reads_hint (s := s)
  · intro g f n at_ stepped traps pop
    have popTraps {reason : BitVec 4} (h : portAddress p false s = .error (.trap .protect (portInfo reason.toNat p))) :
        traps pop reason := by
      refine bind_of_error ?_
      rw [readSel_port, popPort_trap h, portInfo_eq]
    have appendTraps {reason : BitVec 4} (h : portAddress p true s = .error (.trap .protect (portInfo reason.toNat p))) :
        traps (appendPort p v) reason := (appendPort_trap v h).trans (by rw [portInfo_eq])
    refine ⟨fun bs t bound dir left load => ?_, fun t bound dir left store => appendPort_run bound dir left store,
      fun bound => ⟨popTraps (portAddress_closed bound), appendTraps (portAddress_closed bound)⟩, fun bound dir =>
      ⟨popTraps (portAddress_direction bound ?_), fun left => appendTraps (portAddress_exhausted bound dir left)⟩,
      fun bound dir => ⟨appendTraps (portAddress_direction bound ?_), fun left =>
        popTraps (portAddress_exhausted bound dir left)⟩⟩
    · exact (readSel_port s p).trans (popPort_run bound dir left load)
    · exact ne_of_eq_of_ne dir (by decide)
    · exact ne_of_eq_of_ne dir (by decide)

end Sys2Proof.Machine
end

section
/-!
PROOF. What a store changes, wherever it performs, and what it leaves: the frame that the exceptions, the results and the
ends of strands share.
-/
namespace Sys2Proof.Machine

/-! ### Writes at a home -/

/-- From one state to another only what a write at a home touches has changed: memory, its poison, the home slices, the
constant caches and the operations in flight. -/
def AtHome (s t : State) : Prop := ∃ mem clusters l2 poison events,
  t = { s with mem := mem, clusters := clusters, l2 := l2, poison := poison, events := events }

theorem AtHome.refl (s : State) : AtHome s s := ⟨s.mem, s.clusters, s.l2, s.poison, s.events, rfl⟩

theorem AtHome.trans {s t u : State} (h : AtHome s t) (g : AtHome t u) : AtHome s u := by
  obtain ⟨_, _, _, _, _, rfl⟩ := h
  obtain ⟨m, k, l, p, e, rfl⟩ := g
  exact ⟨m, k, l, p, e, rfl⟩

/-- What follows a write at a home is events: watches that fire, and a kick that is taken first. -/
theorem afterWrite_eq (s : State) (ca n : Nat) : ∃ hit kick, afterWrite s ca n =
    { s with events := kick ++ s.events ++ hit } ∧ (∀ e ∈ hit, ∃ w, e = .watchFire w) ∧
      ∀ e ∈ kick, ∃ a p, e = .kick a p := by
  have fires : ∀ l : List Watch, ∀ e ∈ l.map Event.watchFire, ∃ w, e = .watchFire w := fun l e he => by
    obtain ⟨w, -, rfl⟩ := List.mem_map.mp he
    exact ⟨w, rfl⟩
  unfold afterWrite
  extract_lets hit t
  cases kickedPort t ca n with
  | none => exact ⟨_, [], rfl, fires _, fun e he => nomatch he⟩
  | some q => exact ⟨_, [_], rfl, fires _, fun e he => ⟨_, _, List.mem_singleton.mp he⟩⟩

/-- A write at a home, field by field. -/
theorem homeWrite_eq (s : State) (ca : Nat) (bs : List Byte) : ∃ clusters l2 poison hit kick, homeWrite s ca bs =
    { s with
      mem := memWrite s.mem ca bs, clusters := clusters, l2 := l2, poison := poison
      events := kick ++ s.events ++ hit } ∧ (∀ e ∈ hit, ∃ w, e = .watchFire w) ∧ ∀ e ∈ kick, ∃ a p, e = .kick a p := by
  unfold homeWrite
  extract_lets t u
  obtain ⟨l, hl⟩ := touchHome_eq t ca bs.length true false
  obtain ⟨k, hk⟩ := dropConstant_eq (touchHome t ca bs.length true false) ca bs.length
  obtain ⟨hit, kick, e, h⟩ := afterWrite_eq (clearPoison u ca bs.length) ca bs.length
  refine ⟨k, l, (clearPoison u ca bs.length).poison, hit, kick, ?_, h⟩
  rw [e, show u = _ from hk, hl]
  rfl

theorem homeWrite_atHome (s : State) (ca : Nat) (bs : List Byte) : AtHome s (homeWrite s ca bs) := by
  obtain ⟨k, l, p, hit, kick, e, -⟩ := homeWrite_eq s ca bs
  exact ⟨_, k, l, p, _, e⟩

@[simp] theorem homeWrite_mem (s : State) (ca : Nat) (bs : List Byte) : (homeWrite s ca bs).mem = memWrite s.mem ca bs := by
  obtain ⟨k, l, p, hit, kick, e, -⟩ := homeWrite_eq s ca bs
  rw [e]

/-! ### The harts -/

/-- States with the same harts. -/
theorem HartsKept.of_eq {s t : State} (turn : t.turn = s.turn) (cur : t.cur = s.cur) (harts : t.harts = s.harts) :
    HartsKept s t := ⟨turn, fun h => by simp [slotOf, turn, cur, harts]⟩

theorem HartsKept.refl (s : State) : HartsKept s s := ⟨rfl, fun _ => rfl⟩

theorem HartsKept.trans {s t u : State} (h : HartsKept s t) (g : HartsKept t u) : HartsKept s u :=
  ⟨g.1.trans h.1, fun k => by rw [g.2 k, h.2 k]⟩

theorem slotOf_of_eq {s t : State} (turn : t.turn = s.turn) (cur : t.cur = s.cur) (harts : t.harts = s.harts) (h : HartId) :
    slotOf t h = slotOf s h := by
  simp [slotOf, turn, cur, harts]

theorem AtHome.slotOf {s t : State} (h : AtHome s t) (g : HartId) : slotOf t g = slotOf s g := by
  obtain ⟨_, _, _, _, _, rfl⟩ := h
  rfl

/-- The slot of a hart stands where a write of it leaves it: in the executing hart's place, or in the list of the others
behind smaller numbers only. -/
def Placed (s : State) (g : HartId) : Prop :=
  g = s.turn ∨ ∃ pre x post, s.harts = pre ++ (g.toNat, x) :: post ∧ ∀ p ∈ pre, p.1 < g.toNat

theorem mapPut_placed {α : Type} {pre post : AMap α} {a : Nat} {x : α} (h : ∀ p ∈ pre, p.1 < a) (v : α) :
    mapPut (pre ++ (a, x) :: post) a v = pre ++ (a, v) :: post := by
  induction pre with
  | nil => simp [mapPut]
  | cons p pre ih =>
    have hp := h p (List.mem_cons_self ..)
    rw [List.cons_append, mapPut, if_neg (by omega), if_neg (by omega), ih fun q hq => h q (List.mem_cons_of_mem _ hq)]
    rfl

theorem mapFind_placed {α : Type} {pre post : AMap α} {a : Nat} {x : α} (h : ∀ p ∈ pre, p.1 < a) :
    mapFind (pre ++ (a, x) :: post) a = some x := by
  induction pre with
  | nil => simp [mapFind]
  | cons p pre ih =>
    have hp := h p (List.mem_cons_self ..)
    rw [List.cons_append, mapFind, if_neg (by omega), ih fun q hq => h q (List.mem_cons_of_mem _ hq)]

/-- A value just put at a key stands behind smaller keys only. -/
theorem mapPut_self_split {α : Type} (m : AMap α) (a : Nat) (v : α) :
    ∃ pre post, mapPut m a v = pre ++ (a, v) :: post ∧ ∀ p ∈ pre, p.1 < a := by
  induction m with
  | nil => exact ⟨[], [], rfl, fun _ h => nomatch h⟩
  | cons p m ih =>
    obtain ⟨k, w⟩ := p
    unfold mapPut
    split
    · exact ⟨[], _, rfl, fun _ h => nomatch h⟩
    · split
      · exact ⟨[], m, rfl, fun _ h => nomatch h⟩
      · obtain ⟨pre, post, e, h⟩ := ih
        refine ⟨(k, w) :: pre, post, by rw [e]; rfl, ?_⟩
        rintro q (_ | ⟨_, hq⟩)
        · show k < a
          omega
        · exact h q hq

/-- A put at another key leaves what stands behind smaller keys only so. -/
theorem mapPut_other_split {α : Type} {m : AMap α} {a b : Nat} {x : α} (v : α) (ne : b ≠ a)
    (h : ∃ pre post, m = pre ++ (a, x) :: post ∧ ∀ p ∈ pre, p.1 < a) :
    ∃ pre post, mapPut m b v = pre ++ (a, x) :: post ∧ ∀ p ∈ pre, p.1 < a := by
  obtain ⟨pre, post, rfl, h⟩ := h
  induction pre with
  | nil =>
    rw [List.nil_append]
    unfold mapPut
    split
    · exact ⟨[(b, v)], post, rfl, by simpa⟩
    · exact ⟨[], mapPut post b v, rfl, fun _ h => nomatch h⟩
  | cons p pre ih =>
    have hp := h p (List.mem_cons_self ..)
    have ht : ∀ q ∈ pre, q.1 < a := fun q hq => h q (List.mem_cons_of_mem _ hq)
    rw [List.cons_append]
    unfold mapPut
    split
    · exact ⟨(b, v) :: p :: pre, post, rfl, by
        rintro q (_ | ⟨_, hq⟩)
        · show b < a
          omega
        · exact h q hq⟩
    · split
      · exact ⟨(b, v) :: pre, post, rfl, by
          rintro q (_ | ⟨_, hq⟩)
          · show b < a
            omega
          · exact ht q hq⟩
      · obtain ⟨pre', post', e, h'⟩ := ih ht
        exact ⟨p :: pre', post', by rw [e]; rfl, by
          rintro q (_ | ⟨_, hq⟩)
          · exact hp
          · exact h' q hq⟩

theorem placed_setSlot_self (s : State) (h : HartId) (x : Slot) : Placed (setSlot s h x) h := by
  unfold setSlot
  split
  · exact .inl ‹_›
  · obtain ⟨pre, post, e, hp⟩ := mapPut_self_split s.harts h.toNat x
    exact .inr ⟨pre, x, post, e, hp⟩

theorem Placed.setSlot {s : State} {g : HartId} (p : Placed s g) (h : HartId) (x : Slot) : Placed (setSlot s h x) g := by
  by_cases e : g = h
  · subst e
    exact placed_setSlot_self s g x
  · unfold Machine.setSlot
    split
    · exact p
    · rcases p with p | ⟨pre, y, post, hm, hp⟩
      · exact .inl p
      · obtain ⟨pre', post', hm', hp'⟩ := mapPut_other_split (b := h.toNat) x
          (fun q => e (BitVec.eq_of_toNat_eq q.symm)) ⟨pre, post, hm, hp⟩
        exact .inr ⟨pre', y, post', hm', hp'⟩

/-- The slot of a hart replaced by itself, where it stands in its place. -/
theorem setSlot_slotOf {s : State} {g : HartId} (p : Placed s g) : setSlot s g (slotOf s g) = s := by
  unfold setSlot slotOf
  split
  · rfl
  · rcases p with p | ⟨pre, x, post, hm, hp⟩
    · exact absurd p ‹_›
    · have hf : mapGet Slot.reset s.harts g.toNat = x := by rw [mapGet, hm, mapFind_placed hp]; rfl
      rw [hf, hm, mapPut_placed hp, ← hm]

/-! ### Stores -/

/-- From one state to another only what stores touch has changed: memory and the pools with their poison, the caches and
published regions, the operations in flight, and the harts' records of failed stores and of what fetch still sees. -/
structure Stored (s t : State) : Prop where
  kept : ∃ cur harts cores clusters mem pools l2 poison poolPoison events, t = { s with
    cur := cur, harts := harts, cores := cores, clusters := clusters, mem := mem, pools := pools, l2 := l2
    poison := poison, poolPoison := poolPoison, events := events }
  harts : HartsKept s t
  placed : ∀ g, Placed s g → Placed t g

theorem Stored.refl (s : State) : Stored s s :=
  ⟨⟨s.cur, s.harts, s.cores, s.clusters, s.mem, s.pools, s.l2, s.poison, s.poolPoison, s.events, rfl⟩, .refl s,
    fun _ p => p⟩

theorem Stored.trans {s t u : State} (h : Stored s t) (g : Stored t u) : Stored s u := by
  refine ⟨?_, h.harts.trans g.harts, fun k p => g.placed k (h.placed k p)⟩
  obtain ⟨_, _, _, _, _, _, _, _, _, _, e⟩ := h.kept
  obtain ⟨a, b, c, d, m, p, l, o, q, v, e'⟩ := g.kept
  exact ⟨a, b, c, d, m, p, l, o, q, v, by rw [e', e]⟩

theorem Stored.foldl {α : Type} {f : State → α → State} (hf : ∀ s a, Stored s (f s a)) (l : List α) (s : State) :
    Stored s (l.foldl f s) := by
  induction l generalizing s with
  | nil => exact .refl s
  | cons a l ih => exact (hf s a).trans (ih _)

/-- A change of no hart. -/
theorem Stored.of_same {s : State} (cores clusters mem pools l2 poison poolPoison events) : Stored s { s with
    cores := cores, clusters := clusters, mem := mem, pools := pools, l2 := l2, poison := poison
    poolPoison := poolPoison, events := events } :=
  ⟨⟨s.cur, s.harts, cores, clusters, mem, pools, l2, poison, poolPoison, events, rfl⟩, .of_eq rfl rfl rfl, fun _ p => p⟩

theorem AtHome.stored {s t : State} (h : AtHome s t) : Stored s t := by
  obtain ⟨m, k, l, p, e, rfl⟩ := h
  exact .of_same s.cores k m s.pools l p s.poolPoison e

theorem stored_emit (s : State) (e : Event) : Stored s (emit s e) :=
  .of_same s.cores s.clusters s.mem s.pools s.l2 s.poison s.poolPoison _

theorem stored_setCore (s : State) (c : Nat) (k : Core) : Stored s (setCore s c k) :=
  .of_same _ s.clusters s.mem s.pools s.l2 s.poison s.poolPoison s.events

theorem stored_readHome (s : State) (ca n : Nat) : Stored s (readHome s ca n) := by
  obtain ⟨l, e⟩ := touchHome_eq s (ca / n * n) n false false
  rw [readHome, e]
  exact .of_same s.cores s.clusters s.mem s.pools l s.poison s.poolPoison s.events

theorem stored_setSlot (s : State) (h : HartId) (f : Failed) (o : List Overwritten) :
    Stored s (setSlot s h { slotOf s h with failed := f, overwritten := o }) := by
  refine ⟨?_, ⟨setSlot_turn .., fun g => ?_⟩, fun g p => p.setSlot h _⟩
  · unfold setSlot
    split
    · exact ⟨_, s.harts, s.cores, s.clusters, s.mem, s.pools, s.l2, s.poison, s.poolPoison, s.events, rfl⟩
    · exact ⟨s.cur, _, s.cores, s.clusters, s.mem, s.pools, s.l2, s.poison, s.poolPoison, s.events, rfl⟩
  · by_cases e : g = h
    · rw [e, slotOf_setSlot_self]
    · rw [slotOf_setSlot_other _ _ _ _ e]

theorem mapFind_map {α β : Type} (f : Nat → α → β) (m : AMap α) (a : Nat) :
    mapFind (m.map fun p => (p.1, f p.1 p.2)) a = (mapFind m a).map (f a) := by
  induction m with
  | nil => rfl
  | cons p m ih =>
    by_cases e : p.1 = a
    · simp [mapFind, e]
    · simpa [mapFind, e] using ih

theorem stored_failStore (s : State) (h : HartId) (w r d : Bool) : Stored s (failStore s h w r d) :=
  stored_setSlot s h _ _

theorem stored_noteStore (s : State) (h : HartId) (ca n : Nat) : Stored s (noteStore s h ca n) :=
  stored_setSlot s h _ _

theorem stored_performedBy (s : State) (h : HartId) (ca : Nat) (bs : List Byte) : Stored s (performedBy s h ca bs) := by
  unfold performedBy
  extract_lets fresh see
  have seen : ∀ k x, ∃ o, see k x = { x with overwritten := o } := fun k x => by
    by_cases c : k = h ∨ x.overwritten.isEmpty
    · exact ⟨x.overwritten, if_pos c⟩
    · exact ⟨_, if_neg c⟩
  refine ⟨⟨_, _, s.cores, s.clusters, s.mem, s.pools, s.l2, s.poison, s.poolPoison, s.events, rfl⟩, ⟨rfl, fun g => ?_⟩,
    fun g p => ?_⟩
  · by_cases e : g = s.turn
    · obtain ⟨o, ho⟩ := seen s.turn s.cur
      simp only [slotOf, e, if_pos, ho]
    · simp only [slotOf, if_neg e, mapGet, mapFind_map (fun k x => see (BitVec.ofNat 13 k) x)]
      cases mapFind s.harts g.toNat with
      | none => rfl
      | some x =>
        obtain ⟨o, ho⟩ := seen (BitVec.ofNat 13 g.toNat) x
        simp only [Option.map_some, Option.getD_some, ho]
  · rcases p with p | ⟨pre, x, post, hm, hp⟩
    · exact .inl p
    · refine .inr ⟨pre.map fun p => (p.1, see (BitVec.ofNat 13 p.1) p.2),
        see (BitVec.ofNat 13 g.toNat) x, post.map fun p => (p.1, see (BitVec.ofNat 13 p.1) p.2), ?_, fun q hq => ?_⟩
      · simp only [hm, List.map_append, List.map_cons]
      · obtain ⟨r, hr, rfl⟩ := List.mem_map.mp hq
        exact hp r hr

theorem stored_writeBack (s : State) (l : L1Line) : Stored s (writeBack s l) := by
  unfold writeBack
  split
  · exact .refl s
  · split
    · exact stored_failStore ..
    · exact (stored_performedBy ..).trans (homeWrite_atHome ..).stored

theorem writeBack_cores (s : State) (l : L1Line) : (writeBack s l).cores = s.cores := by
  unfold writeBack
  split
  · rfl
  · split
    · exact setSlot_cores ..
    · obtain ⟨_, _, _, _, _, e⟩ := homeWrite_atHome (performedBy s l.writer (l.line * 32) (lineBytes l)) (l.line * 32)
        (lineBytes l)
      rw [e]
      rfl

theorem stored_installLine (s : State) (core : Nat) (l : L1Line) : Stored s (installLine s core l) :=
  (stored_setCore ..).trans (.foldl stored_writeBack _ _)

theorem stored_flushDirty (s : State) (core : Nat) : Stored s (flushDirty s core) :=
  (stored_setCore ..).trans (.foldl stored_writeBack _ _)

/-! ### Published regions (R413) -/

/-- From one state to another only publisher entries and subscriber slots of cores have changed, and operations in flight
have come behind the others. -/
structure Published (s t : State) : Prop where
  kept : ∃ cores new, t = { s with cores := cores, events := s.events ++ new }
  cores : ∀ c, coreOf t c = { coreOf s c with pubs := (coreOf t c).pubs, subs := (coreOf t c).subs }

theorem Published.refl (s : State) : Published s s := ⟨⟨s.cores, [], by simp⟩, fun _ => rfl⟩

theorem Published.trans {s t u : State} (h : Published s t) (g : Published t u) : Published s u := by
  refine ⟨?_, fun c => by rw [g.cores c, h.cores c]⟩
  obtain ⟨_, n, e⟩ := h.kept
  obtain ⟨k, m, e'⟩ := g.kept
  exact ⟨k, n ++ m, by rw [e', e]; simp⟩

theorem Published.foldl {α : Type} {f : State → α → State} (hf : ∀ s a, Published s (f s a)) (l : List α) (s : State) :
    Published s (l.foldl f s) := by
  induction l generalizing s with
  | nil => exact .refl s
  | cons a l ih => exact (hf s a).trans (ih _)

theorem published_setCore (s : State) (c : Nat) (pubs : AMap Publisher) (subs : AMap SubSlot) (new : List Event) :
    Published s { setCore s c { coreOf s c with pubs := pubs, subs := subs } with events := s.events ++ new } := by
  refine ⟨⟨_, new, rfl⟩, fun d => ?_⟩
  by_cases e : d = c
  · subst e
    exact (coreOf_setCore_self s d _).trans (by rw [show coreOf { setCore s d _ with events := s.events ++ new } d = _ from
      coreOf_setCore_self s d _])
  · exact (coreOf_setCore_other s c d _ e).trans (by rw [show coreOf { setCore s c _ with events := s.events ++ new } d = _ from
      coreOf_setCore_other s c d _ e])

theorem published_closeBatch (s : State) (core i : Nat) : Published s (closeBatch s core i) := by
  unfold closeBatch
  extract_lets k
  split
  · exact .refl s
  · split
    · exact .refl s
    · exact published_setCore s core _ _ _

theorem published_batchByte (core off : Nat) (b : Byte) (s : State) (i : Nat) : Published s (batchByte core off b s i) := by
  have put : ∀ t : State, ∀ pubs subs, Published t (setCore t core { coreOf t core with pubs := pubs, subs := subs }) :=
    fun t pubs subs => by simpa [setCore] using published_setCore t core pubs subs []
  unfold batchByte
  split
  · exact .refl s
  · split
    · exact .refl s
    · extract_lets start line t k at_ fresh
      split
      · have ht : Published s t := by
          unfold t
          split
          · split
            · exact .refl s
            · exact published_closeBatch ..
          · exact .refl s
        split
        · exact ht
        · exact ht.trans (put ..)
      · exact .refl s

theorem published_publish (s : State) (core off : Nat) (bs : List Byte) : Published s (publish s core off bs) := by
  induction bs generalizing s off with
  | nil => exact .refl s
  | cons b bs ih => exact (Published.foldl (published_batchByte core off b) _ s).trans (ih ..)

/-- A write performed at a pool: the bytes, what they clear of its poison, and what publishing does. -/
theorem poolPerform_eq (s : State) (core off : Nat) (bs : List Byte) : ∃ t, Published s t ∧
    poolPerform s core off bs = { t with
      pools := memWrite s.pools (poolKey core off) bs
      poolPoison := clearWords s.poolPoison (poolKey core off) bs.length } := by
  have h := published_publish (poolWrite s core off bs) core off bs
  obtain ⟨k, n, e⟩ := h.kept
  refine ⟨{ s with cores := k, events := s.events ++ n }, ⟨⟨k, n, rfl⟩, fun c => ?_⟩, e⟩
  have hc := h.cores c
  rw [e] at hc
  exact hc

theorem stored_poolPerform (s : State) (core off : Nat) (bs : List Byte) : Stored s (poolPerform s core off bs) := by
  obtain ⟨t, h, e⟩ := poolPerform_eq s core off bs
  obtain ⟨k, n, rfl⟩ := h.kept
  rw [e]
  exact .of_same k s.clusters s.mem _ s.l2 s.poison _ _

/-- A store of a hart, whatever its place. -/
theorem stored_storeOf (s : State) (h : HartId) (ctx : BitVec 16) (loc : Loc) (shared : Bool) (bs : List Byte) :
    Stored s (storeOf s h ctx loc shared bs) := by
  unfold storeOf
  extract_lets core
  split
  · extract_lets t held l new
    have ht : Stored s t := stored_noteStore ..
    split
    · refine ht.trans (Stored.trans ?_ (stored_installLine ..))
      split
      · exact .refl t
      · exact stored_readHome ..
    · exact ht.trans (stored_emit ..)
  · split
    · exact stored_poolPerform ..
    · exact stored_emit ..
  · split
    · exact stored_emit ..
    · exact .refl s
  · extract_lets port
    split
    · exact stored_failStore ..
    · exact stored_emit ..

end Sys2Proof.Machine
end

section
/-!
PROOF. How a result reaches the queue, the named registers and the ports (O2).
-/
namespace Sys2Proof.Machine

/-! ### The queue (R17) -/

theorem qEntry_push_zero (x : Slot) (e : Entry) : qEntry { x with q := pushQueue x.q e } 0 = e := rfl

theorem qEntry_push_succ (x : Slot) (e : Entry) {i : Nat} (hi : i < 15) :
    qEntry { x with q := pushQueue x.q e } (i + 1) = qEntry x i := by
  interval_cases i <;> rfl

/-! ### Producing a result (R45, R53, R55) -/

/-- The state with a result pushed. -/
def pushed (e : Entry) (s : State) : State := { s with cur := { s.cur with q := pushQueue s.cur.q e } }

theorem namedSel_toNat (i : BitVec 3) : (BitVec.ofNat 5 (16 + i.toNat) : Sel).toNat = 16 + i.toNat := by
  have := i.isLt
  rw [BitVec.toNat_ofNat]
  omega

theorem portSel_toNat (p : BitVec 2) : (BitVec.ofNat 5 (24 + p.toNat) : Sel).toNat = 24 + p.toNat := by
  have := p.isLt
  rw [BitVec.toNat_ofNat]
  omega

theorem produceAt_named_run (i : BitVec 3) (v : W) (cycle : Nat) {s : State} (free : awaited s.cur i.toNat = false) :
    produceAt (BitVec.ofNat 5 (16 + i.toNat)) v cycle s = .ok ((), { s with
      cur := writeNamed (keepOld (pushed ⟨v, 0, cycle⟩ s).cur s.tick i cycle) i ⟨v, 0, cycle⟩ }) := by
  have hi := i.isLt
  have hd : BitVec.ofNat 3 i.toNat = i := by rw [BitVec.ofNat_toNat, BitVec.setWidth_eq]
  unfold produceAt
  rw [bind_of_gives (curSlot_run s)]
  simp only [namedSel_toNat]
  rw [if_neg (by omega), if_pos (by omega), Nat.add_sub_cancel_left, free, hd]
  rfl

theorem produceAt_named_wait (i : BitVec 3) (v : W) (cycle : Nat) {s : State} (busy : awaited s.cur i.toNat = true) :
    produceAt (BitVec.ofNat 5 (16 + i.toNat)) v cycle s = .error (.wait id) := by
  have hi := i.isLt
  unfold produceAt
  rw [bind_of_gives (curSlot_run s)]
  simp only [namedSel_toNat]
  rw [if_neg (by omega), if_pos (by omega), Nat.add_sub_cancel_left, busy]
  rfl

theorem produceAt_port (p : BitVec 2) (v : W) (cycle : Nat) (s : State) :
    produceAt (BitVec.ofNat 5 (24 + p.toNat)) v cycle s = appendResult p v cycle (pushed ⟨v, 0, cycle⟩ s) := by
  have hp := p.isLt
  unfold produceAt
  rw [bind_of_gives (curSlot_run s)]
  simp only [portSel_toNat]
  rw [if_neg (by omega), if_neg (by omega), if_pos (by omega), bind_of_gives (modCur_run ..), Nat.add_sub_cancel_left,
    BitVec.ofNat_toNat, BitVec.setWidth_eq]
  rfl

theorem awaited_open {x : Slot} {i : Nat} (h : x.rep = none) : awaited x i = ((nEntry x i).tag != 0) := by
  simp [awaited, h]

theorem awaited_body {x : Slot} {i : Nat} {r : Repeat} (h : x.rep = some r) :
    awaited x i = (match r.buf[i]? with
      | some (some b) => b.tag != 0
      | _ => false) := by
  simp only [awaited, h]
  rcases r.buf[i]? with _ | _ | b <;> rfl

/-- A write of a register with no earlier write on its way takes effect in its cycle. -/
theorem effectCycle_of_none {x : Slot} {i : BitVec 3} (h : ∀ l ∈ x.late, l.reg ≠ i) (tick cycle : Nat) :
    effectCycle x tick i cycle = cycle := by
  have : (x.late.filter fun l => l.reg == i && decide (tick < l.cycle)) = [] :=
    List.filter_eq_nil_iff.mpr fun l hl => by simp [h l hl]
  simp [effectCycle, this]

theorem writeNamed_open {x : Slot} (h : x.rep = none) (i : BitVec 3) (e : Entry) :
    writeNamed x i e = { x with n := x.n.set i.toNat e } := by
  simp [writeNamed, h]

theorem keepOld_late (x : Slot) (tick : Nat) (i : BitVec 3) (cycle : Nat) :
    keepOld x tick i cycle = { x with late := (keepOld x tick i cycle).late } := by
  unfold keepOld
  extract_lets c
  split <;> rfl

/-- Taking late writes back leaves a register none of them writes. -/
theorem withoutLate_other {late : List LateWrite} {i : BitVec 3} (h : ∀ l ∈ late, l.reg ≠ i) (tick : Nat)
    (n : Vector Entry 8) : (withoutLate late tick n)[i.toNat]'i.isLt = n[i.toNat]'i.isLt := by
  induction late with
  | nil => rfl
  | cons l late ih =>
    have hl : l.reg.toNat ≠ i.toNat := fun e => h l (List.mem_cons_self ..) (BitVec.eq_of_toNat_eq e)
    have := ih fun m hm => h m (List.mem_cons_of_mem _ hm)
    unfold withoutLate at this ⊢
    rw [List.foldr_cons]
    split
    · rw [Vector.getElem_set_ne _ _ hl, this]
    · exact this

theorem nEntry_toNat (x : Slot) (i : BitVec 3) : nEntry x i.toNat = x.n[i.toNat]'i.isLt := by
  simp [nEntry, i.isLt]

/-- A rollback before a late write takes effect leaves the register as it was, one from that cycle on as written. -/
theorem nEntry_rolledBack_late {x : Slot} {i : BitVec 3} {e : Entry} {late : List LateWrite} {cycle : Nat}
    (h : ∀ l ∈ late, l.reg ≠ i) (he : e.tag = 0) (old : Entry) (keep : List Nat) (tick : Nat) (n : Vector Entry 8) :
    nEntry (rolledBack keep tick { x with n := n.set i.toNat e i.isLt, late := late ++ [⟨i, cycle, old⟩] }) i.toNat =
      if tick < cycle then old else e := by
  rw [nEntry_toNat]
  simp only [rolledBack, withoutLate, List.foldr_append, List.foldr_cons, List.foldr_nil]
  refine (withoutLate_other h tick _).trans ?_
  split
  · simp
  · obtain ⟨v, t, r⟩ := e
    simp only at he
    simp [he]

/-! ### Appends (R55, R187) -/

theorem appendAfter_iff (s : State) (h : HartId) (p : BitVec 2) (cycle : Nat) : appendAfter s h p cycle = true ↔
    ∃ e ∈ s.events, (∃ l m, appendOf e = some (h, p, l, m)) ∧ ∀ r, resultOf e = some r → cycle < r.due := by
  unfold appendAfter
  rw [List.any_eq_true]
  refine exists_congr fun e => and_congr_right fun _ => ?_
  rcases appendOf e with _ | ⟨k, q, l, m⟩
  · simp
  · rcases resultOf e with _ | r <;> simp [and_assoc]

theorem appendResult_now {p : BitVec 2} {v : W} {cycle : Nat} {s : State} (soon : cycle ≤ s.tick + 1)
    (none : appendAfter s s.turn p 0 = false) : appendResult p v cycle s = appendPort p v s := by
  unfold appendResult
  rw [bind_of_gives (get_run s), if_pos (by simp [soon, none])]

theorem appendResult_later {p : BitVec 2} {v : W} {cycle : Nat} {s : State}
    (later : ¬ (cycle ≤ s.tick + 1 ∧ appendAfter s s.turn p 0 = false)) : appendResult p v cycle s =
      (do let dst ← reserveElement p cycle; emitOp (.loadResponse ⟨s.turn, s.tags, dst, v, cycle⟩) : Op Unit)
        { s with tags := s.tags + 1 } := by
  unfold appendResult
  rw [bind_of_gives (get_run s), if_neg (by simpa using later)]
  rfl

/-- An element taken and checked at issue. -/
theorem reserveElement_run {p : BitVec 2} {cycle : Nat} {s t u : State} {q : Place}
    (free : appendAfter s s.turn p cycle = false) (bound : (portOf s.cur p).bound = true)
    (dir : (portOf s.cur p).write = true) (left : (portOf s.cur p).pos < (portOf s.cur p).count) :
    let g := portOf s.cur p
    let n := 2 ^ g.size.toNat
    Gives (checkAccess 1 n n .write true (g.base + g.pos.zeroExtend 64 * g.stride)) s q t →
    Gives (settleBytes q.loc n) t () u →
    reserveElement p cycle s = .ok (.stream p q.loc n q.shared, stepped p g u) := by
  intro g n check settle
  unfold reserveElement
  rw [bind_of_gives (get_run s), free, if_neg Bool.false_ne_true]
  refine (bind_of_gives (portAddress_run bound dir left)).trans ?_
  exact (bind_of_gives check).trans ((bind_of_gives settle).trans (bind_of_gives (stepPort_run ..)))

theorem reserveElement_wait {p : BitVec 2} {cycle : Nat} {s : State} (busy : appendAfter s s.turn p cycle = true) :
    reserveElement p cycle s = .error (.wait id) := by
  unfold reserveElement
  rw [bind_of_gives (get_run s), busy]
  rfl

/-- An append still to come at a cycle is still to come at every earlier one. -/
theorem appendAfter_zero {s : State} {h : HartId} {p : BitVec 2} {cycle : Nat} (busy : appendAfter s h p cycle = true) :
    appendAfter s h p 0 = true := by
  rw [appendAfter_iff] at busy ⊢
  obtain ⟨e, he, ha, hr⟩ := busy
  exact ⟨e, he, ha, fun r h => Nat.zero_lt_of_lt (hr r h)⟩

/-! ### Results still to come (R53) -/

/-- An entry that a result fills when it bears its tag. -/
def filledBy (tag : Nat) (v : W) (e : Entry) : Entry := if e.tag = tag then ready v else e

theorem filledBy_same (tag : Nat) (v w : W) (r : Nat) : filledBy tag v ⟨w, tag, r⟩ = ready v := if_pos rfl

theorem filledBy_other {tag : Nat} (v : W) {e : Entry} (h : e.tag ≠ tag) : filledBy tag v e = e := if_neg h

/-- A slot with the places of a result filled. -/
def arrived (r : Delivery) (x : Slot) : Slot :=
  { x with
    q := x.q.map (filledBy r.tag r.val)
    n := x.n.map (filledBy r.tag r.val)
    rep := x.rep.map fun p => { p with buf := p.buf.map (Option.map (filledBy r.tag r.val)) } }

theorem deliver_eq (s : State) (r : Delivery) : deliver s r =
    let s' := setSlot s r.h (arrived r (slotOf s r.h))
    match r.dest with
    | .stream _ loc size shared =>
      let t := storeOf s' r.h (slotOf s r.h).ctx loc shared (wordBytes size r.val)
      if r.tag < (slotOf s r.h).openTag then
        setSlot t r.h { slotOf t r.h with overwritten := (slotOf s r.h).overwritten } else t
    | _ => s' := by
  rfl

/-- A result that goes to no port fills the places that await it. -/
theorem deliver_register {s : State} {r : Delivery} (h : ∀ p l n b, r.dest ≠ .stream p l n b) :
    deliver s r = setSlot s r.h (arrived r (slotOf s r.h)) := by
  rw [deliver_eq]
  dsimp only
  split
  · exact (h _ _ _ _ ‹_›).elim
  · rfl

theorem deliver_register_cur {s : State} {r : Delivery} (turn : r.h = s.turn)
    (h : ∀ p l n b, r.dest ≠ .stream p l n b) : (deliver s r).cur = arrived r s.cur := by
  rw [deliver_register h, turn, setSlot_turn_cur]
  simp [slotOf]

theorem qEntry_arrived (r : Delivery) (x : Slot) {i : Nat} (hi : i < 16) :
    qEntry (arrived r x) i = filledBy r.tag r.val (qEntry x i) := by
  simp [qEntry, arrived, hi]

theorem nEntry_arrived (r : Delivery) (x : Slot) {i : Nat} (hi : i < 8) :
    nEntry (arrived r x) i = filledBy r.tag r.val (nEntry x i) := by
  simp [nEntry, arrived, hi]

/-- The result of an append fills its places and is stored; what instruction fetch sees then is all that may differ. -/
theorem deliver_append (s : State) (r : Delivery) {p : BitVec 2} {l : Loc} {size : Nat} {b : Bool}
    (h : r.dest = .stream p l size b) :
    let w := storeOf (setSlot s r.h (arrived r (slotOf s r.h))) r.h (slotOf s r.h).ctx l b (natBytes size r.val.toNat)
    ∃ x, deliver s r = setSlot w r.h { slotOf w r.h with overwritten := x } ∧
      ((slotOf s r.h).openTag ≤ r.tag → x = (slotOf w r.h).overwritten) := by
  intro w
  have e : deliver s r = if r.tag < (slotOf s r.h).openTag then
      setSlot w r.h { slotOf w r.h with overwritten := (slotOf s r.h).overwritten } else w := by
    rw [deliver_eq, h]
    rfl
  by_cases early : r.tag < (slotOf s r.h).openTag
  · exact ⟨_, e.trans (if_pos early), fun late => absurd early (Nat.not_lt.mpr late)⟩
  · refine ⟨(slotOf w r.h).overwritten, ?_, fun _ => rfl⟩
    rw [e, if_neg early]
    exact (setSlot_slotOf ((stored_storeOf ..).placed r.h (placed_setSlot_self ..))).symm

/-- A result reserved for the queue alone. -/
theorem reserve_queue_run (s : State) : reserve 0 s = .ok ((s.tags, .none),
    { pushed ⟨0, s.tags, 0⟩ s with tags := s.tags + 1 }) := rfl

/-- A result reserved for a named register outside a REP body. -/
theorem reserve_named_run {s : State} (i : BitVec 3) (rep : s.cur.rep = none) (free : (nEntry s.cur i.toNat).tag = 0) :
    reserve (BitVec.ofNat 5 (16 + i.toNat)) s = .ok ((s.tags, .reg i), { s with
      tags := s.tags + 1
      cur := { (pushed ⟨0, s.tags, 0⟩ s).cur with
        n := s.cur.n.set i.toNat ⟨(nEntry s.cur i.toNat).val, s.tags, 0⟩ i.isLt } }) := by
  have hi := i.isLt
  have hd : BitVec.ofNat 3 i.toNat = i := by rw [BitVec.ofNat_toNat, BitVec.setWidth_eq]
  unfold reserve reserveBy
  rw [bind_of_gives (get_run s)]
  refine (bind_of_gives (show Gives freshTag s s.tags { s with tags := s.tags + 1 } from rfl)).trans ?_
  simp only [namedSel_toNat]
  rw [if_neg (by omega), if_pos (by omega), Nat.add_sub_cancel_left, hd, awaited_open rep, free]
  simp [bind, StateT.bind, Except.bind, writeNamed, rep, pushed]

/-- A place that holds a ready value can be read. -/
theorem reads_ready_queue {f : Sel} {s : State} {v : W} (hf : f.toNat < 16) (h : qEntry s.cur f.toNat = ready v) :
    Reads s f v s := by
  have := reads_queue hf (by rw [h]; rfl : (qEntry s.cur f.toNat).tag = 0)
  rwa [h] at this

theorem reads_ready_named {s : State} {v : W} (i : BitVec 3) (h : nEntry s.cur i.toNat = ready v) :
    Reads s (BitVec.ofNat 5 (16 + i.toNat)) v s := by
  have hi := i.isLt
  have e : (BitVec.ofNat 5 (16 + i.toNat) : Sel).toNat - 16 = i.toNat := by rw [namedSel_toNat]; omega
  have := reads_named (f := BitVec.ofNat 5 (16 + i.toNat)) (s := s) (by rw [namedSel_toNat]; omega)
    (by rw [namedSel_toNat]; omega) (by rw [e, h]; rfl)
  rwa [e, h] at this

/-- Settles O2: a result by its destination, at once or when it arrives; the places that await a tag are those that the
word which took it has left. -/
theorem resultsReachTheirDestination : Obligations.ResultsReachTheirDestination := by
  refine ⟨?results, appendAfter_iff, fun s r p l size b h => deliver_append s r h, ?reserved⟩
  case results =>
    intro s v n e pushed
    have tick : ¬ (s.tick + n ≤ s.tick + 1) ↔ 2 ≤ n := by omega
    refine ⟨⟨qEntry_push_zero .., fun i hi => qEntry_push_succ _ _ hi⟩, rfl, fun i rep tag => ?named, fun i rep tag => ?wait,
      fun i r rep free => ?body, fun i r b rep held tag => ?bodyWait, fun p t soon none append => ?port, ?portLater,
      fun p busy => ?portWait⟩
    case named =>
      have free : awaited s.cur i.toNat = false := by simp [awaited_open rep, tag]
      refine ⟨(keepOld pushed s.tick i (s.tick + n)).late, ?_, fun none late keep tick => ?_, fun none soon => ?_⟩
      · have written : (keepOld pushed s.tick i (s.tick + n)).rep = Option.none := by rw [keepOld_late]; exact rep
        refine (produceAt_named_run i v (s.tick + n) free).trans ?_
        rw [writeNamed_open (by exact written), keepOld_late]
        rfl
      · have kept : (keepOld pushed s.tick i (s.tick + n)).late =
            s.cur.late.filter (fun l => decide (s.tick < l.cycle)) ++ [⟨i, s.tick + n, nEntry s.cur i.toNat⟩] := by
          have open_ : ¬ (pushed.rep.isSome ∨ s.tick + n ≤ s.tick + 1) := by simp [pushed, rep]; omega
          have cycle : effectCycle pushed s.tick i (s.tick + n) = s.tick + n := effectCycle_of_none none ..
          simp only [keepOld, cycle, if_neg open_, nEntry_toNat]
          rfl
        rw [kept]
        exact nEntry_rolledBack_late (fun l hl => none l (List.mem_filter.mp hl).1) rfl _ keep tick s.cur.n
      · have cycle : effectCycle pushed s.tick i (s.tick + n) = s.tick + n := effectCycle_of_none none ..
        simp only [keepOld, cycle]
        rw [if_pos (.inr (by omega))]
    case wait => exact produceAt_named_wait i v _ (by simp [awaited_open rep, tag])
    case body =>
      have free : awaited s.cur i.toNat = false := by
        rw [awaited_body rep]
        split
        · simp [free _ ‹_›]
        · rfl
      refine (produceAt_named_run i v (s.tick + n) free).trans ?_
      simp [keepOld, writeNamed, Machine.pushed, rep, pushed, e]
    case bodyWait => exact produceAt_named_wait i v _ (by rw [awaited_body rep, held]; simpa using tag)
    case port =>
      have soon : s.tick + n ≤ s.tick + 1 := by omega
      exact (produceAt_port p v _ s).trans ((appendResult_now (s := Machine.pushed e s) soon none).trans append)
    case portLater =>
      intro p q t u later free g size bound dir left check settle
      refine (produceAt_port p v _ s).trans ((appendResult_later ?_).trans ?_)
      · rintro ⟨soon, none⟩
        rcases later with later | later
        · exact tick.mpr later soon
        · exact Bool.false_ne_true (none.symm.trans later)
      · exact bind_of_gives (reserveElement_run free bound dir left check settle)
    case portWait =>
      refine (produceAt_port p v _ s).trans ((appendResult_later ?_).trans ?_)
      · rintro ⟨-, none⟩
        exact Bool.false_ne_true (none.symm.trans (appendAfter_zero busy))
      · exact bind_of_error (reserveElement_wait busy)
  case reserved =>
    intro s i v due rep tags free queue named
    have hi := i.isLt
    have fills : ∀ j, j < 15 → filledBy s.tags v (qEntry s.cur j) = qEntry s.cur j := fun j hj =>
      filledBy_other v (queue j (by omega))
    have keeps : ∀ j, j < 8 → filledBy s.tags v (nEntry s.cur j) = nEntry s.cur j := fun j hj =>
      filledBy_other v (named j hj)
    refine ⟨_, reserve_named_run i rep free, rfl, ?_, ?_, _, reserve_queue_run s, ?_⟩
    · exact (readSel_queue _ (by decide)).trans (readEntry_wait _ tags)
    · intro u
      have hu : u.cur = arrived ⟨s.turn, s.tags, .reg i, v, due⟩ _ := deliver_register_cur rfl (by simp)
      refine ⟨reads_ready_queue (by decide) ?_, reads_ready_named i ?_, fun j hj => ?_, fun j hj ne => ?_⟩
      · rw [hu, qEntry_arrived _ _ (by decide)]
        exact filledBy_same ..
      · rw [hu, nEntry_arrived _ _ hi, nEntry_toNat]
        refine (congrArg (filledBy _ _) (Vector.getElem_set_self ..)).trans (filledBy_same ..)
      · rw [hu, qEntry_arrived _ _ (by omega)]
        exact (congrArg (filledBy _ _) (qEntry_push_succ s.cur _ hj)).trans (fills j hj)
      · rw [hu, nEntry_arrived _ _ hj]
        refine (congrArg (filledBy _ _) ?_).trans (keeps j hj)
        simp only [nEntry, hj, dif_pos]
        exact Vector.getElem_set_ne _ _ (Ne.symm ne)
    · intro u
      have hu : u.cur = arrived ⟨s.turn, s.tags, .none, v, due⟩ _ := deliver_register_cur rfl (by simp)
      refine ⟨reads_ready_queue (by decide) ?_, fun j hj => ?_⟩
      · rw [hu, qEntry_arrived _ _ (by decide)]
        exact filledBy_same ..
      · rw [hu, nEntry_arrived _ _ hj]
        exact keeps j hj

end Sys2Proof.Machine
end

section
/-!
PROOF. The special registers as they read (O15).
-/
namespace Sys2Proof.Machine

theorem status_eq (x : Slot) (prio : Bool) : w64 (statusWord x prio) = (0 : BitVec 48) ++ BitVec.ofBool x.sup ++
    BitVec.ofBool x.checkstall ++ x.fpte ++ x.rmode ++ BitVec.ofBool prio ++ (0 : BitVec 5) := by
  apply BitVec.eq_of_toNat_eq
  have := x.fpte.isLt
  have := x.rmode.isLt
  have bit : ∀ b : Bool, b1 b ≤ 1 := by decide
  have := bit x.sup
  have := bit x.checkstall
  have := bit prio
  refine Eq.trans ?_ (toNat_append_eq _ _).symm
  simp only [toNat_append_eq, toNat_ofBool_eq, w64, statusWord, BitVec.ofNat_eq_ofNat, BitVec.toNat_ofNat, Nat.zero_mod, pow_one]
  omega

theorem lease_eq (x : Slot) (clock : Nat) : w64 (leaseWord (leaseNow x clock)) =
    (0 : BitVec 35) ++ BitVec.ofBool (x.lease.held && decide (x.lease.cyc.toNat - (clock - x.lease.since) ≠ 0)) ++
      (0 : BitVec 5) ++ x.lease.cmds ++ (0 : BitVec 5) ++
      (if x.lease.held then BitVec.ofNat 11 (x.lease.cyc.toNat - (clock - x.lease.since)) else x.lease.cyc) := by
  apply BitVec.eq_of_toNat_eq
  have := x.lease.cmds.isLt
  have := x.lease.cyc.isLt
  refine Eq.trans ?_ (toNat_append_eq _ _).symm
  simp only [toNat_append_eq, toNat_ofBool_eq, w64, leaseWord, leaseNow]
  cases held : x.lease.held with
  | false =>
    simp [b1, held]
    omega
  | true =>
    by_cases z : x.lease.cyc.toNat - (clock - x.lease.since) = 0
    · simp [b1, z]
      omega
    · simp [b1, z]
      omega

theorem phaseCount_eq (x : Slot) (clock : Nat) : (phNow x clock).zeroExtend 64 =
    if x.phopen then BitVec.ofNat 64 (min (x.phcnt.toNat + (clock - x.phAt)) 0xFFFFFFFF) else x.phcnt.zeroExtend 64 := by
  unfold phNow
  split
  · apply BitVec.eq_of_toNat_eq
    have : Nat.min (x.phcnt.toNat + (clock - x.phAt)) 0xFFFFFFFF ≤ 0xFFFFFFFF := Nat.min_le_right ..
    simp only [BitVec.truncate_eq_setWidth, BitVec.toNat_setWidth, BitVec.toNat_ofNat]
    change Nat.min _ _ % _ % _ = Nat.min _ _ % _
    omega
  · rfl

theorem phaseOpen_eq (b : Bool) : w64 (b1 b) = (0 : BitVec 63) ++ BitVec.ofBool b := by
  cases b <;> decide

/-- A read of an assigned register completes. -/
theorem csrrd_run {st : BitVec 3} {d : Sel} {n : BitVec 11} {s t : State} {v : W} (reads : csrRead s n = some v)
    (result : Produces s d v 2 t) : exec (.csrrd ⟨st, d, n⟩) s = .next (issued st t) :=
  runOp_ok (by
    rw [bind_of_gives (readCsr_run _ reads), bind_of_gives result, finish_run])

/-- The numbers of the registers are the assigned ones. -/
theorem csrRead_unassigned {n : BitVec 11} (s : State) (h : n ∉ [0x000, 0x001, 0x002, 0x003, 0x004, 0x005, 0x006, 0x008,
    0x010, 0x011, 0x012, 0x013, 0x018, 0x020, 0x021, 0x022, 0x023, 0x024, 0x028, 0x029, 0x02A, 0x030, 0x031,
    (0x032 : BitVec 11)]) : csrRead s n = none := by
  simp only [List.mem_cons, List.not_mem_nil, or_false, not_or, ← BitVec.toNat_inj] at h
  unfold csrRead
  dsimp only
  split <;> simp_all

/-- Settles O15: CSRRD produces what `csrRead` gives, and each register reads in the layout of its rule. -/
theorem specialRegistersRead : Obligations.SpecialRegistersRead := by
  intro s st d x k gives bit
  have reads {n : BitVec 11} {v : W} (h : csrRead s n = some v) : gives n v := fun _ result => csrrd_run h result
  refine ⟨reads (congrArg some (status_eq x (isH s.turn))), reads rfl, reads rfl, reads rfl, reads rfl, reads rfl, reads rfl,
    reads rfl, reads rfl, reads rfl, reads rfl, reads rfl, reads rfl, reads (congrArg some (phaseCount_eq x s.clock)),
    reads rfl, reads rfl, reads rfl, reads (congrArg some (phaseOpen_eq x.phopen)), reads rfl,
    reads (congrArg some (lease_eq x s.clock)), reads rfl, reads rfl, reads rfl, reads rfl, fun n hn settled => ?_⟩
  refine (runOp_trap (bind_of_error (readCsr_illegal _ (csrRead_unassigned s hn)))).trans ?_
  rw [if_neg (not_not_intro settled)]
  rfl

end Sys2Proof.Machine
end

section
/-!
PROOF. Waiting, counters and phase events (O21).
-/
namespace Sys2Proof.Machine

/-! ### The checks of a supervisor's word -/

theorem supervisorWord_run (i : Instr) {s : State} (h : s.cur.sup = true) : supervisorWord i s = .ok ((), s) := by
  unfold supervisorWord
  rw [bind_of_gives (curSlot_run s), require_true h]

theorem supervisorWord_user (i : Instr) {s : State} (h : s.cur.sup = false) :
    supervisorWord i s = .error (.trap .protect (w64 (wordOf i))) := by
  unfold supervisorWord
  rw [bind_of_gives (curSlot_run s), require_false h]

theorem slotOp_run {α : Type} {i : Instr} {w : Word32} (h : encode i = some w) (s : State) :
    (slotOp i : Op α) s = .error (.trap .slot (w64 w.toNat)) := by
  simp [slotOp, h]

theorem noDelaySlot_trap {i : Instr} {w : Word32} (h : encode i = some w) {s : State} (closed : ¬ InOpen s) :
    noDelaySlot i s = .error (.trap .slot (w64 w.toNat)) := by
  have stands : (s.cur.rep.isSome || inDelaySlot s.cur) = true := by
    by_contra e
    rw [Bool.not_eq_true, Bool.or_eq_false_iff] at e
    exact closed ⟨Option.not_isSome_iff_eq_none.mp (by simp [e.1]), e.2⟩
  unfold noDelaySlot
  rw [bind_of_gives (curSlot_run s), if_pos stands, slotOp_run h]

/-- A word's number in TINFO. -/
theorem w64_word (w : Word32) : w64 w.toNat = w.zeroExtend 64 := by
  apply BitVec.eq_of_toNat_eq
  simp [w64]

/-- A trap of a word, once no LAUNCH status is awaited. -/
theorem runOp_trapped {op : Op Unit} {s : State} {c : Cause} {info : W} (settled : s.cur.launches = 0)
    (h : op s = .error (.trap c info)) : runOp op s = .next (trapped c info s) := by
  rw [runOp_trap h, if_neg (not_not_intro settled), trapped]

/-- A word for supervisors outside delay slots: what it traps elsewhere. -/
theorem supervisorWord_traps {i : Instr} {w : Word32} {rest : Unit → Op Unit} (word : encode i = some w) {s : State}
    (settled : s.cur.launches = 0) :
    (s.cur.sup = false → runOp (do supervisorWord i; noDelaySlot i >>= rest) s =
      .next (trapped .protect (w.zeroExtend 64) s)) ∧
    (s.cur.sup = true → ¬ InOpen s → runOp (do supervisorWord i; noDelaySlot i >>= rest) s =
      .next (trapped .slot (w.zeroExtend 64) s)) := by
  have number : wordOf i = w.toNat := by simp [wordOf, word]
  constructor
  · intro user
    rw [runOp_trapped settled (bind_of_error (supervisorWord_user i user)), number, w64_word]
  · intro sup closed
    rw [runOp_trapped settled ((bind_of_gives (supervisorWord_run i sup)).trans (bind_of_error (noDelaySlot_trap word closed))),
      w64_word]

/-! ### WFI (R88, R434) -/

/-- The state after a WFI: the word has issued, and the slot waits. -/
def waiting (st : BitVec 3) (s : State) : State :=
  { issued st s with cur := { (issued st s).cur with wfi := some (s.tick + 65536) } }

theorem wfi_run (x : N0) {s : State} (sup : s.cur.sup = true) (stands : InOpen s) :
    exec (.wfi x) s = .next (waiting x.st s) :=
  runOp_ok (by
    rw [bind_of_gives (supervisorWord_run _ sup), bind_of_gives (noDelaySlot_run _ stands), bind_of_gives (finish_run ..),
      modify_run]
    rfl)

/-- A slot that waits in WFI does not issue. -/
theorem canIssue_of_wfi {s : State} {h : HartId} {n : Nat} (w : (slotOf s h).wfi = some n) : canIssue s h = false := by
  simp [canIssue, w]

theorem overrunInfo_eq (n : BitVec 32) : w64 (3 * 2 ^ 56 + n.toNat) = (3 : BitVec 8) ++ (0 : BitVec 24) ++ n := by
  apply BitVec.eq_of_toNat_eq
  refine Eq.trans ?_ (toNat_append_eq _ _).symm
  simp [w64]
  omega

/-- Settles O21: each word part by part, each event as it is defined. -/
theorem waitingCountersAndPhaseEvents : Obligations.WaitingCountersAndPhaseEvents := by
  refine ⟨fun x s sup stands => ⟨_, wfi_run x sup stands, ⟨_, rfl⟩, rfl, ?frame, rfl, rfl, rfl, ?still⟩,
    fun x s settled => ⟨_, rfl, supervisorWord_traps rfl settled⟩, fun h s => rfl, fun x s s1 t a v reads => ?perf,
    fun h s => ⟨rfl, ?message⟩⟩
  case frame => repeat' constructor
  case still => exact canIssue_of_wfi (n := s.tick + 65536) (by simp [slotOf, waiting])
  case perf =>
    intro s2 k value result
    have counts : counter s2 a = v := value ▸ rfl
    exact runOp_ok ((bind_of_gives reads).trans ((bind_of_gives (modify_run ..)).trans ((bind_of_gives (get_run _)).trans (by
      rw [counts]
      exact (bind_of_gives result).trans (finish_run ..)))))
  case message =>
    show Host.Outcome.next (sendOverrun s h) = _
    simp only [sendOverrun, setSlot_clock, overrunInfo_eq]

end Sys2Proof.Machine
end

section
/-!
PROOF. What a rollback does: the results of committed loads and divides delivered, whatever else is in flight (R131).
-/
namespace Sys2Proof.Machine

/-! ### Stores do not look at the operations in flight -/

/-- States that differ in the operations in flight only. -/
def SameBesidesEvents (s t : State) : Prop := ∃ e, t = { s with events := e }

theorem SameBesidesEvents.trans {s t u : State} (h : SameBesidesEvents s t) (g : SameBesidesEvents t u) :
    SameBesidesEvents s u := by
  obtain ⟨_, rfl⟩ := h
  obtain ⟨e, rfl⟩ := g
  exact ⟨e, rfl⟩

/-- A change of the state that is the same whatever is in flight, apart from what is in flight after it. -/
def BlindToEvents (f : State → State) : Prop := ∀ s e, SameBesidesEvents (f s) (f { s with events := e })

theorem BlindToEvents.of_same {f : State → State} (h : BlindToEvents f) {s t : State} (e : SameBesidesEvents s t) :
    SameBesidesEvents (f s) (f t) := by
  obtain ⟨e, rfl⟩ := e
  exact h s e

theorem BlindToEvents.comp {f g : State → State} (hg : BlindToEvents g) (hf : BlindToEvents f) :
    BlindToEvents fun s => g (f s) := fun s e => hg.of_same (hf s e)

theorem BlindToEvents.foldl {α : Type} {f : State → α → State} (h : ∀ a, BlindToEvents fun s => f s a) (l : List α) :
    BlindToEvents fun s => l.foldl f s := by
  induction l with
  | nil => exact fun s e => ⟨e, rfl⟩
  | cons a l ih => exact fun s e => ih.of_same (h a s e)

theorem blind_id : BlindToEvents fun s => s := fun _ e => ⟨e, rfl⟩

theorem blind_emit (v : Event) : BlindToEvents fun s => emit s v := fun _ _ => ⟨_, rfl⟩

theorem keepWays_events (s : State) (e : List Event) (set : Nat) (ls : List L2Line) (n : Nat) :
    keepWays { s with events := e } set n ls = keepWays s set n ls := by
  have pin : ∀ l, pinned { s with events := e } l = pinned s l := fun _ => rfl
  induction ls generalizing n with
  | nil => cases n <;> rfl
  | cons l ls ih =>
    cases n with
    | zero => simp only [keepWays, pin, ih]
    | succ n => simp only [keepWays, pin, ih]

theorem blind_touchLine (w r : Bool) (ca n : Nat) : BlindToEvents fun s => touchLine s w r ca n := by
  intro s e
  refine ⟨e, ?_⟩
  have pin : ∀ l, pinned { s with events := e } l = pinned s l := fun _ => rfl
  simp only [touchLine, cutSet, pin, keepWays_events]

theorem blind_touchHome (ca n : Nat) (w r : Bool) : BlindToEvents fun s => touchHome s ca n w r := by
  intro s e
  unfold touchHome
  split
  · exact ⟨e, rfl⟩
  · exact BlindToEvents.foldl (f := fun s i => touchLine s w r (Nat.max ca ((ca / 256 + i) * 256))
      (Nat.min (ca + n) ((ca / 256 + i + 1) * 256) - Nat.max ca ((ca / 256 + i) * 256)))
      (fun _ => blind_touchLine w r _ _) _ s e

theorem blind_dropConstant (ca n : Nat) : BlindToEvents fun s => dropConstant s ca n := by
  intro s e
  unfold dropConstant
  dsimp only
  split <;> exact ⟨e, rfl⟩

theorem blind_afterWrite (ca n : Nat) : BlindToEvents fun s => afterWrite s ca n := by
  intro s e
  unfold afterWrite
  have kick : ∀ v, kickedPort { s with events := v } ca n = kickedPort s ca n := fun _ => rfl
  simp only [kick]
  split <;> exact ⟨_, rfl⟩

theorem blind_homeWrite (ca : Nat) (bs : List Byte) : BlindToEvents fun s => homeWrite s ca bs :=
  (blind_afterWrite ca bs.length).comp (BlindToEvents.comp (g := fun s => clearPoison s ca bs.length) (fun _ e => ⟨e, rfl⟩)
    ((blind_dropConstant ca bs.length).comp (BlindToEvents.comp (blind_touchHome ca bs.length true false)
      (f := fun s => { s with mem := memWrite s.mem ca bs }) fun _ e => ⟨e, rfl⟩)))

theorem slotOf_events (s : State) (e : List Event) (h : HartId) : slotOf { s with events := e } h = slotOf s h := rfl

theorem setSlot_sameBesidesEvents (s : State) (e : List Event) (h : HartId) (x : Slot) :
    setSlot { s with events := e } h x = { setSlot s h x with events := e } := by
  unfold setSlot
  split <;> rfl

/-- A hart's slot changed. -/
theorem blind_modSlot (h : HartId) (f : Slot → Slot) : BlindToEvents fun s => setSlot s h (f (slotOf s h)) :=
  fun s e => ⟨e, setSlot_sameBesidesEvents s e h _⟩

theorem blind_failStore (h : HartId) (w r d : Bool) : BlindToEvents fun s => failStore s h w r d :=
  fun s e => ⟨e, setSlot_sameBesidesEvents s e h _⟩

theorem blind_noteStore (h : HartId) (ca n : Nat) : BlindToEvents fun s => noteStore s h ca n :=
  fun s e => ⟨e, setSlot_sameBesidesEvents s e h _⟩

theorem blind_writeBack (l : L1Line) : BlindToEvents fun s => writeBack s l := by
  intro s e
  unfold writeBack
  split
  · exact ⟨e, rfl⟩
  · have cells : touchesCell { s with events := e } (l.line * 32) 32 = touchesCell s (l.line * 32) 32 := rfl
    dsimp only
    rw [cells]
    split
    · exact blind_failStore _ _ _ _ s e
    · exact (blind_homeWrite _ _).of_same ⟨e, rfl⟩

theorem blind_installLine (core : Nat) (l : L1Line) : BlindToEvents fun s => installLine s core l := fun s e =>
  (BlindToEvents.foldl blind_writeBack _).of_same (s := setCore s core _) ⟨e, rfl⟩

theorem blind_closeBatch (core i : Nat) : BlindToEvents fun s => closeBatch s core i := by
  intro s e
  unfold closeBatch
  have core_ : coreOf { s with events := e } core = coreOf s core := rfl
  have place : ∀ c, placementOf { s with events := e } core c = placementOf s core c := fun _ => rfl
  simp only [core_, place]
  split
  · exact ⟨e, rfl⟩
  · split
    · exact ⟨e, rfl⟩
    · exact ⟨_, rfl⟩

/-- One byte joined to the batch of a publisher entry, opened if need be. -/
def joinBatch (core i line at_ : Nat) (b : Byte) (s : State) : State :=
  let k := coreOf s core
  match mapFind k.pubs i with
  | none => s
  | some e =>
    let (bytes, since) := match e.batch with
      | some (_, bs, t) => (bs, t)
      | none => ([], s.tick)
    let fresh (q : Nat × SubSlot) : Nat × SubSlot :=
      if q.2.entry = i then (q.1, { q.2 with skip := q.2.skip.filter fun j => j != at_ }) else q
    setCore s core { k with
      pubs := mapPut k.pubs i { e with batch := some (line, mapPut bytes at_ b, since) }
      subs := k.subs.map fresh }

theorem blind_joinBatch (core i line at_ : Nat) (b : Byte) : BlindToEvents (joinBatch core i line at_ b) := by
  intro s e
  unfold joinBatch
  have core_ : coreOf { s with events := e } core = coreOf s core := rfl
  simp only [core_]
  split <;> exact ⟨e, rfl⟩

theorem blind_batchByte (core off : Nat) (b : Byte) (i : Nat) : BlindToEvents fun s => batchByte core off b s i := by
  intro s e
  unfold batchByte
  have core_ : coreOf { s with events := e } core = coreOf s core := rfl
  have place : ∀ c, placementOf { s with events := e } core c = placementOf s core c := fun _ => rfl
  dsimp only
  rw [core_]
  split
  · exact ⟨e, rfl⟩
  · rename_i x _
    rw [place]
    split
    · exact ⟨e, rfl⟩
    · rename_i p _
      split
      · refine (blind_joinBatch core i ((off - (padBase p.partw p.pbase + x.base)) / 32 * 32) _ b).of_same ?_
        split
        · split
          · exact ⟨e, rfl⟩
          · exact blind_closeBatch core i s e
        · exact ⟨e, rfl⟩
      · exact ⟨e, rfl⟩

theorem blind_publish (core off : Nat) (bs : List Byte) : BlindToEvents fun s => publish s core off bs := by
  induction bs generalizing off with
  | nil => exact blind_id
  | cons b bs ih =>
    intro s e
    have fold := BlindToEvents.foldl (fun i => blind_batchByte core off b i) ((coreOf s core).pubs.map (·.1))
    exact (ih (off + 1)).of_same (fold s e)

theorem blind_poolPerform (core off : Nat) (bs : List Byte) : BlindToEvents fun s => poolPerform s core off bs :=
  (blind_publish core off bs).comp (f := fun s => poolWrite s core off bs) fun _ e => ⟨e, rfl⟩

theorem blind_storeOf (h : HartId) (ctx : BitVec 16) (loc : Loc) (shared : Bool) (bs : List Byte) :
    BlindToEvents fun s => storeOf s h ctx loc shared bs := by
  intro s e
  unfold storeOf
  cases loc with
  | mem ca =>
    have noted : SameBesidesEvents (noteStore s h ca bs.length) (noteStore { s with events := e } h ca bs.length) :=
      blind_noteStore h ca bs.length s e
    dsimp only
    generalize noteStore s h ca bs.length = t at noted ⊢
    generalize noteStore { s with events := e } h ca bs.length = t' at noted ⊢
    obtain ⟨e', rfl⟩ := noted
    have line : l1Line { t with events := e' } (agentOf h) ca = l1Line t (agentOf h) ca := rfl
    have poison : poisonedMem { t with events := e' } ca bs.length = poisonedMem t ca bs.length := rfl
    have cells : touchesCell { t with events := e' } ca bs.length = touchesCell t ca bs.length := rfl
    have fetched : fetchedLine { t with events := e' } h ca false = fetchedLine t h ca false := rfl
    rw [line, poison, cells, fetched]
    split
    · refine (blind_installLine _ _).of_same ?_
      split
      · exact ⟨e', rfl⟩
      · exact blind_touchHome _ _ _ _ t e'
    · exact ⟨_, rfl⟩
  | pool c off =>
    dsimp only
    split
    · exact blind_poolPerform _ _ _ s e
    · exact ⟨_, rfl⟩
  | config off =>
    dsimp only
    split <;> exact ⟨_, rfl⟩
  | remote pa =>
    have link : linkAt { s with events := e } (pa / 2 ^ 44 % 16) = linkAt s (pa / 2 ^ 44 % 16) := rfl
    dsimp only
    rw [link]
    split
    · exact blind_failStore _ _ _ _ s e
    · exact ⟨_, rfl⟩

theorem blind_deliver (r : Delivery) : BlindToEvents fun s => deliver s r := by
  intro s e
  have arrive : SameBesidesEvents (setSlot s r.h (arrived r (slotOf s r.h)))
      (setSlot { s with events := e } r.h (arrived r (slotOf s r.h))) := ⟨e, setSlot_sameBesidesEvents s e _ _⟩
  dsimp only
  rw [deliver_eq, deliver_eq, slotOf_events s e]
  dsimp only
  split
  · rename_i loc size shared _
    have stored := (blind_storeOf r.h (slotOf s r.h).ctx loc shared (wordBytes size r.val)).of_same arrive
    by_cases early : r.tag < (slotOf s r.h).openTag
    · simp only [if_pos early]
      obtain ⟨e', he⟩ := stored
      rw [he]
      exact blind_modSlot r.h (fun y => { y with overwritten := (slotOf s r.h).overwritten }) _ e'
    · simp only [if_neg early]
      exact stored
  · exact arrive

/-! ### The results of committed instructions (R131) -/

/-- From one state to another only what results on their way touch has changed: what stores do, and the places of the harts
that results fill. -/
structure Delivered (s t : State) : Prop where
  kept : ∃ cur harts cores clusters mem pools l2 poison poolPoison events, t = { s with
    cur := cur, harts := harts, cores := cores, clusters := clusters, mem := mem, pools := pools, l2 := l2
    poison := poison, poolPoison := poolPoison, events := events }
  slots : ∀ h, slotOf t h = { slotOf s h with
    q := (slotOf t h).q, n := (slotOf t h).n, rep := (slotOf t h).rep, failed := (slotOf t h).failed
    overwritten := (slotOf t h).overwritten }

theorem Delivered.refl (s : State) : Delivered s s :=
  ⟨⟨s.cur, s.harts, s.cores, s.clusters, s.mem, s.pools, s.l2, s.poison, s.poolPoison, s.events, rfl⟩, fun _ => rfl⟩

theorem Delivered.trans {s t u : State} (h : Delivered s t) (g : Delivered t u) : Delivered s u := by
  refine ⟨?_, fun k => by rw [g.slots k, h.slots k]⟩
  obtain ⟨_, _, _, _, _, _, _, _, _, _, e⟩ := h.kept
  obtain ⟨a, b, c, d, m, p, l, o, q, v, e'⟩ := g.kept
  exact ⟨a, b, c, d, m, p, l, o, q, v, by rw [e', e]⟩

theorem Stored.delivered {s t : State} (h : Stored s t) : Delivered s t := ⟨h.kept, fun g => by rw [h.harts.2 g]⟩

theorem delivered_setSlot (s : State) (h : HartId) {x : Slot}
    (hx : x = { slotOf s h with q := x.q, n := x.n, rep := x.rep, failed := x.failed, overwritten := x.overwritten }) :
    Delivered s (setSlot s h x) := by
  refine ⟨?_, fun g => ?_⟩
  · unfold setSlot
    split
    · exact ⟨_, s.harts, s.cores, s.clusters, s.mem, s.pools, s.l2, s.poison, s.poolPoison, s.events, rfl⟩
    · exact ⟨s.cur, _, s.cores, s.clusters, s.mem, s.pools, s.l2, s.poison, s.poolPoison, s.events, rfl⟩
  · by_cases e : g = h
    · rw [e, slotOf_setSlot_self]
      exact hx
    · rw [slotOf_setSlot_other _ _ _ _ e]

theorem delivered_deliver (s : State) (r : Delivery) : Delivered s (deliver s r) := by
  have arrive : Delivered s (setSlot s r.h (arrived r (slotOf s r.h))) := delivered_setSlot s r.h rfl
  rw [deliver_eq]
  dsimp only
  split
  · rename_i loc size shared _
    have stored := arrive.trans (stored_storeOf (setSlot s r.h (arrived r (slotOf s r.h))) r.h (slotOf s r.h).ctx loc shared
      (wordBytes size r.val)).delivered
    split
    · exact stored.trans (delivered_setSlot _ r.h rfl)
    · exact stored
  · exact arrive

theorem delivered_deliverCommitted (s : State) (h : HartId) : Delivered s (deliverCommitted s h) := by
  have fold : ∀ (l : List Delivery) (t : State), Delivered t (l.foldl deliver t) := by
    intro l
    induction l with
    | nil => exact .refl
    | cons r l ih => exact fun t => (delivered_deliver t r).trans (ih _)
  have marked (e : List Event) : Delivered s { s with events := e } :=
    ⟨⟨s.cur, s.harts, s.cores, s.clusters, s.mem, s.pools, s.l2, s.poison, s.poolPoison, e, rfl⟩, fun _ => rfl⟩
  exact (marked _).trans (fold _ _)

/-- An operation in flight that delivers no result of the hart is of no account. -/
theorem deliverCommitted_emit (s : State) (h : HartId) {v : Event} (other : resultOf v = none) :
    SameBesidesEvents (deliverCommitted s h) (deliverCommitted (emit s v) h) := by
  have no : committedResult h (slotOf s h).openTag v = false := by simp [committedResult, other]
  have same : (s.events ++ [v]).filter (committedResult h (slotOf s h).openTag) =
      s.events.filter (committedResult h (slotOf s h).openTag) := by simp [no]
  unfold deliverCommitted
  dsimp only
  rw [show slotOf (emit s v) h = slotOf s h from rfl, emit_events, same]
  exact (BlindToEvents.foldl blind_deliver _).of_same ⟨_, rfl⟩

/-- A walk made known is of no account to the results of committed instructions. -/
theorem deliverCommitted_noteWalk (s : State) (h : HartId) (c : Cause) (info : W) :
    SameBesidesEvents (deliverCommitted s h) (deliverCommitted (noteWalk s h c info) h) := by
  unfold noteWalk
  split
  · exact deliverCommitted_emit s h rfl
  · exact ⟨_, rfl⟩

/-- The places of a cluster's lists given up at a rollback. -/
theorem withdraw_eq (s : State) (h : HartId) : ∃ clusters, withdraw s h = { s with clusters := clusters } := by
  unfold withdraw
  dsimp only
  split
  · exact ⟨_, rfl⟩
  · exact ⟨s.clusters, rfl⟩

/-- A rollback delivers the results of committed instructions and then changes the hart's slot, whatever walk the exception
made known before it. -/
theorem rollback_noteWalk_eq (s : State) (h : HartId) (c : Cause) (info : W) : ∃ keep clusters events,
    rollback (noteWalk s h c info) h =
      { setSlot (deliverCommitted s h) h (rolledBack keep s.tick (slotOf (deliverCommitted s h) h)) with
        clusters := clusters, events := events } := by
  obtain ⟨e, he⟩ := deliverCommitted_noteWalk s h c info
  have tick : (deliverCommitted s h).tick = s.tick := by
    obtain ⟨_, _, _, _, _, _, _, _, _, _, e⟩ := (delivered_deliverCommitted s h).kept
    rw [e]
  unfold rollback
  dsimp only
  rw [he]
  dsimp only
  generalize List.filterMap _ _ = keep
  generalize List.filter _ _ = events
  obtain ⟨clusters, hw⟩ := withdraw_eq (setSlot { deliverCommitted s h with events := events } h
    (rolledBack keep (deliverCommitted s h).tick (slotOf { deliverCommitted s h with events := events } h))) h
  refine ⟨keep, clusters, events, hw.trans ?_⟩
  rw [setSlot_sameBesidesEvents, tick, slotOf_events]

end Sys2Proof.Machine
end

section
/-!
PROOF. Statement O17: what taking a trap saves, where it goes, and what stays (R131, R426, R427).
-/
namespace Sys2Proof.Machine

/-! ### Bytes written and read again -/

/-- The bytes just written, read where they were written. -/
theorem memRead_memWrite_same {m : Memory} (a : Nat) (bs : List Byte) (h : Memory.wf m = true) :
    memRead (memWrite m a bs) a bs.length = bs := by
  refine List.ext_getElem (memRead_length ..) fun i _ hi => ?_
  simp [memRead, memGet_memWrite a _ bs h, hi]

theorem poolRead_poolWrite_same {s : State} (h : Memory.wf s.pools = true) (core off : Nat) (bs : List Byte) :
    poolRead (poolWrite s core off bs) core off bs.length = bs := memRead_memWrite_same _ bs h

theorem State.memOk_pools {s : State} (h : s.memOk = true) : Memory.wf s.pools = true := by
  simp only [State.memOk, Bool.and_eq_true] at h
  exact h.1.2

theorem State.memOk_mem {s : State} (h : s.memOk = true) : Memory.wf s.mem = true := by
  simp only [State.memOk, Bool.and_eq_true] at h
  exact h.1.1

theorem streamBytes_length (g : Stream) : (streamBytes g).length = 32 := by
  unfold streamBytes
  split <;> simp

/-- The save area's first part has 256 bytes (R36). -/
theorem saveBytes_length (x : Slot) (clock : Nat) : (saveBytes x clock).length = 256 := by
  have regs : x.n.toList.map (fun e => (wordBytes 8 e.val).length) = List.replicate 8 8 := by
    simp [wordBytes, List.map_const']
  have streams : x.str.toList.map (fun g => (streamBytes g).length) = List.replicate 4 32 := by
    simp [streamBytes_length, List.map_const']
  simp [saveBytes, List.length_flatten, Function.comp_def, regs, streams]

/-! ### The values of the registers -/

/-- Registers with equal values, whatever results they await. -/
def SameValues (n m : Vector Entry 8) : Prop := n.map (·.val) = m.map (·.val)

theorem SameValues.set {n m : Vector Entry 8} (h : SameValues n m) (r : BitVec 3) (e : Entry) :
    SameValues (n.set r.toNat e) (m.set r.toNat e) := by
  unfold SameValues at *
  rw [Vector.map_set, Vector.map_set, h]

theorem SameValues.withoutLate {n m : Vector Entry 8} (h : SameValues n m) (late : List LateWrite) (tick : Nat) :
    SameValues (withoutLate late tick n) (withoutLate late tick m) := by
  induction late with
  | nil => exact h
  | cons l late ih =>
    unfold Machine.withoutLate at *
    simp only [List.foldr_cons]
    split
    · exact ih.set _ _
    · exact ih

theorem SameValues.val {n m : Vector Entry 8} (h : SameValues n m) {j : Nat} (hj : j < 8) : n[j].val = m[j].val := by
  have := congrArg (fun v : Vector W 8 => v[j]) h
  simpa using this

/-- A rollback changes no register's value but those of writes still on their way (R131). -/
theorem rolledBack_sameValues (keep : List Nat) (tick : Nat) (x : Slot) :
    SameValues (rolledBack keep tick x).n (withoutLate x.late tick x.n) := by
  refine SameValues.withoutLate ?_ _ _
  unfold SameValues
  rw [Vector.map_map]
  congr 1
  funext e
  simp only [Function.comp]
  split <;> rfl

/-- The registers are saved by their values. -/
theorem saveBytes_of_sameValues {x : Slot} {n : Vector Entry 8} (h : SameValues x.n n) (clock : Nat) :
    saveBytes x clock = saveBytes { x with n := n } clock := by
  have vals (v : Vector Entry 8) : v.toList.map (fun e => wordBytes 8 e.val) = (v.map (·.val)).toList.map (wordBytes 8) := by
    rw [Vector.toList_map, List.map_map]
    rfl
  unfold saveBytes
  rw [vals, vals, h]
  rfl

/-! ### The entry to the switch handler -/

@[simp] theorem poolWrite_slotOf (s : State) (c o : Nat) (bs : List Byte) (h : HartId) :
    slotOf (poolWrite s c o bs) h = slotOf s h := rfl

/-- A trap of a compute slot in user mode rolls the slot back and enters the switch handler. -/
theorem takeTrap_core {s : State} {h : HartId} (core : kindOf h = .core) (user : (slotOf s h).sup = false) (c : Cause)
    (info : W) (tpc : Option Addr) :
    takeTrap s h c info tpc = enterCore (rollback (noteWalk s h c info) h) h c info tpc := by
  have : slotOf (noteWalk s h c info) h = slotOf s h := by
    unfold noteWalk
    split <;> rfl
  unfold takeTrap
  simp [core, this, user]

theorem mapPut_mapPut_self {α : Type} (m : AMap α) (a : Nat) (v w : α) : mapPut (mapPut m a v) a w = mapPut m a w := by
  induction m with
  | nil => simp [mapPut]
  | cons p m ih =>
    obtain ⟨k, u⟩ := p
    rcases Nat.lt_trichotomy a k with l | rfl | g
    · simp [mapPut, l]
    · simp [mapPut]
    · simp [mapPut, Nat.lt_asymm g, Nat.ne_of_gt g, ih]

theorem setSlot_setSlot (s : State) (h : HartId) (x y : Slot) : setSlot (setSlot s h x) h y = setSlot s h y := by
  by_cases e : h = s.turn
  · simp [setSlot, e]
  · simp [setSlot, e, mapPut_mapPut_self]

theorem setExchange_eq (s : State) (h : HartId) (on : Bool) : ∃ cores, setExchange s h on = { s with cores := cores } := by
  unfold setExchange
  dsimp only
  split
  · exact ⟨_, rfl⟩
  · split
    · exact ⟨_, rfl⟩
    · exact ⟨s.cores, rfl⟩

theorem exchangeIf_eq (b : Bool) (s : State) (h : HartId) :
    ∃ cores, (if b then setExchange s h true else s) = { s with cores := cores } := by
  cases b
  · exact ⟨s.cores, rfl⟩
  · exact setExchange_eq s h true

/-- A hart rolled back, once the results of its committed loads and divides are in: what that leaves. -/
structure RolledBack (s : State) (h : HartId) (r : State) : Prop where
  own : ∃ keep, slotOf r h = rolledBack keep s.tick (slotOf (deliverCommitted s h) h)
  other : ∀ g, g ≠ h → slotOf r g = slotOf (deliverCommitted s h) g
  pools : r.pools = (deliverCommitted s h).pools
  mem : r.mem = (deliverCommitted s h).mem
  dies : r.dies = s.dies
  ctxs : r.ctxs = s.ctxs
  module : r.module = s.module
  tick : r.tick = s.tick
  clock : r.clock = s.clock

theorem rolledBack_rollback (s : State) (h : HartId) (c : Cause) (info : W) :
    RolledBack s h (rollback (noteWalk s h c info) h) := by
  obtain ⟨keep, clusters, events, back⟩ := rollback_noteWalk_eq s h c info
  obtain ⟨_, _, _, _, _, _, _, _, _, _, kept⟩ := (delivered_deliverCommitted s h).kept
  rw [back]
  exact ⟨⟨keep, slotOf_setSlot_self ..⟩, fun g other => slotOf_setSlot_other _ _ _ _ other, setSlot_pools .., setSlot_mem ..,
    (setSlot_dies ..).trans (by rw [kept]), (setSlot_ctxs ..).trans (by rw [kept]), (setSlot_module ..).trans (by rw [kept]),
    (setSlot_tick ..).trans (by rw [kept]), (setSlot_clock ..).trans (by rw [kept])⟩

/-- The slot that a trap takes into the switch handler, as it is saved: rolled back, with its trap registers written. -/
def trapSlot (keep : List Nat) (tick : Nat) (c : Cause) (info : W) (tpc : Option Addr) (x : Slot) : Slot :=
  setTrapRegs c info (tpc.getD (rolledBack keep tick x).rstart) (rolledBack keep tick x)

theorem trapSlot_saveBytes (keep : List Nat) (tick clock : Nat) (c : Cause) (info : W) (tpc : Option Addr) (x : Slot) :
    saveBytes (trapSlot keep tick c info tpc x) clock =
      saveBytes { x with str := x.ckpt, fpflags := fpflagsKept x tick, n := withoutLate x.late tick x.n } clock :=
  saveBytes_of_sameValues (rolledBack_sameValues keep tick x) clock

/-- The entry of a compute slot for a cause but PREEMPT: the save area written, and the slot in the switch handler. -/
theorem enterCore_eq (s : State) (h : HartId) {c : Cause} (other : c ≠ .preempt) (info : W) (tpc : Option Addr) :
    let x := setTrapRegs c info (tpc.getD (slotOf s h).rstart) (slotOf s h)
    let off := saveOffset (isH h) x.partw x.pbase
    ∃ t cores, enterCore s h c info tpc = { t with cores := cores } ∧
      t = setSlot (poolWrite s (agentOf h) off (saveBytes x s.clock)) h
        (enterHandler (dieOf s (dieOfAgent (agentOf h))).tentry (w64 off)
          (enteringSlot false s.module.frozen.isSome s.clock x)) := by
  intro x off
  have pre : (c == Cause.preempt) = false := by simpa using other
  unfold enterCore
  rw [pre]
  dsimp only [writeSaveArea]
  simp only [Bool.false_eq_true, if_false]
  obtain ⟨cores, e⟩ := exchangeIf_eq ..
  exact ⟨_, cores, e, rfl⟩

theorem slotOf_cores (s : State) (cores : AMap Core) (h : HartId) : slotOf { s with cores := cores } h = slotOf s h := rfl

/-- What a trap but PREEMPT of a compute slot in user mode leaves, once the results of its committed instructions are in. -/
structure TrapTaken (s : State) (h : HartId) (c : Cause) (info : W) (tpc : Option Addr) (t : State) : Prop where
  slots : ∃ keep frozen,
    let x := trapSlot keep s.tick c info tpc (slotOf (deliverCommitted s h) h)
    let off := saveOffset (isH h) x.partw x.pbase
    slotOf t h = enterHandler (dieOf s (dieOfAgent (agentOf h))).tentry (w64 off) (enteringSlot false frozen s.clock x) ∧
    t.pools = memWrite (deliverCommitted s h).pools (poolKey (agentOf h) off) (saveBytes x s.clock)
  mem : t.mem = (deliverCommitted s h).mem
  ctxs : t.ctxs = s.ctxs
  module : t.module = s.module

theorem trapTaken_takeTrap {s : State} {h : HartId} (core : kindOf h = .core) (user : (slotOf s h).sup = false) {c : Cause}
    (other : c ≠ .preempt) (info : W) (tpc : Option Addr) : TrapTaken s h c info tpc (takeTrap s h c info tpc) := by
  rw [takeTrap_core core user]
  obtain ⟨⟨keep, own⟩, -, pools, mem, dies, ctxs, module, -, clock⟩ := rolledBack_rollback s h c info
  generalize rollback (noteWalk s h c info) h = r at *
  obtain ⟨u, cores, entered, hu⟩ := enterCore_eq r h other info tpc
  have die : dieOf r = dieOf s := by
    funext d
    simp [dieOf, dies]
  rw [own, die, clock] at hu
  rw [entered]
  refine ⟨⟨keep, r.module.frozen.isSome, ?_, ?_⟩, ?_, ?_, ?_⟩
  · rw [slotOf_cores, hu, slotOf_setSlot_self]
    rfl
  · simp only [hu, setSlot_pools, ← pools]
    rfl
  · simp only [hu, setSlot_mem, poolWrite_mem, mem]
  · simp only [hu, setSlot_ctxs, poolWrite_ctxs, ctxs]
  · simp only [hu, setSlot_module, poolWrite_module, module]

/-- Settles O17: a trap of a compute slot in user mode saves the slot as the rollback leaves it, and starts the handler. -/
theorem takingATrapInUserMode : Obligations.TakingATrapInUserMode := by
  unfold Obligations.TakingATrapInUserMode
  intro s h c info tpc ok core user other d x flags t y off entry
  obtain ⟨⟨keep, frozen, own, pools⟩, mem, ctxs, module⟩ := trapTaken_takeTrap core user other info tpc
  have hflags : flags = fpflagsKept x s.tick := by simp [flags, fpflagsKept]
  have saved := trapSlot_saveBytes keep s.tick s.clock c info tpc x
  have wf := State.memOk_pools ok
  have len := saveBytes_length (trapSlot keep s.tick c info tpc x) s.clock
  have dctxs : d.ctxs = s.ctxs ∧ d.module = s.module := by
    obtain ⟨_, _, _, _, _, _, _, _, _, _, kept⟩ := (delivered_deliverCommitted s h).kept
    simp [d, kept]
  change slotOf t h = _ at own
  change t.pools = _ at pools
  change t.mem = d.mem at mem
  change t.ctxs = _ at ctxs
  change t.module = _ at module
  have hy : y = _ := own
  clear_value y t
  subst hy
  refine ⟨rfl, rfl, rfl, rfl, rfl, rfl, rfl, fun j hj => ?_, rfl, fun j hj hj' => ?_, rfl, rfl, rfl, rfl, rfl, rfl, rfl,
    ?_, fun p hp => ?_, mem, rfl, rfl, hflags.symm, rfl, rfl, rfl, rfl, rfl, rfl, rfl, rfl, rfl, rfl, rfl, rfl, rfl, rfl, rfl, rfl,
    dctxs.1.trans ctxs.symm, dctxs.2.trans module.symm⟩
  · simp [enterHandler, qEntry, hj, ready]
  · have ne : (0 : Nat) ≠ j := by omega
    simp [enterHandler, nEntry, hj', ready, Vector.getElem_set_ne, ne]
  · rw [hflags, ← saved]
    calc poolRead t (agentOf h) off 256
      _ = memRead (memWrite d.pools (poolKey (agentOf h) off) (saveBytes (trapSlot keep s.tick c info tpc x) s.clock))
          (poolKey (agentOf h) off) (saveBytes (trapSlot keep s.tick c info tpc x) s.clock).length := by
        rw [len, poolRead, pools]
        rfl
      _ = _ := memRead_memWrite_same _ _ wf
  · rw [pools]
    exact memGet_memWrite_outside _ _ _ wf (by rw [len]; exact hp)

end Sys2Proof.Machine
end

section
/-!
PROOF. O18: the return from the switch handler resumes the strand with what the entry saved (R36, R433).
-/
namespace Sys2Proof.Machine

/-! ### Blocks of bytes -/

theorem slice_append_left {a b : List Byte} {i n : Nat} (h : i + n ≤ a.length) : slice (a ++ b) i n = slice a i n := by
  unfold slice
  rw [List.drop_append_of_le_length (by omega), List.take_append_of_le_length (by simp; omega)]

theorem slice_append_right (a b : List Byte) (i n : Nat) : slice (a ++ b) (a.length + i) n = slice b i n := by
  simp [slice, List.drop_append, List.drop_eq_nil_of_le]

theorem slice_self {a : List Byte} {n : Nat} (h : a.length = n) : slice a 0 n = a := by
  simp [slice, ← h]

/-- A block among blocks of one length. -/
theorem slice_flatten {k : Nat} {l : List (List Byte)} (h : ∀ b ∈ l, b.length = k) {i : Nat} (hi : i < l.length) :
    slice l.flatten (k * i) k = l[i] := by
  induction l generalizing i with
  | nil => simp at hi
  | cons b l ih =>
    have len : b.length = k := h b (List.mem_cons_self ..)
    cases i with
    | zero =>
      rw [List.flatten_cons, Nat.mul_zero, slice_append_left (by omega), slice_self len]
      rfl
    | succ i =>
      rw [List.flatten_cons, show k * (i + 1) = b.length + k * i by rw [len]; ring, slice_append_right]
      exact ih (fun c hc => h c (List.mem_cons_of_mem _ hc)) (by simpa using hi)

/-! ### The save area read back -/

/-- The doublewords of a save area behind its registers (R36). -/
def saveScalars (x : Slot) (clock : Nat) : List Nat :=
  [x.rstart.toNat, x.rmode.toNat * 2 ^ 47 + x.fpte.toNat * 2 ^ 42 + b1 x.checkstall * 2 ^ 41 + x.fpflags.toNat * 2 ^ 31,
    x.wcur.toNat, leaseWord (leaseSaved x clock), x.phexp.toNat * 2 ^ 32 + (phNow x clock).toNat,
    x.phmargin.toNat * 2 ^ 42 + x.vlanes.toNat * 2 ^ 33 + b1 x.phopen * 2 ^ 32 + x.phslack.toNat, 0, 0]

/-- The first sixteen doublewords of a save area: the registers and the scalars. -/
def saveWords (x : Slot) (clock : Nat) : List Nat := (x.n.toList.map fun e => e.val.toNat) ++ saveScalars x clock

theorem saveBytes_eq (x : Slot) (clock : Nat) : saveBytes x clock =
    ((saveWords x clock).map (natBytes 8)).flatten ++ (x.str.toList.map streamBytes).flatten := by
  have zeros : natBytes 16 0 = natBytes 8 0 ++ natBytes 8 0 := by decide
  simp [saveBytes, saveWords, saveScalars, wordBytes, zeros, Function.comp_def]

theorem saveWords_length (x : Slot) (clock : Nat) : (saveWords x clock).length = 16 := by simp [saveWords, saveScalars]

theorem saveWords_bytes (x : Slot) (clock : Nat) : (((saveWords x clock).map (natBytes 8)).flatten).length = 128 := by
  simp [List.length_flatten, Function.comp_def, List.map_const', saveWords_length]

/-- A doubleword of a save area. -/
theorem dword_saveBytes (x : Slot) (clock : Nat) {i : Nat} (hi : i < 16) :
    dword (saveBytes x clock) (8 * i) = (saveWords x clock)[i]'(by simpa [saveWords_length] using hi) % 2 ^ 64 := by
  have blocks : ∀ b ∈ (saveWords x clock).map (natBytes 8), b.length = 8 := by simp
  rw [dword, saveBytes_eq, slice_append_left (by rw [saveWords_bytes]; omega),
    slice_flatten blocks (by simpa [saveWords_length] using hi), List.getElem_map, leNat_natBytes]
  rfl

/-- A stream generator in a save area. -/
theorem slice_saveBytes (x : Slot) (clock : Nat) {i : Nat} (hi : i < 4) :
    slice (saveBytes x clock) (0x80 + 32 * i) 32 = streamBytes x.str[i] := by
  have blocks : ∀ b ∈ x.str.toList.map streamBytes, b.length = 32 := by simp [streamBytes_length]
  rw [saveBytes_eq, ← saveWords_bytes x clock, slice_append_right, slice_flatten blocks (by simpa using hi)]
  simp

/-- The words of a bound stream generator in its 32 bytes. -/
theorem streamBytes_words {g : Stream} (h : g.bound = true) :
    dword (streamBytes g) 0 = g.base.toNat ∧ dword (streamBytes g) 8 = g.stride.toNat ∧
      leNat (slice (streamBytes g) 16 4) = g.count.toNat ∧ leNat (slice (streamBytes g) 20 4) = g.pos.toNat ∧
      dword (streamBytes g) 24 = g.size.toNat + b1 g.signed * 4 + b1 g.write * 8 + 16 := by
  have hb := g.base.isLt
  have hs := g.stride.isLt
  have hc := g.count.isLt
  have hp := g.pos.isLt
  have hz := g.size.isLt
  have h1 : b1 g.signed ≤ 1 := by unfold b1; split <;> omega
  have h2 : b1 g.write ≤ 1 := by unfold b1; split <;> omega
  simp [dword, streamBytes, h, slice, List.drop_append, List.drop_eq_nil_of_le, List.take_of_length_le,
    leNat_natBytes]
  omega

/-- The flags of a bound stream generator in its last doubleword. -/
theorem streamFlags : ∀ (z : BitVec 2) (signed write : Bool), let m := z.toNat + b1 signed * 4 + b1 write * 8 + 16
    bitOf m 4 = true ∧ bitOf m 3 = write ∧ bitOf m 2 = signed ∧ BitVec.ofNat 2 (m % 4) = z := by
  decide

/-- A stream generator comes back from its bytes, closed if it was not bound. -/
theorem streamOfBytes_streamBytes (g : Stream) : streamOfBytes (streamBytes g) = if g.bound then g else Stream.closed := by
  cases h : g.bound
  · have closed : streamOfBytes (natBytes 32 0) = Stream.closed := by decide
    simp [streamBytes, h, closed]
  · obtain ⟨base, stride, count, pos, m⟩ := streamBytes_words h
    obtain ⟨bound, write, signed, size⟩ := streamFlags g.size g.signed g.write
    simp [streamOfBytes, base, stride, count, pos, m, bound, write, signed, size, ← h, w64]

theorem vector8_of_getElem {α : Type} {f : Nat → α} {v : Vector α 8} (h : ∀ i (hi : i < 8), f i = v[i]) :
    #v[f 0, f 1, f 2, f 3, f 4, f 5, f 6, f 7] = v := by
  ext i hi
  rw [← h i hi]
  interval_cases i <;> rfl

theorem vector4_of_getElem {α : Type} {f : Nat → α} {v : Vector α 4} (h : ∀ i (hi : i < 4), f i = v[i]) :
    #v[f 0, f 1, f 2, f 3] = v := by
  ext i hi
  rw [← h i hi]
  interval_cases i <;> rfl

/-- A named register in a save area. -/
theorem savedNamed (x : Slot) (clock : Nat) {i : Nat} (hi : i < 8) :
    w64 (dword (saveBytes x clock) (8 * i)) = x.n[i].val := by
  rw [dword_saveBytes x clock (by omega)]
  refine BitVec.eq_of_toNat_eq ?_
  simp [saveWords, List.getElem_append_left, hi, w64, Nat.mod_eq_of_lt (BitVec.isLt _)]

/-- A scalar in a save area. -/
theorem savedScalar (x : Slot) (clock : Nat) {i : Nat} (hi : i < 8) :
    dword (saveBytes x clock) (0x40 + 8 * i) = (saveScalars x clock)[i] % 2 ^ 64 := by
  rw [show 0x40 + 8 * i = 8 * (8 + i) by omega, dword_saveBytes x clock (by omega)]
  have behind : (x.n.toList.map fun e => e.val.toNat).length = 8 := by simp
  unfold saveWords
  rw [List.getElem_append_right (by omega)]
  simp only [behind, Nat.add_sub_cancel_left]
  rfl

/-- STATUS in a save area: its fields are those of the slot. -/
theorem savedStatus (r : BitVec 3) (e : BitVec 5) (c : Bool) (f : BitVec 5) :
    let st := (r.toNat * 2 ^ 47 + e.toNat * 2 ^ 42 + b1 c * 2 ^ 41 + f.toNat * 2 ^ 31) % 2 ^ 64
    BitVec.ofNat 3 (field st 49 47) = r ∧ BitVec.ofNat 5 (field st 46 42) = e ∧ bitOf st 41 = c ∧
      BitVec.ofNat 5 (field st 35 31) = f := by
  intro st
  have hr := r.isLt
  have he := e.isLt
  have hf := f.isLt
  have hc : b1 c ≤ 1 := by unfold b1; split <;> omega
  have bit : bitOf st 41 = (b1 c == 1) := by
    unfold bitOf
    congr 1
    omega
  refine ⟨BitVec.eq_of_toNat_eq ?_, BitVec.eq_of_toNat_eq ?_, ?_, BitVec.eq_of_toNat_eq ?_⟩
  · simp only [field, BitVec.toNat_ofNat]; omega
  · simp only [field, BitVec.toNat_ofNat]; omega
  · rw [bit]
    cases c <;> rfl
  · simp only [field, BitVec.toNat_ofNat]; omega

/-- The phase's words in a save area. -/
theorem savedPhase (exp now slack : BitVec 32) (margin : BitVec 8) (lanes : BitVec 9) (o : Bool) :
    let ph := (margin.toNat * 2 ^ 42 + lanes.toNat * 2 ^ 33 + b1 o * 2 ^ 32 + slack.toNat) % 2 ^ 64
    BitVec.ofNat 32 (field ((exp.toNat * 2 ^ 32 + now.toNat) % 2 ^ 64) 63 32) = exp ∧
      BitVec.ofNat 8 (field ph 49 42) = margin ∧ BitVec.ofNat 32 (field ph 31 0) = slack := by
  intro ph
  have he := exp.isLt
  have hn := now.isLt
  have hs := slack.isLt
  have hm := margin.isLt
  have hl := lanes.isLt
  have ho : b1 o ≤ 1 := by unfold b1; split <;> omega
  refine ⟨BitVec.eq_of_toNat_eq ?_, BitVec.eq_of_toNat_eq ?_, BitVec.eq_of_toNat_eq ?_⟩ <;>
    (simp only [field, BitVec.toNat_ofNat]; omega)

/-- A slot with the registers, streams and status that another had when it was saved (R433). -/
def restored (x y : Slot) : Slot :=
  { y with
    n := x.n.map fun e => ready e.val
    q := Vector.replicate 16 (ready 0)
    rstart := x.rstart, pc := x.rstart, npc := x.rstart + 4, nnpc := x.rstart + 8
    nullify := 0, prev1 := .none, prev2 := .none, hint := none, modw := none, paid := none, late := [], rep := none
    rmode := x.rmode, fpte := x.fpte, checkstall := x.checkstall, fpflags := x.fpflags, wcur := x.wcur
    phexp := x.phexp, phmargin := x.phmargin, phslack := x.phslack
    str := x.str.map fun g => if g.bound then g else Stream.closed
    ckpt := x.str.map fun g => if g.bound then g else Stream.closed
    flagsDue := [], fpTraps := [] }

theorem restoreScalars_saveBytes (x y : Slot) (clock : Nat) : restoreScalars (saveBytes x clock) y = restored x y := by
  have named := vector8_of_getElem (f := fun i => ready (w64 (dword (saveBytes x clock) (8 * i))))
    (v := x.n.map fun e => ready e.val) fun i hi => by rw [savedNamed x clock hi, Vector.getElem_map]
  have stream := vector4_of_getElem (f := fun i => streamOfBytes (slice (saveBytes x clock) (0x80 + 32 * i) 32))
    (v := x.str.map fun g => if g.bound then g else Stream.closed) fun i hi => by
      rw [slice_saveBytes x clock hi, streamOfBytes_streamBytes, Vector.getElem_map]
  have pc : dword (saveBytes x clock) 0x40 = _ := savedScalar x clock (i := 0) (by decide)
  have status : dword (saveBytes x clock) 0x48 = _ := savedScalar x clock (i := 1) (by decide)
  have weight : dword (saveBytes x clock) 0x50 = _ := savedScalar x clock (i := 2) (by decide)
  have exp : dword (saveBytes x clock) 0x60 = _ := savedScalar x clock (i := 4) (by decide)
  have phase : dword (saveBytes x clock) 0x68 = _ := savedScalar x clock (i := 5) (by decide)
  obtain ⟨rmode, fpte, checkstall, fpflags⟩ := savedStatus x.rmode x.fpte x.checkstall x.fpflags
  obtain ⟨phexp, phmargin, phslack⟩ := savedPhase x.phexp (phNow x clock) x.phslack x.phmargin x.vlanes x.phopen
  have rstart : BitVec.ofNat 56 (x.rstart.toNat % 2 ^ 64) = x.rstart := by
    refine BitVec.eq_of_toNat_eq ?_
    have := x.rstart.isLt
    simp only [BitVec.toNat_ofNat]; omega
  have wcur : BitVec.ofNat 48 (x.wcur.toNat % 2 ^ 64) = x.wcur := by
    refine BitVec.eq_of_toNat_eq ?_
    have := x.wcur.isLt
    simp only [BitVec.toNat_ofNat]; omega
  simp only [restoreScalars, restored, named, stream, pc, status, weight, exp, phase, saveScalars, List.getElem_cons_zero,
    List.getElem_cons_succ]
  simp only [rmode, fpte, checkstall, fpflags, phexp, phmargin, phslack, rstart, wcur]

/-! ### The return -/

theorem slotOf_retryFaults (s : State) (h : HartId) :
    slotOf (retryFaults s h) h = { slotOf s h with lateFaults := [] } := by
  unfold retryFaults
  rw [slotOf_events]
  exact slotOf_setSlot_self ..

/-- The return from an entry but PREEMPT of a slot still of its context restores the slot from what its save area holds
(R433). -/
theorem slotOf_trapReturn {s : State} {h : HartId} (core : kindOf h = .core)
    (keep : bitOf (slotOf s h).tcause.toNat 7 = false) (whole : (slotOf s h).byPreempt = false)
    (same : (slotOf s h).entryCtx = (slotOf s h).ctx) {x : Slot} {clock : Nat}
    (area : poolRead s (agentOf h) (saveOffset (isH h) (slotOf s h).partw (slotOf s h).pbase) 256 = saveBytes x clock) :
    slotOf (trapReturn s h) h = { leftHandler (restored x (slotOf s h)) with lateFaults := [] } := by
  obtain ⟨cores, e⟩ := setExchange_eq s h false
  have read : poolRead (setExchange s h false) (agentOf h) (saveOffset (isH h) (slotOf s h).partw (slotOf s h).pbase) 256 =
      saveBytes x clock := by
    rw [← area, e]
    rfl
  unfold trapReturn
  simp only [core, keep, whole, same, read, restoreScalars_saveBytes, bne_self_eq_false, Bool.or_self, Bool.false_eq_true,
    if_false]
  rw [slotOf_retryFaults, slotOf_setSlot_self]

/-- No cause has the ABORT bit. -/
theorem causeCode_abort (c : Cause) : bitOf (BitVec.ofNat 8 (causeCode c)).toNat 7 = false := by cases c <;> decide

/-- A bit of a register's number. -/
theorem bitOf_toNat {n : Nat} (v : BitVec n) (i : Nat) : bitOf v.toNat i = v.getLsbD i := by
  simp [bitOf, BitVec.getLsbD, Nat.testBit_eq_decide_div_mod_eq, beq_eq_decide]

/-- TRET on a compute slot's or clerk's handler without ABORT: the return, unless the save area to be read is poisoned. -/
theorem tret_run (x : N0) {s : State} (sup : s.cur.sup = true) (stands : InOpen s) (keep : s.cur.tcause.getLsbD 7 = false) :
    let off := saveOffset (isH s.turn) s.cur.partw s.cur.pbase
    (kindOf s.turn ≠ .core ∨ poisonedPool s (agentOf s.turn) off 256 = false →
      exec (.tret x) s = .next (trapReturn (issued x.st s) s.turn)) ∧
    (kindOf s.turn = .core → poisonedPool s (agentOf s.turn) off 256 = true → s.cur.launches = 0 →
      exec (.tret x) s = .next (trapped .memerr (w64 off) s)) := by
  intro off
  have noAbort : bitOf s.cur.tcause.toNat 7 = false := (bitOf_toNat ..).trans keep
  constructor
  · intro readable
    refine runOp_ok (u := ()) ?_
    rw [bind_of_gives (supervisorWord_run _ sup), bind_of_gives (noDelaySlot_run _ stands), bind_of_gives (get_run s)]
    simp only [noAbort, Bool.false_and, Bool.and_false, Bool.false_eq_true, if_false, Bool.false_or, beq_iff_eq]
    split
    · rename_i core
      have clean : (!poisonedPool s (agentOf s.turn) off 256) = true := by
        rcases readable with other | clean
        · exact (other core).elim
        · rw [clean]
          rfl
      rw [bind_of_gives (require_true clean ..)]
      rfl
    · rfl
  · intro core bad settled
    refine runOp_trapped settled ?_
    rw [bind_of_gives (supervisorWord_run _ sup), bind_of_gives (noDelaySlot_run _ stands), bind_of_gives (get_run s)]
    simp only [core, noAbort, Bool.false_and, Bool.and_false, Bool.false_eq_true, if_false, if_true, Bool.false_or,
      beq_self_eq_true]
    exact bind_of_error (require_false (by rw [bad]; rfl) ..)

/-- Settles O18: what the entry saved comes back. -/
theorem trapThenReturn : Obligations.TrapThenReturn := by
  unfold Obligations.TrapThenReturn
  refine ⟨?_, fun x s sup stands keep => tret_run x sup stands keep,
    fun x s settled => ⟨_, rfl, supervisorWord_traps rfl settled⟩⟩
  intro s h c info tpc ok core user out other x₀ x y
  obtain ⟨⟨keep, frozen, own, pools⟩, mem, ctxs, module⟩ := trapTaken_takeTrap core user other info tpc
  have inTrap : x₀.inTrap = false := by
    have := (delivered_deliverCommitted s h).slots h
    rw [show x₀ = _ from this]
    exact out
  have area : poolRead (takeTrap s h c info tpc) (agentOf h) (saveOffset (isH h) x₀.partw x₀.pbase) 256 =
      saveBytes (trapSlot keep s.tick c info tpc x₀) s.clock := by
    rw [poolRead, pools, ← saveBytes_length (trapSlot keep s.tick c info tpc x₀) s.clock]
    exact memRead_memWrite_same _ _ (State.memOk_pools ok)
  have hy : y = { leftHandler (restored (trapSlot keep s.tick c info tpc x₀) (slotOf (takeTrap s h c info tpc) h)) with
      lateFaults := [] } :=
    slotOf_trapReturn core (by rw [own]; exact causeCode_abort c) (by rw [own]; rfl)
      (by rw [own]; exact if_neg (fun e : x₀.inTrap = true => by simp [inTrap] at e)) (by rw [own]; exact area)
  rw [own] at hy
  have vals := rolledBack_sameValues keep s.tick x₀
  clear_value y
  subst hy
  refine ⟨?_, ?_, ?_, ?_, ?_, ?_, ?regs, ?queue, ?_, ?streams, ?_, ?_, ?_, ?_, ?_,
    ?_, ?_, ?_, ?_, ?_, ?_, ?_, ?_, ?_, ?_, ?_, ?_, ?_⟩
  case regs =>
    intro j hj
    have val : (rolledBack keep s.tick x₀).n[j].val = x.n[j].val := vals.val hj
    simp [restored, leftHandler, nEntry, hj, ready, trapSlot, setTrapRegs, val]
  case queue =>
    intro j hj
    simp [restored, leftHandler, qEntry, hj, ready]
  case streams =>
    intro p
    exact Vector.getElem_map _ p.isLt
  all_goals rfl

end Sys2Proof.Machine
end

section
/-!
PROOF. O20: a PREEMPT saves the whole slot, and what raises it (R36, R37, R134, R433).
-/
namespace Sys2Proof.Machine

/-! ### Reports and spilled messages -/

/-- From one state to another only what reports and spilled messages touch has changed: no hart, and no pool. -/
def Filed (s t : State) : Prop := ∃ cores clusters dies mem l2 poison module events, t = { s with
  cores := cores, clusters := clusters, dies := dies, mem := mem, l2 := l2, poison := poison, module := module
  events := events }

theorem Filed.refl (s : State) : Filed s s :=
  ⟨s.cores, s.clusters, s.dies, s.mem, s.l2, s.poison, s.module, s.events, rfl⟩

theorem Filed.trans {s t u : State} (h : Filed s t) (g : Filed t u) : Filed s u := by
  obtain ⟨_, _, _, _, _, _, _, _, rfl⟩ := h
  obtain ⟨a, b, c, d, e, f, i, j, rfl⟩ := g
  exact ⟨a, b, c, d, e, f, i, j, rfl⟩

theorem Filed.foldl {α : Type} {f : State → α → State} (hf : ∀ s a, Filed s (f s a)) (l : List α) (s : State) :
    Filed s (l.foldl f s) := by
  induction l generalizing s with
  | nil => exact .refl s
  | cons a l ih => exact (hf s a).trans (ih _)

theorem Filed.slotOf {s t : State} (h : Filed s t) (g : HartId) : slotOf t g = slotOf s g := by
  obtain ⟨_, _, _, _, _, _, _, _, rfl⟩ := h
  rfl

theorem Filed.pools {s t : State} (h : Filed s t) : t.pools = s.pools := by
  obtain ⟨_, _, _, _, _, _, _, _, rfl⟩ := h
  rfl

theorem AtHome.filed {s t : State} (h : AtHome s t) : Filed s t := by
  obtain ⟨m, k, l, p, e, rfl⟩ := h
  exact ⟨s.cores, k, s.dies, m, l, p, s.module, e, rfl⟩

theorem filed_setCore (s : State) (c : Nat) (k : Core) : Filed s (setCore s c k) :=
  ⟨_, s.clusters, s.dies, s.mem, s.l2, s.poison, s.module, s.events, rfl⟩

theorem filed_setDie (s : State) (d : Nat) (x : Die) : Filed s (setDie s d x) :=
  ⟨s.cores, s.clusters, _, s.mem, s.l2, s.poison, s.module, s.events, rfl⟩

theorem filed_emit (s : State) (e : Event) : Filed s (emit s e) :=
  ⟨s.cores, s.clusters, s.dies, s.mem, s.l2, s.poison, s.module, _, rfl⟩

theorem filed_physWrite (s : State) (pa : Nat) (bs : List Byte) : Filed s (physWrite s pa bs) := by
  obtain ⟨k, p, e⟩ := physWrite_eq s pa bs
  exact ⟨s.cores, k, s.dies, _, s.l2, p, s.module, s.events, e⟩

theorem filed_setHeadTail (s : State) (l : Loc) (a b : Nat) : Filed s (setHeadTail s l a b) := by
  unfold setHeadTail
  dsimp only
  split
  · exact (homeWrite_atHome ..).filed
  · exact ⟨s.cores, s.clusters, s.dies, s.mem, s.l2, s.poison, _, s.events, rfl⟩
  · exact .refl s

/-- A value that an enqueue answers comes with a state in which at most the ring and the header have changed. -/
theorem filed_enqHome {s t : State} {l : Loc} {root b v : Nat} {sup : Bool} (e : enqHome s l root sup b = .value v t) :
    Filed s t := by
  unfold enqHome at e
  dsimp only at e
  split at e
  · cases e
  split at e
  · cases e
  split at e
  · cases e
    exact .refl s
  split at e
  · cases e
    exact .refl s
  split at e
  · obtain ⟨_, _, _, rfl⟩ := entryOf_error ‹_›
    cases e
  · cases e
    exact (homeWrite_atHome ..).filed.trans (filed_setHeadTail ..)

theorem filed_fileReport (s : State) (die : Nat) (record : List Byte) : Filed s (fileReport s die record) := by
  unfold fileReport
  dsimp only
  split
  · exact (filed_setDie ..).trans ((filed_enqHome ‹_›).trans (filed_physWrite ..))
  · exact (filed_setDie ..).trans (filed_setDie ..)

theorem filed_setPlacement (s : State) (c : Nat) (p : Placement) : Filed s (setPlacement s c p) := filed_setCore ..

theorem filed_spillOne (core : Nat) (s : State) (m : Msg) : Filed s (spillOne core s m) := by
  unfold spillOne
  dsimp only
  split
  · exact .refl s
  · split
    · exact (filed_physWrite ..).trans (filed_setPlacement ..)
    · exact (filed_emit ..).trans (filed_fileReport ..)

theorem filed_spillMessages (s : State) (core : Nat) (c : BitVec 16) : Filed s (spillMessages s core c) := by
  have spilled := (filed_setCore s core _).trans (Filed.foldl (filed_spillOne core) ((coreOf s core).ni.filter fun m => m.ctx == c)
    (setCore s core { coreOf s core with ni := (coreOf s core).ni.filter fun m => m.ctx != c }))
  unfold spillMessages
  dsimp only
  split
  · exact spilled.trans (filed_setPlacement ..)
  · exact spilled

/-! ### Claims given up -/

theorem releaseLanes_eq (s : State) (h : HartId) : ∃ clusters events, releaseLanes s h =
    { setSlot s h { slotOf s h with vlanes := 0, v := [], m := Vector.replicate 4 0, vgrant := 0 } with
      clusters := clusters, events := events } := by
  unfold releaseLanes
  dsimp only
  generalize setSlot s h _ = t
  split
  · split
    · exact ⟨_, t.events, rfl⟩
    · exact ⟨_, _, rfl⟩
  · exact ⟨t.clusters, t.events, rfl⟩

theorem releaseLease_eq (s : State) (h : HartId) : ∃ clusters, releaseLease s h =
    { setSlot s h { slotOf s h with lease := ⟨false, 0, 0, 0⟩, lreq := none } with clusters := clusters } := by
  unfold releaseLease
  dsimp only
  generalize setSlot s h _ = t
  split
  · exact ⟨_, rfl⟩
  · exact ⟨t.clusters, rfl⟩

/-- A slot without lanes and lease. -/
def unclaimed (x : Slot) : Slot :=
  { x with
    vlanes := 0, v := [], m := Vector.replicate 4 0, vgrant := 0, lease := ⟨false, 0, 0, 0⟩, lreq := none }

theorem release_slotOf (s : State) (h : HartId) : slotOf (releaseLease (releaseLanes s h) h) h = unclaimed (slotOf s h) := by
  obtain ⟨k, e, lanes⟩ := releaseLanes_eq s h
  obtain ⟨k', lease⟩ := releaseLease_eq (releaseLanes s h) h
  have own : slotOf (releaseLanes s h) h = { slotOf s h with vlanes := 0, v := [], m := Vector.replicate 4 0, vgrant := 0 } := by
    rw [lanes]
    exact slotOf_setSlot_self ..
  rw [lease]
  exact (slotOf_setSlot_self ..).trans (by rw [own]; rfl)

theorem release_other (s : State) {h g : HartId} (other : g ≠ h) :
    slotOf (releaseLease (releaseLanes s h) h) g = slotOf s g := by
  obtain ⟨k, e, lanes⟩ := releaseLanes_eq s h
  obtain ⟨k', lease⟩ := releaseLease_eq (releaseLanes s h) h
  rw [lease]
  refine (slotOf_setSlot_other _ _ _ _ other).trans ?_
  rw [lanes]
  exact slotOf_setSlot_other _ _ _ _ other

theorem release_pools (s : State) (h : HartId) : (releaseLease (releaseLanes s h) h).pools = s.pools := by
  obtain ⟨k, e, lanes⟩ := releaseLanes_eq s h
  obtain ⟨k', lease⟩ := releaseLease_eq (releaseLanes s h) h
  rw [lease]
  refine (setSlot_pools ..).trans ?_
  rw [lanes]
  exact setSlot_pools ..

/-- What a PREEMPT does behind the save takes the slot's claim and lease, and leaves the other harts and the pools. -/
theorem leavePreempted_frame (s : State) (h : HartId) (x : Slot) :
    slotOf (leavePreempted s h x) h = unclaimed (slotOf s h) ∧
      (∀ g, g ≠ h → slotOf (leavePreempted s h x) g = slotOf s g) ∧ (leavePreempted s h x).pools = s.pools := by
  have filed : Filed (releaseLease (releaseLanes s h) h) (leavePreempted s h x) := by
    unfold leavePreempted
    generalize releaseLease (releaseLanes s h) h = t
    dsimp only
    split
    · exact .refl t
    · split
      · exact filed_setPlacement ..
      · exact (filed_setPlacement ..).trans (filed_spillMessages ..)
  exact ⟨(filed.slotOf h).trans (release_slotOf s h), fun g other => (filed.slotOf g).trans (release_other s other),
    filed.pools.trans (release_pools s h)⟩

/-! ### The masks and lanes saved -/

/-- The memory with mask `i` of a slot in its save area, below VLANES (R36). -/
def maskSaved (core base : Nat) (x : Slot) (m : Memory) (i : Nat) : Memory :=
  memWrite m (poolKey core (base + 0x100 + 32 * i)) (natBytes 32 (x.m[i]!.toNat % 2 ^ x.vlanes.toNat +
    leNat (memRead m (poolKey core (base + 0x100 + 32 * i)) 32) / 2 ^ x.vlanes.toNat * 2 ^ x.vlanes.toNat))

/-- The memory with a lane of a vector register of a slot in its save area. -/
def laneSaved (core base : Nat) (x : Slot) (m : Memory) (p : Nat × Nat) : Memory :=
  memWrite m (poolKey core (base + 0x400 + p.1 * vmaxOf x.partw * 128 + 4 * p.2))
    (natBytes 4 (mapGet 0 x.v (laneKey p.1 p.2)).toNat)

/-- The lanes of sixteen vector registers, in the order in which they are saved. -/
def lanesOf (n : Nat) : List (Nat × Nat) := (List.range 16).flatMap fun i => (List.range n).map fun j => (i, j)

/-- The memory with zeros in a save area between its masks and its lanes. -/
def gapSaved (core base : Nat) (m : Memory) : Memory := memWrite m (poolKey core (base + 0x180)) (natBytes 640 0)

/-- The memory with the masks and lanes of a slot in its save area. -/
def vectorsSaved (core base : Nat) (x : Slot) (m : Memory) : Memory :=
  (lanesOf x.vlanes.toNat).foldl (laneSaved core base x) (gapSaved core base ((List.range 4).foldl (maskSaved core base x) m))

/-- From one state to another only the pools and their poison have changed. -/
def PoolsOnly (s t : State) : Prop := ∃ poison, t = { s with pools := t.pools, poolPoison := poison }

theorem PoolsOnly.trans {s t u : State} (h : PoolsOnly s t) (g : PoolsOnly t u) : PoolsOnly s u := by
  obtain ⟨p, e⟩ := h
  obtain ⟨q, e'⟩ := g
  exact ⟨q, by rw [e', e]⟩

theorem poolsOnly_foldl {α : Type} {f : State → α → State} {g : Memory → α → Memory}
    (h : ∀ s a, PoolsOnly s (f s a) ∧ (f s a).pools = g s.pools a) (l : List α) (s : State) :
    PoolsOnly s (l.foldl f s) ∧ (l.foldl f s).pools = l.foldl g s.pools := by
  induction l generalizing s with
  | nil => exact ⟨⟨s.poolPoison, rfl⟩, rfl⟩
  | cons a l ih =>
    obtain ⟨first, pools⟩ := h s a
    obtain ⟨rest, e⟩ := ih (f s a)
    exact ⟨first.trans rest, by rw [List.foldl_cons, e, pools]; rfl⟩

theorem poolsOnly_poolWrite (s : State) (core off : Nat) (bs : List Byte) : PoolsOnly s (poolWrite s core off bs) := ⟨_, rfl⟩

/-- A mask of a slot written to its save area, and a lane of a vector register. -/
def saveMask (core base : Nat) (x : Slot) (s : State) (i : Nat) : State :=
  poolWrite s core (base + 0x100 + 32 * i) (natBytes 32 (x.m[i]!.toNat % 2 ^ x.vlanes.toNat +
    leNat (poolRead s core (base + 0x100 + 32 * i) 32) / 2 ^ x.vlanes.toNat * 2 ^ x.vlanes.toNat))

@[inherit_doc saveMask]
def saveLane (core base : Nat) (x : Slot) (s : State) (p : Nat × Nat) : State :=
  poolWrite s core (base + 0x400 + p.1 * vmaxOf x.partw * 128 + 4 * p.2) (natBytes 4 (mapGet 0 x.v (laneKey p.1 p.2)).toNat)

theorem saveMask_pools (core base : Nat) (x : Slot) (s : State) (i : Nat) :
    (saveMask core base x s i).pools = maskSaved core base x s.pools i := by
  rw [saveMask, poolWrite_pools, maskSaved, poolRead]

theorem saveLane_pools (core base : Nat) (x : Slot) (s : State) (p : Nat × Nat) :
    (saveLane core base x s p).pools = laneSaved core base x s.pools p := by
  rw [saveLane, poolWrite_pools, laneSaved]

theorem saveVectors_steps (s : State) (core base : Nat) (x : Slot) : saveVectors s core base x =
    (lanesOf x.vlanes.toNat).foldl (saveLane core base x)
      (poolWrite ((List.range 4).foldl (saveMask core base x) s) core (base + 0x180) (natBytes 640 0)) := by
  rw [lanesOf, List.foldl_flatMap]
  simp only [List.foldl_map]
  rfl

theorem saveVectors_eq (s : State) (core base : Nat) (x : Slot) :
    PoolsOnly s (saveVectors s core base x) ∧ (saveVectors s core base x).pools = vectorsSaved core base x s.pools := by
  obtain ⟨first, masks⟩ := poolsOnly_foldl (g := maskSaved core base x) (f := saveMask core base x)
    (fun s i => ⟨poolsOnly_poolWrite .., saveMask_pools core base x s i⟩) (List.range 4) s
  rw [saveVectors_steps]
  generalize (List.range 4).foldl (saveMask core base x) s = t at first masks ⊢
  obtain ⟨last, lanes⟩ := poolsOnly_foldl (g := laneSaved core base x) (f := saveLane core base x)
    (fun s p => ⟨poolsOnly_poolWrite .., saveLane_pools core base x s p⟩) (lanesOf x.vlanes.toNat)
    (poolWrite t core (base + 0x180) (natBytes 640 0))
  refine ⟨first.trans ((poolsOnly_poolWrite ..).trans last), lanes.trans ?_⟩
  unfold vectorsSaved
  rw [← masks, poolWrite_pools, gapSaved]

/-! ### Separate writes -/

/-- A change of a memory that writes what satisfies `P` to `n` bytes from `a`, and nothing else. -/
structure WritesAt (f : Memory → Memory) (a n : Nat) (P : List Byte → Prop) : Prop where
  wf : ∀ m, Memory.wf m = true → Memory.wf (f m) = true
  there : ∀ m, Memory.wf m = true → P (memRead (f m) a n)
  elsewhere : ∀ m, Memory.wf m = true → ∀ c, c < a ∨ a + n ≤ c → memGet (f m) c = memGet m c

theorem writesAt_memWrite (a : Nat) (bs : Memory → List Byte) {n : Nat} (len : ∀ m, (bs m).length = n) {P : List Byte → Prop}
    (h : ∀ m, P (bs m)) : WritesAt (fun m => memWrite m a (bs m)) a n P :=
  ⟨fun m ok => memWrite_wf a (bs m) ok, fun m ok => by rw [← len m, memRead_memWrite_same a (bs m) ok]; exact h m,
    fun m ok c out => memGet_memWrite_outside a c (bs m) ok (by rw [len m]; exact out)⟩

/-- A block that two memories agree on. -/
theorem memRead_congr {m m' : Memory} {a n : Nat} (h : ∀ c, a ≤ c → c < a + n → memGet m c = memGet m' c) :
    memRead m a n = memRead m' a n := by
  refine List.ext_getElem (by simp) fun i hi _ => ?_
  rw [memRead_length] at hi
  simpa [memRead] using h (a + i) (by omega) (by omega)

/-- Whether two blocks have no byte in common. -/
def Apart (a n b k : Nat) : Prop := a + n ≤ b ∨ b + k ≤ a

theorem WritesAt.apart {f : Memory → Memory} {a n : Nat} {P : List Byte → Prop} (h : WritesAt f a n P) {m : Memory}
    (ok : Memory.wf m = true) {b k : Nat} (apart : Apart a n b k) : memRead (f m) b k = memRead m b k :=
  memRead_congr fun c lo hi => h.elsewhere m ok c (by unfold Apart at apart; omega)

/-- Writes of blocks one after another. -/
structure Writes {α : Type} (f : Memory → α → Memory) (l : List α) (a : α → Nat) (n : Nat) (P : α → List Byte → Prop) :
    Prop where
  each : ∀ i ∈ l, WritesAt (f · i) (a i) n (P i)
  apart : ∀ i ∈ l, ∀ j ∈ l, i = j ∨ Apart (a i) n (a j) n

theorem Writes.tail {α : Type} {f : Memory → α → Memory} {i : α} {l : List α} {a : α → Nat} {n : Nat}
    {P : α → List Byte → Prop} (h : Writes f (i :: l) a n P) : Writes f l a n P :=
  ⟨fun j hj => h.each j (List.mem_cons_of_mem _ hj),
    fun j hj k hk => h.apart j (List.mem_cons_of_mem _ hj) k (List.mem_cons_of_mem _ hk)⟩

theorem Writes.wf {α : Type} {f : Memory → α → Memory} {l : List α} {a : α → Nat} {n : Nat} {P : α → List Byte → Prop}
    (h : Writes f l a n P) {m : Memory} (ok : Memory.wf m = true) : Memory.wf (l.foldl f m) = true := by
  induction l generalizing m with
  | nil => exact ok
  | cons i l ih => exact ih h.tail ((h.each i (List.mem_cons_self ..)).wf m ok)

theorem Writes.outside {α : Type} {f : Memory → α → Memory} {l : List α} {a : α → Nat} {n : Nat} {P : α → List Byte → Prop}
    (h : Writes f l a n P) {m : Memory} (ok : Memory.wf m = true) {b k : Nat} (apart : ∀ i ∈ l, Apart (a i) n b k) :
    memRead (l.foldl f m) b k = memRead m b k := by
  induction l generalizing m with
  | nil => rfl
  | cons i l ih =>
    have head := h.each i (List.mem_cons_self ..)
    exact (ih h.tail (head.wf m ok) fun j hj => apart j (List.mem_cons_of_mem _ hj)).trans
      (head.apart ok (apart i (List.mem_cons_self ..)))

theorem Writes.there {α : Type} {f : Memory → α → Memory} {l : List α} {a : α → Nat} {n : Nat} {P : α → List Byte → Prop}
    (h : Writes f l a n P) {m : Memory} (ok : Memory.wf m = true) {i : α} (hi : i ∈ l) :
    P i (memRead (l.foldl f m) (a i) n) := by
  induction l generalizing m with
  | nil => cases hi
  | cons j l ih =>
    have head := h.each j (List.mem_cons_self ..)
    by_cases again : i ∈ l
    · exact ih h.tail (head.wf m ok) again
    · obtain rfl : i = j := by simpa [again] using hi
      have rest : ∀ k ∈ l, Apart (a k) n (a i) n := fun k hk =>
        (h.apart k (List.mem_cons_of_mem _ hk) i (List.mem_cons_self ..)).resolve_left fun e => again (e ▸ hk)
      rw [List.foldl_cons, h.tail.outside (head.wf m ok) rest]
      exact head.there m ok

theorem natBytes_zero (n : Nat) : natBytes n 0 = List.replicate n 0 := by
  induction n with
  | zero => rfl
  | succ n ih => simp [natBytes, ih, List.replicate_succ]

/-! ### The whole save area (R36, R37) -/

theorem poolKey_add {base d : Nat} (core : Nat) (h : base + d < 2 ^ 18) : poolKey core (base + d) = poolKey core base + d := by
  unfold poolKey
  omega

/-- The offset of a lane behind the masks lies in its register's part of the area. -/
theorem laneOffset_bounds {n v : Nat} (fits : n ≤ 32 * v) {p : Nat × Nat} (h : p ∈ lanesOf n) :
    p.1 * v * 128 + 4 * p.2 + 4 ≤ (p.1 + 1) * (v * 128) ∧ p.1 < 16 ∧ p.2 < n := by
  obtain ⟨i, j⟩ := p
  simp only [lanesOf, List.mem_flatMap, List.mem_range, List.mem_map, Prod.mk.injEq] at h
  obtain ⟨_, hi, _, hj, rfl, rfl⟩ := h
  refine ⟨?_, hi, hj⟩
  rw [Nat.add_mul, Nat.mul_assoc]
  omega

theorem laneOffset_le {n v : Nat} (fits : n ≤ 32 * v) {p : Nat × Nat} (h : p ∈ lanesOf n) :
    p.1 * v * 128 + 4 * p.2 + 4 ≤ 2048 * v := by
  obtain ⟨bound, hi, -⟩ := laneOffset_bounds fits h
  have := Nat.mul_le_mul_right (v * 128) (show p.1 + 1 ≤ 16 from hi)
  omega

theorem laneOffset_apart {n v : Nat} (fits : n ≤ 32 * v) {p q : Nat × Nat} (hp : p ∈ lanesOf n) (hq : q ∈ lanesOf n) :
    p = q ∨ Apart (p.1 * v * 128 + 4 * p.2) 4 (q.1 * v * 128 + 4 * q.2) 4 := by
  obtain ⟨bp, -, -⟩ := laneOffset_bounds fits hp
  obtain ⟨bq, -, -⟩ := laneOffset_bounds fits hq
  rcases Nat.lt_trichotomy p.1 q.1 with l | e | g
  · have := Nat.mul_le_mul_right (v * 128) (Nat.succ_le_of_lt l)
    rw [← Nat.mul_assoc q.1] at this
    exact .inr (.inl (by simp only [Nat.succ_eq_add_one] at this; omega))
  · rcases Nat.lt_trichotomy p.2 q.2 with l | e' | g
    · exact .inr (.inl (by rw [e]; omega))
    · exact .inl (Prod.ext e e')
    · exact .inr (.inr (by rw [e]; omega))
  · have := Nat.mul_le_mul_right (v * 128) (Nat.succ_le_of_lt g)
    rw [← Nat.mul_assoc p.1] at this
    exact .inr (.inr (by simp only [Nat.succ_eq_add_one] at this; omega))

/-- The low bits of a mask kept as they were beside new ones. -/
theorem getLsbD_maskBytes {new old l j : Nat} (hj : j < l) (hl : l ≤ 256) :
    (BitVec.ofNat 256 (leNat (natBytes 32 (new % 2 ^ l + old / 2 ^ l * 2 ^ l)))).getLsbD j = new.testBit j := by
  have wide : leNat (natBytes 32 (new % 2 ^ l + old / 2 ^ l * 2 ^ l)) = (new % 2 ^ l + old / 2 ^ l * 2 ^ l) % 2 ^ 256 := by
    rw [leNat_natBytes]
    rfl
  have low : (new % 2 ^ l + old / 2 ^ l * 2 ^ l) % 2 ^ l = new % 2 ^ l := by simp
  have bit : (new % 2 ^ l + old / 2 ^ l * 2 ^ l).testBit j = (new % 2 ^ l).testBit j := by
    rw [← low, Nat.testBit_mod_two_pow, low]
    simp [hj]
  rw [wide, BitVec.getLsbD_ofNat, Nat.testBit_mod_two_pow, bit, Nat.testBit_mod_two_pow]
  simp [hj, show j < 256 by omega]

section
variable {core base : Nat} {x : Slot} (inside : base + 1024 + 2048 * vmaxOf x.partw ≤ 2 ^ 18) (small : x.vlanes.toNat ≤ 256)
  (fits : x.vlanes.toNat ≤ 32 * vmaxOf x.partw)
include inside

include small in
theorem writes_masks : Writes (maskSaved core base x) (List.range 4) (fun i => poolKey core base + (0x100 + 32 * i)) 32
    fun i bs => ∀ j, j < x.vlanes.toNat → (BitVec.ofNat 256 (leNat bs)).getLsbD j = x.m[i]!.getLsbD j := by
  refine ⟨fun i hi => ?_, fun i _ j _ => ?_⟩
  · rw [List.mem_range] at hi
    rw [← poolKey_add core (show base + (0x100 + 32 * i) < 2 ^ 18 by omega), ← Nat.add_assoc]
    exact writesAt_memWrite _ _ (fun m => natBytes_length ..) fun m j hj => getLsbD_maskBytes hj small
  · unfold Apart
    omega

include fits in
theorem writes_lanes : Writes (laneSaved core base x) (lanesOf x.vlanes.toNat)
    (fun p => poolKey core base + (0x400 + (p.1 * vmaxOf x.partw * 128 + 4 * p.2))) 4
    fun p bs => bs = natBytes 4 (mapGet 0 x.v (laneKey p.1 p.2)).toNat := by
  refine ⟨fun p hp => ?_, fun p hp q hq => ?_⟩
  · have bound := laneOffset_le fits hp
    rw [← poolKey_add core (show base + (0x400 + (p.1 * vmaxOf x.partw * 128 + 4 * p.2)) < 2 ^ 18 by omega), ← Nat.add_assoc,
      ← Nat.add_assoc]
    exact writesAt_memWrite _ (fun _ => _) (fun m => natBytes_length ..) fun m => rfl
  · refine (laneOffset_apart fits hp hq).imp_right fun apart => ?_
    unfold Apart at apart ⊢
    omega

theorem writes_gap : WritesAt (gapSaved core base) (poolKey core base + 0x180) 640 fun bs => bs = List.replicate 640 0 := by
  rw [← poolKey_add core (by omega)]
  exact writesAt_memWrite _ (fun _ => natBytes 640 0) (fun _ => natBytes_length ..) fun _ => natBytes_zero 640

include small fits in
/-- What the save area holds once the masks and lanes are saved behind its scalars. -/
theorem vectorsSaved_reads {m : Memory} (ok : Memory.wf m = true) :
    let k := poolKey core base
    let M := vectorsSaved core base x m
    memRead M k 256 = memRead m k 256 ∧ memRead M (k + 0x180) 640 = List.replicate 640 0 ∧
      (∀ i, i < 4 → ∀ j, j < x.vlanes.toNat →
        (BitVec.ofNat 256 (leNat (memRead M (k + (0x100 + 32 * i)) 32))).getLsbD j = x.m[i]!.getLsbD j) ∧
      ∀ i j, i < 16 → j < x.vlanes.toNat → memRead M (k + (0x400 + (i * vmaxOf x.partw * 128 + 4 * j))) 4 =
        natBytes 4 (mapGet 0 x.v (laneKey i j)).toNat := by
  intro k M
  have masks := writes_masks (core := core) inside small
  have gap := writes_gap (core := core) inside
  have lanes := writes_lanes (core := core) inside fits
  have ok1 := masks.wf ok
  have ok2 := gap.wf _ ok1
  have behind {b n : Nat} (low : b + n ≤ k + 0x400) : memRead M b n =
      memRead (gapSaved core base ((List.range 4).foldl (maskSaved core base x) m)) b n :=
    lanes.outside ok2 fun p _ => .inr (by omega)
  refine ⟨?_, ?_, ?_, ?_⟩
  · rw [behind (by omega), gap.apart ok1 (.inr (by omega)), masks.outside ok fun i _ => .inr (by omega)]
  · rw [behind (by omega)]
    exact gap.there _ ok1
  · intro i hi j hj
    rw [behind (by omega), gap.apart ok1 (.inr (by omega))]
    have there := masks.there ok (List.mem_range.mpr hi)
    beta_reduce at there
    exact there j hj
  · intro i j hi hj
    have hp : (i, j) ∈ lanesOf x.vlanes.toNat := by simp [lanesOf, hi, hj]
    have there := lanes.there ok2 hp
    dsimp only at there
    exact there

end

/-! ### The entry at a PREEMPT -/

theorem PoolsOnly.slotOf {s t : State} (h : PoolsOnly s t) (g : HartId) : slotOf t g = slotOf s g := by
  obtain ⟨p, e⟩ := h
  rw [e]
  rfl

/-- The entry of a compute slot at a PREEMPT: the whole save area written, the slot in the switch handler without claim and
lease, the other harts left. -/
theorem enterCore_preempt (s : State) (h : HartId) (info : W) :
    let x := setTrapRegs .preempt info (slotOf s h).rstart (slotOf s h)
    let off := saveOffset (isH h) x.partw x.pbase
    let t := enterCore s h .preempt info none
    slotOf t h = unclaimed (enterHandler (dieOf s (dieOfAgent (agentOf h))).tentry (w64 off)
        (enteringSlot true s.module.frozen.isSome s.clock x)) ∧
      (∀ g, g ≠ h → slotOf t g = slotOf s g) ∧
      t.pools = vectorsSaved (agentOf h) off x (memWrite s.pools (poolKey (agentOf h) off) (saveBytes x s.clock)) := by
  intro x off t
  obtain ⟨only, pools⟩ := saveVectors_eq (poolWrite s (agentOf h) off (saveBytes x s.clock)) (agentOf h) off x
  replace only := (poolsOnly_poolWrite s (agentOf h) off (saveBytes x s.clock)).trans only
  have ht : t = leavePreempted (setSlot (saveVectors (poolWrite s (agentOf h) off (saveBytes x s.clock)) (agentOf h) off x) h
      (enterHandler (dieOf (saveVectors (poolWrite s (agentOf h) off (saveBytes x s.clock)) (agentOf h) off x)
        (dieOfAgent (agentOf h))).tentry (w64 off) (enteringSlot true
        (saveVectors (poolWrite s (agentOf h) off (saveBytes x s.clock)) (agentOf h) off x).module.frozen.isSome
        (saveVectors (poolWrite s (agentOf h) off (saveBytes x s.clock)) (agentOf h) off x).clock x))) h x := rfl
  rw [poolWrite_pools] at pools
  generalize saveVectors (poolWrite s (agentOf h) off (saveBytes x s.clock)) (agentOf h) off x = u at *
  have same : dieOf u = dieOf s ∧ u.module = s.module ∧ u.clock = s.clock := by
    obtain ⟨p, e⟩ := only
    rw [e]
    exact ⟨rfl, rfl, rfl⟩
  obtain ⟨die, module, clock⟩ := same
  rw [die, module, clock] at ht
  obtain ⟨own, others, left⟩ := leavePreempted_frame (setSlot u h (enterHandler (dieOf s (dieOfAgent (agentOf h))).tentry
    (w64 off) (enteringSlot true s.module.frozen.isSome s.clock x))) h x
  rw [ht]
  refine ⟨own.trans ?_, fun g other => (others g other).trans ?_, left.trans ?_⟩
  · rw [slotOf_setSlot_self]
  · rw [slotOf_setSlot_other _ _ _ _ other, only.slotOf]
  · rw [setSlot_pools, pools]

/-! ### What raises a PREEMPT -/

theorem preemptible_user {s : State} {h : HartId} (p : preemptible s h = true) : (slotOf s h).sup = false := by
  simp only [preemptible, Bool.and_eq_true, Bool.not_eq_true'] at p
  obtain ⟨⟨⟨⟨⟨-, user⟩, -⟩, -⟩, -⟩, -⟩ := p
  exact user

theorem not_preemptible_of_leavingWaits {s : State} {h : HartId} (w : leavingWaits s h = true) : preemptible s h = false := by
  simp [preemptible, w]

/-- A PREEMPT of one compute slot leaves the requests that others keep. -/
theorem takeTrap_preempt_request {s : State} {h g : HartId} (core : kindOf h = .core) (user : (slotOf s h).sup = false)
    (info : W) (other : g ≠ h) : (slotOf (takeTrap s h .preempt info none) g).request = (slotOf s g).request := by
  rw [takeTrap_core core user, (enterCore_preempt _ h info).2.1 g other, (rolledBack_rollback s h .preempt info).other g other,
    (delivered_deliverCommitted s h).slots g]

theorem kindOf_hartOf {core : Nat} (h : core < 2048) (cls : Bool) : kindOf (hartOf core cls) = .core := by
  have : agentOf (hartOf core cls) = core := by
    simp only [agentOf, hartOf, BitVec.toNat_ofNat]
    split <;> omega
  simp [kindOf, this, kindOfAgent, h]

theorem hartOf_ne {core : Nat} (cls : Bool) : hartOf core (!cls) ≠ hartOf core cls := by
  intro e
  have := congrArg BitVec.toNat e
  cases cls <;> simp [hartOf] at this <;> omega

/-- A request as one slot of its core takes it (R433). -/
def takeRequest (payload : W) (s : State) (h : HartId) : State :=
  let x := slotOf s h
  if x.request ≠ some payload then s
  else if runsStrand x (payload.setWidth 16) then
    if preemptible s h then takeTrap (setSlot s h { x with request := none }) h .preempt 0 none else s
  else setSlot s h { x with request := none }

theorem takeRequest_skip {payload : W} {s : State} {h : HartId} (no : (slotOf s h).request ≠ some payload) :
    takeRequest payload s h = s := if_pos no

/-- A slot that takes a request leaves the one that another slot keeps. -/
theorem takeRequest_request {payload : W} {s : State} {h g : HartId} (core : kindOf h = .core) (other : g ≠ h) :
    (slotOf (takeRequest payload s h) g).request = (slotOf s g).request := by
  have cleared : ∀ x, slotOf (setSlot s h x) g = slotOf s g := fun x => slotOf_setSlot_other _ _ _ _ other
  unfold takeRequest
  dsimp only
  split
  · rfl
  · split
    · split
      · rename_i free
        rw [takeTrap_preempt_request core (by rw [slotOf_setSlot_self]; exact preemptible_user free) 0 other, cleared]
      · rfl
    · rw [cleared]

/-- A request that one slot of the core keeps is taken by that slot alone. -/
theorem execPreemptRequest_eq {core : Nat} (h : core < 2048) {cls : Bool} {payload : W} {s : State}
    (other : (slotOf s (hartOf core !cls)).request ≠ some payload) :
    exec (.preemptRequest core payload) s = .next (takeRequest payload s (hartOf core cls)) := by
  have arm : exec (.preemptRequest core payload) s = execPreemptRequest core payload s := rfl
  have both : execPreemptRequest core payload s =
      .next ([hartOf core true, hartOf core false].foldl (takeRequest payload) s) := rfl
  rw [arm, both, List.foldl_cons, List.foldl_cons, List.foldl_nil]
  cases cls with
  | true =>
    rw [takeRequest_skip (h := hartOf core false)]
    rw [takeRequest_request (g := hartOf core false) (kindOf_hartOf h true) (hartOf_ne true)]
    exact other
  | false => rw [takeRequest_skip (h := hartOf core true) other]

/-- Settles O20: the whole area is saved, and a request or an expiry raises the PREEMPT in a slot that may take it. -/
theorem preemptionSavesTheWholeSlot : Obligations.PreemptionSavesTheWholeSlot := by
  unfold Obligations.PreemptionSavesTheWholeSlot
  refine ⟨?_, fun h s => ⟨fun p => if_pos p, fun p => if_neg (by rw [p]; decide)⟩, ?_, fun h s waits => ?_, fun h s => rfl⟩
  · intro s h info ok core user x t y off fits small inside
    obtain ⟨⟨keep, own⟩, -, pools, -, dies, -, module, -, clock⟩ := rolledBack_rollback s h .preempt info
    have ht : t = enterCore (rollback (noteWalk s h .preempt info) h) h .preempt info none := takeTrap_core core user ..
    obtain ⟨slot, -, saved⟩ := enterCore_preempt (rollback (noteWalk s h .preempt info) h) h info
    have die : dieOf (rollback (noteWalk s h .preempt info) h) = dieOf s := by
      funext d
      simp [dieOf, dies]
    rw [← ht, own, clock, die] at slot
    rw [← ht, own, clock, pools] at saved
    change t.pools = vectorsSaved (agentOf h) off (trapSlot keep s.tick .preempt info none x) (memWrite
      (deliverCommitted s h).pools (poolKey (agentOf h) off) (saveBytes (trapSlot keep s.tick .preempt info none x) s.clock))
      at saved
    have wf := memWrite_wf (poolKey (agentOf h) off) (saveBytes (trapSlot keep s.tick .preempt info none x) s.clock)
      (State.memOk_pools ok)
    obtain ⟨scalars, gap, masks, lanes⟩ := vectorsSaved_reads (core := agentOf h) (base := off)
      (x := trapSlot keep s.tick .preempt info none x) inside small fits wf
    change y = _ at slot
    clear_value y
    subst slot
    refine ⟨rfl, rfl, rfl, rfl, rfl, rfl, rfl, rfl, rfl, rfl, rfl, ?_, ?_, ?_, ?_⟩
    · rw [← trapSlot_saveBytes keep s.tick s.clock .preempt info none x, poolRead, saved, scalars]
      conv_lhs => rw [← saveBytes_length (trapSlot keep s.tick .preempt info none x) s.clock]
      exact memRead_memWrite_same _ _ (State.memOk_pools ok)
    · rw [poolRead, poolKey_add _ (by omega), saved]
      exact gap
    · intro i j hj
      rw [poolRead, Nat.add_assoc, poolKey_add _ (by omega), saved]
      exact (masks i i.isLt j hj).trans (congrArg (BitVec.getLsbD · j) (getElem!_pos x.m i.val i.isLt))
    · intro i j hi hj
      have bound : i * vmaxOf x.partw * 128 + 4 * j + 4 ≤ 2048 * vmaxOf x.partw :=
        laneOffset_le fits (p := (i, j)) (by simp [lanesOf, hi, hj])
      rw [poolRead, Nat.add_assoc, Nat.add_assoc, poolKey_add _ (by omega), saved]
      exact lanes i j hi hj
  · intro core cls payload s small other asked h x
    rw [execPreemptRequest_eq small other]
    have here : takeRequest payload s h = _ := if_neg (not_not_intro asked)
    refine ⟨fun runs free => ?_, fun runs held => ?_, fun gone => ?_⟩
    · rw [here, if_pos runs, if_pos free]
    · rw [here, if_pos runs, if_neg (by rw [held]; decide)]
    · rw [here, if_neg (by rw [gone]; decide)]
  · refine not_preemptible_of_leavingWaits ?_
    simp only [leavingWaits, Bool.or_eq_true]
    rcases waits with m | u | c
    · exact .inl (.inl m)
    · exact .inr u
    · exact .inl (.inr c)

end Sys2Proof.Machine
end

section
/-!
PROOF. O47: the lane pool, its claims and grants (R20, R264 to R266).
-/
namespace Sys2Proof.Machine

/-! ### VCLAIM -/

/-- The units that a VCLAIM of no waiter gets: those asked for, within what is free and, beside other waiters, its share. -/
def claimGrant (a : W) (s : State) : Nat :=
  let c := clusterOf (agentOf s.turn)
  let k := clusterAt s c
  let r := claimRequest (vmaxOf s.cur.partw) a
  Nat.min r (Nat.min (if k.vwait.any fun w => w.h != s.turn then laneShare (claimants s c s.turn) else r)
    (k.freeUnits + s.cur.vlanes.toNat / 32))

/-- A claim of `g` units taken from a cluster. -/
def takeClaim (c : Nat) (k : Cluster) (free g : Nat) (s : State) : State :=
  let s := setCluster s c { k with freeUnits := free - g }
  let s := if k.vwait.isEmpty then s else emit s (.vclaimGrant c)
  { s with cur := withClaim g s.cur }

/-- A place in a cluster's list of waiters taken. -/
def awaitLanes (c : Nat) (h : HartId) (units : Nat) (s : State) : State :=
  setCluster s c { clusterAt s c with vwait := (clusterAt s c).vwait ++ [⟨h, units, false⟩] }

/-- VCLAIM behind its checks. -/
def vclaimRest (x : RR) (a : W) (s : State) : Op Unit :=
  let c := clusterOf (agentOf s.turn)
  let k := clusterAt s c
  if s.cur.vgrant ≠ 0 then do
    modCur fun y => { y with vgrant := 0 }
    produceNow x.d (s.cur.vlanes.zeroExtend 64)
    finishCommit x.st
  else if k.vwait.any fun w => w.h == s.turn then waitHere
  else if claimGrant a s = 0 then waitWith (awaitLanes c s.turn (claimRequest (vmaxOf s.cur.partw) a))
  else do
    modify (takeClaim c k (k.freeUnits + s.cur.vlanes.toNat / 32) (claimGrant a s))
    produceNow x.d (w64 (32 * claimGrant a s))
    finishCommit x.st

/-- VCLAIM: its place, the lanes asked for, its checks, and the rest (R264). -/
def vclaimOp (x : RR) : Op Unit := do
  commitPlace (.vclaim x)
  let a ← readSel x.a
  let s ← get
  require (vmaxOf s.cur.partw != 0) .vclaim 1
  require (a != 0) .vclaim 2
  vclaimRest x a s

theorem exec_vclaim (x : RR) (s : State) : exec (.vclaim x) s = runOp (vclaimOp x) s := rfl

section
variable (x : RR) {s s1 : State} {a : W} (may : MayCommit s) (reads : Reads s x.a a s1)
include may reads

theorem vclaimOp_noLanes (none : vmaxOf s1.cur.partw = 0) : vclaimOp x s = .error (.trap .vclaim 1) := by
  unfold vclaimOp
  rw [bind_of_gives (commitPlace_run _ may), bind_of_gives reads, bind_of_gives (get_run s1),
    bind_of_error (require_false (by simp [none]) ..)]

theorem vclaimOp_zero (some : vmaxOf s1.cur.partw ≠ 0) (zero : a = 0) : vclaimOp x s = .error (.trap .vclaim 2) := by
  unfold vclaimOp
  rw [bind_of_gives (commitPlace_run _ may), bind_of_gives reads, bind_of_gives (get_run s1),
    bind_of_gives (require_true (by simpa using some) ..), bind_of_error (require_false (by simp [zero]) ..)]

theorem vclaimOp_run (some : vmaxOf s1.cur.partw ≠ 0) (asked : a ≠ 0) : vclaimOp x s = vclaimRest x a s1 s1 := by
  unfold vclaimOp
  rw [bind_of_gives (commitPlace_run _ may), bind_of_gives reads, bind_of_gives (get_run s1),
    bind_of_gives (require_true (by simpa using some) ..), bind_of_gives (require_true (by simpa using asked) ..)]

end

section
variable (x : RR) {s : State} {a : W}

theorem vclaimRest_served (served : s.cur.vgrant ≠ 0) {t : State}
    (now : ProducesNow { s with cur := { s.cur with vgrant := 0 } } x.d (s.cur.vlanes.setWidth 64) t) :
    vclaimRest x a s s = .ok ((), committed x.st t) := by
  unfold vclaimRest
  rw [if_pos served, bind_of_gives (modCur_run ..)]
  exact (bind_of_gives now).trans (finishCommit_run ..)

variable (free : s.cur.vgrant = 0)
include free

theorem vclaimRest_listed (listed : ∃ w ∈ (clusterAt s (clusterOf (agentOf s.turn))).vwait, w.h = s.turn) :
    vclaimRest x a s s = .error (.wait id) := by
  unfold vclaimRest
  rw [if_neg (not_not_intro free), if_pos (by simpa using listed), waitHere_run]

variable (alone : ∀ w ∈ (clusterAt s (clusterOf (agentOf s.turn))).vwait, w.h ≠ s.turn)
include alone

theorem vclaimRest_full (waits : claimGrant a s = 0) : vclaimRest x a s s =
    .error (.wait (awaitLanes (clusterOf (agentOf s.turn)) s.turn (claimRequest (vmaxOf s.cur.partw) a))) := by
  unfold vclaimRest
  rw [if_neg (not_not_intro free), if_neg (by simpa using alone), if_pos waits, waitWith_run]

theorem vclaimRest_granted (gets : claimGrant a s ≠ 0) {t : State}
    (now : ProducesNow (takeClaim (clusterOf (agentOf s.turn)) (clusterAt s (clusterOf (agentOf s.turn)))
      ((clusterAt s (clusterOf (agentOf s.turn))).freeUnits + s.cur.vlanes.toNat / 32) (claimGrant a s) s) x.d
      (w64 (32 * claimGrant a s)) t) : vclaimRest x a s s = .ok ((), committed x.st t) := by
  unfold vclaimRest
  rw [if_neg (not_not_intro free), if_neg (by simpa using alone), if_neg gets, bind_of_gives (modify_run ..)]
  exact (bind_of_gives now).trans (finishCommit_run ..)

end

theorem takeClaim_eq (c : Nat) (k : Cluster) (free g : Nat) (s : State) : takeClaim c k free g s =
    { (if k.vwait.isEmpty then setCluster s c { k with freeUnits := free - g }
        else emit (setCluster s c { k with freeUnits := free - g }) (.vclaimGrant c)) with cur := withClaim g s.cur } := by
  unfold takeClaim
  dsimp only
  split <;> rfl

/-! ### A claim's lanes and mask bits -/

/-- What a map holds at a key once other keys have been dropped. -/
theorem mapFind_filter {α : Type} (m : AMap α) (p : Nat → Bool) (a : Nat) :
    mapFind (m.filter fun e => p e.1) a = if p a then mapFind m a else none := by
  induction m with
  | nil => simp [mapFind]
  | cons e m ih =>
    obtain ⟨k, v⟩ := e
    by_cases keep : p k <;> by_cases here : k = a <;> simp_all [mapFind]

theorem withClaim_lanes (g : Nat) (y : Slot) (i : Nat) {j : Nat} (hj : j < 256) :
    laneBits (withClaim g y) i j = if j < min (32 * g) y.vlanes.toNat then laneBits y i j else 0 := by
  have key : (i * 256 + j) % 256 = j := by omega
  unfold laneBits withClaim mapGet
  dsimp only
  rw [mapFind_filter y.v fun a => decide (a % 256 < Nat.min (32 * g) y.vlanes.toNat), key]
  simp only [decide_eq_true_eq]
  by_cases low : j < min (32 * g) y.vlanes.toNat
  · rw [if_pos low, if_pos low]
  · rw [if_neg low, if_neg low]
    rfl

theorem withClaim_masks (g : Nat) (y : Slot) {i j : Nat} (hi : i < 4) (hj : j < 256) :
    (withClaim g y).m[i]!.getLsbD j = (decide (j < min (32 * g) y.vlanes.toNat) && y.m[i]!.getLsbD j) := by
  have cut : (withClaim g y).m[i] = BitVec.ofNat 256 (y.m[i].toNat % 2 ^ min (32 * g) y.vlanes.toNat) := Vector.getElem_map ..
  rw [getElem!_pos (withClaim g y).m i hi, getElem!_pos y.m i hi, cut, BitVec.getLsbD_ofNat, Nat.testBit_mod_two_pow]
  simp only [hj, decide_true, Bool.true_and, BitVec.getLsbD]

/-! ### Grants -/

/-- A grant serves the first waiter of its class, no L waiter before an H one, within what is free and its share; a resume
takes its whole count (R264). -/
theorem nextClaim_some {s : State} {c : Nat} {w : LaneWaiter} {g : Nat} (h : nextClaim s c = some (w, g)) :
    let k := clusterAt s c
    g ≤ k.freeUnits ∧ (if w.resume then g = w.units else g ≤ w.units ∧ g ≤ max 1 (8 / claimants s c w.h) ∧ g ≠ 0) ∧
      ∃ rest, k.vwait.filter (fun v => isH v.h) ++ k.vwait.filter (fun v => !isH v.h) = w :: rest := by
  intro k
  unfold nextClaim at h
  dsimp only at h
  split at h
  · cases h
  · rename_i v rest order
    split at h
    · rename_i resume
      split at h
      · cases h
        exact ⟨‹_›, by simp [resume], rest, order⟩
      · cases h
    · rename_i claim
      split at h
      · cases h
      · rename_i some
        cases h
        refine ⟨(Nat.min_le_right ..).trans (Nat.min_le_right ..), ?_, rest, order⟩
        rw [if_neg claim]
        exact ⟨Nat.min_le_left .., (Nat.min_le_right ..).trans (Nat.min_le_left ..), some⟩

/-- The first of the list with one kind moved to its front. -/
theorem first_of_partition {α : Type} {p : α → Bool} {l : List α} {w : α} {rest : List α}
    (h : l.filter p ++ l.filter (fun a => !p a) = w :: rest) :
    ∃ before after, l = before ++ w :: after ∧ (∀ b ∈ before, p b ≠ p w) ∧ (p w = false → ∀ b ∈ l, p b = false) := by
  cases e : l.filter p with
  | nil =>
    rw [e, List.nil_append] at h
    obtain ⟨before, after, hl, none, hw, -⟩ := List.filter_eq_cons_iff.mp h
    have all : ∀ b ∈ l, p b = false := by simpa using List.filter_eq_nil_iff.mp e
    refine ⟨before, after, hl, fun b hb => ?_, fun _ => all⟩
    have := none b hb
    have := all b (hl ▸ List.mem_append_left _ hb)
    simp_all
  | cons v vs =>
    rw [e, List.cons_append] at h
    obtain ⟨rfl, -⟩ := List.cons.inj h
    obtain ⟨before, after, hl, none, hw, -⟩ := List.filter_eq_cons_iff.mp e
    refine ⟨before, after, hl, fun b hb => ?_, fun low => ?_⟩
    · rw [hw]
      exact none b hb
    · rw [hw] at low
      cases low

/-! ### VREL -/

theorem clusterAt_of_eq {s t : State} (h : t.clusters = s.clusters) (c : Nat) : clusterAt t c = clusterAt s c := by
  simp [clusterAt, h]

/-- The lanes of a compute hart given back to its cluster. -/
theorem releaseLanes_cluster {s : State} {h : HartId} (core : kindOf h = .core) :
    let c := clusterOf (agentOf h)
    (clusterAt (releaseLanes s h) c).freeUnits = (clusterAt s c).freeUnits + (slotOf s h).vlanes.toNat / 32 ∧
      (clusterAt (releaseLanes s h) c).vwait = (clusterAt s c).vwait.filter fun w => w.h != h := by
  intro c
  unfold releaseLanes
  dsimp only
  split
  · split
    · exact ⟨by rw [clusterAt_setCluster_self], by rw [clusterAt_setCluster_self]⟩
    · rw [clusterAt_of_eq (s := setCluster _ _ _) (t := emit (setCluster _ _ _) _) rfl]
      exact ⟨by rw [clusterAt_setCluster_self], by rw [clusterAt_setCluster_self]⟩
  · rename_i nothing
    rw [clusterAt_of_eq (setSlot_clusters ..)]
    have none : (slotOf s h).vlanes = 0 ∧ ∀ w ∈ (clusterAt s c).vwait, w.h ≠ h := by
      simpa [core] using nothing
    exact ⟨by simp [none.1], (List.filter_eq_self.mpr (by simpa using none.2)).symm⟩

/-! ### Words that need a claim (R270) -/

theorem needClaim_trap {s : State} (none : s.cur.vlanes = 0) : needClaim s = .error (.trap .vclaim 0) := by
  unfold needClaim
  rw [bind_of_gives (curSlot_run s), bind_of_error (require_false (by simp [none]) ..)]

theorem needClaim_bind_trap {s : State} (none : s.cur.vlanes = 0) (settled : s.cur.launches = 0) (rest : Nat → Op Unit) :
    runOp (needClaim >>= rest) s = .next (trapped .vclaim 0 s) :=
  runOp_trapped settled (bind_of_error (needClaim_trap none))

/-- Settles O47: VCLAIM case by case, the claim's lanes and masks, VREL, the grants, and the words that need a claim. -/
theorem lanesAreClaimedAndGranted : Obligations.LanesAreClaimedAndGranted := by
  unfold Obligations.LanesAreClaimedAndGranted
  refine ⟨?claim, fun g y small => ⟨?count, fun i j hj => withClaim_lanes g y i hj, fun i j hi hj => withClaim_masks g y hi hj⟩,
    ?release, ?idle, ?grant, ?words⟩
  case claim =>
    intro x s s1 a may reads h c k vmax r others g
    refine ⟨fun settled => ⟨fun none => ?_, fun some zero => ?_⟩, fun some asked free alone => ⟨fun waits => ?_, fun gets t => ?_⟩,
      fun some asked served t now => ?_, fun some asked free listed => ?_⟩
    · exact runOp_trapped settled (vclaimOp_noLanes x may reads none)
    · exact runOp_trapped settled (vclaimOp_zero x may reads some zero)
    · exact runOp_wait ((vclaimOp_run x may reads some asked).trans (vclaimRest_full x free alone waits))
    · intro u v now
      exact runOp_ok ((vclaimOp_run x may reads some asked).trans (vclaimRest_granted x free alone gets (by
        rw [takeClaim_eq]
        exact now)))
    · exact runOp_ok ((vclaimOp_run x may reads some asked).trans (vclaimRest_served x served now))
    · exact runOp_wait ((vclaimOp_run x may reads some asked).trans (vclaimRest_listed x free listed))
  case count =>
    show (BitVec.ofNat 9 (32 * g)).toNat = 32 * g
    rw [BitVec.toNat_ofNat]
    omega
  case release =>
    intro x s may core
    obtain ⟨units, waiters⟩ := releaseLanes_cluster (s := s) core
    obtain ⟨clusters, events, e⟩ := releaseLanes_eq s s.turn
    have own : slotOf s s.turn = s.cur := by simp [slotOf]
    rw [setSlot_turn_cur, own] at e
    rw [own] at units
    refine ⟨committed x.st (releaseLanes s s.turn), runOp_ok ((bind_of_gives (commitPlace_run _ may)).trans
      ((bind_of_gives (modify_run ..)).trans (finishCommit_run ..))), ?_⟩
    intro c
    have pool : clusterAt (committed x.st (releaseLanes s s.turn)) c = clusterAt (releaseLanes s s.turn) c := rfl
    rw [pool, units, waiters, e]
    exact ⟨rfl, rfl, rfl, rfl, rfl, rfl, rfl, rfl, rfl⟩
  case idle =>
    intro c s none
    show execVclaimGrant c s = .next s
    rw [execVclaimGrant, none, stepTo]
  case grant =>
    intro c s w g next k u v
    obtain ⟨fits, share, rest, order⟩ := nextClaim_some next
    have grants : execVclaimGrant c s = .next (emit v (.vclaimGrant c)) := by
      rw [execVclaimGrant, next]
      rfl
    exact ⟨grants, fits, share, first_of_partition order⟩
  case words =>
    intro s x y f e v z none settled
    simp only [List.forall_mem_cons, List.not_mem_nil, false_imp_iff, implies_true, and_true]
    and_intros <;> exact needClaim_bind_trap none settled _

end Sys2Proof.Machine
end

section
/-!
PROOF. O50: the array's leases (R286 to R288).
-/
namespace Sys2Proof.Machine

/-! ### The lease -/

/-- A slot holds the lease while cycles and commands are left of it (R31, R286). -/
theorem holdsLease_iff (s : State) : holdsLease s = true ↔
    s.cur.lease.held = true ∧ s.clock - s.cur.lease.since < s.cur.lease.cyc.toNat ∧ s.cur.lease.cmds ≠ 0 := by
  have small := s.cur.lease.cyc.isLt
  unfold holdsLease leaseNow
  by_cases held : s.cur.lease.held = true
  · have left (n : Nat) (h : n < 2048) : BitVec.ofNat 11 n ≠ 0 ↔ n ≠ 0 := by
      rw [Ne, ← BitVec.toNat_inj, BitVec.toNat_ofNat]
      simp [Nat.mod_eq_of_lt h]
    simp only [held, if_true, Bool.and_eq_true, bne_iff_ne, true_and]
    rw [left _ (by omega)]
    exact ⟨fun ⟨⟨_, left⟩, cmds⟩ => ⟨by omega, cmds⟩, fun ⟨lt, cmds⟩ => ⟨⟨by omega, by omega⟩, cmds⟩⟩
  · simp [held]

/-- A place in a cluster's list of requesters of the lease taken by the executing hart, unless it has one (R286). -/
def joinLease (s : State) : State :=
  let c := clusterOf (agentOf s.turn)
  let k := clusterAt s c
  if k.leaseWait.contains s.turn then s
  else setCluster s c { k with leaseWait := k.leaseWait ++ [s.turn], grantAt := max k.grantAt (s.tick + 1) }

theorem requestAndWait_run (s : State) : requestAndWait s = .error (.wait joinLease) := rfl

section
variable (x : N0) {s : State} (may : MayCommit s)
include may

theorem mlease_held (held : holdsLease s = true) : exec (.mlease x) s = .next (committed x.st s) :=
  runOp_ok ((bind_of_gives (commitPlace_run _ may)).trans ((bind_of_gives (get_run s)).trans (by
    rw [if_pos held, finishCommit_run])))

theorem mlease_noTiles (free : ¬ holdsLease s = true) (none : accuOf s.cur.partw = 0) (settled : s.cur.launches = 0) :
    exec (.mlease x) s = .next (trapped .lease (operationInfo 1 false 0) s) :=
  runOp_trapped settled ((bind_of_gives (commitPlace_run _ may)).trans ((bind_of_gives (get_run s)).trans (by
    rw [if_neg free]
    exact bind_of_error (require_false (by simp [none]) ..))))

theorem mlease_waits (free : ¬ holdsLease s = true) (some : accuOf s.cur.partw ≠ 0) :
    exec (.mlease x) s = .next (joinLease { s with cur := unissued s.cur }) :=
  runOp_wait ((bind_of_gives (commitPlace_run _ may)).trans ((bind_of_gives (get_run s)).trans (by
    rw [if_neg free, bind_of_gives (require_true (by simpa using some) ..), requestAndWait_run])))

theorem mrel_run : exec (.mrel x) s = .next (committed x.st (releaseLease s s.turn)) :=
  runOp_ok ((bind_of_gives (commitPlace_run _ may)).trans ((bind_of_gives (modify_run ..)).trans (finishCommit_run ..)))

end

/-- A lease given up: the slot's, and the array's when the slot held it (R286). -/
theorem releaseLease_slot (s : State) (h : HartId) :
    slotOf (releaseLease s h) h = { slotOf s h with lease := ⟨false, 0, 0, 0⟩, lreq := none } := by
  obtain ⟨k, e⟩ := releaseLease_eq s h
  rw [e]
  exact slotOf_setSlot_self ..

theorem releaseLease_holder {s : State} {h : HartId} (core : kindOf h = .core) :
    let c := clusterOf (agentOf h)
    (clusterAt (releaseLease s h) c).holder ≠ some h ∧
      ((clusterAt s c).holder = some h →
        (clusterAt (releaseLease s h) c).holder = none ∧ (clusterAt (releaseLease s h) c).grantAt = s.tick + 1) := by
  intro c
  unfold releaseLease
  dsimp only
  split
  · rw [clusterAt_setCluster_self]
    dsimp only
    split
    · exact ⟨nofun, fun _ => ⟨rfl, by rw [setSlot_tick]⟩⟩
    · rename_i other
      exact ⟨other, fun held => (other held).elim⟩
  · rename_i idle
    rw [clusterAt_of_eq (setSlot_clusters ..)]
    have other : (clusterAt s c).holder ≠ some h := fun held => idle ⟨core, .inl held⟩
    exact ⟨other, fun held => (other held).elim⟩

/-! ### The next requester (R287) -/

/-- One step of the search for the least of a list. -/
def lesser (f : HartId → Nat) (best : Option HartId) (h : HartId) : Option HartId :=
  match best with
  | none => some h
  | some b => if f h < f b then some h else some b

/-- The least of a list, the first of equal ones. -/
theorem foldl_lesser {f : HartId → Nat} (l : List HartId) (best : Option HartId) :
    (l.foldl (lesser f) best = none → best = none ∧ l = []) ∧
      ∀ h, l.foldl (lesser f) best = some h → (h ∈ l ∨ best = some h) ∧ (∀ w ∈ l, f h ≤ f w) ∧ ∀ b, best = some b → f h ≤ f b := by
  induction l generalizing best with
  | nil =>
    refine ⟨fun e => ⟨e, rfl⟩, fun h e => ⟨.inr e, (fun _ hw => nomatch hw), fun b hb => ?_⟩⟩
    cases e.symm.trans hb
    exact Nat.le_refl _
  | cons a l ih =>
    obtain ⟨none, some⟩ := ih (lesser f best a)
    have first : ∃ b, lesser f best a = .some b ∧ (b = a ∨ best = .some b) ∧ f b ≤ f a ∧ ∀ c, best = .some c → f b ≤ f c := by
      cases best with
      | none => exact ⟨a, rfl, .inl rfl, Nat.le_refl _, nofun⟩
      | some c =>
        by_cases lt : f a < f c
        · refine ⟨a, if_pos lt, .inl rfl, Nat.le_refl _, ?_⟩
          rintro _ ⟨⟩
          omega
        · refine ⟨c, if_neg lt, .inr rfl, by omega, ?_⟩
          rintro _ ⟨⟩
          omega
    obtain ⟨b, eb, from_, ha, hbest⟩ := first
    refine ⟨fun e => ?_, fun h e => ?_⟩
    · obtain ⟨e', -⟩ := none e
      rw [eb] at e'
      cases e'
    · obtain ⟨mem, least, below⟩ := some h e
      have hb := below b eb
      refine ⟨?_, fun w hw => ?_, fun c hc => hb.trans (hbest c hc)⟩
      · rcases mem with mem | mem
        · exact .inl (List.mem_cons_of_mem _ mem)
        · rw [eb] at mem
          cases mem
          rcases from_ with rfl | from_
          · exact .inl (List.mem_cons_self ..)
          · exact .inr from_
      · rcases List.mem_cons.mp hw with rfl | hw
        · exact hb.trans ha
        · exact least w hw

theorem nextLessee_eq (k : Cluster) : nextLessee k =
    match (k.leaseWait.filter isH).foldl (lesser fun h => afterCore k.lastH (agentOf h % 8)) none with
    | some h => some h
    | none => (k.leaseWait.filter fun h => !isH h).foldl (lesser fun h => afterCore k.lastL (agentOf h % 8)) none := rfl

/-- The next requester: an H one if there is any, and of its class the one whose core comes first (R287). -/
theorem nextLessee_some {k : Cluster} {h : HartId} (e : nextLessee k = some h) :
    h ∈ k.leaseWait ∧ ∀ w ∈ k.leaseWait, (isH h = false → isH w = false) ∧
      (isH w = isH h → afterCore (if isH h then k.lastH else k.lastL) (agentOf h % 8) ≤
        afterCore (if isH h then k.lastH else k.lastL) (agentOf w % 8)) := by
  rw [nextLessee_eq] at e
  have high := foldl_lesser (f := fun h => afterCore k.lastH (agentOf h % 8)) (k.leaseWait.filter isH) none
  have low := foldl_lesser (f := fun h => afterCore k.lastL (agentOf h % 8)) (k.leaseWait.filter fun h => !isH h) none
  split at e
  · rename_i g first
    obtain rfl : g = h := by simpa using e
    obtain ⟨mem, least, -⟩ := high.2 g first
    obtain ⟨waits, isHigh⟩ : g ∈ k.leaseWait ∧ isH g = true := by simpa using mem
    refine ⟨waits, fun w hw => ⟨fun l => (by rw [isHigh] at l; cases l), fun same => ?_⟩⟩
    rw [if_pos isHigh]
    exact least w (by simp [hw, same, isHigh])
  · rename_i none
    have noHigh : ∀ w ∈ k.leaseWait, isH w = false := by simpa using (high.1 none).2
    obtain ⟨mem, least, -⟩ := low.2 h e
    obtain ⟨waits, isLow⟩ : h ∈ k.leaseWait ∧ isH h = false := by simpa using mem
    refine ⟨waits, fun w hw => ⟨fun _ => noHigh w hw, fun _ => ?_⟩⟩
    rw [if_neg (by rw [isLow]; decide)]
    exact least w (by simp [hw, noHigh w hw])

/-- An array with a holder or no requester grants nothing (R287). -/
theorem leaseGrant_idle {c : Nat} {s : State} (idle : (clusterAt s c).holder ≠ none ∨ nextLessee (clusterAt s c) = none) :
    exec (.leaseGrant c) s = .next s := by
  have none : (if (clusterAt s c).holder.isNone then nextLessee (clusterAt s c) else none) = none := by
    rcases idle with held | none
    · rw [if_neg (by simpa using held)]
    · simp [none]
  show execLeaseGrant c s = _
  unfold execLeaseGrant
  simp only [none]
  rfl

/-- A grant gives the requester the lease it asked for, and takes it from the list (R33, R287). -/
theorem leaseGrant_run {c : Nat} {s : State} {h : HartId} (free : (clusterAt s c).holder = none)
    (next : nextLessee (clusterAt s c) = some h) : ∃ t, exec (.leaseGrant c) s = .next t ∧ (clusterAt t c).holder = some h ∧
      (clusterAt t c).leaseWait = (clusterAt s c).leaseWait.filter (fun w => w != h) ∧
      slotOf t h = { slotOf s h with
        lreq := none
        lease := ⟨true, ((slotOf s h).lreq.getD (64, 1024)).1, ((slotOf s h).lreq.getD (64, 1024)).2, s.clock⟩ } := by
  have some : (if (clusterAt s c).holder.isNone then nextLessee (clusterAt s c) else none) = some h := by simp [free, next]
  have run : exec (.leaseGrant c) s = execLeaseGrant c s := rfl
  rw [run]
  unfold execLeaseGrant
  simp only [some]
  refine ⟨_, rfl, ?_, ?_, ?_⟩
  · rw [clusterAt_setCluster_self]
    split <;> rfl
  · rw [clusterAt_setCluster_self]
    split <;> rfl
  · exact slotOf_setSlot_self ..

/-- An unleased array with requesters grants once its cycle has come (R286). -/
theorem arrayDue_lease {s : State} {c : Nat} {k : Cluster} (free : k.holder = none) (asked : k.leaseWait ≠ []) :
    k.grantAt ≤ s.tick ↔ arrayDue s c k = some (.leaseGrant c) := by
  unfold arrayDue
  by_cases due : k.grantAt ≤ s.tick
  · simp [free, asked, due]
  · simp only [due, decide_false, Bool.and_false, false_iff, Bool.false_eq_true, if_false]
    split
    · split <;> nofun
    · split <;> nofun
    · nofun

end Sys2Proof.Machine
end

section
/-!
PROOF. O50: operand slots (R22, R291 to R293).
-/
namespace Sys2Proof.Machine

/-! ### Maps and memories without some keys -/

theorem mapFind_mapDel {α : Type} (m : AMap α) (a b : Nat) :
    mapFind (mapDel m a) b = if b = a then none else mapFind m b := by
  rw [mapDel, mapFind_filter m (· != a)]
  by_cases e : b = a <;> simp [e]

theorem memGet_memClear (m : Memory) (a n p : Nat) :
    memGet (memClear m a n) p = if a ≤ p ∧ p < a + n then 0 else memGet m p := by
  unfold memClear
  induction m with
  | nil => simp [memGet]
  | cons c m ih =>
    obtain ⟨k, b⟩ := c
    by_cases keep : k < a ∨ a + n ≤ k
    · rw [List.filter_cons_of_pos (by simpa using keep), memGet, memGet, ih]
      by_cases here : k = p
      · rw [if_pos here, if_pos here, if_neg (by omega)]
      · rw [if_neg here, if_neg here]
    · rw [List.filter_cons_of_neg (by simpa using keep), ih, memGet]
      by_cases here : k = p
      · rw [if_pos (by omega), if_pos (by omega)]
      · rw [if_neg here]

theorem mapGet_putOrDel {n : Nat} (m : AMap (BitVec n)) (a b : Nat) (v : BitVec n) :
    mapGet 0 (putOrDel m a v) b = if b = a then v else mapGet 0 m b := by
  unfold putOrDel
  by_cases e : b = a
  · subst e
    rw [if_pos rfl]
    split
    · rename_i zero
      rw [mapGet, mapFind_mapDel, if_pos rfl, zero]
      rfl
    · exact mapGet_mapPut_self ..
  · rw [if_neg e]
    split
    · rw [mapGet, mapFind_mapDel, if_neg e]
      rfl
    · exact mapGet_mapPut_other _ _ _ _ _ (Ne.symm e)

/-! ### Operand slots -/

theorem lowestFree_none {α : Type} {m : AMap α} {n : Nat} (full : ∀ i, i < n → mapFind m i ≠ none) :
    lowestFree m n = none := by
  rw [lowestFree, List.find?_eq_none]
  intro i hi
  simpa using full i (List.mem_range.mp hi)

theorem lowestFree_some {α : Type} {m : AMap α} {n i : Nat} (hi : i < n) (free : mapFind m i = none)
    (full : ∀ j, j < i → mapFind m j ≠ none) : lowestFree m n = some i := by
  rw [lowestFree, List.find?_range_eq_some]
  exact ⟨by simp [free], List.mem_range.mpr hi, fun j hj => by simpa [Option.isSome_iff_ne_none] using full j hj⟩

section
variable (x : D1) {s t : State} (may : MayCommit s)
include may

theorem oclaim_full (full : ∀ n, n < 256 → mapFind (clusterAt s (clusterOf (agentOf s.turn))).oslots n ≠ none)
    (now : ProducesNow s x.d (BitVec.allOnes 64) t) : exec (.oclaim x) s = .next (committed x.st t) :=
  runOp_ok ((bind_of_gives (commitPlace_run _ may)).trans ((bind_of_gives (get_run s)).trans (by
    simp only [lowestFree_none full]
    exact (bind_of_gives now).trans (finishCommit_run ..))))

theorem oclaim_run {n : Nat} (hn : n < 256)
    (free : mapFind (clusterAt s (clusterOf (agentOf s.turn))).oslots n = none)
    (full : ∀ m, m < n → mapFind (clusterAt s (clusterOf (agentOf s.turn))).oslots m ≠ none)
    (now : let c := clusterOf (agentOf s.turn)
      ProducesNow (setCluster s c { clusterAt s c with oslots := mapPut (clusterAt s c).oslots n ⟨s.turn, s.cur.ctx⟩ }) x.d
        (BitVec.ofNat 64 n) t) : exec (.oclaim x) s = .next (committed x.st t) :=
  runOp_ok ((bind_of_gives (commitPlace_run _ may)).trans ((bind_of_gives (get_run s)).trans (by
    simp only [lowestFree_some hn free full]
    exact (bind_of_gives (set_run ..)).trans ((bind_of_gives now).trans (finishCommit_run ..)))))

end

theorem ofNat_toNat_setWidth (v : W) (n : Nat) : BitVec.ofNat n v.toNat = v.setWidth n :=
  BitVec.eq_of_toNat_eq (by simp)

/-- The checks on a slot number (R302). -/
theorem claimedSlot_eq (s : State) (v : W) :
    let mine := v.toNat < 256 ∧ ∃ o, mapFind (clusterAt s (clusterOf (agentOf s.turn))).oslots v.toNat = some o ∧
      o.ctx = s.cur.ctx
    (mine → Gives (claimedSlot v) s v.toNat s) ∧
    (¬ mine → claimedSlot v s = .error (.trap .slotClaim
      (operationInfo (if 256 ≤ v.toNat then 1 else 2) false (v.setWidth 55)))) := by
  intro mine
  have info (r : BitVec 8) : opInfo r.toNat v.toNat false = operationInfo r false (v.setWidth 55) := by
    rw [opInfo_eq_operationInfo, ofNat_toNat_setWidth]
  have start : claimedSlot v s = (do
      require (decide (v.toNat < 256)) .slotClaim (opInfo 1 v.toNat false)
      require (match mapFind (clusterAt s (clusterOf (agentOf s.turn))).oslots v.toNat with
        | some o => o.ctx == s.cur.ctx
        | none => false) .slotClaim (opInfo 2 v.toNat false)
      return v.toNat : Op Nat) s := bind_of_gives (get_run s)
  constructor
  · rintro ⟨small, o, found, ctx⟩
    refine start.trans ((bind_of_gives (require_true (by simpa using small) ..)).trans ?_)
    simp only [found]
    exact bind_of_gives (require_true (by simpa using ctx) ..)
  · intro other
    rw [start]
    by_cases small : v.toNat < 256
    · rw [if_neg (by omega), bind_of_gives (require_true (by simpa using small) ..)]
      refine (bind_of_error (require_false ?_ ..)).trans (congrArg (fun i => Except.error (Stop.trap _ i)) (info 2))
      split
      · rename_i o found
        simpa using fun ctx => other ⟨small, o, found, ctx⟩
      · rfl
    · rw [if_pos (by omega)]
      exact (bind_of_error (require_false (by simpa using small) ..)).trans
        (congrArg (fun i => Except.error (Stop.trap _ i)) (info 1))

/-- A meaning that waits at issue leaves the word unissued. -/
theorem runOp_waitHere {op : Op Unit} {s : State} (h : op s = .error (.wait id)) :
    runOp op s = .next { s with cur := unissued s.cur } := runOp_wait h

/-- A slot released: it is free and its bytes are zero, and nothing else of the cluster changes but its poison (R291). -/
def released (k : Cluster) (n : Nat) : Cluster := operandClear { k with oslots := mapDel k.oslots n } n

section
variable (x : A1) {s s1 : State} {a : W} {n : Nat} (may : MayCommit s) (reads : Reads s x.a a s1)
  (mine : Gives (claimedSlot a) s1 n s1)
include may reads mine

theorem orel_waits (used : ∃ m ∈ inFlight (clusterAt s1 (clusterOf (agentOf s1.turn))), m.slotA = n ∨ m.slotB = n) :
    exec (.orel x) s = .next { s with cur := unissued s.cur } :=
  runOp_waitHere ((bind_of_gives (commitPlace_run _ may)).trans ((bind_of_gives reads).trans ((bind_of_gives mine).trans
    ((bind_of_gives (get_run s1)).trans (by
      rw [if_pos (by simpa using used)]
      exact bind_of_error (waitHere_run s1))))))

theorem orel_run (free : ¬ ∃ m ∈ inFlight (clusterAt s1 (clusterOf (agentOf s1.turn))), m.slotA = n ∨ m.slotB = n) :
    exec (.orel x) s = .next (committed x.st (setCluster s1 (clusterOf (agentOf s1.turn))
      (released (clusterAt s1 (clusterOf (agentOf s1.turn))) n))) :=
  runOp_ok ((bind_of_gives (commitPlace_run _ may)).trans ((bind_of_gives reads).trans ((bind_of_gives mine).trans
    ((bind_of_gives (get_run s1)).trans (by
      rw [if_neg (by simpa using free)]
      exact (bind_of_gives (set_run ..)).trans (finishCommit_run ..))))))

end

/-! ### OLD (R293) -/

/-- Units loaded into operand memory, one after another. -/
theorem goodUnits_whole (stamp base : Nat) {us : List (Nat × Nat × Option (List Byte))} (whole : ∀ u ∈ us, u.2.2 ≠ none) :
    goodUnits stamp false base us = us.map fun u => (u.1, u.2.2.getD []) := by
  unfold goodUnits
  rw [← List.filterMap_eq_map]
  refine List.filterMap_congr fun u hu => ?_
  obtain ⟨bs, e⟩ := Option.ne_none_iff_exists'.mp (whole u hu)
  simp [e]

theorem foldl_operandWrite (n : Nat) (us : List (Nat × Nat × Option (List Byte))) (k : Cluster) :
    (us.map fun u => (u.1, u.2.2.getD [])).foldl (fun k u => operandWrite k (n * 2048 + u.1) u.2) k = { k with
      opoison := us.foldl (fun m u => clearWords m (n * 2048 + u.1) (u.2.2.getD []).length) k.opoison
      omem := us.foldl (fun m u => memWrite m (n * 2048 + u.1) (u.2.2.getD [])) k.omem } := by
  induction us generalizing k with
  | nil => rfl
  | cons u us ih =>
    rw [List.map_cons, List.foldl_cons, ih]
    rfl

/-- The units of an OLD in operand memory; with uncorrectable data, a mixture. -/
def oldLoaded (c : Nat) (n : Nat) (us : List (Nat × Nat × Option (List Byte))) (s : State) : State :=
  let write (k : Cluster) (u : Nat × List Byte) : Cluster := operandWrite k (n * 2048 + u.1) u.2
  setCluster s c ((goodUnits (freeStamp s) (us.any fun u => u.2.2.isNone) 0 us).foldl write (clusterAt s c))

section
variable (x : AB) {s s1 s2 s3 s4 s5 t : State} {a b : W} {n : Nat} {p q : Place} {us : List (Nat × Nat × Option (List Byte))}
  (exchange : Gives exchangeWait s () s) (ra : Reads s x.a a s1) (rb : Reads s1 x.b b s2)
  (mine : Gives (claimedSlot a) s2 n s2) (first : Gives (checkAccess 0 1 64 .read true b) s2 p s3)
  (last : Gives (checkAccess 0 1 1 .read true (b + 2047)) s3 q s4)
  (free : ∀ m ∈ (clusterAt s4 (clusterOf (agentOf s4.turn))).cmdQ, m.slotA ≠ n ∧ m.slotB ≠ n)
  (loads : Gives (loadUnits b 2048) s4 us s5)
include exchange ra rb mine first last free loads

/-- OLD up to its late MEMERR. -/
theorem old_run (late : Gives (lateUnits b us) (oldLoaded (clusterOf (agentOf s4.turn)) n us s5) () t) :
    exec (.old x) s = .next (issued x.st t) :=
  runOp_ok ((bind_of_gives exchange).trans ((bind_of_gives ra).trans ((bind_of_gives rb).trans ((bind_of_gives mine).trans
    ((bind_of_gives first).trans ((bind_of_gives last).trans ((bind_of_gives (curAgent_run s4)).trans
      ((bind_of_gives (get_run s4)).trans (by
        rw [if_neg (by simpa using free)]
        exact (bind_of_gives loads).trans ((bind_of_gives (modify_run ..)).trans ((bind_of_gives late).trans
          (finish_run ..))))))))))))

end

theorem lateUnits_none {b : W} {us : List (Nat × Nat × Option (List Byte))} (whole : ∀ u ∈ us, u.2.2 ≠ none) (s : State) :
    lateUnits b us s = .ok ((), s) := by
  have none : us.find? (fun u => u.2.2.isNone) = none := List.find?_eq_none.mpr fun u hu => by simpa using whole u hu
  simp [lateUnits, none]

theorem lateUnits_some {b : W} {us : List (Nat × Nat × Option (List Byte))} {u : Nat × Nat × Option (List Byte)}
    (bad : us.find? (fun u => u.2.2.isNone) = some u) (s : State) :
    lateUnits b us s = .ok ((), emit { s with tags := s.tags + 1 } (.lateFault s.turn .memerr
      (accessInfo 0 true 0 (b.setWidth 56 + BitVec.ofNat 56 u.1)) ⟨s.cur.gpc, s.tags⟩)) := by
  have info : memInfo 0 0 (b.toNat % 2 ^ 56 + u.1) true = accessInfo 0 true 0 (b.setWidth 56 + BitVec.ofNat 56 u.1) := by
    rw [← memInfo_eq_accessInfo]
    simp [memInfo]
  have run : lateUnits b us s = (do
      let t ← freshTag
      let s ← get
      emitOp (.lateFault s.turn .memerr (memInfo 0 0 (b.toNat % 2 ^ 56 + u.1) true) ⟨s.cur.gpc, t⟩) : Op Unit) s := by
    unfold lateUnits
    rw [bad]
  rw [run, ← info]
  rfl

end Sys2Proof.Machine
end

section
/-!
PROOF. Reading a source leaves the executing hart the same.
-/
namespace Sys2Proof.Machine

/-! ### Operations that leave the executing hart the same -/

/-- An operation after which, where it answers a state in which the hart executes, the hart still executes. -/
structure TurnKept {α : Type} (h : HartId) (op : Op α) : Prop where
  turn : ∀ s v t, s.turn = h → op s = .ok (v, t) → t.turn = h

section
variable {α β : Type} {h : HartId}

theorem turnKept_pure (v : α) : TurnKept h (pure v : Op α) := ⟨fun _ _ _ eq e => by cases e; exact eq⟩

theorem turnKept_throw (e : Stop) : TurnKept h (throw e : Op α) := ⟨fun _ _ _ _ => nofun⟩

theorem turnKept_require (b : Bool) (c : Cause) (i : W) : TurnKept h (require b c i) :=
  ⟨fun _ _ _ eq e => by rw [(require_ok e).2, eq]⟩

theorem turnKept_bind {op : Op α} {f : α → Op β} (kept : TurnKept h op) (rest : ∀ v, TurnKept h (f v)) :
    TurnKept h (op >>= f) := ⟨fun _ _ _ eq e => by
  obtain ⟨v, t, first, next⟩ := bind_ok e
  exact (rest v).turn _ _ _ (kept.turn _ _ _ eq first) next⟩

theorem turnKept_get {f : State → Op β} (rest : ∀ s, s.turn = h → TurnKept h (f s)) : TurnKept h ((get : Op State) >>= f) :=
  ⟨fun s _ _ eq e => (rest s eq).turn _ _ _ eq e⟩

theorem turnKept_modify {f : State → State} (same : ∀ s, (f s).turn = s.turn) : TurnKept h (modify f : Op Unit) :=
  ⟨fun s _ _ eq e => by cases e; rw [same, eq]⟩

theorem turnKept_set {t : State} (eq : t.turn = h) : TurnKept h (set t : Op Unit) := ⟨fun _ _ _ _ e => by cases e; exact eq⟩

theorem turnKept_mapM {f : α → Op β} (kept : ∀ a, TurnKept h (f a)) (l : List α) : TurnKept h (l.mapM f) := by
  induction l with
  | nil => simpa using turnKept_pure _
  | cons a l ih =>
    rw [List.mapM_cons]
    exact turnKept_bind (kept a) fun _ => turnKept_bind ih fun _ => turnKept_pure _

/-- What waits where a condition holds answers only what its rest answers. -/
theorem turnKept_unlessWait {c : Prop} [Decidable c] {f : Unit → Op β} (rest : TurnKept h (f ())) :
    TurnKept h (if c then (waitHere >>= f) else f ()) := by
  split
  · exact ⟨fun s _ _ _ e => by rw [bind_of_error (waitHere_run s)] at e; cases e⟩
  · exact rest

/-! ### What a checked load does -/

theorem turn_installLine (s : State) (core : Nat) (l : L1Line) : (installLine s core l).turn = s.turn :=
  (stored_installLine s core l).harts.1

theorem turn_noteTranslation (s : State) (g : HartId) (va : Nat) (r : WalkResult) : (noteTranslation s g va r).turn = s.turn := by
  unfold noteTranslation
  repeat' split
  all_goals rfl

theorem turnKept_loadLine (core ca n : Nat) (shared : Bool) (kind va : Nat) : TurnKept h (loadLine core ca n shared kind va) := by
  refine turnKept_get fun s eq => ?_
  split
  · exact turnKept_bind (turnKept_set (by rw [turn_installLine, eq])) fun _ => turnKept_pure _
  · refine turnKept_bind (turnKept_require ..) fun _ => turnKept_bind (turnKept_set ?_) fun _ => turnKept_pure _
    rw [turn_installLine, readHome, touchHome_turn]
    exact eq

theorem turnKept_remoteLine (core pa n : Nat) : TurnKept h (remoteLine core pa n) := by
  refine turnKept_get fun s eq => ?_
  split
  · exact turnKept_bind (turnKept_set (by rw [turn_installLine, eq])) fun _ => turnKept_pure _
  · refine turnKept_bind (turnKept_set ?_) fun _ => turnKept_pure _
    rw [turn_installLine]
    exact eq

theorem turnKept_settleCells (ca n : Nat) : TurnKept h (settleCells ca n) := by
  refine turnKept_get fun s _ => ?_
  dsimp only
  split
  · exact turnKept_pure _
  · exact turnKept_throw _

theorem turnKept_settleBytes (l : Loc) (n : Nat) : TurnKept h (settleBytes l n) := by
  refine turnKept_get fun s _ => turnKept_unlessWait ?_
  split
  · exact turnKept_settleCells ..
  · exact turnKept_pure _

theorem turnKept_loadAt (p : Place) (n kind va : Nat) : TurnKept h (loadAt p n kind va) := by
  refine turnKept_get fun s _ => turnKept_unlessWait (turnKept_bind (turnKept_settleBytes ..) fun _ => ?_)
  split
  · split
    · exact turnKept_bind (turnKept_mapM (fun _ => turnKept_loadLine ..) _) fun _ => turnKept_pure _
    · exact turnKept_bind (turnKept_require ..) fun _ => turnKept_pure _
  · exact turnKept_bind (turnKept_require ..) fun _ => turnKept_pure _
  · exact turnKept_pure _
  · refine turnKept_bind (turnKept_require ..) fun _ => ?_
    split
    · exact turnKept_bind (turnKept_mapM (fun _ => turnKept_remoteLine ..) _) fun _ => turnKept_pure _
    · exact turnKept_pure _

theorem turnKept_translateOp (kind va : Nat) : TurnKept h (translateOp kind va) := by
  refine turnKept_get fun s eq => ?_
  split
  · exact turnKept_throw _
  · exact turnKept_throw _
  · exact turnKept_bind (turnKept_set (by rw [turn_noteTranslation, eq])) fun _ => turnKept_pure _

/-- The places and the permissions only look. -/
theorem turnKept_localPlace (va n : Nat) (write : Bool) (kind : Nat) : TurnKept h (localPlace va n write kind) := by
  refine turnKept_get fun s _ => ?_
  dsimp only
  repeat' first
    | exact turnKept_pure _
    | exact turnKept_throw _
    | exact turnKept_require ..
    | split
    | refine turnKept_bind ?_ fun _ => ?_

theorem turnKept_permitted (kind va : Nat) (want : Want) (sup : Bool) (a : Attrs) : TurnKept h (permitted kind va want sup a) := by
  unfold permitted
  dsimp only
  repeat' first
    | exact turnKept_pure _
    | exact turnKept_throw _
    | split

theorem turnKept_checkAccess (kind n align : Nat) (want : Want) (window : Bool) (ea : W) :
    TurnKept h (checkAccess kind n align want window ea) := by
  refine turnKept_bind (turnKept_require ..) fun _ => turnKept_bind (turnKept_require ..) fun _ => turnKept_get fun s _ => ?_
  split
  · exact turnKept_bind (turnKept_require ..) fun _ => turnKept_localPlace ..
  · refine turnKept_bind (turnKept_translateOp ..) fun _ => turnKept_bind (turnKept_require ..) fun _ =>
      turnKept_bind (turnKept_permitted ..) fun _ => ?_
    split
    · exact turnKept_throw _
    · exact turnKept_pure _
    · exact turnKept_pure _
    · exact turnKept_pure _

theorem turnKept_portAddress (p : BitVec 2) (write : Bool) : TurnKept h (portAddress p write) :=
  turnKept_bind ⟨fun _ _ _ eq e => by cases e; exact eq⟩ fun _ => turnKept_bind (turnKept_require ..) fun _ =>
    turnKept_bind (turnKept_require ..) fun _ => turnKept_bind (turnKept_require ..) fun _ => turnKept_pure _

theorem turnKept_popPort (p : BitVec 2) : TurnKept h (popPort p) :=
  turnKept_bind (turnKept_portAddress ..) fun _ =>
    turnKept_bind (turnKept_bind (turnKept_checkAccess ..) fun _ => turnKept_loadAt ..) fun _ =>
      turnKept_bind (turnKept_modify fun _ => rfl) fun _ => turnKept_pure _

end

/-- Reading a source leaves the executing hart the same. -/
theorem turn_of_reads {f : Sel} {v : W} {s t : State} (h : Reads s f v t) : t.turn = s.turn := by
  rcases readSel_ok h with ⟨-, -, -, rfl⟩ | ⟨-, -, -, -, rfl⟩ | ⟨-, -, pop⟩ | ⟨-, -, rfl⟩ | ⟨-, -, rfl⟩ | ⟨-, -, rfl⟩
  case inr.inr.inl => exact (turnKept_popPort _).turn _ _ _ rfl pop
  all_goals rfl

end Sys2Proof.Machine
end

section
/-!
PROOF. O50: accumulator tiles and their owner (R21, R30, R296 to R303, R437, R438).
-/
namespace Sys2Proof.Machine

/-! ### The checks of a tile instruction -/

theorem illegalOp_run {α : Type} {i : Instr} {w : Word32} (word : encode i = some w) (s : State) :
    (illegalOp i : Op α) s = .error (.trap .illegal (illegalInfo (some w) s.cur)) := by
  unfold illegalOp
  rw [bind_of_gives (curSlot_run s), word, trapWith_run]

section
variable {i : Instr} {t : Nat} {w : Word32} {s : State} (word : encode i = some w) (user : s.cur.sup = false)
include user

/-- A tile that an instruction of user code names must exist (R21). -/
theorem namedTile_run (there : (t + 1) * (if s.cur.partw.getLsbD 28 then 8192 else 4096) ≤
    s.cur.partw.toNat / 2 ^ 16 % 256 * 4096) : Gives (namedTile i t) s (s.cur.partw.getLsbD 28) s := by
  have format : tileFormat s = (s.cur.partw.getLsbD 28, s.cur.partw.toNat / 2 ^ 16 % 256) := by
    simp only [tileFormat, user, acc64Of, bitOf_toNat]
    rfl
  have inside : tileExists (s.cur.partw.getLsbD 28) (s.cur.partw.toNat / 2 ^ 16 % 256) t = true := decide_eq_true there
  refine (bind_of_gives (get_run s)).trans ?_
  simp only [format, inside, if_true]
  rfl

include word in
theorem namedTile_trap (none : ¬ (t + 1) * (if s.cur.partw.getLsbD 28 then 8192 else 4096) ≤
    s.cur.partw.toNat / 2 ^ 16 % 256 * 4096) :
    namedTile i t s = .error (.trap .illegal (illegalInfo (some w) s.cur)) := by
  have format : tileFormat s = (s.cur.partw.getLsbD 28, s.cur.partw.toNat / 2 ^ 16 % 256) := by
    simp only [tileFormat, user, acc64Of, bitOf_toNat]
    rfl
  have outside : tileExists (s.cur.partw.getLsbD 28) (s.cur.partw.toNat / 2 ^ 16 % 256) t = false := decide_eq_false none
  refine (bind_of_gives (get_run s)).trans ?_
  simp only [format, outside, Bool.false_eq_true, if_false]
  exact illegalOp_run word s

/-- Whether the executing slot's context owns its core's tiles (R30). -/
def ownsTiles (s : State) : Prop :=
  let own := (coreOf s (agentOf s.turn)).accown.toNat
  own / 2 ^ 16 % 2 = 1 ∧ own % 2 ^ 16 = s.cur.ctx.toNat

omit user in
theorem touchTile_run (owned : ownsTiles s) : touchTile i t s = .ok ((), s) :=
  (bind_of_gives (get_run s)).trans (require_true (by simpa [bitOf, ownsTiles] using .inr owned) ..)

include word in
theorem touchTile_trap (other : ¬ ownsTiles s) :
    touchTile i t s = .error (.trap .accFirstUse (BitVec.ofNat 64 (t * 2 ^ 32 + w.toNat))) := by
  have number : wordOf i = w.toNat := by simp [wordOf, word]
  refine (bind_of_gives (get_run s)).trans ((require_false ?_ ..).trans ?_)
  · simpa [user, bitOf] using fun bit => fun ctx => other ⟨bit, ctx⟩
  · rw [number, Nat.add_comm]
    rfl

/-- The command in flight that owns a tile of the executing slot's core. -/
def tileCommand (s : State) (t : Nat) : Option MmaCmd :=
  (inFlight (clusterAt s (clusterOf (agentOf s.turn)))).find? fun c => c.core == agentOf s.turn && c.tile == t

omit user in
theorem tileFree_run (free : tileCommand s t = none) : tileFree t s = .ok ((), s) := by
  refine (bind_of_gives (get_run s)).trans ?_
  rw [tileCommand] at free
  simp only [free]
  rfl

theorem tileFree_trap {c : MmaCmd} (busy : tileCommand s t = some c) :
    tileFree t s = .error (.trap .accBusy (BitVec.ofNat 64 (t * 2 ^ 16 + c.seq.toNat))) := by
  refine (bind_of_gives (get_run s)).trans ?_
  rw [tileCommand] at busy
  simp only [busy, user, Bool.false_eq_true, if_false]
  rfl

end

/-! ### Tile instructions -/

theorem mapGet_filter {n : Nat} (m : AMap (BitVec n)) (p : Nat → Bool) (a : Nat) :
    mapGet 0 (m.filter fun e => p e.1) a = if p a then mapGet 0 m a else 0 := by
  rw [mapGet, mapFind_filter]
  cases p a <;> rfl

/-- An executing core with other tiles. -/
def withTiles (s : State) (tiles : AMap (BitVec 64)) : State :=
  setCore s (agentOf s.turn) { coreOf s (agentOf s.turn) with tiles := tiles }

theorem azero_run (x : D1) {s : State} {z : Bool} (named : Gives (namedTile (.azero x) x.d.toNat) s z s)
    (used : Gives (useTile (.azero x) x.d.toNat) s () s) : exec (.azero x) s = .next (issued x.st (withTiles s
      ((coreOf s (agentOf s.turn)).tiles.filter fun e => e.1 / 1024 != x.d.toNat))) :=
  runOp_ok ((bind_of_gives named).trans ((bind_of_gives used).trans ((bind_of_gives (curAgent_run s)).trans
    ((bind_of_gives (modify_run ..)).trans (finish_run ..)))))

theorem aread_run (x : RRR) {s s1 t : State} {b : W} {z : Bool} (named : Gives (namedTile (.aread x) x.a.toNat) s z s)
    (rb : Reads s x.b b s1) (used : Gives (useTile (.aread x) x.a.toNat) s1 () s1)
    (now : let k := coreOf s1 (agentOf s1.turn)
      ProducesNow s1 x.d (if b.toNat % 2048 < 1024 then mapGet 0 k.tiles (x.a.toNat * 1024 + b.toNat % 2048)
        else if b.toNat % 2048 = 1024 then (mapGet 0 k.edges x.a.toNat).setWidth 64 else 0) t) :
    exec (.aread x) s = .next (issued x.st t) :=
  runOp_ok ((bind_of_gives named).trans ((bind_of_gives rb).trans ((bind_of_gives used).trans
    ((bind_of_gives (get_run s1)).trans ((bind_of_gives now).trans (finish_run ..))))))

theorem coreOf_withTiles (s : State) (tiles : AMap (BitVec 64)) :
    (coreOf (withTiles s tiles) (agentOf s.turn)).tiles = tiles := by
  rw [withTiles, coreOf_setCore_self]

theorem awrite_run (x : RRR) {s s1 s2 : State} {a b : W} {z : Bool} (named : Gives (namedTile (.awrite x) x.d.toNat) s z s)
    (ra : Reads s x.a a s1) (rb : Reads s1 x.b b s2) (used : Gives (useTile (.awrite x) x.d.toNat) s2 () s2) :
    let core := agentOf s2.turn
    let i := a.toNat % 2048
    exec (.awrite x) s = .next (issued x.st (
      if i < 1024 then setElems s2 core x.d.toNat [(i, if z then b else w64 (b.toNat % 2 ^ 32))]
      else if i = 1024 then setEdge s2 core x.d.toNat (edgeWord b.toNat) else s2)) :=
  runOp_ok ((bind_of_gives named).trans ((bind_of_gives ra).trans ((bind_of_gives rb).trans ((bind_of_gives used).trans
    ((bind_of_gives (curAgent_run s2)).trans ((bind_of_gives (modify_run ..)).trans (finish_run ..)))))))

theorem medge_run (x : A1) {s s1 : State} {a : W} {z : Bool} (ra : Reads s x.a a s1)
    (named : Gives (namedTile (.medge x) (a.toNat / 2 ^ 16 % 8)) s1 z s1)
    (touched : Gives (touchTile (.medge x) (a.toNat / 2 ^ 16 % 8)) s1 () s1) :
    exec (.medge x) s =
      .next (issued x.st (setEdge s1 (agentOf s1.turn) (a.toNat / 2 ^ 16 % 8) (edgeWord a.toNat))) :=
  runOp_ok ((bind_of_gives ra).trans ((bind_of_gives named).trans ((bind_of_gives touched).trans
    ((bind_of_gives (curAgent_run s1)).trans ((bind_of_gives (modify_run ..)).trans (finish_run ..))))))

/-- The edge word that a word sets keeps its two fields (R300). -/
theorem edgeWord_eq (b : W) : edgeWord b.toNat = b.setWidth 16 &&& 0x1F1F := by
  refine BitVec.eq_of_getLsbD_eq fun i hi => ?_
  have low : b.toNat / 2 ^ 0 % 2 ^ 5 < 2 ^ 8 := by omega
  have bit := Nat.testBit_two_pow_mul_add (b.toNat / 2 ^ 8 % 2 ^ 5) low i
  rw [Nat.mul_comm] at bit
  have mask : (0x1F1F : BitVec 16).getLsbD i = if i < 8 then decide (i < 5) else decide (i - 8 < 5) := by
    interval_cases i <;> rfl
  rw [BitVec.getLsbD_and, mask, edgeWord, BitVec.getLsbD_ofNat, BitVec.getLsbD_setWidth]
  simp only [field, hi, decide_true, Bool.true_and]
  rw [bit]
  split
  · rw [Nat.testBit_mod_two_pow, Nat.testBit_div_two_pow]
    simp [BitVec.getLsbD, Bool.and_comm]
  · rw [Nat.testBit_mod_two_pow, Nat.testBit_div_two_pow, show i - 8 + 8 = i by omega]
    simp [BitVec.getLsbD, Bool.and_comm]

/-- An element of a tile set: that one, and no other (R297). -/
theorem mapGet_setElems (s : State) (core t i : Nat) (v : W) (y : Nat) :
    mapGet 0 (coreOf (setElems s core t [(i, v)]) core).tiles y = if y = t * 1024 + i then v else mapGet 0 (coreOf s core).tiles y := by
  rw [setElems, coreOf_setCore_self]
  exact mapGet_putOrDel ..

theorem mapGet_setEdge (s : State) (core t : Nat) (e : BitVec 16) (y : Nat) :
    mapGet 0 (coreOf (setEdge s core t e) core).edges y = if y = t then e else mapGet 0 (coreOf s core).edges y := by
  rw [setEdge, coreOf_setCore_self]
  exact mapGet_putOrDel ..

theorem setElems_edges (s : State) (core t : Nat) (es : List (Nat × W)) :
    (coreOf (setElems s core t es) core).edges = (coreOf s core).edges := by
  rw [setElems, coreOf_setCore_self]

theorem setEdge_tiles (s : State) (core t : Nat) (e : BitVec 16) :
    (coreOf (setEdge s core t e) core).tiles = (coreOf s core).tiles := by
  rw [setEdge, coreOf_setCore_self]

/-- MWAIT waits while a command of the hart is queued or running (R301). -/
theorem mwait_run (x : N0) (s : State) :
    exec (.mwait x) s = .next (if matrixBusy s s.turn then { s with cur := unissued s.cur } else issued x.st s) := by
  by_cases busy : matrixBusy s s.turn = true
  · rw [if_pos busy]
    refine runOp_waitHere ((bind_of_gives (get_run s)).trans ?_)
    rw [if_pos busy]
    exact bind_of_error (waitHere_run s)
  · rw [if_neg busy]
    refine runOp_ok (u := ()) ((bind_of_gives (get_run s)).trans ?_)
    rw [if_neg busy]
    rfl

/-! ### ACCOWN (R30, R303) -/

section
variable (x : RR) {s s1 t : State} {a : W} (may : MayCommit s) (sup : s.cur.sup = true) (reads : Reads s x.a a s1)
include may sup reads

theorem accown_waits (busy : coreBusy s1 (agentOf s1.turn) = true) :
    exec (.accown x) s = .next { s with cur := unissued s.cur } :=
  runOp_waitHere ((bind_of_gives (supervisorWord_run _ sup)).trans ((bind_of_gives (commitPlace_run _ may)).trans
    ((bind_of_gives reads).trans ((bind_of_gives (get_run s1)).trans (by
      rw [if_pos busy]
      exact bind_of_error (waitHere_run s1))))))

theorem accown_run (free : coreBusy s1 (agentOf s1.turn) = false)
    (now : ProducesNow s1 x.d (coreOf s1 (agentOf s1.turn)).accown t) :
    exec (.accown x) s = .next (committed x.st (writeAccown t a.toNat)) :=
  runOp_ok ((bind_of_gives (supervisorWord_run _ sup)).trans ((bind_of_gives (commitPlace_run _ may)).trans
    ((bind_of_gives reads).trans ((bind_of_gives (get_run s1)).trans (by
      rw [if_neg (by rw [free]; decide)]
      exact (bind_of_gives now).trans ((bind_of_gives (modify_run ..)).trans (finishCommit_run ..)))))))

end

theorem coreBusy_iff (s : State) (core : Nat) :
    coreBusy s core = true ↔ ∃ c ∈ inFlight (clusterAt s (clusterOf core)), c.core = core := by
  simp [coreBusy]

/-- A write of ACCOWN sets the owner, latches the tile format, and ends the hart's exchange (R30, R437, R438). -/
theorem writeAccown_eq {s : State} (core : kindOf s.turn = .core) (a : W) : writeAccown s a.toNat =
    setCore s (agentOf s.turn) { coreOf s (agentOf s.turn) with
      accown := (a.setWidth 17).setWidth 64, acc64 := s.cur.partw.getLsbD 28
      accu := s.cur.partw.extractLsb' 16 8
      exchange := (coreOf s (agentOf s.turn)).exchange.filter fun h => h != s.turn } := by
  have accu : BitVec.ofNat 8 (accuOf s.cur.partw) = s.cur.partw.extractLsb' 16 8 := by
    apply BitVec.eq_of_toNat_eq
    simp [accuOf, field, Nat.shiftRight_eq_div_pow]
  unfold writeAccown
  simp only [core, if_true, w64_field_zero a 16, acc64Of, bitOf_toNat, accu]

/-- Settles O50: each operation is run through its checks to its state; the maps of tiles and slots are read back. -/
theorem leasesOperandSlotsAndTiles : Obligations.LeasesOperandSlotsAndTiles := by
  unfold Obligations.LeasesOperandSlotsAndTiles
  refine ⟨?lease, ?expiry, fun s c k free asked => arrayDue_lease free asked, ?grant, ?after, ?oclaim,
    fun s v => claimedSlot_eq s v, ?orel, ?old, ?checks, ?azero, ?aread, ?awrite, ?medge, fun x s => mwait_run x s, ?accown⟩
  case lease =>
    intro x y s may c w k z holds joined
    refine ⟨fun held => mlease_held x may ((holdsLease_iff s).mpr held),
      fun free none settled => mlease_noTiles x may (fun h => free ((holdsLease_iff s).mp h)) none settled,
      fun free some => mlease_waits x may (fun h => free ((holdsLease_iff s).mp h)) some, ?_⟩
    obtain ⟨clusters, e⟩ := releaseLease_eq s s.turn
    have own : slotOf s s.turn = s.cur := by simp [slotOf]
    rw [setSlot_turn_cur, own] at e
    refine ⟨_, mrel_run y may, ?_⟩
    have holder (core : kindOf s.turn = .core) := (releaseLease_holder (s := s) core).1
    have pool : clusterAt (committed y.st (releaseLease s s.turn)) c = clusterAt (releaseLease s s.turn) c := rfl
    rw [pool]
    refine ⟨?_, ?_, ?_, ?_, ?_, holder⟩ <;> (rw [e]; rfl)
  case expiry =>
    intro h s
    refine ⟨rfl, by rw [releaseLease_slot], fun core held => (releaseLease_holder core).2 held⟩
  case grant =>
    intro c s k
    refine ⟨fun idle => leaseGrant_idle idle, fun h free next => ?_, fun h next => nextLessee_some next⟩
    obtain ⟨t, run, holder, waiters, slot⟩ := leaseGrant_run free next
    refine ⟨t, run, holder, fun w => ?_, by rw [slot], ?_⟩
    · rw [waiters]
      simp [k]
    · rw [slot]
      cases (slotOf s h).lreq <;> rfl
  case after => exact fun l i _ _ => ⟨rfl, rfl⟩
  case oclaim =>
    exact fun x s t may => ⟨fun full now => oclaim_full x may full now, fun n hn free full now => oclaim_run x may hn free full now⟩
  case orel =>
    intro x s s1 a n may reads mine c k used
    refine ⟨fun u => orel_waits x may reads mine u, fun free => ⟨_, orel_run x may reads mine free, ?_⟩⟩
    rw [clusterAt_setCluster_self]
    exact ⟨rfl, fun m => mapFind_mapDel .., fun p => memGet_memClear ..⟩
  case old =>
    intro x s s1 s2 s3 s4 s5 a b n p q us exchange ra rb mine first last free loads turn c
    have here : c = clusterOf (agentOf s4.turn) := by rw [← turn]
    refine ⟨fun whole => ?_, fun u bad => ?_⟩
    · have none : (us.any fun u => u.2.2.isNone) = false := by simpa using whole
      rw [old_run x exchange ra rb mine first last free loads (lateUnits_none whole _), oldLoaded, none, goodUnits_whole _ _ whole,
        foldl_operandWrite, ← here]
    · exact ⟨_, _, old_run x exchange ra rb mine first last free loads (lateUnits_some bad _), rfl, rfl, rfl⟩
  case checks =>
    intro s i t w word user small core own size exists_ owned busy
    refine ⟨fun there => namedTile_run user there, fun none => namedTile_trap word user none, fun owns free => ?_, fun other => ?_,
      fun c owns taken => ?_⟩
    · exact (bind_of_gives (touchTile_run owns)).trans (tileFree_run free)
    · exact bind_of_error (touchTile_trap word user other)
    · exact (bind_of_gives (touchTile_run owns)).trans (tileFree_trap user taken)
  case azero =>
    intro x s z named used core
    refine ⟨_, azero_run x named used, ?_, fun k => ?_⟩
    · rw [coreOf_withTiles]
      rfl
    · rw [coreOf_withTiles, mapGet_filter _ fun a => a / 1024 != x.d.toNat]
      by_cases e : k / 1024 = x.d.toNat <;> simp [e, core]
  case aread => exact fun x s s1 t b z named rb used now => aread_run x named rb used now
  case awrite =>
    intro x s s1 s2 a b z named ra rb used i core k
    have value : w64 (b.toNat % 2 ^ 32) = (b.setWidth 32).setWidth 64 := BitVec.eq_of_toNat_eq (by simp [w64])
    refine ⟨_, awrite_run x named ra rb used, ?_⟩
    by_cases elem : i < 1024
    · rw [if_pos elem]
      refine ⟨rfl, rfl, fun y => ?_, fun y => ?_⟩
      · rw [mapGet_setElems, value]
        simp only [elem, true_and, i, k, core]
      · rw [setElems_edges, if_neg (by omega)]
    · rw [if_neg elem]
      by_cases edge : i = 1024
      · rw [if_pos edge]
        refine ⟨rfl, rfl, fun y => ?_, fun y => ?_⟩
        · rw [setEdge_tiles, if_neg (by omega)]
        · rw [mapGet_setEdge, edgeWord_eq]
          simp only [edge, true_and, k, core]
      · rw [if_neg edge]
        refine ⟨rfl, rfl, fun y => ?_, fun y => ?_⟩
        · rw [if_neg (by omega)]
        · rw [if_neg (by omega)]
  case medge =>
    intro x s s1 a z ra t core named touched
    refine ⟨_, medge_run x ra named touched, rfl, rfl, setEdge_tiles .., fun y => ?_⟩
    rw [mapGet_setEdge, edgeWord_eq]
  case accown =>
    intro x s s1 t a may sup reads core used
    refine ⟨fun u => accown_waits x may sup reads ((coreBusy_iff ..).mpr u), fun free isCore turn now => ?_⟩
    have idle : coreBusy s1 (agentOf s1.turn) = false := by
      rw [← Bool.not_eq_true, coreBusy_iff]
      exact free
    rw [accown_run x may sup reads idle now, writeAccown_eq (by rw [turn]; exact isCore)]
    rw [show core = agentOf t.turn by rw [turn, ← turn_of_reads reads]]

end Sys2Proof.Machine
end

section
/-!
PROOF. O41: strands leave their slot, and watches wake them (R35, R208, R237, R378, R421).
-/
namespace Sys2Proof.Machine

/-! ### Records and queues at their home -/

theorem AtHome.emit {s t : State} (h : AtHome s t) (e : Event) : AtHome s (Machine.emit t e) := by
  obtain ⟨m, k, l, p, v, rfl⟩ := h
  exact ⟨m, k, l, p, _, rfl⟩

theorem AtHome.cores {s t : State} (h : AtHome s t) : t.cores = s.cores := by
  obtain ⟨_, _, _, _, _, rfl⟩ := h
  rfl

theorem AtHome.turn {s t : State} (h : AtHome s t) : t.turn = s.turn := by
  obtain ⟨_, _, _, _, _, rfl⟩ := h
  rfl

theorem atHome_noteWalkAt (s : State) (agent root va : Nat) : AtHome s (noteWalkAt s agent root va) := by
  unfold noteWalkAt
  split
  · exact (AtHome.refl s).emit _
  · exact .refl s

theorem atHome_noteRing (s : State) (l : Loc) (root : Nat) (ring : Option Nat) : AtHome s (noteRing s l root ring) := by
  unfold noteRing
  dsimp only
  split
  · exact atHome_noteWalkAt ..
  · exact .refl s

/-- A queue header of a context stands in memory. -/
theorem headerLoc_mem {s : State} {root : Nat} {va : Addr} {l : Loc} (h : headerLoc s root va = some l) : ∃ ca, l = .mem ca := by
  unfold headerLoc at h
  split at h
  · split at h
    · cases h
      exact ⟨_, rfl⟩
    · cases h
  · cases h

theorem atHome_enqHome {s t : State} {ca root b v : Nat} {sup : Bool} (e : enqHome s (.mem ca) root sup b = .value v t) :
    AtHome s t := by
  unfold enqHome at e
  dsimp only at e
  split at e
  · cases e
  split at e
  · cases e
  split at e
  · cases e
    exact .refl s
  split at e
  · cases e
    exact .refl s
  split at e
  · obtain ⟨_, _, _, rfl⟩ := entryOf_error ‹_›
    cases e
  · cases e
    exact (homeWrite_atHome ..).trans (homeWrite_atHome ..)

theorem atHome_enqFor (s : State) (agent : Nat) (c : BitVec 16) (header : Addr) (v : W) :
    AtHome s (enqFor s agent c header v) := by
  unfold enqFor
  split
  · exact atHome_noteWalkAt ..
  · obtain ⟨ca, rfl⟩ := headerLoc_mem ‹_›
    split
    · exact atHome_enqHome ‹_›
    · exact atHome_noteRing ..

theorem atHome_writeRecord (s : State) (agent : Nat) (c : BitVec 16) (va : W) (bs : List Byte) :
    AtHome s (writeRecord s agent c va bs) := by
  unfold writeRecord
  split
  · exact homeWrite_atHome ..
  · exact atHome_noteWalkAt ..

theorem atHome_freeRecord (s : State) (agent : Nat) (c : BitVec 16) (crec : W) : AtHome s (freeRecord s agent c crec) :=
  (atHome_writeRecord ..).trans (atHome_enqFor ..)

/-! ### The slot left (R225, R265, R286) -/

/-- What leaving a slot does: the slot of the hart is emptied, without lanes and lease; memory, the executing hart and the
returns that cores hold stay. -/
structure SlotLeft (s t : State) (h : HartId) : Prop where
  slot : ∃ y, slotOf t h = emptied y ∧ y.vlanes = 0 ∧ y.lease.held = false
  mem : t.mem = s.mem
  turn : t.turn = s.turn
  returns : ∀ c, (coreOf t c).returns = (coreOf s c).returns

theorem coreOf_of_cores {s t : State} (h : t.cores = s.cores) (c : Nat) : coreOf t c = coreOf s c := by
  unfold coreOf
  rw [h]

theorem returns_setCore {s : State} {c : Nat} {k : Core} (same : k.returns = (coreOf s c).returns) (d : Nat) :
    (coreOf (setCore s c k) d).returns = (coreOf s d).returns := by
  by_cases e : d = c
  · subst e
    rw [coreOf_setCore_self, same]
  · rw [coreOf_setCore_other _ _ _ _ e]

theorem returns_setPlacement (s : State) (c : Nat) (p : Placement) (d : Nat) :
    (coreOf (setPlacement s c p) d).returns = (coreOf s d).returns := returns_setCore (by rfl) d

theorem releaseOslots_eq (s : State) (h : HartId) (c : BitVec 16) (keep : Nat → Bool) :
    ∃ clusters, releaseOslots s h c keep = { s with clusters := clusters } := by
  unfold releaseOslots
  dsimp only
  split
  · exact ⟨s.clusters, rfl⟩
  · exact ⟨_, rfl⟩

theorem release_mem (s : State) (h : HartId) : (releaseLease (releaseLanes s h) h).mem = s.mem := by
  obtain ⟨k, e, lanes⟩ := releaseLanes_eq s h
  obtain ⟨k', lease⟩ := releaseLease_eq (releaseLanes s h) h
  rw [lease]
  refine (setSlot_mem ..).trans ?_
  rw [lanes]
  exact setSlot_mem ..

theorem release_turn (s : State) (h : HartId) : (releaseLease (releaseLanes s h) h).turn = s.turn := by
  obtain ⟨k, e, lanes⟩ := releaseLanes_eq s h
  obtain ⟨k', lease⟩ := releaseLease_eq (releaseLanes s h) h
  rw [lease]
  refine (setSlot_turn ..).trans ?_
  rw [lanes]
  exact setSlot_turn ..

theorem release_cores (s : State) (h : HartId) : (releaseLease (releaseLanes s h) h).cores = s.cores := by
  obtain ⟨k, e, lanes⟩ := releaseLanes_eq s h
  obtain ⟨k', lease⟩ := releaseLease_eq (releaseLanes s h) h
  rw [lease]
  refine (setSlot_cores ..).trans ?_
  rw [lanes]
  exact setSlot_cores ..

/-- A landing region given up leaves memory, the executing hart, the returns, and of the slot all else. -/
theorem endLanding_frame (s : State) (h : HartId) : (endLanding s h).mem = s.mem ∧ (endLanding s h).turn = s.turn ∧
    slotOf (endLanding s h) h = { slotOf s h with landing := none } ∧
    ∀ c, (coreOf (endLanding s h) c).returns = (coreOf s c).returns := by
  unfold endLanding
  dsimp only
  split
  · refine ⟨rfl, rfl, ?_, fun _ => rfl⟩
    rw [← ‹(slotOf s h).landing = none›]
  · have same (c : Nat) : (coreOf (setSlot s h { slotOf s h with landing := none }) c).returns = (coreOf s c).returns := by
      rw [coreOf_of_cores (setSlot_cores ..)]
    split
    · exact ⟨setSlot_mem .., setSlot_turn .., slotOf_setSlot_self .., same⟩
    · exact ⟨setSlot_mem .., setSlot_turn .., slotOf_setSlot_self .., fun c => (returns_setPlacement ..).trans (same c)⟩

theorem slotLeft_leaveSlot (s : State) (h : HartId) : SlotLeft s (leaveSlot s h) h := by
  obtain ⟨clusters, oslots⟩ := releaseOslots_eq s h (slotOf s h).ctx fun _ => false
  obtain ⟨mem, turn, slot, returns⟩ :=
    endLanding_frame (releaseLease (releaseLanes (releaseOslots s h (slotOf s h).ctx fun _ => false) h) h) h
  rw [release_mem] at mem
  rw [release_turn] at turn
  rw [release_slotOf] at slot
  have cores (c : Nat) := (returns c).trans (congrArg Core.returns (coreOf_of_cores (release_cores ..) c))
  rw [oslots] at mem turn slot cores
  unfold leaveSlot
  dsimp only
  rw [oslots]
  refine ⟨⟨_, slotOf_setSlot_self .., ?_, ?_⟩, ?_, ?_, fun c => ?_⟩
  · rw [slot]
    rfl
  · rw [slot]
    rfl
  · rw [setSlot_mem, mem]
  · rw [setSlot_turn, turn]
  · rw [coreOf_of_cores (setSlot_cores ..), cores]
    rfl

/-- The registers and the queue of an emptied slot are zero. -/
theorem emptied_empty {y : Slot} (j : Nat) :
    (j < 8 → nEntry (emptied y) j = ⟨0, 0, 0⟩) ∧ (j < 16 → qEntry (emptied y) j = ⟨0, 0, 0⟩) := by
  constructor <;> intro hj
  · simp [nEntry, emptied, hj, ready]
  · simp [qEntry, emptied, hj, ready]

/-! ### The record written (R34, R35) -/

/-- The first words of a record, as R34 lays them out. -/
theorem recordBytes_eq (state : BitVec 2) (prio : Bool) (pc : Addr) (x : Slot) : recordBytes state.toNat prio pc x =
    natBytes 8 (state ++ BitVec.ofBool prio ++ fpflagsFinal x ++ pc).toNat ++ natBytes 8 (x.wcur ++ x.ctx).toNat ++
      (List.range 6).flatMap fun j => natBytes 8 (nEntry x j).val.toNat := by
  have head : (state ++ BitVec.ofBool prio ++ fpflagsFinal x ++ pc).toNat =
      state.toNat * 2 ^ 62 + b1 prio * 2 ^ 61 + (fpflagsFinal x).toNat * 2 ^ 56 + pc.toNat := by
    rw [toNat_append_eq, toNat_append_eq, toNat_append_eq, toNat_ofBool_eq]
    omega
  have regs : ((x.n.toList.take 6).map fun e => wordBytes 8 e.val) =
      (List.range 6).map fun j => natBytes 8 (nEntry x j).val.toNat := by
    refine List.ext_getElem (by simp) fun j hj hj' => ?_
    have small : j < 8 := by
      simp at hj
      omega
    simp [wordBytes, nEntry, small]
  rw [recordBytes, head, toNat_append_eq, regs, List.flatMap_def]

theorem recordBytes_length (state : Nat) (prio : Bool) (pc : Addr) (x : Slot) : (recordBytes state prio pc x).length = 64 := by
  simp [recordBytes, wordBytes, List.length_flatten, Function.comp_def]

/-- The returns that a core holds, through the write-back of its L1. -/
theorem returns_flushDirty (s : State) (core c : Nat) : (coreOf (flushDirty s core) c).returns = (coreOf s c).returns := by
  have cores (l : List L1Line) (t : State) : (l.foldl writeBack t).cores = t.cores := by
    induction l generalizing t with
    | nil => rfl
    | cons a l ih => rw [List.foldl_cons, ih, writeBack_cores]
  unfold flushDirty
  dsimp only
  rw [coreOf_of_cores (cores _ _)]
  exact returns_setCore (by rfl) c

/-- A strand's slot left with its record in memory. -/
theorem suspendAs_record {s : State} {h : HartId} {state : Nat} {pc : Addr} {ca : Nat} (canonical : s.memOk = true)
    (place : recordLoc (flushDirty s (agentOf h)) (agentOf h) (slotOf s h).ctx (slotOf s h).crec = some ca) :
    SlotLeft (homeWrite (flushDirty s (agentOf h)) ca (recordBytes state (isH h) pc (slotOf s h))) (suspendAs s h state pc) h ∧
    memRead (suspendAs s h state pc).mem ca 64 = recordBytes state (isH h) pc (slotOf s h) ∧
    ∀ p, p < ca ∨ ca + 64 ≤ p → memGet (suspendAs s h state pc).mem p = memGet (flushDirty s (agentOf h)).mem p := by
  have written : writeRecord (flushDirty s (agentOf h)) (agentOf h) (slotOf s h).ctx (slotOf s h).crec
      (recordBytes state (isH h) pc (slotOf s h)) =
      homeWrite (flushDirty s (agentOf h)) ca (recordBytes state (isH h) pc (slotOf s h)) := by
    simp [writeRecord, place]
  have left := slotLeft_leaveSlot (homeWrite (flushDirty s (agentOf h)) ca (recordBytes state (isH h) pc (slotOf s h))) h
  rw [show suspendAs s h state pc = leaveSlot _ h from congrArg (leaveSlot · h) written]
  have wf := State.memOk_mem (flushDirty_memOk (agentOf h) canonical)
  have len := recordBytes_length state (isH h) pc (slotOf s h)
  refine ⟨left, ?_, fun p out => ?_⟩
  · rw [left.mem, homeWrite_mem]
    exact len ▸ memRead_memWrite_same ca _ wf
  · rw [left.mem, homeWrite_mem]
    exact memGet_memWrite_outside ca p _ wf (by rw [len]; exact out)

/-- The weight of a strand handed to its core for its home. -/
def weightHanded (s : State) (core : Nat) (x : Slot) : State :=
  if x.wcur = 0 then s
  else setCore s core { coreOf s core with returns := (coreOf s core).returns ++ [(x.ctx, x.wcur.toNat)] }

theorem returns_weightHanded (s : State) (core : Nat) (x : Slot) : (coreOf (weightHanded s core x) core).returns =
    (coreOf s core).returns ++ if x.wcur = 0 then [] else [(x.ctx, x.wcur.toNat)] := by
  unfold weightHanded
  split
  · exact (List.append_nil _).symm
  · rw [coreOf_setCore_self]

/-- DONE leaves the slot after the write-back, the return of the weight and the record's way to the free queue. -/
theorem slotLeft_endStrand (s : State) (h : HartId) :
    let a := agentOf h
    SlotLeft (freeRecord (weightHanded (flushDirty s a) a (slotOf s h)) a (slotOf s h).ctx (slotOf s h).crec) (endStrand s h) h := by
  intro a
  have left := slotLeft_leaveSlot
    (freeRecord (weightHanded (flushDirty s a) a (slotOf s h)) a (slotOf s h).ctx (slotOf s h).crec) h
  unfold endStrand
  dsimp only
  split
  · exact ⟨left.slot, left.mem, left.turn, left.returns⟩
  · exact left

theorem returns_endStrand (s : State) (h : HartId) : (coreOf (endStrand s h) (agentOf h)).returns =
    (coreOf s (agentOf h)).returns ++
      if (slotOf s h).wcur = 0 then [] else [((slotOf s h).ctx, (slotOf s h).wcur.toNat)] := by
  rw [(slotLeft_endStrand s h).returns, coreOf_of_cores (atHome_freeRecord ..).cores, returns_weightHanded,
    returns_flushDirty]

theorem turn_endStrand (s : State) (h : HartId) : (endStrand s h).turn = s.turn := by
  have handed (t : State) (core : Nat) (x : Slot) : (weightHanded t core x).turn = t.turn := by
    unfold weightHanded
    split <;> rfl
  rw [(slotLeft_endStrand s h).turn, (atHome_freeRecord ..).turn, handed, (stored_flushDirty ..).harts.1]

/-! ### The checks -/

theorem notQuiesce_run {s : State} (h : s.cur.quiesce = false) : notQuiesce s = .ok ((), s) := by
  unfold notQuiesce
  rw [bind_of_gives (curSlot_run s), require_true (by simp [h])]

theorem notQuiesce_trap {s : State} (h : s.cur.quiesce = true) :
    notQuiesce s = .error (.trap .weightFine (operationInfo 3 false 0)) := by
  unfold notQuiesce
  rw [bind_of_gives (curSlot_run s), require_false (by simp [h])]
  rfl

section
variable (x : N0) {s : State} (open_ : InOpen s)
include open_

theorem suspend_run (calm : s.cur.quiesce = false) (settled : Gives settleStrand s () s) :
    exec (.suspend x) s = .next (suspendAs (committed x.st s) s.turn 2 s.cur.npc) :=
  runOp_ok ((bind_of_gives (noDelaySlot_run _ open_)).trans ((bind_of_gives (notQuiesce_run calm)).trans
    ((bind_of_gives settled).trans ((bind_of_gives (finishCommit_run ..)).trans (modify_run ..)))))

theorem yield_run (calm : s.cur.quiesce = false) (settled : Gives settleStrand s () s) :
    exec (.yield x) s = .next (yieldAs (committed x.st s) s.turn s.cur.npc) :=
  runOp_ok ((bind_of_gives (noDelaySlot_run _ open_)).trans ((bind_of_gives (notQuiesce_run calm)).trans
    ((bind_of_gives settled).trans ((bind_of_gives (finishCommit_run ..)).trans (modify_run ..)))))

theorem suspend_trap (asked : s.cur.quiesce = true) (settled : s.cur.launches = 0) :
    exec (.suspend x) s = .next (trapped .weightFine (operationInfo 3 false 0) s) :=
  runOp_trapped settled ((bind_of_gives (noDelaySlot_run _ open_)).trans (bind_of_error (notQuiesce_trap asked)))

theorem yield_trap (asked : s.cur.quiesce = true) (settled : s.cur.launches = 0) :
    exec (.yield x) s = .next (trapped .weightFine (operationInfo 3 false 0) s) :=
  runOp_trapped settled ((bind_of_gives (noDelaySlot_run _ open_)).trans (bind_of_error (notQuiesce_trap asked)))

theorem done_core (core : kindOf s.turn = .core) (free : unsettled s s.turn = false) :
    exec (.done x) s = .next (endStrand (committed x.st s) s.turn) :=
  runOp_ok ((bind_of_gives (noDelaySlot_run _ open_)).trans ((bind_of_gives (get_run s)).trans (by
    rw [core]
    refine (bind_of_gives (get_run s)).trans ?_
    rw [if_neg (by rw [free]; decide)]
    exact (bind_of_gives (finishCommit_run ..)).trans (modify_run ..))))

theorem done_engine (engine : kindOf s.turn = .porter ∨ kindOf s.turn = .carter) (free : unsettled s s.turn = false) :
    exec (.done x) s = .next (endJob (committed x.st s) (agentOf s.turn) 0 0 0) := by
  rcases engine with e | e
  all_goals exact runOp_ok ((bind_of_gives (noDelaySlot_run _ open_)).trans ((bind_of_gives (get_run s)).trans (by
    rw [e]
    refine (bind_of_gives (get_run s)).trans ?_
    rw [if_neg (by rw [free]; decide)]
    exact (bind_of_gives (finishCommit_run ..)).trans (modify_run ..))))

end

/-! ### Watches (R208, R421) -/

/-- The state in which a strand that waits for a word has left its slot and its watch is on its way. -/
def strandWatches (t : State) (ca n : Nat) (b : W) : State :=
  emit (suspendAs t t.turn 2 t.cur.pc) (.watchRegister (watchOf t ca n b false))

/-- The address that a watch compares: the word's in memory, or its physical address in the configuration window. -/
def watchedPlace : Loc → Nat
  | .mem ca => ca
  | .config off => 0x200000000000 + off
  | _ => 0

theorem watchedPlace_eq {l : Loc} {ca : Nat} (place : l = .mem ca ∨ ∃ off, l = .config off ∧ ca = 0x200000000000 + off) :
    watchedPlace l = ca := by
  rcases place with rfl | ⟨off, rfl, rfl⟩ <;> rfl

section
variable (x : ABw) {s s1 s2 s3 : State} {a b : W} {p : Place} (open_ : InOpen s) (ra : Reads s x.a a s1) (rb : Reads s1 x.b b s2)
  (check : Gives (checkAccess 5 (if x.wide = 1 then 8 else 4) (if x.wide = 1 then 8 else 4) .read false a) s2 p s3)
  (strand : kindOf s3.turn ≠ .clerk)
include open_ ra rb check strand

theorem waitv_run {ca : Nat} (place : p.loc = .mem ca ∨ ∃ off, p.loc = .config off ∧ ca = 0x200000000000 + off)
    (calm : s3.cur.quiesce = false) (settled : Gives settleStrand s3 () s3) :
    exec (.waitv x) s = .next (strandWatches (committed x.st s3) ca (if x.wide = 1 then 8 else 4) b) := by
  refine runOp_ok (u := ()) ((bind_of_gives (noDelaySlot_run _ open_)).trans ((bind_of_gives ra).trans ((bind_of_gives rb).trans
    ((bind_of_gives check).trans ((bind_of_gives (get_run s3)).trans ?_)))))
  have at_ : watchedPlace p.loc = ca := watchedPlace_eq place
  dsimp only
  cases kind : kindOf s3.turn
  case clerk => exact absurd kind strand
  all_goals exact (bind_of_gives (notQuiesce_run calm)).trans ((bind_of_gives settled).trans
    ((bind_of_gives (finishCommit_run ..)).trans ((modify_run ..).trans (by rw [← at_]; rfl))))

theorem waitv_trap (asked : s3.cur.quiesce = true) (settled : s.cur.launches = 0) :
    exec (.waitv x) s = .next (trapped .weightFine (operationInfo 3 false 0) s) := by
  refine runOp_trapped settled ((bind_of_gives (noDelaySlot_run _ open_)).trans ((bind_of_gives ra).trans
    ((bind_of_gives rb).trans ((bind_of_gives check).trans ((bind_of_gives (get_run s3)).trans ?_)))))
  dsimp only
  cases kind : kindOf s3.turn
  case clerk => exact absurd kind strand
  all_goals exact bind_of_error (notQuiesce_trap asked)

end

theorem watchRegister_run {w : Watch} {s : State} (room : (s.watches.filter fun v => homeOf v.pa == homeOf w.pa).length < 1024) :
    let t : State := { s with watches := s.watches ++ [w] }
    exec (.watchRegister w) s = .next (if watchDiffers s w then emit t (.watchFire w) else t) := by
  intro t
  change execWatchRegister w s = _
  have full : decide (1024 ≤ (s.watches.filter fun v => homeOf v.pa == homeOf w.pa).length) = false := by
    simpa using room
  unfold execWatchRegister
  dsimp only
  rw [full]
  rfl

theorem watchFire_gone {w : Watch} {s : State} (gone : w ∉ s.watches) : exec (.watchFire w) s = .next s := by
  change execWatchFire w s = _
  unfold execWatchFire
  rw [if_pos (by simpa using gone)]
  rfl

theorem leNat_lt (bs : List Byte) : leNat bs < 256 ^ bs.length := by
  induction bs with
  | nil => decide
  | cons b bs ih =>
    have := b.isLt
    rw [leNat, List.length_cons, pow_succ]
    omega

/-- The state field of a record's first doubleword. -/
theorem field_dword {bs : List Byte} (h : bs.length = 8) : field (leNat bs) 63 62 = leNat bs / 2 ^ 62 := by
  have := leNat_lt bs
  rw [h] at this
  exact Nat.mod_eq_of_lt (by omega)

/-- A watch of a strand that fires finds the strand's record. -/
theorem watchFire_record {w : Watch} {s : State} {ca : Nat} (here : w ∈ s.watches) (strand : w.clerk = none)
    (place : recordLoc s (sliceAgent (homeOf w.pa)) w.ctx w.crec = some ca) :
    let s' : State := { s with watches := s.watches.erase w }
    let d := leNat (memRead s.mem ca 8)
    exec (.watchFire w) s = .next (if d / 2 ^ 62 = 2 ∧ poisonedMem s ca 8 = false then
      enqFor (homeWrite s' ca (natBytes 8 (d - 2 ^ 62))) (sliceAgent (homeOf w.pa)) w.ctx (readyQueue s w.ctx) w.crec else s') := by
  intro s' d
  change execWatchFire w s = _
  have at_ : recordLoc s' (sliceAgent (homeOf w.pa)) w.ctx w.crec = some ca := place
  have state : field d 63 62 = d / 2 ^ 62 := field_dword (memRead_length ..)
  have sound : poisonedMem s' ca 8 = poisonedMem s ca 8 := rfl
  unfold execWatchFire
  rw [if_neg (by simpa using here)]
  dsimp only
  rw [strand]
  dsimp only
  rw [at_]
  dsimp only
  rw [state, sound, apply_ite Host.Outcome.next]
  exact if_congr (by rw [Bool.not_eq_true']) rfl rfl

/-- Settles O41: leaving the slot empties it and keeps memory but the record; the words run through their checks to it. -/
theorem strandsLeaveTheirSlot : Obligations.StrandsLeaveTheirSlot := by
  unfold Obligations.StrandsLeaveTheirSlot
  intro bit gone
  have goneOf {s t : State} {h : HartId} (left : SlotLeft s t h) : gone (slotOf t h) := by
    obtain ⟨y, slot, lanes, lease⟩ := left.slot
    rw [slot]
    exact ⟨rfl, rfl, lanes, lease, rfl, rfl, fun j => (emptied_empty j).1, fun j => (emptied_empty j).2⟩
  refine ⟨fun x s open_ calm settled => ⟨suspend_run x open_ calm settled, (yield_run x open_ calm settled).trans ?yield⟩, ?record,
    ?done, fun x s open_ engine free => done_engine x open_ engine free, ?waitv, ?quiesce, ?waitvTrap, ?rotation, fun s => rfl,
    fun w s room => watchRegister_run room, fun w s => ?once, ?fire⟩
  case yield =>
    have cur : slotOf (committed x.st s) s.turn = (committed x.st s).cur := if_pos rfl
    rw [yieldAs, cur]
    rfl
  case record =>
    intro s h state pc ca canonical core x f t place
    obtain ⟨left, bytes, outside⟩ := suspendAs_record (state := state.toNat) (pc := pc) canonical place
    exact ⟨goneOf left, bytes.trans (recordBytes_eq ..), outside⟩
  case done =>
    intro x s open_ core free
    refine ⟨_, done_core x open_ core free, rfl, ?_, ?_⟩
    · have empty := goneOf (slotLeft_endStrand (committed x.st s) s.turn)
      have turn : (endStrand (committed x.st s) s.turn).turn = s.turn := turn_endStrand ..
      rwa [slotOf, if_pos turn.symm] at empty
    · have returns := returns_endStrand (committed x.st s) s.turn
      rwa [show slotOf (committed x.st s) s.turn = (committed x.st s).cur from if_pos rfl] at returns
  case waitv =>
    intro x s s1 s2 s3 a b p ca open_ ra rb n check place strand calm settled
    exact waitv_run x open_ ra rb check strand place calm settled
  case quiesce =>
    intro x s open_ asked settled i hi
    simp only [List.mem_cons, List.not_mem_nil, or_false] at hi
    rcases hi with rfl | rfl
    · exact suspend_trap x open_ asked settled
    · exact yield_trap x open_ asked settled
  case waitvTrap =>
    intro x s s1 s2 s3 a b p open_ ra rb n check strand asked settled
    exact waitv_trap x open_ ra rb check strand asked settled
  case rotation =>
    refine fun h s => ⟨fun due free => ?_, fun not => ?_⟩
    · exact if_pos ⟨due, by simp [free]⟩
    · exact if_neg fun ⟨due, free⟩ => by
        rcases not with e | e
        · simp [e] at due
        · simp [e] at free
  case once =>
    by_cases here : w ∈ s.watches
    · exact .inr here
    · exact .inl (watchFire_gone here)
  case fire =>
    intro w s ca here strand place s' d
    have fired := watchFire_record here strand place
    refine ⟨fun two sound => ?_, fun other => ?_⟩
    · rw [fired, if_pos ⟨two, sound⟩]
    · rw [fired, if_neg ?_]
      rintro ⟨two, sound⟩
      rcases other with e | e
      · exact e two
      · rw [sound] at e
        cases e

end Sys2Proof.Machine
end

section
/-!
PROOF. O42: weight at its home (R38, R39, R239 to R243).
-/
namespace Sys2Proof.Machine

/-! ### A home record in memory -/

/-- Outside bonded DRAM an address is its own name. -/
theorem canonPa_high {pa : Nat} (high : 0x10000000000 ≤ pa) : canonPa pa = pa := by
  unfold canonPa
  split
  · rename_i region
    unfold regionOf at region
    rw [if_neg (by omega), if_neg (by omega)] at region
    repeat' split at region
    all_goals cases region
  · rfl

/-- Within a sector canonical addresses run with the physical ones. -/
theorem canonPa_add {pa k : Nat} (aligned : pa % 32 = 0) (small : k < 32) : canonPa (pa + k) = canonPa pa + k := by
  have unit : (pa + k) % 2 ^ 37 / 256 = pa % 2 ^ 37 / 256 := by omega
  have byte : (pa + k) % 256 = pa % 256 + k := by omega
  have die : (pa + k) / 2 ^ 37 = pa / 2 ^ 37 := by omega
  by_cases high : 0x10000000000 ≤ pa
  · rw [canonPa_high high, canonPa_high (by omega)]
  unfold canonPa regionOf
  by_cases first : pa < 0x8000000000
  · rw [if_pos first, if_pos (show pa + k < 0x8000000000 by omega)]
    by_cases there : pa % 2 ^ 31 < 0x60000000
    · rw [if_pos there, if_pos (by omega)]
      dsimp only
      omega
    · rw [if_neg there, if_neg (by omega)]
  · rw [if_neg first, if_neg (show ¬ pa + k < 0x8000000000 by omega)]
    rw [if_pos (show pa < 0x10000000000 by omega), if_pos (show pa + k < 0x10000000000 by omega)]
    by_cases there : pa % 2 ^ 37 < 0x1800000000
    · rw [if_pos there, if_pos (by omega)]
      dsimp only
      rw [unit, byte, die]
      omega
    · rw [if_neg there, if_neg (by omega)]
/-- An aligned doubleword at a physical address is read at its canonical one. -/
theorem physDword_eq (s : State) {pa : Nat} (aligned : pa % 8 = 0) : physDword s pa = leNat (memRead s.mem (canonPa pa) 8) := by
  have whole : Nat.min 8 (256 - pa % 256) = 8 := Nat.min_eq_left (by omega)
  have pieces : unitPieces 8 pa 8 = [(canonPa pa, 8)] := by
    rw [unitPieces, if_neg (by decide), whole]
    rfl
  rw [physDword, physRead, pieces, List.map_singleton, List.flatten_singleton]

/-- A doubleword of a context's home record, at its canonical address. -/
def recordWord (s : State) (c : BitVec 16) (k : Nat) : Nat := leNat (memRead s.mem (canonPa (homeRecord s c) + k) 8)

/-- A home record that updates reach: canonical memory, an aligned record without uncorrectable data, and its context's
completion word elsewhere. -/
structure HomeSound (s : State) (c : BitVec 16) : Prop where
  canonical : s.memOk = true
  aligned : homeRecord s c % 32 = 0
  sound : homePoisoned s c = false
  apart : ∀ x, ctxOf s c = some x →
    canonPa x.compl + 8 ≤ canonPa (homeRecord s c) ∨ canonPa (homeRecord s c) + 32 ≤ canonPa x.compl

section
variable {s : State} {c : BitVec 16} (home : HomeSound s c)
include home

theorem HomeSound.word {k : Nat} (small : k < 32) (eight : k % 8 = 0) : physDword s (homeRecord s c + k) = recordWord s c k := by
  have := home.aligned
  rw [physDword_eq s (by omega), canonPa_add home.aligned small, recordWord]

theorem HomeSound.total : totalOf s c = recordWord s c 0 % 2 ^ 48 := by
  rw [totalOf, ← home.word (k := 0) (by decide) (by decide), Nat.add_zero]

theorem HomeSound.atHome : atHomeOf s c = recordWord s c 8 % 2 ^ 48 := by
  rw [atHomeOf, home.word (k := 8) (by decide) (by decide)]

theorem HomeSound.lost : lostOf s c = recordWord s c 16 % 2 ^ 48 := by
  rw [lostOf, home.word (k := 16) (by decide) (by decide)]

theorem HomeSound.flags : homeFlags s c = recordWord s c 24 := by
  rw [homeFlags, home.word (k := 24) (by decide) (by decide)]

end

/-! ### Writes to it -/

/-- A write at a home leaves no more poison than there was. -/
theorem poisonedMem_homeWrite {s : State} {ca : Nat} {bs : List Byte} {a n : Nat} (h : poisonedMem s a n = false) :
    poisonedMem (homeWrite s ca bs) a n = false := by
  have poison : ∃ t : State, t.poison = s.poison ∧ (homeWrite s ca bs).poison = (clearPoison t ca bs.length).poison := by
    unfold homeWrite
    extract_lets t u
    obtain ⟨hit, kick, e, -⟩ := afterWrite_eq (clearPoison u ca bs.length) ca bs.length
    refine ⟨u, ?_, by rw [e]⟩
    exact (dropConstant_poison ..).trans (touchHome_poison ..)
  obtain ⟨t, same, after⟩ := poison
  rw [← Bool.not_eq_true] at h ⊢
  refine fun bad => h ?_
  rw [poisonedMem, Bool.and_eq_true, List.any_eq_true] at bad ⊢
  obtain ⟨some_, p, there, near⟩ := bad
  rw [after, clearPoison, List.mem_filterMap] at there
  obtain ⟨q, old, step⟩ := there
  refine ⟨some_, q, same ▸ old, ?_⟩
  dsimp only at step
  split at step
  · cases step
  · cases step
    exact near

theorem AtHome.homeRecord {s t : State} (h : AtHome s t) (c : BitVec 16) : homeRecord t c = Machine.homeRecord s c := by
  obtain ⟨_, _, _, _, _, rfl⟩ := h
  rfl

theorem AtHome.ctxOf {s t : State} (h : AtHome s t) (c : BitVec 16) : ctxOf t c = Machine.ctxOf s c := by
  obtain ⟨_, _, _, _, _, rfl⟩ := h
  rfl

theorem AtHome.homeAgent {s t : State} (h : AtHome s t) (c : BitVec 16) : homeAgent t c = Machine.homeAgent s c := by
  rw [Machine.homeAgent, Machine.homeAgent, h.homeRecord]

section
variable {s : State} {c : BitVec 16} (home : HomeSound s c)
include home

theorem HomeSound.homeWrite (ca : Nat) (bs : List Byte) : HomeSound (homeWrite s ca bs) c := by
  have at_ := homeWrite_atHome s ca bs
  refine ⟨homeWrite_memOk ca bs home.canonical, ?_, ?_, fun x h => ?_⟩
  · rw [at_.homeRecord]
    exact home.aligned
  · rw [homePoisoned, at_.homeRecord]
    exact poisonedMem_homeWrite home.sound
  · rw [at_.ctxOf] at h
    rw [at_.homeRecord]
    exact home.apart x h

/-- A write of eight bytes leaves the words of the record that it does not meet. -/
theorem HomeSound.word_apart {ca v k : Nat}
    (apart : ca + 8 ≤ canonPa (homeRecord s c) + k ∨ canonPa (homeRecord s c) + k + 8 ≤ ca) :
    recordWord (Machine.homeWrite s ca (natBytes 8 v)) c k = recordWord s c k := by
  rw [recordWord, recordWord, (homeWrite_atHome ..).homeRecord, homeWrite_mem]
  refine congrArg leNat (memRead_congr fun p lo hi => ?_)
  exact memGet_memWrite_outside _ _ _ (State.memOk_mem home.canonical) (by rw [natBytes_length]; omega)

theorem setHome_eq (k v : Nat) : setHome s c k v = Machine.homeWrite s (canonPa (homeRecord s c) + k) (natBytes 8 v) := by
  rw [setHome, home.sound]
  rfl

theorem HomeSound.setHome (k v : Nat) : HomeSound (setHome s c k v) c := by
  rw [setHome_eq home]
  exact home.homeWrite ..

theorem word_setHome_same (k v : Nat) : recordWord (Machine.setHome s c k v) c k = v % 2 ^ 64 := by
  have wf := State.memOk_mem home.canonical
  rw [setHome_eq home, recordWord, (homeWrite_atHome ..).homeRecord, homeWrite_mem]
  have read := memRead_memWrite_same (m := s.mem) (canonPa (homeRecord s c) + k) (natBytes 8 v) wf
  rw [natBytes_length] at read
  rw [read, leNat_natBytes]
  norm_num

theorem word_setHome_other {k v j : Nat} (apart : k + 8 ≤ j ∨ j + 8 ≤ k) :
    recordWord (Machine.setHome s c k v) c j = recordWord s c j := by
  rw [setHome_eq home]
  exact home.word_apart (by omega)

theorem atHome_setHome (k v : Nat) : AtHome s (Machine.setHome s c k v) := by
  rw [setHome_eq home]
  exact homeWrite_atHome ..

end

/-! ### The test after each change (R39, R359) -/

theorem recordWord_emit (s : State) (e : Event) (c : BitVec 16) (k : Nat) : recordWord (emit s e) c k = recordWord s c k := rfl

theorem HomeSound.emit {s : State} {c : BitVec 16} (home : HomeSound s c) (e : Event) : HomeSound (emit s e) c :=
  ⟨home.canonical, home.aligned, home.sound, home.apart⟩

theorem recordWord_lt (s : State) (c : BitVec 16) (k : Nat) : recordWord s c k < 2 ^ 64 := by
  have := leNat_lt (memRead s.mem (canonPa (homeRecord s c) + k) 8)
  rw [memRead_length] at this
  exact this

theorem bitOf_false {v i : Nat} : bitOf v i = false ↔ v / 2 ^ i % 2 = 0 := by
  rw [bitOf, beq_eq_false_iff_ne]
  omega

theorem bitOf_true {v i : Nat} : bitOf v i = true ↔ v / 2 ^ i % 2 = 1 := by rw [bitOf, beq_iff_eq]

/-- The completion word of a context, written where the dispatcher knows the context, leaves its home record. -/
def completed (s : State) (c : BitVec 16) (status : Nat) : State :=
  match ctxOf s c with
  | some x => writeCompletion s x.compl c.toNat status 0
  | none => s

theorem completed_frame {s : State} {c : BitVec 16} (home : HomeSound s c) (status : Nat) :
    AtHome s (completed s c status) ∧ HomeSound (completed s c status) c ∧
      ∀ j, j ≤ 24 → recordWord (completed s c status) c j = recordWord s c j := by
  unfold completed
  split
  · rename_i x known
    have apart := home.apart x known
    exact ⟨homeWrite_atHome .., home.homeWrite .., fun j hj => home.word_apart (by omega)⟩
  · exact ⟨.refl s, home, fun _ _ => rfl⟩

section
variable {s : State} {c : BitVec 16} (home : HomeSound s c)
include home

theorem HomeSound.qdone_iff : qdone s c = true ↔ recordWord s c 24 / 2 ^ 17 % 2 = 1 := by
  rw [qdone, home.flags, bitOf_true]

omit home in
/-- Nothing is raised twice, nor before all units are at home or lost. -/
theorem quiesceTest_rest (rest : ¬ (atHomeOf s c + lostOf s c = totalOf s c ∧ qdone s c = false)) : quiesceTest s c = s :=
  if_neg fun ⟨full, fresh, _⟩ => rest ⟨full, by simpa using fresh⟩

/-- Quiescence raised: the record has QDONE, and an armed core is told. -/
theorem quiesceTest_raised (full : atHomeOf s c + lostOf s c = totalOf s c) (fresh : qdone s c = false) :
    ∃ u, AtHome s u ∧ HomeSound u c ∧ (∀ j, j ≤ 16 → recordWord u c j = recordWord s c j) ∧
      recordWord u c 24 = recordWord s c 24 + 2 ^ 17 ∧
      quiesceTest s c = if bitOf (homeFlags s c) 16 then
        emit u (.messageArrival (homeFlags s c % 2 ^ 12) (quiesceMsg u c)) else emit u (.contextComplete c) := by
  have small := recordWord_lt s c 24
  have low : recordWord s c 24 / 2 ^ 17 % 2 = 0 := by
    rw [qdone, home.flags, bitOf_false] at fresh
    exact fresh
  obtain ⟨at_, sound, words⟩ := completed_frame (home.setHome 24 (recordWord s c 24 + 2 ^ 17))
    (if lostOf (setHome s c 24 (recordWord s c 24 + 2 ^ 17)) c = 0 then 0 else 1)
  refine ⟨_, (atHome_setHome home ..).trans at_, sound, fun j hj => ?_, ?_, ?_⟩
  · rw [words j (by omega), word_setHome_other home (by omega)]
  · rw [words 24 le_rfl, word_setHome_same home, Nat.mod_eq_of_lt (by omega)]
  · unfold quiesceTest
    rw [if_pos ⟨full, by simp [fresh], by simp [home.sound]⟩, ← home.flags]
    rfl

end

/-- What the test leaves: TOTAL, AT_HOME and LOST, with QDONE set where it was or where they settle. -/
structure HomeTested (s t : State) (c : BitVec 16) : Prop where
  sound : HomeSound t c
  frame : AtHome s t
  words : ∀ j, j ≤ 16 → recordWord t c j = recordWord s c j
  done : qdone t c = true ↔ qdone s c = true ∨ atHomeOf s c + lostOf s c = totalOf s c

theorem homeTested_quiesceTest {s : State} {c : BitVec 16} (home : HomeSound s c) : HomeTested s (quiesceTest s c) c := by
  by_cases raise : atHomeOf s c + lostOf s c = totalOf s c ∧ qdone s c = false
  · obtain ⟨full, fresh⟩ := raise
    obtain ⟨u, at_, sound, words, flags, e⟩ := quiesceTest_raised home full fresh
    have low := (not_congr home.qdone_iff).mp (by simp [fresh])
    have high : recordWord u c 24 / 2 ^ 17 % 2 = 1 := by omega
    have both (v : Event) : HomeTested s (emit u v) c := ⟨sound.emit v, at_.emit v, words,
      iff_of_true ((sound.emit v).qdone_iff.mpr high) (.inr full)⟩
    rw [e]
    split
    · exact both _
    · exact both _
  · rw [quiesceTest_rest raise]
    refine ⟨home, .refl s, fun _ _ => rfl, ⟨.inl, ?_⟩⟩
    rintro (done | full)
    · exact done
    · simpa [full] using raise

section
variable {s t : State} {c : BitVec 16} (home : HomeSound s c) (test : HomeTested s t c)
include home test

theorem HomeTested.total : totalOf t c = totalOf s c := by rw [test.sound.total, home.total, test.words 0 (by decide)]
theorem HomeTested.atHome : atHomeOf t c = atHomeOf s c := by rw [test.sound.atHome, home.atHome, test.words 8 (by decide)]
theorem HomeTested.lost : lostOf t c = lostOf s c := by rw [test.sound.lost, home.lost, test.words 16 (by decide)]

end

/-! ### Each update -/

section
variable {s : State} {c : BitVec 16} (home : HomeSound s c)
include home

/-- The fields after a write of one of them. -/
theorem word_setHome {k j : Nat} (v : Nat) (hk : k % 8 = 0) (hj : j % 8 = 0) :
    recordWord (setHome s c k v) c j = if k = j then v % 2 ^ 64 else recordWord s c j := by
  split
  · subst j
    exact word_setHome_same home k v
  · exact word_setHome_other home (by omega)

theorem total_setHome {k : Nat} (v : Nat) (hk : k % 8 = 0) :
    totalOf (setHome s c k v) c = if k = 0 then v % 2 ^ 48 else totalOf s c := by
  rw [(home.setHome k v).total, word_setHome home v hk (by decide), home.total]
  split <;> omega

theorem units_setHome {k : Nat} (v : Nat) (hk : k % 8 = 0) :
    atHomeOf (setHome s c k v) c = if k = 8 then v % 2 ^ 48 else atHomeOf s c := by
  rw [(home.setHome k v).atHome, word_setHome home v hk (by decide), home.atHome]
  split <;> omega

theorem lost_setHome {k : Nat} (v : Nat) (hk : k % 8 = 0) :
    lostOf (setHome s c k v) c = if k = 16 then v % 2 ^ 48 else lostOf s c := by
  rw [(home.setHome k v).lost, word_setHome home v hk (by decide), home.lost]
  split <;> omega

theorem flags_setHome {k : Nat} (v : Nat) (hk : k % 8 = 0) :
    homeFlags (setHome s c k v) c = if k = 24 then v % 2 ^ 64 else homeFlags s c := by
  rw [(home.setHome k v).flags, word_setHome home v hk (by decide), home.flags]

theorem qdone_setHome {k : Nat} (v : Nat) (hk : k % 8 = 0) (other : k ≠ 24) :
    qdone (setHome s c k v) c = qdone s c := by
  rw [qdone, flags_setHome home v hk, if_neg other, qdone]

/-- A return adds to AT_HOME. -/
theorem returnWeight_fields (w : Nat) : let t := returnWeight s c w
    atHomeOf t c = (atHomeOf s c + w) % 2 ^ 48 ∧ lostOf t c = lostOf s c ∧ totalOf t c = totalOf s c ∧
      (qdone t c = true ↔ qdone s c = true ∨ atHomeOf t c + lostOf t c = totalOf t c) := by
  have changed := home.setHome 8 ((atHomeOf s c + w) % 2 ^ 48)
  have test : HomeTested _ (returnWeight s c w) c := homeTested_quiesceTest changed
  intro t
  rw [test.total changed, test.atHome changed, test.lost changed, test.done, qdone_setHome home _ (by decide) (by decide),
    total_setHome home _ (by decide), units_setHome home _ (by decide), lost_setHome home _ (by decide)]
  exact ⟨Nat.mod_mod .., rfl, rfl, Iff.rfl⟩

/-- A write-off adds to LOST. -/
theorem writeOffWeight_fields (w : Nat) : let t := writeOffWeight s c w
    lostOf t c = (lostOf s c + w) % 2 ^ 48 ∧ atHomeOf t c = atHomeOf s c ∧ totalOf t c = totalOf s c ∧
      (qdone t c = true ↔ qdone s c = true ∨ atHomeOf t c + lostOf t c = totalOf t c) := by
  have changed := home.setHome 16 ((lostOf s c + w) % 2 ^ 48)
  have test : HomeTested _ (writeOffWeight s c w) c := homeTested_quiesceTest changed
  intro t
  rw [test.total changed, test.atHome changed, test.lost changed, test.done, qdone_setHome home _ (by decide) (by decide),
    total_setHome home _ (by decide), units_setHome home _ (by decide), lost_setHome home _ (by decide)]
  exact ⟨Nat.mod_mod .., rfl, rfl, Iff.rfl⟩

/-- A grant adds to TOTAL. -/
theorem mintWeight_some {w : Nat} (room : totalOf s c + w < 2 ^ 48) : ∃ t, mintWeight s c w = some t ∧
    totalOf t c = totalOf s c + w ∧ atHomeOf t c = atHomeOf s c ∧ lostOf t c = lostOf s c ∧ AtHome s t := by
  have changed := home.setHome 0 (totalOf s c + w)
  have test := homeTested_quiesceTest changed
  refine ⟨_, if_pos ⟨room, by simp [home.sound]⟩, ?_, ?_, ?_, (atHome_setHome home ..).trans test.frame⟩
  · rw [test.total changed, total_setHome home _ (by decide), if_pos rfl, Nat.mod_eq_of_lt room]
  · rw [test.atHome changed, units_setHome home _ (by decide), if_neg (by decide)]
  · rw [test.lost changed, lost_setHome home _ (by decide), if_neg (by decide)]

theorem weightGrant_run {h : HartId} {k : W} {op : IssueMark} (room : totalOf s c + k.toNat < 2 ^ 48) :
    ∃ t, mintWeight s c k.toNat = some t ∧ totalOf t c = totalOf s c + k.toNat ∧ atHomeOf t c = atHomeOf s c ∧
      lostOf t c = lostOf s c ∧ exec (.weightGrant h c k op) s = .next (emit t (.messageArrival (agentOf h)
        ⟨c, 1, homeAgent s c, k.setWidth 48, [k], .plain, 3⟩)) := by
  obtain ⟨t, mint, total, units, lost, -⟩ := mintWeight_some home room
  refine ⟨t, mint, total, units, lost, ?_⟩
  change execWeightGrant h c k op s = _
  rw [execWeightGrant, mint, ← ofNat_toNat_setWidth]
  rfl

theorem weightGrant_full {h : HartId} {k : W} {op : IssueMark} (full : 2 ^ 48 ≤ totalOf s c + k.toNat) :
    exec (.weightGrant h c k op) s = .next (emit s (.lateFault h .weightOverflow (operationInfo 2 true (k.setWidth 55)) op)) := by
  have none : mintWeight s c k.toNat = none := if_neg fun h => absurd h.1 (by omega)
  change execWeightGrant h c k op s = _
  rw [execWeightGrant, none, ← ofNat_toNat_setWidth]
  dsimp only
  rw [home.sound]
  exact congrArg (fun i => Host.Outcome.next (emit s (.lateFault h .weightOverflow i op)))
    (opInfo_eq_operationInfo (BitVec.ofNat 8 2) _ true)

/-- The word that arming writes. -/
theorem arm_eq (core : BitVec 12) : exec (.homeWeightUpdate (.arm c core)) s =
    let t := setHome s c 24 (b1 (qdone s c) * 2 ^ 17 + 2 ^ 16 + core.toNat)
    .next (if qdone s c then emit t (.messageArrival core.toNat (quiesceMsg t c)) else quiesceTest t c) := by
  change execHomeWeightUpdate (.arm c core) s = _
  rw [execHomeWeightUpdate]
  dsimp only
  rw [home.sound]
  rfl

theorem arm_done {core : BitVec 12} (done : qdone s c = true) : ∃ t u, exec (.homeWeightUpdate (.arm c core)) s =
      .next (emit t (.messageArrival core.toNat u)) ∧ u.channel = 0 ∧ u.weight = 0 ∧
    homeFlags t c = 2 ^ 17 + 2 ^ 16 + core.toNat ∧ totalOf t c = totalOf s c := by
  have small := core.isLt
  let t := setHome s c 24 (b1 (qdone s c) * 2 ^ 17 + 2 ^ 16 + core.toNat)
  refine ⟨t, quiesceMsg t c, ?_, rfl, rfl, ?_, ?_⟩
  · rw [arm_eq home]
    exact congrArg Host.Outcome.next (if_pos done)
  · rw [flags_setHome home _ (by decide), if_pos rfl, done]
    simp only [b1, if_true]
    omega
  · rw [total_setHome home _ (by decide), if_neg (by decide)]

section
variable {core : BitVec 12} (open_ : qdone s c = false)
include open_

omit open_ in
/-- The record that names an armed core, before the test. -/
theorem armed_fields : let t := setHome s c 24 (2 ^ 16 + core.toNat)
    homeFlags t c = 2 ^ 16 + core.toNat ∧ qdone t c = false ∧ totalOf t c = totalOf s c ∧ atHomeOf t c = atHomeOf s c ∧
      lostOf t c = lostOf s c := by
  have small := core.isLt
  have flags : homeFlags (setHome s c 24 (2 ^ 16 + core.toNat)) c = 2 ^ 16 + core.toNat := by
    rw [flags_setHome home _ (by decide), if_pos rfl]
    omega
  refine ⟨flags, ?_, ?_, ?_, ?_⟩
  · rw [qdone, flags, bitOf_false]
    omega
  · rw [total_setHome home _ (by decide), if_neg (by decide)]
  · rw [units_setHome home _ (by decide), if_neg (by decide)]
  · rw [lost_setHome home _ (by decide), if_neg (by decide)]

theorem arm_open : exec (.homeWeightUpdate (.arm c core)) s =
    .next (quiesceTest (setHome s c 24 (2 ^ 16 + core.toNat)) c) := by
  rw [arm_eq home, open_]
  simp only [b1, Bool.false_eq_true, if_false, Nat.zero_mul, Nat.zero_add]

omit open_ in
/-- A field written sends no message. -/
theorem arrivals_setHome {k v a : Nat} {m : Msg} (h : .messageArrival a m ∈ (setHome s c k v).events) :
    .messageArrival a m ∈ s.events := by
  rw [setHome_eq home] at h
  obtain ⟨_, _, _, hit, kick, e, fires, kicks⟩ := homeWrite_eq s (canonPa (homeRecord s c) + k) (natBytes 8 v)
  rw [e] at h
  simp only [List.mem_append] at h
  rcases h with (h | h) | h
  · obtain ⟨_, _, e⟩ := kicks _ h
    cases e
  · exact h
  · obtain ⟨_, e⟩ := fires _ h
    cases e

theorem arm_waits (unsettled : atHomeOf s c + lostOf s c ≠ totalOf s c) :
    exec (.homeWeightUpdate (.arm c core)) s = .next (setHome s c 24 (2 ^ 16 + core.toNat)) := by
  obtain ⟨-, -, total, units, lost⟩ := armed_fields (core := core) home
  rw [arm_open home open_, quiesceTest_rest]
  rw [total, units, lost]
  exact fun h => unsettled h.1

theorem arm_raises (full : atHomeOf s c + lostOf s c = totalOf s c) : ∃ t u, exec (.homeWeightUpdate (.arm c core)) s =
      .next (emit t (.messageArrival core.toNat u)) ∧ u.channel = 0 ∧ u.weight = 0 ∧
    homeFlags t c = 2 ^ 17 + 2 ^ 16 + core.toNat ∧ totalOf t c = totalOf s c := by
  have small := core.isLt
  have armed := home.setHome 24 (2 ^ 16 + core.toNat)
  obtain ⟨flags, fresh, total, units, lost⟩ := armed_fields (core := core) home
  obtain ⟨u, -, sound, words, word, e⟩ := quiesceTest_raised armed (by rw [total, units, lost, full]) fresh
  refine ⟨u, quiesceMsg u c, ?_, rfl, rfl, ?_, ?_⟩
  · rw [arm_open home open_, e, flags, if_pos (bitOf_true.mpr (by omega)), show (2 ^ 16 + core.toNat) % 2 ^ 12 = core.toNat by omega]
  · rw [sound.flags, word, ← armed.flags, flags]
    omega
  · rw [sound.total, words 0 (by decide), ← armed.total, total]

end

end

/-! ### A record with uncorrectable data (R344) -/

/-- TINFO of an access at an address, of which it keeps 56 bits. -/
theorem memInfo_ofNat (reason : BitVec 4) (kind : BitVec 3) (va : Nat) (late : Bool) :
    memInfo reason.toNat kind.toNat va late = accessInfo reason late kind (BitVec.ofNat 56 va) := by
  rw [← memInfo_eq_accessInfo, memInfo, memInfo, BitVec.toNat_ofNat, Nat.mod_mod]

section
variable {s : State} {c : BitVec 16} (bad : homePoisoned s c = true)
include bad

theorem quiesceTest_poisoned : quiesceTest s c = s := if_neg fun ⟨_, _, sound⟩ => by simp [bad] at sound

theorem setHome_poisoned (k v : Nat) : setHome s c k v = s := if_pos bad

theorem weightUpdate_poisoned {w : Nat} {core : BitVec 12} {u : WeightUpd} (mem : u ∈ [WeightUpd.ret c w, .writeOff c w, .arm c core]) :
    exec (.homeWeightUpdate u) s = .next s := by
  change execHomeWeightUpdate u s = _
  simp only [List.mem_cons, List.not_mem_nil, or_false] at mem
  rcases mem with rfl | rfl | rfl
  · exact congrArg Host.Outcome.next (by rw [returnWeight, setHome_poisoned bad, quiesceTest_poisoned bad])
  · exact congrArg Host.Outcome.next (by rw [writeOffWeight, setHome_poisoned bad, quiesceTest_poisoned bad])
  · exact if_pos bad

theorem weightGrant_poisoned (h : HartId) (k : W) (op : IssueMark) : exec (.weightGrant h c k op) s =
    .next (emit s (.lateFault h .memerr (accessInfo 0 true 2 (BitVec.ofNat 56 (homeRecord s c))) op)) := by
  have none : mintWeight s c k.toNat = none := if_neg fun h => by simp [bad] at h
  change execWeightGrant h c k op s = _
  rw [execWeightGrant, none]
  dsimp only
  rw [if_pos bad, ← memInfo_ofNat]
  rfl

end

/-! ### The words about weight -/

section
variable (x : A1) {s s1 : State} {k : W} (may : MayCommit s) (reads : Reads s x.a k s1)
include may reads

theorem wborrow_run (some_ : k ≠ 0) (fits : k.toNat < 2 ^ 48) (weight : s1.cur.wcur ≠ 0) :
    exec (.wborrow x) s = .next (committed x.st (emit { s1 with tags := s1.tags + 1 }
      (.weightGrant s1.turn s1.cur.ctx k ⟨s1.cur.gpc, s1.tags⟩))) :=
  runOp_ok ((bind_of_gives (commitPlace_run _ may)).trans ((bind_of_gives reads).trans
    ((bind_of_gives (require_true (by simpa using some_) ..)).trans
      ((bind_of_gives (require_true (by simpa using fits) ..)).trans ((bind_of_gives (curSlot_run s1)).trans
        ((bind_of_gives (require_true (by simpa using weight) ..)).trans rfl))))))

section
variable (settled : s.cur.launches = 0)
include settled

theorem wborrow_zero (none : k = 0) : exec (.wborrow x) s = .next (trapped .weightFine (operationInfo 4 false 0) s) :=
  runOp_trapped settled ((bind_of_gives (commitPlace_run _ may)).trans ((bind_of_gives reads).trans
    (bind_of_error (require_false (by simpa using none) ..))))

theorem wborrow_large (large : 2 ^ 48 ≤ k.toNat) :
    exec (.wborrow x) s = .next (trapped .weightOverflow (operationInfo 1 false (k.setWidth 55)) s) := by
  have some_ : k ≠ 0 := by
    rintro rfl
    exact absurd large (by decide)
  refine runOp_trapped settled ((bind_of_gives (commitPlace_run _ may)).trans ((bind_of_gives reads).trans
    ((bind_of_gives (require_true (by simpa using some_) ..)).trans
      (bind_of_error ((require_false (decide_eq_false (by omega)) ..).trans ?_)))))
  rw [← ofNat_toNat_setWidth]
  exact congrArg (fun i => Except.error (Stop.trap .weightOverflow i)) (opInfo_eq_operationInfo (BitVec.ofNat 8 1) _ false)

theorem wborrow_bare (some_ : k ≠ 0) (fits : k.toNat < 2 ^ 48) (bare : s1.cur.wcur = 0) :
    exec (.wborrow x) s = .next (trapped .weightFine (operationInfo 3 false 0) s) :=
  runOp_trapped settled ((bind_of_gives (commitPlace_run _ may)).trans ((bind_of_gives reads).trans
    ((bind_of_gives (require_true (by simpa using some_) ..)).trans
      ((bind_of_gives (require_true (by simpa using fits) ..)).trans ((bind_of_gives (curSlot_run s1)).trans
        (bind_of_error (require_false (by simpa using bare) ..)))))))

end

/-- QARM names a core that holds the context. -/
theorem qarm_run (holds : placementOf s1 (k.toNat % 4096) s1.cur.ctx ≠ none) : exec (.qarm x) s =
    .next (committed x.st (emit s1 (.homeWeightUpdate (.arm s1.cur.ctx (BitVec.ofNat 12 (k.toNat % 4096)))))) :=
  runOp_ok ((bind_of_gives (commitPlace_run _ may)).trans ((bind_of_gives reads).trans ((bind_of_gives (get_run s1)).trans
    ((bind_of_gives (require_true (by simpa [Option.isSome_iff_ne_none] using holds) ..)).trans rfl))))

theorem qarm_trap (settled : s.cur.launches = 0) (gone : placementOf s1 (k.toNat % 4096) s1.cur.ctx = none) :
    exec (.qarm x) s = .next (trapped .protect (operationInfo 17 false (k.setWidth 55)) s) := by
  refine runOp_trapped settled ((bind_of_gives (commitPlace_run _ may)).trans ((bind_of_gives reads).trans
    ((bind_of_gives (get_run s1)).trans (bind_of_error ((require_false (by simp [gone]) ..).trans ?_)))))
  rw [← ofNat_toNat_setWidth]
  exact congrArg (fun i => Except.error (Stop.trap .protect i)) (opInfo_eq_operationInfo (BitVec.ofNat 8 17) _ false)

end

/-- The field of the home record that a query names. -/
def queriedField (s : State) (c : BitVec 16) (field : Nat) : Nat :=
  match field with
  | 0 => totalOf s c
  | 1 => atHomeOf s c
  | 2 => lostOf s c
  | _ => homeFlags s c

section
variable (x : RR) {s s1 t : State} {a : W} (reads : Reads s x.a a s1)
include reads

theorem wquery_run (sound : homePoisoned s1 s1.cur.ctx = false)
    (now : ProducesNow s1 x.d (BitVec.ofNat 64 (queriedField s1 s1.cur.ctx (a.toNat % 4))) t) :
    exec (.wquery x) s = .next (issued x.st t) :=
  runOp_ok ((bind_of_gives reads).trans ((bind_of_gives (get_run s1)).trans
    ((bind_of_gives (require_true (by simp [sound]) ..)).trans ((bind_of_gives now).trans (finish_run ..)))))

theorem wquery_trap (bad : homePoisoned s1 s1.cur.ctx = true) (settled : s.cur.launches = 0) : exec (.wquery x) s =
    .next (trapped .memerr (accessInfo 0 false 0 (BitVec.ofNat 56 (homeRecord s1 s1.cur.ctx))) s) := by
  refine runOp_trapped settled ((bind_of_gives reads).trans ((bind_of_gives (get_run s1)).trans
    (bind_of_error ((require_false (by simp [bad]) ..).trans ?_))))
  rw [← memInfo_ofNat]
  rfl

end

/-! ### Returns on their way home (R237) -/

/-- A flush with nothing of the regions on its way sends every return that the core holds. -/
theorem flush_run {core : Nat} {s : State} (idle : (coreOf s core).pubs = [])
    (none : ∀ u, .updateApply u ∉ s.events ∧ .updateLogWrite u ∉ s.events) :
    let held := (coreOf s core).returns
    exec (.returnCombineFlush core) s = .next { setCore s core { coreOf s core with returns := [] } with
      events := s.events ++ ((held.map (·.1)).dedup).map fun c =>
        .homeWeightUpdate (.ret c ((held.filter fun r => r.1 == c).map (·.2)).sum) } := by
  intro held
  have free (c : BitVec 16) : execReturnCombineFlush.blocked core s c = false := by
    rw [execReturnCombineFlush.blocked, idle, List.any_nil, Bool.false_or, List.any_eq_false]
    intro e there
    cases e
    case updateApply u => exact absurd there (none u).1
    case updateLogWrite u => exact absurd there (none u).2
    all_goals simp
  change execReturnCombineFlush core s = _
  unfold execReturnCombineFlush
  simp only [free, Bool.not_false, List.filter_true, List.filter_false, List.sum_eq_foldl]
  rfl

/-- Settles O42: every update is a write of one field followed by the test, read back field by field. -/
theorem weightAtItsHome : Obligations.WeightAtItsHome := by
  unfold Obligations.WeightAtItsHome
  refine ⟨fun c w s canonical aligned sound apart => ?sound, fun c w core h k op s bad => ⟨fun u mem => weightUpdate_poisoned bad mem,
    weightGrant_poisoned bad h k op⟩, fun x s s1 k may reads => ⟨wborrow_run x may reads, fun settled =>
      ⟨wborrow_zero x may reads settled, wborrow_large x may reads settled, wborrow_bare x may reads settled⟩⟩,
    fun x s s1 t a v reads value => ⟨fun sound now => ?query, fun bad settled => wquery_trap x reads bad settled⟩,
    fun x s s1 a may reads => ⟨qarm_run x may reads, fun gone settled => qarm_trap x may reads settled gone⟩,
    fun core s idle none => ?flush⟩
  case sound =>
    have home : HomeSound s c := ⟨canonical, aligned, sound, apart⟩
    refine ⟨⟨_, rfl, returnWeight_fields home w⟩, ⟨_, rfl, writeOffWeight_fields home w⟩,
      fun h k op => ⟨fun room => weightGrant_run home room, fun full => weightGrant_full home full⟩,
      fun core done => arm_done home done, fun core fresh => ⟨fun unsettled => ?_, fun full => arm_raises home fresh full⟩⟩
    obtain ⟨flags, open_, total, units, lost⟩ := armed_fields (core := core) home
    exact ⟨_, arm_waits home fresh unsettled, flags, open_, total, units, lost, fun k m h => arrivals_setHome home h⟩
  case query =>
    refine wquery_run x reads sound ?_
    rw [value] at now
    exact now
  case flush =>
    intro held
    refine ⟨_, flush_run idle none, ?_, rfl, (held.map (·.1)).dedup, List.nodup_dedup _, fun c => ?_, rfl⟩
    · exact congrArg Core.returns (coreOf_setCore_self ..)
    · simp

end Sys2Proof.Machine
end

section
/-!
PROOF. O43 fails: a core's look for work walks the root that its placement holds (log entry 122), and the statement has the
report of a malformed entry name the dispatcher's.
-/
namespace Sys2Proof.Machine

/-- A placement of context 1 with its root table at 0x400000. -/
def strayPlacement : Placement where
  ctx := 1
  partw := 0
  pbase := 0
  htab := []
  ptab := 0
  nphase := 0
  sdef := 0
  seed := 0
  root := 0x400000
  coords := []
  exts := []
  mcount := 1
  member := 0
  group := 0
  gidx := 0
  gcores := 1
  savedH := none
  savedL := none
  absent := false
  spilled := []
  logged := []
  heldCh := []
  stage := false

/-- The module with that placement on core 0, whose slots are empty; the dispatcher holds 0x200000 as the context's root, and the
entry of the placement's root for the ready queue at 0x5000 is malformed. -/
def strayRoot : State := { State.reset with
  ctxs := [(1, newCtx 0 0x200000 0x300000 0x6000 { recordOfBytes (List.replicate 128 0) with readyq := 0x5000 })]
  cores := [(0, { Core.reset with placements := [strayPlacement] })]
  mem := memWrite [] 0x400000 (natBytes 8 (2 ^ 63 + 2 ^ 52)) }

/-- The look of the empty slots meets the malformed entry, once. -/
theorem strayRoot_looks : badLooks strayRoot 0 = [(1, 0x5000)] := by decide

/-- It is reported with the placement's root. -/
theorem strayRoot_events : (noteLooks strayRoot 0).events = [.pageWalk 0 1 0x400000 0x5000] := by decide

theorem strayRoot_ctxRoot : ctxRoot strayRoot 1 = 0x200000 := by decide

/-- Refutes O43: in `strayRoot` the core's look for work reports its malformed entry with the placement's root, 0x400000, where
the statement (its third part) has the dispatcher's, 0x200000. -/
theorem not_strandsStartAndResume : ¬ Obligations.StrandsStartAndResume := by
  unfold Obligations.StrandsStartAndResume
  rintro ⟨-, -, looks, -⟩
  obtain ⟨-, events, -⟩ := looks strayRoot 0
  rw [strayRoot_events, strayRoot_looks] at events
  have reported : [Event.pageWalk 0 1 0x400000 0x5000] = [Event.pageWalk 0 1 (ctxRoot strayRoot 1) 0x5000] := events
  rw [strayRoot_ctxRoot] at reported
  exact absurd reported (by decide)

end Sys2Proof.Machine
end

section
/-!
PROOF. Words and what they encode (O60, O57).
-/
namespace Sys2Proof

/-! ### A word is its fields (R42) -/

theorem bits_26_6 (w : Word32) : bits w 26 6 = major w := rfl

/-- Words that agree on fields which cover all 32 bits are one word. -/
theorem word_ext {w v : Word32} (cuts : List (Nat × Nat))
    (cover : ∀ i < 32, ∃ c ∈ cuts, c.1 ≤ i ∧ i < c.1 + c.2)
    (same : ∀ c ∈ cuts, bits w c.1 c.2 = bits v c.1 c.2) : w = v := by
  refine BitVec.eq_of_getLsbD_eq fun i hi => ?_
  obtain ⟨c, mem, low, high⟩ := cover i hi
  have bit : (bits w c.1 c.2).getLsbD (i - c.1) = (bits v c.1 c.2).getLsbD (i - c.1) := by rw [same c mem]
  have inside : i - c.1 < c.2 := by omega
  simpa [bits, inside, Nat.add_sub_cancel' low] using bit

/-! ### A word rebuilt from the fields its form reads -/

/-- The fields of the T form: major, STALL, D, A, B, F (R42). -/
def fieldsT : List (Nat × Nat) := [(26, 6), (23, 3), (18, 5), (13, 5), (8, 5), (0, 8)]

/-- The fields of the X form: major, STALL, D, A, B, C, FN (R42). -/
def fieldsX : List (Nat × Nat) := [(26, 6), (23, 3), (18, 5), (13, 5), (8, 5), (3, 5), (0, 3)]

/-- A form with unused fields is read only where they are zero. -/
theorem checked_ok {F : Type} {unused : Prop} [Decidable unused] {e : DecodeError} {y x : F}
    (h : (if unused then Except.ok y else .error e) = .ok x) : unused ∧ y = x := by
  split at h
  next zero => exact ⟨zero, Except.ok.inj h⟩
  next => cases h

section
variable {w : Word32} {maj : BitVec 6} (hm : major w = maj)
include hm

theorem rebuild_RRR {x : RRR} {fn : BitVec 8} (hf : bits w 0 8 = fn)
    (h : RRR.ofWord w = .ok x) : x.toWord maj fn = w := by
  cases h
  exact word_ext fieldsT (by decide) (by simp [fieldsT, bits_26_6, hm, hf])

theorem rebuild_RR {x : RR} {fn : BitVec 8} (hf : bits w 0 8 = fn) (h : RR.ofWord w = .ok x) : x.toWord maj fn = w := by
  obtain ⟨zero, rfl⟩ := checked_ok h
  exact word_ext fieldsT (by decide) (by simp [fieldsT, bits_26_6, hm, hf, zero])

theorem rebuild_AB {x : AB} {fn : BitVec 8} (hf : bits w 0 8 = fn) (h : AB.ofWord w = .ok x) : x.toWord maj fn = w := by
  obtain ⟨zero, rfl⟩ := checked_ok h
  exact word_ext fieldsT (by decide) (by simp [fieldsT, bits_26_6, hm, hf, zero])

theorem rebuild_A1 {x : A1} {fn : BitVec 8} (hf : bits w 0 8 = fn) (h : A1.ofWord w = .ok x) : x.toWord maj fn = w := by
  obtain ⟨zero, rfl⟩ := checked_ok h
  exact word_ext fieldsT (by decide) (by simp [fieldsT, bits_26_6, hm, hf, zero])

theorem rebuild_B1 {x : B1} {fn : BitVec 8} (hf : bits w 0 8 = fn) (h : B1.ofWord w = .ok x) : x.toWord maj fn = w := by
  obtain ⟨zero, rfl⟩ := checked_ok h
  exact word_ext fieldsT (by decide) (by simp [fieldsT, bits_26_6, hm, hf, zero])

theorem rebuild_D1 {x : D1} {fn : BitVec 8} (hf : bits w 0 8 = fn) (h : D1.ofWord w = .ok x) : x.toWord maj fn = w := by
  obtain ⟨zero, rfl⟩ := checked_ok h
  exact word_ext fieldsT (by decide) (by simp [fieldsT, bits_26_6, hm, hf, zero])

theorem rebuild_N0 {x : N0} {fn : BitVec 8} (hf : bits w 0 8 = fn) (h : N0.ofWord w = .ok x) : x.toWord maj fn = w := by
  obtain ⟨zero, rfl⟩ := checked_ok h
  exact word_ext fieldsT (by decide) (by simp [fieldsT, bits_26_6, hm, hf, zero])

theorem rebuild_RI {x : RI} (h : RI.ofWord w = .ok x) : x.toWord maj = w := by
  cases h
  exact word_ext [(26, 6), (23, 3), (18, 5), (13, 5), (0, 13)] (by decide) (by simp [bits_26_6, hm])

theorem rebuild_DI {x : DI} (h : DI.ofWord w = .ok x) : x.toWord maj = w := by
  obtain ⟨zero, rfl⟩ := checked_ok h
  exact word_ext [(26, 6), (23, 3), (18, 5), (13, 5), (0, 13)] (by decide)
    (by simp [bits_26_6, hm, zero])

theorem rebuild_Mem {x : Mem} (h : Mem.ofWord w = .ok x) : x.toWord maj = w := by
  obtain ⟨zero, rfl⟩ := checked_ok h
  exact word_ext [(26, 6), (23, 3), (18, 5), (13, 5), (11, 2), (9, 2), (0, 9)] (by decide)
    (by simp [bits_26_6, hm, zero])

theorem rebuild_MemS {x : MemS} (h : MemS.ofWord w = .ok x) : x.toWord maj = w := by
  cases h
  exact word_ext [(26, 6), (23, 3), (18, 5), (13, 5), (11, 2), (9, 2), (0, 9)] (by decide) (by simp [bits_26_6, hm])

theorem rebuild_RRRR {x : RRRR} {fn : BitVec 3} (hf : bits w 0 3 = fn)
    (h : RRRR.ofWord w = .ok x) : x.toWord maj fn = w := by
  cases h
  exact word_ext fieldsX (by decide) (by simp [fieldsX, bits_26_6, hm, hf])

theorem rebuild_ABC {x : ABC} {fn : BitVec 3} (hf : bits w 0 3 = fn) (h : ABC.ofWord w = .ok x) : x.toWord maj fn = w := by
  obtain ⟨zero, rfl⟩ := checked_ok h
  exact word_ext fieldsX (by decide) (by simp [fieldsX, bits_26_6, hm, hf, zero])

theorem rebuild_RAC {x : RAC} {fn : BitVec 3} (hf : bits w 0 3 = fn) (h : RAC.ofWord w = .ok x) : x.toWord maj fn = w := by
  obtain ⟨zero, rfl⟩ := checked_ok h
  exact word_ext fieldsX (by decide) (by simp [fieldsX, bits_26_6, hm, hf, zero])

theorem rebuild_BitF {x : BitF} (h : BitF.ofWord w = .ok x) : x.toWord maj = w := by
  cases h
  exact word_ext [(26, 6), (23, 3), (18, 5), (13, 5), (6, 7), (0, 6)] (by decide) (by simp [bits_26_6, hm])

theorem rebuild_Br {x : Br} {fn : BitVec 3} (hf : bits w 20 3 = fn)
    (h : Br.ofWord w = .ok x) : x.toWord maj fn = w := by
  cases h
  exact word_ext [(26, 6), (23, 3), (20, 3), (19, 1), (14, 5), (9, 5), (0, 9)] (by decide) (by simp [bits_26_6, hm, hf])

theorem rebuild_BrL {x : BrL} {fn : BitVec 3} (hf : bits w 20 3 = fn)
    (h : BrL.ofWord w = .ok x) : x.toWord maj fn = w := by
  cases h
  exact word_ext [(26, 6), (23, 3), (20, 3), (0, 20)] (by decide) (by simp [bits_26_6, hm, hf])

theorem rebuild_Rep {x : Rep} (hf : bits w 6 2 = 1) (h : Rep.ofWord w = .ok x) : x.toWord maj = w := by
  obtain ⟨zero, rfl⟩ := checked_ok h
  exact word_ext [(26, 6), (23, 3), (18, 5), (13, 5), (8, 5), (6, 2), (0, 6)] (by decide)
    (by simp [bits_26_6, hm, hf, zero])

theorem rebuild_FRRR {x : FRRR} {fn : BitVec 6} (hf : bits w 0 6 = fn)
    (h : FRRR.ofWord w = .ok x) : x.toWord maj fn = w := by
  cases h
  exact word_ext [(26, 6), (23, 3), (18, 5), (13, 5), (8, 5), (6, 2), (0, 6)] (by decide) (by simp [bits_26_6, hm, hf])

theorem rebuild_FRR {x : FRR} {fn : BitVec 6} (hf : bits w 0 6 = fn) (h : FRR.ofWord w = .ok x) : x.toWord maj fn = w := by
  obtain ⟨zero, rfl⟩ := checked_ok h
  exact word_ext [(26, 6), (23, 3), (18, 5), (13, 5), (8, 5), (6, 2), (0, 6)] (by decide)
    (by simp [bits_26_6, hm, hf, zero])

theorem rebuild_FX {x : FX} {fn : BitVec 2} (hf : bits w 1 2 = fn) (h : FX.ofWord w = .ok x) : x.toWord maj fn = w := by
  cases h
  exact word_ext [(26, 6), (23, 3), (18, 5), (13, 5), (8, 5), (3, 5), (1, 2), (0, 1)] (by decide)
    (by simp [bits_26_6, hm, hf])

theorem rebuild_Cvt {x : Cvt} {fn : BitVec 2} (hf : bits w 6 2 = fn) (h : Cvt.ofWord w = .ok x) : x.toWord maj fn = w := by
  obtain ⟨zero, rfl⟩ := checked_ok h
  exact word_ext [(26, 6), (23, 3), (18, 5), (13, 5), (8, 5), (6, 2), (3, 3), (0, 3)] (by decide)
    (by simp [bits_26_6, hm, hf, zero])

theorem rebuild_RRRz {x : RRRz} {fn : BitVec 6} (hf : bits w 2 6 = fn)
    (h : RRRz.ofWord w = .ok x) : x.toWord maj fn = w := by
  cases h
  exact word_ext [(26, 6), (23, 3), (18, 5), (13, 5), (8, 5), (2, 6), (0, 2)] (by decide) (by simp [bits_26_6, hm, hf])

theorem rebuild_Sb {x : Sb} {fn : BitVec 6} (hf : bits w 2 6 = fn) (h : Sb.ofWord w = .ok x) : x.toWord maj fn = w := by
  obtain ⟨zero, rfl⟩ := checked_ok h
  exact word_ext [(26, 6), (23, 3), (18, 5), (13, 5), (8, 5), (2, 6), (0, 2)] (by decide)
    (by simp [bits_26_6, hm, hf, zero])

theorem rebuild_Sc {x : Sc} {fn : BitVec 6} (hf : bits w 2 6 = fn) (h : Sc.ofWord w = .ok x) : x.toWord maj fn = w := by
  obtain ⟨zero, rfl⟩ := checked_ok h
  exact word_ext [(26, 6), (23, 3), (18, 5), (13, 5), (8, 5), (2, 6), (0, 2)] (by decide)
    (by simp [bits_26_6, hm, hf, zero])

theorem rebuild_Sp {x : Sp} {fn : BitVec 6} (hf : bits w 2 6 = fn) (h : Sp.ofWord w = .ok x) : x.toWord maj fn = w := by
  obtain ⟨zero, rfl⟩ := checked_ok h
  exact word_ext [(26, 6), (23, 3), (18, 5), (13, 5), (8, 5), (2, 6), (0, 2)] (by decide)
    (by simp [bits_26_6, hm, hf, zero])

theorem rebuild_Amo {x : Amo} {fn : BitVec 4} (hf : bits w 0 4 = fn) (h : Amo.ofWord w = .ok x) : x.toWord maj fn = w := by
  obtain ⟨zero, rfl⟩ := checked_ok h
  exact word_ext [(26, 6), (23, 3), (18, 5), (13, 5), (8, 5), (5, 3), (4, 1), (0, 4)] (by decide)
    (by simp [bits_26_6, hm, hf, zero])

theorem rebuild_Xadd {x : Xadd} {fn : BitVec 5} (hf : bits w 3 5 = fn)
    (h : Xadd.ofWord w = .ok x) : x.toWord maj fn = w := by
  obtain ⟨zero, rfl⟩ := checked_ok h
  exact word_ext fieldsX (by decide) (by simp [fieldsX, bits_26_6, hm, hf, zero])

theorem rebuild_ABw {x : ABw} {fn : BitVec 7} (hf : bits w 1 7 = fn) (h : ABw.ofWord w = .ok x) : x.toWord maj fn = w := by
  obtain ⟨zero, rfl⟩ := checked_ok h
  exact word_ext [(26, 6), (23, 3), (18, 5), (13, 5), (8, 5), (1, 7), (0, 1)] (by decide)
    (by simp [bits_26_6, hm, hf, zero])

theorem rebuild_Xread {x : Xread} (hf : bits w 7 1 = 1) (h : Xread.ofWord w = .ok x) : x.toWord maj = w := by
  obtain ⟨zero, rfl⟩ := checked_ok h
  exact word_ext [(26, 6), (23, 3), (18, 5), (13, 5), (8, 5), (7, 1), (4, 3), (1, 3), (0, 1)] (by decide)
    (by simp [bits_26_6, hm, hf, zero])

theorem rebuild_Cas {x : Cas} {fn : BitVec 2} (hf : bits w 1 2 = fn)
    (h : Cas.ofWord w = .ok x) : x.toWord maj fn = w := by
  cases h
  exact word_ext [(26, 6), (23, 3), (18, 5), (13, 5), (8, 5), (3, 5), (1, 2), (0, 1)] (by decide)
    (by simp [bits_26_6, hm, hf])

theorem rebuild_ABe {x : ABe} {fn : BitVec 6} (hf : bits w 2 6 = fn) (h : ABe.ofWord w = .ok x) : x.toWord maj fn = w := by
  obtain ⟨zero, rfl⟩ := checked_ok h
  exact word_ext [(26, 6), (23, 3), (18, 5), (13, 5), (8, 5), (2, 6), (0, 2)] (by decide)
    (by simp [bits_26_6, hm, hf, zero])

theorem rebuild_CsrR {x : CsrR} {fn : BitVec 2} (hf : bits w 11 2 = fn)
    (h : CsrR.ofWord w = .ok x) : x.toWord maj fn = w := by
  obtain ⟨zero, rfl⟩ := checked_ok h
  exact word_ext [(26, 6), (23, 3), (18, 5), (13, 5), (11, 2), (0, 11)] (by decide)
    (by simp [bits_26_6, hm, hf, zero])

theorem rebuild_CsrW {x : CsrW} {fn : BitVec 2} (hf : bits w 11 2 = fn)
    (h : CsrW.ofWord w = .ok x) : x.toWord maj fn = w := by
  cases h
  exact word_ext [(26, 6), (23, 3), (18, 5), (13, 5), (11, 2), (0, 11)] (by decide) (by simp [bits_26_6, hm, hf])

theorem rebuild_ABs {x : ABs} {fn : BitVec 5} (hf : bits w 3 5 = fn) (h : ABs.ofWord w = .ok x) : x.toWord maj fn = w := by
  obtain ⟨zero, rfl⟩ := checked_ok h
  exact word_ext fieldsX (by decide) (by simp [fieldsX, bits_26_6, hm, hf, zero])

theorem rebuild_Fence {x : Fence} {fn : BitVec 1} (hf : bits w 7 1 = fn)
    (h : Fence.ofWord w = .ok x) : x.toWord maj fn = w := by
  obtain ⟨zero, rfl⟩ := checked_ok h
  exact word_ext [(26, 6), (23, 3), (18, 5), (13, 5), (8, 5), (7, 1), (4, 3), (0, 4)] (by decide)
    (by simp [bits_26_6, hm, hf, zero])

theorem rebuild_Vcmp {x : Vcmp} (h : Vcmp.ofWord w = .ok x) : x.toWord maj = w := by
  obtain ⟨zero, rfl⟩ := checked_ok h
  exact word_ext [(26, 6), (23, 3), (18, 5), (13, 5), (8, 5), (6, 2), (4, 2), (3, 1), (0, 3)] (by decide)
    (by simp [bits_26_6, hm, zero])

theorem rebuild_MmaN {x : MmaN} (h : MmaN.ofWord w = .ok x) : x.toWord maj = w := by
  cases h
  exact word_ext fieldsX (by decide) (by simp [fieldsX, bits_26_6, hm])

theorem rebuild_Ast {x : Ast} {fn : BitVec 8} (hf : bits w 0 8 = fn)
    (h : Ast.ofWord w = .ok x) : x.toWord maj fn = w := by
  cases h
  exact word_ext [(26, 6), (23, 3), (21, 2), (18, 3), (13, 5), (8, 5), (0, 8)] (by decide) (by simp [bits_26_6, hm, hf])

theorem rebuild_Hint {x : Hint} (h : Hint.ofWord w = .ok x) : x.toWord maj = w := by
  cases h
  exact word_ext [(26, 6), (0, 26)] (by decide) (by simp [bits_26_6, hm])

theorem rebuild_Modw {x : Modw} (h : Modw.ofWord w = .ok x) : x.toWord maj = w := by
  obtain ⟨zero, rfl⟩ := checked_ok h
  exact word_ext [(26, 6), (25, 1), (22, 3), (19, 3), (18, 1), (13, 5), (10, 3), (0, 10)] (by decide)
    (by simp [bits_26_6, hm, zero])

end

/-- Two neighbouring fields make one field. -/
theorem bits_append_bits {w : Word32} {hi lo m n : Nat} (next : hi = lo + n) :
    bits w hi m ++ bits w lo n = bits w lo (m + n) :=
  BitVec.extractLsb'_append_extractLsb'_eq_extractLsb' next

/-- A part of a field. -/
theorem bits_sub {w : Word32} {lo m k n : Nat} (inside : k + n ≤ m) :
    bits w (lo + k) n = (bits w lo m).extractLsb' k n := by
  ext i hi
  have : k + i < m := by omega
  simp [bits, this, Nat.add_assoc]

/-! ### What the decoder accepts encodes to the word (R72) -/

/-- An instruction that a decoder gives is one that the word encodes. -/
def Sound (w : Word32) (r : Except DecodeError Instr) : Prop := ∀ i, r = .ok i → encode i = some w

theorem sound_error (w : Word32) (e : DecodeError) : Sound w (.error e) := fun _ h => nomatch h

/-- A row of the opcode map is sound when the form that it reads rebuilds the word. -/
theorem sound_row {F : Type} {w : Word32} {read : Except DecodeError F} {c : F → Instr} {word : F → Word32}
    (row : ∀ x, encode (c x) = some (word x)) (rebuild : ∀ x, read = .ok x → word x = w) : Sound w (read.map c) := by
  cases read with
  | error e => exact sound_error _ _
  | ok x =>
    rintro _ ⟨⟩
    rw [row, rebuild x rfl]

theorem sound_decode01 {w : Word32} (hm : major w = 0x01#6) : Sound w (decode01 w) := by
  unfold decode01
  split
  iterate 22 next hf => exact sound_row (fun _ => rfl) fun _ => rebuild_RRR hm hf
  iterate 5 next hf => exact sound_row (fun _ => rfl) fun _ => rebuild_RR hm hf
  next => exact sound_error _ _

theorem sound_decode0C {w : Word32} (hm : major w = 0x0C#6) : Sound w (decode0C w) := by
  unfold decode0C
  split
  iterate 3 next hf => exact sound_row (fun _ => rfl) fun _ => rebuild_RRRR hm hf
  next => exact sound_error _ _

theorem sound_decode0D {w : Word32} (hm : major w = 0x0D#6) : Sound w (decode0D w) := by
  unfold decode0D
  split
  iterate 6 next hf => exact sound_row (fun _ => rfl) fun _ => rebuild_RRR hm hf
  next => exact sound_error _ _

theorem sound_decode10 {w : Word32} (hm : major w = 0x10#6) : Sound w (decode10 w) := by
  unfold decode10
  split
  iterate 6 next hf => exact sound_row (fun _ => rfl) fun _ => rebuild_Br hm hf
  next hf => exact sound_row (fun _ => rfl) fun _ => rebuild_BrL hm hf
  next => exact sound_error _ _

theorem sound_decode11 {w : Word32} (hm : major w = 0x11#6) : Sound w (decode11 w) := by
  unfold decode11
  split
  next hf => exact sound_row (fun _ => rfl) fun _ => rebuild_BrL hm hf
  next => exact sound_error _ _

theorem sound_decode12 {w : Word32} (hm : major w = 0x12#6) : Sound w (decode12 w) := by
  unfold decode12
  split
  next high =>
    have byte {n : BitVec 6} (low : bits w 0 6 = n) : bits w 0 8 = 0#2 ++ n := by
      rw [← high, ← low]
      exact (bits_append_bits (m := 2) (n := 6) rfl).symm
    split
    next hf => exact sound_row (fun _ => rfl) fun _ => rebuild_A1 hm (byte hf)
    iterate 2 next hf => exact sound_row (fun _ => rfl) fun _ => rebuild_N0 hm (byte hf)
    next => exact sound_error _ _
  next hf => exact sound_row (fun _ => rfl) fun _ => rebuild_Rep hm hf
  next => exact sound_error _ _

theorem sound_decode13 {w : Word32} (hm : major w = 0x13#6) : Sound w (decode13 w) := by
  unfold decode13
  split
  · split
    next low =>
      have byte : bits w 0 8 = 0x00#8 := by
        rw [show (0 : Nat) = 0 + 0 from rfl, bits_sub (m := 13) (by decide), low]
        rfl
      exact sound_row (fun _ => rfl) fun _ => rebuild_N0 hm byte
    next => exact sound_error _ _
  · exact sound_row (fun _ => rfl) fun _ => rebuild_DI hm

theorem sound_decode14 {w : Word32} (hm : major w = 0x14#6) : Sound w (decode14 w) := by
  unfold decode14
  split
  iterate 4 next hf => exact sound_row (fun _ => rfl) fun _ => rebuild_FRRR hm hf
  next hf => exact sound_row (fun _ => rfl) fun _ => rebuild_FRR hm hf
  iterate 4 next hf => exact sound_row (fun _ => rfl) fun _ => rebuild_FRRR hm hf
  iterate 2 next hf => exact sound_row (fun _ => rfl) fun _ => rebuild_FRR hm hf
  next hf => exact sound_row (fun _ => rfl) fun _ => rebuild_FRRR hm hf
  next hf => exact sound_row (fun _ => rfl) fun _ => rebuild_FRR hm hf
  next => exact sound_error _ _

theorem sound_decode15 {w : Word32} (hm : major w = 0x15#6) : Sound w (decode15 w) := by
  unfold decode15
  split
  iterate 3 next hf => exact sound_row (fun _ => rfl) fun _ => rebuild_FX hm hf
  next => exact sound_error _ _

theorem sound_decode16 {w : Word32} (hm : major w = 0x16#6) : Sound w (decode16 w) := by
  unfold decode16
  split
  iterate 3 next hf => exact sound_row (fun _ => rfl) fun _ => rebuild_Cvt hm hf
  next => exact sound_error _ _

theorem sound_decode17 {w : Word32} (hm : major w = 0x17#6) : Sound w (decode17 w) := by
  unfold decode17
  split
  iterate 4 next hf => exact sound_row (fun _ => rfl) fun _ => rebuild_FRRR hm hf
  next hf => exact sound_row (fun _ => rfl) fun _ => rebuild_FRR hm hf
  next => exact sound_error _ _

theorem sound_decode1C {w : Word32} (hm : major w = 0x1C#6) : Sound w (decode1C w) := by
  unfold decode1C
  split
  iterate 3 next hf => exact sound_row (fun _ => rfl) fun _ => rebuild_RRRz hm hf
  next => exact sound_error _ _

theorem sound_decode1D {w : Word32} (hm : major w = 0x1D#6) : Sound w (decode1D w) := by
  unfold decode1D
  split
  next hf => exact sound_row (fun _ => rfl) fun _ => rebuild_A1 hm hf
  iterate 2 next hf => exact sound_row (fun _ => rfl) fun _ => rebuild_AB hm hf
  iterate 2 next hf => exact sound_row (fun _ => rfl) fun _ => rebuild_RRR hm hf
  split
  next hf => exact sound_row (fun _ => rfl) fun _ => rebuild_Sb hm hf
  next hf => exact sound_row (fun _ => rfl) fun _ => rebuild_Sc hm hf
  next hf => exact sound_row (fun _ => rfl) fun _ => rebuild_Sp hm hf
  next => exact sound_error _ _

theorem sound_decode1E {w : Word32} (hm : major w = 0x1E#6) : Sound w (decode1E w) := by
  unfold decode1E
  split
  iterate 3 next hf => exact sound_row (fun _ => rfl) fun _ => rebuild_A1 hm hf
  next hf => exact sound_row (fun _ => rfl) fun _ => rebuild_RRR hm hf
  iterate 2 next hf => exact sound_row (fun _ => rfl) fun _ => rebuild_RR hm hf
  split
  next hf =>
    split
    · exact sound_row (fun _ => rfl) fun _ => rebuild_Xread hm hf
    · exact sound_error _ _
  split
  next hf => exact sound_row (fun _ => rfl) fun _ => rebuild_ABw hm hf
  split
  next hf => exact sound_row (fun _ => rfl) fun _ => rebuild_Xadd hm hf
  split
  · split
    iterate 9 next hf => exact sound_row (fun _ => rfl) fun _ => rebuild_Amo hm hf
    next => exact sound_error _ _
  · exact sound_error _ _

theorem sound_decode1F {w : Word32} (hm : major w = 0x1F#6) : Sound w (decode1F w) := by
  unfold decode1F
  split
  next hf => exact sound_row (fun _ => rfl) fun _ => rebuild_Cas hm hf
  split
  next hf => exact sound_row (fun _ => rfl) fun _ => rebuild_RRRR hm hf
  next => exact sound_error _ _

theorem sound_decode20 {w : Word32} (hm : major w = 0x20#6) : Sound w (decode20 w) := by
  unfold decode20
  split
  iterate 4 next hf => exact sound_row (fun _ => rfl) fun _ => rebuild_AB hm hf
  next hf => exact sound_row (fun _ => rfl) fun _ => rebuild_RR hm hf
  iterate 2 next hf => exact sound_row (fun _ => rfl) fun _ => rebuild_A1 hm hf
  next => exact sound_error _ _

theorem sound_decode21 {w : Word32} (hm : major w = 0x21#6) : Sound w (decode21 w) := by
  unfold decode21
  split
  next hf => exact sound_row (fun _ => rfl) fun _ => rebuild_ABC hm hf
  next hf => exact sound_row (fun _ => rfl) fun _ => rebuild_RRRR hm hf
  next hf => exact sound_row (fun _ => rfl) fun _ => rebuild_RAC hm hf
  next hf => exact sound_row (fun _ => rfl) fun _ => rebuild_RRRR hm hf
  next => exact sound_error _ _

theorem sound_decode22 {w : Word32} (hm : major w = 0x22#6) : Sound w (decode22 w) := by
  unfold decode22
  split
  iterate 3 next hf => exact sound_row (fun _ => rfl) fun _ => rebuild_N0 hm hf
  next hf => exact sound_row (fun _ => rfl) fun _ => rebuild_A1 hm hf
  next hf => exact sound_row (fun _ => rfl) fun _ => rebuild_RR hm hf
  next hf => exact sound_row (fun _ => rfl) fun _ => rebuild_A1 hm hf
  next hf => exact sound_row (fun _ => rfl) fun _ => rebuild_RR hm hf
  split
  next hf => exact sound_row (fun _ => rfl) fun _ => rebuild_ABe hm hf
  next => exact sound_error _ _

theorem sound_decode23 {w : Word32} (hm : major w = 0x23#6) : Sound w (decode23 w) := by
  unfold decode23
  split
  iterate 3 next hf => exact sound_row (fun _ => rfl) fun _ => rebuild_RR hm hf
  next hf => exact sound_row (fun _ => rfl) fun _ => rebuild_AB hm hf
  next hf => exact sound_row (fun _ => rfl) fun _ => rebuild_RR hm hf
  next => exact sound_error _ _

theorem sound_decode24 {w : Word32} (hm : major w = 0x24#6) : Sound w (decode24 w) := by
  unfold decode24
  split
  iterate 2 next hf => exact sound_row (fun _ => rfl) fun _ => rebuild_N0 hm hf
  next hf => exact sound_row (fun _ => rfl) fun _ => rebuild_A1 hm hf
  next hf => exact sound_row (fun _ => rfl) fun _ => rebuild_N0 hm hf
  next => exact sound_error _ _

theorem sound_decode25 {w : Word32} (hm : major w = 0x25#6) : Sound w (decode25 w) := by
  unfold decode25
  split
  next hf => exact sound_row (fun _ => rfl) fun _ => rebuild_B1 hm hf
  next hf => exact sound_row (fun _ => rfl) fun _ => rebuild_N0 hm hf
  next hf => exact sound_row (fun _ => rfl) fun _ => rebuild_AB hm hf
  next => exact sound_error _ _

theorem sound_decode26 {w : Word32} (hm : major w = 0x26#6) : Sound w (decode26 w) := by
  unfold decode26
  split
  next hf => exact sound_row (fun _ => rfl) fun _ => rebuild_CsrR hm hf
  iterate 3 next hf => exact sound_row (fun _ => rfl) fun _ => rebuild_CsrW hm hf

theorem sound_decode27 {w : Word32} (hm : major w = 0x27#6) : Sound w (decode27 w) := by
  unfold decode27
  split
  next hf => exact sound_row (fun _ => rfl) fun _ => rebuild_A1 hm hf
  iterate 2 next hf => exact sound_row (fun _ => rfl) fun _ => rebuild_N0 hm hf
  next hf => exact sound_row (fun _ => rfl) fun _ => rebuild_RR hm hf
  next hf => exact sound_row (fun _ => rfl) fun _ => rebuild_N0 hm hf
  split
  next hf => exact sound_row (fun _ => rfl) fun _ => rebuild_ABs hm hf
  split
  next hf => exact sound_row (fun _ => rfl) fun _ => rebuild_Fence hm hf
  next => exact sound_error _ _

theorem sound_decode28 {w : Word32} (hm : major w = 0x28#6) : Sound w (decode28 w) := by
  unfold decode28
  split
  next hf => exact sound_row (fun _ => rfl) fun _ => rebuild_RR hm hf
  next hf => exact sound_row (fun _ => rfl) fun _ => rebuild_N0 hm hf
  next => exact sound_error _ _

theorem sound_decode29 {w : Word32} (hm : major w = 0x29#6) : Sound w (decode29 w) := by
  unfold decode29
  split
  iterate 13 next hf => exact sound_row (fun _ => rfl) fun _ => rebuild_RRR hm hf
  next => exact sound_error _ _

theorem sound_decode2A {w : Word32} (hm : major w = 0x2A#6) : Sound w (decode2A w) := by
  unfold decode2A
  split
  iterate 6 next hf => exact sound_row (fun _ => rfl) fun _ => rebuild_FRRR hm hf
  split
  iterate 4 next hf => exact sound_row (fun _ => rfl) fun _ => rebuild_RR hm hf
  next => exact sound_error _ _

theorem sound_decode2B {w : Word32} (hm : major w = 0x2B#6) : Sound w (decode2B w) := by
  unfold decode2B
  split
  · split
    · exact sound_row (fun _ => rfl) fun _ => rebuild_Vcmp hm
    · exact sound_error _ _
  next hf => exact sound_row (fun _ => rfl) fun _ => rebuild_Cvt hm hf
  next => exact sound_error _ _

theorem sound_decode2C {w : Word32} (hm : major w = 0x2C#6) : Sound w (decode2C w) := by
  unfold decode2C
  split
  iterate 6 next hf => exact sound_row (fun _ => rfl) fun _ => rebuild_RRR hm hf
  next => exact sound_error _ _

theorem sound_decode2D {w : Word32} (hm : major w = 0x2D#6) : Sound w (decode2D w) := by
  unfold decode2D
  split
  next hf => exact sound_row (fun _ => rfl) fun _ => rebuild_RR hm hf
  iterate 2 next hf => exact sound_row (fun _ => rfl) fun _ => rebuild_RRR hm hf
  next => exact sound_error _ _

theorem sound_decode2E {w : Word32} (hm : major w = 0x2E#6) : Sound w (decode2E w) := by
  unfold decode2E
  split
  iterate 3 next hf => exact sound_row (fun _ => rfl) fun _ => rebuild_FRR hm hf
  next => exact sound_error _ _

theorem sound_decode2F {w : Word32} (hm : major w = 0x2F#6) : Sound w (decode2F w) := by
  unfold decode2F
  split
  iterate 2 next hf => exact sound_row (fun _ => rfl) fun _ => rebuild_RRR hm hf
  iterate 3 next hf => exact sound_row (fun _ => rfl) fun _ => rebuild_RR hm hf
  next => exact sound_error _ _

theorem sound_decode30 {w : Word32} (hm : major w = 0x30#6) : Sound w (decode30 w) := by
  unfold decode30
  split
  next hf => exact sound_row (fun _ => rfl) fun _ => rebuild_RRR hm hf
  next => exact sound_error _ _

theorem sound_decode31 {w : Word32} (hm : major w = 0x31#6) : Sound w (decode31 w) := by
  unfold decode31
  split
  next hf => exact sound_row (fun _ => rfl) fun _ => rebuild_RRR hm hf
  next => exact sound_error _ _

theorem sound_decode32 {w : Word32} (hm : major w = 0x32#6) : Sound w (decode32 w) := by
  unfold decode32
  split
  next hf => exact sound_row (fun _ => rfl) fun _ => rebuild_RRR hm hf
  next => exact sound_error _ _

theorem sound_decode33 {w : Word32} (hm : major w = 0x33#6) : Sound w (decode33 w) := by
  unfold decode33
  split
  next hf => exact sound_row (fun _ => rfl) fun _ => rebuild_RRR hm hf
  next => exact sound_error _ _

theorem sound_decode34 {w : Word32} (hm : major w = 0x34#6) : Sound w (decode34 w) := by
  unfold decode34
  split
  next hf => exact sound_row (fun _ => rfl) fun _ => rebuild_RRR hm hf
  next => exact sound_error _ _

theorem sound_decode35 {w : Word32} (hm : major w = 0x35#6) : Sound w (decode35 w) := by
  unfold decode35
  split
  next hf => exact sound_row (fun _ => rfl) fun _ => rebuild_RRR hm hf
  next => exact sound_error _ _

theorem sound_decode38 {w : Word32} (hm : major w = 0x38#6) : Sound w (decode38 w) := by
  unfold decode38
  split
  next low =>
    have byte {n : BitVec 5} (high : bits w 3 5 = n) : bits w 0 8 = n ++ 0b111#3 := by
      rw [← high, ← low]
      exact (bits_append_bits (m := 5) (n := 3) rfl).symm
    split
    iterate 2 next hf => exact sound_row (fun _ => rfl) fun _ => rebuild_N0 hm (byte hf)
    next hf => exact sound_row (fun _ => rfl) fun _ => rebuild_D1 hm (byte hf)
    next hf => exact sound_row (fun _ => rfl) fun _ => rebuild_A1 hm (byte hf)
    next hf => exact sound_row (fun _ => rfl) fun _ => rebuild_AB hm (byte hf)
    next hf => exact sound_row (fun _ => rfl) fun _ => rebuild_D1 hm (byte hf)
    iterate 2 next hf => exact sound_row (fun _ => rfl) fun _ => rebuild_RRR hm (byte hf)
    next hf => exact sound_row (fun _ => rfl) fun _ => rebuild_Ast hm (byte hf)
    next hf => exact sound_row (fun _ => rfl) fun _ => rebuild_RRR hm (byte hf)
    next hf => exact sound_row (fun _ => rfl) fun _ => rebuild_N0 hm (byte hf)
    next hf => exact sound_row (fun _ => rfl) fun _ => rebuild_A1 hm (byte hf)
    next hf => exact sound_row (fun _ => rfl) fun _ => rebuild_RR hm (byte hf)
    next => exact sound_error _ _
  · exact sound_row (fun _ => rfl) fun _ => rebuild_MmaN hm


/-- Whatever the opcode map gives encodes to the word it was read from. -/
theorem sound_decodeRaw (w : Word32) : Sound w (decodeRaw w) := by
  unfold decodeRaw
  split
  next hm => exact sound_decode01 hm
  iterate 8 next hm => exact sound_row (fun _ => rfl) fun _ => rebuild_RI hm
  next hm => exact sound_row (fun _ => rfl) fun _ => rebuild_Mem hm
  next hm => exact sound_row (fun _ => rfl) fun _ => rebuild_DI hm
  next hm => exact sound_decode0C hm
  next hm => exact sound_decode0D hm
  next hm => exact sound_row (fun _ => rfl) fun _ => rebuild_BitF hm
  next hm => exact sound_row (fun _ => rfl) fun _ => rebuild_RI hm
  next hm => exact sound_decode10 hm
  next hm => exact sound_decode11 hm
  next hm => exact sound_decode12 hm
  next hm => exact sound_decode13 hm
  next hm => exact sound_decode14 hm
  next hm => exact sound_decode15 hm
  next hm => exact sound_decode16 hm
  next hm => exact sound_decode17 hm
  iterate 2 next hm => exact sound_row (fun _ => rfl) fun _ => rebuild_Mem hm
  iterate 2 next hm => exact sound_row (fun _ => rfl) fun _ => rebuild_MemS hm
  next hm => exact sound_decode1C hm
  next hm => exact sound_decode1D hm
  next hm => exact sound_decode1E hm
  next hm => exact sound_decode1F hm
  next hm => exact sound_decode20 hm
  next hm => exact sound_decode21 hm
  next hm => exact sound_decode22 hm
  next hm => exact sound_decode23 hm
  next hm => exact sound_decode24 hm
  next hm => exact sound_decode25 hm
  next hm => exact sound_decode26 hm
  next hm => exact sound_decode27 hm
  next hm => exact sound_decode28 hm
  next hm => exact sound_decode29 hm
  next hm => exact sound_decode2A hm
  next hm => exact sound_decode2B hm
  next hm => exact sound_decode2C hm
  next hm => exact sound_decode2D hm
  next hm => exact sound_decode2E hm
  next hm => exact sound_decode2F hm
  next hm => exact sound_decode30 hm
  next hm => exact sound_decode31 hm
  next hm => exact sound_decode32 hm
  next hm => exact sound_decode33 hm
  next hm => exact sound_decode34 hm
  next hm => exact sound_decode35 hm
  iterate 2 next hm => exact sound_row (fun _ => rfl) fun _ => rebuild_MmaN hm
  next hm => exact sound_decode38 hm
  next hm => exact sound_row (fun _ => rfl) fun _ => rebuild_Hint hm
  next hm => exact sound_row (fun _ => rfl) fun _ => rebuild_Modw hm
  next => exact sound_error _ _


/-! ### The encoding of a legal instruction decodes to it (R72) -/

theorem row_reads {F : Type} {read : Except DecodeError F} {c : F → Instr} {x : F} (h : read = .ok x) :
    read.map c = .ok (c x) := by
  rw [h]
  rfl

/-- A part of a field whose value is known. -/
theorem bits_part {w : Word32} {lo m k n : Nat} {v : BitVec m} (whole : bits w lo m = v) (inside : k + n ≤ m) :
    bits w (lo + k) n = v.extractLsb' k n := by
  rw [← whole, bits_sub inside]

/-- A part of a field has no other value than the field gives it. -/
theorem bits_part_ne {w : Word32} {lo m k n : Nat} {v : BitVec m} {u : BitVec n} (part : bits w (lo + k) n = u)
    (inside : k + n ≤ m) (differ : v.extractLsb' k n ≠ u) : bits w lo m ≠ v :=
  fun whole => differ ((bits_part whole inside).symm.trans part)

/-- Each form's own word is read field by field: its major leads to the form's rows, its function code to the one row. -/
theorem decodeRaw_encode {i : Instr} {w : Word32} (legal : i.wf = true) (h : encode i = some w) : decodeRaw w = .ok i := by
  cases i <;> cases h
  case add | sub | mul | mulh | mulhu | div | divu | rem | remu | and | or | xor | andn | orn | shl | shr | sar | rot
    | min | max | minu | maxu =>
    unfold decodeRaw decode01; rw [RRR.major, RRR.bits_0_8, RRR.ofWord_toWord]; rfl
  case abs | clz | ctz | pop | brev =>
    unfold decodeRaw decode01; rw [RR.major, RR.bits_0_8, RR.ofWord_toWord]; rfl
  case sel | bext | bins =>
    unfold decodeRaw decode0C; rw [RRRR.major, RRRR.bits_0_3, RRRR.ofWord_toWord]; rfl
  case cmpeq | cmpne | cmplt | cmpltu | cmple | cmpleu =>
    unfold decodeRaw decode0D; rw [RRR.major, RRR.bits_0_8, RRR.ofWord_toWord]; rfl
  case beq | bne | blt | bge | bltu | bgeu =>
    unfold decodeRaw decode10; rw [Br.major, Br.bits_20_3, Br.ofWord_toWord]; rfl
  case b =>
    unfold decodeRaw decode10; rw [BrL.major, BrL.bits_20_3, BrL.ofWord_toWord]; rfl
  case call =>
    unfold decodeRaw decode11; rw [BrL.major, BrL.bits_20_3, BrL.ofWord_toWord]; rfl
  case jr =>
    unfold decodeRaw decode12
    rw [A1.major, bits_part (k := 6) (n := 2) (A1.bits_0_8 ..) (by decide),
      bits_part (k := 0) (n := 6) (A1.bits_0_8 ..) (by decide), A1.ofWord_toWord]
    rfl
  case nop | brk =>
    unfold decodeRaw decode12
    rw [N0.major, bits_part (k := 6) (n := 2) (N0.bits_0_8 ..) (by decide),
      bits_part (k := 0) (n := 6) (N0.bits_0_8 ..) (by decide), N0.ofWord_toWord]
    rfl
  case rep =>
    unfold decodeRaw decode12; rw [Rep.major, Rep.bits_6_2, Rep.ofWord_toWord]; rfl
  case rgn x =>
    have low : bits (x.toWord 0x13#6 0x00#8) 0 13 = 0#13 :=
      (bits_append_bits (m := 5) (n := 8) rfl).symm.trans (by rw [N0.bits_8_5, N0.bits_0_8]; rfl)
    unfold decodeRaw decode13; rw [N0.major, N0.bits_18_5, low, N0.ofWord_toWord]; rfl
  case rgnInc x =>
    have named : x.d ≠ 0#5 := fun none => by simp [Instr.wf, nOk, none] at legal
    unfold decodeRaw decode13
    rw [DI.major, DI.bits_18_5, DI.ofWord_toWord]
    exact if_neg named
  case fadd | fsub | fmul | fdiv | fmin | fmax | fminn | fmaxn | fsgn =>
    unfold decodeRaw decode14; rw [FRRR.major, FRRR.bits_0_6, FRRR.ofWord_toWord]; rfl
  case fsqrt | fabs | fneg | frnd =>
    unfold decodeRaw decode14; rw [FRR.major, FRR.bits_0_6, FRR.ofWord_toWord]; rfl
  case fma | fms | fnma =>
    unfold decodeRaw decode15; rw [FX.major, FX.bits_1_2, FX.ofWord_toWord]; rfl
  case fcvt | fcvti | icvtf =>
    unfold decodeRaw decode16; rw [Cvt.major, Cvt.bits_6_2, Cvt.ofWord_toWord]; rfl
  case fcmpeq | fcmplt | fcmple | fcmpun =>
    unfold decodeRaw decode17; rw [FRRR.major, FRRR.bits_0_6, FRRR.ofWord_toWord]; rfl
  case fclass =>
    unfold decodeRaw decode17; rw [FRR.major, FRR.bits_0_6, FRR.ofWord_toWord]; rfl
  case lds | sts | ldk =>
    unfold decodeRaw decode1C; rw [RRRz.major, RRRz.bits_2_6, RRRz.ofWord_toWord]; rfl
  case pref =>
    unfold decodeRaw decode1D; rw [A1.major, A1.bits_0_8, A1.ofWord_toWord]; rfl
  case wb | inv =>
    unfold decodeRaw decode1D; rw [AB.major, AB.bits_0_8, AB.ofWord_toWord]; rfl
  case bmove | bfill =>
    unfold decodeRaw decode1D; rw [RRR.major, RRR.bits_0_8, RRR.ofWord_toWord]; rfl
  case sbind =>
    rw [decodeRaw, Sb.major]
    change decode1D _ = _
    unfold decode1D
    split
    iterate 5 next byte => exact absurd byte (bits_part_ne (k := 2) (Sb.bits_2_6 ..) (by decide) (by decide))
    rw [Sb.bits_2_6, Sb.ofWord_toWord]
    rfl
  case sclose =>
    rw [decodeRaw, Sc.major]
    change decode1D _ = _
    unfold decode1D
    split
    iterate 5 next byte => exact absurd byte (bits_part_ne (k := 2) (Sc.bits_2_6 ..) (by decide) (by decide))
    rw [Sc.bits_2_6, Sc.ofWord_toWord]
    rfl
  case spos =>
    rw [decodeRaw, Sp.major]
    change decode1D _ = _
    unfold decode1D
    split
    iterate 5 next byte => exact absurd byte (bits_part_ne (k := 2) (Sp.bits_2_6 ..) (by decide) (by decide))
    rw [Sp.bits_2_6, Sp.ofWord_toWord]
    rfl
  case xinit32 | xinit64 | xclr =>
    unfold decodeRaw decode1E; rw [A1.major, A1.bits_0_8, A1.ofWord_toWord]; rfl
  case enq =>
    unfold decodeRaw decode1E; rw [RRR.major, RRR.bits_0_8, RRR.ofWord_toWord]; rfl
  case deq | seqdeq =>
    unfold decodeRaw decode1E; rw [RR.major, RR.bits_0_8, RR.ofWord_toWord]; rfl
  case xread =>
    rw [decodeRaw, Xread.major]
    change decode1E _ = _
    unfold decode1E
    split
    iterate 6 next byte => exact absurd byte (bits_part_ne (k := 7) (Xread.bits_7_1 ..) (by decide) (by decide))
    rw [Xread.bits_7_1, Xread.bits_0_1, Xread.ofWord_toWord]
    rfl
  case waitv =>
    rw [decodeRaw, ABw.major]
    change decode1E _ = _
    unfold decode1E
    split
    iterate 6 next byte => exact absurd byte (bits_part_ne (k := 1) (ABw.bits_1_7 ..) (by decide) (by decide))
    rw [bits_part (lo := 1) (k := 6) (n := 1) (ABw.bits_1_7 ..) (by decide), ABw.bits_1_7, ABw.ofWord_toWord]
    rfl
  case xadd =>
    rw [decodeRaw, Xadd.major]
    change decode1E _ = _
    unfold decode1E
    split
    iterate 6 next byte => exact absurd byte (bits_part_ne (k := 3) (Xadd.bits_3_5 ..) (by decide) (by decide))
    rw [bits_part (lo := 3) (k := 4) (n := 1) (Xadd.bits_3_5 ..) (by decide), if_neg (by decide),
      if_neg (bits_part_ne (lo := 1) (k := 2) (Xadd.bits_3_5 ..) (by decide) (by decide)), Xadd.bits_3_5, Xadd.ofWord_toWord]
    rfl
  case amoAdd | amoAnd | amoOr | amoXor | amoMin | amoMax | amoMinu | amoMaxu | amoSwap =>
    rw [decodeRaw, Amo.major]
    change decode1E _ = _
    unfold decode1E
    split
    iterate 6 next byte => exact absurd byte (bits_part_ne (k := 5) (Amo.bits_5_3 ..) (by decide) (by decide))
    rw [bits_part (lo := 5) (k := 2) (n := 1) (Amo.bits_5_3 ..) (by decide), if_neg (by decide),
      if_neg (bits_part_ne (lo := 1) (k := 4) (Amo.bits_5_3 ..) (by decide) (by decide)),
      if_neg (bits_part_ne (lo := 3) (k := 2) (Amo.bits_5_3 ..) (by decide) (by decide)), Amo.bits_5_3, Amo.bits_0_4,
      Amo.ofWord_toWord]
    rfl
  case cas =>
    unfold decodeRaw decode1F; rw [Cas.major, Cas.bits_1_2, Cas.ofWord_toWord]; rfl
  case seqenq =>
    unfold decodeRaw decode1F
    rw [RRRR.major, bits_part (k := 1) (n := 2) (RRRR.bits_0_3 ..) (by decide), RRRR.bits_0_3,
      RRRR.ofWord_toWord]
    rfl
  case send | sendm | push | htset =>
    unfold decodeRaw decode20; rw [AB.major, AB.bits_0_8, AB.ofWord_toWord]; rfl
  case htget =>
    unfold decodeRaw decode20; rw [RR.major, RR.bits_0_8, RR.ofWord_toWord]; rfl
  case chmask | chunmask =>
    unfold decodeRaw decode20; rw [A1.major, A1.bits_0_8, A1.ofWord_toWord]; rfl
  case sendw =>
    unfold decodeRaw decode21; rw [ABC.major, ABC.bits_0_3, ABC.ofWord_toWord]; rfl
  case launch | subscribe =>
    unfold decodeRaw decode21; rw [RRRR.major, RRRR.bits_0_3, RRRR.ofWord_toWord]; rfl
  case nread =>
    unfold decodeRaw decode21; rw [RAC.major, RAC.bits_0_3, RAC.ofWord_toWord]; rfl
  case suspend | yield | done =>
    unfold decodeRaw decode22; rw [N0.major, N0.bits_0_8, N0.ofWord_toWord]; rfl
  case wborrow | qarm =>
    unfold decodeRaw decode22; rw [A1.major, A1.bits_0_8, A1.ofWord_toWord]; rfl
  case wquery | grow =>
    unfold decodeRaw decode22; rw [RR.major, RR.bits_0_8, RR.ofWord_toWord]; rfl
  case retire =>
    rw [decodeRaw, ABe.major]
    change decode22 _ = _
    unfold decode22
    split
    iterate 7 next byte => exact absurd byte (bits_part_ne (k := 2) (ABe.bits_2_6 ..) (by decide) (by decide))
    rw [ABe.bits_2_6, ABe.ofWord_toWord]
    rfl
  case coord | slice | geom | fetcht =>
    unfold decodeRaw decode23; rw [RR.major, RR.bits_0_8, RR.ofWord_toWord]; rfl
  case tqinit =>
    unfold decodeRaw decode23; rw [AB.major, AB.bits_0_8, AB.ofWord_toWord]; rfl
  case gbar | gbarPub | pubfence =>
    unfold decodeRaw decode24; rw [N0.major, N0.bits_0_8, N0.ofWord_toWord]; rfl
  case unsub =>
    unfold decodeRaw decode24; rw [A1.major, A1.bits_0_8, A1.ofWord_toWord]; rfl
  case phase =>
    unfold decodeRaw decode25; rw [B1.major, B1.bits_0_8, B1.ofWord_toWord]; rfl
  case phend =>
    unfold decodeRaw decode25; rw [N0.major, N0.bits_0_8, N0.ofWord_toWord]; rfl
  case spinw =>
    unfold decodeRaw decode25; rw [AB.major, AB.bits_0_8, AB.ofWord_toWord]; rfl
  case csrrd =>
    unfold decodeRaw decode26; rw [CsrR.major, CsrR.bits_11_2, CsrR.ofWord_toWord]; rfl
  case csrwr | csrset | csrclr =>
    unfold decodeRaw decode26; rw [CsrW.major, CsrW.bits_11_2, CsrW.ofWord_toWord]; rfl
  case trap =>
    unfold decodeRaw decode27; rw [A1.major, A1.bits_0_8, A1.ofWord_toWord]; rfl
  case tret | wfi | isync =>
    unfold decodeRaw decode27; rw [N0.major, N0.bits_0_8, N0.ofWord_toWord]; rfl
  case perf =>
    unfold decodeRaw decode27; rw [RR.major, RR.bits_0_8, RR.ofWord_toWord]; rfl
  case cpub =>
    rw [decodeRaw, ABs.major]
    change decode27 _ = _
    unfold decode27
    split
    iterate 5 next byte => exact absurd byte (bits_part_ne (k := 3) (ABs.bits_3_5 ..) (by decide) (by decide))
    rw [ABs.bits_3_5, ABs.ofWord_toWord]
    rfl
  case fence =>
    rw [decodeRaw, Fence.major]
    change decode27 _ = _
    unfold decode27
    split
    iterate 5 next byte => exact absurd byte (bits_part_ne (k := 7) (Fence.bits_7_1 ..) (by decide) (by decide))
    rw [if_neg (bits_part_ne (lo := 3) (k := 4) (Fence.bits_7_1 ..) (by decide) (by decide)), Fence.bits_7_1,
      Fence.ofWord_toWord]
    rfl
  case vclaim =>
    unfold decodeRaw decode28; rw [RR.major, RR.bits_0_8, RR.ofWord_toWord]; rfl
  case vrel =>
    unfold decodeRaw decode28; rw [N0.major, N0.bits_0_8, N0.ofWord_toWord]; rfl
  case vaddI32 | vsubI32 | vmulI32 | vminI32 | vmaxI32 | vminUi32 | vmaxUi32 | vand | vor | vxor | vshl | vshr | vsel =>
    unfold decodeRaw decode29; rw [RRR.major, RRR.bits_0_8, RRR.ofWord_toWord]; rfl
  case vaddF | vsubF | vmulF | vfma | vfmin | vfmax =>
    unfold decodeRaw decode2A; rw [FRRR.major, FRRR.bits_0_6, FRRR.ofWord_toWord]; rfl
  case vrcp | vrsqrt | vexp2 | vlog2 =>
    unfold decodeRaw decode2A
    rw [RR.major, bits_part (k := 0) (n := 6) (RR.bits_0_8 ..) (by decide), RR.bits_0_8,
      RR.ofWord_toWord]
    rfl
  case vcmp =>
    unfold decodeRaw decode2B; rw [Vcmp.major, Vcmp.bits_6_2, Vcmp.bits_3_1, Vcmp.ofWord_toWord]; rfl
  case vcvt =>
    unfold decodeRaw decode2B; rw [Cvt.major, Cvt.bits_6_2, Cvt.ofWord_toWord]; rfl
  case vld | vst | vlds | vsts | vgath | vscat =>
    unfold decodeRaw decode2C; rw [RRR.major, RRR.bits_0_8, RRR.ofWord_toWord]; rfl
  case vbcast =>
    unfold decodeRaw decode2D; rw [RR.major, RR.bits_0_8, RR.ofWord_toWord]; rfl
  case vperm | vlsh =>
    unfold decodeRaw decode2D; rw [RRR.major, RRR.bits_0_8, RRR.ofWord_toWord]; rfl
  case vredAdd | vredMin | vredMax =>
    unfold decodeRaw decode2E; rw [FRR.major, FRR.bits_0_6, FRR.ofWord_toWord]; rfl
  case mand | mor =>
    unfold decodeRaw decode2F; rw [RRR.major, RRR.bits_0_8, RRR.ofWord_toWord]; rfl
  case mnot | mpop | mfirst =>
    unfold decodeRaw decode2F; rw [RR.major, RR.bits_0_8, RR.ofWord_toWord]; rfl
  case mmaDD =>
    unfold decodeRaw decode30; rw [RRR.major, RRR.bits_0_8, RRR.ofWord_toWord]; rfl
  case mmaSS =>
    unfold decodeRaw decode31; rw [RRR.major, RRR.bits_0_8, RRR.ofWord_toWord]; rfl
  case mmaBB =>
    unfold decodeRaw decode32; rw [RRR.major, RRR.bits_0_8, RRR.ofWord_toWord]; rfl
  case mmaHH =>
    unfold decodeRaw decode33; rw [RRR.major, RRR.bits_0_8, RRR.ofWord_toWord]; rfl
  case mmaBH =>
    unfold decodeRaw decode34; rw [RRR.major, RRR.bits_0_8, RRR.ofWord_toWord]; rfl
  case mmaHB =>
    unfold decodeRaw decode35; rw [RRR.major, RRR.bits_0_8, RRR.ofWord_toWord]; rfl
  case mlease | mrel | mwait =>
    unfold decodeRaw decode38
    rw [N0.major, bits_part (k := 0) (n := 3) (N0.bits_0_8 ..) (by decide),
      bits_part (k := 3) (n := 5) (N0.bits_0_8 ..) (by decide), N0.ofWord_toWord]
    rfl
  case oclaim | azero =>
    unfold decodeRaw decode38
    rw [D1.major, bits_part (k := 0) (n := 3) (D1.bits_0_8 ..) (by decide),
      bits_part (k := 3) (n := 5) (D1.bits_0_8 ..) (by decide), D1.ofWord_toWord]
    rfl
  case orel | medge =>
    unfold decodeRaw decode38
    rw [A1.major, bits_part (k := 0) (n := 3) (A1.bits_0_8 ..) (by decide),
      bits_part (k := 3) (n := 5) (A1.bits_0_8 ..) (by decide), A1.ofWord_toWord]
    rfl
  case old =>
    unfold decodeRaw decode38
    rw [AB.major, bits_part (k := 0) (n := 3) (AB.bits_0_8 ..) (by decide),
      bits_part (k := 3) (n := 5) (AB.bits_0_8 ..) (by decide), AB.ofWord_toWord]
    rfl
  case aread | awrite | ald =>
    unfold decodeRaw decode38
    rw [RRR.major, bits_part (k := 0) (n := 3) (RRR.bits_0_8 ..) (by decide),
      bits_part (k := 3) (n := 5) (RRR.bits_0_8 ..) (by decide), RRR.ofWord_toWord]
    rfl
  case ast =>
    unfold decodeRaw decode38
    rw [Ast.major, bits_part (k := 0) (n := 3) (Ast.bits_0_8 ..) (by decide),
      bits_part (k := 3) (n := 5) (Ast.bits_0_8 ..) (by decide), Ast.ofWord_toWord]
    rfl
  case accown =>
    unfold decodeRaw decode38
    rw [RR.major, bits_part (k := 0) (n := 3) (RR.bits_0_8 ..) (by decide),
      bits_part (k := 3) (n := 5) (RR.bits_0_8 ..) (by decide), RR.ofWord_toWord]
    rfl
  case mmaBN x =>
    have planes : x.pm2 ≠ 0b111#3 := fun seven => by simp [Instr.wf, seven] at legal
    unfold decodeRaw decode38
    rw [MmaN.major, MmaN.bits_0_3, MmaN.ofWord_toWord]
    exact if_neg planes
  case addi | andi | ori | xori | shli | shri | sari | roti | cmplti =>
    rw [decodeRaw, RI.major]
    exact row_reads (RI.ofWord_toWord ..)
  case lea | ld | st =>
    rw [decodeRaw, Mem.major]
    exact row_reads (Mem.ofWord_toWord ..)
  case lim =>
    rw [decodeRaw, DI.major]
    exact row_reads (DI.ofWord_toWord ..)
  case bexti =>
    rw [decodeRaw, BitF.major]
    exact row_reads (BitF.ofWord_toWord ..)
  case ldAcq | stRel =>
    rw [decodeRaw, MemS.major]
    exact row_reads (MemS.ofWord_toWord ..)
  case mmaNN | mmaNB =>
    rw [decodeRaw, MmaN.major]
    exact row_reads (MmaN.ofWord_toWord ..)
  case hint =>
    rw [decodeRaw, Hint.major]
    exact row_reads (Hint.ofWord_toWord ..)
  case modifier =>
    rw [decodeRaw, Modw.major]
    exact row_reads (Modw.ofWord_toWord ..)

/-! ### Both directions (R41, R69, R72) -/

theorem decode_eq_ok {w : Word32} {i : Instr} : decode w = .ok i ↔ decodeRaw w = .ok i ∧ i.wf = true := by
  unfold decode
  cases h : decodeRaw w with
  | error e => simp
  | ok j =>
    by_cases legal : j.wf = true
    · simp [legal]
      rintro rfl
      exact legal
    · simp [legal]
      rintro rfl
      exact Bool.eq_false_iff.2 legal

theorem decode_encode {i : Instr} {w : Word32} (legal : i.wf = true) (h : encode i = some w) : decode w = .ok i :=
  decode_eq_ok.2 ⟨decodeRaw_encode legal h, legal⟩

/-- Settles O60: a legal word's fields are read back as they were written, and an accepted word is rebuilt from the fields
that its form reads. -/
theorem decodingInvertsEncoding : Obligations.DecodingInvertsEncoding := by
  refine ⟨fun _ _ => decode_encode, fun w i accepted => ?_, fun i j w legal legal' hi hj => ?_⟩
  · obtain ⟨raw, legal⟩ := decode_eq_ok.1 accepted
    exact ⟨legal, sound_decodeRaw w i raw⟩
  · exact Except.ok.inj ((decode_encode legal hi).symm.trans (decode_encode legal' hj))

/-- Settles O57: each word is decoded from its bits. -/
theorem theSpecsWordsDecode : Obligations.TheSpecsWordsDecode := by
  unfold Obligations.TheSpecsWordsDecode
  decide

end Sys2Proof
end

section
/-!
PROOF. Immediate forms, bit fields and divides (O6, O8).
-/
namespace Sys2Proof.Machine

/-! ### Immediate forms (R48, R98, R103) -/

theorem sarResult_lt (a : W) {n : Nat} (h : n < 64) : sarResult a n = a.sshiftRight n :=
  congrArg a.sshiftRight (Nat.min_eq_left (Nat.le_of_lt_succ h))

theorem rotResult_lt (a : W) {n : Nat} (h : n < 64) : rotResult a n = a.rotateLeft n :=
  congrArg a.rotateLeft (Nat.mod_eq_of_lt h)

theorem flagWord_slt (a b : W) : flagWord (a.slt b) = if a.toInt < b.toInt then 1 else 0 := by
  simp [flagWord, BitVec.slt]

section
variable {x : RI} {s s1 t : State} {a : W}

theorem immediate_run {f : W → W → W} (ra : Reads s x.a a s1)
    (result : Produces s1 x.d (f a (immValue s.cur x.imm)) 1 t) : runOp (immediate x f) s = .next (issued x.st t) :=
  runOp_ok (by rw [immediate, bind_of_gives (curSlot_run s), bind_of_gives ra, bind_of_gives result, finish_run])

/-- A shift amount below 64 is used as it is. -/
theorem shiftImmediate_run {i : Instr} {f : W → Nat → W} {r : W} (amount : (immValue s.cur x.imm).toNat < 64)
    (ra : Reads s x.a a s1) (value : f a (immValue s.cur x.imm).toNat = r) (result : Produces s1 x.d r 1 t) :
    runOp (shiftImmediate i x f) s = .next (issued x.st t) :=
  runOp_ok (by
    subst value
    rw [shiftImmediate, bind_of_gives (curSlot_run s), if_neg (Nat.not_le.2 amount)]
    exact (bind_of_gives ra).trans (by rw [bind_of_gives result, finish_run]))

/-- Any other traps ILLEGAL. -/
theorem shiftImmediate_trap {i : Instr} {f : W → Nat → W} (amount : 64 ≤ (immValue s.cur x.imm).toNat)
    (settled : s.cur.launches = 0) : runOp (shiftImmediate i x f) s =
      .next (takeTrap s s.turn .illegal (illegalInfo (encode i) s.cur) (some s.cur.gpc)) := by
  have stops : shiftImmediate i x f s = .error (.trap .illegal (illegalInfo (encode i) s.cur)) := by
    rw [shiftImmediate, bind_of_gives (curSlot_run s), if_pos amount]
    exact bind_of_error rfl
  rw [runOp_trap stops, if_neg (not_not_intro settled)]

end

theorem lim_run {x : DI} {s t : State} (result : Produces s x.d (immValue s.cur x.imm) 1 t) :
    exec (.lim x) s = .next (issued x.st t) :=
  runOp_ok (by rw [bind_of_gives (curSlot_run s), bind_of_gives result, finish_run])

theorem lea_run {x : Mem} {s s1 t : State} {a : W} (ra : Reads s x.a a s1)
    (result : Produces s1 x.d (a + immValue s.cur x.off * w64 (2 ^ x.sz.toNat)) 1 t) :
    exec (.lea x) s = .next (issued x.st t) :=
  runOp_ok (by rw [bind_of_gives (curSlot_run s), bind_of_gives ra, bind_of_gives result, finish_run])

/-! ### Bit fields (R75, R108 to R110) -/

/-- Within its limits BEXTI's field lies inside the word. -/
theorem bextResult_field {len : BitVec 7} {pos : BitVec 6} (a : W) (ok : bitFieldOk len pos = true) :
    bextResult a (pos.zeroExtend 64) (len.zeroExtend 64) = BitVec.ofNat 64 (a.toNat / 2 ^ pos.toNat % 2 ^ len.toNat) := by
  simp only [bitFieldOk, Bool.and_eq_true, decide_eq_true_eq] at ok
  obtain ⟨some_, inside⟩ := ok
  have hp : (pos.zeroExtend 64).toNat = pos.toNat := by simp; omega
  have hl : (len.zeroExtend 64).toNat = len.toNat := by simp; omega
  have nonzero : len.zeroExtend 64 ≠ 0 := fun zero => by rw [zero] at hl; simp at hl; omega
  unfold bextResult
  have short : Nat.min len.toNat (64 - pos.toNat) = len.toNat := Nat.min_eq_left (by omega)
  rw [hp, hl, if_neg (not_or.2 ⟨nonzero, by omega⟩), short]
  rfl

theorem bexti_run {x : BitF} {s s1 t : State} {a : W} (ra : Reads s x.a a s1)
    (result : Produces s1 x.d (bextResult a (x.pos.zeroExtend 64) (x.len.zeroExtend 64)) 2 t) :
    exec (.bexti x) s = .next (issued x.st t) :=
  runOp_ok (by rw [bind_of_gives ra, bind_of_gives result, finish_run])

theorem bextResult_bit (a pos len : W) {j : Nat} (hj : j < 64) :
    (bextResult a pos len).getLsbD j = (decide (j < len.toNat) && a.getLsbD (pos.toNat + j)) := by
  unfold bextResult
  split
  next empty =>
    rcases empty with rfl | past
    · simp
    · simp [BitVec.getLsbD_of_ge a (pos.toNat + j) (by omega)]
  next inside =>
    simp only [w64, BitVec.getLsbD_ofNat, Nat.testBit_mod_two_pow, Nat.testBit_div_two_pow, hj, decide_true, Bool.true_and,
      BitVec.testBit_toNat, Nat.add_comm j]
    by_cases short : j < 64 - pos.toNat
    · have : j < Nat.min len.toNat (64 - pos.toNat) ↔ j < len.toNat := by
        rw [show Nat.min len.toNat (64 - pos.toNat) = min len.toNat (64 - pos.toNat) from rfl]
        omega
      simp only [this]
    · simp [BitVec.getLsbD_of_ge a (pos.toNat + j) (by omega)]

/-- Clearing a field of a number and putting another number's low bits there. -/
theorem replace_field (a b pos n : Nat) :
    a - (a &&& (2 ^ n - 1) * 2 ^ pos) + b % 2 ^ n * 2 ^ pos =
      2 ^ pos * (2 ^ n * (a / 2 ^ (pos + n)) + b % 2 ^ n) + a % 2 ^ pos := by
  have field : a &&& (2 ^ n - 1) * 2 ^ pos = a / 2 ^ pos % 2 ^ n * 2 ^ pos := by
    refine Nat.eq_of_testBit_eq fun i => ?_
    simp only [Nat.testBit_and, Nat.testBit_mul_two_pow, Nat.testBit_two_pow_sub_one, Nat.testBit_mod_two_pow,
      Nat.testBit_div_two_pow]
    by_cases high : pos ≤ i
    · simp [high, Bool.and_comm]
    · simp [high]
  have split1 := Nat.div_add_mod a (2 ^ pos)
  have split2 := Nat.div_add_mod (a / 2 ^ pos) (2 ^ n)
  rw [Nat.div_div_eq_div_mul, ← pow_add] at split2
  rw [field]
  have value : a = 2 ^ pos * (2 ^ n * (a / 2 ^ (pos + n))) + a / 2 ^ pos % 2 ^ n * 2 ^ pos + a % 2 ^ pos := by
    conv_lhs => rw [← split1, ← split2]
    ring
  rw [show a - a / 2 ^ pos % 2 ^ n * 2 ^ pos = 2 ^ pos * (2 ^ n * (a / 2 ^ (pos + n))) + a % 2 ^ pos by omega]
  ring

theorem binsResult_bit (a b c : W) {j : Nat} (hj : j < 64) :
    (binsResult a b c).getLsbD j = if c.toNat % 64 ≤ j ∧ j < c.toNat % 64 + c.toNat / 64 % 128
      then b.getLsbD (j - c.toNat % 64) else a.getLsbD j := by
  unfold binsResult
  dsimp only
  generalize c.toNat % 64 = pos
  generalize c.toNat / 64 % 128 = len
  split
  next empty => rw [if_neg (by omega)]
  next some_ =>
    rw [replace_field, show Nat.min len (64 - pos) = min len (64 - pos) from rfl]
    simp only [w64, BitVec.getLsbD_ofNat, hj, decide_true, Bool.true_and,
      Nat.testBit_two_pow_mul_add _ (Nat.mod_lt _ (Nat.two_pow_pos _)), Nat.testBit_mod_two_pow, Nat.testBit_div_two_pow,
      BitVec.testBit_toNat]
    by_cases low : j < pos
    · rw [if_pos low, if_neg (by omega)]
      simp [low]
    · by_cases inside : j < pos + len
      · rw [if_neg low, if_pos (by omega), if_pos (by omega)]
        simp; omega
      · rw [if_neg low, if_neg (by omega), if_neg (by omega)]
        congr 1; omega

section
variable {x : RRRR} {s s1 s2 s3 t : State} {a b c : W} {f : W → W → W → W}

theorem ternary_run {n : Nat} (ra : Reads s x.a a s1) (rb : Reads s1 x.b b s2) (rc : Reads s2 x.c c s3)
    (result : Produces s3 x.d (f a b c) n t) : runOp (ternary x n f) s = .next (issued x.st t) :=
  runOp_ok (by
    rw [ternary, bind_of_gives ra, bind_of_gives rb, bind_of_gives rc, bind_of_gives result, finish_run])

end

/-! ### Divides (R100, R101) -/

theorem bitCount_eq_size (n : Nat) : bitCount n = Nat.size n := by
  unfold bitCount
  split
  next zero => simp [zero]
  next some_ =>
    refine Nat.le_antisymm (Nat.succ_le_of_lt (Nat.lt_size.2 (Nat.log2_self_le some_))) (Nat.size_le.2 Nat.lt_log2_self)

theorem divResult_cases (a b : W) : divResult a b = if b = 0 then BitVec.allOnes 64 else a.sdiv b := by
  unfold divResult
  congr 1
  exact BitVec.eq_of_toInt_eq (by rw [BitVec.toInt_ofInt, BitVec.toInt_sdiv])

theorem remResult_cases (a b : W) : remResult a b = if b = 0 then a else a.srem b := by
  unfold remResult
  congr 1
  rw [← BitVec.toInt_srem, BitVec.ofInt_toInt]

theorem divuResult_cases (a b : W) : divuResult a b = if b = 0 then BitVec.allOnes 64 else a / b := by
  unfold divuResult
  congr 1
  exact BitVec.eq_of_toNat_eq (Nat.mod_eq_of_lt (Nat.lt_of_le_of_lt (Nat.div_le_self ..) a.isLt))

theorem remuResult_cases (a b : W) : remuResult a b = if b = 0 then a else a % b := by
  unfold remuResult
  congr 1
  exact BitVec.eq_of_toNat_eq (Nat.mod_eq_of_lt (Nat.lt_of_le_of_lt (Nat.mod_le ..) a.isLt))

section
variable {x : RRR} {s s1 s2 t : State} {a b : W} {signed : Bool} {f : W → W → W}

/-- A divide with none of its slot under way. -/
theorem divide_run {r : W} {n tag : Nat} {dest : Dest} (free : ∀ e ∈ s.events, ∀ r, e = .divideComplete r → r.h ≠ s.turn)
    (ra : Reads s x.a a s1) (rb : Reads s1 x.b b s2) (value : f a b = r) (cycles : divideCycles signed a b = n)
    (place : Gives (reserveBy (s.tick + n) x.d) s2 (tag, dest) t) :
    runOp (divide x signed f) s =
      .next (issued x.st (emit t (.divideComplete ⟨s.turn, tag, dest, r, s.tick + n⟩))) := by
  subst value cycles
  refine runOp_ok (u := ()) ?_
  rw [divide, bind_of_gives (get_run s), if_neg]
  · exact (bind_of_gives ra).trans (by rw [bind_of_gives rb, bind_of_gives place]; rfl)
  · simp only [List.any_eq_true, not_exists, not_and, Bool.not_eq_true]
    intro e mem
    split
    next q => exact beq_eq_false_iff_ne.2 (free _ mem q rfl)
    next => rfl

theorem divide_waits {r : Delivery} (running : .divideComplete r ∈ s.events) (own : r.h = s.turn) :
    runOp (divide x signed f) s = .next { s with cur := unissued s.cur } := by
  refine runOp_wait (f := id) ?_
  rw [divide, bind_of_gives (get_run s), if_pos]
  · exact bind_of_error rfl
  · exact List.any_eq_true.2 ⟨_, running, by simp [own]⟩

end

/-- The cycles of a divide that is no overflow (R101). -/
theorem divideCycles_eq {signed : Bool} (a b : W) (usual : signed = true → ¬ (a = 0x8000000000000000 ∧ b = BitVec.allOnes 64)) :
    divideCycles signed a b =
      if b = 0 then 4 else 4 + (Nat.size (if signed then a.toInt.natAbs else a.toNat) + 1) / 2 := by
  have : (b = 0 ∨ signed ∧ a = 0x8000000000000000 ∧ b = BitVec.allOnes 64) ↔ b = 0 :=
    or_iff_left fun ⟨h, extreme⟩ => usual h extreme
  simp only [divideCycles, this, bitCount_eq_size]

/-- Settles O6: the immediate is `immValue`, and each form runs in its order of operands. -/
theorem immediateForms : Obligations.ImmediateForms := by
  refine ⟨fun x s s1 a ra => ?_, fun x s amount settled i mem => ?_, fun x s t => lim_run, fun x s s1 t a => lea_run,
    fun x s s1 t a ra legal result => ?_⟩
  · exact ⟨fun t => immediate_run ra, fun t => immediate_run ra, fun t => immediate_run ra, fun t => immediate_run ra,
      fun t result => immediate_run ra (by rw [flagWord_slt]; exact result),
      fun amount => ⟨fun t => shiftImmediate_run amount ra (if_pos amount),
        fun t => shiftImmediate_run amount ra (if_pos amount), fun t => shiftImmediate_run amount ra (sarResult_lt a amount),
        fun t => shiftImmediate_run amount ra (rotResult_lt a amount)⟩⟩
  · simp only [List.mem_cons, List.not_mem_nil, or_false] at mem
    rcases mem with rfl | rfl | rfl | rfl
    all_goals exact shiftImmediate_trap amount settled
  · have ok : bitFieldOk x.len x.pos = true := by
      simp only [Instr.wf, Bool.and_eq_true] at legal
      exact legal.2
    exact bexti_run ra (by rw [bextResult_field a ok]; exact result)

/-- Settles O8: the results bit by bit and as signed and unsigned quotients, the divides with their completion event. -/
theorem bitFieldsAndDivides : Obligations.BitFieldsAndDivides := by
  refine ⟨fun x s s1 s2 s3 a b c ra rb rc => ⟨⟨_, fun t => ternary_run ra rb rc, fun j => bextResult_bit a b c⟩,
    ⟨_, fun t => ternary_run ra rb rc, fun j => binsResult_bit a b c⟩⟩, fun x s s1 s2 a b free ra rb => ?_,
    fun x s r running own i mem => ?_, fun r s => rfl⟩
  · refine ⟨fun usual => ⟨fun tag dest t => ?_, fun tag dest t => ?_⟩, fun extreme => ⟨fun tag dest t => ?_, fun tag dest t => ?_⟩,
      fun tag dest t => ?_, fun tag dest t => ?_⟩
    · exact divide_run free ra rb (divResult_cases a b) (divideCycles_eq a b fun _ => usual)
    · exact divide_run free ra rb (remResult_cases a b) (divideCycles_eq a b fun _ => usual)
    · obtain ⟨rfl, rfl⟩ := extreme
      exact divide_run free ra rb (by decide) (by decide)
    · obtain ⟨rfl, rfl⟩ := extreme
      exact divide_run free ra rb (by decide) (by decide)
    · exact divide_run free ra rb (divuResult_cases a b) (divideCycles_eq a b nofun)
    · exact divide_run free ra rb (remuResult_cases a b) (divideCycles_eq a b nofun)
  · simp only [List.mem_cons, List.not_mem_nil, or_false] at mem
    rcases mem with rfl | rfl | rfl | rfl
    all_goals exact divide_waits running own

end Sys2Proof.Machine
end

section
/-!
PROOF. Branches, regions and the words before an instruction (O10, O12).
-/
namespace Sys2Proof.Machine

/-! ### Where a branch may stand (R137) -/

theorem notInBody_run (i : Instr) {s : State} (h : s.cur.rep = none) : notInBody i s = .ok ((), s) := by
  rw [notInBody, bind_of_gives (curSlot_run s), if_neg (by simp [h])]
  rfl

/-- In a REP body a branch traps SLOT with its word. -/
theorem notInBody_trapped {i : Instr} {w : Word32} {rest : Unit → Op Unit} {s : State} (word : encode i = some w)
    (body : s.cur.rep ≠ none) (settled : s.cur.launches = 0) :
    runOp (notInBody i >>= rest) s = .next (trapped .slot (w.zeroExtend 64) s) := by
  rw [← w64_word]
  refine runOp_trapped settled (bind_of_error ?_)
  rw [notInBody, bind_of_gives (curSlot_run s), if_pos (Option.isSome_iff_ne_none.2 body), slotOp_run word]

/-! ### Branches (R44, R115, R119 to R121) -/

/-- The end of a branch. -/
theorem went_finishBranch (st : BitVec 3) (taken nul : Bool) (target : Addr) (s : State) :
    ∃ t, finishBranch st taken nul target s = .ok ((), t) ∧ Went s t taken nul target := by
  refine ⟨_, rfl, ⟨_, rfl⟩, ?_⟩
  cases taken <;> cases nul <;> simp [SlotFrame, afterWord, advance, inDelaySlot, fpflagsFinal]

/-- A displacement counts words (R44). -/
theorem dispBytes_eq {n : Nat} (x : Slot) (f : BitVec n) : dispBytes x f = 4 * (match x.hint with
    | none => f.signExtend 56
    | some k => (k ++ f).signExtend 56) := by
  unfold dispBytes
  cases x.hint with
  | none => exact BitVec.mul_comm ..
  | some k => exact BitVec.mul_comm ..

theorem branch_run {i : Instr} {x : Br} {cond : W → W → Bool} {s s1 s2 : State} {a b : W} {target : Addr}
    (open_ : s.cur.rep = none) (ra : Reads s x.a a s1) (rb : Reads s1 x.b b s2)
    (goal : s.cur.pc + dispBytes s.cur x.disp = target) :
    ∃ t, runOp (branch i x cond) s = .next t ∧ Went s2 t (cond a b) (x.nul == 1) target := by
  obtain ⟨t, ended, went⟩ := went_finishBranch x.st (cond a b) (x.nul == 1) target s2
  refine ⟨t, runOp_ok (u := ()) ?_, went⟩
  rw [branch, bind_of_gives (notInBody_run i open_), bind_of_gives (curSlot_run s), bind_of_gives ra, bind_of_gives rb, goal,
    ended]

theorem b_run {x : BrL} {s : State} {target : Addr} (open_ : s.cur.rep = none)
    (goal : s.cur.pc + dispBytes s.cur x.disp = target) : ∃ t, exec (.b x) s = .next t ∧ Went s t true false target := by
  obtain ⟨t, ended, went⟩ := went_finishBranch x.st true false target s
  refine ⟨t, runOp_ok (u := ()) ?_, went⟩
  rw [bind_of_gives (notInBody_run _ open_), bind_of_gives (curSlot_run s), goal, ended]

theorem call_run {x : BrL} {s u : State} {target : Addr} (open_ : s.cur.rep = none)
    (link : Produces s 23 ((s.cur.pc + 12).zeroExtend 64) 1 u) (goal : s.cur.pc + dispBytes s.cur x.disp = target) :
    ∃ t, exec (.call x) s = .next t ∧ Went u t true false target := by
  obtain ⟨t, ended, went⟩ := went_finishBranch x.st true false target u
  refine ⟨t, runOp_ok (u := ()) ?_, went⟩
  rw [bind_of_gives (notInBody_run _ open_), bind_of_gives (curSlot_run s), bind_of_gives link, goal, ended]

section
variable {x : A1} {s s1 : State} {a : W} (open_ : s.cur.rep = none) (ra : Reads s x.a a s1)
include open_ ra

theorem jr_run (aligned : a.toNat % 4 = 0) (small : a.toNat < 2 ^ 56) :
    ∃ t, exec (.jr x) s = .next t ∧ Went s1 t true false (a.setWidth 56) := by
  obtain ⟨t, ended, went⟩ := went_finishBranch x.st true false (a.setWidth 56) s1
  refine ⟨t, runOp_ok (u := ()) ?_, went⟩
  rw [bind_of_gives (notInBody_run _ open_), bind_of_gives ra,
    bind_of_gives (require_true (by simp only [aligned, small, beq_self_eq_true, decide_true, Bool.and_true]) .align a s1), ended]

theorem jr_trap (bad : a.toNat % 4 ≠ 0 ∨ 2 ^ 56 ≤ a.toNat) (settled : s.cur.launches = 0) :
    exec (.jr x) s = .next (trapped .align a s) := by
  have fails : (a.toNat % 4 == 0 && decide (a.toNat < 2 ^ 56)) = false := by
    rw [Bool.and_eq_false_iff, beq_eq_false_iff_ne, decide_eq_false_iff_not]
    omega
  refine runOp_trapped settled ?_
  rw [bind_of_gives (notInBody_run _ open_), bind_of_gives ra, bind_of_error (require_false fails .align a s1)]

end

/-! ### Regions (R124, R126) -/

theorem issued_frame (st : BitVec 3) (s : State) : SlotFrame s.cur (issued st s).cur := by
  simp [SlotFrame, issued, afterWord, advance, fpflagsFinal]

/-- A commit leaves of the frame RSTART at the next word and the streams checkpointed (R124). -/
theorem committed_frame (st : BitVec 3) (s : State) :
    SlotFrame { s.cur with rstart := s.cur.npc, ckpt := s.cur.str } (committed st s).cur := by
  simp [SlotFrame, committed, commitSlot, afterWord, advance, fpflagsFinal, List.foldl_map]

theorem rgn_run {x : N0} {s : State} (open_ : InOpen s) : exec (.rgn x) s = .next (rotateIfDue (committed x.st s)) :=
  runOp_ok (u := ()) (by
    rw [bind_of_gives (noDelaySlot_run _ open_), bind_of_gives (finishCommit_run x.st s)]
    rfl)

/-- Elsewhere RGN traps SLOT with its word. -/
theorem rgn_trap {x : N0} {s : State} (closed : s.cur.rep ≠ none ∨ inDelaySlot s.cur = true) (settled : s.cur.launches = 0) :
    exec (.rgn x) s = .next (trapped .slot ((x.toWord 0x13 0x00).zeroExtend 64) s) := by
  rw [← w64_word]
  refine runOp_trapped settled (bind_of_error (noDelaySlot_trap rfl ?_))
  rintro ⟨noBody, noSlot⟩
  rcases closed with body | slot
  · exact body noBody
  · simp [noSlot] at slot

/-! ### The words before an instruction (R48 to R51) -/

theorem afterPrefix_frame (tick : Nat) (x : Slot) : SlotFrame x (afterPrefix tick x) := by
  simp [SlotFrame, afterPrefix, advance, fpflagsFinal]

/-- Settles O12: RGN commits and changes no more than that, and the other words move the counters alone. -/
theorem regionAndPrefixWords : Obligations.RegionAndPrefixWords := by
  refine ⟨fun x s open_ => ⟨_, rgn_run open_, ⟨_, rfl⟩, committed_frame x.st s, rfl, rfl, rfl, rfl, rfl⟩,
    fun x s closed settled => ⟨_, rfl, rgn_trap closed settled⟩, fun x s i mem => ?_, fun x y s => ⟨?_, ?_⟩⟩
  · simp only [List.mem_cons, List.not_mem_nil, or_false] at mem
    rcases mem with rfl | rfl
    all_goals exact ⟨issued x.st s, rfl, ⟨_, rfl⟩, issued_frame x.st s, rfl, rfl, rfl, rfl, rfl, rfl⟩
  · exact ⟨_, rfl, ⟨_, rfl⟩, afterPrefix_frame s.tick s.cur, rfl, rfl, rfl, rfl, rfl, rfl, rfl, rfl⟩
  · exact ⟨_, rfl, ⟨_, rfl⟩, afterPrefix_frame s.tick s.cur, rfl, rfl, rfl, rfl, rfl, rfl, rfl, rfl⟩

/-- Settles O10: each branch reads its sources, then the counters move as `finishBranch` says. -/
theorem branchesGoToTheirTarget : Obligations.BranchesGoToTheirTarget := by
  refine ⟨fun x s s1 s2 a b open_ ra rb => ?_, fun x s open_ => ?_, fun x s s1 a open_ ra => ⟨jr_run open_ ra, jr_trap open_ ra⟩,
    fun x y z s body settled i mem => ?_⟩
  · have goal := congrArg (s.cur.pc + ·) (dispBytes_eq s.cur x.disp)
    intro target goes
    have run {i : Instr} {cond : W → W → Bool} {taken : Bool} (meaning : exec i = runOp (branch i x cond))
        (value : cond a b = taken) : goes i taken := by
      rw [← value]
      obtain ⟨t, ended, went⟩ := branch_run (i := i) open_ ra rb goal
      exact ⟨t, by rw [meaning, ended], went⟩
    exact ⟨run rfl rfl, run rfl decide_not.symm, run rfl rfl, run rfl rfl, run rfl rfl, run rfl rfl⟩
  · have goal := congrArg (s.cur.pc + ·) (dispBytes_eq s.cur x.disp)
    exact ⟨b_run open_ goal, fun u link => call_run open_ link goal⟩
  · simp only [List.mem_cons, List.not_mem_nil, or_false] at mem
    rcases mem with rfl | rfl | rfl | rfl | rfl | rfl | rfl | rfl | rfl
    all_goals exact ⟨_, rfl, notInBody_trapped rfl body settled⟩

end Sys2Proof.Machine
end

section
/-!
PROOF. Words that do not execute, and exceptions in supervisor mode, on clerks and on engines (O19).
-/
namespace Sys2Proof.Machine

/-! ### The words -/

/-- A word and the one before it, as TINFO holds them. -/
theorem w64_pair (word before : Word32) : w64 (word.toNat + before.toNat * 2 ^ 32) = before ++ word := by
  apply BitVec.eq_of_toNat_eq
  rw [toNat_append_eq, w64, BitVec.toNat_ofNat]
  omega

theorem trap_run {x : A1} {s s1 : State} {a : W} (place : MayCommit s) (ra : Reads s x.a a s1)
    (settled : s1.cur.launches = 0) : exec (.trap x) s = .next (trapped .syscall a (committed x.st s1)) :=
  runOp_ok (u := ()) (by
    rw [bind_of_gives (commitPlace_run _ place), bind_of_gives ra, bind_of_gives (curSlot_run s1),
      if_neg (not_not_intro settled)]
    rfl)

/-! ### A walk made known is an operation in flight, no more -/

theorem noteWalk_eq (s : State) (h : HartId) (c : Cause) (info : W) :
    ∃ events, noteWalk s h c info = { s with events := events } := by
  unfold noteWalk
  split
  · exact ⟨_, rfl⟩
  · exact ⟨s.events, rfl⟩

theorem noteWalk_slotOf (s : State) (h : HartId) (c : Cause) (info : W) : slotOf (noteWalk s h c info) = slotOf s := by
  obtain ⟨events, e⟩ := noteWalk_eq s h c info
  rw [e]
  rfl

/-! ### A crash of the resident kernel (R439) -/

theorem mapGet_map {α : Type} {f : Nat → α → α} {d : α} {a : Nat} (fixed : f a d = d) (m : AMap α) :
    mapGet d (m.map fun p => (p.1, f p.1 p.2)) a = f a (mapGet d m a) := by
  rw [mapGet, mapGet, mapFind_map]
  cases mapFind m a with
  | none => exact fixed.symm
  | some v => rfl

/-- A slot at a crash: a compute slot in supervisor mode stops. -/
def crashStop (h : HartId) (x : Slot) : Slot := if x.sup && kindOf h == .core then { x with stopped := true } else x

theorem crashStop_pc (h : HartId) (x : Slot) : (crashStop h x).pc = x.pc := by
  unfold crashStop
  split <;> rfl

theorem crashStop_stopped (h : HartId) (x : Slot) :
    (crashStop h x).stopped = (x.stopped || (x.sup && kindOf h == .core)) := by
  unfold crashStop
  split
  · rename_i stops
    simp [stops]
  · rename_i goes
    simp [Bool.eq_false_iff.mpr goes]

/-- CRASHREG of a die set to a code. -/
def markCrash (code : BitVec 8) (s : State) (d : Nat) : State :=
  setDie s d { dieOf s d with crashreg := w64 (field (dieOf s d).crashreg.toNat 31 0 + code.toNat * 2 ^ 32) }

theorem dieOf_setDie_other (s : State) {d e : Nat} (x : Die) (ne : e ≠ d) : dieOf (setDie s d x) e = dieOf s e :=
  mapGet_mapPut_other _ _ _ _ _ (Ne.symm ne)

/-- The dies marked change CRASHREG of each of them, and nothing else. -/
theorem markCrash_foldl (code : BitVec 8) (s : State) {l : List Nat} (distinct : l.Nodup) :
    (∃ dies, l.foldl (markCrash code) s = { s with dies := dies }) ∧ ∀ d, dieOf (l.foldl (markCrash code) s) d =
      if d ∈ l then dieOf (markCrash code s d) d else dieOf s d := by
  induction l generalizing s with
  | nil => exact ⟨⟨s.dies, rfl⟩, fun d => by simp⟩
  | cons e l ih =>
    obtain ⟨new, distinct⟩ := List.nodup_cons.mp distinct
    obtain ⟨⟨dies, kept⟩, each⟩ := ih (markCrash code s e) distinct
    refine ⟨⟨dies, kept⟩, fun d => (each d).trans ?_⟩
    by_cases same : d = e
    · subst same
      simp [new]
    · have other : dieOf (markCrash code s e) d = dieOf s d := dieOf_setDie_other s _ same
      have again : dieOf (markCrash code (markCrash code s e) d) d = dieOf (markCrash code s d) d := by
        rw [markCrash, dieOf_setDie_self, markCrash.eq_1 code s d, dieOf_setDie_self, other]
      simp only [other, again, List.mem_cons, same, false_or]

theorem crashreg_code (old : W) (code : BitVec 8) :
    (w64 (field old.toNat 31 0 + code.toNat * 2 ^ 32)).extractLsb' 32 8 = code ∧
      (w64 (field old.toNat 31 0 + code.toNat * 2 ^ 32)).extractLsb' 0 32 = old.extractLsb' 0 32 := by
  have fields : w64 (field old.toNat 31 0 + code.toNat * 2 ^ 32) = (0#24 ++ code) ++ old.extractLsb' 0 32 := by
    apply BitVec.eq_of_toNat_eq
    have low : field old.toNat 31 0 = old.toNat % 2 ^ 32 := by simp [field]
    rw [toNat_append_eq, toNat_append_eq, BitVec.extractLsb'_toNat, w64, BitVec.toNat_ofNat, low, Nat.shiftRight_zero,
      BitVec.toNat_zero]
    have small := code.isLt
    omega
  rw [fields]
  exact ⟨(BitVec.extractLsb'_append_eq_of_le (by decide)).trans BitVec.extractLsb'_append_eq_right,
    BitVec.extractLsb'_append_eq_right⟩

/-- The state frozen by a crash, whatever dies are marked. -/
def frozenBy (code : BitVec 8) (crashes : List Nat) (s : State) : State := { s with
  cur := crashStop s.turn s.cur, harts := s.harts.map fun p => (p.1, crashStop (BitVec.ofNat 13 p.1) p.2)
  module := { s.module with
    frozen := some code, frozenAt := s.tick, crashes := crashes, locked := s.module.locked || thirdCrash crashes } }

/-- A crash with the module not yet frozen. -/
theorem kernelCrash_eq {s : State} (running : s.module.frozen = none) (code : BitVec 8) : ∃ crashes,
    (∃ dies, kernelCrash s code = { frozenBy code crashes s with dies := dies }) ∧
      ∀ d, d < 4 → dieOf (kernelCrash s code) d = dieOf (markCrash code s d) d := by
  let crashes := (s.tick :: s.module.crashes).take 3
  have frozen : ¬ s.module.frozen.isSome = true := by simp [running]
  have marked : kernelCrash s code = frozenBy code crashes ((List.range 4).foldl (markCrash code) s) := if_neg frozen
  obtain ⟨⟨dies, kept⟩, each⟩ := markCrash_foldl code s (List.nodup_range (n := 4))
  refine ⟨crashes, ⟨dies, by rw [marked, kept]; rfl⟩, fun d small => ?_⟩
  rw [marked]
  exact (each d).trans (if_pos (List.mem_range.mpr small))

theorem kernelCrash_slotOf {s : State} (running : s.module.frozen = none) (code : BitVec 8) (h : HartId) :
    slotOf (kernelCrash s code) h = crashStop h (slotOf s h) := by
  obtain ⟨_, ⟨dies, e⟩, -⟩ := kernelCrash_eq running code
  have frozen : slotOf (kernelCrash s code) h = if h = s.turn then crashStop s.turn s.cur else
      mapGet Slot.reset (s.harts.map fun p => (p.1, crashStop (BitVec.ofNat 13 p.1) p.2)) h.toNat := by
    rw [e]
    rfl
  rw [frozen, slotOf]
  split
  · rename_i turn
    rw [turn]
  · have back : BitVec.ofNat 13 h.toNat = h := BitVec.ofNat_toNat 13 h
    have reset : crashStop (BitVec.ofNat 13 h.toNat) Slot.reset = Slot.reset := by simp [crashStop, Slot.reset]
    exact (mapGet_map (f := fun k => crashStop (BitVec.ofNat 13 k)) reset _).trans (by rw [back])

/-- What a crash leaves: the module frozen with its code, the hart at the first word of its group, and compute slots in
supervisor mode stopped. -/
structure Crashed (s : State) (h : HartId) (code : BitVec 8) (t : State) : Prop where
  frozen : t.module.frozen = some code
  mem : t.mem = s.mem
  pools : t.pools = s.pools
  own : slotOf t h = crashStop h { unissued (slotOf s h) with stopped := true }
  other : ∀ k, k ≠ h → slotOf t k = crashStop k (slotOf s k)
  dies : ∀ d, d < 4 → dieOf t d = dieOf (markCrash code s d) d

theorem crashed_crashAt {s : State} (running : s.module.frozen = none) (h : HartId) (code : BitVec 8) :
    Crashed s h code (crashAt s h code) := by
  let u := setSlot s h { unissued (slotOf s h) with stopped := true }
  have running' : u.module.frozen = none := by rw [setSlot_module, running]
  have slots := kernelCrash_slotOf running' code
  obtain ⟨_, ⟨dies, e⟩, each⟩ := kernelCrash_eq running' code
  have die : dieOf u = dieOf s := funext fun d => by rw [dieOf, setSlot_dies, dieOf]
  change Crashed s h code (kernelCrash u code)
  refine ⟨by rw [e]; rfl, ?_, ?_, ?_, fun k other => ?_, fun d small => ?_⟩
  · rw [e]
    exact setSlot_mem ..
  · rw [e]
    exact setSlot_pools ..
  · rw [slots, slotOf_setSlot_self]
  · rw [slots, slotOf_setSlot_other _ _ _ _ other]
  · rw [each d small, markCrash, markCrash, dieOf_setDie_self, dieOf_setDie_self, die]

theorem Crashed.noted {s : State} {h : HartId} {code : BitVec 8} {t : State} {c : Cause} {info : W}
    (crash : Crashed (noteWalk s h c info) h code t) : Crashed s h code t := by
  obtain ⟨events, e⟩ := noteWalk_eq s h c info
  rw [e] at crash
  exact ⟨crash.frozen, crash.mem, crash.pools, crash.own, crash.other, crash.dies⟩

/-- A trap that is a crash: in a compute slot in supervisor mode, and in a clerk's handler. -/
theorem crashed_takeTrap {s : State} (running : s.module.frozen = none) (h : HartId) (c : Cause) (info : W)
    (tpc : Option Addr) :
    (kindOf h = .core → (slotOf s h).sup = true → Crashed s h 1 (takeTrap s h c info tpc)) ∧
      (kindOf h = .clerk → (slotOf s h).inTrap = true → Crashed s h 2 (takeTrap s h c info tpc)) := by
  have running' : (noteWalk s h c info).module.frozen = none := by
    obtain ⟨events, e⟩ := noteWalk_eq s h c info
    rw [e, running]
  have crash (code : BitVec 8) := (crashed_crashAt running' h code).noted
  constructor
  · intro core sup
    have : takeTrap s h c info tpc = crashAt (noteWalk s h c info) h 1 := by
      simp [takeTrap, core, noteWalk_slotOf, sup]
    rw [this]
    exact crash 1
  · intro clerk inTrap
    have : takeTrap s h c info tpc = crashAt (noteWalk s h c info) h 2 := by
      simp [takeTrap, clerk, noteWalk_slotOf, inTrap]
    rw [this]
    exact crash 2

theorem unissued_hint (x : Slot) : (unissued x).hint = none ∧ (unissued x).modw = none := by
  unfold unissued
  split
  · exact ⟨rfl, rfl⟩
  · rename_i whole
    simpa using whole

theorem unissued_pc (x : Slot) : (unissued x).pc = if x.hint.isSome || x.modw.isSome then x.gpc else x.pc := by
  unfold unissued
  split <;> rfl

theorem crashStop_hint (h : HartId) (x : Slot) : (crashStop h x).hint = x.hint ∧ (crashStop h x).modw = x.modw := by
  unfold crashStop
  split <;> exact ⟨rfl, rfl⟩

/-- The stopped hart's words. -/
theorem Crashed.stands {s t : State} {h : HartId} {code : BitVec 8} (crash : Crashed s h code t) :
    (slotOf t h).stopped = true ∧ (slotOf t h).hint = none ∧ (slotOf t h).modw = none ∧
      (slotOf t h).pc = if (slotOf s h).hint.isSome || (slotOf s h).modw.isSome then (slotOf s h).gpc else (slotOf s h).pc := by
  obtain ⟨hint, modw⟩ := unissued_hint (slotOf s h)
  obtain ⟨keepHint, keepModw⟩ := crashStop_hint h { unissued (slotOf s h) with stopped := true }
  rw [crash.own, crashStop_stopped, crashStop_pc, keepHint, keepModw, ← unissued_pc]
  exact ⟨rfl, hint, modw, rfl⟩

/-! ### A trap of a clerk outside its handler (R430) -/

theorem takeTrap_clerk {s : State} {h : HartId} (clerk : kindOf h = .clerk) (outside : (slotOf s h).inTrap = false)
    (c : Cause) (info : W) (tpc : Option Addr) :
    let r := rollback (noteWalk s h c info) h
    let x := setTrapRegs c info (tpc.getD (slotOf r h).rstart) (slotOf r h)
    takeTrap s h c info tpc = setSlot r h
      (enterHandler (dieOf r (dieOfAgent (agentOf h))).centry 0 { x with save := memWrite [] 0 (saveBytes x r.clock) }) := by
  simp [takeTrap, clerk, noteWalk_slotOf, outside]

/-- The handler starts with its queue and registers empty. -/
theorem enterHandler_entries (entry : Addr) (x : Slot) :
    (∀ j, j < 16 → qEntry (enterHandler entry 0 x) j = ⟨0, 0, 0⟩) ∧ ∀ j, j < 8 → nEntry (enterHandler entry 0 x) j = ⟨0, 0, 0⟩ := by
  constructor
  · intro j small
    simp [enterHandler, qEntry, small, ready]
  · intro j small
    by_cases first : j = 0
    · simp [enterHandler, nEntry, first, ready]
    · simp [enterHandler, nEntry, small, ready]

/-- A clerk's slot with its first save bytes in its SRAM. -/
def saving (x : Slot) (clock : Nat) : Slot := { x with save := memWrite [] 0 (saveBytes x clock) }

theorem memRead_saving (x : Slot) (clock : Nat) : memRead (saving x clock).save 0 256 = saveBytes x clock := by
  have read := memRead_memWrite_same (m := []) 0 (saveBytes x clock) rfl
  rw [saveBytes_length] at read
  exact read

/-- What a trap of a clerk outside its handler leaves, once the results of its committed instructions are in. -/
structure ClerkTrapped (s : State) (h : HartId) (c : Cause) (info : W) (tpc : Option Addr) (t : State) : Prop where
  slot : ∃ keep, slotOf t h = enterHandler (dieOf s (dieOfAgent (agentOf h))).centry 0
    (saving (trapSlot keep s.tick c info tpc (slotOf (deliverCommitted s h) h)) s.clock)
  mem : t.mem = (deliverCommitted s h).mem
  pools : t.pools = (deliverCommitted s h).pools

theorem clerkTrapped_takeTrap {s : State} {h : HartId} (clerk : kindOf h = .clerk) (outside : (slotOf s h).inTrap = false)
    (c : Cause) (info : W) (tpc : Option Addr) : ClerkTrapped s h c info tpc (takeTrap s h c info tpc) := by
  obtain ⟨⟨keep, own⟩, -, pools, mem, dies, -, -, -, clock⟩ := rolledBack_rollback s h c info
  have die : dieOf (rollback (noteWalk s h c info) h) = dieOf s := funext fun e => by rw [dieOf, dies, dieOf]
  have taken := takeTrap_clerk clerk outside c info tpc
  dsimp only at taken
  rw [own, clock, die] at taken
  rw [taken]
  exact ⟨⟨keep, slotOf_setSlot_self ..⟩, (setSlot_mem ..).trans mem, (setSlot_pools ..).trans pools⟩

/-! ### A trap of an engine (R386) -/

theorem field_low (info : W) : info &&& 0x00FFFFFFFFFFFFFF = w64 (field info.toNat 55 0) := by
  apply BitVec.eq_of_toNat_eq
  have mask : (0x00FFFFFFFFFFFFFF : W).toNat = 2 ^ 56 - 1 := rfl
  rw [BitVec.toNat_and, mask, Nat.and_two_pow_sub_one_eq_mod]
  simp only [w64, field, BitVec.toNat_ofNat, Nat.pow_zero, Nat.div_one]
  omega

theorem behindDead_noteWalk (s : State) (h : HartId) (c : Cause) (info : W) (va : Nat) :
    behindDead (noteWalk s h c info) h va = behindDead s h va := by
  obtain ⟨events, e⟩ := noteWalk_eq s h c info
  rw [e]
  rfl

/-- What a trap makes of an engine's job. -/
theorem jobStatus_cases (s : State) (h : HartId) (c : Cause) (info : W) :
    let addr : W := info &&& 0x00FFFFFFFFFFFFFF
    let dead := behindDead s h addr.toNat
    let ring : Prop := c = .protect ∧ info = accessInfo 1 true 2 (info.setWidth 56)
    (c = .memerr → dead = false → jobStatus s h c info = (2, 0, addr)) ∧ (ring → jobStatus s h c info = (3, 0, addr)) ∧
      ((c ≠ .memerr ∨ dead = true) → ¬ ring → jobStatus s h c info = (1, BitVec.ofNat 8 (causeCode c), info)) := by
  have low : field info.toNat 55 0 = (info &&& 0x00FFFFFFFFFFFFFF).toNat := by
    rw [field_low, w64, BitVec.toNat_ofNat]
    unfold field
    omega
  have place : memInfo 1 2 (field info.toNat 55 0) true = accessInfo 1 true 2 (info.setWidth 56) := by
    refine (memInfo_ofNat 1 2 (field info.toNat 55 0) true).trans (congrArg _ ?_)
    apply BitVec.eq_of_toNat_eq
    simp [field]
  rw [low] at place
  intro addr dead ring
  have status : jobStatus s h c info = if c = .memerr ∧ !dead then (2, 0, addr) else if ring then (3, 0, addr)
      else (1, BitVec.ofNat 8 (causeCode c), info) := by
    simp only [jobStatus, place, low, w64, BitVec.ofNat_toNat, BitVec.setWidth_eq, addr, dead, ring]
  refine ⟨fun memerr alive => ?_, fun isRing => ?_, fun not no => ?_⟩
  · rw [status, if_pos ⟨memerr, by rw [alive]; rfl⟩]
  · have other : ¬ (c = .memerr ∧ !dead) := fun ⟨memerr, _⟩ => by simp [isRing.1] at memerr
    rw [status, if_neg other, if_pos isRing]
  · have other : ¬ (c = .memerr ∧ !dead) := fun ⟨memerr, alive⟩ => by
      rcases not with not | not
      · exact not memerr
      · simp [not] at alive
    rw [status, if_neg other, if_neg no]

theorem endJob_eq {s : State} {h : HartId} (engine : h.toNat < 4096) (status tcause : BitVec 8) (detail : W)
    (open_ : (engineAt s (agentOf h)).ending = none) (runs : (engineAt s (agentOf h)).running ≠ none) :
    endJob s (agentOf h) status tcause detail = setEngine (setSlot s h { slotOf s h with wfi := some 0 }) (agentOf h)
      { engineAt s (agentOf h) with ending := some (status, tcause, detail) } := by
  have own : BitVec.ofNat 13 (agentOf h) = h := by
    apply BitVec.eq_of_toNat_eq
    simp only [agentOf, BitVec.toNat_ofNat]
    omega
  unfold endJob
  rw [own]
  exact if_pos ⟨Option.isSome_iff_ne_none.mpr runs, by rw [open_]; rfl⟩

/-- The end of an engine's job as its trap brings it. -/
structure JobEnding (e : Engine) (t : State) (h : HartId) (status tcause : BitVec 8) (detail : W) : Prop where
  engine : engineAt t (agentOf h) = { e with ending := some (status, tcause, detail) }
  waits : (slotOf t h).wfi = some 0

/-- A rolled back engine whose job ends. -/
theorem jobEnding_endJob {s : State} {h : HartId} (engine : h.toNat < 4096) {e : Engine} (open_ : e.ending = none)
    (runs : e.running ≠ none) (same : engineAt (deliverCommitted s h) (agentOf h) = e) (c : Cause) (info : W) (x : Slot)
    (status tcause : BitVec 8) (detail : W) :
    JobEnding e (endJob (setSlot (rollback (noteWalk s h c info) h) h x) (agentOf h) status tcause detail) h status tcause
      detail := by
  obtain ⟨keep, clusters, events, back⟩ := rollback_noteWalk_eq s h c info
  have engines : engineAt (setSlot (rollback (noteWalk s h c info) h) h x) (agentOf h) = e := by
    rw [← same, engineAt, setSlot_engines, back]
    exact congrArg (mapGet Engine.reset · (agentOf h)) (setSlot_engines ..)
  rw [endJob_eq engine _ _ _ (by rw [engines, open_]) (by rw [engines]; exact runs), engines]
  constructor
  · exact mapGet_mapPut_self ..
  · exact congrArg Slot.wfi (slotOf_setSlot_self ..)

section
variable {s : State} {h : HartId} (kind : kindOf h = .porter ∨ kindOf h = .carter) (small : h.toNat < 4096)
  (open_ : (engineAt (deliverCommitted s h) (agentOf h)).ending = none)
  (runs : (engineAt (deliverCommitted s h) (agentOf h)).running ≠ none)
include kind

theorem takeTrap_engine (c : Cause) (info : W) (tpc : Option Addr) :
    let r := rollback (noteWalk s h c info) h
    let status := jobStatus s h c info
    takeTrap s h c info tpc = endJob (setSlot r h (setTrapRegs c info (tpc.getD (slotOf r h).rstart) (slotOf r h)))
      (agentOf h) status.1 status.2.1 status.2.2 := by
  have same : jobStatus (noteWalk s h c info) h c info = jobStatus s h c info := by
    simp only [jobStatus, behindDead_noteWalk]
  intro r status
  unfold takeTrap
  dsimp only
  rw [same]
  rcases kind with kind | kind <;> rw [kind]

theorem takeRefusal_engine (info : W) (at_ : Addr) :
    takeRefusal s h info at_ = endJob (setSlot (rollback s h) h (setTrapRegs .protect info at_ (slotOf (rollback s h) h)))
      (agentOf h) 3 0 (info &&& 0x00FFFFFFFFFFFFFF) := by
  have engine : (kindOf h == .porter || kindOf h == .carter) = true := by
    rcases kind with kind | kind <;> rw [kind] <;> rfl
  rw [field_low]
  exact if_pos engine

include small open_ runs

theorem jobEnding_takeTrap (c : Cause) (info : W) (tpc : Option Addr) :
    let status := jobStatus s h c info
    JobEnding (engineAt (deliverCommitted s h) (agentOf h)) (takeTrap s h c info tpc) h status.1 status.2.1 status.2.2 := by
  intro status
  rw [takeTrap_engine kind]
  exact jobEnding_endJob small open_ runs rfl c info _ status.1 status.2.1 status.2.2

theorem jobEnding_takeRefusal (info : W) (at_ : Addr) :
    JobEnding (engineAt (deliverCommitted s h) (agentOf h)) (takeRefusal s h info at_) h 3 0
      (info &&& 0x00FFFFFFFFFFFFFF) := by
  have quiet : noteWalk s h .protect info = s := by simp [noteWalk]
  have ended := jobEnding_endJob small open_ runs rfl .protect info
    (setTrapRegs .protect info at_ (slotOf (rollback s h) h)) 3 0 (info &&& 0x00FFFFFFFFFFFFFF)
  rw [quiet] at ended
  rw [takeRefusal_engine kind]
  exact ended

end

/-- Settles O19: each word and each kind of hart as `takeTrap` treats it. -/
theorem exceptionsOfWordsAndOtherModes : Obligations.ExceptionsOfWordsAndOtherModes := by
  refine ⟨fun x s settled => ⟨_, rfl, ?brk⟩, fun x s s1 a place ra settled => ⟨trap_run place ra settled, rfl⟩,
    fun w before s settled => ?illegal, fun c info s settled => runOp_trapped (op := trapWith c info) settled rfl,
    ?crash, ?clerk, ?engine⟩
  case brk =>
    rw [← w64_word]
    exact runOp_trapped (op := trapWith .brk _) settled rfl
  case illegal =>
    rw [← w64_pair]
    exact runOp_trapped (op := trapWith .illegal _) settled rfl
  case crash =>
    intro s h c info tpc running t x crash
    obtain ⟨core, clerk⟩ := crashed_takeTrap running h c info tpc
    have holds {code : BitVec 8} (crashed : Crashed s h code t) : crash code := by
      obtain ⟨stopped, hint, modw, pc⟩ := crashed.stands
      refine ⟨crashed.frozen, crashed.mem, crashed.pools, stopped, hint, modw, pc, fun k other => ?_, fun d small => ?_⟩
      · rw [crashed.other k other]
        exact ⟨crashStop_pc .., crashStop_stopped ..⟩
      · rw [crashed.dies d small, markCrash, dieOf_setDie_self]
        exact crashreg_code ..
    exact ⟨fun kind sup => holds (core kind sup), fun kind inTrap => holds (clerk kind inTrap)⟩
  case clerk =>
    intro s h c info tpc clerk outside d x t y entry
    obtain ⟨⟨keep, slot⟩, mem, pools⟩ := clerkTrapped_takeTrap clerk outside c info tpc
    have saved := trapSlot_saveBytes keep s.tick s.clock c info tpc x
    obtain ⟨queue, registers⟩ := enterHandler_entries entry (saving (trapSlot keep s.tick c info tpc x) s.clock)
    change y = enterHandler entry 0 (saving (trapSlot keep s.tick c info tpc x) s.clock) at slot
    rw [slot]
    exact ⟨(memRead_saving _ s.clock).trans saved, rfl, rfl, rfl, rfl, rfl, rfl, rfl, rfl, queue, registers, mem, pools⟩
  case engine =>
    intro s h c info tpc at_ kind small d open_ runs addr dead e r
    obtain ⟨ended, waits⟩ := jobEnding_takeTrap kind small open_ runs c info tpc
    obtain ⟨refusal, -⟩ := jobEnding_takeRefusal kind small open_ runs info at_
    obtain ⟨memerr, ring, other⟩ := jobStatus_cases s h c info
    have ending : e.ending = some (jobStatus s h c info) := congrArg Engine.ending ended
    exact ⟨(congrArg Engine.running ended).trans rfl, waits,
      fun isMemerr alive => ending.trans (congrArg some (memerr isMemerr alive)),
      ⟨fun isRing => ending.trans (congrArg some (ring isRing)),
        fun not no => ending.trans (congrArg some (other not no))⟩,
      (congrArg Engine.running refusal).trans rfl, congrArg Engine.ending refusal⟩

end Sys2Proof.Machine
end

section
/-!
PROOF. Checks of an access change nothing but what is in flight (R174).
-/
namespace Sys2Proof.Machine

/-- An operation that, where it answers, has changed nothing but what is in flight. -/
structure OnlyLooks {α : Type} (op : Op α) : Prop where
  same : ∀ s v t, op s = .ok (v, t) → SameBesidesEvents s t

section
variable {α β : Type}

theorem onlyLooks_pure (v : α) : OnlyLooks (pure v : Op α) := ⟨fun s _ _ e => by
  cases e
  exact ⟨s.events, rfl⟩⟩

theorem onlyLooks_throw (e : Stop) : OnlyLooks (throw e : Op α) := ⟨fun _ _ _ => nofun⟩

theorem onlyLooks_require (b : Bool) (c : Cause) (i : W) : OnlyLooks (require b c i) := ⟨fun s _ _ e =>
  ⟨s.events, (require_ok e).2⟩⟩

theorem onlyLooks_bind {op : Op α} {f : α → Op β} (first : OnlyLooks op) (rest : ∀ v, OnlyLooks (f v)) :
    OnlyLooks (op >>= f) := ⟨fun _ _ _ e => by
  obtain ⟨v, t, looked, next⟩ := bind_ok e
  exact (first.same _ _ _ looked).trans ((rest v).same _ _ _ next)⟩

theorem onlyLooks_get : OnlyLooks (get : Op State) := ⟨fun s _ _ e => by
  cases e
  exact ⟨s.events, rfl⟩⟩

theorem onlyLooks_curSlot : OnlyLooks curSlot := onlyLooks_bind onlyLooks_get fun _ => onlyLooks_pure _

/-- What waits where a condition holds does no more than its rest. -/
theorem onlyLooks_unlessWait {c : Prop} [Decidable c] {f : Unit → Op β} (rest : OnlyLooks (f ())) :
    OnlyLooks (if c then (waitHere >>= f) else f ()) := by
  split
  · exact ⟨fun s _ _ e => by rw [bind_of_error (waitHere_run s)] at e; cases e⟩
  · exact rest

end

/-! ### The checks -/

theorem noteTranslation_same (s : State) (h : HartId) (va : Nat) (r : WalkResult) :
    SameBesidesEvents s (noteTranslation s h va r) := by
  unfold noteTranslation
  dsimp only
  repeat' split
  all_goals exact ⟨_, rfl⟩

theorem onlyLooks_translateOp (kind va : Nat) : OnlyLooks (translateOp kind va) := by
  refine ⟨fun s v t e => ?_⟩
  replace e := (bind_of_gives (get_run s)).symm.trans e
  cases walk : translate s s.turn va with
  | unmapped _ =>
    rw [walk] at e
    cases e
  | poisoned =>
    rw [walk] at e
    cases e
  | mapped _ _ _ =>
    rw [walk] at e
    cases e
    exact noteTranslation_same ..

theorem onlyLooks_localPlace (va n : Nat) (write : Bool) (kind : Nat) : OnlyLooks (localPlace va n write kind) := by
  refine onlyLooks_bind onlyLooks_get fun s => ?_
  dsimp only
  repeat' first
    | exact onlyLooks_pure _
    | exact onlyLooks_throw _
    | exact onlyLooks_require ..
    | split
    | refine onlyLooks_bind ?_ fun _ => ?_

theorem onlyLooks_permitted (kind va : Nat) (want : Want) (sup : Bool) (a : Attrs) :
    OnlyLooks (permitted kind va want sup a) := by
  unfold permitted
  dsimp only
  repeat' first
    | exact onlyLooks_pure _
    | exact onlyLooks_throw _
    | split

theorem onlyLooks_checkAccess (kind n align : Nat) (want : Want) (window : Bool) (ea : W) :
    OnlyLooks (checkAccess kind n align want window ea) := by
  refine onlyLooks_bind (onlyLooks_require ..) fun _ => onlyLooks_bind (onlyLooks_require ..) fun _ =>
    onlyLooks_bind onlyLooks_get fun s => ?_
  split
  · exact onlyLooks_bind (onlyLooks_require ..) fun _ => onlyLooks_localPlace ..
  · refine onlyLooks_bind (onlyLooks_translateOp ..) fun _ => onlyLooks_bind (onlyLooks_require ..) fun _ =>
      onlyLooks_bind (onlyLooks_permitted ..) fun _ => ?_
    split
    · exact onlyLooks_throw _
    · exact onlyLooks_pure _
    · exact onlyLooks_pure _
    · exact onlyLooks_pure _

theorem onlyLooks_settleCells (ca n : Nat) : OnlyLooks (settleCells ca n) := by
  refine onlyLooks_bind onlyLooks_get fun s => ?_
  dsimp only
  split
  · exact onlyLooks_pure _
  · exact onlyLooks_throw _

theorem onlyLooks_settleBytes (l : Loc) (n : Nat) : OnlyLooks (settleBytes l n) := by
  refine onlyLooks_bind onlyLooks_get fun s => onlyLooks_unlessWait ?_
  split
  · exact onlyLooks_settleCells ..
  · exact onlyLooks_pure _

theorem onlyLooks_portAddress (p : BitVec 2) (write : Bool) : OnlyLooks (portAddress p write) :=
  onlyLooks_bind onlyLooks_curSlot fun _ => onlyLooks_bind (onlyLooks_require ..) fun _ =>
    onlyLooks_bind (onlyLooks_require ..) fun _ => onlyLooks_bind (onlyLooks_require ..) fun _ => onlyLooks_pure _

/-! ### A place for a result still to come -/

/-- A place is taken in the executing slot's queue, registers and streams. -/
structure PlaceTaken (s t : State) : Prop where
  kept : ∃ q n rep str events tags, t = { s with
    cur := { s.cur with q := q, n := n, rep := rep, str := str }, events := events, tags := tags }

theorem PlaceTaken.trans {s t u : State} (h : PlaceTaken s t) (g : PlaceTaken t u) : PlaceTaken s u := by
  obtain ⟨_, _, _, _, _, _, rfl⟩ := h.kept
  obtain ⟨q, n, rep, str, events, tags, rfl⟩ := g.kept
  exact ⟨q, n, rep, str, events, tags, rfl⟩

theorem SameBesidesEvents.placeTaken {s t : State} (h : SameBesidesEvents s t) : PlaceTaken s t := by
  obtain ⟨events, rfl⟩ := h
  exact ⟨s.cur.q, s.cur.n, s.cur.rep, s.cur.str, events, s.tags, rfl⟩

theorem placeTaken_writeNamed (s : State) (i : BitVec 3) (e : Entry) :
    PlaceTaken s { s with cur := writeNamed s.cur i e } := by
  unfold writeNamed
  split
  · exact ⟨s.cur.q, s.cur.n, _, s.cur.str, s.events, s.tags, rfl⟩
  · exact ⟨s.cur.q, _, s.cur.rep, s.cur.str, s.events, s.tags, rfl⟩

theorem placeTaken_reserveElement {p : BitVec 2} {cycle : Nat} {s t : State} {dest : Dest}
    (h : reserveElement p cycle s = .ok (dest, t)) : PlaceTaken s t := by
  unfold reserveElement at h
  rw [bind_of_gives (get_run s)] at h
  split at h
  · cases h
  · obtain ⟨⟨g, a⟩, s1, address, h⟩ := bind_ok h
    obtain ⟨q, s2, checked, h⟩ := bind_ok h
    obtain ⟨_, s3, settled, h⟩ := bind_ok h
    cases h
    have looked := (((onlyLooks_portAddress ..).same _ _ _ address).trans ((onlyLooks_checkAccess ..).same _ _ _ checked)).trans
      ((onlyLooks_settleBytes ..).same _ _ _ settled)
    exact looked.placeTaken.trans ⟨s3.cur.q, s3.cur.n, s3.cur.rep, _, s3.events, s3.tags, rfl⟩

theorem placeTaken_reserveBy {cycle tag : Nat} {d : Sel} {dest : Dest} {s t : State}
    (h : Gives (reserveBy cycle d) s (tag, dest) t) : PlaceTaken s t := by
  have pushed (e : Entry) : PlaceTaken s { s with cur := { s.cur with q := pushQueue s.cur.q e }, tags := s.tags + 1 } :=
    ⟨_, s.cur.n, s.cur.rep, s.cur.str, s.events, _, rfl⟩
  change reserveBy cycle d s = _ at h
  unfold reserveBy at h
  rw [bind_of_gives (get_run s)] at h
  obtain ⟨_, s1, fresh, h⟩ := bind_ok h
  cases fresh
  dsimp only at h
  split at h
  · cases h
    exact pushed _
  · split at h
    · split at h
      · cases h
      · cases h
        exact (pushed _).trans (placeTaken_writeNamed ..)
    · split at h
      · obtain ⟨_, s2, first, h⟩ := bind_ok h
        cases first
        obtain ⟨_, s3, element, h⟩ := bind_ok h
        cases h
        exact (pushed _).trans (placeTaken_reserveElement element)
      · cases h

end Sys2Proof.Machine
end

section
/-!
PROOF. FP divisions and square roots, and late faults (O28).
-/
namespace Sys2Proof.Machine

/-! ### The FP divide unit (R160, R161) -/

/-- TINFO of an FP trap as its fields (R150). -/
theorem fpInfo_eq (w : Word32) (tripped raised : BitVec 5) :
    fpInfo w.toNat tripped raised = w ++ (0 : BitVec 19) ++ tripped ++ (0 : BitVec 3) ++ raised := by
  apply BitVec.eq_of_toNat_eq
  rw [toNat_append_eq, toNat_append_eq, toNat_append_eq, toNat_append_eq, fpInfo, w64, BitVec.toNat_ofNat]
  have small := tripped.isLt
  have small' := raised.isLt
  have none : (0 : BitVec 19).toNat = 0 ∧ (0 : BitVec 3).toNat = 0 := ⟨rfl, rfl⟩
  omega

theorem fpCycles_eq (fmt : BitVec 2) (root special : Bool) : fpCycles fmt root special =
    if special then 4 else if fmt = 0 then (if root then 26 else 22) else if fmt = 1 then (if root then 14 else 12) else 8 := by
  have each : ∀ fmt : BitVec 2, (match fmt.toNat with
      | 0 => if root then 26 else 22
      | 1 => if root then 14 else 12
      | _ => 8) = if fmt = 0 then (if root then 26 else 22) else if fmt = 1 then (if root then 14 else 12) else 8 := by
    cases root <;> decide
  rw [← each]
  rfl

/-- The unit of a hart's slot is at work while a trap or a result of its is still to come. -/
theorem fpDividing_iff (s : State) (h : HartId) : fpDividing s h = true ↔
    (∃ q ∈ (slotOf s h).fpTraps, q.divides = true) ∨ ∃ q fl, .fpDivideComplete q fl ∈ s.events ∧ q.h = h := by
  unfold fpDividing
  rw [Bool.or_eq_true, List.any_eq_true, List.any_eq_true]
  refine or_congr_right ⟨fun ⟨e, mem, own⟩ => ?_, fun ⟨q, fl, mem, own⟩ => ⟨_, mem, by simp [own]⟩⟩
  cases e with
  | fpDivideComplete q fl => exact ⟨q, fl, mem, by simpa using own⟩
  | _ => simp at own

section
variable {i : Instr} {st : BitVec 3} {d : Sel} {n : Nat} {r : FpResult} {u t : State}

theorem fpVariable_waits (busy : fpDividing u u.turn = true) : fpVariable i st d n r u = .error (.wait id) := by
  rw [fpVariable, bind_of_gives (get_run u), if_pos busy]
  rfl

variable {tag : Nat} {dest : Dest} (free : fpDividing u u.turn = false)
  (place : Gives (reserveBy (u.tick + n) d) u (tag, dest) t)
include free place

/-- With no raised flag enabled the result follows. -/
theorem fpVariable_follows (quiet : r.flags &&& u.cur.fpte = 0) : fpVariable i st d n r u =
    .ok ((), issued st (emit t (.fpDivideComplete ⟨u.turn, tag, dest, BitVec.ofNat 64 r.bits, u.tick + n⟩ r.flags))) := by
  rw [fpVariable, bind_of_gives (get_run u), if_neg (by simp [free])]
  refine (bind_of_gives place).trans ?_
  dsimp only
  rw [if_pos quiet]
  rfl

/-- Otherwise the slot keeps the trap for the result's cycle. -/
theorem fpVariable_traps {w : Word32} (word : encode i = some w) (raised : r.flags &&& u.cur.fpte ≠ 0) :
    fpVariable i st d n r u = .ok ((), issued st { t with cur := { t.cur with
      fpTraps := t.cur.fpTraps ++ [⟨u.tick + n, u.cur.gpc,
        w ++ (0 : BitVec 19) ++ (r.flags &&& u.cur.fpte) ++ (0 : BitVec 3) ++ r.flags, true⟩] } }) := by
  have number : wordOf i = w.toNat := by simp [wordOf, word]
  rw [fpVariable, bind_of_gives (get_run u), if_neg (by simp [free])]
  refine (bind_of_gives place).trans ?_
  obtain ⟨q, m, rep, str, events, tags, rfl⟩ := (placeTaken_reserveBy place).kept
  dsimp only
  rw [if_neg raised, ← fpInfo_eq, ← number]
  rfl

end

/-- FDIV once its sources and its mode are read. -/
theorem fdiv_reads {x : FRRR} {s s1 s2 : State} {a b : W} {r : Rounding} (ra : Reads s x.a a s1) (rb : Reads s1 x.b b s2)
    (mode : Gives (roundingFor 0) s2 r s2) : ∃ op, exec (.fdiv x) = runOp op ∧ op s =
      (let p := unpack (fmtOf x.fmt) a.toNat
       let q := unpack (fmtOf x.fmt) b.toNat
       fpVariable (.fdiv x) x.st x.d (fpCycles x.fmt false !(p.ordinary && q.ordinary)) (divFp (fmtOf x.fmt) r p q)) s2 :=
  ⟨_, rfl, (bind_of_gives ra).trans ((bind_of_gives rb).trans (bind_of_gives mode))⟩

/-- FSQRT once its source and its mode are read. -/
theorem fsqrt_reads {x : FRR} {s s1 : State} {a : W} {r : Rounding} (ra : Reads s x.a a s1)
    (mode : Gives (roundingFor 0) s1 r s1) : ∃ op, exec (.fsqrt x) = runOp op ∧ op s =
      (let p := unpack (fmtOf x.fmt) a.toNat
       fpVariable (.fsqrt x) x.st x.d (fpCycles x.fmt true (!p.ordinary || p.neg)) (sqrtFp (fmtOf x.fmt) r p)) s1 :=
  ⟨_, rfl, (bind_of_gives ra).trans (bind_of_gives mode)⟩

/-! ### Late faults (R176, R424) -/

theorem insertFault_perm (f : LateFault) (l : List LateFault) : (insertFault f l).Perm (f :: l) := by
  refine List.perm_middle.trans (List.Perm.cons f ?_)
  rw [List.takeWhile_append_dropWhile]

/-- What is behind the first failure that is younger is younger too. -/
theorem dropWhile_younger {l : List LateFault} (sorted : l.Pairwise fun a b => a.op.age ≤ b.op.age) (n : Nat) :
    ∀ g ∈ l.dropWhile fun g => decide (g.op.age ≤ n), n ≤ g.op.age := by
  induction l with
  | nil => nofun
  | cons a l ih =>
    obtain ⟨first, rest⟩ := List.pairwise_cons.mp sorted
    intro g mem
    by_cases older : a.op.age ≤ n
    · rw [List.dropWhile_cons_of_pos (by simpa using older)] at mem
      exact ih rest g mem
    · rw [List.dropWhile_cons_of_neg (by simpa using older)] at mem
      rcases List.mem_cons.mp mem with rfl | behind
      · exact Nat.le_of_not_le older
      · exact Nat.le_trans (Nat.le_of_not_le older) (first g behind)

theorem insertFault_sorted {f : LateFault} {l : List LateFault} (sorted : l.Pairwise fun a b => a.op.age ≤ b.op.age) :
    (insertFault f l).Pairwise fun a b => a.op.age ≤ b.op.age := by
  have older : ∀ g ∈ l.takeWhile fun g => decide (g.op.age ≤ f.op.age), g.op.age ≤ f.op.age := fun g mem => by
    simpa using List.mem_takeWhile_imp mem
  have younger := dropWhile_younger sorted f.op.age
  refine List.pairwise_append.mpr ⟨sorted.sublist (List.takeWhile_sublist _),
    List.pairwise_cons.mpr ⟨younger, sorted.sublist (List.dropWhile_sublist _)⟩, fun g before k behind => ?_⟩
  rcases List.mem_cons.mp behind with rfl | behind
  · exact older g before
  · exact Nat.le_trans (older g before) (younger k behind)

theorem insertFault_ne_nil (f : LateFault) (l : List LateFault) : insertFault f l ≠ [] := by
  simp [insertFault]

theorem holdFault_lateFaults (s : State) (h : HartId) (f : LateFault) :
    (slotOf (holdFault s h f) h).lateFaults = insertFault f (slotOf s h).lateFaults := by
  rw [holdFault, slotOf_setSlot_self]

/-- A slot that keeps a failure keeps one whatever others come. -/
theorem holdFault_foldl_ne_nil {s : State} {h : HartId} (kept : (slotOf s h).lateFaults ≠ []) (l : List LateFault) :
    (slotOf (l.foldl (fun u g => holdFault u h g) s) h).lateFaults ≠ [] := by
  induction l generalizing s with
  | nil => exact kept
  | cons g l ih => exact ih (by rw [holdFault_lateFaults]; exact insertFault_ne_nil _ _)

theorem takeOldest_cons {s : State} {h : HartId} {g : LateFault} {gs : List LateFault} (kept : (slotOf s h).lateFaults = g :: gs) :
    takeOldest s h = takeTrap (setSlot s h { slotOf s h with lateFaults := gs }) h g.cause g.info (some g.op.tpc) := by
  simp only [takeOldest, kept]

/-- A late fault outside supervisor code while a LAUNCH status is awaited, and with none awaited. -/
theorem lateFault_user {s : State} {h : HartId} (user : kindOf h ≠ .core ∨ (slotOf s h).sup = false) (f : LateFault) :
    ((slotOf s h).launches ≠ 0 → exec (.lateFault h f.cause f.info f.op) s = .next (holdFault s h f)) ∧
      ((slotOf s h).launches = 0 →
        let first := holdFault s h f
        exec (.lateFault h f.cause f.info f.op) s = .next (takeOldest ((first.events.filterMap (faultOf h)).foldl
          (fun u g => holdFault u h g) { first with events := first.events.filter fun e => (faultOf h e).isNone }) h)) := by
  have notCrash : ¬ (kindOf h = .core ∧ (slotOf s h).sup = true) := fun ⟨core, sup⟩ =>
    user.elim (fun other => other core) fun user => by simp [user] at sup
  have launches : (slotOf (holdFault s h f) h).launches = (slotOf s h).launches := by
    rw [holdFault, slotOf_setSlot_self]
  exact ⟨fun awaited => (if_neg notCrash).trans (if_pos (launches ▸ awaited)),
    fun settled => (if_neg notCrash).trans (if_neg (not_not_intro (launches ▸ settled)))⟩

/-- Settles O28: the issue, the result or trap that follows, and the late faults in the order of their operations. -/
theorem fpDividesAndRoots : Obligations.FpDividesAndRoots := by
  refine ⟨fun x y s s1 s2 a b r => ?issue, fun x y s s1 s2 a b r busy => ⟨fun ra rb mode => ?divWaits, fun ra mode => ?rootWaits⟩,
    fpDividing_iff, fun q fl s => rfl, fun h tpc info s => rfl, fun h c info o s => ⟨fun core sup => ?crash, fun user => ?user, ?hold⟩⟩
  case issue =>
    intro ordinary cycles follows
    have usual (v : FpVal) : v.ordinary = ordinary v := by cases v <;> rfl
    have reads {i : Instr} {st : BitVec 3} {d : Sel} {u : State} {n : Nat} {res : FpResult} {w : Word32} {op : Op Unit}
        (word : encode i = some w) (meaning : exec i = runOp op) (run : op s = fpVariable i st d n res u) :
        follows i st d u n res := by
      intro free t tag dest place
      rw [meaning]
      exact ⟨fun quiet => runOp_ok (u := ()) (run.trans (fpVariable_follows free place quiet)),
        fun raised => ⟨w, word, runOp_ok (u := ()) (run.trans (fpVariable_traps free place word raised))⟩⟩
    refine ⟨fun ra rb mode => ?_, fun ra mode => ?_⟩
    · obtain ⟨op, meaning, run⟩ := fdiv_reads ra rb mode
      simp only [fpCycles_eq, usual] at run
      exact reads rfl meaning run
    · obtain ⟨op, meaning, run⟩ := fsqrt_reads ra mode
      simp only [fpCycles_eq, usual] at run
      exact reads rfl meaning run
  case divWaits =>
    obtain ⟨op, meaning, run⟩ := fdiv_reads ra rb mode
    rw [meaning]
    exact runOp_wait (f := id) (run.trans (fpVariable_waits busy))
  case rootWaits =>
    obtain ⟨op, meaning, run⟩ := fsqrt_reads ra mode
    rw [meaning]
    exact runOp_wait (f := id) (run.trans (fpVariable_waits busy))
  case crash => exact if_pos ⟨core, sup⟩
  case user =>
    obtain ⟨awaited, settled⟩ := lateFault_user user ⟨c, info, o⟩
    refine ⟨awaited, fun none => ?_⟩
    intro first kept
    have some_ : (slotOf kept h).lateFaults ≠ [] :=
      holdFault_foldl_ne_nil (by rw [slotOf_events, holdFault_lateFaults]; exact insertFault_ne_nil _ _) _
    obtain ⟨g, gs, list⟩ := List.exists_cons_of_ne_nil some_
    exact ⟨g, gs, list, (settled none).trans (congrArg Host.Outcome.next (takeOldest_cons list))⟩
  case hold => exact ⟨_, rfl, insertFault_perm .., insertFault_sorted⟩

end Sys2Proof.Machine
end

section
/-!
PROOF. Loads and stores (O32).
-/
namespace Sys2Proof.Machine

/-! ### Acquires, releases and answers -/

/-- An acquire beyond core scope discards the shared lines (R310). -/
theorem acquire_run (scope : Nat) (s : State) : acquire (scope + 1) s = .ok ((), if kindOf s.turn = .core then setCore s
    (agentOf s.turn) { coreOf s (agentOf s.turn) with l1 := (coreOf s (agentOf s.turn)).l1.filter fun l => !l.shared }
    else s) := by
  by_cases core : kindOf s.turn = .core
  · rw [acquire, modify_run, if_neg (by simp [core]), if_pos core]
    rfl
  · rw [acquire, modify_run, if_pos (.inr core), if_neg core]

/-- A release beyond core scope writes the dirty lines back (R309). -/
theorem release_run (scope : Nat) (s : State) : release (scope + 1) s =
    .ok ((), if kindOf s.turn = .core then flushDirty s (agentOf s.turn) else s) := by
  by_cases core : kindOf s.turn = .core
  · rw [release, modify_run, if_neg (by simp [core]), if_pos core]
  · rw [release, modify_run, if_pos (.inr core), if_neg core]

theorem settleStores_run {s : State} (none : accessesPending s = false) : settleStores s = .ok ((), s) := by
  rw [settleStores, bind_of_gives (get_run s), if_neg (by simp [none])]
  rfl

/-- A load's end. -/
theorem answerLoad_run {st : BitVec 3} {d : Sel} {bs : List Byte} {due tag : Nat} {dest : Dest} {u t : State}
    (place : Gives (reserveBy due d) u (tag, dest) t) : answerLoad st d bs due u =
      .ok ((), issued st (emit t (.loadResponse ⟨t.turn, tag, dest, BitVec.ofNat 64 (leNat bs), due⟩))) :=
  bind_of_gives place

/-- Settles O32: each word runs its checks in their order and ends in the load's answer or the store. -/
theorem loadAndStoreInstructions : Obligations.LoadAndStoreInstructions := by
  unfold Obligations.LoadAndStoreInstructions
  intro addr answers
  refine ⟨fun x s s1 u a bs ra load t tag dest place => runOp_ok (u := ()) ?ld,
    fun x s s1 s2 u a p bs ra check load t tag dest place => runOp_ok (u := ()) ?acq,
    fun x s s1 s2 s3 u a b p bs ra rb => ⟨fun check load t tag dest place => runOp_ok (u := ()) ?lds,
      fun ca check loc load t tag dest place => runOp_ok (u := ()) ?ldk⟩,
    fun x s s1 s2 t a v ra rv store => runOp_ok (u := ()) ?st,
    fun x s s1 s2 s3 t a v p ra rv check none store => runOp_ok (u := ()) ?rel,
    fun x s s1 s2 s3 s4 t a b v p ra rb rv check store => runOp_ok (u := ()) ?sts,
    fun r s => rfl, fun c s => rfl⟩
  case ld =>
    rw [bind_of_gives (curSlot_run s), bind_of_gives ra]
    exact (bind_of_gives load).trans (answerLoad_run place)
  case acq =>
    rw [bind_of_gives (curSlot_run s), bind_of_gives ra]
    exact (bind_of_gives check).trans ((bind_of_gives (acquire_run _ s2)).trans ((bind_of_gives load).trans
      (answerLoad_run place)))
  case lds =>
    rw [bind_of_gives ra, bind_of_gives rb]
    exact (bind_of_gives check).trans ((bind_of_gives load).trans ((bind_of_gives (get_run u)).trans (answerLoad_run place)))
  case ldk =>
    rw [bind_of_gives ra, bind_of_gives rb]
    refine (bind_of_gives check).trans ?_
    rw [loc]
    exact (bind_of_gives load).trans (answerLoad_run place)
  case st =>
    rw [bind_of_gives (curSlot_run s), bind_of_gives ra, bind_of_gives rv]
    exact (bind_of_gives store).trans (finish_run ..)
  case rel =>
    rw [bind_of_gives (curSlot_run s), bind_of_gives ra, bind_of_gives rv]
    exact (bind_of_gives check).trans ((bind_of_gives (settleStores_run none)).trans ((bind_of_gives (release_run _ s3)).trans
      ((bind_of_gives store).trans (finish_run ..))))
  case sts =>
    rw [bind_of_gives ra, bind_of_gives rb, bind_of_gives rv]
    exact (bind_of_gives check).trans ((bind_of_gives store).trans (finish_run ..))

end Sys2Proof.Machine
end

section
/-!
PROOF. What comes between the words of a group (O14).
-/
namespace Sys2Proof.Machine

/-- A kick that stands before another operation comes before it, whatever the other one is (R390). -/
theorem nextResult_kick (tick : Nat) (engine : BitVec 12) (port : Nat) (rest : List Event) :
    nextResult tick (.kick engine port :: rest) = some (.kick engine port, rest) := by
  simp [nextResult, oldestOf, betweenWords, eventDue, resultOf]

/-- Refutes O14: its clause on what comes between the words of a group counts results and performing stores alone, but
`nextResult` also lets a kick happen there. With a kick of port 0 of porter 2048 in flight before a load's response that is
due, the kick comes first and not the response. -/
theorem not_aStepRunsTheDecodedWord : ¬ Obligations.AStepRunsTheDecodedWord := by
  intro ⟨_, _, _, _, _, _, oldest, _⟩
  have kickIsNone : ∀ x ∈ [Event.kick 2048 0], ¬ (eventDue x ≤ 0 ∧ ((∃ r, resultOf x = some r) ∨ ∃ r, x = .storePerform r)) := by
    simp [resultOf]
  have responseFirst := oldest 0 [.kick 2048 0] [] (.loadResponse ⟨0, 0, .none, 0, 0⟩) kickIsNone
    ⟨Nat.le_refl 0, .inl ⟨_, rfl⟩⟩
  have kickFirst := nextResult_kick 0 2048 0 [.loadResponse ⟨0, 0, .none, 0, 0⟩]
  cases kickFirst.symm.trans responseFirst

end Sys2Proof.Machine
end

section
/-!
PROOF. Two-source integer instructions (O3).
-/
namespace Sys2Proof.Machine

/-! ### Results (R97, R99, R105) -/

theorem minResult_eq (a b : W) : minResult a b = if a.sle b then a else b := by simp [minResult, BitVec.sle]

theorem maxResult_eq (a b : W) : maxResult a b = if b.sle a then a else b := by simp [maxResult, BitVec.sle]

theorem minuResult_eq (a b : W) : minuResult a b = if a.ule b then a else b := by simp [minuResult, BitVec.ule]

theorem maxuResult_eq (a b : W) : maxuResult a b = if b.ule a then a else b := by simp [maxuResult, BitVec.ule]

/-- The high half of a doubled word is its signed value divided, rounding down. -/
theorem extractLsb'_high (p : BitVec 128) : p.extractLsb' 64 64 = BitVec.ofInt 64 (p.toInt / 2 ^ 64) := by
  have bound := p.isLt
  apply BitVec.eq_of_toNat_eq
  rw [BitVec.extractLsb'_toNat, BitVec.toNat_ofInt, BitVec.toInt_eq_toNat_cond, Nat.shiftRight_eq_div_pow]
  split <;> omega

theorem mulhResult_eq (a b : W) :
    mulhResult a b = (a.signExtend 128 * b.signExtend 128).extractLsb' 64 64 := by
  have product : (a.signExtend 128 * b.signExtend 128).toInt = a.toInt * b.toInt := by
    have low := BitVec.le_toInt_mul_toInt (x := a) (y := b)
    have high := BitVec.toInt_mul_toInt_le (x := a) (y := b)
    rw [BitVec.toInt_mul, BitVec.toInt_signExtend_of_le (by decide), BitVec.toInt_signExtend_of_le (by decide)]
    exact Int.bmod_eq_of_le (by omega) (by omega)
  rw [extractLsb'_high, product, mulhResult]

theorem mulhuResult_eq (a b : W) : mulhuResult a b = (a.setWidth 128 * b.setWidth 128).extractLsb' 64 64 := by
  have product : a.toNat * b.toNat < 2 ^ 128 :=
    Nat.lt_of_lt_of_eq (Nat.mul_lt_mul'' a.isLt b.isLt) (by norm_num)
  apply BitVec.eq_of_toNat_eq
  rw [mulhuResult, w64, BitVec.toNat_ofNat, BitVec.extractLsb'_toNat, BitVec.toNat_mul, BitVec.toNat_setWidth_of_le (by decide),
    BitVec.toNat_setWidth_of_le (by decide), Nat.mod_eq_of_lt product, Nat.shiftRight_eq_div_pow]

theorem flagWord_decide (p : Prop) [Decidable p] : flagWord (decide p) = if p then 1 else 0 := by
  simp [flagWord]

theorem flagWord_beq (a b : W) : flagWord (a == b) = if a = b then 1 else 0 := by simp [flagWord]

theorem flagWord_bne (a b : W) : flagWord (a != b) = if a ≠ b then 1 else 0 := by simp [flagWord]

/-! ### Shapes (R86, R91) -/

theorem binary_run {x : RRR} {n : Nat} {f : W → W → W} {s s1 s2 t : State} {a b r : W} (ra : Reads s x.a a s1)
    (rb : Reads s1 x.b b s2) (value : f a b = r) (result : Produces s2 x.d r n t) :
    runOp (binary x n f) s = .next (issued x.st t) :=
  runOp_ok (by subst value; rw [binary, bind_of_gives ra, bind_of_gives rb, bind_of_gives result, finish_run])

theorem unary_run {x : RR} {n : Nat} {f : W → W} {s s1 t : State} {a r : W} (ra : Reads s x.a a s1) (value : f a = r)
    (result : Produces s1 x.d r n t) : runOp (unary x n f) s = .next (issued x.st t) :=
  runOp_ok (by subst value; rw [unary, bind_of_gives ra, bind_of_gives result, finish_run])

/-- Settles O3: each word is `binary` or `unary` with its result. -/
theorem integerTwoSourceResults : Obligations.IntegerTwoSourceResults := by
  intro x s s1 s2 a b ra rb done
  have run {i : Instr} {n : Nat} {f : W → W → W} {r : W} (meaning : exec i = runOp (binary x n f)) (value : f a b = r) :
      done i n r := fun t result => by rw [meaning, binary_run ra rb value result]
  refine ⟨fun y t hy hd result => unary_run (by rw [hy]; exact ra) rfl result, ?_⟩
  exact ⟨run rfl rfl, run rfl rfl, run rfl rfl, run rfl rfl, run rfl rfl, run rfl rfl, run rfl rfl,
    run rfl (minResult_eq a b), run rfl (maxResult_eq a b), run rfl (minuResult_eq a b), run rfl (maxuResult_eq a b),
    run rfl rfl, run rfl (mulhResult_eq a b), run rfl (mulhuResult_eq a b), run rfl (flagWord_beq a b),
    run rfl (flagWord_bne a b), run rfl (flagWord_slt a b), run rfl (flagWord_decide _), run rfl (flagWord_decide _),
    run rfl (flagWord_decide _)⟩

end Sys2Proof.Machine
end

section
/-!
PROOF. What an integer word without a stream port leaves unchanged (O9).
-/
namespace Sys2Proof.Machine

/-! ### Words that answer or wait -/

/-- An operation ends normally in a state of which `p` holds, or it waits at issue with nothing registered. -/
def RunsOrWaits {α : Type} (op : Op α) (s : State) (p : State → Prop) : Prop :=
  (∃ v t, op s = .ok (v, t) ∧ p t) ∨ op s = .error (.wait id)

section
variable {α β : Type} {op : Op α} {f : α → Op β} {s t : State} {p q : State → Prop}

theorem runsOrWaits_after {v : α} (first : Gives op s v t) (rest : RunsOrWaits (f v) t q) : RunsOrWaits (op >>= f) s q := by
  unfold RunsOrWaits
  rw [bind_of_gives first]
  exact rest

theorem runsOrWaits_bind (first : RunsOrWaits op s p) (rest : ∀ v t, p t → RunsOrWaits (f v) t q) :
    RunsOrWaits (op >>= f) s q := by
  rcases first with ⟨v, t, run, hp⟩ | wait
  · exact runsOrWaits_after run (rest v t hp)
  · exact .inr (bind_of_error wait)

/-- What waits where a condition holds does otherwise what follows. -/
theorem runsOrWaits_unlessWait {c : Prop} [Decidable c] {f : Unit → Op β} (rest : ¬ c → RunsOrWaits (f ()) s q) :
    RunsOrWaits (if c then (waitHere >>= f) else f ()) s q := by
  split
  next => exact .inr (bind_of_error (waitHere_run s))
  next free => exact rest free

/-- A word that answers has run to its end, or waits unissued. -/
theorem RunsOrWaits.next {op : Op Unit} (h : RunsOrWaits op s p) (answer : runOp op s = .next t) :
    p t ∨ t = { s with cur := unissued s.cur } := by
  rcases h with ⟨v, u, run, hp⟩ | wait
  · rw [runOp_ok run] at answer
    cases answer
    exact .inl hp
  · rw [runOp_wait wait] at answer
    cases answer
    exact .inr rfl

end

/-! ### Fields that select no stream port (R45) -/

/-- The field selects no stream port. -/
def PortFree (f : Sel) : Prop := f.toNat < 24 ∨ 28 ≤ f.toNat

/-- A legal source that is no port gives its value and changes nothing, or waits for it (R53). -/
theorem runsOrWaits_readSel {f : Sel} (legal : srcOk f = true) (plain : PortFree f) (s : State) :
    RunsOrWaits (readSel f) s (· = s) := by
  have entry (e : Entry) (h : readSel f s = readEntry e s) : RunsOrWaits (readSel f) s (· = s) := by
    by_cases filled : e.tag = 0
    · exact .inl ⟨e.val, s, by simp [h, readEntry, filled], rfl⟩
    · exact .inr (h.trans (readEntry_wait s filled))
  have bound := f.isLt
  have notIllegal : f.toNat ≠ 31 := fun h => by
    rw [show f = 31 from BitVec.eq_of_toNat_eq h] at legal
    cases legal
  have other : f.toNat < 16 ∨ (16 ≤ f.toNat ∧ f.toNat < 24) ∨ f.toNat = 28 ∨ f.toNat = 29 ∨ f.toNat = 30 := by
    rcases plain with low | high <;> omega
  rcases other with queue | ⟨low, high⟩ | zero | hint | ident
  · exact entry _ (readSel_queue s queue)
  · exact entry _ (readSel_named s low high)
  · rw [show f = 28 from BitVec.eq_of_toNat_eq zero]
    exact .inl ⟨_, s, rfl, rfl⟩
  · rw [show f = 29 from BitVec.eq_of_toNat_eq hint]
    exact .inl ⟨_, s, rfl, rfl⟩
  · rw [show f = 30 from BitVec.eq_of_toNat_eq ident]
    exact .inl ⟨_, s, rfl, rfl⟩

/-- A legal destination that is no port is the queue alone or a named register. -/
theorem dstOk_portFree {d : Sel} (legal : dstOk d = true) (plain : PortFree d) :
    d = 0 ∨ ∃ i : BitVec 3, d = BitVec.ofNat 5 (16 + i.toNat) := by
  simp only [dstOk, Bool.or_eq_true, beq_iff_eq, Bool.and_eq_true, decide_eq_true_eq] at legal
  rcases legal with queue | ⟨low, high⟩
  · exact .inl queue
  · have named : d.toNat < 24 := by
      rcases plain with h | h <;> omega
    refine .inr ⟨BitVec.ofNat 3 (d.toNat - 16), BitVec.eq_of_toNat_eq ?_⟩
    rw [namedSel_toNat, BitVec.toNat_ofNat]
    omega

/-! ### The place of a result (R53, R55) -/

/-- From one state to another a result has taken its place, in the queue and where `d` selects a named register. -/
structure ResultPlaced (d : Sel) (s t : State) : Prop where
  slot : ∃ q n rep late tags, t = { s with cur := { s.cur with q := q, n := n, rep := rep, late := late }, tags := tags }
  named : ∀ j, j < 8 → j + 16 ≠ d.toNat → nEntry t.cur j = nEntry s.cur j

theorem nEntry_set_other (x : Slot) {i : BitVec 3} {j : Nat} (ne : j ≠ i.toNat) (e : Entry) :
    nEntry { x with n := x.n.set i.toNat e i.isLt } j = nEntry x j := by
  unfold nEntry
  split
  · exact Vector.getElem_set_ne i.isLt _ ne.symm
  · rfl

theorem nEntry_writeNamed_other (x : Slot) {i : BitVec 3} {j : Nat} (ne : j ≠ i.toNat) (e : Entry) :
    nEntry (writeNamed x i e) j = nEntry x j := by
  unfold writeNamed
  split
  · rfl
  · exact nEntry_set_other x ne e

/-- A named register written, with the queue, the writes on their way and the next tag in any state. -/
theorem resultPlaced_writeNamed (s : State) (i : BitVec 3) (e : Entry) (q : Vector Entry 16) (late : List LateWrite) (tags : Nat) :
    ResultPlaced (BitVec.ofNat 5 (16 + i.toNat)) s
      { s with cur := writeNamed { s.cur with q := q, late := late } i e, tags := tags } := by
  refine ⟨?_, fun j hj ne => ?_⟩
  · unfold writeNamed
    split
    · exact ⟨q, s.cur.n, _, late, tags, rfl⟩
    · exact ⟨q, _, s.cur.rep, late, tags, rfl⟩
  · rw [namedSel_toNat] at ne
    exact nEntry_writeNamed_other _ (by omega) e

theorem resultPlaced_queue (s : State) (q : Vector Entry 16) (tags : Nat) :
    ResultPlaced 0 s { s with cur := { s.cur with q := q }, tags := tags } :=
  ⟨⟨q, s.cur.n, s.cur.rep, s.cur.late, tags, rfl⟩, fun _ _ _ => rfl⟩

section
variable {d : Sel} (legal : dstOk d = true) (plain : PortFree d)
include legal plain

/-- A fixed-latency result that goes to no port takes its place in the executing slot, or waits for its register. -/
theorem runsOrWaits_produce (v : W) (n : Nat) (s : State) :
    RunsOrWaits (produce d v n) s fun t => OnlySlot s t ∧ ResultPlaced d s t := by
  rcases dstOk_portFree legal plain with rfl | ⟨i, rfl⟩
  · exact .inl ⟨(), _, rfl, ⟨_, rfl⟩, resultPlaced_queue s _ s.tags⟩
  · cases free : awaited s.cur i.toNat with
    | true => exact .inr (produceAt_named_wait i v _ free)
    | false =>
      refine .inl ⟨(), _, produceAt_named_run i v _ free, ⟨_, rfl⟩, ?_⟩
      rw [keepOld_late]
      exact resultPlaced_writeNamed s i _ _ _ s.tags

/-- The place of a result still to come is taken likewise, with the next tag. -/
theorem runsOrWaits_reserveBy (cycle : Nat) (s : State) : RunsOrWaits (reserveBy cycle d) s (ResultPlaced d s) := by
  rcases dstOk_portFree legal plain with rfl | ⟨i, rfl⟩
  · exact .inl ⟨_, _, rfl, resultPlaced_queue s _ _⟩
  · have hi := i.isLt
    unfold reserveBy
    refine runsOrWaits_after (get_run s) (runsOrWaits_after (t := { s with tags := s.tags + 1 }) rfl ?_)
    simp only [namedSel_toNat]
    rw [if_neg (by omega), if_pos (by omega), Nat.add_sub_cancel_left, BitVec.ofNat_toNat, BitVec.setWidth_eq]
    exact runsOrWaits_unlessWait fun _ => .inl ⟨_, _, rfl, resultPlaced_writeNamed s i _ _ s.cur.late _⟩

end

/-! ### The frame of a word (R88, R93 to R95) -/

/-- From one slot to another the frame is unchanged, and of the named registers only the one that `d` selects may differ. -/
def SlotKept (d : Sel) (x y : Slot) : Prop := SlotFrame x y ∧ ∀ j, j < 8 → j + 16 ≠ d.toNat → nEntry y j = nEntry x j

theorem slotKept_unissued (d : Sel) (x : Slot) : SlotKept d x (unissued x) := by
  unfold unissued
  split
  · exact ⟨by simp [SlotFrame, fpflagsFinal], fun _ _ _ => rfl⟩
  · exact ⟨by simp [SlotFrame], fun _ _ _ => rfl⟩

theorem ResultPlaced.slotKept {d : Sel} {s t : State} (h : ResultPlaced d s t) (st : BitVec 3) :
    SlotKept d s.cur (issued st t).cur := by
  obtain ⟨⟨q, n, rep, late, tags, rfl⟩, named⟩ := h
  exact ⟨by simp [SlotFrame, issued, afterWord, advance, fpflagsFinal], named⟩

/-- Between two states only the executing slot differs, and its frame is kept. -/
def WordKept (d : Sel) (s t : State) : Prop := OnlySlot s t ∧ SlotKept d s.cur t.cur

theorem RunsOrWaits.wordKept {d : Sel} {op : Op Unit} {s t : State} (h : RunsOrWaits op s (WordKept d s))
    (answer : runOp op s = .next t) : WordKept d s t := by
  rcases h.next answer with kept | rfl
  · exact kept
  · exact ⟨⟨_, rfl⟩, slotKept_unissued d s.cur⟩

/-- The result is produced and the word issues. -/
theorem runsOrWaits_result {d : Sel} (legal : dstOk d = true) (plain : PortFree d) (v : W) (n : Nat) (st : BitVec 3) (s : State) :
    RunsOrWaits (do produce d v n; finish st) s (WordKept d s) := by
  refine runsOrWaits_bind (runsOrWaits_produce legal plain v n s) fun _ t placed => .inl ⟨(), _, finish_run st t, ?_⟩
  obtain ⟨⟨x, rfl⟩, placed⟩ := placed
  exact ⟨⟨_, rfl⟩, placed.slotKept st⟩

/-- A source is read, and what follows keeps the frame. -/
theorem runsOrWaits_source {f : Sel} (legal : srcOk f = true) (plain : PortFree f) {s : State} {rest : W → Op Unit}
    {p : State → Prop} (h : ∀ v, RunsOrWaits (rest v) s p) : RunsOrWaits (readSel f >>= rest) s p :=
  runsOrWaits_bind (runsOrWaits_readSel legal plain s) fun v _ same => same ▸ h v

section
variable {s t : State}

theorem binary_kept {x : RRR} {n : Nat} {f : W → W → W} (legal : (dstOk x.d && srcOk x.a && srcOk x.b) = true)
    (pa : PortFree x.a) (pb : PortFree x.b) (pd : PortFree x.d) (answer : runOp (binary x n f) s = .next t) :
    WordKept x.d s t := by
  simp only [Bool.and_eq_true] at legal
  obtain ⟨⟨ld, la⟩, lb⟩ := legal
  exact (runsOrWaits_source la pa fun a => runsOrWaits_source lb pb fun b => runsOrWaits_result ld pd ..).wordKept answer

theorem unary_kept {x : RR} {n : Nat} {f : W → W} (legal : (dstOk x.d && srcOk x.a) = true)
    (pa : PortFree x.a) (pd : PortFree x.d) (answer : runOp (unary x n f) s = .next t) : WordKept x.d s t := by
  simp only [Bool.and_eq_true] at legal
  obtain ⟨ld, la⟩ := legal
  exact (runsOrWaits_source la pa fun a => runsOrWaits_result ld pd ..).wordKept answer

theorem immediate_kept {x : RI} {f : W → W → W} (legal : (dstOk x.d && srcOk x.a) = true)
    (pa : PortFree x.a) (pd : PortFree x.d) (answer : runOp (immediate x f) s = .next t) : WordKept x.d s t := by
  simp only [Bool.and_eq_true] at legal
  obtain ⟨ld, la⟩ := legal
  exact (runsOrWaits_after (curSlot_run s) (runsOrWaits_source la pa fun a => runsOrWaits_result ld pd ..)).wordKept answer

theorem ternary_kept {x : RRRR} {n : Nat} {f : W → W → W → W}
    (legal : (dstOk x.d && srcOk x.a && srcOk x.b && srcOk x.c) = true) (pa : PortFree x.a) (pb : PortFree x.b)
    (pc : PortFree x.c) (pd : PortFree x.d) (answer : runOp (ternary x n f) s = .next t) : WordKept x.d s t := by
  simp only [Bool.and_eq_true] at legal
  obtain ⟨⟨⟨ld, la⟩, lb⟩, lc⟩ := legal
  exact (runsOrWaits_source la pa fun a => runsOrWaits_source lb pb fun b => runsOrWaits_source lc pc fun c =>
    runsOrWaits_result ld pd ..).wordKept answer

theorem lea_kept {x : Mem} (legal : (Instr.lea x).wf = true) (pa : PortFree x.a) (pd : PortFree x.d)
    (answer : exec (.lea x) s = .next t) : WordKept x.d s t := by
  simp only [Instr.wf, Bool.and_eq_true] at legal
  obtain ⟨ld, la⟩ := legal
  exact (runsOrWaits_after (curSlot_run s) (runsOrWaits_source la pa fun a => runsOrWaits_result ld pd ..)).wordKept answer

theorem lim_kept {x : DI} (legal : (Instr.lim x).wf = true) (pd : PortFree x.d) (answer : exec (.lim x) s = .next t) :
    WordKept x.d s t :=
  (runsOrWaits_after (curSlot_run s) (runsOrWaits_result legal pd ..)).wordKept answer

theorem bexti_kept {x : BitF} (legal : (Instr.bexti x).wf = true) (pa : PortFree x.a) (pd : PortFree x.d)
    (answer : exec (.bexti x) s = .next t) : WordKept x.d s t := by
  simp only [Instr.wf, Bool.and_eq_true] at legal
  obtain ⟨⟨ld, la⟩, -⟩ := legal
  exact (runsOrWaits_source la pa fun a => runsOrWaits_result ld pd ..).wordKept answer

/-- Without a hint word a legal shift amount lies below 64 (R74, R103). -/
theorem immValue_legal_shift {x : Slot} {imm : BitVec 13} (noHint : x.hint = none) (small : imm.toNat < 64) :
    (immValue x imm).toNat < 64 := by
  have same : (imm.signExtend 64).toNat = imm.toNat := by
    rw [BitVec.signExtend_eq_setWidth_of_msb_false (by rw [BitVec.msb_eq_false_iff_two_mul_lt]; omega),
      BitVec.toNat_setWidth_of_le (by decide)]
  simpa [immValue, noHint, same] using small

theorem shiftImmediate_kept {i : Instr} {x : RI} {f : W → Nat → W}
    (legal : (dstOk x.d && srcOk x.a && decide (x.imm.toNat < 64)) = true) (noHint : s.cur.hint = none)
    (pa : PortFree x.a) (pd : PortFree x.d) (answer : runOp (shiftImmediate i x f) s = .next t) : WordKept x.d s t := by
  simp only [Bool.and_eq_true, decide_eq_true_eq] at legal
  obtain ⟨⟨ld, la⟩, small⟩ := legal
  refine RunsOrWaits.wordKept (runsOrWaits_after (curSlot_run s) ?_) answer
  rw [if_neg (Nat.not_le.2 (immValue_legal_shift noHint small))]
  exact runsOrWaits_source la pa fun a => runsOrWaits_result ld pd ..

/-- A divide also puts its result under way and takes a tag (R101). -/
theorem divide_kept {x : RRR} {signed : Bool} {f : W → W → W} (legal : (dstOk x.d && srcOk x.a && srcOk x.b) = true)
    (pa : PortFree x.a) (pb : PortFree x.b) (pd : PortFree x.d) (answer : runOp (divide x signed f) s = .next t) :
    (∃ y evs tags, t = { s with cur := y, events := s.events ++ evs, tags := tags }) ∧ SlotKept x.d s.cur t.cur := by
  simp only [Bool.and_eq_true] at legal
  obtain ⟨⟨ld, la⟩, lb⟩ := legal
  have run : RunsOrWaits (divide x signed f) s fun t =>
      (∃ y evs tags, t = { s with cur := y, events := s.events ++ evs, tags := tags }) ∧ SlotKept x.d s.cur t.cur := by
    refine runsOrWaits_after (get_run s) (runsOrWaits_unlessWait fun _ => runsOrWaits_source la pa fun a =>
      runsOrWaits_source lb pb fun b => runsOrWaits_bind (runsOrWaits_reserveBy ld pd _ s) fun place u placed => ?_)
    have kept := placed.slotKept x.st
    obtain ⟨⟨q, n, rep, late, tags, rfl⟩, -⟩ := placed
    exact .inl ⟨(), _, rfl, ⟨_, _, tags, rfl⟩, kept⟩
  rcases run.next answer with kept | rfl
  · exact kept
  · exact ⟨⟨unissued s.cur, [], s.tags, by simp⟩, slotKept_unissued x.d s.cur⟩

end

/-- Settles O9: each form reads its sources, places its result and issues, or waits; the place is the only one it writes. -/
theorem integerWordsChangeTheirSlotOnly : Obligations.IntegerWordsChangeTheirSlotOnly := by
  refine ⟨fun x pa pb i mem s t legal pd answer => ?_, fun x pa i mem s t legal pd answer => ?_,
    fun x pa i mem s t legal pd answer => ?_, fun x pa pb pc i mem s t legal pd answer => ?_,
    fun x pa s t legal pd answer => lea_kept legal pa pd answer, fun x s t legal pd answer => lim_kept legal pd answer,
    fun x pa s t legal pd answer => bexti_kept legal pa pd answer, fun x pa pd i mem s t legal noHint answer => ?_,
    fun x pa pb pd i mem s t legal answer => ?_⟩
  all_goals simp only [List.mem_cons, List.not_mem_nil, or_false] at mem
  · rcases mem with rfl | rfl | rfl | rfl | rfl | rfl | rfl | rfl | rfl | rfl | rfl | rfl | rfl | rfl | rfl | rfl | rfl | rfl |
      rfl | rfl | rfl | rfl | rfl | rfl
    all_goals exact binary_kept legal pa pb pd answer
  · rcases mem with rfl | rfl | rfl | rfl | rfl
    all_goals exact unary_kept legal pa pd answer
  · rcases mem with rfl | rfl | rfl | rfl | rfl
    all_goals exact immediate_kept legal pa pd answer
  · rcases mem with rfl | rfl | rfl
    all_goals exact ternary_kept legal pa pb pc pd answer
  · rcases mem with rfl | rfl | rfl | rfl
    all_goals exact shiftImmediate_kept legal noHint pa pd answer
  · rcases mem with rfl | rfl | rfl | rfl
    all_goals exact divide_kept legal pa pb pd answer

end Sys2Proof.Machine
end

section
/-!
PROOF. Block move and fill (O34).
-/
namespace Sys2Proof.Machine

/-! ### Named registers read and given values at once (R193, R194) -/

/-- A named register holds a value that may be read. -/
def Holds (x : Slot) (i : BitVec 3) (v : W) : Prop := (nEntry x i.toNat).tag = 0 ∧ (nEntry x i.toNat).val = v

/-- A slot with a value in a named register. -/
def regSet (i : BitVec 3) (v : W) (x : Slot) : Slot := { x with n := x.n.set i.toNat (ready v) i.isLt }

theorem holds_regSet (i : BitVec 3) (v : W) (x : Slot) : Holds (regSet i v x) i v := by
  simp [Holds, nEntry_toNat, regSet, ready]

theorem nEntry_regSet_other {i : BitVec 3} {m : Nat} (ne : m ≠ i.toNat) (v : W) (x : Slot) :
    nEntry (regSet i v x) m = nEntry x m := nEntry_set_other x ne _

theorem nEntry_of_eq {x y : Slot} (same : x.n = y.n) (m : Nat) : nEntry x m = nEntry y m := by
  unfold nEntry
  rw [same]

theorem Holds.of_eq {x y : Slot} {i : BitVec 3} {v : W} (h : Holds y i v) (same : x.n = y.n) : Holds x i v := by
  rwa [Holds, nEntry_of_eq same]

theorem Holds.regSet_other {x : Slot} {i j : BitVec 3} {v : W} (h : Holds x i v) (ne : i ≠ j) (w : W) :
    Holds (regSet j w x) i v := by
  rwa [Holds, nEntry_regSet_other fun e => ne (BitVec.eq_of_toNat_eq e)]

theorem named_run {f : Sel} {i : BitVec 3} {v : W} {s : State} (field : f = BitVec.ofNat 5 (16 + i.toNat))
    (holds : Holds s.cur i v) : Gives (named f) s v s := by
  obtain ⟨filled, rfl⟩ := holds
  unfold Gives named
  rw [bind_of_gives (curSlot_run s), field, namedSel_toNat, Nat.add_sub_cancel_left]
  simp [readEntry, filled]

theorem setNamed_run {f : Sel} {i : BitVec 3} (field : f = BitVec.ofNat 5 (16 + i.toNat)) (v : W) (s : State) :
    Gives (setNamed f v) s () { s with cur := regSet i v s.cur } := by
  unfold Gives setNamed
  rw [modCur_run, field, namedSel_toNat, Nat.add_sub_cancel_left]
  simp [regSet, Vector.setIfInBounds, Vector.set, Array.setIfInBounds, i.isLt]

/-! ### Chunks -/

/-- The chunk of a move by its two pointers and the bytes left. -/
theorem chunkSize_some (d a left : Nat) : chunkSize d (some a) left = if d % 32 = 0 ∧ a % 32 = 0 ∧ 32 ≤ left then 32
    else if d % 8 = 0 ∧ a % 8 = 0 ∧ 8 ≤ left then 8 else 1 := by
  simp [chunkSize, and_assoc]

/-- A fill has one pointer: its chunk is that of a move from address 0. -/
theorem chunkSize_none (d left : Nat) : chunkSize d none left = chunkSize d (some 0) left := by
  simp [chunkSize]

/-- The bytes of a fill by their addresses (R194). -/
theorem fillBytes_eq (d : Nat) (b : W) (c : Nat) :
    fillBytes d b c = (List.range c).map fun m => b.extractLsb' (8 * ((d + m) % 8)) 8 := by
  simp only [fillBytes, BitVec.extractLsb', Nat.shiftRight_eq_div_pow]

/-! ### An iteration (R138) -/

/-- The slot `x` committed with RSTART at its own group, which executes again. -/
def groupAgain (s : State) (x : Slot) : State :=
  { s with cur := { commitSlot s.module.frozen.isSome s.tags { x with
      pc := x.gpc, npc := x.gpc + 4, nnpc := x.gpc + 8, hint := none, modw := none, prev1 := .none, prev2 := .none,
      earliest := s.tick + 1 } with iters := x.iters + 1 } }

theorem againAtGroup_run (s : State) (x : Slot) : againAtGroup { s with cur := x } = .ok ((), groupAgain s x) := rfl

section
variable {x : RRR} {s s1 s2 : State} {i j k : BitVec 3} {bs : List Byte} {d a b : W} {c : Nat} (open_ : InOpen s)
  (fd : x.d = BitVec.ofNat 5 (16 + i.toNat)) (fa : x.a = BitVec.ofNat 5 (16 + j.toNat))
  (hd : Holds s.cur i d) (ha : Holds s.cur j a)
include open_ fd fa hd ha

theorem bmove_done (fb : x.b = BitVec.ofNat 5 (16 + k.toNat)) (hb : Holds s.cur k b) (zero : b = 0) :
    exec (.bmove x) s = .next (committed x.st s) :=
  runOp_ok (by
    rw [bind_of_gives (noDelaySlot_run _ open_), bind_of_gives (named_run fa ha), bind_of_gives (named_run fb hb),
      bind_of_gives (named_run fd hd), if_pos zero, finishCommit_run])

/-- A chunk is moved, then the pointers advance and the count falls by it. -/
theorem bmove_chunk (fb : x.b = BitVec.ofNat 5 (16 + k.toNat)) (hb : Holds s.cur k b) (ij : i ≠ j) (jk : j ≠ k) (ik : i ≠ k)
    (left : b ≠ 0) (chunk : chunkSize d.toNat (some a.toNat) b.toNat = c) (load : Gives (loadVa 4 c c a) s bs s1)
    (store : Gives (storeVa 4 c d bs) s1 () s2) (same : s2.cur.n = s.cur.n) :
    exec (.bmove x) s = .next (groupAgain s2
      (regSet k (b - BitVec.ofNat 64 c) (regSet j (a + BitVec.ofNat 64 c) (regSet i (d + BitVec.ofNat 64 c) s2.cur)))) := by
  have source := (ha.of_eq same).regSet_other ij.symm (d + w64 c)
  have count := ((hb.of_eq same).regSet_other ik.symm (d + w64 c)).regSet_other jk.symm (a + w64 c)
  refine runOp_ok (u := ()) ?_
  rw [bind_of_gives (noDelaySlot_run _ open_), bind_of_gives (named_run fa ha), bind_of_gives (named_run fb hb),
    bind_of_gives (named_run fd hd), if_neg left, chunk, bind_of_gives load, bind_of_gives store]
  refine (bind_of_gives (setNamed_run fd _ s2)).trans ((bind_of_gives (named_run fa source)).trans ?_)
  refine (bind_of_gives (setNamed_run fa _ _)).trans ((bind_of_gives (named_run fb count)).trans ?_)
  exact (bind_of_gives (setNamed_run fb _ _)).trans (againAtGroup_run s2 _)

theorem bfill_done (rb : Reads s x.b b s) (zero : a = 0) : exec (.bfill x) s = .next (committed x.st s) :=
  runOp_ok (by
    rw [bind_of_gives (noDelaySlot_run _ open_), bind_of_gives (named_run fa ha), bind_of_gives rb,
      bind_of_gives (named_run fd hd), if_pos zero, finishCommit_run])

/-- A chunk is filled, then the pointer advances and the count falls by it. -/
theorem bfill_chunk (rb : Reads s x.b b s) (ij : i ≠ j) (left : a ≠ 0) (chunk : chunkSize d.toNat none a.toNat = c)
    (store : Gives (storeVa 4 c d (fillBytes d.toNat b c)) s () s1) (same : s1.cur.n = s.cur.n) :
    exec (.bfill x) s = .next (groupAgain s1
      (regSet j (a - BitVec.ofNat 64 c) (regSet i (d + BitVec.ofNat 64 c) s1.cur))) := by
  have count := (ha.of_eq same).regSet_other ij.symm (d + w64 c)
  refine runOp_ok (u := ()) ?_
  rw [bind_of_gives (noDelaySlot_run _ open_), bind_of_gives (named_run fa ha), bind_of_gives rb,
    bind_of_gives (named_run fd hd), if_neg left, chunk, bind_of_gives store]
  refine (bind_of_gives (setNamed_run fd _ s1)).trans ((bind_of_gives (named_run fa count)).trans ?_)
  exact (bind_of_gives (setNamed_run fa _ _)).trans (againAtGroup_run s1 _)

end

/-- Settles O34: an iteration is its checks, its chunk and three register writes; the fill is a move with one pointer. -/
theorem blockMoveAndFillIterate : Obligations.BlockMoveAndFillIterate := by
  unfold Obligations.BlockMoveAndFillIterate
  intro again chunk
  refine ⟨fun x s s1 s2 i j k bs open_ fd fa fb ij jk ik filled => ?_, fun x s s1 i j b open_ fd fa ij td ta rb => ?_⟩
  · have hd : Holds s.cur i _ := ⟨filled _ i.isLt, rfl⟩
    have ha : Holds s.cur j _ := ⟨filled _ j.isLt, rfl⟩
    have hb : Holds s.cur k _ := ⟨filled _ k.isLt, rfl⟩
    refine ⟨bmove_done open_ fd fa hd ha fb hb, fun left load store same => ⟨_,
      bmove_chunk open_ fd fa hd ha fb hb ij jk ik left (chunkSize_some ..) load store same, rfl, ?_, ?_, ?_, ?_⟩⟩
    · exact (((holds_regSet ..).regSet_other ij _).regSet_other ik _).2
    · exact ((holds_regSet ..).regSet_other jk _).2
    · exact (holds_regSet ..).2
    · intro m _ mi mj mk
      rw [nEntry_regSet_other mk, nEntry_regSet_other mj, nEntry_regSet_other mi, nEntry_of_eq same]
  · have hd : Holds s.cur i _ := ⟨td, rfl⟩
    have ha : Holds s.cur j _ := ⟨ta, rfl⟩
    refine ⟨bfill_done open_ fd fa hd ha rb, fun left store same => ⟨_, bfill_chunk open_ fd fa hd ha rb ij left
      ((chunkSize_none ..).trans (chunkSize_some ..)) (by rw [fillBytes_eq]; exact store) same, rfl, ?_, ?_, ?_⟩⟩
    · exact ((holds_regSet ..).regSet_other ij _).2
    · exact (holds_regSet ..).2
    · intro m _ mi mj
      rw [nEntry_regSet_other mj, nEntry_regSet_other mi, nEntry_of_eq same]

end Sys2Proof.Machine
end

section
/-!
PROOF. Atomics at issue and at their home (O35).
-/
namespace Sys2Proof.Machine

/-! ### Issue (R195 to R197) -/

section
variable {s s1 s2 s3 s4 s5 t : State} {a b c : W} {p : Place} {tag : Nat} {dest : Dest}

theorem shipAtomic_run {st : BitVec 3} {d : Sel} {n : Nat} {op : AtomOp}
    (check : Gives (checkAccess 2 n n .both true a) s p s1) (settle : Gives (settleBytes p.loc n) s1 () s1)
    (evict : Gives (evictPlace p.loc n) s1 () s2) (place : Reserves s2 d tag dest t) : shipAtomic st d a b c n op s =
      .ok ((), committed st (emit t (.homeAtomic ⟨t.turn, tag, dest, t.cur.gpc, a.setWidth 56, p.loc, n, op, b, c, t.cur.sup⟩))) :=
  (bind_of_gives check).trans ((bind_of_gives settle).trans ((bind_of_gives evict).trans (bind_of_gives place)))

theorem amo_run {i : Instr} {x : Amo} {op : AtomOp} (stands : MayCommit s) (ra : Reads s x.a a s1) (rb : Reads s1 x.b b s2)
    (check : Gives (checkAccess 2 (if x.wide = 1 then 8 else 4) (if x.wide = 1 then 8 else 4) .both true a) s2 p s3)
    (settle : Gives (settleBytes p.loc (if x.wide = 1 then 8 else 4)) s3 () s3)
    (evict : Gives (evictPlace p.loc (if x.wide = 1 then 8 else 4)) s3 () s4) (place : Reserves s4 x.d tag dest t) :
    runOp (amo i x op) s = .next (committed x.st (emit t (.homeAtomic
      ⟨t.turn, tag, dest, t.cur.gpc, a.setWidth 56, p.loc, if x.wide = 1 then 8 else 4, op, b, 0, t.cur.sup⟩))) :=
  runOp_ok (by
    rw [amo, bind_of_gives (commitPlace_run i stands), bind_of_gives ra, bind_of_gives rb,
      shipAtomic_run check settle evict place])

theorem cas_run {x : Cas} (stands : MayCommit s) (ra : Reads s x.a a s1) (rb : Reads s1 x.b b s2) (rc : Reads s2 x.c c s3)
    (check : Gives (checkAccess 2 (if x.wide = 1 then 8 else 4) (if x.wide = 1 then 8 else 4) .both true a) s3 p s4)
    (settle : Gives (settleBytes p.loc (if x.wide = 1 then 8 else 4)) s4 () s4)
    (evict : Gives (evictPlace p.loc (if x.wide = 1 then 8 else 4)) s4 () s5) (place : Reserves s5 x.d tag dest t) :
    exec (.cas x) s = .next (committed x.st (emit t (.homeAtomic
      ⟨t.turn, tag, dest, t.cur.gpc, a.setWidth 56, p.loc, if x.wide = 1 then 8 else 4, .cas, b, c, t.cur.sup⟩))) :=
  runOp_ok (by
    rw [bind_of_gives (commitPlace_run _ stands), bind_of_gives ra, bind_of_gives rb, bind_of_gives rc,
      shipAtomic_run check settle evict place])

end

/-! ### Lines that leave an L1 before the operation (R309, R311) -/

theorem writeBack_pools (s : State) (l : L1Line) : (writeBack s l).pools = s.pools := by
  unfold writeBack
  split
  · rfl
  · split
    · exact setSlot_pools ..
    · obtain ⟨_, _, _, _, _, e⟩ := homeWrite_atHome (performedBy s l.writer (l.line * 32) (lineBytes l)) (l.line * 32)
        (lineBytes l)
      rw [e]
      rfl

/-- Where a byte of memory differs after a line is written back, the line was dirty and the byte is the line's. -/
theorem writeBack_byte {s : State} (canonical : s.memOk = true) (l : L1Line) {ca : Nat}
    (differs : memGet (writeBack s l).mem ca ≠ memGet s.mem ca) : l.dirty = true ∧ l.line * 32 ≤ ca ∧
      ca < l.line * 32 + 32 ∧ memGet (writeBack s l).mem ca = (l.bytes[ca - l.line * 32]?).getD 0 := by
  have length : (lineBytes l).length = 32 := by simp [lineBytes]
  unfold writeBack at differs ⊢
  split at differs
  next => exact absurd rfl differs
  next dirty =>
    rw [if_neg dirty]
    split at differs
    next => exact absurd (congrArg (memGet · ca) (setSlot_mem ..)) differs
    next plain =>
      have byte := memGet_memWrite (l.line * 32) ca (lineBytes l) (State.memOk_mem canonical)
      rw [if_neg plain, homeWrite_mem]
      rw [homeWrite_mem] at differs
      have inside : l.line * 32 ≤ ca ∧ ca < l.line * 32 + (lineBytes l).length := by
        by_contra outside
        exact differs (byte.trans (if_neg outside))
      refine ⟨by simpa using dirty, inside.1, by omega, byte.trans ((if_pos inside).trans ?_)⟩
      have : ca - l.line * 32 < 32 := by omega
      simp [lineBytes, this]

/-- The same for a list of lines, one after another. -/
theorem writeBack_bytes (ls : List L1Line) {s : State} (canonical : s.memOk = true) {ca : Nat}
    (differs : memGet (ls.foldl writeBack s).mem ca ≠ memGet s.mem ca) : ∃ l ∈ ls, l.dirty = true ∧ l.line * 32 ≤ ca ∧
      ca < l.line * 32 + 32 ∧ memGet (ls.foldl writeBack s).mem ca = (l.bytes[ca - l.line * 32]?).getD 0 := by
  induction ls generalizing s with
  | nil => exact absurd rfl differs
  | cons l ls ih =>
    rw [List.foldl_cons] at differs ⊢
    by_cases later : memGet (ls.foldl writeBack (writeBack s l)).mem ca = memGet (writeBack s l).mem ca
    · rw [later] at differs ⊢
      exact ⟨l, List.mem_cons_self .., writeBack_byte canonical l differs⟩
    · obtain ⟨m, mem, written⟩ := ih (writeBack_memOk l canonical) later
      exact ⟨m, List.mem_cons_of_mem _ mem, written⟩

section
variable (s : State) (h : HartId) (ca n : Nat)

/-- An eviction drops lines and writes some back. -/
theorem evictOf_eq (core : kindOf h = .core) : ∃ hit : List L1Line, (∀ l ∈ hit, l ∈ (coreOf s (agentOf h)).l1) ∧
    evictOf s h ca n = hit.foldl writeBack (setCore s (agentOf h) { coreOf s (agentOf h) with
      l1 := (coreOf s (agentOf h)).l1.filter fun l =>
        !((List.range ((ca + n - 1) / 32 + 1 - ca / 32)).map fun i => ca / 32 + i).contains l.line }) := by
  rw [evictOf, if_pos core]
  exact ⟨_, fun l mem => (List.mem_filter.1 mem).1, rfl⟩

theorem stored_evictOf : Stored s (evictOf s h ca n) := by
  by_cases core : kindOf h = .core
  · obtain ⟨hit, -, e⟩ := evictOf_eq s h ca n core
    rw [e]
    exact (stored_setCore ..).trans (.foldl stored_writeBack _ _)
  · rw [evictOf, if_neg core]
    exact .refl s

theorem evictOf_pools : (evictOf s h ca n).pools = s.pools := by
  by_cases core : kindOf h = .core
  · obtain ⟨hit, -, e⟩ := evictOf_eq s h ca n core
    rw [e]
    exact foldl_kept State.pools _ writeBack_pools hit _
  · rw [evictOf, if_neg core]

theorem evictOf_writtenBackOnly {s : State} (canonical : s.memOk = true) :
    WrittenBackOnly s (evictOf s h ca n) (agentOf h) := by
  intro p differs
  by_cases core : kindOf h = .core
  · obtain ⟨hit, held, e⟩ := evictOf_eq s h ca n core
    rw [e] at differs ⊢
    obtain ⟨l, mem, written⟩ := writeBack_bytes hit (by simpa using canonical) differs
    exact ⟨l, held l mem, written⟩
  · rw [evictOf, if_neg core] at differs
    exact absurd rfl differs

/-- No line of the bytes stays. -/
theorem evictOf_lines (core : kindOf h = .core) : ∀ l ∈ (coreOf (evictOf s h ca n) (agentOf h)).l1, ∀ i, i < n →
    l.line ≠ (ca + i) / 32 := by
  obtain ⟨hit, -, e⟩ := evictOf_eq s h ca n core
  intro l mem i hi same
  rw [e, coreOf, foldl_kept State.cores _ writeBack_cores] at mem
  replace mem := (List.mem_filter.1 (congrArg Core.l1 (coreOf_setCore_self s (agentOf h) _) ▸ mem)).2
  simp only [Bool.not_eq_true', List.contains_eq_mem, decide_eq_false_iff_not, List.mem_map, List.mem_range] at mem
  exact mem ⟨(ca + i) / 32 - ca / 32, by omega, by omega⟩

end

/-! ### Bytes and words -/

theorem natBytes_getElem? {n i : Nat} (hi : i < n) (v : Nat) : (natBytes n v)[i]? = some (BitVec.ofNat 8 (v / 256 ^ i)) := by
  induction n generalizing v i with
  | zero => omega
  | succ n ih =>
    cases i with
    | zero => simp [natBytes]
    | succ i =>
      rw [natBytes, List.getElem?_cons_succ, ih (by omega), Nat.div_div_eq_div_mul, ← Nat.pow_succ']

theorem natBytes_leNat (bs : List Byte) : natBytes bs.length (leNat bs) = bs := by
  induction bs with
  | nil => rfl
  | cons b bs ih =>
    have hb := b.isLt
    rw [List.length_cons, natBytes, leNat, show (b.toNat + 256 * leNat bs) / 256 = leNat bs by omega, ih]
    congr 1
    apply BitVec.eq_of_toNat_eq
    rw [BitVec.toNat_ofNat]
    omega

/-- A byte of a word. -/
theorem extractLsb'_byte {w : Nat} (x : BitVec w) (i : Nat) : x.extractLsb' (8 * i) 8 = BitVec.ofNat 8 (x.toNat / 256 ^ i) := by
  rw [BitVec.extractLsb', Nat.shiftRight_eq_div_pow, pow_mul, show 2 ^ 8 = 256 from rfl]

theorem natBytes_byte {n i : Nat} (hi : i < n) (x : BitVec (8 * n)) :
    ((natBytes n x.toNat)[i]?).getD 0 = x.extractLsb' (8 * i) 8 := by
  rw [natBytes_getElem? hi, extractLsb'_byte, Option.getD_some]

/-- The word that `n` bytes of a memory spell. -/
def memWord (m : Memory) (a n : Nat) : BitVec (8 * n) := BitVec.ofNat (8 * n) (leNat (memRead m a n))

theorem memWord_toNat (m : Memory) (a n : Nat) : (memWord m a n).toNat = leNat (memRead m a n) := by
  have bound := leNat_lt (memRead m a n)
  rw [memRead_length, show 256 = 2 ^ 8 from rfl, ← pow_mul] at bound
  rw [memWord, BitVec.toNat_ofNat, Nat.mod_eq_of_lt bound]

theorem memWord_setWidth (m : Memory) (a n : Nat) : (memWord m a n).setWidth 64 = w64 (leNat (memRead m a n)) := by
  rw [← memWord_toNat, w64, BitVec.ofNat_toNat]

theorem memWord_byte (m : Memory) (a : Nat) {n i : Nat} (hi : i < n) :
    (memWord m a n).extractLsb' (8 * i) 8 = memGet m (a + i) := by
  have bytes := natBytes_leNat (memRead m a n)
  rw [memRead_length] at bytes
  rw [← natBytes_byte hi, memWord_toNat, bytes]
  simp [memRead, hi]

theorem sextNat_toNat {w : Nat} (some_ : 0 < w) (x : BitVec w) : sextNat w x.toNat = x.toInt := by
  obtain ⟨k, rfl⟩ : ∃ k, w = k + 1 := ⟨w - 1, by omega⟩
  have double := Nat.pow_succ' (m := 2) (n := k)
  rw [sextNat, BitVec.toInt_eq_toNat_cond, Nat.mod_eq_of_lt x.isLt, if_neg (Nat.succ_ne_zero k), Nat.add_sub_cancel]
  split <;> split <;> first | rfl | omega

/-! ### The new value (R195, R196) -/

/-- The new value of a word by the operation, with the operands at the access size. -/
def atomicWord {w : Nat} (op : AtomOp) (old y c : BitVec w) : BitVec w :=
  match op with
  | .add => old + y | .and => old &&& y | .or => old ||| y | .xor => old ^^^ y
  | .min => if old.toInt < y.toInt then old else y | .max => if old.toInt < y.toInt then y else old
  | .minu => if old.toNat < y.toNat then old else y | .maxu => if old.toNat < y.toNat then y else old
  | .swap => y | .cas => if old = c then y else old

theorem atomNew_eq {w : Nat} (some_ : 0 < w) (op : AtomOp) (old : BitVec w) (b c : W) :
    atomNew op w old.toNat b.toNat c.toNat = (atomicWord op old (b.setWidth w) (c.setWidth w)).toNat := by
  simp only [atomNew, atomicWord, ← BitVec.toNat_setWidth, sextNat_toNat some_, decide_eq_true_eq]
  generalize b.setWidth w = y
  cases op with
  | add => exact (BitVec.toNat_add ..).symm
  | and => exact (BitVec.toNat_and ..).symm
  | or => exact (BitVec.toNat_or ..).symm
  | xor => exact (BitVec.toNat_xor ..).symm
  | min => exact (apply_ite BitVec.toNat ..).symm
  | max => exact (apply_ite BitVec.toNat ..).symm
  | minu =>
    change min old.toNat y.toNat = _
    rw [apply_ite BitVec.toNat]
    split <;> omega
  | maxu =>
    change max old.toNat y.toNat = _
    rw [apply_ite BitVec.toNat]
    split <;> omega
  | swap => rfl
  | cas => simp only [apply_ite BitVec.toNat, BitVec.toNat_inj]

/-- Whether the operation writes: a CAS only where it finds what it compares with (R196). -/
def atomWrites (r : AtomicReq) (old : Nat) : Bool := r.op != .cas || old == r.c.toNat % 2 ^ (8 * r.size)

/-- The bytes that it writes. -/
def atomBytes (r : AtomicReq) (old : Nat) : List Byte := natBytes r.size (atomNew r.op (8 * r.size) old r.b.toNat r.c.toNat)

/-- The word that an operation leaves in a memory. -/
def atomLeaves (r : AtomicReq) (old : BitVec (8 * r.size)) : BitVec (8 * r.size) :=
  atomicWord r.op old (r.b.setWidth _) (r.c.setWidth _)

/-- An operation that does not write leaves the old word. -/
theorem atomLeaves_unwritten {r : AtomicReq} {old : BitVec (8 * r.size)} (no : atomWrites r old.toNat = false) :
    atomLeaves r old = old := by
  simp only [atomWrites, Bool.or_eq_false_iff, bne_eq_false_iff_eq, beq_eq_false_iff_ne, ← BitVec.toNat_setWidth] at no
  obtain ⟨cas, differs⟩ := no
  rw [atomLeaves, cas]
  exact if_neg fun same => differs (congrArg BitVec.toNat same)

/-- Every byte of a memory after the operation on the word at `a`. -/
theorem memGet_atom {m : Memory} (canonical : m.wf = true) (r : AtomicReq) (some_ : 0 < r.size) (a p : Nat) :
    memGet (if atomWrites r (leNat (memRead m a r.size)) then memWrite m a (atomBytes r (leNat (memRead m a r.size))) else m) p =
      if a ≤ p ∧ p < a + r.size then (atomLeaves r (memWord m a r.size)).extractLsb' (8 * (p - a)) 8 else memGet m p := by
  rw [← memWord_toNat]
  generalize atOld : memWord m a r.size = old
  cases writes : atomWrites r old.toNat with
  | true =>
    rw [if_pos rfl, memGet_memWrite _ _ _ canonical, atomBytes, natBytes_length, atomNew_eq (by omega)]
    split
    next inside => exact natBytes_byte (by omega) _
    next => rfl
  | false =>
    rw [if_neg Bool.false_ne_true, atomLeaves_unwritten writes, ← atOld]
    split
    next inside => rw [memWord_byte m a (by omega), Nat.add_sub_cancel' inside.1]
    next => rfl

/-! ### At the home (R195 to R197, R203, R344) -/

theorem performedBy_failed (s : State) (h : HartId) (ca : Nat) (bs : List Byte) (g : HartId) :
    (slotOf (performedBy s h ca bs) g).failed = (slotOf s g).failed := by
  unfold performedBy
  extract_lets fresh see
  have seen : ∀ k x, (see k x).failed = x.failed := fun k x => by
    simp only [see]
    split <;> rfl
  by_cases e : g = s.turn
  · simp only [slotOf, e, if_pos, seen]
  · simp only [slotOf, if_neg e, mapGet, mapFind_map (fun k x => see (BitVec.ofNat 13 k) x)]
    cases mapFind s.harts g.toNat with
    | none => rfl
    | some x => exact seen ..

/-- The state of memory's home after the operation. -/
def atomAtHome (r : AtomicReq) (ca : Nat) (s : State) : State :=
  let old := leNat (memRead s.mem ca r.size)
  let t := touchHome s ca r.size false false
  if atomWrites r old then homeWrite (performedBy t r.h ca (atomBytes r old)) ca (atomBytes r old) else t

section
variable (r : AtomicReq) (ca : Nat) (s : State)

theorem atomAtHome_mem : (atomAtHome r ca s).mem = if atomWrites r (leNat (memRead s.mem ca r.size))
    then memWrite s.mem ca (atomBytes r (leNat (memRead s.mem ca r.size))) else s.mem := by
  unfold atomAtHome
  dsimp only
  split
  · rw [homeWrite_mem]
    exact congrArg (memWrite · ca _) (touchHome_mem ..)
  · exact touchHome_mem ..

theorem stored_touchHome (n : Nat) (w header : Bool) : Stored s (touchHome s ca n w header) := by
  obtain ⟨l, e⟩ := touchHome_eq s ca n w header
  rw [e]
  exact .of_same s.cores s.clusters s.mem s.pools l s.poison s.poolPoison s.events

theorem stored_atomAtHome : Stored s (atomAtHome r ca s) := by
  unfold atomAtHome
  extract_lets old t
  split
  · exact (stored_touchHome ..).trans ((stored_performedBy ..).trans (homeWrite_atHome ..).stored)
  · exact stored_touchHome ..

theorem atomAtHome_pools : (atomAtHome r ca s).pools = s.pools := by
  unfold atomAtHome
  extract_lets old t
  have touched : t.pools = s.pools := touchHome_pools ..
  split
  · obtain ⟨_, _, _, _, _, e⟩ := homeWrite_atHome (performedBy t r.h ca (atomBytes r old)) ca (atomBytes r old)
    rw [e]
    exact touched
  · exact touched

theorem atomAtHome_failed (g : HartId) : (slotOf (atomAtHome r ca s) g).failed = (slotOf s g).failed := by
  unfold atomAtHome
  extract_lets old t
  have touched : slotOf t g = slotOf s g := slotOf_of_eq (touchHome_turn ..) (touchHome_cur ..) (touchHome_harts ..) g
  split
  · rw [(homeWrite_atHome ..).slotOf, performedBy_failed, touched]
  · rw [touched]

end

/-- The state of a pool's core after the operation. -/
def atomAtPool (r : AtomicReq) (core off : Nat) (s : State) : State :=
  let old := leNat (poolRead s core off r.size)
  if atomWrites r old then markWriter (poolPerform s core off (atomBytes r old)) core off r.size r.h else s

theorem markWriter_mem (s : State) (core off n : Nat) (h : HartId) :
    (markWriter s core off n h).mem = s.mem ∧ (markWriter s core off n h).pools = s.pools := by
  unfold markWriter
  extract_lets k mark
  split
  · exact ⟨rfl, rfl⟩
  · exact ⟨rfl, rfl⟩

theorem atomAtPool_mem (r : AtomicReq) (core off : Nat) (s : State) : (atomAtPool r core off s).mem = s.mem ∧
    (atomAtPool r core off s).pools = if atomWrites r (leNat (memRead s.pools (poolKey core off) r.size))
      then memWrite s.pools (poolKey core off) (atomBytes r (leNat (memRead s.pools (poolKey core off) r.size))) else s.pools := by
  unfold atomAtPool poolRead
  extract_lets old
  split
  · obtain ⟨t, published, e⟩ := poolPerform_eq s core off (atomBytes r old)
    obtain ⟨k, new, rfl⟩ := published.kept
    obtain ⟨mem, pools⟩ := markWriter_mem (poolPerform s core off (atomBytes r old)) core off r.size r.h
    rw [mem, pools, e]
    exact ⟨rfl, rfl⟩
  · exact ⟨rfl, rfl⟩

section
variable {r : AtomicReq} {s : State} {ca : Nat} (loc : r.loc = .mem ca)
include loc

theorem homeAtomic_mem (noCell : touchesCell (evictOf s r.h ca r.size) ca r.size = false)
    (sound : poisonedMem (evictOf s r.h ca r.size) ca r.size = false) (noField : homeField (evictOf s r.h ca r.size) ca = none) :
    exec (.homeAtomic r) s = .next (deliver (atomAtHome r ca (evictOf s r.h ca r.size)) ⟨r.h, r.tag, r.dest,
      (memWord (evictOf s r.h ca r.size).mem ca r.size).setWidth 64, 0⟩) := by
  rw [memWord_setWidth]
  change execHomeAtomic r s = _
  simp only [execHomeAtomic, loc, noCell, sound, noField, ite_self, Bool.false_eq_true, if_false]
  rfl

theorem homeAtomic_cell (cell : touchesCell (evictOf s r.h ca r.size) ca r.size = true) : exec (.homeAtomic r) s =
    .next (emit (evictOf s r.h ca r.size) (.lateFault r.h .xcell (accessInfo 3 true 2 r.va) ⟨r.tpc, r.tag⟩)) := by
  rw [← memInfo_eq_accessInfo]
  change execHomeAtomic r s = _
  simp only [execHomeAtomic, loc, cell, if_true]
  rfl

theorem homeAtomic_poisoned (noCell : touchesCell (evictOf s r.h ca r.size) ca r.size = false)
    (lost : poisonedMem (evictOf s r.h ca r.size) ca r.size = true) : exec (.homeAtomic r) s =
    .next (emit (evictOf s r.h ca r.size) (.lateFault r.h .memerr (accessInfo 0 true 2 r.va) ⟨r.tpc, r.tag⟩)) := by
  rw [← memInfo_eq_accessInfo]
  change execHomeAtomic r s = _
  simp only [execHomeAtomic, loc, noCell, lost, if_true, Bool.false_eq_true, if_false]
  rfl

end

theorem homeAtomic_pool {r : AtomicReq} {s : State} {core off : Nat} (loc : r.loc = .pool core off)
    (sound : poisonedPool s core off r.size = false) : exec (.homeAtomic r) s = .next (deliver (atomAtPool r core off s)
      ⟨r.h, r.tag, r.dest, (memWord s.pools (poolKey core off) r.size).setWidth 64, 0⟩) := by
  rw [memWord_setWidth]
  change execHomeAtomic r s = _
  simp only [execHomeAtomic, loc, sound, Bool.false_eq_true, if_false]
  rfl

/-- Settles O35: the issue part by part, and the home's one step as an operation on the word that the bytes spell. -/
theorem atomicsIssueAndPerform : Obligations.AtomicsIssueAndPerform := by
  refine ⟨fun x s s1 s2 s3 s4 t a b p tag dest stands ra rb check settle evict place => ?_,
    fun x s s1 s2 s3 s4 s5 t a b c p tag dest stands ra rb rc check settle evict place =>
      cas_run stands ra rb rc check settle evict place, fun r s n canonical size width => ?_⟩
  · have run (i : Instr) (op : AtomOp) := amo_run (i := i) (op := op) stands ra rb check settle evict place
    exact ⟨run _ _, run _ _, run _ _, run _ _, run _ _, run _ _, run _ _, run _ _, run _ _⟩
  · subst size
    have some_ : 0 < r.size := by omega
    intro new
    have leaves : new = atomLeaves r := rfl
    refine ⟨fun ca loc => ?_, fun core off loc sound => ?_⟩
    · intro s1 old
      refine ⟨(stored_evictOf ..).harts, evictOf_writtenBackOnly _ _ _ canonical, evictOf_pools .., evictOf_lines s r.h ca r.size,
        fun noCell sound noField => ⟨_, homeAtomic_mem loc noCell sound noField, ?_, (stored_atomAtHome ..).harts,
          atomAtHome_failed _ _ _, fun p => ?_⟩, homeAtomic_cell loc, homeAtomic_poisoned loc⟩
      · rw [atomAtHome_pools, evictOf_pools]
      · rw [leaves, atomAtHome_mem, memGet_atom (State.memOk_mem (evictOf_memOk _ _ _ canonical)) r some_]
        rfl
    · intro k old
      obtain ⟨mem, pools⟩ := atomAtPool_mem r core off s
      refine ⟨_, homeAtomic_pool loc sound, mem, fun p => ?_⟩
      rw [leaves, pools, memGet_atom (State.memOk_pools canonical) r some_]
      rfl

end Sys2Proof.Machine
end

section
/-!
PROOF. Shifts and rotates by a register count (O4).
-/
namespace Sys2Proof.Machine

/-! ### Results (R102) -/

theorem shlResult_bit (a : W) (n : Nat) {j : Nat} (hj : j < 64) :
    (shlResult a n).getLsbD j = (decide (n ≤ j) && a.getLsbD (j - n)) := by
  unfold shlResult
  split
  next small => simp only [BitVec.getLsbD_shiftLeft, hj, decide_true, Bool.true_and, ← decide_not, Nat.not_lt]
  next large => simp [show ¬ n ≤ j by omega]

theorem shrResult_bit (a : W) (n j : Nat) : (shrResult a n).getLsbD j = a.getLsbD (j + n) := by
  unfold shrResult
  split
  next small => rw [BitVec.getLsbD_ushiftRight, Nat.add_comm]
  next large => rw [BitVec.getLsbD_of_ge a (j + n) (by omega)]; exact BitVec.getLsbD_zero

/-- Beyond bit 63 the shift repeats it. -/
theorem sarResult_bit (a : W) (n : Nat) {j : Nat} (hj : j < 64) :
    (sarResult a n).getLsbD j = a.getLsbD (min (j + n) 63) := by
  rw [sarResult, show Nat.min n 63 = min n 63 from rfl, BitVec.getLsbD_sshiftRight, decide_eq_false (Nat.not_le.2 hj),
    Bool.not_false, Bool.true_and, BitVec.msb_eq_getLsbD_last]
  split
  next inside => congr 1; omega
  next past => congr 1; omega

theorem rotResult_bit (a : W) (n : Nat) {j : Nat} (hj : j < 64) : (rotResult a n).getLsbD ((j + n) % 64) = a.getLsbD j := by
  have wraps := Nat.mod_lt (j + n) (show 0 < 64 by decide)
  rw [rotResult, BitVec.getLsbD_rotateLeft, Nat.mod_mod]
  by_cases around : (j + n) % 64 < n % 64
  · rw [decide_eq_true around, cond_true]
    congr 1; omega
  · rw [decide_eq_false around, cond_false, decide_eq_true wraps, Bool.true_and]
    congr 1; omega

/-- Rotating left by the two's complement of a count rotates right by the count. -/
theorem rotResult_neg_bit (a : W) (m : Nat) {j : Nat} (hj : j < 64) :
    (rotResult a (0 - BitVec.ofNat 64 m : W).toNat).getLsbD j = a.getLsbD ((j + m) % 64) := by
  have back : ((j + m) % 64 + (0 - BitVec.ofNat 64 m : W).toNat) % 64 = j := by
    simp only [BitVec.toNat_sub, BitVec.ofNat_eq_ofNat, BitVec.toNat_ofNat]
    omega
  have bit := rotResult_bit a (0 - BitVec.ofNat 64 m : W).toNat (Nat.mod_lt (j + m) (show 0 < 64 by decide))
  rwa [back] at bit

theorem two_pow_63_le_toNat_of_neg {b : W} (negative : b.toInt < 0) : 2 ^ 63 ≤ b.toNat := by
  have := BitVec.toInt_neg_iff.1 negative
  omega

/-- Settles O4: each word is `binary` with its result, whose bits the lemmas above give. -/
theorem shiftsAndRotates : Obligations.ShiftsAndRotates := by
  refine ⟨fun x => ⟨rfl, rfl, rfl, rfl⟩, fun x s s1 s2 a b ra rb => ?_⟩
  exact ⟨⟨_, fun j => shlResult_bit a b.toNat, fun t => binary_run ra rb rfl⟩,
    ⟨_, fun j _ => shrResult_bit a b.toNat j, fun t => binary_run ra rb rfl⟩,
    ⟨_, fun j => sarResult_bit a b.toNat, fun t => binary_run ra rb rfl⟩,
    ⟨_, fun j => rotResult_bit a b.toNat, fun t => binary_run ra rb rfl⟩, two_pow_63_le_toNat_of_neg,
    fun m negated => ⟨_, fun j => negated ▸ rotResult_neg_bit a m, fun t => binary_run ra rb rfl⟩⟩

end Sys2Proof.Machine
end

section
/-!
PROOF. Counts, bit reversal and selection (O5, O7).
-/
namespace Sys2Proof.Machine

/-! ### Counts (R104) -/

theorem leadingZeros_le (n v : Nat) : leadingZeros n v ≤ n := by
  induction n with
  | zero => rfl
  | succ n ih =>
    rw [leadingZeros]
    split <;> omega

/-- The bits that `leadingZeros` counts, the highest ones of the low `n`, are zero. -/
theorem testBit_leadingZeros (n v : Nat) {j : Nat} (high : n - leadingZeros n v ≤ j) (hj : j < n) : v.testBit j = false := by
  induction n with
  | zero => omega
  | succ n ih =>
    rw [leadingZeros] at high
    split at high
    next => omega
    next zero =>
      rcases Nat.lt_succ_iff_lt_or_eq.1 hj with below | rfl
      · exact ih (by omega) below
      · exact Bool.eq_false_of_not_eq_true zero

/-- The bit below them, where there is one, is set. -/
theorem testBit_below_leadingZeros (n v : Nat) (stops : leadingZeros n v < n) :
    v.testBit (n - 1 - leadingZeros n v) = true := by
  induction n with
  | zero => omega
  | succ n ih =>
    rw [leadingZeros] at stops ⊢
    split at stops
    next one => rwa [if_pos one]
    next zero =>
      rw [if_neg zero, show n + 1 - 1 - (leadingZeros n v + 1) = n - 1 - leadingZeros n v by omega]
      exact ih (by omega)

theorem trailingZeros_le (n v : Nat) : trailingZeros n v ≤ n := by
  induction n generalizing v with
  | zero => rfl
  | succ n ih =>
    have := ih (v / 2)
    rw [trailingZeros]
    split <;> omega

/-- The bits that `trailingZeros` counts, the lowest ones, are zero. -/
theorem testBit_trailingZeros (n v : Nat) {j : Nat} (low : j < trailingZeros n v) : v.testBit j = false := by
  induction n generalizing v j with
  | zero => exact absurd low (Nat.not_lt_zero j)
  | succ n ih =>
    rw [trailingZeros] at low
    split at low
    next => exact absurd low (Nat.not_lt_zero j)
    next even =>
      cases j with
      | zero => simpa using even
      | succ j => rw [Nat.testBit_succ]; exact ih _ (by omega)

/-- The bit above them, where there is one, is set. -/
theorem testBit_at_trailingZeros (n v : Nat) (stops : trailingZeros n v < n) : v.testBit (trailingZeros n v) = true := by
  induction n generalizing v with
  | zero => omega
  | succ n ih =>
    rw [trailingZeros] at stops ⊢
    split at stops
    next odd => simp [odd]
    next even => rw [if_neg even, Nat.testBit_succ]; exact ih _ (by omega)

theorem onesCount_eq (n v : Nat) : onesCount n v = ((List.range n).filter v.testBit).length := by
  induction n generalizing v with
  | zero => rfl
  | succ n ih =>
    have rest : v.testBit ∘ Nat.succ = (v / 2).testBit := funext fun j => Nat.testBit_succ v j
    rw [onesCount, ih, List.range_succ_eq_map, List.filter_cons, List.filter_map, rest, Nat.testBit_zero]
    rcases Nat.mod_two_eq_zero_or_one v with even | odd
    · simp [even]
    · simp [odd, Nat.add_comm]

/-! ### Reversal (R104) -/

theorem bitReverse_lt (n v : Nat) : bitReverse n v < 2 ^ n := by
  induction n generalizing v with
  | zero => exact Nat.one_pos
  | succ n ih =>
    have := ih (v / 2)
    rw [bitReverse, Nat.pow_succ]
    rcases Nat.mod_two_eq_zero_or_one v with even | odd
    · rw [even]; omega
    · rw [odd]; omega

theorem testBit_bitReverse (n v : Nat) {j : Nat} (hj : j < n) : (bitReverse n v).testBit (n - 1 - j) = v.testBit j := by
  induction n generalizing v j with
  | zero => omega
  | succ n ih =>
    rw [bitReverse, Nat.mul_comm, Nat.testBit_two_pow_mul_add _ (bitReverse_lt n _)]
    cases j with
    | zero => simp
    | succ j =>
      rw [if_pos (by omega), show n + 1 - 1 - (j + 1) = n - 1 - j by omega, ih _ (by omega), Nat.testBit_succ]

theorem brevResult_bit (a : W) {j : Nat} (hj : j < 64) :
    (w64 (bitReverse 64 a.toNat)).getLsbD (63 - j) = a.getLsbD j := by
  rw [w64, BitVec.getLsbD_ofNat, decide_eq_true (by omega), Bool.true_and, testBit_bitReverse 64 _ hj, BitVec.testBit_toNat]

/-- Settles O5: each word is `unary` with its result; the counts and the reversal by induction on the number of bits. -/
theorem countsAndReversal : Obligations.CountsAndReversal := by
  refine ⟨fun x => ⟨rfl, rfl, rfl, rfl⟩, fun x s s1 a ra => ?_⟩
  refine ⟨⟨leadingZeros 64 a.toNat, leadingZeros_le .., ⟨fun j => testBit_leadingZeros 64 _, testBit_below_leadingZeros 64 _⟩,
      fun t => unary_run ra rfl⟩,
    ⟨trailingZeros 64 a.toNat, trailingZeros_le .., ⟨fun j => testBit_trailingZeros 64 _, testBit_at_trailingZeros 64 _⟩,
      fun t => unary_run ra rfl⟩,
    ⟨onesCount 64 a.toNat, ?_, onesCount_eq .., fun t => unary_run ra rfl⟩,
    _, fun t => unary_run ra rfl, fun j => brevResult_bit a⟩
  calc onesCount 64 a.toNat
    _ = _ := onesCount_eq ..
    _ ≤ _ := List.length_filter_le ..
    _ = 64 := List.length_range

/-! ### Selection (R107) -/

theorem selResult_of_ne_zero {a : W} (nonzero : a ≠ 0) (b c : W) : selResult a b c = b := if_pos nonzero

theorem selResult_zero (b c : W) : selResult 0 b c = c := rfl

/-- Settles O7: SEL is `ternary` with `selResult`. -/
theorem selectReadsAllAndChooses : Obligations.SelectReadsAllAndChooses := by
  intro x s s1 s2 s3 t a b c ra rb rc
  refine ⟨rfl, fun nonzero result => ternary_run ra rb rc ?_, fun zero result => ternary_run ra rb rc ?_⟩
  · rwa [selResult_of_ne_zero nonzero]
  · rwa [zero, selResult_zero]

end Sys2Proof.Machine
end

section
/-!
PROOF. RGN.INC (O11).
-/
namespace Sys2Proof.Machine

/-! ### The word (R127) -/

/-- Under major 0x13 the field D tells RGN, whose IMM13 is zero, from RGN.INC, which names a register. -/
theorem decode_rgnInc_illegal {x : DI}
    (bad : (x.d = 0#5 ∧ x.imm ≠ 0#13) ∨ (x.d ≠ 0#5 ∧ ¬ (16 ≤ x.d.toNat ∧ x.d.toNat < 24))) :
    decode (x.toWord 0x13) = .error .illegalField := by
  have row : decodeRaw (x.toWord 0x13#6) = decode13 (x.toWord 0x13#6) := by
    unfold decodeRaw
    rw [DI.major]
    rfl
  have legal : (Instr.rgnInc x).wf = nOk x.d := rfl
  rcases bad with ⟨none, given⟩ | ⟨some, outside⟩
  · simp [decode, row, decode13, none, given]
  · have illegal : nOk x.d = false := by
      rw [nOk, Bool.and_eq_false_iff, decide_eq_false_iff_not, decide_eq_false_iff_not]
      omega
    simp [decode, row, decode13, some, Except.map, legal, illegal]

/-! ### Words that may stand in no delay slot and no REP body (R88, R125, R137) -/

theorem not_inOpen {s : State} (closed : s.cur.rep ≠ none ∨ inDelaySlot s.cur = true) : ¬ InOpen s :=
  fun ⟨noBody, noSlot⟩ => closed.elim (· noBody) fun slot => Bool.false_ne_true (noSlot.symm.trans slot)

theorem noDelaySlot_trapped {i : Instr} {w : Word32} {rest : Unit → Op Unit} {s : State} (word : encode i = some w)
    (closed : ¬ InOpen s) (settled : s.cur.launches = 0) :
    runOp (noDelaySlot i >>= rest) s = .next (trapped .slot (w.zeroExtend 64) s) := by
  rw [← w64_word]
  exact runOp_trapped settled (bind_of_error (noDelaySlot_trap word closed))

/-! ### The addition and the commit (R127) -/

theorem readNamed_run {f : Sel} {i : BitVec 3} {s : State} (field : f = BitVec.ofNat 5 (16 + i.toNat))
    (filled : (nEntry s.cur i.toNat).tag = 0) :
    readEntry (nEntry s.cur (f.toNat - 16)) s = .ok ((nEntry s.cur i.toNat).val, s) :=
  (bind_of_gives (curSlot_run s)).symm.trans (named_run field ⟨filled, rfl⟩)

theorem nEntry_regSet (i : BitVec 3) (v : W) (x : Slot) (j : Nat) :
    nEntry (regSet i v x) j = if j = i.toNat then ready v else nEntry x j := by
  split
  next same => simp [same, nEntry_toNat, regSet]
  next other => exact nEntry_regSet_other other v x

/-- The state in which RGN.INC has added its immediate to a named register. -/
def incremented (x : DI) (i : BitVec 3) (s : State) : State :=
  { s with cur := regSet i ((nEntry s.cur i.toNat).val + immValue s.cur x.imm) s.cur }

theorem rgnInc_run {x : DI} {i : BitVec 3} {s : State} (field : x.d = BitVec.ofNat 5 (16 + i.toNat)) (open_ : InOpen s)
    (filled : (nEntry s.cur i.toNat).tag = 0) :
    exec (.rgnInc x) s = .next (rotateIfDue (committed x.st (incremented x i s))) :=
  runOp_ok ((bind_of_gives (noDelaySlot_run _ open_)).trans ((bind_of_gives (curSlot_run s)).trans
    ((bind_of_gives (readNamed_run field filled)).trans ((bind_of_gives (setNamed_run field _ s)).trans
      ((bind_of_gives (finishCommit_run ..)).trans (modify_run ..))))))

/-- A commit leaves nothing for a rollback to take back: a filled register stays as it is (R131). -/
theorem nEntry_rolledBack_committed (st : BitVec 3) {s : State} {i : BitVec 3} (filled : (nEntry s.cur i.toNat).tag = 0)
    (keep : List Nat) (tick : Nat) :
    nEntry (rolledBack keep tick (committed st s).cur) i.toNat = nEntry s.cur i.toNat := by
  rw [nEntry_toNat] at filled
  have same : { s.cur.n[i.toNat]'i.isLt with tag := 0 } = s.cur.n[i.toNat]'i.isLt := by rw [← filled]
  simp [nEntry_toNat, rolledBack, withoutLate, committed, commitSlot, afterWord, advance, same]

/-- Settles O11: the word is `DI.toWord`'s, and the register is written before the commit, which keeps it. -/
theorem rgnIncCommitsItsAddition : Obligations.RgnIncCommitsItsAddition := by
  refine ⟨by decide, fun x => rfl, fun st d imm bad => ⟨_, decode_rgnInc_illegal (x := ⟨st, d, imm⟩) bad⟩,
    fun x i s field open_ filled => ?_, fun x s closed settled =>
      ⟨_, rfl, noDelaySlot_trapped rfl (not_inOpen closed) settled⟩⟩
  intro v sum
  have written : nEntry (incremented x i s).cur i.toNat = ready sum := (nEntry_regSet ..).trans (if_pos rfl)
  refine ⟨_, rgnInc_run field open_ filled, ⟨_, rfl⟩, committed_frame x.st _, rfl, rfl, rfl, rfl,
    fun j _ => nEntry_regSet .., fun keep tick => ⟨?_, rfl⟩⟩
  exact (nEntry_rolledBack_committed x.st (congrArg Entry.tag written) keep tick).trans written

end Sys2Proof.Machine
end

section
/-!
PROOF. REP and the iterations of its body (O13).
-/
namespace Sys2Proof.Machine

/-! ### REP at issue (R135) -/

/-- A number of words in bytes. -/
theorem wordsBytes_eq (n : Nat) : BitVec.ofNat 56 (4 * n) = 4 * BitVec.ofNat 56 n := by
  rw [BitVec.ofNat_mul]
  rfl

/-- What a REP does with its count: it goes on past the body with nothing to repeat, or begins the first iteration. -/
def repBegun (x : Rep) (i : BitVec 3) (count : W) (s : State) : State :=
  let y := commitSlot s.module.frozen.isSome s.tags
  let z := (issued x.st s).cur
  if count = 0 then { s with cur := y (seqFrom (s.cur.pc + 4 + BitVec.ofNat 56 (4 * (x.len1.toNat + 1))) z) }
  else { s with cur := { y z with
    rstart := s.cur.gpc, rep := some ⟨s.cur.gpc, s.cur.pc + 4, x.len1.toNat + 1, i, Vector.replicate 8 none⟩ } }

theorem rep_run {x : Rep} {i : BitVec 3} {s : State} (field : x.a = BitVec.ofNat 5 (16 + i.toNat)) (open_ : InOpen s)
    (filled : (nEntry s.cur i.toNat).tag = 0) :
    exec (.rep x) s = .next (repBegun x i (nEntry s.cur i.toNat).val s) := by
  have reg : BitVec.ofNat 3 i.toNat = i := by simp
  refine runOp_ok (u := ()) ?_
  rw [bind_of_gives (noDelaySlot_run _ open_), bind_of_gives (curSlot_run s), bind_of_gives (readNamed_run field filled),
    field, namedSel_toNat, Nat.add_sub_cancel_left, bind_of_gives (finish_run ..), modify_run, reg]
  rfl

/-! ### The end of an iteration (R135, R136) -/

/-- A buffered value before the register's own. -/
theorem getD_cases (b : Option Entry) (e : Entry) : b.getD e = match b with
    | some f => f
    | none => e := by
  cases b <;> rfl

/-- What a named register holds once the iteration buffer is applied: the buffered value, if the body wrote one. -/
theorem nEntry_applyBuffer (buf : Vector (Option Entry) 8) (x : Slot) (j : BitVec 3) :
    nEntry { x with n := applyBuffer buf x.n } j.toNat = (buf[j.toNat]'j.isLt).getD (nEntry x j.toNat) := by
  simp [nEntry_toNat, applyBuffer]

/-- The slot at the end of an iteration, with its named registers as the body leaves them. -/
def iterated (r : Repeat) (x : Slot) : Slot :=
  let e := countEntry r x
  { x with n := (applyBuffer r.buf x.n).set r.reg.toNat { e with val := e.val - 1 } r.reg.isLt }

/-- The named registers at the end of an iteration: the buffer applied, and the count one less. -/
theorem nEntry_iterated (r : Repeat) (x : Slot) (j : BitVec 3) :
    nEntry (iterated r x) j.toNat = if j = r.reg then { countEntry r x with val := (countEntry r x).val - 1 }
      else (r.buf[j.toNat]'j.isLt).getD (nEntry x j.toNat) := by
  split
  next same => simp [same, nEntry_toNat, iterated]
  next other =>
    rw [← nEntry_applyBuffer]
    exact nEntry_set_other { x with n := applyBuffer r.buf x.n } (fun e => other (BitVec.eq_of_toNat_eq e)) _

/-- The executing slot as it is given, with its region committed. -/
def regionEnded (s : State) (x : Slot) : State := { s with cur := commitSlot s.module.frozen.isSome s.tags x }

/-- The last iteration leaves the body behind. -/
theorem repIteration_last {s : State} {r : Repeat} (body : s.cur.rep = some r) (last : (countEntry r s.cur).val - 1 = 0) :
    repIteration s = regionEnded s (seqFrom s.cur.pc { iterated r s.cur with rep := none }) := by
  simp only [repIteration, body]
  exact if_pos last

/-- With a count left the body begins again, its buffer empty. -/
theorem repIteration_again {s : State} {r : Repeat} (body : s.cur.rep = some r) (left : (countEntry r s.cur).val - 1 ≠ 0) :
    repIteration s =
      let t := regionEnded s (seqFrom r.body { iterated r s.cur with rep := some { r with buf := Vector.replicate 8 none } })
      { t with cur := { t.cur with rstart := r.group } } := by
  simp only [repIteration, body]
  exact if_neg left

/-- An iteration's end changes the executing slot alone: the registers as iterated, the streams checkpointed. -/
theorem repIteration_common {s : State} {r : Repeat} (body : s.cur.rep = some r) :
    OnlySlot s (repIteration s) ∧ (repIteration s).cur.q = s.cur.q ∧ (repIteration s).cur.ckpt = s.cur.str ∧
      (repIteration s).cur.n = (iterated r s.cur).n := by
  by_cases last : (countEntry r s.cur).val - 1 = 0
  · rw [repIteration_last body last]
    exact ⟨⟨_, rfl⟩, rfl, rfl, rfl⟩
  · rw [repIteration_again body last]
    exact ⟨⟨_, rfl⟩, rfl, rfl, rfl⟩

/-! ### When an iteration ends -/

theorem atBodyEnd_of_pc {x : Slot} {r : Repeat} (body : x.rep = some r) (stands : x.pc = r.body + 4 * BitVec.ofNat 56 r.len) :
    atBodyEnd x = true := by
  simp [atBodyEnd, body, stands, wordsBytes_eq]

theorem iterationWaits_iff {s : State} {r : Repeat} (body : s.cur.rep = some r) :
    iterationWaits s = true ↔ fpPending s s.turn = true ∨ (countEntry r s.cur).tag ≠ 0 := by
  simp [iterationWaits, body]

/-- With the count there and nothing of the iteration still to come, its end is the next step. -/
theorem step_repIteration {s : State} (noHint : s.cur.hint = none) (noModifier : s.cur.modw = none)
    (ended : atBodyEnd s.cur = true) (ready : iterationWaits s = false) : step s = .next (repIteration s) := by
  simp [step, noHint, noModifier, ended, ready]

/-- Until then the slot waits. -/
theorem issueHart_bodyEnd_waits {s : State} (live : s.cur.nullify = 0) (ended : atBodyEnd s.cur = true)
    (waits : iterationWaits s = true) : issueHart s = .next s := by
  simp [issueHart, live, ended, waits]

/-- Settles O13: REP by its count, the end of an iteration by the count left, and the step by what is still to come. -/
theorem repRunsItsBodyTheCountedTimes : Obligations.RepRunsItsBodyTheCountedTimes := by
  refine ⟨fun x i s field open_ filled => ?_, fun s r body => ?_, fun s r body noHint noModifier stands => ?_,
    fun x s closed settled => ⟨_, rfl, noDelaySlot_trapped rfl (not_inOpen closed) settled⟩⟩
  · intro first past
    refine ⟨_, rep_run field open_ filled, ?_⟩
    have goal : first + BitVec.ofNat 56 (4 * (x.len1.toNat + 1)) = past := by rw [wordsBytes_eq]
    by_cases zero : (nEntry s.cur i.toNat).val = 0
    · rw [repBegun, if_pos zero, goal]
      exact ⟨⟨_, rfl⟩, rfl, rfl, rfl, fun _ => ⟨open_.1, rfl, rfl, rfl, rfl⟩, fun counts => absurd zero counts⟩
    · rw [repBegun, if_neg zero]
      exact ⟨⟨_, rfl⟩, rfl, rfl, rfl, fun none => absurd none zero, fun _ => ⟨rfl, rfl, rfl⟩⟩
  · intro after count t
    have same (j : BitVec 3) : (r.buf[j.toNat]'j.isLt).getD (nEntry s.cur j.toNat) = after j := getD_cases ..
    have counted : countEntry r s.cur = after r.reg := same r.reg
    obtain ⟨only, queue, ckpt, named⟩ := repIteration_common body
    have register (j : BitVec 3) : nEntry t.cur j.toNat = nEntry (iterated r s.cur) j.toNat := nEntry_of_eq named _
    refine ⟨only, queue, ckpt, ?_, fun j other => ?_, fun last => ?_, fun left => ?_⟩
    · rw [register, nEntry_iterated, if_pos rfl, counted]
    · rw [register, nEntry_iterated, if_neg other, same]
    · have run : t = _ := repIteration_last body (counted ▸ last)
      rw [run]
      exact ⟨rfl, rfl, rfl, rfl⟩
    · have run : t = _ := repIteration_again body (counted ▸ left)
      rw [run]
      exact ⟨rfl, rfl, rfl, rfl⟩
  · intro count
    have ended := atBodyEnd_of_pc body stands
    have same : countEntry r s.cur = count := getD_cases ..
    refine ⟨fun there none => ?_, fun missing live => issueHart_bodyEnd_waits live ended ?_⟩
    · refine step_repIteration noHint noModifier ended (Bool.eq_false_iff.2 fun waits => ?_)
      rcases (iterationWaits_iff body).1 waits with pending | missing
      · simp [none] at pending
      · exact missing (same ▸ there)
    · exact (iterationWaits_iff body).2 (same ▸ missing.symm)

end Sys2Proof.Machine
end

section
/-!
PROOF. O45: LAUNCH (R244).
-/
namespace Sys2Proof.Machine

/-! ### TINFO of an operand (R218) -/

/-- TINFO of an operation that names a whole register. -/
theorem opInfo_word (reason : BitVec 8) (v : W) :
    opInfo reason.toNat v.toNat false = operationInfo reason false (v.setWidth 55) := by
  rw [opInfo_eq_operationInfo, ofNat_toNat_setWidth]

/-! ### LAUNCH at issue (R244) -/

/-- The weight that LAUNCH gives up, and its status counted among those awaited. -/
def weightGiven (c : W) (t : State) : State := { t with cur := { t.cur with
  wcur := BitVec.ofNat 48 (t.cur.wcur.toNat - c.toNat), launches := t.cur.launches + 1 } }

section
variable (x : RRRR) {s s1 s2 s3 : State} {a b c : W} (may : MayCommit s) (ra : Reads s x.a a s1) (rb : Reads s1 x.b b s2)
  (rc : Reads s2 x.c c s3)
include may ra rb rc

theorem launch_noChild (mode : childMode s3 s3.cur.ctx ≠ 1) (settled : s.cur.launches = 0) :
    exec (.launch x) s = .next (trapped .protect (operationInfo 21 false (a.setWidth 55)) s) := by
  rw [← opInfo_word]
  exact runOp_trapped settled ((bind_of_gives (commitPlace_run _ may)).trans ((bind_of_gives ra).trans ((bind_of_gives rb).trans
    ((bind_of_gives rc).trans ((bind_of_gives (get_run s3)).trans (bind_of_error (require_false (by simpa using mode) ..)))))))

theorem launch_noWeight (mode : childMode s3 s3.cur.ctx = 1) (bad : c = 0 ∨ s3.cur.wcur.toNat ≤ c.toNat)
    (settled : s.cur.launches = 0) :
    exec (.launch x) s = .next (trapped .weightFine (operationInfo 2 false (c.setWidth 55)) s) := by
  have refused : (c != 0 && decide (c.toNat < s3.cur.wcur.toNat)) = false := by
    rw [Bool.and_eq_false_iff, bne_eq_false_iff_eq, decide_eq_false_iff_not, Nat.not_lt]
    exact bad
  rw [← opInfo_word]
  exact runOp_trapped settled ((bind_of_gives (commitPlace_run _ may)).trans ((bind_of_gives ra).trans ((bind_of_gives rb).trans
    ((bind_of_gives rc).trans ((bind_of_gives (get_run s3)).trans ((bind_of_gives (require_true (by simpa using mode) ..)).trans
      (bind_of_error (require_false refused ..))))))))

theorem launch_run {s4 s5 s6 s6' s7 t : State} {pa tag : Nat} {q r : Place} {dest : Dest} (mode : childMode s3 s3.cur.ctx = 1)
    (some : c ≠ 0) (less : c.toNat < s3.cur.wcur.toNat) (header : Gives (checkAccess 2 64 64 .both false a) s3 q s4)
    (place : q.loc = .mem pa ∨ ∃ off, q.loc = .config off ∧ pa = 0x200000000000 + off)
    (record : Gives (checkAccess 1 8 8 .write false (b + 8)) s4 r s5) (performed : accessesPending s5 = false)
    (released : Gives (release 3) s5 () s6) (evicted : Gives (evictPlace q.loc 64) s6 () s6')
    (evicted' : Gives (evictPlace r.loc 8) s6' () s7) (reserved : Reserves s7 x.d tag dest t)
    (kept : t.cur.wcur = s3.cur.wcur) :
    let u := weightGiven c t
    exec (.launch x) s = .next (committed x.st (emit u (.launchAtHome ⟨u.turn, tag, dest, u.cur.gpc, a.setWidth 56, pa,
      rootOf u u.turn, u.cur.sup, b.setWidth 56, c.setWidth 48, u.cur.ctx⟩))) := by
  have given : (c != 0 && decide (c.toNat < s3.cur.wcur.toNat)) = true := by
    rw [Bool.and_eq_true, bne_iff_ne, decide_eq_true_iff]
    exact ⟨some, less⟩
  dsimp only [weightGiven]
  rw [kept]
  refine runOp_ok (u := ()) ((bind_of_gives (commitPlace_run _ may)).trans ((bind_of_gives ra).trans ((bind_of_gives rb).trans
    ((bind_of_gives rc).trans ((bind_of_gives (get_run s3)).trans ((bind_of_gives (require_true (by simpa using mode) ..)).trans
      ((bind_of_gives (require_true given ..)).trans ((bind_of_gives header).trans ((bind_of_gives record).trans
        ((bind_of_gives (settleStores_run performed)).trans ((bind_of_gives released).trans ((bind_of_gives evicted).trans
          ((bind_of_gives evicted').trans ?_)))))))))))))
  rcases place with loc | ⟨off, loc, rfl⟩
  all_goals
    rw [loc]
    exact (bind_of_gives (pure_run ..)).trans ((bind_of_gives reserved).trans ((bind_of_gives (modCur_run ..)).trans
      ((bind_of_gives (get_run _)).trans ((bind_of_gives (emitOp_run ..)).trans (finishCommit_run ..)))))

end

end Sys2Proof.Machine
end

section
/-!
PROOF. O45: LAUNCH at its home, and its status (R244, R424).
-/
namespace Sys2Proof.Machine

/-- One LAUNCH fewer on its way to the slot of a hart, which holds `w` now; with none left the failures kept for the slot come
up again (R424). -/
def launchEnded (t : State) (h : HartId) (w : BitVec 48) : State :=
  let u := setSlot t h { slotOf t h with wcur := w, launches := (slotOf t h).launches - 1 }
  if (slotOf t h).launches ≤ 1 then retryFaults u h else u

theorem launchEnded_eq (t : State) (h : HartId) (w : BitVec 48) :
    let u := setSlot t h { slotOf t h with wcur := w, launches := (slotOf t h).launches - 1 }
    (if (slotOf u h).launches = 0 then retryFaults u h else u) = launchEnded t h w := by
  intro u
  have left : (slotOf u h).launches = (slotOf t h).launches - 1 := congrArg Slot.launches (slotOf_setSlot_self ..)
  rw [left]
  exact if_congr (by omega) rfl rfl

/-- The packet of a context and a launch record (R350). -/
theorem launchPacket_eq (ctx : BitVec 16) (record : Addr) : (ctx ++ record.setWidth 48).toNat = launchPacket ctx record := by
  rw [toNat_append_eq, BitVec.toNat_setWidth, launchPacket]

/-! ### At the home (R244) -/

/-- A LAUNCH refused at its home: its late trap, with the weight given back. -/
def launchRefused (r : LaunchReq) (s : State) (c : Cause) (reason : Nat) (ring : Option Nat) : State :=
  let t := lateTrap s r.h c reason 2 (BitVec.ofNat 56 (ring.getD r.va.toNat)) ⟨r.tpc, r.tag⟩
  launchEnded t r.h ((slotOf t r.h).wcur + r.given)

/-- The state in which a LAUNCH at its home reads the header: the lines of the header and of the ring entry have left the
issuer's L1. -/
def launchReads (r : LaunchReq) (s : State) : State :=
  touchHeader (evictEntry (evictHeader s r.h (unitLoc r.pa)) r.h (unitLoc r.pa) r.root r.sup .enq 0) (unitLoc r.pa)

/-- A status on its way to the strand. -/
def launchAnswers (r : LaunchReq) (t : State) (v : W) : State := emit t (.launchStatus ⟨r.h, r.tag, r.dest, v, 0⟩ r.given)

/-- A header is poisoned where it stands in memory and a sector of it is. -/
theorem headerPoisoned_iff (s : State) (l : Loc) :
    headerPoisoned s l = true ↔ ∃ ca, l = .mem ca ∧ poisonedMem s ca 64 = true := by
  unfold headerPoisoned
  cases l <;> simp

section
variable {r : LaunchReq} {s : State}

theorem launchAtHome_poisoned (bad : headerPoisoned (evictHeader s r.h (unitLoc r.pa)) (unitLoc r.pa) = true) :
    exec (.launchAtHome r) s = .next (launchRefused r (evictHeader s r.h (unitLoc r.pa)) .memerr 0 none) := by
  rw [launchRefused, ← launchEnded_eq]
  exact if_pos bad

variable (sound : headerPoisoned (evictHeader s r.h (unitLoc r.pa)) (unitLoc r.pa) = false)
include sound

/-- With a header that can be read the answer of the queue decides. -/
theorem launchAtHome_sound : exec (.launchAtHome r) s =
    match enqHome (launchReads r s) (unitLoc r.pa) r.root r.sup (r.ctx ++ r.record.setWidth 48).toNat with
    | .refuse c reason ring => .next (launchRefused r (noteRing (launchReads r s) (unitLoc r.pa) r.root ring) c reason ring)
    | .value 0 t =>
      match walk (launchReads r s) r.root (r.record.toNat + 8) with
      | .mapped pa _ _ => .next (launchAnswers r (afterEnq (homeWrite (evictOf t r.h (canonPa pa) 8) (canonPa pa)
          (natBytes 8 r.given.toNat)) (unitLoc r.pa)) 0)
      | _ => .next (launchRefused r (noteRing (launchReads r s) (unitLoc r.pa) r.root (some (r.record.toNat + 8))) .page 0
          (some (r.record.toNat + 8)))
    | .value v t => .next (launchAnswers r t (BitVec.ofNat 64 v)) := by
  simp only [launchRefused, ← launchEnded_eq, launchPacket_eq]
  exact if_neg (by simp [sound])

theorem launchAtHome_refused {c : Cause} {reason : Nat} {ring : Option Nat} (answer : enqHome (launchReads r s) (unitLoc r.pa)
    r.root r.sup (r.ctx ++ r.record.setWidth 48).toNat = .refuse c reason ring) : exec (.launchAtHome r) s =
      .next (launchRefused r (noteRing (launchReads r s) (unitLoc r.pa) r.root ring) c reason ring) := by
  rw [launchAtHome_sound sound, answer]

theorem launchAtHome_status {v : Nat} {t : State} (other : v ≠ 0) (answer : enqHome (launchReads r s) (unitLoc r.pa)
    r.root r.sup (r.ctx ++ r.record.setWidth 48).toNat = .value v t) :
    exec (.launchAtHome r) s = .next (launchAnswers r t (BitVec.ofNat 64 v)) := by
  rw [launchAtHome_sound sound, answer]
  cases v with
  | zero => exact absurd rfl other
  | succ v => rfl

section
variable {t : State} (answer : enqHome (launchReads r s) (unitLoc r.pa) r.root r.sup
  (r.ctx ++ r.record.setWidth 48).toNat = .value 0 t)
include answer

theorem launchAtHome_accepted {pa size attrs : Nat}
    (mapped : walk (launchReads r s) r.root (r.record.toNat + 8) = .mapped pa size attrs) :
    exec (.launchAtHome r) s = .next (launchAnswers r (afterEnq (homeWrite (evictOf t r.h (canonPa pa) 8) (canonPa pa)
      (natBytes 8 r.given.toNat)) (unitLoc r.pa)) 0) := by
  rw [launchAtHome_sound sound, answer, mapped]
  rfl

theorem launchAtHome_unmapped
    (unmapped : ∀ pa size attrs, walk (launchReads r s) r.root (r.record.toNat + 8) ≠ .mapped pa size attrs) :
    exec (.launchAtHome r) s = .next (launchRefused r (noteRing (launchReads r s) (unitLoc r.pa) r.root
      (some (r.record.toNat + 8))) .page 0 (some (r.record.toNat + 8))) := by
  rw [launchAtHome_sound sound, answer]
  cases found : walk (launchReads r s) r.root (r.record.toNat + 8) with
  | mapped pa size attrs => exact absurd found (unmapped pa size attrs)
  | unmapped _ => rfl
  | poisoned => rfl

end

end

/-- The status of a LAUNCH: the weight stays given when it is 0, and comes back otherwise. -/
theorem launchStatus_run (r : Delivery) (given : BitVec 48) (s : State) : exec (.launchStatus r given) s =
    .next (deliver (launchEnded s r.h
      (if r.val = 0 then (slotOf s r.h).wcur else (slotOf s r.h).wcur + given)) r) := by
  change execLaunchStatus r given s = _
  unfold execLaunchStatus
  rw [← launchEnded_eq]
  dsimp only
  by_cases accepted : r.val = 0
  · rw [if_pos accepted, if_pos accepted]
    rfl
  · rw [if_neg accepted, if_neg accepted]
    rfl

end Sys2Proof.Machine
end

section
/-!
PROOF. O45: GROW (R245).
-/
namespace Sys2Proof.Machine

/-- The groups that GROW may add to a context's: at least one, at most 65535, and their indices within 32 bits (R245). -/
abbrev GrowFits (k : Ctx) (n : Nat) : Prop := n ≠ 0 ∧ n ≤ 65535 ∧ k.groups + k.grown + n < 2 ^ 32

/-- The state after a mint, with the new groups pending. -/
def grownBy (s : State) (c : BitVec 16) (k : Ctx) (n clock : Nat) : State :=
  setQueue (setCtx s c { k with grown := k.grown + n }) k.queue { queueAt s k.queue with
    pending := (queueAt s k.queue).pending ++
      [⟨c, k.rec_, false, (List.range n).map fun i => (k.groups + k.grown + i, k.share), [], clock⟩] }

section
variable (x : RR) {s s1 t : State} {a : W} (may : MayCommit s) (ra : Reads s x.a a s1)
include may ra

theorem grow_noChild (mode : childMode s1 s1.cur.ctx ≠ 2) (settled : s.cur.launches = 0) :
    exec (.grow x) s = .next (trapped .protect (operationInfo 21 false (a.setWidth 55)) s) := by
  rw [← opInfo_word]
  exact runOp_trapped settled ((bind_of_gives (commitPlace_run _ may)).trans ((bind_of_gives ra).trans
    ((bind_of_gives (get_run s1)).trans (bind_of_error (require_false (by simpa using mode) ..)))))

variable {k : Ctx} (known : ctxOf s1 s1.cur.ctx = some k) (mode : childMode s1 s1.cur.ctx = 2)
include known mode

theorem grow_poisoned (fits : GrowFits k a.toNat) (bad : homePoisoned s1 s1.cur.ctx = true) (settled : s.cur.launches = 0) :
    exec (.grow x) s = .next (trapped .memerr (accessInfo 0 false 2 (BitVec.ofNat 56 (homeRecord s1 s1.cur.ctx))) s) := by
  rw [← memInfo_ofNat]
  refine runOp_trapped settled ((bind_of_gives (commitPlace_run _ may)).trans ((bind_of_gives ra).trans
    ((bind_of_gives (get_run s1)).trans ((bind_of_gives (require_true (by simpa using mode) ..)).trans ?_))))
  dsimp only
  rw [known]
  exact bind_of_error (require_false (by rw [bad, decide_eq_true fits]; rfl) ..)

theorem grow_nothing (sound : ¬ GrowFits k a.toNat ∨ homePoisoned s1 s1.cur.ctx = false)
    (full : ¬ (GrowFits k a.toNat ∧ totalOf s1 s1.cur.ctx + a.toNat * k.share < 2 ^ 48))
    (result : ProducesNow s1 x.d (BitVec.allOnes 64) t) : exec (.grow x) s = .next (committed x.st t) := by
  have minted : (if GrowFits k a.toNat then mintWeight s1 s1.cur.ctx (a.toNat * k.share) else none) = none := by
    split
    next fits => exact if_neg fun room => full ⟨fits, room.1⟩
    next => rfl
  refine runOp_ok (u := ()) ((bind_of_gives (commitPlace_run _ may)).trans ((bind_of_gives ra).trans
    ((bind_of_gives (get_run s1)).trans ((bind_of_gives (require_true (by simpa using mode) ..)).trans ?_))))
  dsimp only
  rw [known]
  refine (bind_of_gives (require_true ?_ ..)).trans ?_
  · rcases sound with unfit | clean
    · rw [decide_eq_false unfit]
      rfl
    · rw [clean, Bool.and_false]
      rfl
  · rw [minted]
    exact (bind_of_gives result).trans (finishCommit_run ..)

theorem grow_run {s2 : State} (fits : GrowFits k a.toNat) (minted : mintWeight s1 s1.cur.ctx (a.toNat * k.share) = some s2)
    (result : ProducesNow (grownBy s2 s1.cur.ctx k a.toNat s1.clock) x.d (BitVec.ofNat 64 (k.groups + k.grown)) t) :
    exec (.grow x) s = .next (committed x.st t) := by
  have clean : homePoisoned s1 s1.cur.ctx = false := by
    by_contra bad
    cases (if_neg fun room => bad (by simpa using room.2)).symm.trans minted
  have minted' : (if GrowFits k a.toNat then mintWeight s1 s1.cur.ctx (a.toNat * k.share) else none) = some s2 :=
    (if_pos fits).trans minted
  refine runOp_ok (u := ()) ((bind_of_gives (commitPlace_run _ may)).trans ((bind_of_gives ra).trans
    ((bind_of_gives (get_run s1)).trans ((bind_of_gives (require_true (by simpa using mode) ..)).trans ?_))))
  dsimp only
  rw [known]
  refine (bind_of_gives (require_true (by rw [clean, Bool.and_false]; rfl) ..)).trans ?_
  rw [minted']
  exact (bind_of_gives (set_run ..)).trans ((bind_of_gives result).trans (finishCommit_run ..))

end

end Sys2Proof.Machine
end

section
/-!
PROOF. A load leaves of every hart all but its records of failed stores and of what fetch still sees (R309, R329).
-/
namespace Sys2Proof.Machine

/-- An operation that, where it answers, has left the harts as loads do. -/
structure KeepsHarts {α : Type} (op : Op α) : Prop where
  kept : ∀ s v t, op s = .ok (v, t) → HartsKept s t

section
variable {α β : Type}

theorem OnlyLooks.keepsHarts {op : Op α} (looks : OnlyLooks op) : KeepsHarts op := ⟨fun s v t e => by
  obtain ⟨_, rfl⟩ := looks.same s v t e
  exact .of_eq rfl rfl rfl⟩

theorem keepsHarts_pure (v : α) : KeepsHarts (pure v : Op α) := (onlyLooks_pure v).keepsHarts

theorem keepsHarts_require (b : Bool) (c : Cause) (i : W) : KeepsHarts (require b c i) := (onlyLooks_require b c i).keepsHarts

theorem keepsHarts_bind {op : Op α} {f : α → Op β} (first : KeepsHarts op) (rest : ∀ v, KeepsHarts (f v)) :
    KeepsHarts (op >>= f) := ⟨fun _ _ _ e => by
  obtain ⟨v, t, kept, next⟩ := bind_ok e
  exact (first.kept _ _ _ kept).trans ((rest v).kept _ _ _ next)⟩

theorem keepsHarts_mapM {f : α → Op β} (kept : ∀ a, KeepsHarts (f a)) (l : List α) : KeepsHarts (l.mapM f) := by
  induction l with
  | nil => simpa using keepsHarts_pure _
  | cons a l ih =>
    rw [List.mapM_cons]
    exact keepsHarts_bind (kept a) fun _ => keepsHarts_bind ih fun _ => keepsHarts_pure _

/-- What waits where a condition holds answers only what its rest answers. -/
theorem keepsHarts_unlessWait {c : Prop} [Decidable c] {f : Unit → Op β} (rest : KeepsHarts (f ())) :
    KeepsHarts (if c then (waitHere >>= f) else f ()) := by
  split
  · exact ⟨fun s _ _ e => by rw [bind_of_error (waitHere_run s)] at e; cases e⟩
  · exact rest

end

theorem keepsHarts_loadLine (core ca n : Nat) (shared : Bool) (kind va : Nat) :
    KeepsHarts (loadLine core ca n shared kind va) := by
  refine ⟨fun s v t e => ?_⟩
  unfold loadLine at e
  replace e := (bind_of_gives (get_run s)).symm.trans e
  rcases held : l1Line s core ca with _ | l <;> rw [held] at e
  case some =>
    cases e
    exact (stored_installLine ..).harts
  case none =>
    obtain ⟨_, u, checked, rest⟩ := bind_ok e
    obtain ⟨_, rfl⟩ := require_ok checked
    cases rest
    exact ((stored_setCore ..).trans ((stored_readHome ..).trans (stored_installLine ..))).harts

theorem keepsHarts_remoteLine (core pa n : Nat) : KeepsHarts (remoteLine core pa n) := by
  refine ⟨fun s v t e => ?_⟩
  unfold remoteLine at e
  replace e := (bind_of_gives (get_run s)).symm.trans e
  rcases held : l1Line s core pa with _ | l <;> rw [held] at e
  case some =>
    cases e
    exact (stored_installLine ..).harts
  case none =>
    cases e
    exact ((stored_setCore ..).trans (stored_installLine ..)).harts

theorem keepsHarts_loadAt (p : Place) (n kind va : Nat) : KeepsHarts (loadAt p n kind va) := by
  refine keepsHarts_bind onlyLooks_get.keepsHarts fun s => keepsHarts_unlessWait
    (keepsHarts_bind (onlyLooks_settleBytes ..).keepsHarts fun _ => ?_)
  split
  · split
    · exact keepsHarts_bind (keepsHarts_mapM (fun _ => keepsHarts_loadLine ..) _) fun _ => keepsHarts_pure _
    · exact keepsHarts_bind (keepsHarts_require ..) fun _ => keepsHarts_pure _
  · exact keepsHarts_bind (keepsHarts_require ..) fun _ => keepsHarts_pure _
  · exact keepsHarts_pure _
  · refine keepsHarts_bind (keepsHarts_require ..) fun _ => ?_
    split
    · exact keepsHarts_bind (keepsHarts_mapM (fun _ => keepsHarts_remoteLine ..) _) fun _ => keepsHarts_pure _
    · exact keepsHarts_pure _

theorem keepsHarts_loadVa (kind n align : Nat) (ea : W) : KeepsHarts (loadVa kind n align ea) :=
  keepsHarts_bind (onlyLooks_checkAccess ..).keepsHarts fun _ => keepsHarts_loadAt ..

/-- The record of a successor is loaded and checked (R247). -/
theorem keepsHarts_successorRecord (a : W) : KeepsHarts (successorRecord a) := by
  refine keepsHarts_bind (keepsHarts_require ..) fun _ => keepsHarts_bind (keepsHarts_loadVa ..) fun _ =>
    keepsHarts_bind (keepsHarts_require ..) fun _ =>
      keepsHarts_bind (keepsHarts_mapM (fun _ => keepsHarts_loadVa ..) _) fun _ => ?_
  dsimp only
  split
  · refine keepsHarts_bind (keepsHarts_pure _) fun _ => keepsHarts_bind onlyLooks_curSlot.keepsHarts fun _ => ?_
    exact keepsHarts_bind (keepsHarts_require ..) fun _ => keepsHarts_pure _
  · refine keepsHarts_bind (keepsHarts_loadVa ..) fun _ => keepsHarts_bind onlyLooks_curSlot.keepsHarts fun _ => ?_
    exact keepsHarts_bind (keepsHarts_require ..) fun _ => keepsHarts_pure _

/-- Whether the other slot of the core runs a strand of the executing one's context stays as it is. -/
theorem HartsKept.runsStrand_beside {s t : State} (kept : HartsKept s t) :
    runsStrand (slotOf t (t.turn ^^^ 4096)) t.cur.ctx = runsStrand (slotOf s (s.turn ^^^ 4096)) s.cur.ctx := by
  have own : t.cur.ctx = s.cur.ctx := by
    have same := congrArg Slot.ctx (kept.2 s.turn)
    rwa [slotOf, if_pos kept.1.symm, slotOf, if_pos rfl] at same
  rw [kept.1, kept.2, own]
  rfl

end Sys2Proof.Machine
end

section
/-!
PROOF. O45: RETIRE (R246 to R249).
-/
namespace Sys2Proof.Machine

/-- In the handler of a QUIESCE message RETIRE traps (R242). -/
theorem retire_quiesce (x : ABe) {s : State} (open_ : InOpen s) (asked : s.cur.quiesce = true) (settled : s.cur.launches = 0) :
    exec (.retire x) s = .next (trapped .weightFine (operationInfo 3 false 0) s) :=
  runOp_trapped settled ((bind_of_gives (noDelaySlot_run _ open_)).trans (bind_of_error (notQuiesce_trap asked)))

/-- Whether the launch record of a context allows it a successor (R246). -/
def successorAllowed (s : State) (c : BitVec 16) : Prop := ∃ k, launchOf s c = some k ∧ k.succ = true

theorem successorAllowed_iff (s : State) (c : BitVec 16) : (match launchOf s c with
    | some r => r.succ
    | none => false) = true ↔ successorAllowed s c := by
  unfold successorAllowed
  cases launchOf s c <;> simp

section
variable (x : ABe) {s s1 s2 s3 : State} {a b : W} {d : List W} (open_ : InOpen s) (calm : s.cur.quiesce = false)
  (ra : Reads s x.a a s1) (rb : Reads s1 x.b b s2) (words : Gives (localWords b 5) s2 d s3)
include open_ calm ra rb words

theorem retire_badBlock (bad : inheritOk (d.map (·.toNat)) = false) (settled : s.cur.launches = 0) :
    exec (.retire x) s = .next (trapped .protect (operationInfo 19 false (b.setWidth 55)) s) := by
  rw [← opInfo_word]
  exact runOp_trapped settled ((bind_of_gives (noDelaySlot_run _ open_)).trans ((bind_of_gives (notQuiesce_run calm)).trans
    ((bind_of_gives ra).trans ((bind_of_gives rb).trans ((bind_of_gives words).trans (bind_of_error (require_false bad ..)))))))

variable (block : inheritOk (d.map (·.toNat)) = true)
include block

theorem retire_forbidden (forbidden : ¬ successorAllowed s3 s3.cur.ctx) (settled : s.cur.launches = 0) :
    exec (.retire x) s = .next (trapped .protect (operationInfo 20 false (a.setWidth 55)) s) := by
  rw [← opInfo_word]
  refine runOp_trapped settled ((bind_of_gives (noDelaySlot_run _ open_)).trans ((bind_of_gives (notQuiesce_run calm)).trans
    ((bind_of_gives ra).trans ((bind_of_gives rb).trans ((bind_of_gives words).trans
      ((bind_of_gives (require_true block ..)).trans ((bind_of_gives (get_run s3)).trans
        (bind_of_error (require_false ?_ ..)))))))))
  exact Bool.eq_false_iff.2 (mt (successorAllowed_iff ..).1 forbidden)

/-- Once the checks pass RETIRE commits, and what follows depends on the placement and the shape rule. -/
theorem retire_run {s4 s5 : State} {r : Launch} (allowed : successorAllowed s3 s3.cur.ctx)
    (record : Gives (successorRecord a) s3 r s4) (settled : Gives settleStrand s4 () s4)
    (alone : runsStrand (slotOf s4 (s4.turn ^^^ 4096)) s4.cur.ctx = false)
    (released : Gives (release (x.scope.toNat + 1)) s4 () s5) :
    let u := committed x.st s5
    let inh := inheritOf (d.map (·.toNat))
    (∀ p, placementOf u (agentOf u.turn) u.cur.ctx = some p → exec (.retire x) s = .next
      (if shapeRule u.cur.partw r.partw inh then startSuccessor u u.turn p r inh (x.scope.toNat + 1)
      else refuseSuccessor u u.turn)) := by
  intro u inh p place
  refine runOp_ok (u := ()) ((bind_of_gives (noDelaySlot_run _ open_)).trans ((bind_of_gives (notQuiesce_run calm)).trans
    ((bind_of_gives ra).trans ((bind_of_gives rb).trans ((bind_of_gives words).trans
      ((bind_of_gives (require_true block ..)).trans ((bind_of_gives (get_run s3)).trans
        ((bind_of_gives (require_true ((successorAllowed_iff ..).2 allowed) ..)).trans
        ((bind_of_gives record).trans ((bind_of_gives settled).trans ?_))))))))))
  rw [((keepsHarts_successorRecord a).kept _ _ _ record).runsStrand_beside] at alone
  rw [alone]
  refine (bind_of_gives released).trans ((bind_of_gives (finishCommit_run ..)).trans ((modify_run ..).trans ?_))
  rw [place]

end

end Sys2Proof.Machine
end

section
/-!
PROOF. What ends a subscription or scrubs a core leaves its placements (R248, R250, R258, R412, R413).
-/
namespace Sys2Proof.Machine

/-! ### Placements that stay -/

/-- From one state to another every core holds the contexts that it held. -/
structure PlacementsStay (s t : State) : Prop where
  holds : ∀ core c, (placementOf t core c).isSome = (placementOf s core c).isSome

theorem PlacementsStay.refl (s : State) : PlacementsStay s s := ⟨fun _ _ => rfl⟩

theorem PlacementsStay.trans {s t u : State} (h : PlacementsStay s t) (g : PlacementsStay t u) : PlacementsStay s u :=
  ⟨fun core c => (g.holds core c).trans (h.holds core c)⟩

theorem PlacementsStay.foldl {α : Type} {f : State → α → State} (hf : ∀ s a, PlacementsStay s (f s a)) (l : List α)
    (s : State) : PlacementsStay s (l.foldl f s) := by
  induction l generalizing s with
  | nil => exact .refl s
  | cons a l ih => exact (hf s a).trans (ih _)

theorem PlacementsStay.of_cores {s t : State} (same : t.cores = s.cores) : PlacementsStay s t :=
  ⟨fun core c => by rw [placementOf, coreOf_of_cores same, placementOf]⟩

/-- A core replaced by one that holds the same contexts. -/
theorem placementsStay_setCore {s : State} {core : Nat} {k : Core}
    (same : ∀ c : BitVec 16, (k.placements.find? fun p => p.ctx == c).isSome = (placementOf s core c).isSome) :
    PlacementsStay s (setCore s core k) := ⟨fun d c => by
  unfold placementOf
  by_cases e : d = core
  · subst e
    rw [coreOf_setCore_self, same, placementOf]
  · rw [coreOf_setCore_other _ _ _ _ e]⟩

theorem placementsStay_setPlacement (s : State) (core : Nat) (p : Placement) : PlacementsStay s (setPlacement s core p) := by
  refine placementsStay_setCore fun c => ?_
  have sameCtx : ((fun q : Placement => q.ctx == c) ∘ fun q => if q.ctx = p.ctx then p else q) = fun q => q.ctx == c := by
    funext q
    by_cases e : q.ctx = p.ctx
    · simp [e]
    · simp [e]
  rw [List.find?_map, sameCtx, Option.isSome_map, placementOf]

theorem placementsStay_noteLog (s : State) (core : Nat) (c : BitVec 16) (pubCore slot : Nat) (note : LogNote) :
    PlacementsStay s (noteLog s core c pubCore slot note) := by
  unfold noteLog
  split
  · exact .refl s
  · split
    · exact placementsStay_setPlacement ..
    · exact .refl s

theorem noteLog_pools (s : State) (core : Nat) (c : BitVec 16) (pubCore slot : Nat) (note : LogNote) :
    (noteLog s core c pubCore slot note).pools = s.pools := by
  unfold noteLog
  repeat' split
  all_goals rfl

/-! ### Subscriptions and regions that end (R258, R412, R413) -/

theorem placementsStay_dropExpect (s : State) (subCore pubCore slot : Nat) :
    PlacementsStay s (dropExpect s subCore pubCore slot) := placementsStay_setCore fun _ => rfl

theorem placementsStay_endSubscription (s : State) (core slot : Nat) : PlacementsStay s (endSubscription s core slot) := by
  unfold endSubscription
  dsimp only
  split
  · exact .refl s
  · refine .trans ?_ (placementsStay_noteLog ..)
    refine .trans ?_ (placementsStay_dropExpect ..)
    exact placementsStay_setCore fun _ => rfl

theorem endSubscription_pools (s : State) (core slot : Nat) : (endSubscription s core slot).pools = s.pools := by
  unfold endSubscription
  dsimp only
  split
  · rfl
  · exact noteLog_pools ..

theorem placementsStay_endEntry (s : State) (core i : Nat) : PlacementsStay s (endEntry s core i) := by
  unfold endEntry
  split
  · exact .refl s
  · refine .foldl (fun t j => ?_) _ _
    split
    · exact .refl t
    · refine .trans ?_ (placementsStay_endSubscription ..)
      exact .of_cores rfl

theorem endEntry_pools (s : State) (core i : Nat) : (endEntry s core i).pools = s.pools := by
  unfold endEntry
  split
  · rfl
  · refine foldl_kept State.pools _ (fun t j => ?_) _ _
    split
    · rfl
    · exact endSubscription_pools ..

theorem placementsStay_endSubscribed (s : State) (core : Nat) (c : BitVec 16) : PlacementsStay s (endSubscribed s core c) :=
  .foldl (fun _ _ => placementsStay_endSubscription ..) _ _

theorem endSubscribed_pools (s : State) (core : Nat) (c : BitVec 16) : (endSubscribed s core c).pools = s.pools :=
  foldl_kept State.pools _ (fun _ _ => endSubscription_pools ..) _ _

theorem placementsStay_endRegions (s : State) (core : Nat) (c : BitVec 16) (inh : Inherit) :
    PlacementsStay s (endRegions s core c inh) := .foldl (fun _ _ => placementsStay_endEntry ..) _ _

theorem endRegions_pools (s : State) (core : Nat) (c : BitVec 16) (inh : Inherit) : (endRegions s core c inh).pools = s.pools :=
  foldl_kept State.pools _ (fun _ _ => endEntry_pools ..) _ _

/-! ### The landing region given up (R225) -/

theorem placementsStay_endLanding (s : State) (h : HartId) : PlacementsStay s (endLanding s h) := by
  unfold endLanding
  dsimp only
  split
  · exact .refl s
  · have slot (x : Slot) : PlacementsStay s (setSlot s h x) := .of_cores (setSlot_cores ..)
    split
    · exact slot _
    · exact (slot _).trans (placementsStay_setPlacement ..)

theorem endLanding_pools (s : State) (h : HartId) : (endLanding s h).pools = s.pools := by
  unfold endLanding
  dsimp only
  split
  · rfl
  · split
    · exact setSlot_pools ..
    · exact setSlot_pools ..

/-! ### Pool bytes scrubbed (R250) -/

/-- Blocks of a core's pool set to zero, but for those that are kept. -/
def zeroBlocks (core n : Nat) (kept : Nat → Bool) (start : Nat → Nat) (s : State) (i : Nat) : State :=
  if kept i then s else zeroPool s core (start i) n

theorem placementsStay_zeroBlocks (core n : Nat) (kept : Nat → Bool) (start : Nat → Nat) (s : State) (i : Nat) :
    PlacementsStay s (zeroBlocks core n kept start s i) := by
  unfold zeroBlocks
  split
  · exact .refl s
  · exact .of_cores rfl

/-- A byte after a number of blocks: zero in a block that is not kept, else as before. -/
theorem memGet_zeroBlocks (core n : Nat) (kept : Nat → Bool) (start : Nat → Nat) (l : List Nat) (s : State) (a : Nat) :
    memGet (l.foldl (zeroBlocks core n kept start) s).pools a =
      if ∃ i ∈ l, kept i = false ∧ poolKey core (start i) ≤ a ∧ a < poolKey core (start i) + n then 0
      else memGet s.pools a := by
  induction l generalizing s with
  | nil => simp
  | cons i l ih =>
    rw [List.foldl_cons, ih]
    have first : memGet (zeroBlocks core n kept start s i).pools a =
        if kept i = false ∧ poolKey core (start i) ≤ a ∧ a < poolKey core (start i) + n then 0 else memGet s.pools a := by
      unfold zeroBlocks
      cases kept i with
      | true => simp
      | false =>
        rw [if_neg Bool.false_ne_true]
        exact (memGet_memClear ..).trans (if_congr (by simp) rfl rfl)
    rw [first, ← ite_or]
    refine if_congr ?_ rfl rfl
    rw [List.exists_mem_cons_iff, or_comm]

theorem setCopyDword_frame (s : State) (a off v : Nat) :
    (setCopyDword s a off v).cores = s.cores ∧ (setCopyDword s a off v).pools = s.pools := by
  unfold setCopyDword
  dsimp only
  split <;> simp

theorem setRegDword_frame (s : State) (die : Nat) (c : BitVec 16) (off v : Nat) :
    (setRegDword s die c off v).cores = s.cores ∧ (setRegDword s die c off v).pools = s.pools := by
  unfold setRegDword
  dsimp only
  split <;> simp [setCopyDword_frame]

/-- The scratchpad's blocks of 256 bytes from the second on, scrubbed. -/
theorem scrubPad_eq (s : State) (core base size : Nat) (inh : Inherit) : scrubPad s core base size inh =
    (List.range (size / 256 - 1)).foldl (zeroBlocks core 256 (fun i => keepsBlock inh (256 * (i + 1)))
      fun i => base + 256 * (i + 1)) s := rfl

theorem placementsStay_scrubPad (s : State) (core base size : Nat) (inh : Inherit) :
    PlacementsStay s (scrubPad s core base size inh) := by
  rw [scrubPad_eq]
  exact .foldl (fun _ _ => placementsStay_zeroBlocks ..) _ _

/-- A byte of the scratchpad behind the shape record: kept in an inherited range, else zero (R250). -/
theorem memGet_scrubPad (s : State) {core base size off : Nat} (inh : Inherit) (within : base + size ≤ 2 ^ 18)
    (pages : size % 256 = 0) (behind : 256 ≤ off) (inside : off < size) :
    memGet (scrubPad s core base size inh).pools (core * 2 ^ 18 + base + off) =
      if keepsBlock inh (off / 256 * 256) then memGet s.pools (core * 2 ^ 18 + base + off) else 0 := by
  rw [scrubPad_eq, memGet_zeroBlocks]
  have block : (∃ i ∈ List.range (size / 256 - 1), keepsBlock inh (256 * (i + 1)) = false ∧
      poolKey core (base + 256 * (i + 1)) ≤ core * 2 ^ 18 + base + off ∧
        core * 2 ^ 18 + base + off < poolKey core (base + 256 * (i + 1)) + 256) ↔
      keepsBlock inh (off / 256 * 256) = false := by
    constructor
    · rintro ⟨i, small, zero, low, high⟩
      rw [List.mem_range] at small
      have key : poolKey core (base + 256 * (i + 1)) = core * 2 ^ 18 + (base + 256 * (i + 1)) := by
        rw [poolKey, Nat.mod_eq_of_lt (by omega)]
      rwa [show off / 256 * 256 = 256 * (i + 1) by omega]
    · intro zero
      have key : poolKey core (base + 256 * (off / 256 - 1 + 1)) = core * 2 ^ 18 + (base + 256 * (off / 256 - 1 + 1)) := by
        rw [poolKey, Nat.mod_eq_of_lt (by omega)]
      refine ⟨off / 256 - 1, List.mem_range.2 (by omega), ?_, by omega, by omega⟩
      rwa [show 256 * (off / 256 - 1 + 1) = off / 256 * 256 by omega]
  rw [if_congr block rfl rfl]
  cases keepsBlock inh (off / 256 * 256) <;> rfl

/-- From one state to another neither a core nor a pool has changed: so it is where a registry entry is written. -/
def CoresAndPoolsStay (s t : State) : Prop := t.cores = s.cores ∧ t.pools = s.pools

/-- The blocks of the tiles that are not inherited, scrubbed. -/
def zeroTiles (core : Nat) (p : Placement) (partw : BitVec 32) (inh : Inherit) (s : State) : State :=
  let size := tileSize (acc64Of partw)
  (List.range (accuOf partw * 4096 / size)).foldl (zeroBlocks core size (fun i => bitOf inh.tiles.toNat i)
    fun i => padBase partw p.pbase + padSize partw + i * size) s

/-- The tiles' blocks scrubbed, once what the core's buffer holds of them is gone. -/
theorem scrubTiles_eq (s : State) (core : Nat) (p : Placement) (partw : BitVec 32) (inh : Inherit) : ∃ u,
    PlacementsStay s u ∧ u.pools = s.pools ∧
      CoresAndPoolsStay (zeroTiles core p partw inh u) (scrubTiles s core p partw inh) := by
  unfold scrubTiles
  extract_lets k kept t size start zero u die four
  refine ⟨t, ?_, ?_, ?_⟩
  · unfold t
    split
    · exact placementsStay_setCore fun _ => rfl
    · exact .refl s
  · unfold t
    split <;> rfl
  · have regs (v : State) (j : Nat) : CoresAndPoolsStay v (four v j) := by
      simp only [four]
      split
      · exact ⟨rfl, rfl⟩
      · exact setRegDword_frame ..
    change CoresAndPoolsStay u _
    split
    · exact ⟨rfl, rfl⟩
    · exact ⟨(regs _ 1).1.trans (regs _ 0).1, (regs _ 1).2.trans (regs _ 0).2⟩

theorem placementsStay_scrubTiles (s : State) (core : Nat) (p : Placement) (partw : BitVec 32) (inh : Inherit) :
    PlacementsStay s (scrubTiles s core p partw inh) := by
  obtain ⟨u, stay, -, cores, -⟩ := scrubTiles_eq s core p partw inh
  exact stay.trans ((PlacementsStay.foldl (fun _ _ => placementsStay_zeroBlocks ..) _ _).trans (.of_cores cores))

/-- The scrub of the tiles leaves the scratchpad before them. -/
theorem memGet_scrubTiles (s : State) {core off : Nat} {p : Placement} {partw : BitVec 32} (inh : Inherit)
    (within : padBase partw p.pbase + padSize partw + accuOf partw * 4096 ≤ 2 ^ 18)
    (inside : off < padBase partw p.pbase + padSize partw) :
    memGet (scrubTiles s core p partw inh).pools (core * 2 ^ 18 + off) = memGet s.pools (core * 2 ^ 18 + off) := by
  obtain ⟨u, -, same, -, pools⟩ := scrubTiles_eq s core p partw inh
  rw [pools, zeroTiles, memGet_zeroBlocks, same, if_neg]
  rintro ⟨i, small, -, low, -⟩
  rw [List.mem_range] at small
  have whole : (i + 1) * tileSize (acc64Of partw) ≤ accuOf partw * 4096 :=
    (Nat.mul_le_mul_right _ small).trans (Nat.div_mul_le_self ..)
  have some : 0 < tileSize (acc64Of partw) := by
    unfold tileSize
    split <;> decide
  rw [Nat.succ_mul] at whole
  rw [poolKey, Nat.mod_eq_of_lt (by omega)] at low
  omega

end Sys2Proof.Machine
end

section
/-!
PROOF. O45: the successor of a strand (R248 to R250).
-/
namespace Sys2Proof.Machine

/-! ### The scratchpad of a successor (R250) -/

/-- The published regions and, unless they are inherited, the subscriptions of a context on a core ended. -/
def unsubscribedFor (s : State) (core : Nat) (c : BitVec 16) (inh : Inherit) : State :=
  if inh.subs then endRegions s core c inh else endSubscribed (endRegions s core c inh) core c

theorem unsubscribedFor_frame (s : State) (core : Nat) (c : BitVec 16) (inh : Inherit) :
    PlacementsStay s (unsubscribedFor s core c inh) ∧ (unsubscribedFor s core c inh).pools = s.pools ∧
      (unsubscribedFor s core c inh).memOk = s.memOk := by
  unfold unsubscribedFor
  split
  · exact ⟨placementsStay_endRegions .., endRegions_pools .., endRegions_memOk ..⟩
  · refine ⟨(placementsStay_endRegions ..).trans (placementsStay_endSubscribed ..), ?_, ?_⟩
    · rw [endSubscribed_pools, endRegions_pools]
    · rw [endSubscribed_memOk, endRegions_memOk]

/-- The core with its subscriptions ended, its tiles and scratchpad scrubbed, and the shape record written. -/
def scrubbedFor (s : State) (h : HartId) (p : Placement) (r : Launch) (inh : Inherit) : State :=
  let core := agentOf h
  let base := padBase r.partw p.pbase
  let t := scrubTiles (scrubPad (unsubscribedFor s core p.ctx inh) core base (padSize r.partw) inh) core p r.partw inh
  poolWrite (zeroPool t core base 256) core base r.shapeImage

theorem placementsStay_scrubbedFor (s : State) (h : HartId) (p : Placement) (r : Launch) (inh : Inherit) :
    PlacementsStay s (scrubbedFor s h p r inh) := by
  have pad := placementsStay_scrubPad (unsubscribedFor s (agentOf h) p.ctx inh) (agentOf h) (padBase r.partw p.pbase)
    (padSize r.partw) inh
  have tiles := pad.trans (placementsStay_scrubTiles _ (agentOf h) p r.partw inh)
  exact (unsubscribedFor_frame ..).1.trans (tiles.trans (.of_cores rfl))

/-- What a successor finds in its scratchpad: the shape record, the inherited ranges, and zeros. -/
theorem memGet_scrubbedFor {s : State} {h : HartId} {p : Placement} {r : Launch} (inh : Inherit) (canonical : s.memOk = true)
    (image : r.shapeImage.length ≤ 256) (some : 1 ≤ spadu r.partw)
    (within : p.pbase.toNat + (regu r.partw + spadu r.partw + accuOf r.partw) * 4096 ≤ 2 ^ 18) {off : Nat}
    (inside : off < padSize r.partw) :
    let a := agentOf h * 2 ^ 18 + padBase r.partw p.pbase + off
    memGet (scrubbedFor s h p r inh).pools a = if off < 256 then (r.shapeImage[off]?).getD 0
      else if keepsBlock inh (off / 256 * 256) then memGet s.pools a else 0 := by
  intro a
  obtain ⟨-, pools, memOk⟩ := unsubscribedFor_frame s (agentOf h) p.ctx inh
  have pages : padSize r.partw = spadu r.partw * 4096 := rfl
  have base : padBase r.partw p.pbase = p.pbase.toNat + regu r.partw * 4096 := rfl
  have key : poolKey (agentOf h) (padBase r.partw p.pbase) = agentOf h * 2 ^ 18 + padBase r.partw p.pbase := by
    rw [poolKey, Nat.mod_eq_of_lt (by omega)]
  have tiles := scrubTiles_memOk (agentOf h) p r.partw inh
    (scrubPad_memOk (agentOf h) (padBase r.partw p.pbase) (padSize r.partw) inh (memOk.trans canonical))
  change memGet (memWrite (memClear (scrubTiles _ _ _ _ _).pools _ 256) _ _) a = _
  rw [memGet_memWrite _ _ _ (memClear_wf _ _ (State.memOk_pools tiles)), memGet_memClear, key]
  by_cases shape : off < 256
  · rw [if_pos shape]
    by_cases written : off < r.shapeImage.length
    · rw [if_pos (by omega), show a - (agentOf h * 2 ^ 18 + padBase r.partw p.pbase) = off by omega]
    · rw [if_neg (by omega), if_pos (by omega), List.getElem?_eq_none (by omega)]
      rfl
  · rw [if_neg shape, if_neg (by omega), if_neg (by omega), show a = agentOf h * 2 ^ 18 + (padBase r.partw p.pbase + off) from
      Nat.add_assoc .., memGet_scrubTiles _ inh (by omega) (by omega), ← Nat.add_assoc,
      memGet_scrubPad _ inh (by omega) (by omega) (by omega) inside]
    exact if_congr Iff.rfl (by rw [← pools]) rfl

/-! ### The slot of a successor (R248) -/

/-- The slot at the first instruction of a successor. -/
def successorSlot (p : Placement) (r : Launch) (inh : Inherit) (clock : Nat) (x own : Slot) : Slot :=
  { atEntry r.entry (freshSlot p clock own) with wcur := x.wcur, crec := x.crec, n := inheritedRegs inh x }

/-- What the strand held besides given up. -/
def unclaimedFor (s : State) (h : HartId) (c : BitVec 16) (inh : Inherit) : State :=
  endLanding (releaseLease (releaseLanes (releaseOslots s h c fun _ => inh.oslots) h) h) h

theorem unclaimedFor_frame (s : State) (h : HartId) (c : BitVec 16) (inh : Inherit) :
    PlacementsStay s (unclaimedFor s h c inh) ∧ (unclaimedFor s h c inh).pools = s.pools ∧
      (slotOf (unclaimedFor s h c inh) h).lease.held = false := by
  obtain ⟨clusters, oslots⟩ := releaseOslots_eq s h c fun _ => inh.oslots
  have slot := (endLanding_frame (releaseLease (releaseLanes (releaseOslots s h c fun _ => inh.oslots) h) h) h).2.2.1
  refine ⟨.trans (.of_cores ?_) (placementsStay_endLanding ..), ?_, ?_⟩
  · rw [release_cores, oslots]
  · rw [unclaimedFor, endLanding_pools, release_pools, oslots]
  · rw [unclaimedFor, slot, release_slotOf]
    rfl

theorem successorStarted_frame (v : State) (h : HartId) (y : Slot) (core scope : Nat) (c : BitVec 16) :
    (refuseWaiting (startAcquire (setSlot v h y) core scope) core c).pools = v.pools ∧
      slotOf (refuseWaiting (startAcquire (setSlot v h y) core scope) core c) h = y := by
  have acquired : (startAcquire (setSlot v h y) core scope).pools = v.pools ∧
      slotOf (startAcquire (setSlot v h y) core scope) h = y := by
    unfold startAcquire
    split
    · exact ⟨setSlot_pools .., slotOf_setSlot_self ..⟩
    · exact ⟨setSlot_pools .., slotOf_setSlot_self ..⟩
  exact acquired

/-- The start of a successor: the core scrubbed, the old strand's claims given up, the placement with the new record's
parts, and the slot fresh. -/
theorem startSuccessor_run {s : State} {h : HartId} {p q : Placement} {r : Launch} {inh : Inherit} {scope : Nat}
    (place : placementOf s (agentOf h) p.ctx = some q) : ∃ p' clock own, own.lease.held = false ∧ p'.partw = r.partw ∧
      (startSuccessor s h p r inh scope).pools = (scrubbedFor s h p r inh).pools ∧
      slotOf (startSuccessor s h p r inh scope) h = successorSlot p' r inh clock (slotOf s h) own := by
  obtain ⟨stay, pools, held⟩ := unclaimedFor_frame (scrubbedFor s h p r inh) h (slotOf s h).ctx inh
  have there := ((placementsStay_scrubbedFor s h p r inh).trans stay).holds (agentOf h) p.ctx
  rw [place, Option.isSome_some] at there
  obtain ⟨p', found⟩ := Option.isSome_iff_exists.1 there
  have run : startSuccessor s h p r inh scope =
      let u := unclaimedFor (scrubbedFor s h p r inh) h (slotOf s h).ctx inh
      let p'' := { p' with
        partw := r.partw, htab := placedTable r.image, ptab := r.ptab, nphase := r.nphase, sdef := r.sdef }
      let v := setPlacement u (agentOf h) p''
      refuseWaiting (startAcquire (setSlot v h (successorSlot p'' r inh v.clock (slotOf s h) (slotOf v h))) (agentOf h) scope)
        (agentOf h) p'.ctx := by
    unfold startSuccessor
    change (match placementOf (unclaimedFor (scrubbedFor s h p r inh) h (slotOf s h).ctx inh) (agentOf h) p.ctx with
      | none => _
      | some p => _) = _
    rw [found]
    rfl
  rw [run]
  refine ⟨_, _, _, ?_, ?_, (successorStarted_frame ..).1.trans pools, (successorStarted_frame ..).2⟩
  · rwa [slotOf_of_eq rfl rfl rfl]
  · rfl

theorem nEntry_inheritedRegs (inh : Inherit) (x y : Slot) {j : Nat} (hj : j < 8) :
    nEntry { y with n := inheritedRegs inh x } j =
      ⟨if j < 6 ∧ inh.nregs.getLsbD j = true then (nEntry x j).val else 0, 0, 0⟩ := by
  have reg (i : Nat) : (if inh.nregs.getLsbD i = true then ready (nEntry x i).val else ready 0) =
      ⟨if inh.nregs.getLsbD i = true then (nEntry x i).val else 0, 0, 0⟩ := by split <;> rfl
  rw [nEntry, dif_pos hj]
  simp only [inheritedRegs, bitOf_toNat, reg]
  interval_cases j
  all_goals simp [ready]

/-- The slot of a successor, as R248 gives it. -/
theorem successorSlot_fresh {p : Placement} {r : Launch} (inh : Inherit) (clock : Nat) (x : Slot) {own : Slot}
    (unleased : own.lease.held = false) (words : p.partw = r.partw) :
    let y := successorSlot p r inh clock x own
    y.live = true ∧ y.pc = r.entry ∧ y.rstart = r.entry ∧ y.wcur = x.wcur ∧ y.crec = x.crec ∧ y.partw = r.partw ∧
      y.sup = false ∧ y.fpflags = 0 ∧ y.vlanes = 0 ∧ y.lease.held = false ∧
      (∀ q : Fin 4, y.str[q] = Stream.closed) ∧
      (∀ j, j < 8 → nEntry y j = ⟨if j < 6 ∧ inh.nregs.getLsbD j = true then (nEntry x j).val else 0, 0, 0⟩) ∧
      ∀ j, j < 16 → qEntry y j = ⟨0, 0, 0⟩ := by
  intro y
  refine ⟨rfl, rfl, rfl, rfl, rfl, words, rfl, rfl, rfl, unleased, fun q => ?_, fun j hj => ?_, fun j hj => ?_⟩
  · exact Vector.getElem_replicate ..
  · exact nEntry_inheritedRegs inh x y hj
  · exact (emptied_empty (y := own) j).2 hj

/-- A block of the scratchpad is kept where a range holds its first byte. -/
theorem keepsBlock_iff (inh : Inherit) (off : Nat) :
    keepsBlock inh off = true ↔ ∃ q ∈ inh.ranges, q.1 ≤ off ∧ off < q.1 + q.2 := by
  simp [keepsBlock, List.any_eq_true]

/-- A strand whose successor is refused leaves an empty slot (R249). -/
theorem refuseSuccessor_emptied (s : State) (h : HartId) : ∃ y, slotOf (refuseSuccessor s h) h = emptied y := by
  obtain ⟨y, left, -⟩ := (slotLeft_endStrand (endSubscribed (match ctxOf s (slotOf s h).ctx with
    | some k => writeCompletion s k.compl (slotOf s h).ctx.toNat 0x12 0
    | none => s) (agentOf h) (slotOf s h).ctx) h).slot
  exact ⟨y, left⟩

/-- Settles O45: each word runs its checks in their order; the answers of the home by its queue and its walk; the successor
by the scrub of its pool and its fresh slot. -/
theorem launchingGrowingAndRetiring : Obligations.LaunchingGrowingAndRetiring := by
  unfold Obligations.LaunchingGrowingAndRetiring
  refine ⟨?launch, ?home, fun r given s => ?status, ?grow,
    fun x s open_ asked settled => retire_quiesce x open_ asked settled, ?retire, fun s h => ?refused, ?successor⟩
  case launch =>
    intro x s s1 s2 s3 s4 s5 s6 s6' s7 t a b c pa q r tag dest may ra rb rc trapsWith
    exact ⟨launch_noChild x may ra rb rc, launch_noWeight x may ra rb rc,
      fun mode some less header place record performed released evicted evicted' reserved kept =>
        launch_run x may ra rb rc mode some less header place record performed released evicted evicted' reserved kept⟩
  case home =>
    intro r s l packet back answers s0 s1 refuses
    have poisoned := headerPoisoned_iff (evictHeader s r.h (unitLoc r.pa)) (unitLoc r.pa)
    refine ⟨fun ca place bad => ?_, fun sound => ?_⟩
    · refine (launchAtHome_poisoned (poisoned.2 ⟨ca, place, bad⟩)).trans ?_
      have info : memInfo 0 2 r.va.toNat true = accessInfo 0 true 2 r.va := memInfo_eq_accessInfo 0 2 r.va true
      rw [launchRefused, lateTrap, Option.getD_none, BitVec.ofNat_toNat, BitVec.setWidth_eq, info]
      rfl
    · have clean : headerPoisoned (evictHeader s r.h (unitLoc r.pa)) (unitLoc r.pa) = false := by
        refine Bool.eq_false_iff.2 fun bad => ?_
        obtain ⟨ca, place, bad⟩ := poisoned.1 bad
        exact Bool.false_ne_true ((sound ca place).symm.trans bad)
      exact ⟨fun c reason ring answer => launchAtHome_refused clean answer,
        fun v t other answer => launchAtHome_status clean other answer,
        fun t pa size attrs answer mapped => launchAtHome_accepted clean answer mapped,
        fun t answer unmapped => launchAtHome_unmapped clean answer unmapped⟩
  case status =>
    intro y u
    rw [launchStatus_run]
    rfl
  case grow =>
    intro x s s1 t a k may ra known n first fits
    have same : fits ↔ GrowFits k a.toNat := and_congr Nat.one_le_iff_ne_zero Iff.rfl
    refine ⟨grow_noChild x may ra, fun mode sound full result => ?_, fun mode fit => ?_, fun s2 mode fit minted => ?_⟩
    · exact grow_nothing x may ra known mode (sound.imp_left (mt same.2)) (mt (fun h => ⟨same.2 h.1, h.2⟩) full) result
    · exact grow_poisoned x may ra known mode (same.1 fit)
    · exact grow_run x may ra known mode (same.1 fit) minted
  case retire =>
    intro x s s1 s2 s3 s4 s5 a b d r open_ calm ra rb calm' words block allowed trapsWith
    refine ⟨retire_badBlock x open_ calm ra rb words, fun good => retire_forbidden x open_ calm ra rb words good,
      fun good may record settled alone released => ?_⟩
    intro u
    have run := retire_run x open_ calm ra rb words good may record settled alone released
    exact ⟨fun p place rule => (run p place).trans (congrArg _ (if_pos rule)),
      fun p place rule => (run p place).trans (congrArg _ (if_neg (Bool.eq_false_iff.1 rule)))⟩
  case refused =>
    obtain ⟨y, empty⟩ := refuseSuccessor_emptied s h
    rw [empty]
    exact ⟨rfl, rfl⟩
  case successor =>
    intro s h p r inh scope canonical place image some within x t y pad byteOf
    obtain ⟨p', clock, own, unleased, words, pools, slot⟩ := startSuccessor_run (r := r) (inh := inh) (scope := scope) place
    have fresh := successorSlot_fresh inh clock (slotOf s h) unleased words
    rw [← slot] at fresh
    obtain ⟨live, pc, rstart, wcur, crec, partw, sup, flags, lanes, lease, ports, named, queue⟩ := fresh
    have bytes (off : Nat) (inside : off < spadu r.partw * 4096) : byteOf t off = _ :=
      (congrArg (memGet · _) pools).trans (memGet_scrubbedFor inh canonical image some within inside)
    refine ⟨live, pc, rstart, wcur, crec, partw, sup, flags, lanes, lease, ports, named, queue, fun off low => ?_,
      fun off behind inside => ?_⟩
    · exact (bytes off (by omega)).trans (if_pos low)
    · refine (bytes off inside).trans ((if_neg (by omega)).trans (if_congr (keepsBlock_iff ..) rfl rfl))

end Sys2Proof.Machine
end

section
/-!
PROOF. The one rounding as a rounding of reals (R145, R146; O22).
-/
namespace Sys2Proof.Machine

/-! ### A real as mantissa and exponent -/

/-- A positive real written with a mantissa and an exponent, and a little more when `sticky`. -/
structure Stands (mant : Nat) (exp : Int) (sticky : Bool) (a : ℝ) : Prop where
  pos : 0 < mant
  lower : (mant : ℝ) * 2 ^ exp ≤ a
  upper : a < (mant + 1) * 2 ^ exp
  more : sticky = true ↔ a ≠ mant * 2 ^ exp

theorem stands_exact {mant : Nat} (pos : 0 < mant) (exp : Int) : Stands mant exp false (mant * 2 ^ exp) where
  pos := pos
  lower := le_rfl
  upper := by
    have : (0 : ℝ) < 2 ^ exp := by positivity
    nlinarith
  more := by simp

section
variable {mant : Nat} {exp : Int} {sticky : Bool} {a : ℝ} (h : Stands mant exp sticky a)
include h

theorem Stands.real_pos : 0 < a := by
  have : (0 : ℝ) < mant := by exact_mod_cast h.pos
  exact lt_of_lt_of_le (by positivity) h.lower

/-- The exponent of the leading bit. -/
theorem Stands.log : Int.log 2 a = exp + (Nat.log2 mant : Nat) := by
  have two : (1 : ℕ) < 2 := by decide
  have split (n : ℤ) : (2 : ℝ) ^ (exp + n) = 2 ^ n * 2 ^ exp := by rw [add_comm, zpow_add₀ two_ne_zero]
  have unit : (0 : ℝ) < 2 ^ exp := by positivity
  have least : ((2 ^ Nat.log2 mant : ℕ) : ℝ) ≤ mant := by exact_mod_cast Nat.log2_self_le h.pos.ne'
  have most : (mant : ℝ) + 1 ≤ (2 ^ (Nat.log2 mant + 1) : ℕ) := by exact_mod_cast Nat.lt_log2_self
  push_cast at least most
  apply le_antisymm
  · rw [← Int.lt_add_one_iff, ← Int.lt_zpow_iff_log_lt two h.real_pos, Nat.cast_ofNat, add_assoc, split]
    calc a < (mant + 1) * 2 ^ exp := h.upper
      _ ≤ _ := by
        refine mul_le_mul_of_nonneg_right ?_ unit.le
        exact_mod_cast most
  · rw [← Int.zpow_le_iff_le_log two h.real_pos, Nat.cast_ofNat, split]
    calc _ ≤ (mant : ℝ) * 2 ^ exp := mul_le_mul_of_nonneg_right (by exact_mod_cast least) unit.le
      _ ≤ a := h.lower

/-- In units of 2^q above the last bit of the mantissa: the whole units, the rest of the mantissa, and less than one bit more. -/
theorem Stands.units (sh : Nat) : ∃ more : ℝ, 0 ≤ more ∧ more < 1 ∧ (sticky = true ↔ more ≠ 0) ∧
    a / 2 ^ (exp + sh) = (mant / 2 ^ sh : ℕ) + ((mant % 2 ^ sh : ℕ) + more) / 2 ^ sh := by
  have unit : (0 : ℝ) < 2 ^ exp := by positivity
  refine ⟨a / 2 ^ exp - mant, ?_, ?_, ?_, ?_⟩
  · rw [sub_nonneg, le_div_iff₀ unit]
    exact h.lower
  · rw [sub_lt_iff_lt_add', div_lt_iff₀ unit]
    exact h.upper
  · rw [h.more, sub_ne_zero, ne_eq, ne_eq, div_eq_iff unit.ne']
  · have parts : (mant : ℝ) = (mant / 2 ^ sh : ℕ) * 2 ^ sh + (mant % 2 ^ sh : ℕ) := by
      exact_mod_cast (Nat.div_add_mod' mant (2 ^ sh)).symm
    have scale : (0 : ℝ) < 2 ^ sh := by positivity
    rw [zpow_add₀ two_ne_zero, zpow_natCast, ← div_div, div_eq_iff scale.ne', add_mul, div_mul_cancel₀ _ scale.ne']
    linarith

end

/-! ### Rounding to a whole number of units -/

section
variable {r : Rounding} {neg : Bool} {units : ℝ} {k : ℤ}

/-- What a real with whole part and fraction rounds to. -/
theorem roundsTo_iff {n : ℤ} {frac : ℝ} (whole : units = n + frac) (least : 0 ≤ frac) (most : frac < 1) :
    RoundsTo r neg units k ↔
      (frac = 0 → k = n) ∧ (frac ≠ 0 → RoundsUp r neg n frac → k = n + 1) ∧ (frac ≠ 0 → ¬ RoundsUp r neg n frac → k = n) := by
  have floor : ⌊units⌋ = n := Int.floor_eq_iff.mpr ⟨by linarith, by linarith⟩
  have rest : units - n = frac := by linarith
  simp only [RoundsTo, floor, rest]

theorem roundsTo_intCast (n : ℤ) : RoundsTo r neg n k ↔ k = n := by
  rw [roundsTo_iff (n := n) (frac := 0) (by simp) le_rfl one_pos]
  simp

/-- A rounded number of units is the whole part or the next. -/
theorem roundsTo_floor_or_next (h : RoundsTo r neg units k) : k = ⌊units⌋ ∨ (k = ⌊units⌋ + 1 ∧ units ≠ ⌊units⌋) := by
  obtain ⟨exact_, up, down⟩ := h
  by_cases frac : units - ⌊units⌋ = 0
  · exact .inl (exact_ frac)
  · by_cases away : RoundsUp r neg ⌊units⌋ (units - ⌊units⌋)
    · exact .inr ⟨up frac away, sub_ne_zero.mp frac⟩
    · exact .inl (down frac away)

theorem roundsTo_le (h : RoundsTo r neg units k) {m : ℤ} (most : units ≤ m) : k ≤ m := by
  have floor : ⌊units⌋ ≤ m := by exact_mod_cast (Int.floor_le units).trans most
  rcases roundsTo_floor_or_next h with rfl | ⟨rfl, frac⟩
  · exact floor
  · refine lt_of_le_of_ne floor fun same => frac (le_antisymm ?_ (Int.floor_le units))
    rwa [same]

theorem roundsTo_ge (h : RoundsTo r neg units k) {m : ℤ} (least : (m : ℝ) ≤ units) : m ≤ k := by
  have floor : m ≤ ⌊units⌋ := Int.le_floor.mpr least
  rcases roundsTo_floor_or_next h with rfl | ⟨rfl, _⟩ <;> omega

end

/-- Whether a mode goes away from zero, from `lo` units and `rest` parts of 2^sh, with a little more when `sticky`. -/
def goesUp (r : Rounding) (neg : Bool) (lo rest sh : Nat) (sticky : Bool) : Bool :=
  match r.mode with
  | .rne => decide (2 ^ (sh - 1) < rest) || (rest == 2 ^ (sh - 1) && (sticky || lo % 2 == 1))
  | .rna => decide (2 ^ (sh - 1) ≤ rest)
  | .rtz => false
  | .rup => !neg
  | .rdn => neg
  | .sto => decide (r.draw < rest * 2 ^ 32 / 2 ^ sh)

theorem roundUnits_whole (r : Rounding) (neg : Bool) (mant : Nat) (exp : Int) (sticky : Bool) {q : Int} (fine : q ≤ exp) :
    roundUnits r neg mant exp sticky q = (mant * 2 ^ (exp - q).toNat, sticky) := if_pos fine

theorem roundUnits_parts (r : Rounding) (neg : Bool) (mant : Nat) (exp : Int) (sticky : Bool) {sh : Nat} (coarse : 0 < sh) :
    roundUnits r neg mant exp sticky (exp + sh) = if mant % 2 ^ sh = 0 ∧ !sticky then (mant / 2 ^ sh, false)
      else (if goesUp r neg (mant / 2 ^ sh) (mant % 2 ^ sh) sh sticky then mant / 2 ^ sh + 1 else mant / 2 ^ sh, true) := by
  have shift : (exp + sh - exp).toNat = sh := by omega
  unfold roundUnits
  rw [if_neg (by omega), shift]
  rfl

/-- The model's choice is that of the mode for the exact fraction. -/
theorem goesUp_iff {r : Rounding} {neg sticky : Bool} {lo rest sh : Nat} {more : ℝ} (coarse : 0 < sh) (least : 0 ≤ more)
    (most : more < 1) (sticks : sticky = true ↔ more ≠ 0) (bits : sticky = true → 32 ≤ sh) :
    goesUp r neg lo rest sh sticky = true ↔ RoundsUp r neg lo ((rest + more) / 2 ^ sh) := by
  obtain ⟨sh, rfl⟩ : ∃ n, sh = n + 1 := ⟨sh - 1, by omega⟩
  have scale : (0 : ℝ) < 2 ^ (sh + 1) := by positivity
  have half : (1 : ℝ) / 2 * 2 ^ (sh + 1) = (2 ^ sh : ℕ) := by push_cast; ring
  have reach (m : ℕ) : (m : ℝ) ≤ rest + more ↔ m ≤ rest := by
    constructor
    · intro le
      have : (m : ℝ) < rest + 1 := by linarith
      exact Nat.lt_succ_iff.mp (by exact_mod_cast this)
    · intro le
      have : (m : ℝ) ≤ rest := by exact_mod_cast le
      linarith
  unfold goesUp RoundsUp
  cases r.mode with
  | rtz => simp
  | rup => simp
  | rdn => simp
  | rna => rw [le_div_iff₀ scale, half, reach]; simp
  | rne =>
    have odd : (lo : ℤ) % 2 = 1 ↔ lo % 2 = 1 := by omega
    have tie : ((rest : ℝ) + more) = (2 ^ sh : ℕ) ↔ rest = 2 ^ sh ∧ more = 0 := by
      constructor
      · intro eq
        have least : 2 ^ sh ≤ rest := (reach _).mp eq.ge
        have most : ¬ 2 ^ sh + 1 ≤ rest := fun le => by
          have := (reach _).mpr le
          push_cast at this eq
          linarith
        have same : rest = 2 ^ sh := by omega
        exact ⟨same, by rw [same] at eq; linarith⟩
      · rintro ⟨rfl, rfl⟩
        rw [add_zero]
    have above : ((2 ^ sh : ℕ) : ℝ) < rest + more ↔ 2 ^ sh < rest ∨ (rest = 2 ^ sh ∧ more ≠ 0) := by
      rw [lt_iff_le_and_ne, reach, ne_comm, ne_eq, tie]
      by_cases none : more = 0 <;> simp only [none, and_true, and_false, not_true, not_false_eq_true, ne_eq, or_false] <;> omega
    rw [lt_div_iff₀ scale, div_eq_iff scale.ne', half, above, tie, odd]
    by_cases none : more = 0
    · have plain : sticky = false := by simpa [none] using sticks
      simp [none, plain]
    · have sticky_ : sticky = true := sticks.mpr none
      simp [none, sticky_]
  | sto =>
    have floor : ⌊(rest + more) / 2 ^ (sh + 1) * 2 ^ 32⌋ = ((rest * 2 ^ 32 / 2 ^ (sh + 1) : ℕ) : ℤ) := by
      by_cases none : more = 0
      · have : ((rest : ℝ) + more) / 2 ^ (sh + 1) * 2 ^ 32 = ((rest * 2 ^ 32 : ℕ) : ℝ) / ((2 ^ (sh + 1) : ℕ) : ℝ) := by
          push_cast
          rw [none]
          ring
        rw [this, Int.floor_div_natCast, Int.floor_natCast]
        norm_cast
      · have deep := bits (sticks.mpr none)
        obtain ⟨n, eq⟩ : ∃ n, sh + 1 = n + 32 := ⟨sh + 1 - 32, by omega⟩
        have whole : ⌊(rest : ℝ) + more⌋ = rest := Int.floor_eq_iff.mpr ⟨by simpa using least, by simpa using most⟩
        have : ((rest : ℝ) + more) / 2 ^ (sh + 1) * 2 ^ 32 = (rest + more) / (2 ^ n : ℕ) := by
          rw [eq, pow_add]
          push_cast
          field_simp
        rw [this, Int.floor_div_natCast, whole, eq, pow_add, Nat.mul_div_mul_right _ _ (by positivity)]
        norm_cast
    rw [floor, decide_eq_true_iff]
    norm_cast

/-- What the model's rounding to units of 2^q gives, and when it is inexact (R145). -/
theorem roundUnits_roundsTo {mant : Nat} {exp q : Int} {sticky : Bool} {a : ℝ} (r : Rounding) (neg : Bool)
    (h : Stands mant exp sticky a) (bits : sticky = true → exp + 32 ≤ q) :
    RoundsTo r neg (a / 2 ^ q) (roundUnits r neg mant exp sticky q).1 ∧ ((roundUnits r neg mant exp sticky q).2 = true ↔
      ((roundUnits r neg mant exp sticky q).1 : ℝ) * 2 ^ q ≠ a) := by
  have unit : (0 : ℝ) < 2 ^ q := by positivity
  by_cases fine : q ≤ exp
  · have plain : sticky = false := by
      by_contra sticks
      have := bits (by simpa using sticks)
      omega
    have exact_ : a = mant * 2 ^ exp := by simpa [plain] using h.more
    have units : ((mant * 2 ^ (exp - q).toNat : ℕ) : ℝ) * 2 ^ q = a := by
      have shift : exp = ((exp - q).toNat : ℤ) + q := by omega
      rw [exact_]
      conv_rhs => rw [shift, zpow_add₀ two_ne_zero, zpow_natCast]
      push_cast
      ring
    rw [roundUnits_whole _ _ _ _ _ fine]
    refine ⟨?_, by simp only [plain, units]; simp⟩
    rw [← units, mul_div_cancel_right₀ _ unit.ne', ← Int.cast_natCast, roundsTo_intCast]
  · obtain ⟨sh, rfl⟩ : ∃ n : ℕ, q = exp + n := ⟨(q - exp).toNat, by omega⟩
    have coarse : 0 < sh := by omega
    obtain ⟨more, least, most, sticks, units⟩ := h.units sh
    have scale : (0 : ℝ) < 2 ^ sh := by positivity
    have rest : ((mant % 2 ^ sh : ℕ) : ℝ) + 1 ≤ 2 ^ sh := by
      exact_mod_cast Nat.mod_lt _ (by positivity)
    have frac : 0 ≤ ((mant % 2 ^ sh : ℕ) + more) / 2 ^ sh := by positivity
    have frac' : ((mant % 2 ^ sh : ℕ) + more) / 2 ^ sh < 1 := by
      rw [div_lt_one scale]
      linarith
    have up := goesUp_iff (r := r) (neg := neg) (lo := mant / 2 ^ sh) (rest := mant % 2 ^ sh) coarse least most sticks
      fun s => by have := bits s; omega
    have none : ((mant % 2 ^ sh : ℕ) + more) / 2 ^ sh = 0 ↔ mant % 2 ^ sh = 0 ∧ !sticky := by
      have plain : more = 0 ↔ sticky = false := by rw [← Bool.not_eq_true, sticks, not_not]
      rw [div_eq_zero_iff, or_iff_left scale.ne', add_eq_zero_iff_of_nonneg (by positivity) least, Nat.cast_eq_zero, plain,
        Bool.not_eq_true']
    have back (k : ℕ) : (k : ℝ) * 2 ^ (exp + sh) = a ↔ (k : ℝ) = a / 2 ^ (exp + (sh : ℤ)) := (eq_div_iff unit.ne').symm
    have whole : (((mant / 2 ^ sh : ℕ) : ℤ) : ℝ) = (mant / 2 ^ sh : ℕ) := Int.cast_natCast _
    rw [roundUnits_parts _ _ _ _ _ coarse, ne_eq, back, units, roundsTo_iff (by rw [whole]) frac frac']
    generalize ((mant % 2 ^ sh : ℕ) + more) / 2 ^ sh = part at *
    by_cases is_whole : mant % 2 ^ sh = 0 ∧ !sticky
    · rw [if_pos is_whole, none.mpr is_whole]
      simp
    · have some_ : part ≠ 0 := fun zero => is_whole (none.mp zero)
      rw [if_neg is_whole]
      by_cases away : goesUp r neg (mant / 2 ^ sh) (mant % 2 ^ sh) sh sticky = true
      · rw [if_pos away]
        refine ⟨⟨fun zero => absurd zero some_, fun _ _ => by push_cast; rfl, fun _ stays => absurd (up.mp away) stays⟩, ?_⟩
        simp [frac'.ne']
      · rw [if_neg away]
        refine ⟨⟨fun zero => absurd zero some_, fun _ goes => absurd (up.mpr goes) away, fun _ _ => rfl⟩, ?_⟩
        simp [some_]

/-! ### What a format encodes (R140, R142) -/

/-- What the four formats have in common. -/
structure FpFmt.Usual (f : FpFmt) : Prop where
  prec : 2 ≤ f.prec
  ebits : 2 ≤ f.ebits
  range : f.prec ≤ f.bias

theorem FpFmt.usual {f : FpFmt} (h : f ∈ [fp64, fp32, fp16, bf16]) : f.Usual := by
  fin_cases h <;> exact ⟨by decide, by decide, by decide⟩

/-- The magnitude that the bits below the sign encode, below those of the infinity. -/
noncomputable def FpFmt.magnitude (f : FpFmt) (n : Nat) : ℝ :=
  ((n - (n / 2 ^ (f.prec - 1) - 1) * 2 ^ (f.prec - 1) : ℕ) : ℝ) *
    (2 : ℝ) ^ (f.emin + (n / 2 ^ (f.prec - 1) - 1 : ℕ) - (f.prec - 1 : ℕ))

/-- A significand of a binade, up to the first of the next. -/
theorem FpFmt.magnitude_binade (f : FpFmt) {j k : Nat} (most : k ≤ 2 * 2 ^ (f.prec - 1)) (least : 0 < j → 2 ^ (f.prec - 1) ≤ k) :
    f.magnitude (j * 2 ^ (f.prec - 1) + k) = (k : ℝ) * (2 : ℝ) ^ (f.emin + j - (f.prec - 1 : ℕ)) := by
  unfold FpFmt.magnitude
  have pos : 0 < 2 ^ (f.prec - 1) := by positivity
  rw [Nat.add_comm (j * _), Nat.add_mul_div_right _ _ pos]
  generalize 2 ^ (f.prec - 1) = p at *
  have low : k / p ≤ 2 := by
    rw [Nat.div_le_iff_le_mul_add_pred pos]
    omega
  by_cases next : k = 2 * p
  · subst next
    have two : 2 * p / p = 2 := Nat.mul_div_cancel _ pos
    have drop : 2 * p + j * p - (2 + j - 1) * p = p := by
      have : 2 + j - 1 = j + 1 := by omega
      rw [this, Nat.add_mul]
      omega
    have carry : f.emin + ((2 + j - 1 : ℕ) : ℤ) - (f.prec - 1 : ℕ) = f.emin + j - (f.prec - 1 : ℕ) + 1 := by
      have : ((2 + j - 1 : ℕ) : ℤ) = j + 1 := by omega
      rw [this]
      ring
    rw [two, drop, carry, zpow_add_one₀ two_ne_zero]
    push_cast
    ring
  · have same : k / p + j - 1 = j := by
      have below : k / p < 2 := by
        rw [Nat.div_lt_iff_lt_mul pos]
        omega
      by_cases sub : j = 0
      · omega
      · have := (Nat.one_le_div_iff pos).mpr (least (by omega))
        omega
    rw [same, Nat.add_sub_cancel]

theorem FpFmt.magnitude_strictMono (f : FpFmt) : StrictMono f.magnitude := by
  refine strictMono_nat_of_lt_succ fun n => ?_
  have pos : 0 < 2 ^ (f.prec - 1) := by positivity
  obtain ⟨j, k, eq, most, least⟩ : ∃ j k, n = j * 2 ^ (f.prec - 1) + k ∧ k < 2 * 2 ^ (f.prec - 1) ∧
      (0 < j → 2 ^ (f.prec - 1) ≤ k) := by
    have parts := Nat.div_add_mod' n (2 ^ (f.prec - 1))
    have rest := Nat.mod_lt n pos
    by_cases sub : n / 2 ^ (f.prec - 1) = 0
    · exact ⟨0, n, by omega, by rw [sub] at parts; omega, nofun⟩
    · obtain ⟨j, eq⟩ := Nat.exists_eq_succ_of_ne_zero sub
      rw [eq, Nat.succ_mul] at parts
      exact ⟨j, 2 ^ (f.prec - 1) + n % 2 ^ (f.prec - 1), by omega, by omega, fun _ => by omega⟩
  rw [eq, Nat.add_assoc, f.magnitude_binade most.le least, f.magnitude_binade most (fun p => (least p).trans k.le_succ)]
  refine mul_lt_mul_of_pos_right ?_ (by positivity)
  exact_mod_cast k.lt_succ_self

theorem FpFmt.magnitude_zero (f : FpFmt) : f.magnitude 0 = 0 := by simp [FpFmt.magnitude]

/-- The overflow goes to the largest finite value or to the infinity (R146). -/
theorem overflowBits_eq (f : FpFmt) (r : Rounding) (neg : Bool) :
    let toLargest := r.mode = .rtz ∨ (r.mode = .rup ∧ neg = true) ∨ (r.mode = .rdn ∧ neg = false)
    (¬ toLargest → overflowBits f r neg = f.infBits + b1 neg * f.signBit) ∧
      (toLargest → overflowBits f r neg = f.maxBits + b1 neg * f.signBit) := by
  unfold overflowBits
  cases r.mode <;> cases neg <;> simp

/-- The exponent of the spacing, and the bounds of the rounded significand. -/
theorem significand_bounds {f : FpFmt} {a : ℝ} (pos : 0 < a) {r : Rounding} {neg : Bool} {k : Nat}
    (rounds : RoundsTo r neg (a / (2 : ℝ) ^ (max (Int.log 2 a) f.emin - (f.prec - 1 : ℕ))) k) :
    k ≤ 2 * 2 ^ (f.prec - 1) ∧ (f.emin < max (Int.log 2 a) f.emin → 2 ^ (f.prec - 1) ≤ k) := by
  have two : (1 : ℕ) < 2 := by decide
  set e := max (Int.log 2 a) f.emin with exponent
  have unit : (0 : ℝ) < 2 ^ (e - (f.prec - 1 : ℕ) : ℤ) := by positivity
  have scale (n : ℕ) : ((2 ^ n : ℕ) : ℝ) * 2 ^ (e - (f.prec - 1 : ℕ) : ℤ) = 2 ^ (n + e - (f.prec - 1 : ℕ) : ℤ) := by
    rw [add_sub_assoc, zpow_add₀ two_ne_zero, zpow_natCast]
    norm_cast
  constructor
  · have below : a < 2 ^ (e + 1) := by
      have := (Int.lt_zpow_iff_log_lt two (x := e + 1) pos).mpr (by omega)
      exact_mod_cast this
    have := roundsTo_le rounds (m := ((2 ^ (f.prec - 1 + 1) : ℕ) : ℤ)) (by
      rw [Int.cast_natCast, div_le_iff₀ unit, scale]
      refine below.le.trans (le_of_eq ?_)
      congr 1
      push_cast
      ring)
    rw [← pow_succ']
    exact_mod_cast this
  · intro normal
    have above : (2 : ℝ) ^ e ≤ a := by
      have := (Int.zpow_le_iff_le_log two (x := e) pos).mpr (by omega)
      exact_mod_cast this
    have := roundsTo_ge rounds (m := ((2 ^ (f.prec - 1) : ℕ) : ℤ)) (by
      rw [Int.cast_natCast, le_div_iff₀ unit, scale]
      refine le_trans (le_of_eq ?_) above
      congr 1
      ring)
    exact_mod_cast this

theorem roundFp_eq (f : FpFmt) (r : Rounding) (neg : Bool) (mant : Nat) (exp : Int) (sticky : Bool) :
    let top := exp + (Nat.log2 mant : Nat)
    let u := roundUnits r neg mant exp sticky (max top f.emin - (f.prec - 1 : Nat))
    let bits := (max top f.emin - f.emin).toNat * 2 ^ (f.prec - 1) + u.1
    roundFp f r neg mant exp sticky = if f.infBits ≤ bits then ⟨overflowBits f r neg, flagOF ||| flagNX⟩
      else ⟨bits + b1 neg * f.signBit, (if u.2 then flagNX else 0) ||| (if u.2 && decide (top < f.emin) then flagUF else 0)⟩ :=
  rfl

section
variable {f : FpFmt} (usual : f.Usual)
include usual

theorem FpFmt.Usual.signBit_eq : f.signBit = 2 ^ f.ebits * 2 ^ (f.prec - 1) := by
  have := usual.prec
  rw [FpFmt.signBit, FpFmt.width, ← pow_add]
  congr 1
  omega

theorem FpFmt.Usual.width_eq : 2 ^ f.width = 2 * f.signBit := by
  have := usual.prec
  rw [FpFmt.signBit, ← pow_succ']
  congr 1
  unfold FpFmt.width
  omega

theorem FpFmt.Usual.infBits_lt : f.infBits + 2 ^ (f.prec - 1) = f.signBit := by
  rw [usual.signBit_eq, FpFmt.infBits, ← Nat.succ_mul]
  congr 1
  have : 0 < 2 ^ f.ebits := by positivity
  omega

theorem FpFmt.Usual.infBits_pos : 0 < f.infBits := by
  have : 2 ^ 1 < 2 ^ f.ebits := Nat.pow_lt_pow_right (by decide) usual.ebits
  exact Nat.mul_pos (by omega) (by positivity)

/-- The fields of an encoding: sign, exponent and fraction. -/
theorem FpFmt.Usual.unpack_signed {n : Nat} (small : n < f.signBit) (neg : Bool) : unpack f (n + b1 neg * f.signBit) =
    if n / 2 ^ (f.prec - 1) = 2 ^ f.ebits - 1 then
      (if n % 2 ^ (f.prec - 1) = 0 then .inf neg else .nan (!bitOf (n % 2 ^ (f.prec - 1)) (f.prec - 2)))
    else if n / 2 ^ (f.prec - 1) = 0 then
      if n % 2 ^ (f.prec - 1) = 0 then .zero neg else .fin neg (n % 2 ^ (f.prec - 1)) (f.emin - (f.prec - 1 : Nat))
    else .fin neg (n % 2 ^ (f.prec - 1) + 2 ^ (f.prec - 1))
      (f.emin + (n / 2 ^ (f.prec - 1) - 1 : Nat) - (f.prec - 1 : Nat)) := by
  have whole : (n + b1 neg * f.signBit) % 2 ^ f.width = n + b1 neg * f.signBit := by
    rw [usual.width_eq]
    refine Nat.mod_eq_of_lt ?_
    cases neg <;> simp only [b1] <;> simp <;> omega
  have sign : bitOf (n + b1 neg * f.signBit) (f.width - 1) = neg := by
    have pos : 0 < f.signBit := by unfold FpFmt.signBit; positivity
    rw [bitOf]
    change ((n + b1 neg * f.signBit) / f.signBit % 2 == 1) = neg
    rw [Nat.add_mul_div_right _ _ pos, Nat.div_eq_of_lt small]
    cases neg <;> rfl
  have low : (n + b1 neg * f.signBit) % 2 ^ (f.prec - 1) = n % 2 ^ (f.prec - 1) := by
    rw [usual.signBit_eq, ← Nat.mul_assoc, Nat.add_mul_mod_self_right]
  have exponent : (n + b1 neg * f.signBit) / 2 ^ (f.prec - 1) % 2 ^ f.ebits = n / 2 ^ (f.prec - 1) := by
    rw [usual.signBit_eq, ← Nat.mul_assoc, Nat.add_mul_div_right _ _ (by positivity), Nat.add_mul_mod_self_right]
    refine Nat.mod_eq_of_lt ?_
    rwa [Nat.div_lt_iff_lt_mul (by positivity), ← usual.signBit_eq]
  unfold unpack
  simp only [whole, sign, low, exponent]

/-- A finite encoding has its sign and its magnitude. -/
theorem FpFmt.Usual.unpack_finite {n : Nat} (finite : n < f.infBits) (neg : Bool) :
    (unpack f (n + b1 neg * f.signBit)).neg = neg ∧
      IsReal (unpack f (n + b1 neg * f.signBit)) ((if neg then -1 else 1) * f.magnitude n) := by
  have small : n < f.signBit := usual.infBits_lt ▸ Nat.lt_add_right _ finite
  have notInf : n / 2 ^ (f.prec - 1) ≠ 2 ^ f.ebits - 1 := by
    refine ne_of_lt ?_
    rwa [Nat.div_lt_iff_lt_mul (by positivity)]
  have parts := Nat.div_add_mod' n (2 ^ (f.prec - 1))
  rw [usual.unpack_signed small, if_neg notInf]
  by_cases sub : n / 2 ^ (f.prec - 1) = 0
  · have all : n % 2 ^ (f.prec - 1) = n := by rw [sub] at parts; omega
    rw [if_pos sub, all]
    by_cases zero : n = 0
    · rw [if_pos zero, zero, f.magnitude_zero]
      exact ⟨rfl, by simp [IsReal]⟩
    · rw [if_neg zero]
      refine ⟨rfl, ?_⟩
      simp [IsReal, FpFmt.magnitude, sub]
  · rw [if_neg sub]
    refine ⟨rfl, ?_⟩
    have hidden : n - (n / 2 ^ (f.prec - 1) - 1) * 2 ^ (f.prec - 1) = n % 2 ^ (f.prec - 1) + 2 ^ (f.prec - 1) := by
      obtain ⟨j, eq⟩ := Nat.exists_eq_succ_of_ne_zero sub
      rw [eq, Nat.succ_mul] at parts
      rw [eq, Nat.succ_sub_one]
      omega
    rw [FpFmt.magnitude, hidden]
    simp only [IsReal]
    push_cast
    ring

theorem FpFmt.Usual.unpack_infinity (neg : Bool) : unpack f (f.infBits + b1 neg * f.signBit) = .inf neg := by
  have pos : 0 < 2 ^ (f.prec - 1) := by positivity
  rw [usual.unpack_signed (by have := usual.infBits_lt; omega), FpFmt.infBits, Nat.mul_div_cancel _ pos, if_pos rfl,
    Nat.mul_mod_left, if_pos rfl]

/-- The largest finite magnitude. -/
theorem FpFmt.Usual.magnitude_maxBits :
    f.magnitude f.maxBits = (2 - (2 : ℝ) ^ (1 - (f.prec : ℤ))) * (2 : ℝ) ^ (f.bias : ℤ) := by
  obtain ⟨b, eq⟩ : ∃ b, f.ebits = b + 2 := ⟨f.ebits - 2, by have := usual.ebits; omega⟩
  obtain ⟨p, prec⟩ : ∃ p, f.prec = p + 1 := ⟨f.prec - 1, by have := usual.prec; omega⟩
  have pos : 0 < 2 ^ p := by positivity
  have pos' : 0 < 2 ^ b := by positivity
  have top : f.maxBits = (2 ^ f.ebits - 3) * 2 ^ (f.prec - 1) + (2 * 2 ^ (f.prec - 1) - 1) := by
    have count : 2 ^ (b + 2) - 1 = 2 ^ (b + 2) - 3 + 2 := by rw [pow_add]; omega
    rw [FpFmt.maxBits, FpFmt.infBits, eq, prec, Nat.add_sub_cancel, count, Nat.add_mul]
    omega
  have exponent : f.emin + ((2 ^ f.ebits - 3 : ℕ) : ℤ) = f.bias := by
    rw [FpFmt.emin, FpFmt.bias, eq, show b + 2 - 1 = b + 1 from rfl, pow_add 2 b 2, pow_succ]
    omega
  rw [top, f.magnitude_binade (by omega) (fun _ => by rw [prec, Nat.add_sub_cancel]; omega), exponent, prec, Nat.add_sub_cancel,
    zpow_sub₀ two_ne_zero, zpow_natCast, Nat.cast_sub (by omega)]
  have : (2 : ℝ) ^ (1 - ((p + 1 : ℕ) : ℤ)) = (2 ^ p)⁻¹ := by
    rw [← zpow_natCast, ← zpow_neg]
    congr 1
    push_cast
    ring
  rw [this]
  push_cast
  rw [zpow_natCast]
  field_simp

theorem FpFmt.Usual.bits_lt {n : Nat} (small : n ≤ f.infBits) (neg : Bool) : n + b1 neg * f.signBit < 2 ^ f.width := by
  have := usual.infBits_lt
  have : 0 < 2 ^ (f.prec - 1) := by positivity
  rw [usual.width_eq]
  cases neg <;> simp [b1] <;> omega

/-! ### Round (R145, R146) -/

/-- The model's one rounding of a real is its Round (R145, R146). -/
theorem FpFmt.Usual.roundFp_isRound {mant : Nat} {exp : Int} {sticky : Bool} {a : ℝ} (r : Rounding) (neg : Bool)
    (h : Stands mant exp sticky a) (bits : sticky = true → f.prec + 31 ≤ Nat.log2 mant) :
    IsRound f r neg a (roundFp f r neg mant exp sticky) := by
  have := usual.prec
  have spacing : max (Int.log 2 a) f.emin - (f.prec : ℤ) + 1 = max (Int.log 2 a) f.emin - (f.prec - 1 : ℕ) := by
    omega
  obtain ⟨rounds, inexact⟩ := roundUnits_roundsTo (q := max (exp + (Nat.log2 mant : ℕ)) f.emin - (f.prec - 1 : ℕ)) r neg h
    fun s => by have := bits s; omega
  rw [← h.log] at rounds
  obtain ⟨most, least⟩ := significand_bounds h.real_pos rounds
  rw [roundFp_eq]
  rw [← h.log] at inexact ⊢
  set top := Int.log 2 a with log
  set e := max top f.emin with exponent
  generalize roundUnits r neg mant exp sticky (e - (f.prec - 1 : ℕ)) = u at *
  obtain ⟨k, inex⟩ := u
  have value : f.magnitude ((e - f.emin).toNat * 2 ^ (f.prec - 1) + k) = (k : ℝ) * 2 ^ (e - (f.prec - 1 : ℕ)) := by
    rw [f.magnitude_binade most (fun _ => least (by omega))]
    congr 2
    omega
  have tiny : top < f.emin ↔ a < (2 : ℝ) ^ f.emin := by
    have := Int.lt_zpow_iff_log_lt (b := 2) (by decide) (x := f.emin) h.real_pos
    rw [log, ← this, Nat.cast_ofNat]
  have infinite : f.infBits = f.maxBits + 1 := by
    have := usual.infBits_pos
    unfold FpFmt.maxBits
    omega
  unfold IsRound
  dsimp only
  rw [← usual.magnitude_maxBits, spacing]
  refine ⟨k, rounds, ?_⟩
  rw [Int.cast_natCast, ← value]
  rw [← value] at inexact
  generalize (e - f.emin).toNat * 2 ^ (f.prec - 1) + k = n at *
  rw [f.magnitude_strictMono.lt_iff_lt, f.magnitude_strictMono.le_iff_le]
  obtain ⟨toInf, toMax⟩ := overflowBits_eq f r neg
  by_cases over_ : f.infBits ≤ n
  · rw [if_pos over_]
    refine ⟨?_, fun _ => ⟨rfl, fun no => ?_, fun yes => ?_⟩, fun fits => absurd fits (by omega)⟩
    · by_cases largest : r.mode = .rtz ∨ (r.mode = .rup ∧ neg = true) ∨ (r.mode = .rdn ∧ neg = false)
      · rw [toMax largest]
        exact usual.bits_lt (by omega) neg
      · rw [toInf largest]
        exact usual.bits_lt le_rfl neg
    · rw [toInf no]
      exact usual.unpack_infinity neg
    · rw [toMax yes]
      exact (usual.unpack_finite (by omega) neg).2
  · obtain ⟨sign, real⟩ := usual.unpack_finite (Nat.lt_of_not_le over_) neg
    rw [if_neg over_]
    refine ⟨usual.bits_lt (by omega) neg, fun beyond => absurd beyond (by omega), fun _ => ⟨sign, real, ?_, ?_, ?_⟩⟩
    · intro same
      have : inex = false := by simpa [same] using inexact
      simp [this]
    · intro differs sub
      have : inex = true := inexact.mpr differs
      simp [this, tiny.mpr sub]
    · intro differs normal
      have : inex = true := inexact.mpr differs
      have above : ¬ top < f.emin := mt tiny.mp (not_lt.mpr normal)
      simp [this, above]

end

/-- Settles O22: the model's one rounding is Round in every format and mode. -/
theorem roundingFollowsItsRule : Obligations.RoundingFollowsItsRule := by
  intro f format r neg mant exp pos
  exact (FpFmt.usual format).roundFp_isRound r neg (stands_exact pos exp) nofun

end Sys2Proof.Machine
end

section
/-!
PROOF. Exact operations on reals, and their one rounding (R147, R159, R162, R168, R170; O23).
-/
namespace Sys2Proof.Machine

/-! ### Values and their reals -/

theorem isReal_negate {x : FpVal} {a : ℝ} (h : IsReal x a) : IsReal x.negate (-a) := by
  cases x with
  | fin n m e =>
    obtain rfl : a = _ := h
    cases n <;> simp [FpVal.negate, IsReal]
  | zero n => simpa [FpVal.negate, IsReal] using h
  | nan _ => exact h.elim
  | inf _ => exact h.elim

theorem isReal_mulVal {x y : FpVal} {a b : ℝ} (hx : IsReal x a) (hy : IsReal y b) : IsReal (mulVal x y) (a * b) := by
  cases x with
  | nan _ => exact hx.elim
  | inf _ => exact hx.elim
  | zero n =>
    obtain rfl : a = 0 := hx
    cases y with
    | nan _ => exact hy.elim
    | inf _ => exact hy.elim
    | _ => exact zero_mul b
  | fin n m e => cases y with
    | nan _ => exact hy.elim
    | inf _ => exact hy.elim
    | zero n' =>
      obtain rfl : b = 0 := hy
      exact mul_zero a
    | fin n' m' e' =>
      obtain rfl : a = _ := hx
      obtain rfl : b = _ := hy
      simp only [mulVal, IsReal, zpow_add₀ (two_ne_zero (α := ℝ))]
      cases n <;> cases n' <;> simp <;> ring

/-- A signed number with an exponent as a value. -/
theorem isReal_scaled (v : Int) (e : Int) :
    IsReal (if v = 0 then .zero false else .fin (decide (v < 0)) v.natAbs e) ((v : ℝ) * 2 ^ e) := by
  split
  case isTrue zero => simp [IsReal, zero]
  case isFalse some_ =>
    have size : ((v.natAbs : ℕ) : ℝ) = |(v : ℝ)| := by rw [Nat.cast_natAbs, Int.cast_abs]
    simp only [IsReal, size]
    rcases lt_or_ge v 0 with neg | nonneg
    · rw [abs_of_neg (by exact_mod_cast neg)]
      simp [neg]
    · rw [abs_of_nonneg (by exact_mod_cast nonneg)]
      simp [not_lt.mpr nonneg]

theorem isReal_intVal (v : Int) : IsReal (intVal v) v := by
  have := isReal_scaled v 0
  rwa [zpow_zero, mul_one] at this

/-- A nonzero real value has a mantissa; its sign and magnitude are those of the value. -/
theorem isReal_ne_zero {x : FpVal} {a : ℝ} (h : IsReal x a) (some_ : a ≠ 0) : ∃ m e, x = .fin (decide (a < 0)) m e ∧ 0 < m ∧
    |a| = m * 2 ^ e := by
  cases x with
  | nan _ => exact h.elim
  | inf _ => exact h.elim
  | zero n => exact absurd h some_
  | fin n m e =>
    obtain rfl : a = _ := h
    have pos : 0 < m := Nat.pos_of_ne_zero fun zero => some_ (by simp [zero])
    have mag : (0 : ℝ) < m * 2 ^ e := by positivity
    refine ⟨m, e, ?_, pos, ?_⟩ <;> cases n <;> simp [abs_of_pos, mag, mag.le]

/-! ### Sums -/

theorem minExp_fin (n : Bool) (m : Nat) (e : Int) (ts : List FpVal) :
    minExp (.fin n m e :: ts) = some ((minExp ts).elim e (min e)) := by
  rw [minExp]
  cases minExp ts <;> rfl

theorem minExp_none {ts : List FpVal} (none_ : minExp ts = none) (n : Bool) (m : Nat) (e : Int) : FpVal.fin n m e ∉ ts := by
  induction ts with
  | nil => simp
  | cons t ts ih =>
    cases t with
    | fin n' m' e' => rw [minExp_fin] at none_; cases none_
    | _ => simpa using ih none_

theorem minExp_le {ts : List FpVal} {q : Int} (least : minExp ts = some q) {n : Bool} {m : Nat} {e : Int}
    (mem : FpVal.fin n m e ∈ ts) : q ≤ e := by
  induction ts generalizing q with
  | nil => cases mem
  | cons t ts ih =>
    cases t with
    | fin n' m' e' =>
      rw [minExp_fin, Option.some_inj] at least
      subst least
      rcases List.mem_cons.mp mem with same | later
      · cases same
        cases minExp ts with
        | none => exact le_rfl
        | some x => exact min_le_left ..
      · cases rest : minExp ts with
        | none =>
          exact absurd later (minExp_none rest n m e)
        | some x => exact (min_le_right ..).trans (ih rest later)
    | _ => exact ih least (by simpa using mem)

theorem inUnits_real {t : FpVal} {v : ℝ} {q : Int} (h : IsReal t v) (fine : ∀ n m e, t = .fin n m e → q ≤ e) :
    (inUnits q t : ℝ) * 2 ^ q = v := by
  cases t with
  | nan _ => exact h.elim
  | inf _ => exact h.elim
  | zero n =>
    obtain rfl : v = 0 := h
    simp [inUnits]
  | fin n m e =>
    obtain rfl : v = _ := h
    have shift : e = ((e - q).toNat : ℤ) + q := by have := fine n m e rfl; omega
    have split_ : (2 : ℝ) ^ e = 2 ^ (e - q).toNat * 2 ^ q := by
      conv_lhs => rw [shift, zpow_add₀ two_ne_zero, zpow_natCast]
    rw [split_]
    cases n <;> simp [inUnits, mul_assoc]

theorem sumUnits_eq_sum (q : Int) (ts : List FpVal) : sumUnits q ts = (ts.map (inUnits q)).sum := by
  rw [sumUnits, List.sum_eq_foldl]

/-- The exact sum in units of the least exponent. -/
theorem sumUnits_real {ts : List FpVal} {vs : List ℝ} {q : Int} (h : List.Forall₂ IsReal ts vs)
    (fine : ∀ n m e, FpVal.fin n m e ∈ ts → q ≤ e) : (sumUnits q ts : ℝ) * 2 ^ q = vs.sum := by
  rw [sumUnits_eq_sum]
  induction h with
  | nil => simp
  | cons first _ ih =>
    rw [List.map_cons, List.sum_cons, List.sum_cons, Int.cast_add, add_mul,
      inUnits_real first fun n m e eq => fine n m e (by simp [eq]), ih fun n m e mem => fine n m e (List.mem_cons_of_mem _ mem)]

theorem sum_eq_zero_of_minExp {ts : List FpVal} {vs : List ℝ} (h : List.Forall₂ IsReal ts vs) (none_ : minExp ts = none) :
    vs.sum = 0 := by
  have plain : ∀ t ∈ ts, inUnits 0 t = 0 := fun t mem => by
    cases t with
    | fin n m e => exact absurd mem (minExp_none none_ n m e)
    | _ => rfl
  rw [← sumUnits_real (q := 0) h fun n m e mem => absurd mem (minExp_none none_ n m e), sumUnits_eq_sum,
    List.map_congr_left plain]
  simp

theorem isReal_of_mem {ts : List FpVal} {vs : List ℝ} (h : List.Forall₂ IsReal ts vs) : ∀ t ∈ ts, ∃ v, IsReal t v := by
  induction h with
  | nil => nofun
  | cons first _ ih => exact List.forall_mem_cons.mpr ⟨⟨_, first⟩, ih⟩

/-- No term that is a real is a NaN or an infinity. -/
theorem sumFp_finite {f : FpFmt} {r : Rounding} {ts : List FpVal} {vs : List ℝ} (h : List.Forall₂ IsReal ts vs) :
    sumFp f r ts = match minExp ts with
      | none => zeroResult f (zeroSign r ts)
      | some q => if sumUnits q ts = 0 then zeroResult f (zeroSign r ts)
        else roundFp f r (decide (sumUnits q ts < 0)) (sumUnits q ts).natAbs q false := by
  have plain := isReal_of_mem h
  have nan : ts.any FpVal.isNan = false := List.any_eq_false.mpr fun t mem => by
    obtain ⟨v, real⟩ := plain t mem
    cases t <;> simp_all [IsReal, FpVal.isNan]
  have inf (n : Bool) : (ts.any fun t => t == .inf n) = false := List.any_eq_false.mpr fun t mem same => by
    obtain ⟨v, real⟩ := plain t mem
    rw [eq_of_beq same] at real
    exact real
  simp only [sumFp, nan, inf]
  rfl

/-- A sum of any number of reals is rounded once (R147). -/
theorem sumFp_real {f : FpFmt} (usual : f.Usual) (r : Rounding) {ts : List FpVal} {vs : List ℝ} (h : List.Forall₂ IsReal ts vs) :
    (vs.sum ≠ 0 → IsRound f r (decide (vs.sum < 0)) |vs.sum| (sumFp f r ts)) ∧
      (vs.sum = 0 → sumFp f r ts = zeroResult f (zeroSign r ts)) := by
  rw [sumFp_finite h]
  cases least : minExp ts with
  | none =>
    have zero := sum_eq_zero_of_minExp h least
    exact ⟨fun some_ => absurd zero some_, fun _ => rfl⟩
  | some q =>
    have units := sumUnits_real h fun n m e => minExp_le least
    have unit : (0 : ℝ) < 2 ^ q := by positivity
    have zero : vs.sum = 0 ↔ sumUnits q ts = 0 := by
      rw [← units, mul_eq_zero, or_iff_left unit.ne', Int.cast_eq_zero]
    dsimp only
    refine ⟨fun some_ => ?_, fun none_ => if_pos (zero.mp none_)⟩
    rw [if_neg (mt zero.mpr some_)]
    have sign : vs.sum < 0 ↔ sumUnits q ts < 0 := by
      rw [← not_le, ← not_le, ← units, mul_nonneg_iff_of_pos_right unit]
      norm_cast
    have size : |vs.sum| = (sumUnits q ts).natAbs * 2 ^ q := by
      rw [← units, abs_mul, abs_of_pos unit, Nat.cast_natAbs, Int.cast_abs]
    simp only [sign, size]
    exact usual.roundFp_isRound r _ (stands_exact (Int.natAbs_pos.mpr (mt zero.mpr some_)) q) nofun

/-! ### One value -/

theorem roundVal_real {f : FpFmt} (usual : f.Usual) (r : Rounding) {x : FpVal} {a : ℝ} (h : IsReal x a) (some_ : a ≠ 0) :
    IsRound f r (decide (a < 0)) |a| (roundVal f r x) := by
  obtain ⟨m, e, rfl, pos, size⟩ := isReal_ne_zero h some_
  rw [size]
  exact usual.roundFp_isRound r _ (stands_exact pos e) nofun

/-! ### Quotients and roots -/

/-- A real's whole part with its remainder as a sticky bit. -/
theorem stands_floor {u : ℝ} (least : 1 ≤ u) (exp : Int) {sticky : Bool} (more : sticky = true ↔ u ≠ ⌊u⌋₊) :
    Stands ⌊u⌋₊ exp sticky (u * 2 ^ exp) := by
  have unit : (0 : ℝ) < 2 ^ exp := by positivity
  exact {
    pos := Nat.floor_pos.mpr least
    lower := mul_le_mul_of_nonneg_right (Nat.floor_le (by linarith)) unit.le
    upper := mul_lt_mul_of_pos_right (Nat.lt_floor_add_one u) unit
    more := by rw [more, ne_eq, ne_eq, mul_left_inj' unit.ne'] }

theorem isqrtFrom_eq {x n r : Nat} (least : r * r ≤ x) (most : x < (r + 2 ^ (n + 1)) * (r + 2 ^ (n + 1))) :
    isqrtFrom x n r = Nat.sqrt x := by
  induction n generalizing r with
  | zero =>
    rw [isqrtFrom, Nat.eq_sqrt]
    split
    · exact ⟨by assumption, most⟩
    · exact ⟨least, by omega⟩
  | succ n ih =>
    rw [isqrtFrom]
    split
    case isTrue fits =>
      refine ih fits ?_
      rwa [Nat.add_assoc, ← Nat.two_mul, ← Nat.pow_succ']
    case isFalse beyond => exact ih least (Nat.lt_of_not_le beyond)

theorem isqrt_eq_sqrt (x : Nat) : isqrt x = Nat.sqrt x := by
  refine isqrtFrom_eq (Nat.zero_le _) ?_
  rw [Nat.zero_add, ← pow_add]
  refine Nat.lt_log2_self.trans_le (Nat.pow_le_pow_right (by decide) ?_)
  omega

/-- The rounding of a real from its whole part and a sticky bit, with bits enough below the significand. -/
theorem FpFmt.Usual.roundFp_floor {f : FpFmt} (usual : f.Usual) (r : Rounding) (neg : Bool) {u : ℝ} {m : Nat} (exp : Int)
    {sticky : Bool} (floor : ⌊u⌋₊ = m) (enough : 2 ^ (f.prec + 31) ≤ m) (more : sticky = true ↔ u ≠ m) :
    IsRound f r neg (u * 2 ^ exp) (roundFp f r neg m exp sticky) := by
  have pos : 0 < m := lt_of_lt_of_le (by positivity) enough
  subst floor
  exact usual.roundFp_isRound r neg (stands_floor (Nat.floor_pos.mp pos) exp more) fun _ => (Nat.le_log2 pos.ne').mpr enough

theorem decide_neg_div {a b : ℝ} (ha : a ≠ 0) (hb : b ≠ 0) : decide (a / b < 0) = (decide (a < 0) ^^ decide (b < 0)) := by
  rcases ha.lt_or_gt with na | pa <;> rcases hb.lt_or_gt with nb | pb <;> simp [div_neg_iff, *, not_lt.mpr (le_of_lt _)]

/-- A quotient of numbers is its whole part when nothing remains. -/
theorem remainder_iff {n d : Nat} (pos : 0 < d) : (n % d != 0) = true ↔ (n : ℝ) / (d : ℝ) ≠ (n / d : ℕ) := by
  rw [bne_iff_ne, ne_eq, ne_eq, not_iff_not, ← Nat.dvd_iff_mod_eq_zero]
  constructor
  · exact fun divides => (Nat.cast_div divides (by exact_mod_cast pos.ne')).symm
  · intro eq
    rw [div_eq_iff (by exact_mod_cast pos.ne')] at eq
    exact ⟨n / d, by rw [Nat.mul_comm]; exact_mod_cast eq⟩

theorem divFp_real {f : FpFmt} (usual : f.Usual) (r : Rounding) {x y : FpVal} {a b : ℝ} (hx : IsReal x a) (hy : IsReal y b)
    (ha : a ≠ 0) (hb : b ≠ 0) : IsRound f r (decide (a / b < 0)) |a / b| (divFp f r x y) := by
  obtain ⟨m, e, rfl, pos, size⟩ := isReal_ne_zero hx ha
  obtain ⟨m', e', rfl, pos', size'⟩ := isReal_ne_zero hy hb
  set k := f.prec + 40 + Nat.log2 m' with bits
  have enough : 2 ^ (f.prec + 31) ≤ m * 2 ^ k / m' := by
    rw [Nat.le_div_iff_mul_le pos']
    have small : m' ≤ 2 ^ (Nat.log2 m' + 1) := Nat.lt_log2_self.le
    calc 2 ^ (f.prec + 31) * m' ≤ 2 ^ (f.prec + 31) * 2 ^ (Nat.log2 m' + 1) := Nat.mul_le_mul_left _ small
      _ ≤ 2 ^ k := by rw [← pow_add]; exact Nat.pow_le_pow_right (by decide) (by omega)
      _ ≤ m * 2 ^ k := Nat.le_mul_of_pos_left _ pos
  have value : |a / b| = ((m * 2 ^ k : ℕ) : ℝ) / (m' : ℕ) * 2 ^ (e - e' - (k : ℤ)) := by
    rw [abs_div, size, size', zpow_sub₀ two_ne_zero, zpow_sub₀ two_ne_zero, zpow_natCast]
    push_cast
    field_simp
  rw [decide_neg_div ha hb, value]
  exact usual.roundFp_floor r _ _ (Nat.floor_div_eq_div ..) enough (remainder_iff pos')

/-- The whole part of the root of a number is the root when its square is the number. -/
theorem square_iff (x : Nat) : (Nat.sqrt x * Nat.sqrt x != x) = true ↔ Real.sqrt x ≠ (Nat.sqrt x : ℕ) := by
  rw [bne_iff_ne, ne_eq, ne_eq, not_iff_not, Real.sqrt_eq_iff_mul_self_eq (Nat.cast_nonneg _) (Nat.cast_nonneg _),
    eq_comm]
  norm_cast

/-- An exponent as an even part and a bit. -/
theorem even_part (e : Int) : e = 2 * ((e - b1 (e % 2 != 0)) / 2) + b1 (e % 2 != 0) := by
  have : e % 2 = 0 ∨ e % 2 = 1 := by omega
  rcases this with even | odd
  · simp only [even, b1]
    simp
    omega
  · simp only [odd, b1]
    simp
    omega

theorem sqrtFp_real {f : FpFmt} (usual : f.Usual) (r : Rounding) {x : FpVal} {a : ℝ} (h : IsReal x a) (pos : 0 < a) :
    IsRound f r false (Real.sqrt a) (sqrtFp f r x) := by
  obtain ⟨m, e, rfl, posm, size⟩ := isReal_ne_zero h pos.ne'
  rw [abs_of_pos pos] at size
  have sign : decide (a < 0) = false := by simp [pos.le]
  set k := f.prec + 40 with bits
  have enough : 2 ^ (f.prec + 31) ≤ Nat.sqrt (m * 2 ^ (2 * k + b1 (e % 2 != 0))) := by
    rw [Nat.le_sqrt, ← pow_add]
    calc 2 ^ (f.prec + 31 + (f.prec + 31)) ≤ 2 ^ (2 * k + b1 (e % 2 != 0)) := Nat.pow_le_pow_right (by decide) (by omega)
      _ ≤ _ := Nat.le_mul_of_pos_left _ posm
  have value : Real.sqrt a = Real.sqrt ((m * 2 ^ (2 * k + b1 (e % 2 != 0)) : ℕ) : ℝ) *
      2 ^ ((e - b1 (e % 2 != 0)) / 2 - (k : ℤ)) := by
    have even := even_part e
    generalize b1 (e % 2 != 0) = b at *
    rw [size, Real.sqrt_eq_iff_mul_self_eq (by positivity) (by positivity), mul_mul_mul_comm,
      Real.mul_self_sqrt (by positivity), ← zpow_add₀ two_ne_zero]
    push_cast
    rw [mul_assoc, ← zpow_natCast, ← zpow_add₀ two_ne_zero]
    congr 2
    push_cast
    omega
  rw [sign, value]
  have root := usual.roundFp_floor r false ((e - b1 (e % 2 != 0)) / 2 - (k : ℤ)) Real.nat_floor_real_sqrt_eq_nat_sqrt enough
    (square_iff _)
  rw [← isqrt_eq_sqrt] at root
  exact root

/-! ### Zeros (R147) -/

/-- Two reals that cancel give the zero of R147. -/
theorem zeroSign_pair (r : Rounding) (p q : FpVal) : zeroSign r [p, q] =
    decide ((p = .zero true ∧ q = .zero true) ∨ (r.mode = .rdn ∧ ¬ (p = .zero false ∧ q = .zero false))) := by
  unfold zeroSign
  by_cases negative : p = .zero true ∧ q = .zero true
  · simp [negative]
  · by_cases positive : p = .zero false ∧ q = .zero false
    · simp [positive]
    · have : ([p, q].all fun t => t == .zero true) = false := by simpa using negative
      have : ([p, q].all fun t => t == .zero false) = false := by simpa using positive
      simp [*, beq_eq_decide]

theorem zeroResult_eq (f : FpFmt) (neg : Bool) : zeroResult f neg = ⟨if neg then f.signBit else 0, 0⟩ := by
  cases neg <;> simp [zeroResult, FpResult.clean, b1]

/-- A value that is the real 0 and has no mantissa of 0 is a zero. -/
theorem eq_zero_of_isReal {p : FpVal} (h : IsReal p 0) (mant : ∀ n k e, p = .fin n k e → k ≠ 0) : p = .zero p.neg := by
  cases p with
  | nan _ => exact h.elim
  | inf _ => exact h.elim
  | zero n => rfl
  | fin n m e =>
    have some_ := mant n m e rfl
    have unit : (2 : ℝ) ^ e ≠ 0 := by positivity
    have : (0 : ℝ) = (if n then -1 else 1) * m * 2 ^ e := h
    cases n <;> simp [some_, unit] at this

theorem mulVal_zero {q : FpVal} {b : ℝ} (h : IsReal q b) (n : Bool) :
    mulVal (.zero n) q = .zero (n ^^ q.neg) ∧ mulVal q (.zero n) = .zero (q.neg ^^ n) := by
  cases q with
  | nan _ => exact h.elim
  | inf _ => exact h.elim
  | zero _ => exact ⟨rfl, rfl⟩
  | fin _ _ _ => exact ⟨rfl, congrArg FpVal.zero (Bool.xor_comm ..)⟩

/-- Settles O23: exact results rounded once, and the zeros. -/
theorem arithmeticRoundsTheExactResult : Obligations.ArithmeticRoundsTheExactResult := by
  intro f format r x y z a b c hx hy hz sum
  have usual := FpFmt.usual format
  have pair {p q : FpVal} {v w : ℝ} (hp : IsReal p v) (hq : IsReal q w) : sum (v + w) (sumFp f r [p, q]) := fun some_ => by
    have total : [v, w].sum = v + w := by simp
    have := (sumFp_real usual r (List.Forall₂.cons hp (.cons hq .nil))).1 (by rwa [total])
    rw [total] at this
    exact ⟨_, decide_eq_true_iff, this⟩
  have one {p : FpVal} {v : ℝ} (hp : IsReal p v) : sum v (roundVal f r p) := fun some_ =>
    ⟨_, decide_eq_true_iff, roundVal_real usual r hp some_⟩
  have product := isReal_mulVal hx hy
  refine ⟨pair hx hy, ?_, one product, pair product hz, ?_, ?_, fun nonzero some_ => ?_, sqrtFp_real usual r hx, one hx,
    fun v some_ => ?_, fun p q hp hq none_ mp mq => ?_, fun p q hp hq => ?_⟩
  · rw [sub_eq_add_neg]
    exact pair hx (isReal_negate hy)
  · rw [sub_eq_add_neg]
    exact pair product (isReal_negate hz)
  · rw [sub_eq_neg_add]
    exact pair (isReal_negate product) hz
  · have ha : a ≠ 0 := fun zero => some_ (by simp [zero])
    exact ⟨_, decide_eq_true_iff, divFp_real usual r hx hy ha nonzero⟩
  · have := roundVal_real usual r (isReal_intVal v) (by exact_mod_cast some_)
    rw [← Int.cast_abs, Int.abs_eq_natAbs, Int.cast_natCast] at this
    simpa using this
  · intro zero
    have mul : mulVal p q = .zero (p.neg ^^ q.neg) := by
      rcases none_ with rfl | rfl
      · rw [eq_zero_of_isReal hp mp]
        exact (mulVal_zero hq _).1
      · rw [eq_zero_of_isReal hq mq]
        exact (mulVal_zero hp _).2
    refine ⟨by rw [mul]; exact zeroResult_eq .., fun nonzero => ?_⟩
    obtain ⟨m, e, eq, _⟩ := isReal_ne_zero hq nonzero
    obtain rfl := none_.resolve_right nonzero
    have div : divFp f r p q = zeroResult f (p.neg ^^ q.neg) := by
      rw [eq_zero_of_isReal hp mp, eq]
      rfl
    rw [div]
    exact zeroResult_eq ..
  · have total : [a, -a].sum = 0 := by simp
    rw [(sumFp_real usual r (List.Forall₂.cons hp (.cons hq .nil))).2 total, zeroResult_eq, zeroSign_pair]
    simp only [decide_eq_true_eq]

end Sys2Proof.Machine
end

section
/-!
PROOF. NaNs, infinities and zero divisors (R143, R149; O24).
-/
namespace Sys2Proof.Machine

theorem nanResult_eq (f : FpFmt) (inv : Bool) :
    nanResult f inv = if inv then ⟨f.nanBits, flagNV⟩ else ⟨f.nanBits, 0⟩ := by
  cases inv <;> rfl

theorem infResult_eq (f : FpFmt) (neg : Bool) : infResult f neg = ⟨f.infBits + (if neg then f.signBit else 0), 0⟩ := by
  cases neg <;> simp [infResult, FpResult.clean, b1]

section
variable {f : FpFmt} {r : Rounding} {ts : List FpVal}

theorem any_isSnan (ts : List FpVal) : ts.any FpVal.isSnan = true ↔ .nan true ∈ ts := by
  refine List.any_eq_true.trans ⟨fun ⟨t, mem, is⟩ => ?_, fun mem => ⟨_, mem, rfl⟩⟩
  cases t with
  | nan s => exact (show s = true from is) ▸ mem
  | _ => cases is

theorem any_isNan (ts : List FpVal) : ts.any FpVal.isNan = true ↔ ∃ s, .nan s ∈ ts := by
  refine List.any_eq_true.trans ⟨fun ⟨t, mem, is⟩ => ?_, fun ⟨s, mem⟩ => ⟨_, mem, rfl⟩⟩
  cases t with
  | nan s => exact ⟨s, mem⟩
  | _ => cases is

theorem any_inf (ts : List FpVal) (n : Bool) : (ts.any fun t => t == .inf n) = true ↔ .inf n ∈ ts := by
  simp

/-- A sum with a NaN, which may be signalling or stand beside opposed infinities. -/
theorem sumFp_of_nan (nan : ∃ s, .nan s ∈ ts) : sumFp f r ts =
    nanResult f (ts.any FpVal.isSnan || ((ts.any fun t => t == .inf false) && ts.any fun t => t == .inf true)) :=
  if_pos ((any_isNan ts).mpr nan)

theorem sumFp_of_quiet (nan : .nan false ∈ ts) (quiet : .nan true ∉ ts) (same : ¬ (.inf false ∈ ts ∧ .inf true ∈ ts)) :
    sumFp f r ts = nanResult f false := by
  rw [sumFp_of_nan ⟨_, nan⟩]
  congr 1
  rw [← Bool.not_eq_true, Bool.or_eq_true, Bool.and_eq_true, any_isSnan, any_inf, any_inf]
  exact fun or => or.elim quiet same

theorem sumFp_of_signalling (nan : .nan true ∈ ts) : sumFp f r ts = nanResult f true := by
  rw [sumFp_of_nan ⟨_, nan⟩, (any_isSnan ts).mpr nan, Bool.true_or]

theorem sumFp_of_opposed (pos : .inf false ∈ ts) (neg : .inf true ∈ ts) : sumFp f r ts = nanResult f true := by
  have both : ((ts.any fun t => t == .inf false) && ts.any fun t => t == .inf true) = true := by
    rw [(any_inf ts false).mpr pos, (any_inf ts true).mpr neg, Bool.and_self]
  by_cases nan : ∃ s, .nan s ∈ ts
  · rw [sumFp_of_nan nan, both, Bool.or_true]
  · unfold sumFp
    rw [if_neg (mt (any_isNan ts).mp nan)]
    exact if_pos both

theorem sumFp_of_inf {n : Bool} (nan : ∀ s, .nan s ∉ ts) (mem : .inf n ∈ ts) (other : .inf (!n) ∉ ts) :
    sumFp f r ts = infResult f n := by
  have here := (any_inf ts n).mpr mem
  have there : (ts.any fun t => t == .inf !n) = false := by
    rw [← Bool.not_eq_true, any_inf]
    exact other
  unfold sumFp
  dsimp only
  rw [if_neg (mt (any_isNan ts).mp fun ⟨s, mem⟩ => nan s mem)]
  cases n <;> simp only [Bool.not_true, Bool.not_false] at there <;> rw [here, there] <;> rfl

end

/-- A sum of two terms one of which is a NaN. -/
theorem sumFp_nan (f : FpFmt) (r : Rounding) (s : Bool) (y : FpVal) :
    sumFp f r [.nan s, y] = nanResult f (s || y.isSnan) ∧ sumFp f r [y, .nan s] = nanResult f (s || y.isSnan) := by
  by_cases signalling : s = true ∨ y = .nan true
  · have : (s || y.isSnan) = true := by rcases signalling with rfl | rfl <;> simp [FpVal.isSnan]
    rw [this]
    rcases signalling with rfl | rfl <;> exact ⟨sumFp_of_signalling (by simp), sumFp_of_signalling (by simp)⟩
  · obtain ⟨quiet, other⟩ := not_or.mp signalling
    obtain rfl := Bool.not_eq_true _ ▸ quiet
    have : y.isSnan = false := by
      cases y with
      | nan s => cases s <;> simp_all [FpVal.isSnan]
      | _ => rfl
    have one : ¬ (FpVal.inf false = y ∧ FpVal.inf true = y) := fun ⟨pos, neg⟩ => nomatch pos.trans neg.symm
    rw [this]
    exact ⟨sumFp_of_quiet (by simp) (by simpa [eq_comm] using other) (by simpa using one),
      sumFp_of_quiet (by simp) (by simpa [eq_comm] using other) (by simpa using one)⟩

theorem mulVal_nan (s : Bool) (y : FpVal) :
    mulVal (.nan s) y = .nan (s || y.isSnan) ∧ mulVal y (.nan s) = .nan (s || y.isSnan) := by
  cases y <;> simp [mulVal, FpVal.isSnan, Bool.or_comm]

theorem divFp_nan (f : FpFmt) (r : Rounding) (s : Bool) (y : FpVal) :
    divFp f r (.nan s) y = nanResult f (s || y.isSnan) ∧ divFp f r y (.nan s) = nanResult f (s || y.isSnan) := by
  cases y <;> simp [divFp, FpVal.isSnan, Bool.or_comm]

/-- Settles O24: each combination of special operands. -/
theorem specialOperandsOfFp : Obligations.SpecialOperandsOfFp := by
  intro f format r x y n m s k e invalid quiet inf fin
  have zero (a b : Bool) : zeroResult f (a ^^ b) = ⟨if b ^^ a then f.signBit else 0, 0⟩ := by
    rw [Bool.xor_comm, zeroResult_eq]
  refine ⟨fun q which => ?nan, nanResult_eq .., nanResult_eq .., ?opposed, rfl, rfl, (sumFp_nan ..).1, rfl, rfl, rfl, rfl,
    ?divZero, ?infFirst, ?infLast, infResult_eq .., infResult_eq .., ⟨zeroResult_eq .., zero .., zero .., zero ..⟩,
    zeroResult_eq .., zeroResult_eq .., infResult_eq ..⟩
  case nan =>
    rcases which with ⟨rfl, rfl⟩ | ⟨rfl, rfl⟩
    · rw [(sumFp_nan ..).1, (mulVal_nan ..).1, (divFp_nan ..).1]
      exact ⟨nanResult_eq .., nanResult_eq .., nanResult_eq ..⟩
    · rw [(sumFp_nan ..).2, (mulVal_nan ..).2, (divFp_nan ..).2]
      exact ⟨nanResult_eq .., nanResult_eq .., nanResult_eq ..⟩
  case opposed => cases n <;> exact sumFp_of_opposed (by simp) (by simp)
  case divZero => exact congrArg (fun res : FpResult => (⟨res.bits, flagDZ⟩ : FpResult)) (infResult_eq ..)
  case infFirst => exact (sumFp_of_inf (n := m) (by simp [fin]) (by simp) (by simp [fin])).trans (infResult_eq ..)
  case infLast => exact (sumFp_of_inf (n := m) (by simp [fin]) (by simp) (by simp [fin])).trans (infResult_eq ..)

end Sys2Proof.Machine
end

section
/-!
PROOF. Rounding to an integer and conversions to integers (R165, R169; O27).
-/
namespace Sys2Proof.Machine

/-! ### What an encoding gives -/

theorem isReal_unique {x : FpVal} {a b : ℝ} (ha : IsReal x a) (hb : IsReal x b) : a = b := by
  cases x with
  | nan _ => exact ha.elim
  | inf _ => exact ha.elim
  | zero n => exact Eq.trans ha (Eq.symm hb)
  | fin n m e => exact Eq.trans ha (Eq.symm hb)

theorem unpack_mod (f : FpFmt) (v : Nat) : unpack f (v % 2 ^ f.width) = unpack f v := by
  unfold unpack
  rw [Nat.mod_mod]

section
variable {f : FpFmt} (usual : f.Usual)
include usual

/-- The low bits of a number as a sign and the bits below it. -/
theorem FpFmt.Usual.signed (v : Nat) : ∃ n neg, n < f.signBit ∧ v % 2 ^ f.width = n + b1 neg * f.signBit := by
  have pos : 0 < f.signBit := by unfold FpFmt.signBit; positivity
  have low := Nat.mod_lt v (show 0 < 2 ^ f.width by positivity)
  rw [usual.width_eq] at low ⊢
  by_cases neg : v % (2 * f.signBit) < f.signBit
  · exact ⟨_, false, neg, by simp [b1]⟩
  · exact ⟨v % (2 * f.signBit) - f.signBit, true, by omega, by simp [b1]; omega⟩

/-- The encoding of a value that is no NaN and no infinity. -/
theorem FpFmt.Usual.unpack_real {v : Nat} {a : ℝ} (h : IsReal (unpack f v) a) : ∃ n, n < f.infBits ∧
    v % 2 ^ f.width = n + b1 (unpack f v).neg * f.signBit ∧ a = (if (unpack f v).neg then -1 else 1) * f.magnitude n := by
  obtain ⟨n, neg, small, low⟩ := usual.signed v
  have pos : 0 < 2 ^ (f.prec - 1) := by positivity
  have value : unpack f v = unpack f (n + b1 neg * f.signBit) := by rw [← low, unpack_mod]
  by_cases finite : n < f.infBits
  · obtain ⟨sign, real⟩ := usual.unpack_finite finite neg
    rw [value, sign]
    exact ⟨n, finite, low, isReal_unique h (value ▸ real)⟩
  · exfalso
    have top : n / 2 ^ (f.prec - 1) = 2 ^ f.ebits - 1 := by
      apply le_antisymm
      · have : n / 2 ^ (f.prec - 1) < 2 ^ f.ebits := by rwa [Nat.div_lt_iff_lt_mul pos, ← usual.signBit_eq]
        omega
      · exact (Nat.le_div_iff_mul_le pos).mpr (Nat.le_of_not_lt finite)
    rw [value, usual.unpack_signed small, if_pos top] at h
    split at h <;> exact h

/-- The significand of a finite encoding, and the exponent of its last bit. -/
theorem FpFmt.Usual.unpack_fin {v : Nat} {n : Bool} {m : Nat} {e : Int} (h : unpack f v = .fin n m e) :
    0 < m ∧ m < 2 ^ f.prec ∧ f.emin - (f.prec - 1 : ℕ) ≤ e := by
  have pos : 0 < 2 ^ (f.prec - 1) := by positivity
  have double : 2 ^ f.prec = 2 * 2 ^ (f.prec - 1) := by
    rw [← pow_succ', Nat.sub_add_cancel (by have := usual.prec; omega)]
  unfold unpack at h
  dsimp only at h
  have rest := Nat.mod_lt (v % 2 ^ f.width) pos
  split at h
  · split at h <;> cases h
  · split at h
    · split at h
      · cases h
      · cases h
        omega
    · cases h
      omega

/-- The magnitude of a finite encoding. -/
theorem FpFmt.Usual.unpack_fin_magnitude {v : Nat} {n : Bool} {m : Nat} {e : Int} (h : unpack f v = .fin n m e) :
    ∃ k, k < f.infBits ∧ v % 2 ^ f.width = k + b1 n * f.signBit ∧ (m : ℝ) * 2 ^ e = f.magnitude k := by
  have real : IsReal (unpack f v) ((if n then -1 else 1) * m * 2 ^ e) := by rw [h]; rfl
  obtain ⟨k, finite, low, eq⟩ := usual.unpack_real real
  rw [h] at low eq
  refine ⟨k, finite, low, ?_⟩
  cases n <;> simpa [FpVal.neg] using eq

theorem FpFmt.Usual.largest_ge : (2 : ℝ) ^ (f.prec - 1) ≤ f.magnitude f.maxBits := by
  have half : (2 : ℝ) ^ (1 - (f.prec : ℤ)) ≤ 2 ^ (0 : ℤ) := zpow_le_zpow_right₀ one_le_two (by have := usual.prec; omega)
  have range : (2 : ℝ) ^ (f.prec - 1) ≤ 2 ^ f.bias := pow_le_pow_right₀ one_le_two (by have := usual.range; omega)
  rw [usual.magnitude_maxBits, zpow_natCast]
  rw [zpow_zero] at half
  have : (0 : ℝ) < 2 ^ f.bias := by positivity
  nlinarith

/-- A real that the format has is its own rounding. -/
theorem FpFmt.Usual.isRound_exact {r : Rounding} {neg : Bool} {m : Nat} {x : Int} {res : FpResult} (pos : 0 < m)
    (most : m < 2 ^ f.prec) (least : f.emin - (f.prec - 1 : ℕ) ≤ x) (fits : (m : ℝ) * 2 ^ x ≤ f.magnitude f.maxBits)
    (h : IsRound f r neg (m * 2 ^ x) res) : res.bits < 2 ^ f.width ∧ res.flags = 0 ∧ (unpack f res.bits).neg = neg ∧
      IsReal (unpack f res.bits) ((if neg then -1 else 1) * (m * 2 ^ x)) := by
  obtain ⟨k, rounds, bits, _, finite⟩ := h
  have log := (stands_exact pos x).log
  have small := (Nat.log2_lt pos.ne').mpr most
  have prec := usual.prec
  obtain ⟨d, gap⟩ : ∃ d : ℕ, x = max (Int.log 2 ((m : ℝ) * 2 ^ x)) f.emin - f.prec + 1 + d := by
    rw [log]
    exact ⟨(x - (max (x + (Nat.log2 m : ℕ)) f.emin - f.prec + 1)).toNat, by omega⟩
  have unit : (0 : ℝ) < 2 ^ (max (Int.log 2 ((m : ℝ) * 2 ^ x)) f.emin - f.prec + 1) := by positivity
  have units : ((m : ℝ) * 2 ^ x) / 2 ^ (max (Int.log 2 ((m : ℝ) * 2 ^ x)) f.emin - f.prec + 1) = ((m * 2 ^ d : ℕ) : ℤ) := by
    rw [div_eq_iff unit.ne', Int.cast_natCast]
    conv_lhs => rw [gap, zpow_add₀ two_ne_zero, zpow_natCast]
    push_cast
    ring
  rw [units, roundsTo_intCast] at rounds
  rw [rounds, ← units, div_mul_cancel₀ _ unit.ne'] at finite
  obtain ⟨sign, real, clean, _⟩ := finite (usual.magnitude_maxBits ▸ fits)
  exact ⟨bits, clean rfl, sign, real⟩

end

/-! ### Rounding to an integer (R165, R169) -/

section
variable {f : FpFmt} (usual : f.Usual)
include usual

/-- The rounding of a finite value to an integer has an encoding of its own (R165). -/
theorem FpFmt.Usual.integral_exact (r : Rounding) {v : Nat} {n : Bool} {m : Nat} {e : Int} (h : unpack f v = .fin n m e)
    {u : Nat} (pos : 0 < u) (rounds : RoundsTo r n ((m : ℝ) * 2 ^ e) u) :
    (roundFp f r n u 0 false).bits < 2 ^ f.width ∧ (unpack f (roundFp f r n u 0 false).bits).neg = n ∧
      IsReal (unpack f (roundFp f r n u 0 false).bits) ((if n then -1 else 1) * u) := by
  obtain ⟨posm, most, least⟩ := usual.unpack_fin h
  have round := usual.roundFp_isRound r n (stands_exact pos 0) nofun
  by_cases whole : 0 ≤ e
  · have same : (u : ℝ) * 2 ^ (0 : ℤ) = m * 2 ^ e := by
      have units : ((m : ℝ) * 2 ^ e) = ((m * 2 ^ e.toNat : ℕ) : ℤ) := by
        conv_lhs => rw [← Int.toNat_of_nonneg whole, zpow_natCast]
        push_cast
        rfl
      rw [units, roundsTo_intCast, Nat.cast_inj] at rounds
      rw [units, rounds]
      push_cast
      ring
    have fits : (m : ℝ) * 2 ^ e ≤ f.magnitude f.maxBits := by
      obtain ⟨k, finite, _, eq⟩ := usual.unpack_fin_magnitude h
      rw [eq, f.magnitude_strictMono.le_iff_le]
      exact Nat.le_sub_one_of_lt finite
    rw [same] at round
    obtain ⟨bits, _, sign, real⟩ := usual.isRound_exact posm most least fits round
    rw [← same, zpow_zero, mul_one] at real
    exact ⟨bits, sign, real⟩
  · have small : u ≤ 2 ^ (f.prec - 1) := by
      have half : (2 : ℝ) ^ e ≤ 2 ^ (-1 : ℤ) := zpow_le_zpow_right₀ one_le_two (by omega)
      have double : (m : ℝ) ≤ 2 * 2 ^ (f.prec - 1) := by
        rw [← pow_succ', Nat.sub_add_cancel (by have := usual.prec; omega)]
        exact_mod_cast most.le
      have := roundsTo_le rounds (m := ((2 ^ (f.prec - 1) : ℕ) : ℤ)) (by
        push_cast
        calc (m : ℝ) * 2 ^ e ≤ (2 * 2 ^ (f.prec - 1)) * 2 ^ (-1 : ℤ) := by gcongr
          _ = 2 ^ (f.prec - 1) := by rw [zpow_neg_one]; ring)
      exact_mod_cast this
    have fits : (u : ℝ) * 2 ^ (0 : ℤ) ≤ f.magnitude f.maxBits := by
      rw [zpow_zero, mul_one]
      exact le_trans (by exact_mod_cast small) usual.largest_ge
    have below : 2 ^ (f.prec - 1) < 2 ^ f.prec := Nat.pow_lt_pow_right (by decide) (by have := usual.prec; omega)
    obtain ⟨bits, _, sign, real⟩ := usual.isRound_exact pos (by omega) (by have := usual.range; have := usual.prec; unfold FpFmt.emin; omega) fits round
    rw [zpow_zero, mul_one] at real
    exact ⟨bits, sign, real⟩

/-- FRND of a finite value, with the integer it rounds to (R165). -/
theorem FpFmt.Usual.integralFp_fin (r : Rounding) {v : Nat} {n : Bool} {m : Nat} {e : Int} (h : unpack f v = .fin n m e) :
    let u := roundUnits r n m e false 0
    (integralFp f r v).bits < 2 ^ f.width ∧ (unpack f (integralFp f r v).bits).neg = n ∧
      IsReal (unpack f (integralFp f r v).bits) ((if n then -1 else 1) * u.1) ∧
      (integralFp f r v).flags = if u.2 then flagNX else 0 := by
  obtain ⟨posm, most, least⟩ := usual.unpack_fin h
  obtain ⟨rounds, _⟩ := roundUnits_roundsTo (q := 0) r n (stands_exact posm e) nofun
  rw [zpow_zero, div_one] at rounds
  have eq : integralFp f r v = (let u := roundUnits r n m e false 0
      if u.1 = 0 then ⟨(zeroResult f n).bits, if u.2 then flagNX else 0⟩
      else ⟨(roundFp f r n u.1 0 false).bits, if u.2 then flagNX else 0⟩) := by
    unfold integralFp
    rw [h]
  rw [eq]
  generalize roundUnits r n m e false 0 = u at *
  dsimp only
  by_cases zero : u.1 = 0
  · have none_ : 0 < f.infBits := by
      have := usual.infBits_pos
      omega
    obtain ⟨sign, real⟩ := usual.unpack_finite none_ n
    have bits := usual.bits_lt (Nat.zero_le _) n
    rw [Nat.zero_add] at sign real bits
    rw [if_pos zero, zero]
    rw [f.magnitude_zero, ← Nat.cast_zero] at real
    exact ⟨bits, sign, real, rfl⟩
  · rw [if_neg zero]
    obtain ⟨bits, sign, real⟩ := usual.integral_exact r h (Nat.pos_of_ne_zero zero) rounds
    exact ⟨bits, sign, real, rfl⟩

theorem FpFmt.Usual.unpack_inf {v : Nat} {n : Bool} (h : unpack f v = .inf n) :
    v % 2 ^ f.width = f.infBits + b1 n * f.signBit := by
  obtain ⟨k, neg, small, low⟩ := usual.signed v
  have parts := Nat.div_add_mod' k (2 ^ (f.prec - 1))
  rw [← unpack_mod, low, usual.unpack_signed small] at h
  split at h
  case isTrue top =>
    split at h
    case isTrue whole =>
      cases h
      rw [low, ← parts, whole, top]
      rfl
    case isFalse => cases h
  case isFalse => split at h <;> first | cases h | (split at h <;> cases h)

theorem FpFmt.Usual.unpack_zero {v : Nat} {n : Bool} (h : unpack f v = .zero n) :
    v % 2 ^ f.width = b1 n * f.signBit := by
  have real : IsReal (unpack f v) 0 := by rw [h]; rfl
  obtain ⟨k, _, low, eq⟩ := usual.unpack_real real
  have none_ : f.magnitude k = f.magnitude 0 := by
    rw [f.magnitude_zero]
    rcases mul_eq_zero.mp eq.symm with sign | none_
    · split at sign <;> norm_num at sign
    · exact none_
  rw [low, h, f.magnitude_strictMono.injective none_, Nat.zero_add]
  rfl

/-- The bits of an infinity or a zero are what FRND returns for it. -/
theorem FpFmt.Usual.integralFp_special (r : Rounding) {v : Nat} {n : Bool} (h : unpack f v = .inf n ∨ unpack f v = .zero n) :
    integralFp f r v = ⟨v % 2 ^ f.width, 0⟩ := by
  unfold integralFp
  rcases h with inf | zero
  · rw [inf, usual.unpack_inf inf]
    rfl
  · rw [zero, usual.unpack_zero zero]
    rfl

end

/-- A conversion to an integer kind: the rounded integer, or the limit it passes (R169). -/
theorem saturate_eq (kind : IntKind) (r : Rounding) (n : Bool) (m : Nat) (e : Int) :
    let u := roundUnits r n m e false 0
    let v : Int := (if n then -1 else 1) * u.1
    toIntFp kind r (.fin n m e) = if v < kind.lo then ⟨kind.lo, flagNV⟩ else if kind.hi < v then ⟨kind.hi, flagNV⟩
      else ⟨v, if u.2 then flagNX else 0⟩ := by
  cases n <;> simp [toIntFp, saturate]

/-- Settles O27: FRND and the conversions to an integer round the real value to an integer. -/
theorem integralAndIntegerConversions : Obligations.IntegralAndIntegerConversions := by
  intro f format r v x
  have usual := FpFmt.usual format
  refine ⟨fun a real notNeg notPos => ?finite, fun n special => usual.integralFp_special r special, fun n kind zero => ?zero,
    fun q nan => ⟨?nan, fun kind => ?nanInt⟩, fun n width inf => ?inf⟩
  case zero => rw [zero]; rfl
  case nan =>
    unfold integralFp
    rw [show unpack f v = .nan q from nan]
    rfl
  case nanInt => rw [nan]; rfl
  case inf => rw [inf]; exact ⟨rfl, rfl⟩
  case finite =>
    cases value : x with
    | nan _ => exact (value ▸ real).elim
    | inf _ => exact (value ▸ real).elim
    | zero n => cases n with
      | true => exact absurd value notNeg
      | false => exact absurd value notPos
    | fin n m e =>
      obtain ⟨posm, _, _⟩ := usual.unpack_fin value
      obtain ⟨rounds, inexact⟩ := roundUnits_roundsTo (q := 0) r n (stands_exact posm e) nofun
      obtain ⟨bits, sign, result, flags⟩ := usual.integralFp_fin r value
      have saturates := fun kind => saturate_eq kind r n m e
      rw [zpow_zero, div_one] at rounds
      rw [zpow_zero, mul_one] at inexact
      generalize roundUnits r n m e false 0 = u at *
      dsimp only at saturates
      rw [value] at real
      have eq : a = (if n then -1 else 1) * m * 2 ^ e := real
      have size : |a| = m * 2 ^ e := by
        have mag : (0 : ℝ) ≤ m * 2 ^ e := by positivity
        rw [eq]
        cases n <;> simp [abs_of_nonneg mag]
      have same : (if n then -1 else 1) * ((u.1 : ℤ) : ℝ) = a ↔ ¬ u.2 = true := by
        rw [inexact, not_not, eq]
        cases n <;> simp
      have order (width : Nat) (signed : Bool) : (⟨width, signed⟩ : IntKind).lo ≤ (⟨width, signed⟩ : IntKind).hi := by
        have : (0 : ℤ) < 2 ^ (width - 1) := by positivity
        have : (0 : ℤ) < 2 ^ width := by positivity
        cases signed with
        | true =>
          simp only [IntKind.lo, IntKind.hi, if_true]
          omega
        | false =>
          simp only [IntKind.lo, IntKind.hi, Bool.false_eq_true, if_false]
          omega
      refine ⟨u.1, by rw [size]; exact rounds, sign, by exact_mod_cast result, bits, fun exact_ => ?_, fun differs => ?_,
        fun width sizes signed => ⟨fun below => ?_, fun above => ?_, fun least most => ?_⟩⟩
      · rw [flags, if_neg (same.mp exact_)]
      · rw [flags, if_pos (not_not.mp (mt same.mpr differs))]
      · exact (saturates _).trans (if_pos below)
      · exact (saturates _).trans ((if_neg (not_lt.mpr ((order width signed).trans (le_of_lt above)))).trans (if_pos above))
      · have inside := (saturates ⟨width, signed⟩).trans ((if_neg (not_lt.mpr least)).trans (if_neg (not_lt.mpr most)))
        rw [inside]
        refine ⟨?_, ?_⟩
        · cases u.2 <;> rfl
        · refine Iff.trans ?_ same.symm
          cases u.2 <;> simp [flagNX]

end Sys2Proof.Machine
end

section
/-!
PROOF. The end of a scalar FP instruction of fixed latency (R149, R150, R158).
-/
namespace Sys2Proof.Machine

/-! ### Producing a result leaves the clock and the enabled flags -/

/-- From one state to another neither the cycle nor the enabled FP traps of the executing slot have changed. -/
structure SameEnables (s t : State) : Prop where
  tick : t.tick = s.tick
  fpte : t.cur.fpte = s.cur.fpte

theorem SameEnables.trans {s t u : State} (h : SameEnables s t) (g : SameEnables t u) : SameEnables s u :=
  ⟨g.tick.trans h.tick, g.fpte.trans h.fpte⟩

theorem SameBesidesEvents.sameEnables {s t : State} (h : SameBesidesEvents s t) : SameEnables s t := by
  obtain ⟨_, rfl⟩ := h
  exact ⟨rfl, rfl⟩

theorem Stored.sameEnables {s t : State} (h : Stored s t) : SameEnables s t := by
  obtain ⟨_, _, _, _, _, _, _, _, _, _, eq⟩ := h.kept
  obtain ⟨turn, slots⟩ := h.harts
  have own (s : State) : slotOf s s.turn = s.cur := by simp [slotOf]
  refine ⟨by rw [eq], ?_⟩
  rw [← own t, slots, turn, own s]

theorem PlaceTaken.sameEnables {s t : State} (h : PlaceTaken s t) : SameEnables s t := by
  obtain ⟨_, _, _, _, _, _, rfl⟩ := h.kept
  exact ⟨rfl, rfl⟩

theorem sameEnables_storeAt {p : Place} {bs : List Byte} {s t : State} (h : storeAt p bs s = .ok ((), t)) :
    SameEnables s t := by
  obtain ⟨_, u, settled, h⟩ := bind_ok h
  cases h
  exact ((onlyLooks_settleBytes ..).same _ _ _ settled).sameEnables.trans (stored_storeOf ..).sameEnables

theorem sameEnables_appendPort {p : BitVec 2} {v : W} {s t : State} (h : appendPort p v s = .ok ((), t)) :
    SameEnables s t := by
  obtain ⟨⟨g, a⟩, s1, address, h⟩ := bind_ok h
  obtain ⟨_, s2, stored, h⟩ := bind_ok h
  obtain ⟨q, s3, checked, stored⟩ := bind_ok stored
  cases h
  have looked := ((onlyLooks_portAddress ..).same _ _ _ address).trans ((onlyLooks_checkAccess ..).same _ _ _ checked)
  exact looked.sameEnables.trans ((sameEnables_storeAt stored).trans ⟨rfl, rfl⟩)

theorem sameEnables_writeNamed (s : State) (q : Vector Entry 16) (i : BitVec 3) (cycle : Nat) (e : Entry) :
    SameEnables s { s with cur := writeNamed (keepOld { s.cur with q := q } s.tick i cycle) i e } := by
  refine ⟨rfl, ?_⟩
  rw [keepOld_late]
  unfold writeNamed
  split <;> rfl

theorem sameEnables_produce {d : Sel} {v : W} {latency : Nat} {s t : State} (h : Produces s d v latency t) :
    SameEnables s t := by
  rcases produceAt_ok ((produce_eq ..).symm.trans h) with ⟨_, rfl⟩ | ⟨_, _, _, rfl⟩ | ⟨_, _, append⟩
  · exact ⟨rfl, rfl⟩
  · exact sameEnables_writeNamed ..
  · refine SameEnables.trans (t := { s with cur := { s.cur with q := pushQueue s.cur.q ⟨v, 0, s.tick + latency⟩ } }) ⟨rfl, rfl⟩ ?_
    rcases appendResult_ok append with ⟨_, _, append⟩ | ⟨dst, u, element, rfl⟩
    · exact sameEnables_appendPort append
    · obtain ⟨tick, fpte⟩ := (placeTaken_reserveElement element).sameEnables
      exact ⟨tick, fpte⟩

/-! ### The end (R149, R150) -/

/-- What a word does whose meaning ends with a result of a fixed latency. -/
theorem fpResult_ends {i : Instr} {op : Op Unit} {st : BitVec 3} {d : Sel} {latency : Nat} {v : W} {flags : BitVec 5}
    {s u : State} {w : Word32} (word : encode i = some w) (meaning : exec i = runOp op)
    (run : op s = fpResult i st d latency v flags u) : FpEnds i st d latency v flags s u := by
  have number : wordOf i = w.toNat := by simp [wordOf, word]
  refine ⟨fun t made => ?_, fun c info stops settled => ?_⟩
  · obtain ⟨tick, fpte⟩ := sameEnables_produce made
    have rest : op s = (do raiseFlags (wordOf i) latency flags; finish st : Op Unit) t := run.trans (bind_of_gives made)
    rw [← fpte, ← tick, meaning]
    refine ⟨fun quiet => runOp_ok (u := ()) (rest.trans ?_), fun raised settled => ⟨w, word, runOp_trapped settled (rest.trans ?_)⟩⟩
    · have raises : raiseFlags (wordOf i) latency flags t =
          .ok ((), { t with cur := addFlags t.cur t.tick (t.tick + latency) flags }) := by
        rw [raiseFlags, bind_of_gives (get_run t)]
        exact bind_of_gives (require_true (by simpa using quiet) ..)
      exact bind_of_gives raises
    · rw [← fpInfo_eq, ← number]
      refine bind_of_error ?_
      rw [raiseFlags, bind_of_gives (get_run t)]
      exact bind_of_error (require_false (by simpa using raised) ..)
  · rw [meaning]
    exact runOp_trapped settled (run.trans (bind_of_error stops))

end Sys2Proof.Machine
end

section
/-!
PROOF. The scalar FP instructions that round (O25).
-/
namespace Sys2Proof.Machine

/-! ### Flags on their way (R149, R158) -/

/-- A bit of the flags of the results that a condition picks. -/
theorem getLsbD_foldl_flags (p : DueFlags → Prop) [DecidablePred p] (l : List DueFlags) (f : BitVec 5) (b : Nat) :
    (l.foldl (fun f q => if p q then f ||| q.flags else f) f).getLsbD b =
      (f.getLsbD b || l.any fun q => decide (p q) && q.flags.getLsbD b) := by
  induction l generalizing f with
  | nil => simp
  | cons q l ih =>
    rw [List.foldl_cons, ih, List.any_cons]
    by_cases picked : p q
    · simp [picked, Bool.or_assoc]
    · simp [picked]

theorem any_or {α : Type} (p q : α → Bool) (l : List α) : (l.any fun a => p a || q a) = (l.any p || l.any q) := by
  induction l with
  | nil => rfl
  | cons a l ih => simp only [List.any_cons, ih, Bool.or_assoc, Bool.or_left_comm]

/-- The flags added to those on their way come in at their cycle, and those that had come in by now stay. -/
theorem foldl_addFlags (p : DueFlags → Prop) [DecidablePred p] (x : Slot) {tick t : Nat} (cycle : Nat) (flags : BitVec 5)
    (past : tick ≤ t) (written : ∀ q, q.cycle ≤ t → p q) (fresh : p ⟨cycle, flags, true⟩ ↔ cycle ≤ t) :
    (addFlags x tick cycle flags).flagsDue.foldl (fun f q => if p q then f ||| q.flags else f) (addFlags x tick cycle flags).fpflags =
      let old := x.flagsDue.foldl (fun f q => if p q then f ||| q.flags else f) x.fpflags
      if cycle ≤ t then old ||| flags else old := by
  apply BitVec.eq_of_getLsbD_eq
  intro b _
  have parts (q : DueFlags) : (decide (p q) && q.flags.getLsbD b) = ((decide (q.cycle ≤ tick) && q.flags.getLsbD b) ||
      (decide (tick < q.cycle) && (decide (p q) && q.flags.getLsbD b))) := by
    by_cases early : q.cycle ≤ tick
    · simp [early, not_lt.mpr early, written q (early.trans past)]
    · simp [early, not_le.mp early]
  have added : (if flags = 0 then [] else [(⟨cycle, flags, true⟩ : DueFlags)]).any (fun q => decide (p q) && q.flags.getLsbD b) =
      (decide (cycle ≤ t) && flags.getLsbD b) := by
    by_cases none_ : flags = 0
    · simp [none_]
    · rw [if_neg none_]
      simp [fresh]
  rw [getLsbD_foldl_flags]
  have old : (x.flagsDue.any fun q => decide (p q) && q.flags.getLsbD b) =
      ((x.flagsDue.any fun q => decide (q.cycle ≤ tick) && q.flags.getLsbD b) ||
        x.flagsDue.any fun q => decide (tick < q.cycle) && (decide (p q) && q.flags.getLsbD b)) := by
    rw [← any_or]
    exact congrArg _ (funext parts)
  simp only [addFlags, fpflagsNow, getLsbD_foldl_flags, List.any_append, List.any_filter, added]
  have all : (x.flagsDue.foldl (fun f q => if p q then f ||| q.flags else f) x.fpflags).getLsbD b = (x.fpflags.getLsbD b ||
      ((x.flagsDue.any fun q => decide (q.cycle ≤ tick) && q.flags.getLsbD b) ||
        x.flagsDue.any fun q => decide (tick < q.cycle) && (decide (p q) && q.flags.getLsbD b))) := by
    rw [getLsbD_foldl_flags, old]
  by_cases now : cycle ≤ t
  · rw [if_pos now]
    simp only [BitVec.getLsbD_or, all, now, decide_true, Bool.true_and, Bool.or_assoc]
  · rw [if_neg now]
    simp only [all, now, decide_false, Bool.false_and, Bool.or_false, Bool.or_assoc]

/-! ### The rounding mode (R144, R148) -/

theorem roundingFor_run {s : State} {lane : Nat} {m : RMode} (mode : modeOfCode (modeCode s.cur) = m) (plain : m ≠ .sto) :
    Gives (roundingFor lane) s ⟨m, 0⟩ s := by
  unfold Gives roundingFor
  rw [bind_of_gives (curSlot_run s), mode]
  cases m <;> first | rfl | exact absurd rfl plain

theorem modeOfCode_ne_sto {c : Nat} (small : c < 5) : modeOfCode c ≠ .sto := by
  interval_cases c <;> exact nofun

theorem modeCode_dynamic {x : Slot} (none_ : x.modw = none ∨ ∃ w, x.modw = some w ∧ w.rm = 6) : modeCode x = dynamicMode x := by
  rcases none_ with none_ | ⟨w, some_, rm⟩
  · simp [modeCode, none_]
  · simp [modeCode, some_, rm]

theorem modeCode_own {x : Slot} {w : Modw} (some_ : x.modw = some w) (rm : w.rm ≠ 6) : modeCode x = w.rm.toNat := by
  simp only [modeCode, some_, if_neg rm]

theorem roundingFor_sto {s : State} {w : Modw} (some_ : s.cur.modw = some w) (rm : w.rm = 5)
    (free : (nEntry s.cur w.cnt.toNat).tag = 0) (lane : Nat) :
    Gives (roundingFor lane) s ⟨.sto, stoDraw s.cur.seed (nEntry s.cur w.cnt.toNat).val lane⟩ s := by
  have mode : modeOfCode (modeCode s.cur) = .sto := by rw [modeCode_own some_ (by rw [rm]; decide), rm]; rfl
  unfold Gives roundingFor
  rw [bind_of_gives (curSlot_run s), mode]
  have count : readEntry (nEntry s.cur w.cnt.toNat) s = .ok ((nEntry s.cur w.cnt.toNat).val, s) := by
    rw [readEntry, if_pos free, pure_run]
  simp only [some_]
  exact bind_of_gives count

/-! ### The instructions -/

/-- A two-source instruction that rounds, once its sources and its mode are read. -/
theorem fpRounded_ends {i : Instr} {x : FRRR} {latency : Nat} {f : FpFmt → Rounding → FpVal → FpVal → FpResult} {s s1 s2 : State}
    {a b : W} {r : Rounding} {w : Word32} (word : encode i = some w) (meaning : exec i = runOp (fpRounded i x latency f))
    (ra : Reads s x.a a s1) (rb : Reads s1 x.b b s2) (mode : Gives (roundingFor 0) s2 r s2) :
    let res := f (fmtOf x.fmt) r (unpack (fmtOf x.fmt) a.toNat) (unpack (fmtOf x.fmt) b.toNat)
    FpEnds i x.st x.d latency (BitVec.ofNat 64 res.bits) res.flags s s2 :=
  fpResult_ends word meaning ((bind_of_gives ra).trans ((bind_of_gives rb).trans (bind_of_gives mode)))

theorem fused_ends {i : Instr} {x : FX} {np na : Bool} {s s1 s2 s3 : State} {a b c : W} {r : Rounding} {w : Word32}
    (word : encode i = some w) (meaning : exec i = runOp (fused i x np na)) (ra : Reads s x.a a s1) (rb : Reads s1 x.b b s2)
    (rc : Reads s2 x.c c s3) (mode : Gives (roundingFor 0) s3 r s3) :
    let f := if x.single = 1 then fp32 else fp64
    let p := mulVal (unpack f a.toNat) (unpack f b.toNat)
    let d := unpack f c.toNat
    let res := sumFp f r [if np then p.negate else p, if na then d.negate else d]
    FpEnds i x.st x.d 5 (BitVec.ofNat 64 res.bits) res.flags s s3 :=
  fpResult_ends word meaning ((bind_of_gives ra).trans ((bind_of_gives rb).trans ((bind_of_gives rc).trans (bind_of_gives mode))))

/-- Settles O25: the flags on their way, the mode, and the end of each instruction that rounds. -/
theorem scalarFpCompletes : Obligations.ScalarFpCompletes := by
  refine ⟨fun x tick cycle t flags past => ⟨?_, ?_⟩, fun s none_ reserved => ?_, fun s none_ defined => ?_, fun s w some_ rm => ?_,
    fun s w some_ rm free => roundingFor_sto some_ rm free 0, fun x s s1 s2 a b r ra rb mode => ?_,
    fun x s s1 s2 s3 a b c r ra rb rc mode => ?_, fun x s s1 a r ra mode => ?_, fun x s s1 a r ra mode => ?_⟩
  · exact foldl_addFlags (fun q => q.cycle ≤ t) x cycle flags past (fun _ h => h) Iff.rfl
  · exact foldl_addFlags (fun q => q.cycle ≤ t ∨ !q.uncommitted) x cycle flags past (fun _ h => .inl h) (by simp)
  · have small : modeCode s.cur < 5 := by
      rw [modeCode_dynamic none_, dynamicMode, if_neg (not_lt.mpr reserved)]
      exact (Config.reservedRounding s.cur.rmode).isLt
    exact ⟨_, roundingFor_run rfl (modeOfCode_ne_sto small), modeOfCode_ne_sto small⟩
  · refine roundingFor_run ?_ (modeOfCode_ne_sto defined)
    rw [modeCode_dynamic none_, dynamicMode, if_pos defined]
  · refine roundingFor_run ?_ (modeOfCode_ne_sto rm)
    rw [modeCode_own some_ fun six => by rw [six] at rm; exact absurd rm (by decide)]
  · have add : exec (.fadd x) = runOp (fpRounded (.fadd x) x 4 fun f m a b => sumFp f m [a, b]) := rfl
    have sub : exec (.fsub x) = runOp (fpRounded (.fsub x) x 4 fun f m a b => sumFp f m [a, b.negate]) := rfl
    have mul : exec (.fmul x) = runOp (fpRounded (.fmul x) x 4 fun f m a b => roundVal f m (mulVal a b)) := rfl
    have added := fpRounded_ends rfl add ra rb mode
    have subtracted := fpRounded_ends rfl sub ra rb mode
    have multiplied := fpRounded_ends rfl mul ra rb mode
    exact ⟨added, subtracted, multiplied⟩
  · have plus : exec (.fma x) = runOp (fused (.fma x) x false false) := rfl
    have minus : exec (.fms x) = runOp (fused (.fms x) x false true) := rfl
    have negated : exec (.fnma x) = runOp (fused (.fnma x) x true false) := rfl
    have added := fused_ends rfl plus ra rb rc mode
    have subtracted := fused_ends rfl minus ra rb rc mode
    have negated := fused_ends rfl negated ra rb rc mode
    exact ⟨added, subtracted, negated⟩
  · exact fpResult_ends rfl rfl ((bind_of_gives ra).trans (bind_of_gives mode))
  · exact ⟨fpResult_ends rfl rfl ((bind_of_gives ra).trans (bind_of_gives mode)),
      fpResult_ends rfl rfl ((bind_of_gives ra).trans (bind_of_gives mode)),
      fpResult_ends rfl rfl ((bind_of_gives ra).trans (bind_of_gives mode))⟩

end Sys2Proof.Machine
end

section
/-!
PROOF. Minimum, maximum, compares, class and the sign operations (R163, R164, R166, R167; O26).
-/
namespace Sys2Proof.Machine

/-! ### The order of values -/

/-- A value that is no NaN is a real or an infinity. -/
def HasValue (u : FpVal) (v : EReal) : Prop :=
  (u = .inf true → v = ⊥) ∧ (u = .inf false → v = ⊤) ∧ ((∀ n, u ≠ .inf n) → ∃ w : ℝ, IsReal u w ∧ v = (w : EReal)) ∧
    ∀ n, u ≠ .nan n

theorem HasValue.cases {u : FpVal} {v : EReal} (h : HasValue u v) :
    (u = .inf true ∧ v = ⊥) ∨ (u = .inf false ∧ v = ⊤) ∨ ∃ w : ℝ, IsReal u w ∧ v = (w : EReal) := by
  obtain ⟨neg, pos, real, notNan⟩ := h
  cases u with
  | nan s => exact absurd rfl (notNan s)
  | inf n => cases n with
    | true => exact .inl ⟨rfl, neg rfl⟩
    | false => exact .inr (.inl ⟨rfl, pos rfl⟩)
  | zero n => exact .inr (.inr (real fun _ => nofun))
  | fin n m e => exact .inr (.inr (real fun _ => nofun))

theorem HasValue.isNan {u : FpVal} {v : EReal} (h : HasValue u v) : u.isNan = false := by
  obtain ⟨_, _, _, notNan⟩ := h
  cases u with
  | nan s => exact absurd rfl (notNan s)
  | _ => rfl

theorem isSnan_of_isNan {u : FpVal} (h : u.isNan = false) : u.isSnan = false := by
  cases u with
  | nan s => cases h
  | _ => rfl

/-- Two reals compare as the model compares them. -/
theorem cmpVal_real {p q : FpVal} {x y : ℝ} (hp : IsReal p x) (hq : IsReal q y) :
    (cmpVal p q < 0 ↔ x < y) ∧ (cmpVal p q = 0 ↔ x = y) := by
  have pair : List.Forall₂ IsReal [p, q] [x, y] := .cons hp (.cons hq .nil)
  have eq : cmpVal p q = match minExp [p, q] with
      | none => 0
      | some e => (inUnits e p - inUnits e q).sign := by
    cases p <;> cases q <;> first | exact hp.elim | exact hq.elim | rfl
  rw [eq]
  cases least : minExp [p, q] with
  | none =>
    have zero (t : FpVal) {v : ℝ} (mem : t ∈ [p, q]) (real : IsReal t v) : v = 0 := by
      cases t with
      | fin n m e => exact absurd mem (minExp_none least n m e)
      | zero n => exact real
      | nan _ => exact real.elim
      | inf _ => exact real.elim
    rw [zero p (by simp) hp, zero q (by simp) hq]
    simp
  | some e =>
    have unit : (0 : ℝ) < 2 ^ e := by positivity
    have first := inUnits_real hp fun n m e' same => minExp_le least (n := n) (m := m) (by simp [same])
    have second := inUnits_real hq fun n m e' same => minExp_le least (n := n) (m := m) (by simp [same])
    dsimp only
    rw [← first, ← second, mul_lt_mul_iff_left₀ unit, mul_left_inj' unit.ne', Int.cast_lt, Int.cast_inj, Int.sign_neg_iff, Int.sign_eq_zero_iff_zero]
    omega

theorem cmpVal_inf {q : FpVal} {y : ℝ} (real : IsReal q y) (n : Bool) :
    cmpVal (.inf n) q = (if n then -1 else 1) ∧ cmpVal q (.inf n) = if n then 1 else -1 := by
  cases q with
  | nan _ => exact real.elim
  | inf _ => exact real.elim
  | _ => cases n <;> exact ⟨rfl, rfl⟩

theorem cmpVal_values {p q : FpVal} {v w : EReal} (hp : HasValue p v) (hq : HasValue q w) :
    (cmpVal p q < 0 ↔ v < w) ∧ (cmpVal p q = 0 ↔ v = w) := by
  rcases hp.cases with ⟨rfl, rfl⟩ | ⟨rfl, rfl⟩ | ⟨x, realP, rfl⟩ <;> rcases hq.cases with ⟨rfl, rfl⟩ | ⟨rfl, rfl⟩ | ⟨y, realQ, rfl⟩
  case inr.inr.inr.inr =>
    rw [EReal.coe_lt_coe_iff, EReal.coe_eq_coe_iff]
    exact cmpVal_real realP realQ
  case inl.inr.inr => simp [(cmpVal_inf realQ true).1]
  case inr.inl.inr.inr => simp [(cmpVal_inf realQ false).1]
  case inr.inr.inl => simp [(cmpVal_inf realP true).2]
  case inr.inr.inr.inl => simp [(cmpVal_inf realP false).2]
  all_goals simp [cmpVal, minExp]

/-- Encodings of one value with one sign have the same low bits. -/
theorem FpFmt.Usual.low_eq {f : FpFmt} (usual : f.Usual) {a b : Nat} {v : EReal} (ha : HasValue (unpack f a) v)
    (hb : HasValue (unpack f b) v) (sign : (unpack f a).neg = (unpack f b).neg) : a % 2 ^ f.width = b % 2 ^ f.width := by
  rcases ha.cases with ⟨ia, rfl⟩ | ⟨ia, rfl⟩ | ⟨x, realA, rfl⟩ <;> rcases hb.cases with ⟨ib, vb⟩ | ⟨ib, vb⟩ | ⟨y, realB, vb⟩
  case inl.inl => rw [usual.unpack_inf ia, usual.unpack_inf ib]
  case inr.inl.inr.inl => rw [usual.unpack_inf ia, usual.unpack_inf ib]
  case inr.inr.inr.inr =>
    obtain rfl : x = y := EReal.coe_injective vb
    obtain ⟨n, _, lowA, eqA⟩ := usual.unpack_real realA
    obtain ⟨m, _, lowB, eqB⟩ := usual.unpack_real realB
    rw [sign] at lowA eqA
    have nonzero : ((if (unpack f b).neg then -1 else 1) : ℝ) ≠ 0 := by split <;> norm_num
    rw [lowA, lowB, f.magnitude_strictMono.injective (mul_left_cancel₀ nonzero (eqA.symm.trans eqB))]
  all_goals simp at vb

/-! ### Minimum and maximum (R163) -/

section
variable {f : FpFmt} {a b : Nat} {v w : EReal} (ha : HasValue (unpack f a) v) (hb : HasValue (unpack f b) w)
include ha hb

/-- Whether the first of two values goes before the second, −0 before +0. -/
theorem minMaxFp_values (isMax num : Bool) : minMaxFp f isMax num a b =
    ⟨if (if v = w then (unpack f a).neg && !(unpack f b).neg else decide (v < w)) != isMax then a % 2 ^ f.width
      else b % 2 ^ f.width, 0⟩ := by
  obtain ⟨less, equal⟩ := cmpVal_values ha hb
  unfold minMaxFp
  simp only [ha.isNan, hb.isNan, isSnan_of_isNan ha.isNan, isSnan_of_isNan hb.isNan, less, equal, Bool.or_false,
    Bool.false_eq_true, if_false]

theorem minMaxFp_first (usual : f.Usual) (num : Bool) :
    (v < w ∨ (v = w ∧ ((unpack f a).neg = true ∨ (unpack f b).neg = false)) → minMaxFp f false num a b = ⟨a % 2 ^ f.width, 0⟩) ∧
    (w < v ∨ (v = w ∧ ((unpack f a).neg = false ∨ (unpack f b).neg = true)) → minMaxFp f true num a b = ⟨a % 2 ^ f.width, 0⟩) := by
  rw [minMaxFp_values ha hb, minMaxFp_values ha hb]
  have same (eq : v = w) (sign : (unpack f a).neg = (unpack f b).neg) := usual.low_eq ha (eq ▸ hb) sign
  rcases lt_trichotomy v w with lt | rfl | gt
  · simp [lt, lt.ne, lt.not_gt]
  · have same := usual.low_eq ha hb
    cases na : (unpack f a).neg <;> cases nb : (unpack f b).neg <;> simp_all
  · simp [gt, gt.ne', gt.not_gt]

theorem minMaxFp_second (num : Bool) :
    (w < v ∨ (v = w ∧ (unpack f a).neg = false ∧ (unpack f b).neg = true) → minMaxFp f false num a b = ⟨b % 2 ^ f.width, 0⟩) ∧
    (v < w ∨ (v = w ∧ (unpack f a).neg = true ∧ (unpack f b).neg = false) → minMaxFp f true num a b = ⟨b % 2 ^ f.width, 0⟩) := by
  rw [minMaxFp_values ha hb, minMaxFp_values ha hb]
  rcases lt_trichotomy v w with lt | rfl | gt
  · simp [lt, lt.ne, lt.not_gt]
  · cases na : (unpack f a).neg <;> cases nb : (unpack f b).neg <;> simp
  · simp [gt, gt.ne', gt.not_gt]

theorem compareFp_values : compareFp f .eq a b = ⟨b1 (decide (v = w)), 0⟩ ∧ compareFp f .lt a b = ⟨b1 (decide (v < w)), 0⟩ ∧
    compareFp f .le a b = ⟨b1 (decide (v ≤ w)), 0⟩ ∧ compareFp f .un a b = ⟨0, 0⟩ := by
  obtain ⟨less, equal⟩ := cmpVal_values ha hb
  have atMost : cmpVal (unpack f a) (unpack f b) ≤ 0 ↔ v ≤ w := by rw [le_iff_lt_or_eq, less, equal, ← le_iff_lt_or_eq]
  unfold compareFp
  simp only [ha.isNan, hb.isNan, isSnan_of_isNan ha.isNan, isSnan_of_isNan hb.isNan, less, atMost, equal, beq_eq_decide, Bool.or_false,
    Bool.not_false, Bool.true_and]
  exact ⟨rfl, rfl, rfl, rfl⟩

end

/-- With a NaN operand: the default NaN, or for FMINN and FMAXN the operand that is none. -/
theorem minMaxFp_nan (f : FpFmt) (isMax num : Bool) (a b : Nat) (nan : ((unpack f a).isNan || (unpack f b).isNan) = true) :
    minMaxFp f isMax num a b =
      ⟨if num && !(unpack f b).isNan then b % 2 ^ f.width else if num && !(unpack f a).isNan then a % 2 ^ f.width else f.nanBits,
        if (unpack f a).isSnan || (unpack f b).isSnan then flagNV else 0⟩ := by
  unfold minMaxFp
  simp only [nan, if_true]
  split
  · rfl
  · split <;> rfl

theorem compareFp_nan (f : FpFmt) (a b : Nat) (nan : ((unpack f a).isNan || (unpack f b).isNan) = true) :
    let nv (c : Bool) : BitVec 5 := if c then flagNV else 0
    let snan := (unpack f a).isSnan || (unpack f b).isSnan
    compareFp f .eq a b = ⟨0, nv snan⟩ ∧ compareFp f .lt a b = ⟨0, nv true⟩ ∧ compareFp f .le a b = ⟨0, nv true⟩ ∧
      compareFp f .un a b = ⟨1, nv snan⟩ := by
  unfold compareFp
  simp only [nan, Bool.not_true, Bool.false_and]
  exact ⟨rfl, rfl, rfl, rfl⟩

theorem fpBinary_ends (f : FpFmt → Nat → Nat → FpResult) {i : Instr} {x : FRRR} {latency : Nat} {s s1 s2 : State} {a b : W}
    {w : Word32} {bits : Nat} {flags : BitVec 5} (word : encode i = some w) (meaning : exec i = runOp (fpBinary i x latency f))
    (ra : Reads s x.a a s1) (rb : Reads s1 x.b b s2) (eq : f (fmtOf x.fmt) a.toNat b.toNat = ⟨bits, flags⟩) :
    FpEnds i x.st x.d latency (BitVec.ofNat 64 bits) flags s s2 := by
  refine fpResult_ends word meaning (((bind_of_gives ra).trans (bind_of_gives rb)).trans ?_)
  rw [eq]
  rfl

theorem fmtOf_usual (c : BitVec 2) : (fmtOf c).Usual := by
  refine FpFmt.usual ?_
  revert c
  decide

/-- The low bits of a value with a sign bit of its own (R164). -/
theorem withSign_eq (f : FpFmt) (v : Nat) (neg : Bool) :
    withSign f v neg = v % 2 ^ (f.width - 1) + if neg then 2 ^ (f.width - 1) else 0 := by
  cases neg <;> simp [withSign, FpFmt.signBit, b1]

/-- The class bit of R167. -/
theorem classFp_eq (f : FpFmt) (v : Nat) : classFp f v = 2 ^ (match unpack f v with
    | .inf true => 0 | .zero true => 3 | .zero false => 4 | .inf false => 7 | .nan true => 8 | .nan false => 9
    | .fin true m _ => if m < 2 ^ (f.prec - 1) then 2 else 1
    | .fin false m _ => if m < 2 ^ (f.prec - 1) then 5 else 6) := by
  unfold classFp
  rcases unpack f v with s | n | n | ⟨n, m, e⟩
  · cases s <;> rfl
  · cases n <;> rfl
  · cases n <;> rfl
  · cases n <;> dsimp only <;> split <;> rfl

theorem produce_finish {d : Sel} {v : W} {latency : Nat} {st : BitVec 3} {s t : State} (made : Produces s d v latency t) :
    (do produce d v latency; finish st : Op Unit) s = .ok ((), issued st t) := bind_of_gives (v := ()) made

/-- Settles O26: minimum and maximum, the compares, the sign operations and the class. -/
theorem fpWithoutRounding : Obligations.FpWithoutRounding := by
  refine ⟨fun x s s1 s2 a b ra rb => ?_, fun x s s1 t a ra => ?_⟩
  · intro f p q low val nv ends snan nan
    have usual : f.Usual := fmtOf_usual x.fmt
    have min {bits : Nat} {flags : BitVec 5} (eq : minMaxFp f false false a.toNat b.toNat = ⟨bits, flags⟩) :
        FpEnds (.fmin x) x.st x.d 2 (BitVec.ofNat 64 bits) flags s s2 :=
      fpBinary_ends (fun f a b => minMaxFp f false false a b) rfl rfl ra rb eq
    have max {bits : Nat} {flags : BitVec 5} (eq : minMaxFp f true false a.toNat b.toNat = ⟨bits, flags⟩) :
        FpEnds (.fmax x) x.st x.d 2 (BitVec.ofNat 64 bits) flags s s2 :=
      fpBinary_ends (fun f a b => minMaxFp f true false a b) rfl rfl ra rb eq
    have minn {bits : Nat} {flags : BitVec 5} (eq : minMaxFp f false true a.toNat b.toNat = ⟨bits, flags⟩) :
        FpEnds (.fminn x) x.st x.d 2 (BitVec.ofNat 64 bits) flags s s2 :=
      fpBinary_ends (fun f a b => minMaxFp f false true a b) rfl rfl ra rb eq
    have maxn {bits : Nat} {flags : BitVec 5} (eq : minMaxFp f true true a.toNat b.toNat = ⟨bits, flags⟩) :
        FpEnds (.fmaxn x) x.st x.d 2 (BitVec.ofNat 64 bits) flags s s2 :=
      fpBinary_ends (fun f a b => minMaxFp f true true a b) rfl rfl ra rb eq
    have eq {bits : Nat} {flags : BitVec 5} (eq : compareFp f .eq a.toNat b.toNat = ⟨bits, flags⟩) :
        FpEnds (.fcmpeq x) x.st x.d 2 (BitVec.ofNat 64 bits) flags s s2 :=
      fpBinary_ends (fun f a b => compareFp f .eq a b) rfl rfl ra rb eq
    have lt {bits : Nat} {flags : BitVec 5} (eq : compareFp f .lt a.toNat b.toNat = ⟨bits, flags⟩) :
        FpEnds (.fcmplt x) x.st x.d 2 (BitVec.ofNat 64 bits) flags s s2 :=
      fpBinary_ends (fun f a b => compareFp f .lt a b) rfl rfl ra rb eq
    have le {bits : Nat} {flags : BitVec 5} (eq : compareFp f .le a.toNat b.toNat = ⟨bits, flags⟩) :
        FpEnds (.fcmple x) x.st x.d 2 (BitVec.ofNat 64 bits) flags s s2 :=
      fpBinary_ends (fun f a b => compareFp f .le a b) rfl rfl ra rb eq
    have un {bits : Nat} {flags : BitVec 5} (eq : compareFp f .un a.toNat b.toNat = ⟨bits, flags⟩) :
        FpEnds (.fcmpun x) x.st x.d 2 (BitVec.ofNat 64 bits) flags s s2 :=
      fpBinary_ends (fun f a b => compareFp f .un a b) rfl rfl ra rb eq
    refine ⟨fun v w hp hq order => ?_, fun v w hp hq order => ?_, fun v w hp hq order => ?_, fun v w hp hq order => ?_,
      fun none_ => ?_, fun both => ?_, fun first => ?_, fun second => ?_, fun v w hp hq => ?_, fun none_ => ?_, fun t made => ?_⟩
    · exact ⟨min ((minMaxFp_first hp hq usual _).1 order), minn ((minMaxFp_first hp hq usual _).1 order)⟩
    · exact ⟨min ((minMaxFp_second hp hq _).1 order), minn ((minMaxFp_second hp hq _).1 order)⟩
    · exact ⟨max ((minMaxFp_first hp hq usual _).2 order), maxn ((minMaxFp_first hp hq usual _).2 order)⟩
    · exact ⟨max ((minMaxFp_second hp hq _).2 order), maxn ((minMaxFp_second hp hq _).2 order)⟩
    · have plain (isMax : Bool) := minMaxFp_nan f isMax false a.toNat b.toNat none_
      exact ⟨min (plain false), max (plain true)⟩
    · obtain ⟨np, nq⟩ := (Bool.and_eq_true ..).mp both
      have result (isMax : Bool) : minMaxFp f isMax true a.toNat b.toNat = ⟨f.nanBits, nv snan⟩ := by
        rw [minMaxFp_nan f isMax true _ _ (by rw [np, Bool.true_or]), np, nq]
        rfl
      exact ⟨minn (result false), maxn (result true)⟩
    · obtain ⟨np, nq⟩ := (Bool.and_eq_true ..).mp first
      have result (isMax : Bool) : minMaxFp f isMax true a.toNat b.toNat = ⟨b.toNat % 2 ^ f.width, nv snan⟩ := by
        rw [minMaxFp_nan f isMax true _ _ (by rw [np, Bool.true_or]), nq]
        rfl
      exact ⟨minn (result false), maxn (result true)⟩
    · obtain ⟨np, nq⟩ := (Bool.and_eq_true ..).mp second
      have result (isMax : Bool) : minMaxFp f isMax true a.toNat b.toNat = ⟨a.toNat % 2 ^ f.width, nv snan⟩ := by
        rw [minMaxFp_nan f isMax true _ _ (by rw [nq, Bool.or_true]), nq, np]
        rfl
      exact ⟨minn (result false), maxn (result true)⟩
    · obtain ⟨equal, less, atMost, unordered⟩ := compareFp_values hp hq
      refine ⟨fun same => ?_, fun below => ?_, fun above => ?_, un unordered⟩
      · rw [decide_eq_true same] at equal
        rw [decide_eq_false same.not_lt] at less
        rw [decide_eq_true same.le] at atMost
        exact ⟨eq equal, lt less, le atMost⟩
      · rw [decide_eq_false below.ne] at equal
        rw [decide_eq_true below] at less
        rw [decide_eq_true below.le] at atMost
        exact ⟨eq equal, lt less, le atMost⟩
      · rw [decide_eq_false above.ne'] at equal
        rw [decide_eq_false above.not_gt] at less
        rw [decide_eq_false above.not_ge] at atMost
        exact ⟨eq equal, lt less, le atMost⟩
    · obtain ⟨equal, less, atMost, unordered⟩ := compareFp_nan f a.toNat b.toNat none_
      exact ⟨eq equal, lt less, le atMost, un unordered⟩
    · rw [← bitOf_toNat, ← withSign_eq] at made
      exact runOp_ok ((bind_of_gives ra).trans ((bind_of_gives rb).trans (produce_finish made)))
  · intro f mag
    have sign (c : Bool) : (if c then 0 else 2 ^ (f.width - 1)) = if !c then 2 ^ (f.width - 1) else 0 := by cases c <;> rfl
    refine ⟨fun made => ?_, fun made => ?_, fun k bit made => ?_⟩
    · have clear : withSign f a.toNat false = mag := withSign_eq ..
      rw [← clear] at made
      exact runOp_ok ((bind_of_gives ra).trans (produce_finish made))
    · rw [sign, ← bitOf_toNat, ← withSign_eq] at made
      exact runOp_ok ((bind_of_gives ra).trans (produce_finish made))
    · have index : classFp f a.toNat = 2 ^ k := by
        rw [bit]
        exact classFp_eq ..
      rw [← index] at made
      exact runOp_ok ((bind_of_gives ra).trans (produce_finish made))

end Sys2Proof.Machine
end

section
/-!
PROOF. The matrix product: elements, sums of products and their special values (R151, R152, R289, R294, R295; O51).
-/
namespace Sys2Proof.Machine

/-! ### Operand elements (R151, R152, R289) -/

/-- A number whose bits are given from the highest down. -/
def highFirst (b : Nat → Bool) (p : Nat) : Nat := ((List.range p).map fun j => b1 (b j) * 2 ^ (p - 1 - j)).foldl (· + ·) 0

theorem highFirst_succ (b : Nat → Bool) (p : Nat) : highFirst b (p + 1) = 2 * highFirst b p + b1 (b p) := by
  have double : ((List.range p).map fun j => b1 (b j) * 2 ^ (p + 1 - 1 - j)).sum =
      2 * ((List.range p).map fun j => b1 (b j) * 2 ^ (p - 1 - j)).sum := by
    rw [← List.sum_map_mul_left]
    refine congrArg List.sum (List.map_congr_left fun j mem => ?_)
    have : p + 1 - 1 - j = p - 1 - j + 1 := by have := List.mem_range.mp mem; omega
    rw [this, pow_succ]
    ring
  rw [highFirst, highFirst, ← List.sum_eq_foldl, ← List.sum_eq_foldl, List.range_succ, List.map_append, List.sum_append, double]
  simp

theorem highFirst_bits (b : Nat → Bool) (p : Nat) :
    highFirst b p < 2 ^ p ∧ ∀ j, j < p → (highFirst b p).testBit (p - 1 - j) = b j := by
  induction p with
  | zero => exact ⟨by simp [highFirst], nofun⟩
  | succ p ih =>
    obtain ⟨small, bits⟩ := ih
    have bit : b1 (b p) = (b p).toNat := by cases b p <;> rfl
    rw [highFirst_succ, bit]
    refine ⟨by have := (b p).toNat_le; omega, fun j inside => ?_⟩
    by_cases last : j = p
    · subst last
      rw [show j + 1 - 1 - j = 0 by omega, Nat.testBit_zero]
      cases b j <;> simp
    · have up : p + 1 - 1 - j = p - 1 - j + 1 := by omega
      rw [up, Nat.testBit_succ, show (2 * highFirst b p + (b p).toNat) / 2 = highFirst b p by have := (b p).toNat_le; omega]
      exact bits j (by omega)

/-- A plane's bit of a nested integer. -/
def planeBit (bs : List Byte) (e j : Nat) : Bool :=
  ((bs[256 * (e / 256) + 32 * j + e % 256 / 8]?).getD 0).getLsbD (e % 8)

theorem nestedInt_eq (bs : List Byte) (p e : Nat) : nestedInt bs p e = sextNat p (highFirst (planeBit bs e) p) := by
  have same : e % 256 % 8 = e % 8 := by omega
  simp only [nestedInt, highFirst, planeBit, ← bitOf_toNat, List.getD_eq_getElem?_getD, same]

/-- A nested integer is the two's complement number whose bits its planes hold, the highest first. -/
theorem nestedInt_toInt (bs : List Byte) {p : Nat} (some_ : 0 < p) (e : Nat) :
    nestedInt bs p e = (BitVec.ofNat p (highFirst (planeBit bs e) p)).toInt := by
  rw [nestedInt_eq, ← sextNat_toNat some_, BitVec.toNat_ofNat, Nat.mod_eq_of_lt (highFirst_bits ..).1]

theorem nestedInt_bits (bs : List Byte) {p : Nat} (some_ : 0 < p) (most : p ≤ 8) (e : Nat) :
    -(2 ^ (p - 1)) ≤ nestedInt bs p e ∧ nestedInt bs p e < 2 ^ (p - 1) ∧
      ∀ j, j < p → (BitVec.ofInt 64 (nestedInt bs p e)).getLsbD (p - 1 - j) = planeBit bs e j := by
  rw [nestedInt_toInt bs some_]
  refine ⟨BitVec.le_toInt _, BitVec.toInt_lt, fun j inside => ?_⟩
  have := (highFirst_bits (planeBit bs e) p).2 j inside
  change ((BitVec.ofNat p (highFirst (planeBit bs e) p)).signExtend 64).getLsbD _ = _
  have low : p - 1 - j < 64 := by omega
  have low' : p - 1 - j < p := by omega
  rw [BitVec.getLsbD_signExtend, BitVec.getLsbD_ofNat, this, if_pos low', decide_eq_true low, decide_eq_true low',
    Bool.true_and, Bool.true_and]

theorem isReal_nestedVal (n : Int) (e : Nat) {p : Nat} (most : p ≤ 8) :
    IsReal (nestedVal n e p) ((n : ℝ) * (2 : ℝ) ^ ((e : ℤ) - 127 + 8 - p)) := by
  have exponent : (e : ℤ) - 127 + 8 - p = e - 127 + (8 - p : ℕ) := by omega
  rw [exponent]
  exact isReal_scaled ..

theorem field_byte (v : Nat) : field v 7 0 = v % 256 ∧ field v 15 8 = v / 256 % 256 := by
  simp [field]

/-- The format in which a pair reads an operand element (R289). -/
theorem elem_formats (c : MmaCmd) (e : Nat) :
    let bits (bs : List Byte) (n : Nat) : Nat := leNat ((bs.drop (e * n)).take n)
    (c.pair = 0x30 → elemA c e = unpack fp64 (bits c.opA 8) ∧ elemB c e = unpack fp64 (bits c.opB 8)) ∧
    (c.pair = 0x31 → elemA c e = unpack fp32 (bits c.opA 4) ∧ elemB c e = unpack fp32 (bits c.opB 4)) ∧
    (c.pair = 0x32 ∨ c.pair = 0x34 ∨ c.pair = 0x38 → elemA c e = unpack bf16 (bits c.opA 2)) ∧
    (c.pair = 0x33 ∨ c.pair = 0x35 → elemA c e = unpack fp16 (bits c.opA 2)) ∧
    (c.pair = 0x32 ∨ c.pair = 0x35 ∨ c.pair = 0x37 → elemB c e = unpack bf16 (bits c.opB 2)) ∧
    (c.pair = 0x33 ∨ c.pair = 0x34 → elemB c e = unpack fp16 (bits c.opB 2)) := by
  unfold elemA elemB
  refine ⟨fun pair => ?_, fun pair => ?_, ?_, ?_, ?_, ?_⟩
  · rw [pair]
    exact ⟨rfl, rfl⟩
  · rw [pair]
    exact ⟨rfl, rfl⟩
  · rintro (pair | pair | pair) <;> (rw [pair]; rfl)
  · rintro (pair | pair) <;> (rw [pair]; rfl)
  · rintro (pair | pair | pair) <;> (rw [pair]; rfl)
  · rintro (pair | pair) <;> (rw [pair]; rfl)

theorem elem_nested {c : MmaCmd} (e : Nat) (planes : c.planes ≤ 8) :
    let nested (bs : List Byte) (scale : Nat) : ℝ := (nestedInt bs c.planes e : ℝ) * (2 : ℝ) ^ ((scale : ℤ) - 127 + 8 - c.planes)
    (c.pair = 0x37 → IsReal (elemA c e) (nested c.opA (c.scale.toNat % 256))) ∧
      (c.pair = 0x38 → IsReal (elemB c e) (nested c.opB (c.scale.toNat / 256 % 256))) := by
  obtain ⟨low, high⟩ := field_byte c.scale.toNat
  refine ⟨fun pair => ?_, fun pair => ?_⟩
  · have elem : elemA c e = nestedVal (nestedInt c.opA c.planes e) (field c.scale.toNat 7 0) c.planes := by
      rw [elemA, pair]
      rfl
    rw [elem, low]
    exact isReal_nestedVal _ _ planes
  · have elem : elemB c e = nestedVal (nestedInt c.opB c.planes e) (field c.scale.toNat 15 8) c.planes := by
      rw [elemB, pair]
      rfl
    rw [elem, high]
    exact isReal_nestedVal _ _ planes

/-! ### Sums of products (R294, R295) -/

theorem sum_map_range (v : Nat → ℝ) (n : Nat) : ((List.range n).map v).sum = ∑ k ∈ Finset.range n, v k := by
  rfl

/-- The terms of an updated element: the accumulator and its products. -/
def mmaTerms (c : MmaCmd) (acc : W) (i j : Nat) : List FpVal :=
  unpack (accFormat c) acc.toNat :: (List.range (innerDim c.pair.toNat)).map (mmaTerm c i j)

theorem mmaElem_eq (c : MmaCmd) (acc : W) (i j : Nat) :
    mmaElem c acc i j = sumFp (accFormat c) ⟨.rne, 0⟩ (mmaTerms c acc i j) := rfl

theorem accFormat_usual (c : MmaCmd) : (accFormat c).Usual := by
  unfold accFormat
  split
  · exact FpFmt.usual (by simp)
  · exact FpFmt.usual (by simp)

theorem zeroSign_nearest (ts : List FpVal) (d : Nat) : zeroSign ⟨.rne, d⟩ ts = decide (∀ t ∈ ts, t = .zero true) := by
  unfold zeroSign
  by_cases all : ∀ t ∈ ts, t = .zero true
  · rw [if_pos (by simpa using all), decide_eq_true all]
  · rw [if_neg (by simpa using all), decide_eq_false all]
    split <;> rfl

/-- The exact sum of the accumulator and the products, rounded once. -/
theorem mmaElem_real {c : MmaCmd} {acc : W} {i j : Nat} {r : ℝ} {v : Nat → ℝ} (first : IsReal (unpack (accFormat c) acc.toNat) r)
    (products : ∀ k, k < innerDim c.pair.toNat → IsReal (mmaTerm c i j k) (v k)) :
    let sum := r + ∑ k ∈ Finset.range (innerDim c.pair.toNat), v k
    (sum ≠ 0 → IsRound (accFormat c) ⟨.rne, 0⟩ (decide (sum < 0)) |sum| (mmaElem c acc i j)) ∧
      (sum = 0 → mmaElem c acc i j = ⟨if ∀ t ∈ mmaTerms c acc i j, t = .zero true then (accFormat c).signBit else 0, 0⟩) := by
  have real : List.Forall₂ IsReal (mmaTerms c acc i j) (r :: (List.range (innerDim c.pair.toNat)).map v) := by
    refine .cons first (List.forall₂_map_left_iff.mpr (List.forall₂_map_right_iff.mpr (List.forall₂_same.mpr fun k mem => ?_)))
    exact products k (List.mem_range.mp mem)
  have total : (r :: (List.range (innerDim c.pair.toNat)).map v).sum = r + ∑ k ∈ Finset.range (innerDim c.pair.toNat), v k := by
    rw [List.sum_cons, sum_map_range]
  obtain ⟨some_, none_⟩ := sumFp_real (accFormat_usual c) ⟨.rne, 0⟩ real
  rw [total] at some_ none_
  refine ⟨some_, fun zero => ?_⟩
  rw [mmaElem_eq, none_ zero, zeroResult_eq, zeroSign_nearest]
  simp only [decide_eq_true_eq]

/-! ### Products -/

theorem mulVal_isZero {p q : FpVal} {a b : ℝ} (hp : IsReal p a) (hq : IsReal q b) (n : Bool) : mulVal p q = .zero n ↔
    ((∃ b, p = .zero b) ∨ ∃ b, q = .zero b) ∧ (p.neg ^^ q.neg) = n := by
  cases p with
  | nan _ => exact hp.elim
  | inf _ => exact hp.elim
  | zero s => simp [(mulVal_zero hq s).1, FpVal.neg]
  | fin s m e => cases q with
    | nan _ => exact hq.elim
    | inf _ => exact hq.elim
    | zero s' => simp [(mulVal_zero hp s').2, FpVal.neg]
    | fin s' m' e' => simp [mulVal]

/-- When a product is a NaN, a signalling one, and an infinity (R147, R149). -/
theorem mulVal_isNan (p q : FpVal) : (∃ s, mulVal p q = .nan s) ↔ (∃ s, p = .nan s) ∨ (∃ s, q = .nan s) ∨
    ((∃ b, p = .zero b) ∧ ∃ b, q = .inf b) ∨ ((∃ b, p = .inf b) ∧ ∃ b, q = .zero b) := by
  cases p <;> cases q <;> simp [mulVal]

theorem mulVal_isSnan (p q : FpVal) : mulVal p q = .nan true ↔ p = .nan true ∨ q = .nan true ∨
    ((∃ b, p = .zero b) ∧ ∃ b, q = .inf b) ∨ ((∃ b, p = .inf b) ∧ ∃ b, q = .zero b) := by
  cases p <;> cases q <;> simp [mulVal, FpVal.isSnan, or_comm]

theorem mulVal_isInf (p q : FpVal) (n : Bool) : mulVal p q = .inf n ↔ ((∃ b, p = .inf b) ∨ ∃ b, q = .inf b) ∧
    (¬ ∃ s, p = .nan s) ∧ (¬ ∃ s, q = .nan s) ∧
    ¬ (((∃ b, p = .zero b) ∧ ∃ b, q = .inf b) ∨ ((∃ b, p = .inf b) ∧ ∃ b, q = .zero b)) ∧ (p.neg != q.neg) = n := by
  cases p <;> cases q <;> simp [mulVal, FpVal.neg]

theorem innerDim_eq (p : Nat) : innerDim p = if p = 0x30 then 8 else if p = 0x31 then 16 else if p = 0x36 then 64 else 32 := by
  unfold innerDim
  split
  · rfl
  · rfl
  · rfl
  · rename_i a b d
    rw [if_neg a, if_neg b, if_neg d]

theorem pair_eq_iff (c : MmaCmd) (k : BitVec 6) : c.pair = k ↔ c.pair.toNat = k.toNat := BitVec.toNat_inj.symm

section
variable {c : MmaCmd} {acc : W} {i j n : Nat} {f : FpFmt} (floats : c.pair ≠ 0x36) (dim : innerDim c.pair.toNat = n)
  (format : accFormat c = f)
include floats dim

theorem mmaTerm_floats (k : Nat) : mmaTerm c i j k = mulVal (elemA c (n * i + k)) (elemB c (n * j + k)) := by
  rw [mmaTerm, if_neg floats, dim]

include format

theorem mem_mmaTerms (t : FpVal) : t ∈ mmaTerms c acc i j ↔ unpack f acc.toNat = t ∨
    ∃ k, k < n ∧ mulVal (elemA c (n * i + k)) (elemB c (n * j + k)) = t := by
  rw [mmaTerms, List.mem_cons, List.mem_map, format, dim, eq_comm]
  simp only [List.mem_range, mmaTerm_floats floats dim]

/-- The sum of real products, and the zero of an exact sum of zero (R295). -/
theorem mmaElem_floats {r : ℝ} {p q : Nat → ℝ} (first : IsReal (unpack f acc.toNat) r)
    (real : ∀ k, k < n → IsReal (elemA c (n * i + k)) (p k) ∧ IsReal (elemB c (n * j + k)) (q k)) :
    let sum := r + ∑ k ∈ Finset.range n, p k * q k
    let negZero := unpack f acc.toNat = .zero true ∧ ∀ k, k < n →
      ((∃ b, elemA c (n * i + k) = .zero b) ∨ ∃ b, elemB c (n * j + k) = .zero b) ∧
        (elemA c (n * i + k)).neg ≠ (elemB c (n * j + k)).neg
    (sum ≠ 0 → IsRound f ⟨.rne, 0⟩ (decide (sum < 0)) |sum| (mmaElem c acc i j)) ∧
      (sum = 0 → (negZero → mmaElem c acc i j = ⟨f.signBit, 0⟩) ∧ (¬ negZero → mmaElem c acc i j = ⟨0, 0⟩)) := by
  intro sum negZero
  have products : ∀ k, k < innerDim c.pair.toNat → IsReal (mmaTerm c i j k) (p k * q k) := fun k inside => by
    obtain ⟨a, b⟩ := real k (dim ▸ inside)
    rw [mmaTerm_floats floats dim]
    exact isReal_mulVal a b
  obtain ⟨some_, none_⟩ := mmaElem_real (j := j) (format.symm ▸ first) products
  rw [dim, format] at some_ none_
  have all : (∀ t ∈ mmaTerms c acc i j, t = .zero true) ↔ negZero := by
    simp only [mem_mmaTerms floats dim format]
    refine ⟨fun h => ⟨h _ (.inl rfl), fun k inside => ?_⟩, fun ⟨a, ks⟩ t mem => ?_⟩
    · obtain ⟨a, b⟩ := real k inside
      have := (mulVal_isZero a b true).mp (h _ (.inr ⟨k, inside, rfl⟩))
      simpa using this
    · rcases mem with rfl | ⟨k, inside, rfl⟩
      · exact a
      · obtain ⟨a, b⟩ := real k inside
        exact (mulVal_isZero a b true).mpr (by simpa using ks k inside)
  refine ⟨some_, fun zero => ⟨fun neg => ?_, fun pos => ?_⟩⟩
  · rw [none_ zero, if_pos (all.mpr neg)]
  · rw [none_ zero, if_neg (mt all.mp pos)]

/-- The special values of R295. -/
theorem mmaElem_special :
    let a := unpack f acc.toNat
    let p (k : Nat) : FpVal := elemA c (n * i + k)
    let q (k : Nat) : FpVal := elemB c (n * j + k)
    let isNan (v : FpVal) : Prop := ∃ b, v = .nan b
    let isInf (v : FpVal) : Prop := ∃ b, v = .inf b
    let isZero (v : FpVal) : Prop := ∃ b, v = .zero b
    let zeroInf (k : Nat) : Prop := (isZero (p k) ∧ isInf (q k)) ∨ (isInf (p k) ∧ isZero (q k))
    let anyNan : Prop := isNan a ∨ ∃ k, k < n ∧ (isNan (p k) ∨ isNan (q k))
    let infinite (neg : Bool) : Prop := a = .inf neg ∨ ∃ k, k < n ∧ (isInf (p k) ∨ isInf (q k)) ∧ ¬ isNan (p k) ∧
      ¬ isNan (q k) ∧ ¬ zeroInf k ∧ ((p k).neg != (q k).neg) = neg
    let invalid : Prop := a = .nan true ∨ (∃ k, k < n ∧ (p k = .nan true ∨ q k = .nan true ∨ zeroInf k)) ∨
      (infinite false ∧ infinite true)
    (invalid → mmaElem c acc i j = ⟨f.nanBits, flagNV⟩) ∧ (¬ invalid → anyNan → mmaElem c acc i j = ⟨f.nanBits, 0⟩) ∧
    (¬ invalid → ¬ anyNan → ∀ neg, infinite neg →
      mmaElem c acc i j = ⟨f.infBits + if neg then f.signBit else 0, 0⟩) := by
  intro a p q isNan isInf isZero zeroInf anyNan infinite invalid
  have term := mem_mmaTerms (acc := acc) (i := i) (j := j) floats dim format
  have infs (neg : Bool) : .inf neg ∈ mmaTerms c acc i j ↔ infinite neg := by
    rw [term]
    simp only [mulVal_isInf]
    rfl
  have signalling : .nan true ∈ mmaTerms c acc i j ↔
      a = .nan true ∨ ∃ k, k < n ∧ (p k = .nan true ∨ q k = .nan true ∨ zeroInf k) := by
    rw [term]
    simp only [mulVal_isSnan]
    rfl
  have nan : (∃ s, .nan s ∈ mmaTerms c acc i j) ↔ anyNan ∨ ∃ k, k < n ∧ zeroInf k := by
    have product (k : Nat) := mulVal_isNan (p k) (q k)
    simp only [term]
    constructor
    · rintro ⟨s, first | ⟨k, inside, nan⟩⟩
      · exact .inl (.inl ⟨s, first⟩)
      · rcases (product k).mp ⟨s, nan⟩ with np | nq | zi
        · exact .inl (.inr ⟨k, inside, .inl np⟩)
        · exact .inl (.inr ⟨k, inside, .inr nq⟩)
        · exact .inr ⟨k, inside, zi⟩
    · rintro ((⟨s, first⟩ | ⟨k, inside, np | nq⟩) | ⟨k, inside, zi⟩)
      · exact ⟨s, .inl first⟩
      · obtain ⟨s, nan⟩ := (product k).mpr (.inl np)
        exact ⟨s, .inr ⟨k, inside, nan⟩⟩
      · obtain ⟨s, nan⟩ := (product k).mpr (.inr (.inl nq))
        exact ⟨s, .inr ⟨k, inside, nan⟩⟩
      · obtain ⟨s, nan⟩ := (product k).mpr (.inr (.inr zi))
        exact ⟨s, .inr ⟨k, inside, nan⟩⟩
  have invalid_iff : invalid ↔ .nan true ∈ mmaTerms c acc i j ∨ (.inf false ∈ mmaTerms c acc i j ∧ .inf true ∈ mmaTerms c acc i j) := by
    rw [signalling, infs, infs, or_assoc]
  rw [mmaElem_eq, format]
  refine ⟨fun bad => ?_, fun good any => ?_, fun good none_ neg inf => ?_⟩
  · rcases invalid_iff.mp bad with s | ⟨pos, neg⟩
    · exact sumFp_of_signalling s
    · exact sumFp_of_opposed pos neg
  · obtain ⟨quiet, same⟩ := not_or.mp (mt invalid_iff.mpr good)
    obtain ⟨s, mem⟩ := nan.mpr (.inl any)
    cases s with
    | true => exact absurd mem quiet
    | false => exact sumFp_of_quiet mem quiet same
  · obtain ⟨quiet, same⟩ := not_or.mp (mt invalid_iff.mpr good)
    have noNan : ∀ s, .nan s ∉ mmaTerms c acc i j := fun s mem => by
      rcases nan.mp ⟨s, mem⟩ with any | ⟨k, inside, zi⟩
      · exact none_ any
      · exact good (.inr (.inl ⟨k, inside, .inr (.inr zi)⟩))
    have here := (infs neg).mpr inf
    rw [sumFp_of_inf noNan here fun there => same (by cases neg <;> exact ⟨by assumption, by assumption⟩), infResult_eq]

end

/-! ### Nested integers on both sides (R151, R152) -/

section
variable {c : MmaCmd} {acc : W} {i j : Nat} (nested : c.pair = 0x36)
include nested

theorem mmaTerm_nested (k : Nat) : mmaTerm c i j k =
    (let v := nestedInt c.opA c.planes (64 * i + k) * nestedInt c.opB c.planes (64 * j + k)
     if v = 0 then .zero false else .fin (decide (v < 0)) v.natAbs
      (((c.scale.toNat % 256 + c.scale.toNat / 256 % 256 : ℕ) : Int) - 254 + (2 * (8 - c.planes) : ℕ))) := by
  obtain ⟨low, high⟩ := field_byte c.scale.toNat
  rw [mmaTerm, if_pos nested, low, high, nested]
  rfl

theorem accFormat_nested : accFormat c = fp32 := by rw [accFormat, nested]; rfl

/-- A NaN or an infinity in the accumulator stays. -/
theorem mmaElem_nested_special (b : Bool) :
    (unpack fp32 acc.toNat = .nan b → mmaElem c acc i j = ⟨fp32.nanBits, if b then flagNV else 0⟩) ∧
    (unpack fp32 acc.toNat = .inf b → mmaElem c acc i j = ⟨fp32.infBits + if b then fp32.signBit else 0, 0⟩) := by
  have plain (t : FpVal) (mem : t ∈ mmaTerms c acc i j) : t = unpack fp32 acc.toNat ∨ (∀ s, t ≠ .nan s) ∧ ∀ s, t ≠ .inf s := by
    rw [mmaTerms, accFormat_nested nested] at mem
    refine (List.mem_cons.mp mem).imp_right fun later => ?_
    obtain ⟨k, _, rfl⟩ := List.mem_map.mp later
    rw [mmaTerm_nested nested]
    dsimp only
    split <;> exact ⟨nofun, nofun⟩
  have first : unpack fp32 acc.toNat ∈ mmaTerms c acc i j := by rw [mmaTerms, accFormat_nested nested]; exact List.mem_cons_self ..
  rw [mmaElem_eq, accFormat_nested nested]
  refine ⟨fun nan => ?_, fun inf => ?_⟩
  · rw [nan] at first plain
    cases b with
    | true => exact sumFp_of_signalling first
    | false =>
      refine sumFp_of_quiet first (fun mem => ?_) fun ⟨mem, _⟩ => ?_
      · rcases plain _ mem with same | ⟨notNan, _⟩
        · cases same
        · exact notNan true rfl
      · rcases plain _ mem with same | ⟨_, notInf⟩
        · cases same
        · exact notInf false rfl
  · rw [inf] at first plain
    rw [sumFp_of_inf (fun s mem => ?_) first fun mem => ?_, infResult_eq]
    · rcases plain _ mem with same | ⟨notNan, _⟩
      · cases same
      · exact notNan s rfl
    · rcases plain _ mem with same | ⟨_, notInf⟩
      · cases b <;> cases same
      · exact notInf _ rfl

/-- The sum of nested products, rounded once. -/
theorem mmaElem_nested {r : ℝ} (planes : c.planes ≤ 8) (real : IsReal (unpack fp32 acc.toNat) r) :
    let e : ℤ := (c.scale.toNat % 256 : ℕ) + (c.scale.toNat / 256 % 256 : ℕ) - 254 + 2 * (8 - (c.planes : ℤ))
    let sum := r + (∑ k ∈ Finset.range 64, ((nestedInt c.opA c.planes (64 * i + k) * nestedInt c.opB c.planes (64 * j + k) : ℤ) : ℝ)) *
      (2 : ℝ) ^ e
    (sum ≠ 0 → IsRound fp32 ⟨.rne, 0⟩ (decide (sum < 0)) |sum| (mmaElem c acc i j)) ∧
      (sum = 0 → mmaElem c acc i j = ⟨0, 0⟩) := by
  intro e sum
  have exponent : (((c.scale.toNat % 256 + c.scale.toNat / 256 % 256 : ℕ) : ℤ) - 254 + (2 * (8 - c.planes) : ℕ)) = e := by
    simp only [e]
    omega
  have products : ∀ k, k < innerDim c.pair.toNat → IsReal (mmaTerm c i j k)
      (((nestedInt c.opA c.planes (64 * i + k) * nestedInt c.opB c.planes (64 * j + k) : ℤ) : ℝ) * (2 : ℝ) ^ e) := fun k _ => by
    rw [mmaTerm_nested nested, exponent]
    exact isReal_scaled ..
  have dim : innerDim c.pair.toNat = 64 := by rw [nested]; rfl
  obtain ⟨some_, none_⟩ := mmaElem_real (j := j) ((accFormat_nested nested).symm ▸ real) products
  rw [dim, accFormat_nested nested, ← Finset.sum_mul] at some_ none_
  refine ⟨some_, fun zero => ?_⟩
  rw [none_ zero, if_neg]
  intro all
  have term : mmaTerm c i j 0 ∈ mmaTerms c acc i j := by
    rw [mmaTerms, dim]
    exact List.mem_cons_of_mem _ (List.mem_map.mpr ⟨0, by simp, rfl⟩)
  have first := all _ term
  rw [mmaTerm_nested nested] at first
  dsimp only at first
  split at first <;> cases first

end

end Sys2Proof.Machine
end

section
/-!
PROOF. Matrix commands from their issue to their completion (R284, R286, R289, R294; O51).
-/
namespace Sys2Proof.Machine

/-! ### Issue (R294, R302) -/

/-- The state after a command has joined its array's queue. -/
def commandQueued (z : State) (pair t na nb : Nat) (scale : W) (planes : Nat) : State :=
  let core := agentOf z.turn
  let cl := clusterOf core
  let kc := coreOf z core
  let k := clusterAt z cl
  let l := leaseNow z.cur z.clock
  let cmd : MmaCmd :=
    ⟨z.turn, core, BitVec.ofNat 6 pair, t, na, nb, scale, planes, edgeOf z core t, kc.seq + 1, [], [], z.tick⟩
  let u := setCluster (setCore z core { kc with seq := kc.seq + 1, accepted := kc.accepted + 1 }) cl
    { k with cmdQ := k.cmdQ ++ [cmd] }
  let v : State := { u with cur := { u.cur with lease := { l with cmds := l.cmds - 1 } } }
  if l.cmds = 1 then releaseLease v v.turn else v

section
variable {i : Instr} {st : BitVec 3} {pair : Nat} {d a b : Sel} {c : Option Sel} {planes : Nat} {s s1 s2 z : State}
  {va vb scale : W} {na nb : Nat} (may : MayCommit s) (exchange : Gives exchangeWait s () s) (ra : Reads s a va s1)
  (rb : Reads s1 b vb s2) (rc : (c = none ∧ z = s2 ∧ scale = 0) ∨ ∃ f, c = some f ∧ Reads s2 f scale z)
  (named : Gives (namedTile i d.toNat) s (pair == 0x30) s) (touched : Gives (touchTile i d.toNat) z () z)
  (sa : Gives (claimedSlot va) z na z) (sb : Gives (claimedSlot vb) z nb z) (lease : holdsLease z = true)
  (room : (clusterAt z (clusterOf (agentOf z.turn))).cmdQ.length < 16)
include may exchange ra rb rc named touched sa sb lease room

theorem issueMma_run : issueMma i st pair d a b c planes s =
    .ok ((), committed st (commandQueued z pair d.toNat na nb scale planes)) := by
  unfold issueMma
  refine (bind_of_gives named).trans ?_
  rw [if_neg (by simp)]
  refine (bind_of_gives (commitPlace_run i may)).trans ((bind_of_gives exchange).trans ((bind_of_gives ra).trans
    ((bind_of_gives rb).trans ?_)))
  have rest : (do
      touchTile i d.toNat
      let sa ← claimedSlot va
      let sb ← claimedSlot vb
      let s ← get
      if !holdsLease s then requestAndWait
      if 16 ≤ (clusterAt s (clusterOf (agentOf s.turn))).cmdQ.length then waitHere
      set (commandQueued s pair d.toNat sa sb scale planes)
      finishCommit st : Op Unit) z = .ok ((), committed st (commandQueued z pair d.toNat na nb scale planes)) := by
    refine (bind_of_gives touched).trans ((bind_of_gives sa).trans ((bind_of_gives sb).trans ((bind_of_gives (get_run z)).trans ?_)))
    rw [lease, if_neg (by decide), if_neg (by omega)]
    rfl
  rcases rc with ⟨rfl, rfl, rfl⟩ | ⟨f, rfl, read⟩
  · exact (bind_of_gives (pure_run ..)).trans rest
  · exact (bind_of_gives read).trans rest

end

/-! ### Start (R284, R304) -/

theorem commandStart_idle {cl : Nat} {s : State} (idle : (clusterAt s cl).running ≠ none ∨ (clusterAt s cl).cmdQ = []) :
    exec (.mmaCommandStart cl) s = .next s := by
  have eq : exec (.mmaCommandStart cl) s = execMmaCommandStart cl s := rfl
  rw [eq, execMmaCommandStart]
  dsimp only
  split
  next free queue =>
    rcases idle with busy | empty
    · exact absurd free busy
    · rw [empty] at queue
      cases queue
  next => rfl

theorem commandStart_run {cl : Nat} {s : State} {c : MmaCmd} {cs : List MmaCmd} (free : (clusterAt s cl).running = none)
    (queue : (clusterAt s cl).cmdQ = c :: cs) : exec (.mmaCommandStart cl) s = .next (setCluster s cl { clusterAt s cl with
      cmdQ := cs
      running := some { c with
        opA := slotBytes (clusterAt s cl) cl (freeStamp s) c.slotA
        opB := slotBytes (clusterAt s cl) cl (freeStamp s) c.slotB
        time := s.tick + if c.pair = 0x36 then (if 5 ≤ c.planes then 4 else 1) else 8 } }) := by
  have cycles : commandCycles c.pair.toNat c.planes = if c.pair = 0x36 then (if 5 ≤ c.planes then 4 else 1) else 8 :=
    if_congr (pair_eq_iff c 0x36).symm rfl rfl
  have eq : exec (.mmaCommandStart cl) s = execMmaCommandStart cl s := rfl
  rw [eq, execMmaCommandStart, ← cycles]
  simp only [free, queue]
  rfl

/-- A byte of an operand slot that holds no uncorrectable data. -/
theorem slotBytes_good (k : Cluster) (cl stamp n : Nat) {i : Nat} (inside : i < 2048)
    (good : mapFind k.opoison ((n * 2048 + i) / 8) = none) : (slotBytes k cl stamp n)[i]? = some (memGet k.omem (n * 2048 + i)) := by
  rw [slotBytes, List.getElem?_map, List.getElem?_range inside]
  simp [good]

/-! ### Completion (R294, R300) -/

/-- A map after a list of writes with different keys. -/
theorem mapGet_foldl_putOrDel {n : Nat} (es : List (Nat × BitVec n)) (m : AMap (BitVec n)) (key : Nat → Nat)
    (distinct : (es.map fun e => key e.1).Nodup) :
    let t := es.foldl (fun m e => putOrDel m (key e.1) e.2) m
    (∀ e ∈ es, mapGet 0 t (key e.1) = e.2) ∧ ∀ y, (∀ e ∈ es, key e.1 ≠ y) → mapGet 0 t y = mapGet 0 m y := by
  induction es generalizing m with
  | nil => exact ⟨nofun, fun _ _ => rfl⟩
  | cons e es ih =>
    obtain ⟨fresh, rest⟩ := List.nodup_cons.mp distinct
    obtain ⟨written, others⟩ := ih (putOrDel m (key e.1) e.2) rest
    refine ⟨List.forall_mem_cons.mpr ⟨?_, written⟩, fun y free => ?_⟩
    · refine (others _ fun e' mem same => fresh (List.mem_map.mpr ⟨e', mem, same⟩)).trans ?_
      rw [mapGet_putOrDel, if_pos rfl]
    · obtain ⟨here, later⟩ := List.forall_mem_cons.mp free
      exact (others y later).trans (by rw [mapGet_putOrDel, if_neg here.symm])

/-- Elements written, each once. -/
theorem tiles_setElems (s : State) (core t : Nat) {es : List (Nat × W)} (distinct : (es.map Prod.fst).Nodup) :
    (∀ e ∈ es, mapGet 0 (coreOf (setElems s core t es) core).tiles (tileKey t e.1) = e.2) ∧
      ∀ y, (∀ e ∈ es, tileKey t e.1 ≠ y) →
        mapGet 0 (coreOf (setElems s core t es) core).tiles y = mapGet 0 (coreOf s core).tiles y := by
  rw [setElems, coreOf_setCore_self]
  refine mapGet_foldl_putOrDel es _ (tileKey t) ?_
  have eq : (es.map fun e => tileKey t e.1) = (es.map Prod.fst).map (tileKey t) := by rw [List.map_map]; rfl
  rw [eq]
  exact distinct.map fun x y same => by unfold tileKey at same; omega

/-- The flags reach the slot, and of memory only a pool may change with them. -/
theorem orFlags_eq (s : State) (h : HartId) (fl : BitVec 5) : ∃ pools poisoned, orFlags s h fl =
    { setSlot s h { slotOf s h with fpflags := (slotOf s h).fpflags ||| fl } with pools := pools, poolPoison := poisoned } := by
  unfold orFlags
  dsimp only
  split
  · exact ⟨_, _, rfl⟩
  · exact ⟨_, _, rfl⟩

theorem coreOf_orFlags (s : State) (h : HartId) (fl : BitVec 5) (core : Nat) :
    coreOf (orFlags s h fl) core = coreOf s core := by
  obtain ⟨pools, poisoned, eq⟩ := orFlags_eq s h fl
  simp [eq, coreOf]

theorem mem_orFlags (s : State) (h : HartId) (fl : BitVec 5) : (orFlags s h fl).mem = s.mem := by
  obtain ⟨pools, poisoned, eq⟩ := orFlags_eq s h fl
  simp [eq]

theorem fpflags_orFlags (s : State) (h : HartId) (fl : BitVec 5) :
    (slotOf (orFlags s h fl) h).fpflags = (slotOf s h).fpflags ||| fl := by
  obtain ⟨pools, poisoned, eq⟩ := orFlags_eq s h fl
  have same := slotOf_of_eq (t := orFlags s h fl)
    (s := setSlot s h { slotOf s h with fpflags := (slotOf s h).fpflags ||| fl }) (by rw [eq]) (by rw [eq]) (by rw [eq]) h
  rw [same, slotOf_setSlot_self]

/-- The lower bounds of the edge fields (R300). -/
theorem withinEdge_iff (c : MmaCmd) (i j : Nat) : withinEdge c i j = true ↔
    i < 32 - (c.edge.extractLsb' 0 5).toNat ∧ j < 32 - (c.edge.extractLsb' 8 5).toNat := by
  simp only [withinEdge, Bool.and_eq_true, field, Nat.shiftRight_eq_div_pow, BitVec.extractLsb'_toNat]
  exact and_congr decide_eq_true_iff decide_eq_true_iff

theorem mem_mmaResults {s : State} {c : MmaCmd} {e : Nat × FpResult} : e ∈ mmaResults s c ↔ e.1 < 1024 ∧
    withinEdge c (e.1 / 32) (e.1 % 32) = true ∧ e.2 = mmaElem c (tileElem s c.core c.tile e.1) (e.1 / 32) (e.1 % 32) := by
  obtain ⟨x, r⟩ := e
  simp only [mmaResults, List.mem_filterMap, List.mem_range, Option.ite_none_right_eq_some, Option.some_inj, Prod.mk.injEq]
  constructor
  · rintro ⟨y, inside, within, rfl, rfl⟩
    exact ⟨inside, within, rfl⟩
  · rintro ⟨inside, within, rfl⟩
    exact ⟨x, inside, within, rfl, rfl⟩

theorem mmaResults_distinct (s : State) (c : MmaCmd) : ((mmaResults s c).map Prod.fst).Nodup := by
  have eq : (mmaResults s c).map Prod.fst = (List.range 1024).filter fun x => withinEdge c (x / 32) (x % 32) := by
    rw [mmaResults, List.map_filterMap, ← List.filterMap_eq_filter]
    refine List.filterMap_congr fun x _ => ?_
    by_cases within : withinEdge c (x / 32) (x % 32) = true <;> simp [within, Option.guard]
  rw [eq]
  exact List.nodup_range.filter _

/-- A bit of the OR of a list of flags. -/
theorem getLsbD_foldl_or (l : List (BitVec 5)) (f : BitVec 5) (b : Nat) :
    (l.foldl (· ||| ·) f).getLsbD b = true ↔ f.getLsbD b = true ∨ ∃ g ∈ l, g.getLsbD b = true := by
  induction l generalizing f with
  | nil => simp
  | cons g l ih => simp [ih, or_assoc]

theorem commandComplete_idle {cl : Nat} {s : State} (idle : (clusterAt s cl).running = none) :
    exec (.mmaCommandComplete cl) s = .next s := by
  have eq : exec (.mmaCommandComplete cl) s = execMmaCommandComplete cl s := rfl
  rw [eq, execMmaCommandComplete]
  simp only [idle]
  rfl

/-- The state after a command's results and flags are written. -/
def commandWritten (s : State) (c : MmaCmd) : State :=
  orFlags (setElems s c.core c.tile ((mmaResults s c).map fun r => (r.1, w64 r.2.bits))) c.h
    (((mmaResults s c).map fun r => r.2.flags).foldl (· ||| ·) 0)

theorem commandComplete_run {cl : Nat} {s : State} {c : MmaCmd} (running : (clusterAt s cl).running = some c) :
    exec (.mmaCommandComplete cl) s =
      .next (setCluster (commandWritten s c) cl { clusterAt (commandWritten s c) cl with running := none }) := by
  have eq : exec (.mmaCommandComplete cl) s = execMmaCommandComplete cl s := rfl
  rw [eq, execMmaCommandComplete]
  simp only [running]
  rfl

/-- What a completion writes: the elements within the edge, and the flags (R294). -/
theorem commandComplete_writes {cl : Nat} {s : State} {c : MmaCmd} (running : (clusterAt s cl).running = some c) :
    ∃ t, exec (.mmaCommandComplete cl) s = .next t ∧ (clusterAt t cl).running = none ∧ t.mem = s.mem ∧
    (∀ i j, i < 32 → j < 32 → tileElem t c.core c.tile (32 * i + j) =
      if i < 32 - (c.edge.extractLsb' 0 5).toNat ∧ j < 32 - (c.edge.extractLsb' 8 5).toNat then
        BitVec.ofNat 64 (mmaElem c (tileElem s c.core c.tile (32 * i + j)) i j).bits
      else tileElem s c.core c.tile (32 * i + j)) ∧
    (∀ tile x, x < 1024 → tile ≠ c.tile → tileElem t c.core tile x = tileElem s c.core tile x) ∧
    (coreOf t c.core).edges = (coreOf s c.core).edges ∧
    ∀ b, b < 5 → ((slotOf t c.h).fpflags.getLsbD b = true ↔ (slotOf s c.h).fpflags.getLsbD b = true ∨
      ∃ i j, i < 32 - (c.edge.extractLsb' 0 5).toNat ∧ j < 32 - (c.edge.extractLsb' 8 5).toNat ∧
        (mmaElem c (tileElem s c.core c.tile (32 * i + j)) i j).flags.getLsbD b = true) := by
  have distinct : (((mmaResults s c).map fun r => (r.1, w64 r.2.bits)).map Prod.fst).Nodup := by
    rw [List.map_map]
    exact mmaResults_distinct s c
  obtain ⟨written, others⟩ := tiles_setElems s c.core c.tile distinct
  have core : coreOf (setCluster (commandWritten s c) cl { clusterAt (commandWritten s c) cl with running := none }) c.core =
      coreOf (setElems s c.core c.tile ((mmaResults s c).map fun r => (r.1, w64 r.2.bits))) c.core := coreOf_orFlags ..
  refine ⟨_, commandComplete_run running, by rw [clusterAt_setCluster_self], mem_orFlags .., fun i j hi hj => ?_,
    fun tile x inside other => ?_, ?_, fun b _ => ?_⟩
  · have row : (32 * i + j) / 32 = i ∧ (32 * i + j) % 32 = j := by omega
    rw [tileElem, core]
    split
    next within =>
      refine written (32 * i + j, _) (List.mem_map.mpr
        ⟨(32 * i + j, mmaElem c (tileElem s c.core c.tile (32 * i + j)) i j), mem_mmaResults.mpr ⟨?_, ?_, ?_⟩, rfl⟩)
      · change 32 * i + j < 1024
        omega
      · rw [row.1, row.2]
        exact (withinEdge_iff c i j).mpr within
      · rw [row.1, row.2]
    next outside =>
      refine others _ fun e mem same => outside ?_
      obtain ⟨r, result, rfl⟩ := List.mem_map.mp mem
      obtain ⟨_, within, _⟩ := mem_mmaResults.mp result
      have here : r.1 = 32 * i + j := by
        unfold tileKey at same
        exact Nat.add_left_cancel same
      rw [here, row.1, row.2] at within
      exact (withinEdge_iff c i j).mp within
  · rw [tileElem, core]
    refine others _ fun e mem same => other ?_
    obtain ⟨r, result, rfl⟩ := List.mem_map.mp mem
    obtain ⟨low, _⟩ := mem_mmaResults.mp result
    unfold tileKey at same
    dsimp only at same
    omega
  · rw [core, setElems, coreOf_setCore_self]
  · have flags : (slotOf (setCluster (commandWritten s c) cl { clusterAt (commandWritten s c) cl with running := none }) c.h).fpflags =
        (slotOf s c.h).fpflags ||| ((mmaResults s c).map fun r => r.2.flags).foldl (· ||| ·) 0 := fpflags_orFlags ..
    rw [flags, BitVec.getLsbD_or, Bool.or_eq_true, getLsbD_foldl_or]
    have none : (0 : BitVec 5).getLsbD b = false := BitVec.getLsbD_zero
    rw [none, or_iff_right Bool.false_ne_true]
    simp only [List.mem_map]
    refine or_congr_right ⟨?_, ?_⟩
    · rintro ⟨_, ⟨r, result, rfl⟩, set⟩
      obtain ⟨low, within, value⟩ := mem_mmaResults.mp result
      have whole : 32 * (r.1 / 32) + r.1 % 32 = r.1 := Nat.div_add_mod ..
      obtain ⟨hi, hj⟩ := (withinEdge_iff ..).mp within
      exact ⟨r.1 / 32, r.1 % 32, hi, hj, by rw [whole, ← value]; exact set⟩
    · rintro ⟨i, j, hi, hj, set⟩
      have row : (32 * i + j) / 32 = i ∧ (32 * i + j) % 32 = j := by omega
      refine ⟨_, ⟨(32 * i + j, mmaElem c (tileElem s c.core c.tile (32 * i + j)) i j), mem_mmaResults.mpr ⟨?_, ?_, ?_⟩, rfl⟩, set⟩
      · change 32 * i + j < 1024
        omega
      · rw [row.1, row.2]
        exact (withinEdge_iff ..).mpr ⟨hi, hj⟩
      · rw [row.1, row.2]

end Sys2Proof.Machine
end

section
/-!
PROOF. Tiles stored and loaded (R298, R299, R447; O51).
-/
namespace Sys2Proof.Machine

/-! ### A list of operations, one after another -/

section
variable {α β : Type}

theorem forM_gives {f : α → Op Unit} (l : List α) {st : Nat → State}
    (each : ∀ i (inside : i < l.length), Gives (f l[i]) (st i) () (st (i + 1))) : Gives (l.forM f) (st 0) () (st l.length) := by
  induction l generalizing st with
  | nil => rfl
  | cons a l ih =>
    exact (bind_of_gives (each 0 (Nat.succ_pos _))).trans (ih (st := fun i => st (i + 1)) fun i inside =>
      each (i + 1) (Nat.succ_lt_succ inside))

theorem mapM_gives {f : α → Op β} (l : List α) {st : Nat → State} {v : Nat → β}
    (each : ∀ i (inside : i < l.length), Gives (f l[i]) (st i) (v i) (st (i + 1))) :
    Gives (l.mapM f) (st 0) ((List.range l.length).map v) (st l.length) := by
  induction l generalizing st v with
  | nil => rfl
  | cons a l ih =>
    rw [List.mapM_cons, List.length_cons, List.range_succ_eq_map, List.map_cons, List.map_map]
    exact (bind_of_gives (each 0 (Nat.succ_pos _))).trans ((bind_of_gives (ih (st := fun i => st (i + 1)) (v := fun i => v (i + 1))
      fun i inside => each (i + 1) (Nat.succ_lt_succ inside))).trans (pure_run ..))

/-- Operations that leave the state as it is. -/
theorem mapM_same {f : α → Op β} {s : State} {v : α → β} (l : List α) (each : ∀ a ∈ l, Gives (f a) s (v a) s) :
    Gives (l.mapM f) s (l.map v) s := by
  induction l with
  | nil => rfl
  | cons a l ih =>
    obtain ⟨first, rest⟩ := List.forall_mem_cons.mp each
    rw [List.mapM_cons]
    exact (bind_of_gives first).trans ((bind_of_gives (ih rest)).trans (pure_run ..))

theorem forM_range_gives {n : Nat} {st : Nat → State} {f : Nat → Op Unit}
    (each : ∀ i, i < n → Gives (f i) (st i) () (st (i + 1))) : Gives ((List.range n).forM f) (st 0) () (st n) := by
  have all := forM_gives (f := f) (List.range n) (st := st) fun i inside => by
    rw [List.getElem_range]
    exact each i (by simpa using inside)
  rwa [List.length_range] at all

theorem mapM_range_gives {n : Nat} {st : Nat → State} {f : Nat → Op β} {v : Nat → β}
    (each : ∀ i, i < n → Gives (f i) (st i) (v i) (st (i + 1))) : Gives ((List.range n).mapM f) (st 0) ((List.range n).map v) (st n) := by
  have all := mapM_gives (f := f) (List.range n) (st := st) (v := v) fun i inside => by
    rw [List.getElem_range]
    exact each i (by simpa using inside)
  rwa [List.length_range] at all

end

/-- Part of a list given by its places. -/
theorem take_drop_map_range {α : Type} (f : Nat → α) {a k n : Nat} (le : a + k ≤ n) :
    (((List.range n).map f).drop a).take k = (List.range k).map fun j => f (a + j) := by
  refine List.ext_getElem (by simp; omega) fun i hi hi' => ?_
  simp

/-! ### The checks of a block (R298) -/

theorem onlyLooks_forM {α : Type} {f : α → Op Unit} (looks : ∀ a, OnlyLooks (f a)) (l : List α) : OnlyLooks (l.forM f) := by
  induction l with
  | nil => exact onlyLooks_pure ()
  | cons a l ih =>
    exact onlyLooks_bind (looks a) fun _ => ih

theorem onlyLooks_checkRows (kind : Nat) (want : Want) (a b : W) (n align : Nat) :
    OnlyLooks (checkRows kind want a b n align) :=
  onlyLooks_bind (onlyLooks_require ..) fun _ => onlyLooks_bind (onlyLooks_require ..) fun _ =>
    onlyLooks_bind (onlyLooks_require ..) fun _ => onlyLooks_forM (fun _ => onlyLooks_bind (onlyLooks_checkAccess ..) fun _ =>
      onlyLooks_bind (onlyLooks_checkAccess ..) fun _ => onlyLooks_pure _) _

theorem turn_of_checkRows {kind : Nat} {want : Want} {a b : W} {n align : Nat} {s t : State}
    (h : Gives (checkRows kind want a b n align) s () t) : t.turn = s.turn := by
  obtain ⟨events, rfl⟩ := (onlyLooks_checkRows ..).same _ _ _ h
  rfl

/-! ### AST (R298) -/

theorem fourCodes (f : BitVec 2) : f = 0 ∨ f = 1 ∨ f = 2 ∨ f = 3 := by
  revert f
  decide

theorem astFormat_eq (z : Bool) (f : BitVec 2) : astFormat z f =
    if f = 0 then (if z then fp64 else fp32) else if f = 1 then fp32 else if f = 2 then bf16 else fp16 := by
  rcases fourCodes f with rfl | rfl | rfl | rfl <;> rfl

section
variable {x : Ast} {s s1 s2 s3 : State} {a b : W} {z : Bool} {rd : Nat → Rounding} {st : Nat → State} {src dst : FpFmt} {n : Nat}
  {res : Nat → FpResult} {flags : BitVec 5} (named : Gives (namedTile (.ast x) x.tile.toNat) s z s) (ra : Reads s x.a a s1)
  (rb : Reads s1 x.b b s2) (used : Gives (useTile (.ast x) x.tile.toNat) s2 () s2) (source : src = if z then fp64 else fp32)
  (format : dst = astFormat z x.fmt) (size : n = dst.width / 8) (checks : Gives (checkRows 1 .write a b (32 * n) n) s2 () s3)
  (modes : ∀ i, i < 1024 → Gives (roundingFor i) s3 (rd i) s3)
  (results : ∀ i, res i = astElem src dst (rd i) (tileElem s3 (agentOf s2.turn) x.tile.toNat i))
  (raised : ∀ k, k < 5 → (flags.getLsbD k = true ↔ ∃ i, i < 1024 ∧ (res i).flags.getLsbD k = true))
include named ra rb used source format size checks modes results raised

/-- What AST does until it raises its flags. -/
theorem ast_converts {out : Except Stop (Unit × State)} (rest : (do
      raiseFlags (wordOf (.ast x)) 0 flags
      (List.range 32).forM fun i =>
        storeSpan (rowAddress a b i) (((((List.range 1024).map res).drop (32 * i)).take 32).map fun e => natBytes n e.bits).flatten
      modify countSpill
      finish x.st : Op Unit) s3 = out) : ∃ op : Op Unit, exec (.ast x) = runOp op ∧ op s = out := by
  refine ⟨_, rfl, (bind_of_gives named).trans ((bind_of_gives ra).trans ((bind_of_gives rb).trans ((bind_of_gives used).trans ?_)))⟩
  subst source format size
  refine (bind_of_gives checks).trans ((bind_of_gives (curAgent_run s3)).trans ?_)
  rw [turn_of_checkRows checks]
  have converts : Gives ((List.range 1024).mapM fun i => (do
      let r ← roundingFor i
      return astElem (if z then fp64 else fp32) (astFormat z x.fmt) r (tileElem (← get) (agentOf s2.turn) x.tile.toNat i) :
      Op FpResult)) s3 ((List.range 1024).map res) s3 :=
    mapM_range_gives (st := fun _ => s3) fun i hi => (bind_of_gives (modes i hi)).trans (congrArg (fun r => Except.ok (r, s3)) (results i).symm)
  have all : (((List.range 1024).map res).map (·.flags)).foldl (· ||| ·) 0 = flags := by
    refine BitVec.eq_of_getLsbD_eq fun k hk => Bool.eq_iff_iff.mpr ?_
    have none : (0 : BitVec 5).getLsbD k = false := BitVec.getLsbD_zero
    rw [getLsbD_foldl_or, raised k hk, none, or_iff_right Bool.false_ne_true]
    simp
  refine (bind_of_gives converts).trans ?_
  rw [all]
  exact rest

theorem ast_traps (enabled : flags &&& s3.cur.fpte ≠ 0) (settled : s.cur.launches = 0) : ∃ w : Word32,
    encode (.ast x) = some w ∧ exec (.ast x) s =
      .next (trapped .fp (w ++ (0 : BitVec 19) ++ (flags &&& s3.cur.fpte) ++ (0 : BitVec 3) ++ flags) s) := by
  obtain ⟨w, word⟩ : ∃ w : Word32, encode (.ast x) = some w := ⟨_, rfl⟩
  obtain ⟨op, meaning, run⟩ := ast_converts named ra rb used source format size checks modes results raised
    (out := .error (.trap .fp (fpInfo w.toNat (flags &&& s3.cur.fpte) flags))) (by
      refine bind_of_error ?_
      have number : wordOf (.ast x) = w.toNat := by simp [wordOf, word]
      rw [raiseFlags, bind_of_gives (get_run s3), number]
      exact bind_of_error (require_false (by simpa using enabled) ..))
  refine ⟨w, word, ?_⟩
  rw [← fpInfo_eq, meaning]
  exact runOp_trapped settled run

theorem ast_stores (quiet : flags &&& s3.cur.fpte = 0) (first : st 0 = { s3 with cur := addFlags s3.cur s3.tick s3.tick flags })
    (rows : ∀ i, i < 32 → Gives (storeSpan (a + BitVec.ofNat 64 i * b)
      ((List.range 32).flatMap fun j => natBytes n (res (32 * i + j)).bits)) (st i) () (st (i + 1))) :
    exec (.ast x) s = .next (issued x.st (countSpill (st 32))) := by
  obtain ⟨op, meaning, run⟩ := ast_converts named ra rb used source format size checks modes results raised
    (out := .ok ((), issued x.st (countSpill (st 32)))) (by
      have raises : raiseFlags (wordOf (.ast x)) 0 flags s3 = .ok ((), st 0) := by
        rw [raiseFlags, bind_of_gives (get_run s3), first]
        exact bind_of_gives (require_true (by simpa using quiet) ..)
      refine (bind_of_gives raises).trans ?_
      have stores := forM_range_gives (n := 32) (st := st) (f := fun i => storeSpan (rowAddress a b i)
        (((((List.range 1024).map res).drop (32 * i)).take 32).map fun e => natBytes n e.bits).flatten) (fun i hi => by
          have part : (((((List.range 1024).map res).drop (32 * i)).take 32).map fun e => natBytes n e.bits).flatten =
              (List.range 32).flatMap fun j => natBytes n (res (32 * i + j)).bits := by
            rw [take_drop_map_range res (by omega), List.map_map, List.flatMap_def]
            rfl
          simp only [part]
          exact rows i hi)
      exact (bind_of_gives stores).trans ((bind_of_gives (modify_run ..)).trans (finish_run ..)))
  rw [meaning]
  exact runOp_ok run

end

/-! ### ALD (R299) -/

/-- A core with other elements in its tiles. -/
def tilesSet (s : State) (core : Nat) (tiles : AMap (BitVec 64)) : State :=
  setCore s core { coreOf s core with tiles := tiles }

theorem tilesSet_tilesSet (s : State) (core : Nat) (m m' : AMap (BitVec 64)) :
    tilesSet (tilesSet s core m) core m' = tilesSet s core m' := by
  simp only [tilesSet, coreOf_setCore_self]
  simp only [setCore, mapPut_mapPut_self]

theorem tiles_tilesSet (s : State) (core : Nat) (m : AMap (BitVec 64)) : (coreOf (tilesSet s core m) core).tiles = m := by
  rw [tilesSet, coreOf_setCore_self]

/-- Loaded units over the bytes of a row. -/
def rowOver (us : List (Nat × Nat × Option (List Byte))) (old : List Byte) : List Byte :=
  us.foldl (fun bs u => bs.take u.1 ++ u.2.2.getD [] ++ bs.drop (u.1 + (u.2.2.getD []).length)) old

/-- The bytes of a row of a tile. -/
def rowBytes (s : State) (core t n i : Nat) : List Byte :=
  (List.range 32).flatMap fun j => natBytes n (tileElem s core t (32 * i + j)).toNat

/-- A row of a tile after a load. -/
def rowLoaded (core t n i : Nat) (us : List (Nat × Nat × Option (List Byte))) (s : State) : State :=
  setElems s core t ((List.range 32).map fun j =>
    (32 * i + j, leWord (((rowOver us (rowBytes s core t n i)).drop (n * j)).take n)))

section
variable {core t n : Nat} (us : Nat → List (Nat × Nat × Option (List Byte)))

/-- The rows of a tile after the loads of the first of them. -/
def rowsLoaded (core t n : Nat) (us : Nat → List (Nat × Nat × Option (List Byte))) (s : State) : Nat → State
  | 0 => s
  | k + 1 => rowLoaded core t n k (us k) (rowsLoaded core t n us s k)

theorem foldl_rowLoaded (s : State) (k : Nat) :
    (List.range k).foldl (fun s i => rowLoaded core t n i (us i) s) s = rowsLoaded core t n us s k := by
  induction k with
  | zero => rfl
  | succ k ih => rw [List.range_succ, List.foldl_append, ih]; rfl

theorem rowsLoaded_eq (s : State) (k : Nat) : rowsLoaded core t n us s (k + 1) =
    tilesSet s core (coreOf (rowsLoaded core t n us s (k + 1)) core).tiles := by
  have step (u : State) (i : Nat) : rowLoaded core t n i (us i) u =
      tilesSet u core (coreOf (rowLoaded core t n i (us i) u) core).tiles := by
    rw [rowLoaded, setElems, coreOf_setCore_self]
    rfl
  induction k with
  | zero => exact step s 0
  | succ k ih =>
    rw [rowsLoaded, step]
    conv_lhs => arg 1; rw [ih]
    rw [tilesSet_tilesSet, tiles_tilesSet]

/-- A row's load gives the elements of that row and leaves the others. -/
theorem tiles_rowLoaded (s : State) (i : Nat) (w : List (Nat × Nat × Option (List Byte))) :
    (∀ j, j < 32 → tileElem (rowLoaded core t n i w s) core t (32 * i + j) =
      leWord (((rowOver w (rowBytes s core t n i)).drop (n * j)).take n)) ∧
    ∀ y, (∀ j, j < 32 → y ≠ tileKey t (32 * i + j)) →
      mapGet 0 (coreOf (rowLoaded core t n i w s) core).tiles y = mapGet 0 (coreOf s core).tiles y := by
  have distinct : (((List.range 32).map fun j =>
      (32 * i + j, leWord (((rowOver w (rowBytes s core t n i)).drop (n * j)).take n))).map Prod.fst).Nodup := by
    rw [List.map_map]
    exact List.nodup_range.map fun x y same => by simpa using same
  obtain ⟨written, others⟩ := tiles_setElems s core t distinct
  refine ⟨fun j hj => written _ (List.mem_map.mpr ⟨j, List.mem_range.mpr hj, rfl⟩), fun y free => others y fun e mem => ?_⟩
  obtain ⟨j, hj, rfl⟩ := List.mem_map.mp mem
  exact (free j (List.mem_range.mp hj)).symm

theorem tiles_rowsLoaded (s : State) (k : Nat) (le : k ≤ 32) :
    (∀ i j, i < k → j < 32 → tileElem (rowsLoaded core t n us s k) core t (32 * i + j) =
      leWord (((rowOver (us i) (rowBytes s core t n i)).drop (n * j)).take n)) ∧
    ∀ y, (∀ i j, i < k → j < 32 → y ≠ tileKey t (32 * i + j)) →
      mapGet 0 (coreOf (rowsLoaded core t n us s k) core).tiles y = mapGet 0 (coreOf s core).tiles y := by
  induction k with
  | zero => exact ⟨nofun, fun _ _ => rfl⟩
  | succ k ih =>
    obtain ⟨written, others⟩ := ih (by omega)
    obtain ⟨row, rest⟩ := tiles_rowLoaded (core := core) (t := t) (n := n) (rowsLoaded core t n us s k) k (us k)
    refine ⟨fun i j hi hj => ?_, fun y free => ?_⟩
    · rcases Nat.lt_succ_iff_lt_or_eq.mp hi with before | rfl
      · refine (rest _ fun j' hj' same => ?_).trans (written i j before hj)
        unfold tileKey at same
        omega
      · have old : rowBytes (rowsLoaded core t n us s i) core t n i = rowBytes s core t n i := by
          refine List.flatMap_congr fun j' hj' => ?_
          have keeps : tileElem (rowsLoaded core t n us s i) core t (32 * i + j') = tileElem s core t (32 * i + j') :=
            others _ fun i' j hi' hj same => by
              unfold tileKey at same
              have := List.mem_range.mp hj'
              omega
          rw [keeps]
        rw [rowsLoaded, row j hj, old]
    · exact (rest y fun j hj => free k j (by omega) hj).trans (others y fun i j hi hj => free i j (by omega) hj)

end

/-- A row that ALD loads without a fault, as the model writes it. -/
def aldRow (core t n : Nat) (s : State) (q : List (Nat × Nat × Option (List Byte)) × Nat) : State :=
  let us := goodUnits (freeStamp s) false (32 * n * q.2) q.1
  let old := ((List.range 32).map fun j => wordBytes n (tileElem s core t (32 * q.2 + j))).flatten
  setElems s core t ((List.range 32).map fun j => (32 * q.2 + j, leWord (slice (patchRow old us) (n * j) n)))

section
variable {x : RRR} {s s1 s2 : State} {a b : W} {z : Bool} {n : Nat} {st : Nat → State}
  {us : Nat → List (Nat × Nat × Option (List Byte))} (named : Gives (namedTile (.ald x) x.d.toNat) s z s)
  (exchange : Gives exchangeWait s () s) (ra : Reads s x.a a s1) (rb : Reads s1 x.b b s2)
  (used : Gives (useTile (.ald x) x.d.toNat) s2 () s2) (size : n = if z then 8 else 4)
  (checks : Gives (checkRows 0 .read a b (32 * n) n) s2 () (st 0))
  (loads : ∀ i, i < 32 → Gives (loadUnits (a + BitVec.ofNat 64 i * b) (32 * n)) (st i) (us i) (st (i + 1)))
  (whole : ∀ i, i < 32 → ∀ u ∈ us i, u.2.2 ≠ none)
include named exchange ra rb used size checks loads whole

theorem ald_run : exec (.ald x) s =
    .next (issued x.st (rowsLoaded (agentOf s2.turn) x.d.toNat n us (st 32) 32)) := by
  refine runOp_ok (u := ()) ((bind_of_gives named).trans ((bind_of_gives exchange).trans ((bind_of_gives ra).trans
    ((bind_of_gives rb).trans ((bind_of_gives used).trans ?_)))))
  subst size
  refine (bind_of_gives checks).trans ((bind_of_gives (curAgent_run (st 0))).trans ?_)
  rw [turn_of_checkRows checks]
  refine (bind_of_gives (mapM_range_gives loads)).trans ?_
  have good (us' : List (Nat × Nat × Option (List Byte))) (mem : us' ∈ (List.range 32).map us) :
      (us'.any fun u => u.2.2.isNone) = false := by
    obtain ⟨i, hi, rfl⟩ := List.mem_map.mp mem
    exact List.any_eq_false.mpr fun u hu => by simpa using whole i (List.mem_range.mp hi) u hu
  have failed : (((List.range 32).map us).any fun us => us.any fun u => u.2.2.isNone) = false :=
    List.any_eq_false.mpr fun us' mem => by rw [good us' mem]; exact Bool.false_ne_true
  have late : ((List.range 32).map us).zipIdx.find? (fun q => q.1.any fun u => u.2.2.isNone) = none :=
    List.find?_eq_none.mpr fun q mem => by
      obtain ⟨us', i⟩ := q
      rw [good us' (List.fst_mem_of_mem_zipIdx mem)]
      exact Bool.false_ne_true
  have numbered : ((List.range 32).map us).zipIdx = (List.range 32).map fun i => (us i, i) :=
    List.ext_getElem (by simp) fun i hi hi' => by simp
  simp only [failed, late]
  have rows : ((List.range 32).map us).zipIdx.foldl (aldRow (agentOf s2.turn) x.d.toNat (if z then 8 else 4)) (st 32) =
      rowsLoaded (agentOf s2.turn) x.d.toNat (if z then 8 else 4) us (st 32) 32 := by
    rw [numbered, List.foldl_map, ← foldl_rowLoaded]
    refine List.foldl_ext _ _ _ fun t i mem => ?_
    rw [aldRow, goodUnits_whole _ _ (whole i (List.mem_range.mp mem)), rowLoaded, patchRow, List.foldl_map, ← List.flatMap_def]
    rfl
  rw [← rows]
  rfl

end

end Sys2Proof.Machine
end

section
/-!
PROOF. Matrix commands and tile transfers (O51).
-/
namespace Sys2Proof.Machine

/-- The inner dimension and the accumulator's format of a pair of floating-point operands (R289, R290). -/
theorem pair_floats {c : MmaCmd} (floats : c.pair ≠ 0x36) :
    innerDim c.pair.toNat = (if c.pair = 0x30 then 8 else if c.pair = 0x31 then 16 else 32) ∧
      accFormat c = if c.pair = 0x30 then fp64 else fp32 := by
  refine ⟨?_, rfl⟩
  have other : c.pair.toNat ≠ 0x36 := fun e => floats ((pair_eq_iff c 0x36).mpr e)
  rw [innerDim_eq, if_neg other]
  exact if_congr (pair_eq_iff c 0x30).symm rfl (if_congr (pair_eq_iff c 0x31).symm rfl rfl)

/-- Settles O51: MMA from its issue to its completion, AST and ALD. -/
theorem matrixCommandsAndTileTransfers : Obligations.MatrixCommandsAndTileTransfers := by
  refine ⟨?issue, ?start, ?slot, ?idle, ?complete, ?floats, ?special, ?nestedSpecial, ?nested, ?elements, ?planes, ?ast, ?ald⟩
  case issue =>
    intro x y s s1 s2 s3 a b c na nb may exchange ra rb d ya yb st rc
    have pair (i : Instr) (n : Nat) (meaning : exec i = runOp (issueMma i x.st n x.d x.a x.b none 0))
        (named : Gives (namedTile i x.d.toNat) s (n == 0x30) s) (touched : Gives (touchTile i x.d.toNat) s2 () s2)
        (sa : Gives (claimedSlot a) s2 na s2) (sb : Gives (claimedSlot b) s2 nb s2) (lease : holdsLease s2 = true)
        (room : (clusterAt s2 (clusterOf (agentOf s2.turn))).cmdQ.length < 16) :
        exec i s = .next (committed x.st (commandQueued s2 n x.d.toNat na nb 0 0)) := by
      rw [meaning]
      exact runOp_ok (issueMma_run may exchange ra rb (.inl ⟨rfl, rfl, rfl⟩) named touched sa sb lease room)
    have scaled (i : Instr) (n : Nat) (meaning : exec i = runOp (issueMma i y.st n y.d y.a y.b (some y.c) (y.pm2.toNat + 2)))
        (named : Gives (namedTile i x.d.toNat) s (n == 0x30) s) (touched : Gives (touchTile i x.d.toNat) s3 () s3)
        (sa : Gives (claimedSlot a) s3 na s3) (sb : Gives (claimedSlot b) s3 nb s3) (lease : holdsLease s3 = true)
        (room : (clusterAt s3 (clusterOf (agentOf s3.turn))).cmdQ.length < 16) :
        exec i s = .next (committed x.st (commandQueued s3 n x.d.toNat na nb c (y.pm2.toNat + 2))) := by
      rw [meaning, d, ya, yb, st]
      exact runOp_ok (issueMma_run may exchange ra rb (.inr ⟨y.c, rfl, rc⟩) named touched sa sb lease room)
    exact ⟨pair _ 0x30 rfl, pair _ 0x31 rfl, pair _ 0x32 rfl, pair _ 0x33 rfl, pair _ 0x34 rfl, pair _ 0x35 rfl,
      scaled _ 0x36 rfl, scaled _ 0x37 rfl, scaled _ 0x38 rfl⟩
  case start => exact fun cl s c cs => ⟨commandStart_idle, commandStart_run⟩
  case slot => exact fun k cl stamp n i inside good => slotBytes_good k cl stamp n inside good
  case idle => exact fun cl s idle => commandComplete_idle idle
  case complete => exact fun cl s c running => commandComplete_writes running
  case floats =>
    intro c acc i j r p q pair n f floats first real
    have other : c.pair ≠ 0x36 := fun e => floats ((pair_eq_iff c 0x36).mp e)
    have format : accFormat c = f := if_congr (pair_eq_iff c 0x30) rfl rfl
    exact mmaElem_floats other (innerDim_eq _) format first real
  case special =>
    intro c acc i j floats
    obtain ⟨dim, format⟩ := pair_floats floats
    exact mmaElem_special floats dim format
  case nestedSpecial => exact fun c acc i j b nested => mmaElem_nested_special nested b
  case nested => exact fun c acc i j r nested planes real => mmaElem_nested nested planes real
  case elements =>
    intro c e
    obtain ⟨dd, ss, aB, aH, bB, bH⟩ := elem_formats c e
    exact ⟨dd, ss, aB, aH, bB, bH, fun planes => elem_nested e planes⟩
  case planes => exact fun bs p e some_ most => nestedInt_bits bs some_ most e
  case ast =>
    intro x s s1 s2 s3 a b z rd st named ra rb used src dst n checks modes elem res flags raised
    have format : dst = astFormat z x.fmt := (astFormat_eq z x.fmt).symm
    exact ⟨ast_traps named ra rb used rfl format rfl checks modes (fun _ => rfl) raised,
      ast_stores named ra rb used rfl format rfl checks modes (fun _ => rfl) raised⟩
  case ald =>
    intro x s s1 s2 a b z st us named exchange ra rb used n checks rows core row
    obtain ⟨written, others⟩ := tiles_rowsLoaded (core := core) (t := x.d.toNat) (n := n) us (st 32) 32 le_rfl
    refine ⟨rowsLoaded core x.d.toNat n us (st 32) 32,
      ald_run named exchange ra rb used rfl checks (fun i hi => (rows i hi).1) fun i hi => (rows i hi).2,
      rowsLoaded_eq us (st 32) 31, written, fun k other => others k fun i j hi hj same => other ?_⟩
    rw [same, tileKey]
    omega

end Sys2Proof.Machine
end

section
/-!
PROOF. The reciprocal square root, and the special operands of the FP32 functions (R275; O49).
-/
namespace Sys2Proof.Machine

/-- The units of a reciprocal square root, rounded down. -/
theorem floor_sqrt_div (n d : Nat) : ⌊Real.sqrt ((n : ℝ) / d)⌋₊ = Nat.sqrt (n / d) := by
  rcases Nat.eq_zero_or_pos d with rfl | pos
  · simp
  have posR : (0 : ℝ) < d := Nat.cast_pos.mpr pos
  refine (Nat.floor_eq_iff (Real.sqrt_nonneg _)).mpr ⟨?_, ?_⟩
  · refine Real.le_sqrt_of_sq_le ((le_div_iff₀ posR).mpr ?_)
    have := (Nat.le_div_iff_mul_le pos).mp (Nat.sqrt_le' (n / d))
    exact_mod_cast this
  · rw [Real.sqrt_lt' (by positivity), div_lt_iff₀ posR]
    have := (Nat.div_lt_iff_lt_mul pos).mp (Nat.lt_succ_sqrt' (n / d))
    exact_mod_cast this

/-- When a reciprocal square root is no whole number of units. -/
theorem reciprocalSquare_iff (s n : Nat) {d : Nat} (pos : 0 < d) :
    (s * s * d != n) = true ↔ Real.sqrt ((n : ℝ) / d) ≠ s := by
  have posR : (d : ℝ) ≠ 0 := Nat.cast_ne_zero.mpr pos.ne'
  rw [bne_iff_ne, ne_eq, ne_eq, not_iff_not, Real.sqrt_eq_iff_mul_self_eq (by positivity) (Nat.cast_nonneg _), eq_comm,
    div_eq_iff posR]
  norm_cast

/-- VRSQRT of a positive value is correctly rounded. -/
theorem FpFmt.Usual.rsqrtFp_real {f : FpFmt} (usual : f.Usual) (r : Rounding) {v : Nat} {a : ℝ} (h : IsReal (unpack f v) a)
    (pos : 0 < a) : IsRound f r false (1 / Real.sqrt a) (rsqrtFp f r (unpack f v)) := by
  obtain ⟨m, e, value, posm, size⟩ := isReal_ne_zero h pos.ne'
  have sign : decide (a < 0) = false := by simp [pos.le]
  rw [abs_of_pos pos] at size
  rw [sign] at value
  obtain ⟨_, small, _⟩ := usual.unpack_fin value
  set k := 2 * f.prec + 60 with bits
  set m' := m * 2 ^ b1 (e % 2 != 0) with mant
  have pos' : 0 < m' := Nat.mul_pos posm (by positivity)
  have small' : m' < 2 ^ (f.prec + 1) := by
    have le : b1 (e % 2 != 0) ≤ 1 := by unfold b1; split <;> omega
    calc m' < 2 ^ f.prec * 2 ^ b1 (e % 2 != 0) := Nat.mul_lt_mul_of_pos_right small (by positivity)
      _ ≤ 2 ^ (f.prec + 1) := by rw [← pow_add]; exact Nat.pow_le_pow_right (by decide) (by omega)
  have enough : 2 ^ (f.prec + 31) ≤ Nat.sqrt (2 ^ (2 * k) / m') := by
    rw [Nat.le_sqrt, ← pow_add, Nat.le_div_iff_mul_le pos']
    calc 2 ^ (f.prec + 31 + (f.prec + 31)) * m' ≤ 2 ^ (f.prec + 31 + (f.prec + 31)) * 2 ^ (f.prec + 1) :=
        Nat.mul_le_mul_left _ small'.le
      _ ≤ 2 ^ (2 * k) := by rw [← pow_add]; exact Nat.pow_le_pow_right (by decide) (by omega)
  have exact_ : 1 / Real.sqrt a = Real.sqrt (((2 ^ (2 * k) : ℕ) : ℝ) / m') * 2 ^ (-((e - b1 (e % 2 != 0)) / 2) - (k : ℤ)) := by
    have even := even_part e
    rw [size, mant]
    generalize b1 (e % 2 != 0) = b at *
    generalize (e - b) / 2 = h at *
    rw [even, one_div, ← Real.sqrt_inv, Real.sqrt_eq_iff_mul_self_eq (by positivity) (by positivity), mul_mul_mul_comm,
      Real.mul_self_sqrt (by positivity), ← zpow_add₀ two_ne_zero]
    push_cast
    calc ((m : ℝ) * 2 ^ (2 * h + (b : ℤ)))⁻¹ = (m : ℝ)⁻¹ * 2 ^ (-(2 * h + (b : ℤ))) := by rw [mul_inv, zpow_neg]
      _ = (m : ℝ)⁻¹ * (2 ^ ((2 * k : ℕ) : ℤ) * 2 ^ (-(b : ℤ)) * 2 ^ (-h - (k : ℤ) + (-h - k))) := by
        rw [← zpow_add₀ two_ne_zero, ← zpow_add₀ two_ne_zero]
        congr 2
        push_cast
        omega
      _ = _ := by
        rw [zpow_natCast, zpow_neg, zpow_natCast]
        ring
  have root := usual.roundFp_floor r false (-((e - b1 (e % 2 != 0)) / 2) - (k : ℤ)) (floor_sqrt_div (2 ^ (2 * k)) m') enough
    (reciprocalSquare_iff _ _ pos')
  rw [exact_, value]
  rw [← isqrt_eq_sqrt] at root
  exact root

theorem exp2Fp_zero (r : Rounding) (n : Bool) : exp2Fp fp32 r (.zero n) = ⟨0x3F800000, 0⟩ := by
  have units : roundUnits r false 1 0 false (-23) = (2 ^ 23, false) := rfl
  have log : Nat.log2 1 = 0 := rfl
  simp only [exp2Fp, roundFp, log]
  simp [fp32, FpFmt.emin, FpFmt.bias, units, FpFmt.infBits, b1]

/-- What the special operands of the FP32 functions give. -/
theorem special_functions (r : Rounding) (n : Bool) (m : Nat) (e : Int) :
    let f := fp32
    let inf (neg : Bool) (flags : BitVec 5) : FpResult := ⟨f.infBits + (if neg then f.signBit else 0), flags⟩
    let nan (flags : BitVec 5) : FpResult := ⟨f.nanBits, flags⟩
    rsqrtFp f r (.zero n) = inf n flagDZ ∧ rsqrtFp f r (.inf false) = ⟨0, 0⟩ ∧ rsqrtFp f r (.inf true) = nan flagNV ∧
    rsqrtFp f r (.fin true m e) = nan flagNV ∧ log2Fp f r (.zero n) = inf true flagDZ ∧ log2Fp f r (.inf false) = inf false 0 ∧
    log2Fp f r (.inf true) = nan flagNV ∧ log2Fp f r (.fin true m e) = nan flagNV ∧ exp2Fp f r (.inf false) = inf false 0 ∧
    exp2Fp f r (.inf true) = ⟨0, 0⟩ ∧ exp2Fp f r (.zero n) = ⟨0x3F800000, 0⟩ ∧
    rsqrtFp f r (.nan n) = nan (if n then flagNV else 0) ∧ log2Fp f r (.nan n) = nan (if n then flagNV else 0) ∧
    exp2Fp f r (.nan n) = nan (if n then flagNV else 0) := by
  intro f inf nan
  have infinity (neg : Bool) : infResult f neg = inf neg 0 := infResult_eq ..
  have divided (neg : Bool) : (⟨(infResult f neg).bits, flagDZ⟩ : FpResult) = inf neg flagDZ := by rw [infinity]
  have zero : zeroResult f false = ⟨0, 0⟩ := by simp [zeroResult, FpResult.clean, b1]
  have quiet : nanResult f n = nan (if n then flagNV else 0) := by cases n <;> rfl
  exact ⟨divided n, zero, rfl, rfl, divided true, infinity false, rfl, rfl, infinity false, zero, exp2Fp_zero r n, quiet, quiet, quiet⟩

end Sys2Proof.Machine
end

section
/-!
PROOF. What a list of lane or mask-bit writes leaves (R268, R270; O49).
-/
namespace Sys2Proof.Machine

/-! ### One write -/

/-- A bit of a mask register written. -/
theorem writeBit (m : BitVec 256) (n : Nat) (c : Bool) :
    BitVec.ofNat 256 (m.toNat - (if m.getLsbD n then 2 ^ n else 0) + if c then 2 ^ n else 0) =
      (m &&& ~~~BitVec.twoPow 256 n) ||| if c then BitVec.twoPow 256 n else 0 := by
  have power : BitVec.ofNat 256 (2 ^ n) = BitVec.twoPow 256 n := BitVec.eq_of_toNat_eq (by simp [BitVec.toNat_twoPow])
  have cleared : BitVec.ofNat 256 (m.toNat - if m.getLsbD n then 2 ^ n else 0) = m &&& ~~~BitVec.twoPow 256 n := by
    by_cases set_ : m.getLsbD n = true
    · have whole : m = (m &&& ~~~BitVec.twoPow 256 n) + BitVec.twoPow 256 n := by
        rw [BitVec.add_eq_or_of_and_eq_zero _ _ (by ext; simp)]
        ext j hj
        by_cases here : j = n
        · subst here
          simpa [hj] using set_
        · simp [here]
      have some_ : 2 ^ n ≤ m.toNat := Nat.ge_two_pow_of_testBit set_
      have sum : BitVec.ofNat 256 (m.toNat - 2 ^ n) + BitVec.twoPow 256 n = m := by
        rw [← power, ← BitVec.ofNat_add, Nat.sub_add_cancel some_]
        simp
      rw [if_pos set_]
      exact add_right_cancel (sum.trans whole)
    · rw [if_neg set_]
      ext j hj
      by_cases here : j = n
      · subst here
        simpa [hj] using set_
      · simp [here]
  rw [BitVec.ofNat_add, cleared]
  cases c with
  | false => simp
  | true =>
    rw [if_pos rfl, if_pos rfl, power]
    exact BitVec.add_eq_or_of_and_eq_zero _ _ (by ext; simp)

theorem setMaskBit_bit (m : Vector (BitVec 256) 4) (q : Nat × Bool) {i j : Nat} (hi : i < 4) (hj : j < 256) :
    (setMaskBit m q)[i]!.getLsbD j = if 256 * i + j = q.1 then q.2 else m[i]!.getLsbD j := by
  unfold setMaskBit maskBit
  dsimp only
  rw [writeBit, getElem!_pos _ i hi, getElem!_pos m i hi, Vector.getElem_setIfInBounds hi]
  by_cases here : q.1 / 256 = i
  · subst here
    rw [if_pos rfl, getElem!_pos m _ hi]
    by_cases bit : j = q.1 % 256
    · have same : 256 * (q.1 / 256) + j = q.1 := by omega
      subst bit
      rw [if_pos same]
      cases q.2 <;> simp [hj]
    · have other : 256 * (q.1 / 256) + j ≠ q.1 := by omega
      rw [if_neg other]
      cases q.2 <;> simp [hj, bit]
  · have other : 256 * i + j ≠ q.1 := by omega
    rw [if_neg here, if_neg other]

theorem setLane_lane (v : AMap (BitVec 32)) (q : Nat × BitVec 32) (k : Nat) :
    mapGet 0 (setLane v q) k = if k = q.1 then q.2 else mapGet 0 v k := mapGet_putOrDel ..

/-! ### A list of writes -/

section
variable {σ α : Type} {step : σ → Nat × α → σ} {read : σ → α} {k : Nat}
  (law : ∀ m q, read (step m q) = if k = q.1 then q.2 else read m)
include law

/-- Writes that agree leave what any of them writes there, or what was there. -/
theorem foldl_writes {es : List (Nat × α)} {new : Option α} (sound : ∀ e ∈ es, e.1 = k → new = some e.2)
    (complete : new.isSome → ∃ e ∈ es, e.1 = k) (m : σ) : read (es.foldl step m) = new.getD (read m) := by
  have parts (m : σ) : ((∃ e ∈ es, e.1 = k) → some (read (es.foldl step m)) = new) ∧
      ((∀ e ∈ es, e.1 ≠ k) → read (es.foldl step m) = read m) := by
    clear complete
    induction es generalizing m with
    | nil => exact ⟨fun ⟨_, mem, _⟩ => absurd mem List.not_mem_nil, fun _ => rfl⟩
    | cons e es ih =>
      obtain ⟨here, rest⟩ := List.forall_mem_cons.mp sound
      obtain ⟨later, none⟩ := ih rest (step m e)
      refine ⟨fun some_ => ?_, fun free => ?_⟩
      · by_cases more : ∃ e ∈ es, e.1 = k
        · exact later more
        · have no : ∀ e ∈ es, e.1 ≠ k := fun e mem same => more ⟨e, mem, same⟩
          have first : e.1 = k := by
            obtain ⟨e', mem, same⟩ := some_
            rcases List.mem_cons.mp mem with rfl | mem
            · exact same
            · exact absurd same (no e' mem)
          rw [List.foldl_cons, none no, law, if_pos first.symm, here first]
      · obtain ⟨first, others⟩ := List.forall_mem_cons.mp free
        rw [List.foldl_cons, none others, law, if_neg first.symm]
  obtain ⟨written, kept⟩ := parts m
  by_cases some_ : ∃ e ∈ es, e.1 = k
  · rw [← written some_]
    rfl
  · have gone : new = none := by
      cases new with
      | none => rfl
      | some _ => exact absurd (complete rfl) some_
    rw [gone, kept fun e mem same => some_ ⟨e, mem, same⟩]
    rfl

end

/-! ### Positions (R268) -/

/-- The position of a lane or mask bit. -/
def posOf (w k : Nat) : Nat := if w = 64 then k / 2 else k

/-- A lane's part of the element at its position. -/
def lanePart (w k n : Nat) : BitVec 32 :=
  if w = 64 then BitVec.ofNat 32 (n / 2 ^ (32 * (k % 2))) else BitVec.ofNat 32 (n % 2 ^ w)

theorem mem_laneOut {w d j n : Nat} {e : Nat × BitVec 32} :
    e ∈ laneOut w d j n ↔ ∃ k, posOf w k = j ∧ e = (laneKey d k, lanePart w k n) := by
  by_cases pair : w = 64
  · simp only [laneOut, posOf, lanePart, pair, if_true, List.mem_cons, List.not_mem_nil, or_false]
    constructor
    · rintro (rfl | rfl)
      · exact ⟨2 * j, by omega, by simp⟩
      · exact ⟨2 * j + 1, by omega, by rw [show (2 * j + 1) % 2 = 1 by omega]⟩
    · rintro ⟨k, here, rfl⟩
      rcases Nat.mod_two_eq_zero_or_one k with even | odd
      · exact .inl (by rw [even, show k = 2 * j by omega]; simp)
      · exact .inr (by rw [odd, show k = 2 * j + 1 by omega])
  · simp [laneOut, posOf, lanePart, pair]

theorem mem_maskOut {w d j : Nat} {v : Bool} {e : Nat × Bool} :
    e ∈ maskOut w d j v ↔ ∃ k, posOf w k = j ∧ e = (laneKey d k, v) := by
  by_cases pair : w = 64
  · simp only [maskOut, posOf, pair, if_true, List.mem_cons, List.not_mem_nil, or_false]
    constructor
    · rintro (rfl | rfl)
      · exact ⟨2 * j, by omega, rfl⟩
      · exact ⟨2 * j + 1, by omega, rfl⟩
    · rintro ⟨k, here, rfl⟩
      rcases Nat.mod_two_eq_zero_or_one k with even | odd
      · exact .inl (by rw [show k = 2 * j by omega])
      · exact .inr (by rw [show k = 2 * j + 1 by omega])
  · simp [maskOut, posOf, pair]

/-- What is written at a position: the value at an active one, zero at an inactive one under ZM. -/
def posVal {β : Type} (y : Slot) (w j : Nat) (v zero : β) : Option β :=
  if activeBit y (posLane w j) then some v else if zeroing y then some zero else none

section
variable {α β : Type} (y : Slot) (w l d : Nat) (v : Nat → β) (zero : β) (part : Nat → β → α)

/-- A list that holds the writes of every position, and no other. -/
def WritesPositions (es : List (Nat × α)) : Prop :=
  ∀ e, e ∈ es ↔ ∃ k n, posOf w k < positions w l ∧ posVal y w (posOf w k) (v (posOf w k)) zero = some n ∧
    e = (laneKey d k, part k n)

/-- What such a list writes at lane or mask bit k. -/
def laneNew (k : Nat) : Option α :=
  if posOf w k < positions w l then (posVal y w (posOf w k) (v (posOf w k)) zero).map (part k) else none

theorem foldl_positions {σ : Type} {step : σ → Nat × α → σ} {read : σ → α} {x : Nat}
    (law : ∀ m q, read (step m q) = if x = q.1 then q.2 else read m) {es : List (Nat × α)}
    (writes : WritesPositions y w l d v zero part es) (m : σ) : read (es.foldl step m) =
      if 256 * d ≤ x then (laneNew y w l v zero part (x - 256 * d)).getD (read m) else read m := by
  have all := foldl_writes law (es := es)
    (new := if 256 * d ≤ x then laneNew y w l v zero part (x - 256 * d) else none) (fun e mem here => ?_) (fun some_ => ?_) m
  · rw [all]
    split <;> rfl
  · obtain ⟨k, n, inside, value, rfl⟩ := (writes e).mp mem
    unfold laneKey at here
    dsimp only at here
    have at_ : x - 256 * d = k := by omega
    rw [if_pos (by omega), at_, laneNew, if_pos inside, value]
    rfl
  · by_cases from_ : 256 * d ≤ x
    · rw [if_pos from_, laneNew] at some_
      by_cases inside : posOf w (x - 256 * d) < positions w l
      · rw [if_pos inside, Option.isSome_map] at some_
        obtain ⟨n, value⟩ := Option.isSome_iff_exists.mp some_
        exact ⟨_, (writes _).mpr ⟨_, n, inside, value, rfl⟩, by unfold laneKey; dsimp only; omega⟩
      · rw [if_neg inside] at some_
        cases some_
    · rw [if_neg from_] at some_
      cases some_

/-- The same per lane, as R268 says it. -/
theorem laneNew_eq (k : Nat) : laneNew y w l v zero part k = if w = 64
    then AtLane y (l / 2 * 2) k (activeBit y (2 * (k / 2))) (part k (v (k / 2))) (part k zero)
    else AtLane y l k (activeBit y k) (part k (v k)) (part k zero) := by
  unfold laneNew posVal AtLane posOf positions posLane
  by_cases pair : w = 64
  · simp only [pair, if_true]
    by_cases inside : k / 2 < l / 2
    · rw [if_pos inside, if_neg (show ¬ l / 2 * 2 ≤ k by omega)]
      cases activeBit y (2 * (k / 2)) <;> cases zeroing y <;> rfl
    · rw [if_neg inside, if_pos (show l / 2 * 2 ≤ k by omega)]
  · simp only [pair, if_false]
    by_cases inside : k < l
    · rw [if_pos inside, if_neg (show ¬ l ≤ k by omega)]
      cases activeBit y k <;> cases zeroing y <;> rfl
    · rw [if_neg inside, if_pos (show l ≤ k by omega)]

end

end Sys2Proof.Machine
end

section
/-!
PROOF. Lane-wise floating point, compares and conversions (R150, R272, R274 to R277; O49).
-/
namespace Sys2Proof.Machine

/-! ### Elements and results -/

/-- The element at a position: a lane pair, a lane, or the low half of one (R267). -/
theorem element_eq (y : Slot) (w i j : Nat) : element y w i j = if w = 64
    then (laneBits y i (2 * j + 1) ++ laneBits y i (2 * j)).toNat else (laneBits y i j).toNat % 2 ^ w := by
  unfold element
  refine if_congr Iff.rfl ?_ rfl
  rw [BitVec.toNat_append, ← Nat.shiftLeft_add_eq_or_of_lt (laneBits y i (2 * j)).isLt, Nat.shiftLeft_eq, Nat.add_comm]
  rfl

theorem lanePart_zero (w k : Nat) : lanePart w k 0 = 0 := by
  unfold lanePart
  split <;> simp

/-- The lane writes of a lane-wise instruction: the values of the active positions, and zeros under ZM (R268). -/
def laneWrites (y : Slot) (w l d : Nat) (v : Nat → Nat) : List (Nat × BitVec 32) :=
  (((List.range (positions w l)).filter fun j => activeBit y (posLane w j)).flatMap fun j => laneOut w d j (v j)) ++
    if zeroing y then ((List.range (positions w l)).filter fun j => !activeBit y (posLane w j)).flatMap fun j => laneOut w d j 0
    else []

theorem laneWrites_writes (y : Slot) (w l d : Nat) (v : Nat → Nat) :
    WritesPositions y w l d v 0 (lanePart w) (laneWrites y w l d v) := by
  intro e
  have split_ : e ∈ laneWrites y w l d v ↔ ∃ j, j < positions w l ∧ ∃ n, posVal y w j (v j) 0 = some n ∧ e ∈ laneOut w d j n := by
    unfold laneWrites posVal
    rw [List.mem_append]
    constructor
    · rintro (value | zero)
      · obtain ⟨j, mem, out⟩ := List.mem_flatMap.mp value
        obtain ⟨inside, active⟩ := List.mem_filter.mp mem
        exact ⟨j, List.mem_range.mp inside, v j, by rw [if_pos active], out⟩
      · by_cases zm : zeroing y = true
        · rw [if_pos zm] at zero
          obtain ⟨j, mem, out⟩ := List.mem_flatMap.mp zero
          obtain ⟨inside, idle⟩ := List.mem_filter.mp mem
          exact ⟨j, List.mem_range.mp inside, 0, by rw [if_neg (by simpa using idle), if_pos zm], out⟩
        · rw [if_neg zm] at zero
          cases zero
    · rintro ⟨j, inside, n, value, out⟩
      by_cases active : activeBit y (posLane w j) = true
      · rw [if_pos active] at value
        cases value
        exact .inl (List.mem_flatMap.mpr ⟨j, List.mem_filter.mpr ⟨List.mem_range.mpr inside, active⟩, out⟩)
      · rw [if_neg active] at value
        by_cases zm : zeroing y = true
        · rw [if_pos zm] at value
          cases value
          rw [if_pos zm]
          exact .inr (List.mem_flatMap.mpr ⟨j, List.mem_filter.mpr ⟨List.mem_range.mpr inside, by simpa using active⟩, out⟩)
        · rw [if_neg zm] at value
          cases value
  rw [split_]
  simp only [mem_laneOut]
  constructor
  · rintro ⟨j, inside, n, value, k, rfl, here⟩
    exact ⟨k, n, inside, value, here⟩
  · rintro ⟨k, n, inside, value, here⟩
    exact ⟨_, inside, n, value, k, rfl, here⟩

/-- What lane writes of every position make of the registers (R268). -/
theorem lanesBecome_positions {y : Slot} {s : State} {w l d : Nat} {v : Nat → Nat} {es : List (Nat × BitVec 32)}
    (writes : WritesPositions y w l d v 0 (lanePart w) es) (flags : BitVec 5) :
    LanesBecome s ⟨s.turn, es, [], flags, none⟩ d fun k => if w = 64
      then AtLane y (l / 2 * 2) k (activeBit y (2 * (k / 2))) (BitVec.ofNat 32 (v (k / 2) / 2 ^ (32 * (k % 2)))) 0
      else AtLane y l k (activeBit y (posLane w k)) (BitVec.ofNat 32 (v k % 2 ^ w)) 0 := by
  refine ⟨rfl, rfl, rfl, fun m x => ?_⟩
  have all := foldl_positions y w l d v 0 (lanePart w) (x := x) (read := fun m => mapGet 0 m x) (fun m q => setLane_lane m q x) writes m
  rw [all, laneNew_eq, lanePart_zero]
  unfold lanePart
  by_cases pair : w = 64
  · simp only [if_pos pair]
  · simp only [if_neg pair, posLane]

/-- The mask-bit writes of a compare are those of every position. -/
theorem maskPositions_writes (y : Slot) (w l d : Nat) (v : Nat → Bool) : WritesPositions y w l d v false (fun _ b => b)
    (overPositions y w l (fun j => maskOut w d j (v j)) fun j => maskOut w d j false) := by
  intro e
  unfold overPositions posVal
  rw [List.mem_flatMap]
  constructor
  · rintro ⟨j, inside, out⟩
    have inside := List.mem_range.mp inside
    split at out
    next active =>
      obtain ⟨k, rfl, rfl⟩ := mem_maskOut.mp out
      exact ⟨k, v _, inside, by rw [if_pos active], rfl⟩
    next idle =>
      split at out
      next zm =>
        obtain ⟨k, rfl, rfl⟩ := mem_maskOut.mp out
        exact ⟨k, false, inside, by rw [if_neg idle, if_pos zm], rfl⟩
      next => cases out
  · rintro ⟨k, n, inside, value, rfl⟩
    refine ⟨posOf w k, List.mem_range.mpr inside, ?_⟩
    split at value
    next active =>
      cases value
      rw [if_pos active]
      exact mem_maskOut.mpr ⟨k, rfl, rfl⟩
    next idle =>
      split at value
      next zm =>
        cases value
        rw [if_neg idle, if_pos zm]
        exact mem_maskOut.mpr ⟨k, rfl, rfl⟩
      next => cases value

theorem masksBecome_positions {y : Slot} {s : State} {w l d : Nat} {v : Nat → Bool} {es : List (Nat × Bool)}
    (writes : WritesPositions y w l d v false (fun _ b => b) es) (flags : BitVec 5) :
    MasksBecome s ⟨s.turn, [], es, flags, none⟩ d fun k => if w = 64
      then AtLane y (l / 2 * 2) k (activeBit y (2 * (k / 2))) (v (k / 2)) false
      else AtLane y l k (activeBit y k) (v k) false := by
  refine ⟨rfl, rfl, rfl, fun m i j hi hj => ?_⟩
  have all := foldl_positions y w l d v false (fun _ b => b) (x := 256 * i + j) (read := fun m => m[i]!.getLsbD j)
    (fun m q => setMaskBit_bit m q hi hj) writes m
  rw [all, laneNew_eq]

/-! ### Ends (R150, R272) -/

theorem finishVector_quiet {i : Instr} {st : BitVec 3} {lanes : List (Nat × BitVec 32)} {masks : List (Nat × Bool)}
    {flags : BitVec 5} {s : State} (quiet : flags &&& s.cur.fpte = 0) : finishVector i st lanes masks flags s =
      .ok ((), issued st (emit s (.laneResult ⟨s.turn, lanes, masks, flags, none⟩))) := by
  unfold finishVector
  rw [bind_of_gives (get_run s), if_pos quiet]
  exact bind_of_gives (emitOp_run ..)

theorem keepTrap_run {i : Instr} {w : Word32} (word : encode i = some w) (n : Nat) (divides : Bool) (flags : BitVec 5) (s : State) :
    keepTrap i n divides flags s = .ok ((), { s with cur := { s.cur with fpTraps := s.cur.fpTraps ++
      [⟨s.tick + n, s.cur.gpc, w ++ (0 : BitVec 19) ++ (flags &&& s.cur.fpte) ++ (0 : BitVec 3) ++ flags, divides⟩] } }) := by
  have number : wordOf i = w.toNat := by simp [wordOf, word]
  rw [keepTrap, number, ← fpInfo_eq]
  rfl

theorem finishVector_traps {i : Instr} {w : Word32} (word : encode i = some w) {st : BitVec 3} {lanes : List (Nat × BitVec 32)}
    {masks : List (Nat × Bool)} {flags : BitVec 5} {s : State} (raised : flags &&& s.cur.fpte ≠ 0) :
    finishVector i st lanes masks flags s = .ok ((), issued st { s with cur := { s.cur with fpTraps := s.cur.fpTraps ++
      [⟨s.tick + 1, s.cur.gpc, w ++ (0 : BitVec 19) ++ (flags &&& s.cur.fpte) ++ (0 : BitVec 3) ++ flags, false⟩] } }) := by
  unfold finishVector
  rw [bind_of_gives (get_run s), if_neg raised]
  exact bind_of_gives (keepTrap_run word ..)

theorem needClaim_run {s : State} (claim : s.cur.vlanes ≠ 0) : needClaim s = .ok (s.cur.vlanes.toNat, s) := by
  unfold needClaim
  rw [bind_of_gives (curSlot_run s)]
  exact bind_of_gives (require_true (by simpa using claim) ..)

end Sys2Proof.Machine
end

section
/-!
PROOF. The lane-wise floating-point words: their results, flags and traps (R272, R274 to R277; O49).
-/
namespace Sys2Proof.Machine

/-- The positions on which a slot's mask lets an instruction act. -/
def actives (y : Slot) (w l : Nat) : List Nat := (List.range (positions w l)).filter fun j => activeBit y (posLane w j)

theorem mem_actives {y : Slot} {w l j : Nat} : j ∈ actives y w l ↔ j < positions w l ∧ activeBit y (posLane w j) = true := by
  rw [actives, List.mem_filter, List.mem_range]

/-- The flags that positions raise together. -/
def RaisedAt (y : Slot) (w l : Nat) (fl : Nat → BitVec 5) (flags : BitVec 5) : Prop := ∀ b, b < 5 →
  (flags.getLsbD b = true ↔ ∃ j, j < positions w l ∧ activeBit y (posLane w j) = true ∧ (fl j).getLsbD b = true)

theorem raised_unique {y : Slot} {w l : Nat} {fl : Nat → BitVec 5} {f g : BitVec 5} (hf : RaisedAt y w l fl f)
    (hg : RaisedAt y w l fl g) : f = g :=
  BitVec.eq_of_getLsbD_eq fun b hb => Bool.eq_iff_iff.mpr ((hf b hb).trans (hg b hb).symm)

theorem raised_foldl (y : Slot) (w l : Nat) (fl : Nat → BitVec 5) :
    RaisedAt y w l fl (((actives y w l).map fl).foldl (· ||| ·) 0) := by
  intro b _
  have none : (0 : BitVec 5).getLsbD b = false := BitVec.getLsbD_zero
  rw [getLsbD_foldl_or, none, or_iff_right Bool.false_ne_true]
  simp only [List.mem_map, mem_actives]
  constructor
  · rintro ⟨_, ⟨j, ⟨inside, active⟩, rfl⟩, set_⟩
    exact ⟨j, inside, active, set_⟩
  · rintro ⟨j, inside, active, set_⟩
    exact ⟨_, ⟨j, ⟨inside, active⟩, rfl⟩, set_⟩

theorem raised_all (y : Slot) (w l : Nat) (fl : Nat → BitVec 5) : RaisedAt y w l fl
    (((List.range (positions w l)).map fun j => if activeBit y (posLane w j) then fl j else 0).foldl (· ||| ·) 0) := by
  intro b _
  have none : (0 : BitVec 5).getLsbD b = false := BitVec.getLsbD_zero
  rw [getLsbD_foldl_or, none, or_iff_right Bool.false_ne_true]
  simp only [List.mem_map, List.mem_range]
  constructor
  · rintro ⟨_, ⟨j, inside, rfl⟩, set_⟩
    by_cases active : activeBit y (posLane w j) = true
    · rw [if_pos active] at set_
      exact ⟨j, inside, active, set_⟩
    · rw [if_neg active, none] at set_
      cases set_
  · rintro ⟨j, inside, active, set_⟩
    exact ⟨_, ⟨j, inside, rfl⟩, by rwa [if_pos active]⟩

/-! ### What a word with lane results does -/

/-- A word that traps FP at the boundary one cycle on (R150). -/
def TrapsNext (i : Instr) (st : BitVec 3) (s : State) (flags : BitVec 5) : Prop := flags &&& s.cur.fpte ≠ 0 →
  ∃ w : Word32, encode i = some w ∧ exec i s = .next (issued st { s with cur := { s.cur with fpTraps := s.cur.fpTraps ++
    [⟨s.tick + 1, s.cur.gpc, w ++ (0 : BitVec 19) ++ (flags &&& s.cur.fpte) ++ (0 : BitVec 3) ++ flags, false⟩] } })

section
variable {i : Instr} {st : BitVec 3} {w d : Nat} {f : Slot → Rounding → Nat → FpResult} {s : State} {rd : Nat → Rounding}
  {res : Nat → FpResult} {word : Word32}

theorem laneFp_run (claim : s.cur.vlanes ≠ 0) (same : ∀ j, f s.cur (rd j) j = res j) (modes : ∀ j, j < positions w s.cur.vlanes.toNat →
      activeBit s.cur (posLane w j) = true → Gives (roundingFor (posLane w j)) s (rd j) s) :
    laneFp i st w d f s = finishVector i st (laneWrites s.cur w s.cur.vlanes.toNat d fun j => (res j).bits) []
      (((actives s.cur w s.cur.vlanes.toNat).map fun j => (res j).flags).foldl (· ||| ·) 0) s := by
  unfold laneFp
  refine (bind_of_gives (needClaim_run claim)).trans ((bind_of_gives (curSlot_run s)).trans ?_)
  have results : Gives ((actives s.cur w s.cur.vlanes.toNat).mapM fun j => (do
      let m ← roundingFor (posLane w j)
      return (j, f s.cur m j) : Op (Nat × FpResult))) s ((actives s.cur w s.cur.vlanes.toNat).map fun j => (j, res j)) s := by
    refine mapM_same _ fun j mem => ?_
    obtain ⟨inside, active⟩ := mem_actives.mp mem
    exact (bind_of_gives (modes j inside active)).trans (congrArg (fun r => Except.ok ((j, r), s)) (same j))
  refine (bind_of_gives results).trans ?_
  rw [List.flatMap_map, List.map_map]
  rfl

/-- A lane-wise word: each active position's result, and the flags of them all (R272). -/
theorem laneFp_ends (claim : s.cur.vlanes ≠ 0) (encoded : encode i = some word) (meaning : exec i = runOp (laneFp i st w d f))
    (same : ∀ j, f s.cur (rd j) j = res j) (modes : ∀ j, j < positions w s.cur.vlanes.toNat →
      activeBit s.cur (posLane w j) = true → Gives (roundingFor (posLane w j)) s (rd j) s) (flags : BitVec 5)
    (raised : RaisedAt s.cur w s.cur.vlanes.toNat (fun j => (res j).flags) flags) :
    let l := s.cur.vlanes.toNat
    TrapsNext i st s flags ∧ (flags &&& s.cur.fpte = 0 → ∃ r : LaneWrite,
      exec i s = .next (issued st (emit s (.laneResult r))) ∧ r.flags = flags ∧ LanesBecome s r d fun k => if w = 64
        then AtLane s.cur (l / 2 * 2) k (activeBit s.cur (2 * (k / 2))) (BitVec.ofNat 32 ((res (k / 2)).bits / 2 ^ (32 * (k % 2)))) 0
        else AtLane s.cur l k (activeBit s.cur (posLane w k)) (BitVec.ofNat 32 ((res k).bits % 2 ^ w)) 0) := by
  have run := laneFp_run (i := i) (st := st) (w := w) (d := d) claim same modes
  rw [raised_unique (raised_foldl _ _ _ _) raised] at run
  refine ⟨fun enabled => ⟨word, encoded, ?_⟩, fun quiet => ⟨_, ?_, rfl, lanesBecome_positions (laneWrites_writes _ _ _ _ _) flags⟩⟩
  · rw [meaning]
    exact runOp_ok (run.trans (finishVector_traps encoded enabled))
  · rw [meaning]
    exact runOp_ok (run.trans (finishVector_quiet quiet))

end

/-! ### Compares (R276) -/

/-- An integer comparison by its condition code. -/
def intHolds (cond : BitVec 3) (m n : Int) : Bool := match cond.toNat with
  | 0 => m == n | 1 => m != n | 2 => decide (m < n) | 3 => decide (m ≤ n) | _ => false

/-- A floating-point comparison by its condition code, with its flags: not equal is the inverse of equal. -/
def fpHolds (f : FpFmt) (cond : BitVec 3) (a b : Nat) : Bool × BitVec 5 :=
  let r := compareFp f (match cond.toNat with | 0 => .eq | 1 => .eq | 2 => .lt | 3 => .le | _ => .un) a b
  ((r.bits == 1) != (cond == 1), r.flags)

theorem eightCodes (cond : BitVec 3) : cond = 0 ∨ cond = 1 ∨ cond = 2 ∨ cond = 3 ∨ cond = 4 ∨ cond = 5 ∨ cond = 6 ∨ cond = 7 := by
  revert cond
  decide

theorem compareLane_single (cond : BitVec 3) (a b : Nat) : compareLane 2 cond.toNat a b = fpHolds fp32 cond a b := by
  rcases eightCodes cond with rfl | rfl | rfl | rfl | rfl | rfl | rfl | rfl <;> simp [compareLane, fpHolds, bne]

theorem compareLane_double (cond : BitVec 3) (a b : Nat) : compareLane 3 cond.toNat a b = fpHolds fp64 cond a b := by
  rcases eightCodes cond with rfl | rfl | rfl | rfl | rfl | rfl | rfl | rfl <;> simp [compareLane, fpHolds, bne]

theorem compareLane_unsigned (cond : BitVec 3) (a b : Nat) : compareLane 1 cond.toNat a b = (intHolds cond a b, 0) := rfl

theorem compareLane_signed (cond : BitVec 3) {a b : Nat} (small : a < 2 ^ 32) (small' : b < 2 ^ 32) :
    compareLane 0 cond.toNat a b = (intHolds cond (BitVec.ofNat 32 a).toInt (BitVec.ofNat 32 b).toInt, 0) := by
  have signed {n : Nat} (small : n < 2 ^ 32) : sextNat 32 n = (BitVec.ofNat 32 n).toInt := by
    rw [← sextNat_toNat (by decide), BitVec.toNat_ofNat, Nat.mod_eq_of_lt small]
  rw [← signed small, ← signed small']
  rfl

/-- VCMP: a bit at each active position, and the flags of them all. -/
theorem vcmp_ends {x : Vcmp} {s : State} {w : Nat} {cmp : Nat → Bool × BitVec 5} (claim : s.cur.vlanes ≠ 0)
    (width : w = if x.ty = 3 then 64 else 32)
    (same : ∀ j, compareLane x.ty.toNat x.cond.toNat (element s.cur w x.a.toNat j) (element s.cur w x.b.toNat j) = cmp j)
    (flags : BitVec 5) (raised : RaisedAt s.cur w s.cur.vlanes.toNat (fun j => (cmp j).2) flags) :
    let l := s.cur.vlanes.toNat
    TrapsNext (.vcmp x) x.st s flags ∧ (flags &&& s.cur.fpte = 0 → ∃ r : LaneWrite,
      exec (.vcmp x) s = .next (issued x.st (emit s (.laneResult r))) ∧ r.flags = flags ∧ MasksBecome s r x.d.toNat fun k =>
        if w = 64 then AtLane s.cur (l / 2 * 2) k (activeBit s.cur (2 * (k / 2))) (cmp (k / 2)).1 false
        else AtLane s.cur l k (activeBit s.cur k) (cmp k).1 false) := by
  intro l
  obtain ⟨word, encoded⟩ : ∃ word : Word32, encode (.vcmp x) = some word := ⟨_, rfl⟩
  have run : ∃ op : Op Unit, exec (.vcmp x) = runOp op ∧ op s = finishVector (.vcmp x) x.st []
      (overPositions s.cur w l (fun j => maskOut w x.d.toNat j (cmp j).1) fun j => maskOut w x.d.toNat j false) flags s := by
    refine ⟨_, rfl, (bind_of_gives (needClaim_run claim)).trans ((bind_of_gives (curSlot_run s)).trans ?_)⟩
    rw [← raised_unique (raised_all _ _ _ _) raised]
    subst width
    simp only [same]
    rfl
  obtain ⟨op, meaning, run⟩ := run
  refine ⟨fun enabled => ⟨word, encoded, ?_⟩, fun quiet => ⟨_, ?_, rfl, masksBecome_positions (maskPositions_writes _ _ _ _ _) flags⟩⟩
  · rw [meaning]
    exact runOp_ok (run.trans (finishVector_traps encoded enabled))
  · rw [meaning]
    exact runOp_ok (run.trans (finishVector_quiet quiet))

end Sys2Proof.Machine
end

section
/-!
PROOF. Floating-point reductions, and the vector loads and stores (R279, R282; O49).
-/
namespace Sys2Proof.Machine

/-! ### Reductions (R282) -/

/-- A scalar result of a vector word: it follows, or the word traps FP at the next boundary. -/
theorem finishScalar_ends {i : Instr} {st : BitVec 3} {d : Sel} {s : State} {r : FpResult} {op : Op Unit} {word : Word32}
    (encoded : encode i = some word) (meaning : exec i = runOp op)
    (run : op s = finishScalar i st d (w64 r.bits) r.flags s) :
    (r.flags &&& s.cur.fpte = 0 → ∀ t tag dest, Reserves s d tag dest t → exec i s = .next (issued st (emit t
      (.laneResult ⟨t.turn, [], [], r.flags, some ⟨t.turn, tag, dest, BitVec.ofNat 64 r.bits, 0⟩⟩)))) ∧
    (r.flags &&& s.cur.fpte ≠ 0 → ∀ t tag dest, Reserves s d tag dest t → ∃ w : Word32, encode i = some w ∧
      exec i s = .next (issued st { t with cur := { t.cur with fpTraps := t.cur.fpTraps ++
        [⟨t.tick + 1, t.cur.gpc, w ++ (0 : BitVec 19) ++ (r.flags &&& s.cur.fpte) ++ (0 : BitVec 3) ++ r.flags, false⟩] } })) := by
  have enables {t : State} {tag : Nat} {dest : Dest} (reserves : Reserves s d tag dest t) : t.cur.fpte = s.cur.fpte :=
    (placeTaken_reserveBy reserves).sameEnables.2
  refine ⟨fun quiet t tag dest reserves => ?_, fun raised t tag dest reserves => ⟨word, encoded, ?_⟩⟩
  · rw [meaning]
    refine runOp_ok (u := ()) (run.trans ((bind_of_gives reserves).trans ((bind_of_gives (get_run t)).trans ?_)))
    rw [enables reserves, if_pos quiet]
    exact bind_of_gives (emitOp_run ..)
  · rw [meaning, ← enables reserves]
    refine runOp_ok (u := ()) (run.trans ((bind_of_gives reserves).trans ((bind_of_gives (get_run t)).trans ?_)))
    rw [if_neg (by rwa [enables reserves])]
    exact bind_of_gives (keepTrap_run encoded ..)

section
variable {x : FRR} {s : State} {m : Rounding} {f : FpFmt}

theorem vredAdd_run (claim : s.cur.vlanes ≠ 0) (format : redFormat x.fmt = some f) (mode : Gives (roundingFor 0) s m s) :
    ∃ op : Op Unit, exec (.vredAdd x) = runOp op ∧
      let es := activeElements s.cur f.width s.cur.vlanes.toNat x.a.toNat
      let r : FpResult := if es.isEmpty then .clean 0 else sumFp f m (es.map (unpack f))
      op s = finishScalar (.vredAdd x) x.st x.d (w64 r.bits) r.flags s := by
  refine ⟨_, rfl, (bind_of_gives (needClaim_run claim)).trans ((bind_of_gives (curSlot_run s)).trans ?_)⟩
  rw [format]
  exact bind_of_gives mode

theorem reduceMinMax_run (i : Instr) (isMax : Bool) (claim : s.cur.vlanes ≠ 0) (format : redFormat x.fmt = some f) :
    let r := redMinMax f isMax (activeElements s.cur f.width s.cur.vlanes.toNat x.a.toNat)
    reduceMinMax i x isMax s = finishScalar i x.st x.d (w64 r.bits) r.flags s := by
  refine (bind_of_gives (needClaim_run claim)).trans ((bind_of_gives (curSlot_run s)).trans ?_)
  rw [format]

end

/-! ### Memory (R279) -/

section
variable {i : Instr} {x : RRR} {address : Slot → Nat → W} {place : W → Op Place} {st : Nat → State} {p : Nat → Place}
  {bs : Nat → List Byte} {l : Nat} {acts : List Nat} (claim : (st 0).cur.vlanes ≠ 0) (lanes : (st 0).cur.vlanes.toNat = l)
  (masked : acts = (List.range l).filter (activeBit (st 0).cur))
include claim lanes masked

/-- A vector load makes one plain access per active lane, in order, and then writes its lanes. -/
theorem vectorLoad_run (accesses : ∀ k, k < acts.length → ∃ m, Gives (place (address (st 0).cur acts[k]!)) (st k) (p k) m ∧
      Gives (loadAt (p k) 4 0 ((address (st 0).cur acts[k]!).toNat % 2 ^ 56)) m (bs k) (st (k + 1))) :
    let t := st acts.length
    vectorLoad i x address place (st 0) = .ok ((), issued x.st (emit t (.laneResult
      ⟨t.turn, laneWrites (st 0).cur 32 l x.d.toNat fun j => leNat (bs (acts.idxOf j)), [], 0, none⟩))) := by
  intro t
  refine (bind_of_gives (needClaim_run claim)).trans ((bind_of_gives (curSlot_run _)).trans ?_)
  rw [lanes, ← masked]
  have loads : Gives (acts.mapM fun j => (do
      let p ← place (address (st 0).cur j)
      let bs ← loadAt p 4 0 ((address (st 0).cur j).toNat % 2 ^ 56)
      return (j, leNat bs) : Op (Nat × Nat))) (st 0)
      ((List.range acts.length).map fun k => (acts[k]!, leNat (bs k))) (st acts.length) := by
    refine mapM_gives acts fun k inside => ?_
    obtain ⟨m, placed, loaded⟩ := accesses k inside
    rw [getElem!_pos acts k inside] at placed loaded ⊢
    exact (bind_of_gives placed).trans ((bind_of_gives loaded).trans (pure_run ..))
  have distinct : acts.Nodup := masked ▸ List.nodup_range.filter _
  have values : ((List.range acts.length).map fun k => (acts[k]!, leNat (bs k))) =
      acts.map fun j => (j, leNat (bs (acts.idxOf j))) := by
    refine List.ext_getElem (by simp) fun k hk hk' => ?_
    have inside : k < acts.length := by simpa using hk
    have at_ : acts.idxOf acts[k] = k := distinct.idxOf_getElem k inside
    simp [at_, inside]
  refine (bind_of_gives loads).trans ?_
  rw [values, List.flatMap_map]
  refine Eq.trans ?_ (finishVector_quiet (i := i) (st := x.st) (masks := []) (flags := 0) (s := t)
    (lanes := laneWrites (st 0).cur 32 l x.d.toNat fun j => leNat (bs (acts.idxOf j))) (by simp))
  subst masked
  rfl

/-- A word that is a vector load behind its sources. -/
theorem vectorLoad_ends {s : State} {op : Op Unit} (meaning : exec i = runOp op)
    (run : op s = vectorLoad i x address place (st 0))
    (accesses : ∀ k, k < acts.length → ∃ m, Gives (place (address (st 0).cur acts[k]!)) (st k) (p k) m ∧
      Gives (loadAt (p k) 4 0 ((address (st 0).cur acts[k]!).toNat % 2 ^ 56)) m (bs k) (st (k + 1))) :
    let t := st acts.length
    ∃ r : LaneWrite, exec i s = .next (issued x.st (emit t (.laneResult r))) ∧ r.flags = 0 ∧ LanesBecome t r x.d.toNat fun j =>
      AtLane (st 0).cur l j (activeBit (st 0).cur j) (BitVec.ofNat 32 (leNat (bs (acts.idxOf j)))) 0 := by
  intro t
  have loads := vectorLoad_run (i := i) (x := x) claim lanes masked accesses
  have low (n : Nat) : BitVec.ofNat 32 (n % 2 ^ 32) = BitVec.ofNat 32 n := BitVec.eq_of_toNat_eq (by simp)
  have becomes := lanesBecome_positions (s := t) (laneWrites_writes (st 0).cur 32 l x.d.toNat fun j => leNat (bs (acts.idxOf j))) 0
  simp only [low] at becomes
  refine ⟨_, ?_, rfl, becomes⟩
  rw [meaning]
  exact runOp_ok (run.trans loads)

/-- A word that is a vector store behind its sources makes one plain access per active lane, in order. -/
theorem vectorStore_ends {s : State} {op : Op Unit} (meaning : exec i = runOp op)
    (run : op s = vectorStore x address place (st 0))
    (accesses : ∀ k, k < acts.length → ∃ m, Gives (place (address (st 0).cur acts[k]!)) (st k) (p k) m ∧
      Gives (storeAt (p k) (natBytes 4 (laneBits (st 0).cur x.d.toNat acts[k]!).toNat)) m () (st (k + 1))) :
    exec i s = .next (issued x.st (st acts.length)) := by
  rw [meaning]
  refine runOp_ok (u := ()) (run.trans ((bind_of_gives (needClaim_run claim)).trans ((bind_of_gives (curSlot_run _)).trans ?_)))
  rw [lanes, ← masked]
  have stores : Gives (acts.forM fun j => (do
      let p ← place (address (st 0).cur j)
      storeAt p (natBytes 4 (lane (st 0).cur x.d.toNat j)) : Op Unit)) (st 0) () (st acts.length) := by
    refine forM_gives acts fun k inside => ?_
    obtain ⟨m, placed, stored⟩ := accesses k inside
    rw [getElem!_pos acts k inside] at placed stored
    exact (bind_of_gives placed).trans stored
  exact bind_of_gives stores

end

end Sys2Proof.Machine
end

section
/-!
PROOF. Lane-wise floating point, reductions, functions and memory (O49).
-/
namespace Sys2Proof.Machine

/-- The format of a reduction's code. -/
theorem redFormat_eq {c : BitVec 2} {f : FpFmt} (h : (c = 0 ∧ f = fp32) ∨ (c = 1 ∧ f = fp64)) : redFormat c = some f := by
  rcases h with ⟨rfl, rfl⟩ | ⟨rfl, rfl⟩ <;> rfl

/-- Every comparison of VCMP by its type. -/
theorem compareLane_eq (ty : BitVec 2) (cond : BitVec 3) {a b : Nat} (small : ty ≠ 3 → a < 2 ^ 32 ∧ b < 2 ^ 32) :
    compareLane ty.toNat cond.toNat a b = match ty.toNat with
      | 0 => (intHolds cond (BitVec.ofNat 32 a).toInt (BitVec.ofNat 32 b).toInt, 0)
      | 1 => (intHolds cond a b, 0) | 2 => fpHolds fp32 cond a b | _ => fpHolds fp64 cond a b := by
  rcases fourCodes ty with rfl | rfl | rfl | rfl
  · obtain ⟨ha, hb⟩ := small (by decide)
    exact compareLane_signed cond ha hb
  · exact compareLane_unsigned cond a b
  · exact compareLane_single cond a b
  · exact compareLane_double cond a b

/-- Settles O49: the lane-wise words by their positions, VCMP, the reductions, the functions, and the memory words by
their accesses in order. -/
theorem vectorFpAndMemoryLanes : Obligations.VectorFpAndMemoryLanes := by
  refine ⟨?lanes, ?reductions, fun r w a real pos => (FpFmt.usual (by simp)).rsqrtFp_real r real pos, special_functions, ?memory⟩
  case lanes =>
    intro x y z v s rd claim c l count at_ on elem raised traps ends g p q two one src dst wide wv cmp
    have elems (w i j : Nat) : element c w i j = elem w i j := element_eq c w i j
    have word {i : Instr} {e : Word32} (st : BitVec 3) (w d : Nat) {f : Slot → Rounding → Nat → FpResult} (res : Nat → FpResult)
        (encoded : encode i = some e) (meaning : exec i = runOp (laneFp i st w d f)) (same : ∀ j, f c (rd j) j = res j) :
        ends i st w d res :=
      fun modes flags raises => laneFp_ends claim encoded meaning same modes flags raises
    have p_eq (j : Nat) : unpack g (element c g.width x.a.toNat j) = p j := congrArg (unpack g) (elems ..)
    have q_eq (j : Nat) : unpack g (element c g.width x.b.toNat j) = q j := congrArg (unpack g) (elems ..)
    have a_eq (j : Nat) : element c g.width x.a.toNat j = elem g.width x.a.toNat j := elems ..
    have b_eq (j : Nat) : element c g.width x.b.toNat j = elem g.width x.b.toNat j := elems ..
    have single (j : Nat) : unpack fp32 (element c 32 y.a.toNat j) = unpack fp32 (elem 32 y.a.toNat j) :=
      congrArg (unpack fp32) (elems ..)
    refine ⟨word _ _ _ _ rfl rfl fun j => congrArg₂ (fun a b => sumFp g (rd j) [a, b]) (p_eq j) (q_eq j),
      word _ _ _ _ rfl rfl fun j => congrArg₂ (fun a b => sumFp g (rd j) [a, b.negate]) (p_eq j) (q_eq j),
      word _ _ _ _ rfl rfl fun j => congrArg₂ (fun a b => roundVal g (rd j) (mulVal a b)) (p_eq j) (q_eq j),
      word _ _ _ _ rfl rfl fun j => congr (congrArg₂ (fun a b c => sumFp g (rd j) [mulVal a b, c]) (p_eq j) (q_eq j))
        (congrArg (unpack g) (elems g.width (addendReg c) j)),
      word _ _ _ _ rfl rfl fun j => congrArg₂ (minMaxFp g false false) (a_eq j) (b_eq j),
      word _ _ _ _ rfl rfl fun j => congrArg₂ (minMaxFp g true false) (a_eq j) (b_eq j),
      word _ _ _ _ rfl rfl fun j => congrArg (divFp fp32 (rd j) (.fin false 1 0)) (single j),
      word _ _ _ _ rfl rfl fun j => congrArg (rsqrtFp fp32 (rd j)) (single j),
      word _ _ _ _ rfl rfl fun j => congrArg (exp2Fp fp32 (rd j)) (single j),
      word _ _ _ _ rfl rfl fun j => congrArg (log2Fp fp32 (rd j)) (single j), ?convert, ?compare⟩
    case convert =>
      refine word _ _ _ _ rfl rfl fun j => congrArg (convertLane src dst (rd j)) ?_
      by_cases source : src.width = 64
      · have place : (if wide ∧ src.width ≠ 64 then 2 * j else j) = j := if_neg fun h => h.2 source
        rw [place, source]
        exact (if_pos rfl).trans (elems ..)
      · have place : posLane (if wide then 64 else max src.width dst.width) j = if wide ∧ src.width ≠ 64 then 2 * j else j := by
          by_cases pair : wide = true
          · rw [if_pos pair, if_pos ⟨pair, source⟩]
            rfl
          · have narrow : max src.width dst.width ≠ 64 := by
              have target : dst.width ≠ 64 := fun e => pair (by simp [wide, e])
              rcases max_choice src.width dst.width with e | e <;> rw [e] <;> assumption
            rw [if_neg pair, if_neg fun h => pair h.1, posLane, if_neg narrow]
        rw [← place]
        exact (if_neg source).trans (elems ..)
    case compare =>
      intro flags raises
      refine vcmp_ends (w := wv) claim rfl (fun j => ?_) flags raises
      rw [elems, elems]
      refine (compareLane_eq v.ty v.cond fun single => ?_).trans rfl
      have narrow : wv = 32 := if_neg single
      have low (i : Nat) : elem wv i j < 2 ^ 32 := by
        rw [narrow]
        exact Nat.mod_lt _ (by decide)
      exact ⟨low _, low _⟩
  case reductions =>
    intro x s m f claim format mode es ends fold
    have fmt := redFormat_eq format
    obtain ⟨op, meaning, run⟩ := vredAdd_run claim fmt mode
    have least (i : Instr) (isMax : Bool) {w : Word32} (encoded : encode i = some w)
        (meaning : exec i = runOp (reduceMinMax i x isMax)) : ends i (fold isMax) := by
      have value : redMinMax f isMax es = fold isMax := by rw [redMinMax, infResult_eq]
      rw [← value]
      exact finishScalar_ends encoded meaning (reduceMinMax_run i isMax claim fmt)
    refine ⟨fun none => ?_, fun some_ => ?_, least _ false rfl rfl, least _ true rfl rfl⟩
    · have empty : es.isEmpty = true := List.isEmpty_iff.mpr none
      have run : op s = finishScalar (.vredAdd x) x.st x.d _ _ s := run
      rw [if_pos empty] at run
      exact finishScalar_ends (r := ⟨0, 0⟩) rfl meaning run
    · have filled : ¬ es.isEmpty = true := by simpa using some_
      have run : op s = finishScalar (.vredAdd x) x.st x.d _ _ s := run
      rw [if_neg filled] at run
      exact finishScalar_ends (r := sumFp f m (es.map (unpack f))) rfl meaning run
  case memory =>
    intro x s s1 s2 a b local_ st p bs claim ra rb same1 same2 l acts place loads stores loaded stored unit item
    have claimed {z : State} (same : z.cur.vlanes = s.cur.vlanes) : z.cur.vlanes ≠ 0 := by rwa [same]
    have claimed {z : State} (first : st 0 = z) (same : z.cur.vlanes = s.cur.vlanes) : (st 0).cur.vlanes ≠ 0 := by
      rwa [first, same]
    have lanes {z : State} (first : st 0 = z) (same : z.cur.vlanes = s.cur.vlanes) : (st 0).cur.vlanes.toNat = l := by
      rw [first, same]
    have index : gatherAddress a x.b = item := by
      funext c j
      have wide : w64 (lane c x.b.toNat j) = (laneBits c x.b.toNat j).setWidth 64 :=
        BitVec.eq_of_toNat_eq (by simp [w64, lane, laneBits, laneKey])
      rw [gatherAddress, wide]
    have units {f : W → W → Op Unit} : (do
        let _ ← needClaim
        let a ← readSel x.a
        let b ← readSel x.b
        f a b : Op Unit) s = f a b s2 :=
      (bind_of_gives (needClaim_run claim)).trans ((bind_of_gives ra).trans (bind_of_gives rb))
    have items {f : W → Op Unit} : (do
        let _ ← needClaim
        let a ← readSel x.a
        f a : Op Unit) s = f a s1 :=
      (bind_of_gives (needClaim_run claim)).trans (bind_of_gives ra)
    refine ⟨fun first => ?_, fun far first => ?_⟩
    · have claim' := claimed first same2
      have lanes' := lanes first same2
      subst first
      cases local_ with
      | false => exact ⟨vectorLoad_ends (i := .vld x) claim' lanes' rfl rfl units,
          vectorStore_ends (i := .vst x) claim' lanes' rfl rfl units⟩
      | true => exact ⟨vectorLoad_ends (i := .vlds x) claim' lanes' rfl rfl units,
          vectorStore_ends (i := .vsts x) claim' lanes' rfl rfl units⟩
    · have claim' := claimed first same1
      have lanes' := lanes first same1
      subst first far
      exact ⟨vectorLoad_ends claim' lanes' rfl (op := _) rfl (by rw [← index]; exact items),
        vectorStore_ends claim' lanes' rfl (op := _) rfl (by rw [← index]; exact items)⟩

end Sys2Proof.Machine
end

section
/-!
PROOF. The values of exact cells: their addition, what XADD adds, and the read-out (R152, R153, R156, R157, R200; O38).
-/
namespace Sys2Proof.Machine

/-! ### CellAdd (R156) -/

theorem accBits_eq (k : CellKind) : accBits k = if k = .xa32 then 504 else 2552 := by cases k <;> rfl

theorem cellExp_eq (k : CellKind) : cellExp k = if k = .xa32 then -149 else -1074 := by cases k <;> rfl

/-- A sum wrapped to an accumulator is that two's complement number. -/
theorem sextNat_wrap {w : Nat} (some_ : 0 < w) (t : Int) : sextNat w (t % 2 ^ w).toNat = (BitVec.ofInt w t).toInt := by
  rw [← sextNat_toNat some_, BitVec.toNat_ofInt]
  push_cast
  rfl

theorem cellAdd_inside (k : CellKind) (c v : CellValue) (least : -(2 ^ (accBits k - 1)) ≤ c.acc + v.acc)
    (most : c.acc + v.acc < 2 ^ (accBits k - 1)) : cellAdd k c v = ⟨c.acc + v.acc, c.flags ||| v.flags⟩ := by
  have some_ : 0 < accBits k := by cases k <;> decide
  have whole : (BitVec.ofInt (accBits k) (c.acc + v.acc)).toInt = c.acc + v.acc :=
    BitVec.toInt_ofInt_eq_self some_ least most
  simp only [cellAdd]
  rw [sextNat_wrap some_, whole, decide_eq_false (not_lt.mpr least), decide_eq_false (not_le.mpr most)]
  simp

theorem cellAdd_outside (k : CellKind) (c v : CellValue)
    (out : ¬ (-(2 ^ (accBits k - 1)) ≤ c.acc + v.acc ∧ c.acc + v.acc < 2 ^ (accBits k - 1))) :
    (cellAdd k c v).flags = c.flags ||| v.flags ||| 8 ∧ (2 ^ accBits k : Int) ∣ (cellAdd k c v).acc - (c.acc + v.acc) ∧
      -(2 ^ (accBits k - 1)) ≤ (cellAdd k c v).acc ∧ (cellAdd k c v).acc < 2 ^ (accBits k - 1) := by
  have some_ : 0 < accBits k := by cases k <;> decide
  have passes : (decide (c.acc + v.acc < -(2 ^ (accBits k - 1))) || decide (2 ^ (accBits k - 1) ≤ c.acc + v.acc)) = true := by
    rw [Bool.or_eq_true, decide_eq_true_eq, decide_eq_true_eq]
    omega
  have acc : (cellAdd k c v).acc = (BitVec.ofInt (accBits k) (c.acc + v.acc)).toInt := sextNat_wrap some_ _
  refine ⟨?_, ?_, ?_, ?_⟩
  · simp only [cellAdd]
    rw [passes]
    rfl
  · rw [acc, BitVec.toInt_ofInt]
    exact_mod_cast Int.dvd_bmod_sub_self
  · rw [acc]
    exact BitVec.le_toInt _
  · rw [acc]
    exact BitVec.toInt_lt

/-! ### What XADD adds (R152, R153, R200) -/

theorem addend_kind (fmt : BitVec 3) (b : W) : (addend fmt b).1 = .xa64 ↔ fmt = 0 := by
  rcases eightCodes fmt with rfl | rfl | rfl | rfl | rfl | rfl | rfl | rfl <;> simp [addend]

/-- No bit of an addend lies below bit 0 of its cell. -/
theorem addend_fine {fmt : BitVec 3} {b : W} {n : Bool} {m : Nat} {e : Int} (value : (addend fmt b).2 = .fin n m e) :
    cellExp (addend fmt b).1 ≤ e := by
  have floats {f : FpFmt} (format : f ∈ [fp64, fp32, fp16, bf16]) (value : unpack f b.toNat = .fin n m e) :
      f.emin - (f.prec - 1 : ℕ) ≤ e := ((FpFmt.usual format).unpack_fin value).2.2
  have integer {v : Int} (value : intVal v = .fin n m e) : cellExp .xa32 ≤ e := by
    unfold intVal at value
    split at value
    · cases value
    · cases value
      decide
  have element (value : elementVal b.toNat = .fin n m e) : cellExp .xa32 ≤ e := by
    unfold elementVal at value
    dsimp only at value
    split at value
    · cases value
    · cases value
      unfold cellExp
      dsimp only
      omega
  rcases eightCodes fmt with rfl | rfl | rfl | rfl | rfl | rfl | rfl | rfl
  · exact floats (f := fp64) (by simp) value
  · exact floats (f := fp32) (by simp) value
  · exact le_trans (show cellExp .xa32 ≤ _ by decide) (floats (f := fp16) (by simp) value)
  · exact le_trans (show cellExp .xa32 ≤ _ by decide) (floats (f := bf16) (by simp) value)
  · exact integer value
  · exact element value
  · exact element value
  · exact element value

/-- The special values of an addend set their flag alone. -/
theorem contribution_special (k : CellKind) (x : FpVal) : (x.isNan = true → contribution k x = ⟨0, 4⟩) ∧
    (x = .inf false → contribution k x = ⟨0, 1⟩) ∧ (x = .inf true → contribution k x = ⟨0, 2⟩) := by
  refine ⟨fun nan => ?_, fun inf => by rw [inf]; rfl, fun inf => by rw [inf]; rfl⟩
  cases x with
  | nan _ => rfl
  | _ => cases nan

/-- The codes of the floating-point formats. -/
theorem floatCodes {fmt : BitVec 3} (float : fmt.toNat < 4) : fmt = 0 ∨ fmt = 1 ∨ fmt = 2 ∨ fmt = 3 := by
  revert fmt
  decide

theorem addend_float {fmt : BitVec 3} (float : fmt.toNat < 4) (b : W) :
    (addend fmt b).2 = unpack (fmtOf (BitVec.ofNat 2 fmt.toNat)) b.toNat := by
  rcases floatCodes float with rfl | rfl | rfl | rfl <;> rfl

theorem contribution_real {k : CellKind} {x : FpVal} {v : ℝ} (real : IsReal x v) (fine : ∀ n m e, x = .fin n m e → cellExp k ≤ e) :
    (contribution k x).flags = 0 ∧ ((contribution k x).acc : ℝ) * (2 : ℝ) ^ cellExp k = v := by
  have units := inUnits_real real fine
  cases x with
  | nan _ => exact real.elim
  | inf _ => exact real.elim
  | zero _ =>
    refine ⟨rfl, ?_⟩
    have zero : v = 0 := real
    simp [contribution, zero]
  | fin n m e => exact ⟨rfl, units⟩

/-! ### Read-out (R157) -/

/-- A cell's flags that leave no value. -/
def cellInvalid (c : CellValue) : Bool := c.flags.getLsbD 2 || c.flags.getLsbD 3 || (c.flags.getLsbD 0 && c.flags.getLsbD 1)

/-- The value of a cell: its flags first, then its accumulator. -/
def cellVal (k : CellKind) (c : CellValue) : FpVal :=
  if cellInvalid c then .nan true else if c.flags.getLsbD 0 then .inf false else if c.flags.getLsbD 1 then .inf true
  else if c.acc = 0 then .zero false else .fin (decide (c.acc < 0)) c.acc.natAbs (cellExp k)

section
variable (k : CellKind) (c : CellValue) {fmt : BitVec 3} (m : RMode)

theorem readOut_float (float : fmt.toNat < 4) : readOut k c fmt m =
    (BitVec.ofNat 64 (roundVal (fmtOf (BitVec.ofNat 2 fmt.toNat)) ⟨m, 0⟩ (cellVal k c)).bits,
      (roundVal (fmtOf (BitVec.ofNat 2 fmt.toNat)) ⟨m, 0⟩ (cellVal k c)).flags) := by
  simp only [readOut, bitOf_toNat]
  rcases floatCodes float with rfl | rfl | rfl | rfl <;> rfl

theorem readOut_integer (integer : 4 ≤ fmt.toNat) (known : fmt.toNat < 6) : readOut k c fmt m =
    (BitVec.ofInt 64 (toIntFp ⟨if fmt = 4 then 32 else 64, true⟩ ⟨m, 0⟩ (cellVal k c)).val,
      (toIntFp ⟨if fmt = 4 then 32 else 64, true⟩ ⟨m, 0⟩ (cellVal k c)).flags) := by
  have formats : fmt = 4 ∨ fmt = 5 := by
    revert fmt
    decide
  simp only [readOut, bitOf_toNat]
  rcases formats with rfl | rfl <;> rfl

variable {k c m}

theorem cellVal_invalid (invalid : cellInvalid c = true) : cellVal k c = .nan true := if_pos invalid

theorem cellVal_positive (valid : ¬ cellInvalid c = true) (inf : c.flags.getLsbD 0 = true) : cellVal k c = .inf false := by
  rw [cellVal, if_neg valid, if_pos inf]

theorem cellVal_negative (valid : ¬ cellInvalid c = true) (inf : c.flags.getLsbD 1 = true) : cellVal k c = .inf true := by
  have other : ¬ c.flags.getLsbD 0 = true := fun first => valid (by simp [cellInvalid, first, inf])
  rw [cellVal, if_neg valid, if_neg other, if_pos inf]

theorem cellVal_clean (clean : c.flags = 0) : cellVal k c =
    if c.acc = 0 then .zero false else .fin (decide (c.acc < 0)) c.acc.natAbs (cellExp k) := by
  simp [cellVal, cellInvalid, clean]

end

/-- The conversion of a nonzero value to a signed integer: the rounded value, or the limit it passes (R169). -/
theorem toIntFp_fin {kind : IntKind} (signed : kind.signed = true) (r : Rounding) (n : Bool) {m : Nat} (e : Int) (pos : 0 < m) :
    ∃ j : ℤ, let u : ℤ := (if n then -1 else 1) * j
      RoundsTo r n (m * 2 ^ e) j ∧ (u < kind.lo → toIntFp kind r (.fin n m e) = ⟨kind.lo, flagNV⟩) ∧
      (kind.hi < u → toIntFp kind r (.fin n m e) = ⟨kind.hi, flagNV⟩) ∧
      (kind.lo ≤ u → u ≤ kind.hi → ((j : ℝ) = m * 2 ^ e → toIntFp kind r (.fin n m e) = ⟨u, 0⟩) ∧
        ((j : ℝ) ≠ m * 2 ^ e → toIntFp kind r (.fin n m e) = ⟨u, flagNX⟩)) := by
  obtain ⟨rounds, inexact⟩ := roundUnits_roundsTo (q := 0) r n (stands_exact pos e) nofun
  have saturates := saturate_eq kind r n m e
  rw [zpow_zero, div_one] at rounds
  rw [zpow_zero, mul_one] at inexact
  generalize roundUnits r n m e false 0 = u at *
  dsimp only at saturates
  have order : kind.lo ≤ kind.hi := by
    have : (0 : ℤ) < 2 ^ (kind.width - 1) := by positivity
    simp only [IntKind.lo, IntKind.hi, signed, if_true]
    omega
  refine ⟨u.1, rounds, fun below => saturates.trans (if_pos below),
    fun above => saturates.trans ((if_neg (not_lt.mpr (order.trans above.le))).trans (if_pos above)), fun least most => ?_⟩
  have inside := saturates.trans ((if_neg (not_lt.mpr least)).trans (if_neg (not_lt.mpr most)))
  refine ⟨fun whole => ?_, fun part => ?_⟩
  · rw [inside, if_neg (fun more => inexact.mp more (by exact_mod_cast whole))]
  · rw [inside, if_pos (inexact.mpr (by exact_mod_cast part))]

section
variable {k : CellKind} {c : CellValue} {fmt : BitVec 3} {m : RMode}

/-- The real value of a cell without flags, apart from its sign. -/
theorem cell_size (some_ : c.acc ≠ 0) : 0 < c.acc.natAbs ∧
    (c.acc.natAbs : ℝ) * 2 ^ cellExp k = |(c.acc : ℝ)| * (2 : ℝ) ^ (if k = .xa32 then (-149 : ℤ) else -1074) := by
  rw [← cellExp_eq, Nat.cast_natAbs, Int.cast_abs]
  exact ⟨Int.natAbs_pos.mpr some_, rfl⟩

/-- A read-out into a floating-point format. -/
theorem readOut_floats (float : fmt.toNat < 4) :
    let f := fmtOf (BitVec.ofNat 2 fmt.toNat)
    (cellInvalid c = true → readOut k c fmt m = (BitVec.ofNat 64 f.nanBits, flagNV)) ∧
    (¬ cellInvalid c = true → c.flags.getLsbD 0 = true → readOut k c fmt m = (BitVec.ofNat 64 f.infBits, 0)) ∧
    (¬ cellInvalid c = true → c.flags.getLsbD 1 = true → readOut k c fmt m = (BitVec.ofNat 64 (f.infBits + f.signBit), 0)) ∧
    (c.flags = 0 → c.acc = 0 → readOut k c fmt m = (0, 0)) ∧
    (c.flags = 0 → c.acc ≠ 0 → ∃ res, readOut k c fmt m = (BitVec.ofNat 64 res.bits, res.flags) ∧
      IsRound f ⟨m, 0⟩ (decide (c.acc < 0)) (|(c.acc : ℝ)| * (2 : ℝ) ^ (if k = .xa32 then (-149 : ℤ) else -1074)) res) := by
  intro f
  rw [readOut_float k c m float]
  refine ⟨fun invalid => ?_, fun valid inf => ?_, fun valid inf => ?_, fun clean zero => ?_, fun clean some_ => ⟨_, rfl, ?_⟩⟩
  · rw [cellVal_invalid invalid]
    rfl
  · rw [cellVal_positive valid inf]
    simp [roundVal, infResult_eq, f]
  · rw [cellVal_negative valid inf]
    simp [roundVal, infResult_eq, f]
  · rw [cellVal_clean clean, if_pos zero]
    simp [roundVal, zeroResult, FpResult.clean, b1]
  · obtain ⟨pos, size⟩ := cell_size (k := k) some_
    rw [cellVal_clean clean, if_neg some_, ← size]
    exact (fmtOf_usual _).roundFp_isRound _ _ (stands_exact pos _) nofun

/-- A read-out into a signed integer. -/
theorem readOut_integers (integer : 4 ≤ fmt.toNat) (known : fmt.toNat < 6) :
    let n := if fmt = 4 then 32 else 64
    let lo : ℤ := -(2 ^ (n - 1))
    let hi : ℤ := 2 ^ (n - 1) - 1
    let gives (v : ℤ) (fl : BitVec 5) : Prop := readOut k c fmt m = (BitVec.ofInt 64 v, fl)
    (cellInvalid c = true → gives 0 flagNV) ∧ (¬ cellInvalid c = true → c.flags.getLsbD 0 = true → gives hi flagNV) ∧
    (¬ cellInvalid c = true → c.flags.getLsbD 1 = true → gives lo flagNV) ∧ (c.flags = 0 → c.acc = 0 → gives 0 0) ∧
    (c.flags = 0 → c.acc ≠ 0 → ∃ j : ℤ,
      let a : ℝ := |(c.acc : ℝ)| * (2 : ℝ) ^ (if k = .xa32 then (-149 : ℤ) else -1074)
      let u : ℤ := (if c.acc < 0 then -1 else 1) * j
      RoundsTo ⟨m, 0⟩ (decide (c.acc < 0)) a j ∧ (u < lo → gives lo flagNV) ∧ (hi < u → gives hi flagNV) ∧
        (lo ≤ u → u ≤ hi → ((j : ℝ) = a → gives u 0) ∧ ((j : ℝ) ≠ a → gives u flagNX))) := by
  intro n lo hi gives
  have read {v : ℤ} {fl : BitVec 5} (value : toIntFp ⟨n, true⟩ ⟨m, 0⟩ (cellVal k c) = ⟨v, fl⟩) : gives v fl := by
    change readOut k c fmt m = _
    rw [readOut_integer k c m integer known]
    simp only [n] at value
    rw [value]
  refine ⟨fun invalid => read ?_, fun valid inf => read ?_, fun valid inf => read ?_, fun clean zero => read ?_, fun clean some_ => ?_⟩
  · rw [cellVal_invalid invalid]
    rfl
  · rw [cellVal_positive valid inf]
    rfl
  · rw [cellVal_negative valid inf]
    rfl
  · rw [cellVal_clean clean, if_pos zero]
    rfl
  · obtain ⟨pos, size⟩ := cell_size (k := k) some_
    have value : cellVal k c = .fin (decide (c.acc < 0)) c.acc.natAbs (cellExp k) := by
      rw [cellVal_clean clean, if_neg some_]
    obtain ⟨j, rounds, below, above, inside⟩ := toIntFp_fin (kind := ⟨n, true⟩) rfl ⟨m, 0⟩ (decide (c.acc < 0)) (cellExp k) pos
    rw [size] at rounds inside
    simp only [decide_eq_true_eq] at below above inside
    rw [← value] at below above inside
    exact ⟨j, rounds, fun low => read (below low), fun high => read (above high), fun least most =>
      ⟨fun whole => read ((inside least most).1 whole), fun part => read ((inside least most).2 part)⟩⟩

end

end Sys2Proof.Machine
end

section
/-!
PROOF. Cell words at issue, and the combining tree (R199 to R202, R399, R462; O38).
-/
namespace Sys2Proof.Machine

/-! ### Issue -/

section
variable {s s1 s2 s3 s4 : State} {a b : W} {pa : Nat} {k : CellKind}

theorem shipCell_run {tag : Nat} {dest : Dest} {word : Nat} {op : CellOp} (evict : Gives (evictCell pa k) s () s1) :
    shipCell tag dest a pa k word op s = .ok ((), emit s1 (.homeCellOperation
      ⟨s1.turn, tag, dest, s1.cur.gpc, a.setWidth 56, pa, BitVec.ofNat 32 word, op⟩)) := bind_of_gives evict

/-- A committing cell word is shipped to the cell's home behind its checks. -/
theorem cellWord_run {i : Instr} {st : BitVec 3} {f : Sel} {align : Nat} {kind : Option CellKind} {op : CellOp} (may : MayCommit s)
    (ra : Reads s f a s1) (place : Gives (cellPlace align a kind) s1 (pa, k) s2)
    (evict : Gives (evictCell pa k) { s2 with tags := s2.tags + 1 } () s3) :
    (do
      commitPlace i
      let a ← readSel f
      let (pa, k) ← cellPlace align a kind
      shipCell (← freshTag) .none a pa k 0 op
      finishCommit st : Op Unit) s = .ok ((), committed st (emit s3 (.homeCellOperation
        ⟨s3.turn, s2.tags, .none, s3.cur.gpc, a.setWidth 56, pa, 0, op⟩))) := by
  refine (bind_of_gives (commitPlace_run i may)).trans ((bind_of_gives ra).trans ((bind_of_gives place).trans ?_))
  have tag : Gives freshTag s2 s2.tags { s2 with tags := s2.tags + 1 } := rfl
  exact (bind_of_gives tag).trans (bind_of_gives (shipCell_run evict))

theorem xread_run {x : Xread} {w : Word32} {tag : Nat} {dest : Dest} (word : encode (.xread x) = some w) (ra : Reads s x.a a s1)
    (place : Gives (cellPlace 64 a none) s1 (pa, k) s2) (reserves : Reserves s2 x.d tag dest s3)
    (evict : Gives (evictCell pa k) s3 () s4) : exec (.xread x) s = .next (issued x.st (emit s4
      (.homeCellOperation ⟨s4.turn, tag, dest, s4.cur.gpc, a.setWidth 56, pa, w, .read x.fmt x.mode⟩))) := by
  have number : BitVec.ofNat 32 (wordOf (.xread x)) = w := by simp [wordOf, word]
  rw [← number]
  exact runOp_ok ((bind_of_gives ra).trans ((bind_of_gives place).trans ((bind_of_gives reserves).trans
    (bind_of_gives (shipCell_run evict)))))

theorem xadd_run {x : Xadd} (may : MayCommit s) (ra : Reads s x.a a s1) (rb : Reads s1 x.b b s2) (kind : (addend x.fmt b).1 = k)
    {s5 : State} (address : Gives (cellAddress (if k = .xa64 then 512 else 64) a) s2 pa s3)
    (settled : Gives (settleAppends pa k) s3 () s4) (evict : Gives (evictCell pa k) s4 () s5) :
    exec (.xadd x) s = .next (committed x.st (mergeContribution s5 (routerOf (agentOf s5.turn)) s5.cur.ctx pa (a.setWidth 56)
      s5.cur.gpc k (contribution k (addend x.fmt b).2))) := by
  subst kind
  exact runOp_ok ((bind_of_gives (commitPlace_run _ may)).trans ((bind_of_gives ra).trans ((bind_of_gives rb).trans
    ((bind_of_gives address).trans ((bind_of_gives settled).trans ((bind_of_gives evict).trans (bind_of_gives (modify_run ..))))))))

end

/-! ### The combining tree (R399) -/

section
variable (s : State) (router pa : Nat) (ctx : BitVec 16) (va tpc : Addr) (k : CellKind) (v : CellValue)

/-- Whether an open entry is that of a contribution's cell, context and frame at its router. -/
def sameEntry (e : Combine) : Bool :=
  decide (e.router = router ∧ e.ctx = ctx ∧ e.frame = s.module.frame ∧ canonPa e.pa = canonPa pa ∧ e.kind = k)

theorem sameEntry_eq (e : Combine) : (e.router == router && e.ctx == ctx && e.frame == s.module.frame &&
    canonPa e.pa == canonPa pa && e.kind == k) = sameEntry s router pa ctx k e := by
  simp only [sameEntry, Bool.decide_and, beq_eq_decide, Bool.and_assoc]

/-- An entry with a contribution added. -/
def joinEntry (e : Combine) : Combine :=
  { e with
    acc := (cellAdd k ⟨e.acc, e.flags⟩ v).acc
    flags := (cellAdd k ⟨e.acc, e.flags⟩ v).flags
    from_ := e.from_ ++ [⟨s.turn, ⟨tpc, s.tags⟩, s.cur.sup, va⟩] }

/-- The entry that a contribution opens. -/
def openedEntry : Combine :=
  ⟨router, ctx, s.module.frame, s.tick, pa, k, v.acc, v.flags, [⟨s.turn, ⟨tpc, s.tags⟩, s.cur.sup, va⟩]⟩

theorem mergeContribution_joins (some_ : ∃ e ∈ s.combine, sameEntry s router pa ctx k e = true) :
    mergeContribution s router ctx pa va tpc k v = { s with
      combine := s.combine.map fun e => if sameEntry s router pa ctx k e then joinEntry s va tpc k v e else e
      tags := s.tags + 1 } := by
  have any : s.combine.any (fun e => sameEntry s router pa ctx k e) = true := List.any_eq_true.mpr some_
  unfold mergeContribution
  simp only [sameEntry_eq, any, if_true]
  rfl

variable (none_ : ∀ e ∈ s.combine, sameEntry s router pa ctx k e = false)
include none_

theorem mergeContribution_opens (room : (s.combine.filter fun e => e.router == router).length < 32) :
    mergeContribution s router ctx pa va tpc k v =
      { s with combine := s.combine ++ [openedEntry s router pa ctx va tpc k v], tags := s.tags + 1 } := by
  have any : s.combine.any (fun e => sameEntry s router pa ctx k e) = false := List.any_eq_false.mpr fun e mem => by simp [none_ e mem]
  unfold mergeContribution
  simp only [sameEntry_eq, any, Bool.false_eq_true, if_false, room, if_true]
  rfl

theorem mergeContribution_forwards {e : Combine} {rest : List Combine}
    (full : 32 ≤ (s.combine.filter fun e => e.router == router).length)
    (oldest : (s.combine.filter fun e => e.router == router) = e :: rest) :
    mergeContribution s router ctx pa va tpc k v = { emit s (.combineForward router e.id) with
      combine := s.combine ++ [openedEntry s router pa ctx va tpc k v], tags := s.tags + 1 } := by
  have any : s.combine.any (fun e => sameEntry s router pa ctx k e) = false := List.any_eq_false.mpr fun e mem => by simp [none_ e mem]
  have crowded : ¬ (e :: rest).length < 32 := by
    rw [← oldest]
    omega
  unfold mergeContribution
  simp only [sameEntry_eq, any, Bool.false_eq_true, if_false, oldest, crowded]
  rfl

end

/-- An entry that goes on leaves its router as one packet to the cell's home. -/
theorem combineForward_run {router : Nat} {s : State} {e : Combine} {f : Contributor} {rest : List Contributor} (mem : e ∈ s.combine)
    (here : e.router = router) (contributors : e.from_ = f :: rest)
    (only : ∀ e' ∈ s.combine, e'.router = router → e'.id = e.id → e' = e) :
    exec (.combineForward router e.id) s = .next (emit { s with combine := s.combine.erase e }
      (.homeCellOperation ⟨f.h, 0, .none, f.op.tpc, f.va, e.pa, 0, .partial_ e.kind e.acc e.flags e.from_⟩)) := by
  have found : s.combine.find? (fun e' => e'.router == router && e'.id == e.id) = some e := by
    cases search : s.combine.find? (fun e' => e'.router == router && e'.id == e.id) with
    | none => exact absurd (List.find?_eq_none.mp search e mem) (by simp [here])
    | some e' =>
      have same := List.find?_some search
      rw [Bool.and_eq_true, beq_iff_eq, beq_iff_eq] at same
      rw [only e' (List.mem_of_find?_eq_some search) same.1 same.2]
  have eq : exec (.combineForward router e.id) s = execCombineForward router e.id s := rfl
  rw [eq, execCombineForward, found]
  simp only [contributors]
  rfl

end Sys2Proof.Machine
end

section
/-!
PROOF. A cell's bytes at their home: the lines that leave an L1, the bytes written, and the bytes read back (R155, R309, R311;
O38).
-/
namespace Sys2Proof.Machine

/-! ### Lines that leave the issuer's L1 (R309, R311) -/

/-- From one state to another, lines of a core's L1 have left it, the dirty ones written back. -/
structure LinesLeft (core : Nat) (s t : State) : Prop where
  canonical : t.memOk = true
  lines : ∀ l ∈ (coreOf t core).l1, l ∈ (coreOf s core).l1
  written : WrittenBackOnly s t core

theorem LinesLeft.refl (core : Nat) {s : State} (canonical : s.memOk = true) : LinesLeft core s s :=
  ⟨canonical, fun _ mem => mem, fun _ differs => absurd rfl differs⟩

theorem LinesLeft.trans {core : Nat} {s t u : State} (h : LinesLeft core s t) (g : LinesLeft core t u) : LinesLeft core s u := by
  refine ⟨g.canonical, fun l mem => h.lines l (g.lines l mem), fun ca differs => ?_⟩
  by_cases later : memGet u.mem ca = memGet t.mem ca
  · rw [later] at differs ⊢
    exact h.written ca differs
  · obtain ⟨l, mem, written⟩ := g.written ca later
    exact ⟨l, h.lines l mem, written⟩

theorem linesLeft_evictOf {s : State} (h : HartId) (ca n : Nat) (canonical : s.memOk = true) :
    LinesLeft (agentOf h) s (evictOf s h ca n) := by
  refine ⟨evictOf_memOk _ _ _ canonical, fun l mem => ?_, evictOf_writtenBackOnly h ca n canonical⟩
  by_cases core : kindOf h = .core
  · obtain ⟨hit, -, e⟩ := evictOf_eq s h ca n core
    rw [e, coreOf, foldl_kept State.cores _ writeBack_cores] at mem
    exact (List.mem_filter.1 (congrArg Core.l1 (coreOf_setCore_self s (agentOf h) _) ▸ mem)).1
  · rwa [evictOf, if_neg core] at mem

section
variable (s : State) (h : HartId) (pa : Nat) (k : CellKind)

theorem linesLeft_evictCellOf {s : State} (canonical : s.memOk = true) : LinesLeft (agentOf h) s (evictCellOf s h pa k) := by
  unfold evictCellOf
  generalize cellPieces pa k = ps
  induction ps generalizing s with
  | nil => exact .refl _ canonical
  | cons q ps ih =>
    have first := linesLeft_evictOf h q.1 q.2 canonical
    exact first.trans (ih first.canonical)

theorem stored_evictCellOf : Stored s (evictCellOf s h pa k) := .foldl (fun _ _ => stored_evictOf ..) _ _

theorem evictCellOf_pools : (evictCellOf s h pa k).pools = s.pools := foldl_kept State.pools _ (fun _ _ => evictOf_pools ..) _ _

end

theorem Stored.cells {s t : State} (h : Stored s t) : t.cells = s.cells := by
  obtain ⟨_, _, _, _, _, _, _, _, _, _, e⟩ := h.kept
  rw [e]

theorem Stored.tick {s t : State} (h : Stored s t) : t.tick = s.tick := by
  obtain ⟨_, _, _, _, _, _, _, _, _, _, e⟩ := h.kept
  rw [e]

theorem cellAt_of_eq {s t : State} (cells : t.cells = s.cells) (pa : Nat) : cellAt t pa = cellAt s pa := by
  rw [cellAt, cells, cellAt]

/-! ### Pieces (R155, R327) -/

theorem unitPieces_none (fuel pa : Nat) : unitPieces fuel pa 0 = [] := by cases fuel <;> rfl

theorem unitPieces_some {fuel pa n : Nat} (some_ : n ≠ 0) : unitPieces (fuel + 1) pa n =
    (canonPa pa, min n (256 - pa % 256)) :: unitPieces fuel (pa + min n (256 - pa % 256)) (n - min n (256 - pa % 256)) := by
  rw [unitPieces, if_neg some_]

theorem unitPieces_sum (fuel pa n : Nat) : ((unitPieces fuel pa n).map Prod.snd).sum ≤ n := by
  induction fuel generalizing pa n with
  | zero => simp [unitPieces]
  | succ fuel ih =>
    by_cases some_ : n = 0
    · simp [some_, unitPieces_none]
    · rw [unitPieces_some some_, List.map_cons, List.sum_cons]
      have := ih (pa + min n (256 - pa % 256)) (n - min n (256 - pa % 256))
      omega

/-! ### Bytes written (R309) -/

/-- A memory after bytes are written piece by piece. -/
def memPieces (m : Memory) (ps : List (Nat × Nat)) (bs : List Byte) : Memory :=
  (ps.foldl (fun (acc : Memory × List Byte) q => (memWrite acc.1 q.1 (acc.2.take q.2), acc.2.drop q.2)) (m, bs)).1

theorem memPieces_cons (m : Memory) (q : Nat × Nat) (ps : List (Nat × Nat)) (bs : List Byte) :
    memPieces m (q :: ps) bs = memPieces (memWrite m q.1 (bs.take q.2)) ps (bs.drop q.2) := rfl

/-- Whether an address lies in one of the pieces. -/
def inPieces (ps : List (Nat × Nat)) (p : Nat) : Bool := ps.any fun q => decide (q.1 ≤ p ∧ p < q.1 + q.2)

theorem memPieces_outside {m : Memory} (wf : Memory.wf m = true) (ps : List (Nat × Nat)) (bs : List Byte) {p : Nat}
    (out : inPieces ps p = false) : memGet (memPieces m ps bs) p = memGet m p := by
  induction ps generalizing m bs with
  | nil => rfl
  | cons q ps ih =>
    rw [inPieces, List.any_cons, Bool.or_eq_false_iff, decide_eq_false_iff_not] at out
    have short : (bs.take q.2).length ≤ q.2 := List.length_take_le ..
    rw [memPieces_cons, ih (memWrite_wf _ _ wf) _ out.2, memGet_memWrite_outside _ _ _ wf (by omega)]

theorem memPieces_zeros {m : Memory} (wf : Memory.wf m = true) (ps : List (Nat × Nat)) {n : Nat}
    (fits : (ps.map Prod.snd).sum ≤ n) (p : Nat) :
    memGet (memPieces m ps (List.replicate n 0)) p = if inPieces ps p then 0 else memGet m p := by
  induction ps generalizing m n with
  | nil => rfl
  | cons q ps ih =>
    rw [List.map_cons, List.sum_cons] at fits
    have head : (List.replicate n (0 : Byte)).take q.2 = List.replicate q.2 0 := by
      rw [List.take_replicate, Nat.min_eq_left (by omega)]
    rw [memPieces_cons, head, List.drop_replicate, ih (memWrite_wf _ _ wf) (by omega), memGet_memWrite _ _ _ wf,
      List.length_replicate]
    have any : inPieces (q :: ps) p = (decide (q.1 ≤ p ∧ p < q.1 + q.2) || inPieces ps p) := rfl
    rw [any]
    by_cases later : inPieces ps p = true
    · rw [if_pos later, later, Bool.or_true, if_pos rfl]
    · rw [if_neg later, Bool.eq_false_iff.mpr later, Bool.or_false]
      by_cases here : q.1 ≤ p ∧ p < q.1 + q.2
      · rw [if_pos here, if_pos (decide_eq_true here)]
        have : p - q.1 < q.2 := by omega
        simp [this]
      · rw [if_neg here, if_neg (by simpa using here)]

section
variable (s : State) (pa : Nat) (bs : List Byte)

theorem writeCell_mem : (writeCell s pa bs).mem = memPieces s.mem (unitPieces 3 pa bs.length) bs := by
  unfold writeCell memPieces
  dsimp only
  generalize unitPieces 3 pa bs.length = ps
  induction ps generalizing s bs with
  | nil => rfl
  | cons q ps ih =>
    rw [List.foldl_cons, List.foldl_cons, ih, homeWrite_mem]

theorem writeCell_atHome : AtHome s (writeCell s pa bs) := by
  unfold writeCell
  dsimp only
  generalize unitPieces 3 pa bs.length = ps
  induction ps generalizing s bs with
  | nil => exact .refl s
  | cons q ps ih => exact (homeWrite_atHome ..).trans (ih ..)

end

/-! ### A written cell read back (R155, R327) -/

theorem canonPa_direct {pa : Nat} (direct : pa < 0x8000000000) : canonPa pa = pa := by
  unfold canonPa regionOf
  rw [if_pos direct]
  by_cases there : pa % 2 ^ 31 < 0x60000000
  · rw [if_pos there]
    exact Nat.div_add_mod' ..
  · rw [if_neg there]

theorem canonPa_interleaved {pa : Nat} (first : 0x8000000000 ≤ pa) (last : pa < 0x10000000000) :
    canonPa pa = if pa % 2 ^ 37 < 0x1800000000 then
      (64 * (pa / 2 ^ 37 % 4) + ((pa % 2 ^ 37 / 256 % 64) ^^^ (pa % 2 ^ 37 / 256 / 64 % 64))) * 2 ^ 31 +
        (pa % 2 ^ 37 / 256 / 64 * 256 + pa % 256)
    else pa := by
  unfold canonPa regionOf
  rw [if_neg (not_lt.mpr first), if_pos last]
  by_cases there : pa % 2 ^ 37 < 0x1800000000
  · rw [if_pos there, if_pos there]
  · rw [if_neg there, if_neg there]

/-- Two blocks of 256 bytes that share an aligned 512 lie apart under their canonical names. -/
theorem canonPa_apart {pa : Nat} (aligned : pa % 512 = 0) :
    canonPa pa + 256 ≤ canonPa (pa + 256) ∨ canonPa (pa + 256) + 256 ≤ canonPa pa := by
  by_cases direct : pa < 0x8000000000
  · rw [canonPa_direct direct, canonPa_direct (by omega)]
    exact .inl le_rfl
  · by_cases interleaved : pa < 0x10000000000
    · rw [canonPa_interleaved (not_lt.mp direct) interleaved, canonPa_interleaved (by omega) (by omega)]
      by_cases there : pa % 2 ^ 37 < 0x1800000000
      · rw [if_pos there, if_pos (by omega)]
        have die : (pa + 256) / 2 ^ 37 = pa / 2 ^ 37 := by omega
        have unit : (pa + 256) % 2 ^ 37 / 256 = pa % 2 ^ 37 / 256 + 1 := by omega
        have row : (pa % 2 ^ 37 / 256 + 1) / 64 = pa % 2 ^ 37 / 256 / 64 := by omega
        have column : (pa % 2 ^ 37 / 256 + 1) % 64 = pa % 2 ^ 37 / 256 % 64 + 1 := by omega
        rw [die, unit, row, column]
        have other : (pa % 2 ^ 37 / 256 % 64 + 1) ^^^ (pa % 2 ^ 37 / 256 / 64 % 64) ≠
            (pa % 2 ^ 37 / 256 % 64) ^^^ (pa % 2 ^ 37 / 256 / 64 % 64) := fun same =>
          Nat.succ_ne_self _ (Nat.xor_left_injective same)
        omega
      · rw [if_neg there, if_neg (by omega)]
        exact .inl le_rfl
    · rw [canonPa_high (not_lt.mp interleaved), canonPa_high (by omega)]
      exact .inl le_rfl

theorem memRead_memWrite_apart {m : Memory} (wf : Memory.wf m = true) {a c n : Nat} {bs : List Byte}
    (apart : a + n ≤ c ∨ c + bs.length ≤ a) : memRead (memWrite m c bs) a n = memRead m a n := by
  refine List.map_congr_left fun i mem => memGet_memWrite_outside _ _ _ wf ?_
  have := List.mem_range.mp mem
  omega

/-- A cell of 64 bytes lies in one piece. -/
theorem unitPieces_small {pa : Nat} (aligned : pa % 64 = 0) (fuel : Nat) : unitPieces (fuel + 1) pa 64 = [(canonPa pa, 64)] := by
  have whole : min 64 (256 - pa % 256) = 64 := by omega
  rw [unitPieces_some (by decide), whole, unitPieces_none]

/-- A cell of 320 bytes lies in two pieces. -/
theorem unitPieces_large {pa : Nat} (aligned : pa % 512 = 0) (fuel : Nat) :
    unitPieces (fuel + 2) pa 320 = [(canonPa pa, 256), (canonPa (pa + 256), 64)] := by
  have first : min 320 (256 - pa % 256) = 256 := by omega
  have second : min 64 (256 - (pa + 256) % 256) = 64 := by omega
  rw [unitPieces_some (by decide), first, unitPieces_some (by decide), second, unitPieces_none]

/-- What a written cell reads back. -/
theorem physRead_writeCell {s : State} (canonical : s.memOk = true) {pa : Nat} {k : CellKind}
    (aligned : pa % (if k = .xa32 then 64 else 512) = 0) {bs : List Byte} (length : bs.length = cellBytes k) :
    physRead (writeCell s pa bs) pa (cellBytes k) = bs := by
  have wf := State.memOk_mem canonical
  rw [physRead, writeCell_mem, length]
  cases k with
  | xa32 =>
    have size : cellBytes .xa32 = 64 := rfl
    rw [size] at length ⊢
    rw [unitPieces_small aligned, unitPieces_small aligned, memPieces_cons, List.take_of_length_le length.le]
    have same := memRead_memWrite_same (canonPa pa) bs wf
    rw [length] at same
    simpa [memPieces] using same
  | xa64 =>
    have size : cellBytes .xa64 = 320 := rfl
    rw [size] at length ⊢
    rw [unitPieces_large aligned, unitPieces_large aligned, memPieces_cons, memPieces_cons]
    have apart := canonPa_apart aligned
    have head : (bs.take 256).length = 256 := by simp [length]
    have tail : ((bs.drop 256).take 64).length = 64 := by simp [length]
    have first := memRead_memWrite_same (canonPa pa) (bs.take 256) wf
    have second := memRead_memWrite_same (canonPa (pa + 256)) ((bs.drop 256).take 64)
      (memWrite_wf (canonPa pa) (bs.take 256) wf)
    rw [head] at first
    rw [tail] at second
    have kept : memRead (memWrite (memWrite s.mem (canonPa pa) (bs.take 256)) (canonPa (pa + 256)) ((bs.drop 256).take 64))
        (canonPa pa) 256 = bs.take 256 :=
      (memRead_memWrite_apart (memWrite_wf _ _ wf) (by omega)).trans first
    have rest : (bs.drop 256).take 64 = bs.drop 256 := List.take_of_length_le (by simp [length])
    rw [rest] at kept second
    simp [memPieces, rest, kept, second]

theorem cellImage_length (k : CellKind) (v : CellValue) : (cellImage k v).length = cellBytes k := by
  rw [cellImage, List.length_append, natBytes_length]
  cases k <;> rfl

end Sys2Proof.Machine
end

section
/-!
PROOF. Exact cells (R153, R155 to R157, R176, R199 to R202, R399, R424, R462; O38).
-/
namespace Sys2Proof.Machine

/-! ### At the home (R199 to R202) -/

section
variable {r : CellReq} {s : State}

/-- A refused operation's failure on its way to the issuer. -/
theorem refuseCell_eq (s : State) (r : CellReq) (c : Cause) (reason : BitVec 4) : refuseCell s r c reason.toNat =
    emit s (.lateFault r.h c (accessInfo reason true 2 r.va) ⟨r.tpc, r.tag⟩) := by
  rw [← memInfo_eq_accessInfo]
  rfl

theorem refusePartial_eq (s : State) (c : Cause) (reason : BitVec 4) (f : Contributor) : refusePartial s c reason.toNat f =
    if kindOf f.h = .core ∧ f.sup = false ∧ (slotOf s f.h).sup = true then
      holdFault s f.h ⟨c, accessInfo reason true 2 f.va, f.op⟩
    else emit s (.lateFault f.h c (accessInfo reason true 2 f.va) f.op) := by
  rw [← memInfo_eq_accessInfo]
  refine if_congr ?_ rfl rfl
  simp

theorem cellCharge_eq (k : CellKind) : cellCharge k = if k = .xa32 then 64 else 512 := by cases k <;> rfl

section
variable {k : CellKind} (op : r.op = .init k) (memory : inMemory r.pa (cellBytes k) = true)
include op memory

/-- A declaration in memory behind its checks (R199). -/
theorem init_run : exec (.homeCellOperation r) s =
    let others := s.cells.filter fun c => canonPa c.1 != canonPa r.pa
    let s0 := evictCellOf s r.h r.pa k
    let here : State := { s0 with cells := others }
    if (cellPieces r.pa k).any fun q => touchesCell here q.1 q.2 then .next (refuseCell s0 r .xcell 5)
    else if 1048576 < cellLoad here (homeOf r.pa) + cellCharge k then .next (refuseCell s0 r .xcell 4)
    else if cellPoisoned s0 r.pa k then .next (refuseCell s0 r .memerr 0)
    else .next { writeCell s0 r.pa (natBytes (cellBytes k) 0) with cells := mapPut others r.pa k } := by
  have eq : exec (.homeCellOperation r) s = execHomeCellOperation r s := rfl
  rw [eq, execHomeCellOperation, op]
  simp only [memory, Bool.not_true, Bool.false_eq_true, if_false]
  rfl

end

/-- An operation on no cell. -/
theorem noCell_run (op : r.op = .clear ∨ ∃ f m, r.op = .read f m) (none_ : cellAt s r.pa = none) :
    exec (.homeCellOperation r) s = .next (refuseCell s r .xcell 1) := by
  have eq : exec (.homeCellOperation r) s = execHomeCellOperation r s := rfl
  rw [eq, execHomeCellOperation]
  rcases op with op | ⟨f, m, op⟩
  · rw [op]
    simp only [none_]
    rfl
  · rw [op]
    simp only [none_]
    rfl

section
variable {pa : Nat} {k : CellKind} (cell : cellAt s r.pa = some (pa, k))
include cell

theorem clear_run (op : r.op = .clear) : exec (.homeCellOperation r) s =
    let s0 := evictCellOf s r.h pa k
    if cellPoisoned s0 pa k then .next (refuseCell s0 r .memerr 0)
    else .next { writeCell s0 pa (natBytes (cellBytes k) 0) with cells := mapDel s0.cells pa } := by
  have eq : exec (.homeCellOperation r) s = execHomeCellOperation r s := rfl
  rw [eq, execHomeCellOperation, op]
  simp only [cell]
  rfl

theorem read_run {f : BitVec 3} {m : BitVec 3} (op : r.op = .read f m) : exec (.homeCellOperation r) s =
    let s0 := evictCellOf s r.h pa k
    let x := slotOf s0 r.h
    let v := readOut k (cellOfBytes k (physRead s0 pa (cellBytes k))) f (modeOfCode m.toNat)
    if cellPoisoned s0 pa k then .next (refuseCell s0 r .memerr 0)
    else if v.2 &&& x.fpte = 0 then
      .next (deliver (setSlot s0 r.h { x with fpflags := x.fpflags ||| v.2 }) ⟨r.h, r.tag, r.dest, v.1, 0⟩)
    else .next (setSlot s0 r.h { x with
      fpTraps := x.fpTraps ++ [⟨s0.tick, r.tpc, fpInfo r.word.toNat (v.2 &&& x.fpte) v.2, false⟩] }) := by
  have eq : exec (.homeCellOperation r) s = execHomeCellOperation r s := rfl
  rw [eq, execHomeCellOperation, op]
  simp only [cell]
  rfl

end

section
variable {k : CellKind} {acc : Int} {fl : BitVec 4} {from_ : List Contributor} {s1 : State} (op : r.op = .partial_ k acc fl from_)
  (arrived : from_.foldl (fun u f => evictCellOf u f.h r.pa k) s = s1)
include op arrived

/-- A partial sum for no cell (R156). -/
theorem partial_noCell_run (none_ : cellAt s1 r.pa = none) :
    exec (.homeCellOperation r) s = .next (from_.foldl (fun u f => refusePartial u .xcell 1 f) s1) := by
  have eq : exec (.homeCellOperation r) s = execHomeCellOperation r s := rfl
  rw [eq, execHomeCellOperation, op]
  simp only [arrived, none_]
  rfl

/-- A partial sum at a cell (R156, R200, R399). -/
theorem partial_cell_run {pa : Nat} {k' : CellKind} (cell : cellAt s1 r.pa = some (pa, k')) : exec (.homeCellOperation r) s =
    if k ≠ k' then .next (from_.foldl (fun u f => refusePartial u .xcell 2 f) s1)
    else if cellPoisoned s1 pa k then .next (from_.foldl (fun u f => refusePartial u .memerr 0 f) s1)
    else .next (writeCell s1 pa (cellImage k (cellAdd k (cellOfBytes k (physRead s1 pa (cellBytes k))) ⟨acc, fl⟩))) := by
  have eq : exec (.homeCellOperation r) s = execHomeCellOperation r s := rfl
  rw [eq, execHomeCellOperation, op]
  simp only [arrived, cell]
  rfl

end

end

/-- The bytes of a cleared cell, and every other byte. -/
theorem zeroed_bytes {s : State} (canonical : s.memOk = true) (pa : Nat) (k : CellKind) (p : Nat) :
    memGet (writeCell s pa (natBytes (cellBytes k) 0)).mem p =
      if (cellPieces pa k).any fun q => decide (q.1 ≤ p ∧ p < q.1 + q.2) then 0 else memGet s.mem p := by
  rw [writeCell_mem, natBytes_zero, List.length_replicate]
  exact memPieces_zeros (State.memOk_mem canonical) _ (unitPieces_sum ..) p

/-- Settles O38: the words at issue, the combining tree, the values, and the home's one step case by case. -/
theorem cellsAddExactly : Obligations.CellsAddExactly := by
  refine ⟨?ships, ?reads, ?adds, ?merge, ?forward, ?sum, ?addends, ?specials, ?home, ?readOut⟩
  case ships =>
    intro x s s1 s2 s3 a pa may ra ships
    exact ⟨fun place evict => runOp_ok (cellWord_run may ra place evict), fun k place evict => runOp_ok (cellWord_run may ra place evict),
      fun place evict => runOp_ok (cellWord_run may ra place evict)⟩
  case reads => exact fun x s s1 s2 s3 s4 a pa tag dest k ra place reserves evict => ⟨_, rfl, xread_run rfl ra place reserves evict⟩
  case adds =>
    intro x s s1 s2 s3 s4 a b pa may ra rb k address settled evict
    exact xadd_run may ra rb rfl address settled evict
  case merge =>
    intro s router pa ctx va tpc k v same here me opened merged joined merge
    exact ⟨fun some_ => mergeContribution_joins s router pa ctx va tpc k v some_,
      fun none_ room => mergeContribution_opens s router pa ctx va tpc k v none_ room,
      fun e rest none_ full oldest => mergeContribution_forwards s router pa ctx va tpc k v none_ full oldest⟩
  case forward => exact fun router s e f rest mem here contributors only => combineForward_run mem here contributors only
  case sum =>
    intro k c v bits r
    have width : bits = accBits k := (accBits_eq k).symm
    rw [width]
    exact ⟨cellAdd_inside k c v, cellAdd_outside k c v⟩
  case addends =>
    intro fmt b v real known k
    obtain ⟨flags, value⟩ := contribution_real (k := k) real fun n m e => addend_fine
    rw [cellExp_eq] at value
    exact ⟨addend_kind fmt b, flags, value⟩
  case specials =>
    intro fmt b float adds u
    have value : adds = contribution (addend fmt b).1 u := congrArg (contribution _) (addend_float float b)
    rw [value]
    exact contribution_special _ u
  case home =>
    intro r s canonical late
    have refused {s0 : State} {c : Cause} {reason : BitVec 4}
        (h : exec (.homeCellOperation r) s = .next (refuseCell s0 r c reason.toNat)) : late s0 c reason :=
      h.trans (congrArg _ (refuseCell_eq ..))
    refine ⟨?init, fun op none_ => refused (reason := 1) (noCell_run op none_), ?poisoned, ?clear, ?read, ?partial_⟩
    case init =>
      intro k op memory others s0 here
      have left : LinesLeft (agentOf r.h) s s0 := linesLeft_evictCellOf r.h r.pa k canonical
      have run := init_run (s := s) op memory
      rw [cellCharge_eq] at run
      refine ⟨(stored_evictCellOf ..).harts, left.written, fun meets => refused (reason := 5) (run.trans (if_pos meets)), fun apart => ?_⟩
      replace run := run.trans (if_neg (Bool.eq_false_iff.mp apart))
      refine ⟨fun full => refused (reason := 4) (run.trans (if_pos full)), fun room lost => ?_, fun room sound => ?_⟩
      · exact refused (reason := 0) (run.trans ((if_neg (not_lt.mpr room)).trans (if_pos lost)))
      · obtain ⟨m, clusters, l2, poison, events, written⟩ := writeCell_atHome s0 r.pa (natBytes (cellBytes k) 0)
        refine ⟨_, run.trans ((if_neg (not_lt.mpr room)).trans (if_neg (Bool.eq_false_iff.mp sound))), rfl, ?_,
          zeroed_bytes left.canonical r.pa k⟩
        exact (congrArg State.pools written).trans (evictCellOf_pools ..)
    case poisoned =>
      intro op pa k cell s0
      refine ⟨(stored_evictCellOf ..).harts, (linesLeft_evictCellOf r.h pa k canonical).written, fun lost => refused (reason := 0) ?_⟩
      rcases op with op | ⟨f, m, op⟩
      · exact (clear_run cell op).trans (if_pos lost)
      · exact (read_run cell op).trans (if_pos lost)
    case clear =>
      intro pa k op cell sound
      have stored := stored_evictCellOf s r.h pa k
      obtain ⟨m, clusters, l2, poison, events, written⟩ := writeCell_atHome (evictCellOf s r.h pa k) pa (natBytes (cellBytes k) 0)
      refine ⟨_, (clear_run cell op).trans (if_neg (Bool.eq_false_iff.mp sound)), ?_, ?_,
        zeroed_bytes (linesLeft_evictCellOf r.h pa k canonical).canonical pa k⟩
      · exact congrArg (mapDel · pa) stored.cells
      · exact (congrArg State.pools written).trans (evictCellOf_pools ..)
    case read =>
      intro f m pa k op cell sound s0 x v
      have run := (read_run cell op).trans (if_neg (Bool.eq_false_iff.mp sound))
      rw [fpInfo_eq, (stored_evictCellOf s r.h pa k).tick] at run
      exact ⟨fun quiet => run.trans (if_pos quiet), fun raised => run.trans (if_neg raised)⟩
    case partial_ =>
      intro k acc fl from_ op s1 refuses
      have stored : Stored s s1 := .foldl (fun _ _ => stored_evictCellOf ..) _ _
      have left : s1.memOk = true := foldl_memOk _ (fun _ _ h => evictCellOf_memOk _ _ _ h) _ _ canonical
      have kept : cellAt s1 r.pa = cellAt s r.pa := cellAt_of_eq stored.cells _
      have at_ {pa : Nat} {k' : CellKind} (cell : cellAt s r.pa = some (pa, k')) := partial_cell_run op rfl (kept.trans cell)
      have refusals (c : Cause) (reason : BitVec 4)
          (h : exec (.homeCellOperation r) s = .next (from_.foldl (fun u f => refusePartial u c reason.toNat f) s1)) :
          refuses c reason := by
        simp only [refusePartial_eq] at h
        exact h
      refine ⟨fun none_ => refusals .xcell 1 (partial_noCell_run op rfl (kept.trans none_)),
        fun pa k' cell other => refusals .xcell 2 ((at_ cell).trans (if_pos other)),
        fun pa cell lost => refusals .memerr 0 ((at_ cell).trans ((if_neg (not_not_intro rfl)).trans (if_pos lost))),
        fun pa cell sound => ?_⟩
      have run := (at_ cell).trans ((if_neg (not_not_intro rfl)).trans (if_neg (Bool.eq_false_iff.mp sound)))
      generalize image : cellImage k (cellAdd k (cellOfBytes k (physRead s1 pa (cellBytes k))) ⟨acc, fl⟩) = bs at run
      have length : bs.length = cellBytes k := image ▸ cellImage_length ..
      obtain ⟨m, clusters, l2, poison, events, written⟩ := writeCell_atHome s1 pa bs
      refine ⟨_, run, (congrArg State.cells written).trans stored.cells, (congrArg State.pools written).trans ?_, fun f one => ?_,
        fun aligned => physRead_writeCell left aligned length, fun p out => ?_⟩
      · exact foldl_kept State.pools _ (fun _ _ => evictCellOf_pools ..) _ _
      · have alone : s1 = evictCellOf s f.h r.pa k := by
          simp only [s1, one]
          rfl
        rw [alone]
        exact (linesLeft_evictCellOf f.h r.pa k canonical).written
      · rw [writeCell_mem, length]
        exact memPieces_outside (State.memOk_mem left) _ _ out
  case readOut =>
    intro k c fmt m known plain f bit invalid
    exact ⟨readOut_floats, fun integer => readOut_integers integer known⟩

end Sys2Proof.Machine
end
